-- ==== Sys2Proof/Word.lean ====
section
/-! DEFINITION. The words of the machine: bytes, 64-bit register values, and the sparse maps by which
State holds everything that comes in large numbers (registers of a file, bytes of a memory, units of a kind). -/

namespace Sys2Proof

/-- One byte (R10: every multi-byte field is little-endian). -/
abbrev Byte := BitVec 8

/-- A 64-bit register or control-space word. -/
abbrev W64 := BitVec 64

/-- A 32-bit lane, thread register or accumulator word. -/
abbrev W32 := BitVec 32

/-- A sparse map from numbers to values: entries in strictly rising key order, none equal to the value an
unlisted key reads as (that value is named at each use). -/
abbrev NMap (α : Type) := List (Nat × α)

end Sys2Proof
end

