-- ==== Sys2Proof/Syntax.lean ====
section
/-! DEFINITION. The commands of the block: one constructor of Instr for each row of the opcode table.
A core instruction carries the fields of its word (R75) as they stand in the word, so that an illegal word
(R76) is a command too. An event carries what the world outside the model supplies with it (a reading, a test
result, a peer's answer). -/

namespace Sys2Proof

/-- Who executes a core instruction: the scalar instruction stream of a physical core (R23), or thread code of
one of its four thread groups (R167, R171). -/
inductive Agent where
  | core (c : Nat)
  | group (c slot : Nat)
deriving DecidableEq, Repr

/-- Form A of the instruction word (R75). -/
structure FormA where
  pred : BitVec 3
  pneg : Bool
  dst : BitVec 6
  src1 : BitVec 6
  src2 : BitVec 6
  src3 : BitVec 6
  func : BitVec 8
  type : BitVec 4
  mod : BitVec 16
deriving DecidableEq, Repr

/-- Form B of the instruction word (R75). -/
structure FormB where
  pred : BitVec 3
  pneg : Bool
  dst : BitVec 6
  src1 : BitVec 6
  func : BitVec 8
  imm : BitVec 32
deriving DecidableEq, Repr

/-- Form C of the instruction word (R75): bits [51:46] are DST. -/
structure FormC where
  pred : BitVec 3
  pneg : Bool
  dst : BitVec 6
  imm : BitVec 46
deriving DecidableEq, Repr

/-- Who asks for a register or memory access from outside the cores (R98, R198, R290, R434). -/
inductive Requester where
  | host (f : Nat)
  | moduleController
  | partitionController (p : Nat)
  | debug
  | board
deriving DecidableEq, Repr

/-- Who reserved a response buffer (R500, R502). -/
inductive Waiter where
  | core (c : Nat)
  | slot (c i : Nat)
  | walker (c i : Nat)
  | missEntry (bay : Nat)
  | nearBank (stack : Nat)
  | dma
  | port (i : Nat)
deriving DecidableEq, Repr

/-- A message: sender, receiver, tag and payload (R42, R87). dstModule 0xFFF names the sending module. -/
structure Msg where
  srcVcore : Nat
  srcModule : Nat
  dstVcore : Nat
  dstModule : Nat
  tag : BitVec 16
  payload : List Byte
  /-- the epoch key of a provisional message (R271), 0 for an ordinary one -/
  prov : Nat := 0
  /-- some payload word is poisoned (R497) -/
  bad : Bool := false
  /-- the sender's stores with a lower sequence number come before it (R88) -/
  after : Nat := 0
  /-- the physical core that sent it, plus one; 0 for a message from elsewhere: the model's own field -/
  from_ : Nat := 0
  /-- where it was held: the stores of its sender that must be visible before it, by their number, besides those before `after` -/
  wait : Nat := 0
deriving DecidableEq, Repr

/-- Where an arriving message comes from: the module's own networks (its place in the list of messages in
flight) or a Seunon link. -/
inductive Arrival where
  | net (i : Nat)
  | remote (m : Msg)
deriving DecidableEq, Repr

/-- A physical write port of the module's home bays (R223): the oldest visible-pending store of a core, or a
write already sent by another master. -/
inductive Writer where
  | core (c : Nat)
  | queued
deriving DecidableEq, Repr

/-- What one step of the self-tests found wrong with a unit: the KIND and NUMBER of R381 and a detail. -/
structure Finding where
  kind : Nat
  number : Nat
  detail : Nat
deriving DecidableEq, Repr

/-- The state of a link partner at the end of a port's training (R426). -/
structure TrainResult where
  /-- lock bits of lanes 0 to 3 -/
  lanes : BitVec 4
  peerPresent : Bool
  peerId : Nat
  peerDomain : Nat
deriving DecidableEq, Repr

/-- A remote request at a Seunon port (R430). -/
structure RemoteReq where
  target : Nat
  requester : Nat
  fn : Nat
  cls : Nat
  off : Nat
  len : Nat
  /-- the bytes of a write; none for a read -/
  data : Option (List Byte)
deriving DecidableEq, Repr

/-- What a twin-carrier mirror step carries (R530). -/
structure MirrorStep where
  seq : BitVec 32
  fn : Nat
  tag : BitVec 16
  /-- region writes: function, region, offset and bytes -/
  writes : List (Nat × Nat × Nat × List Byte)
  /-- a region-table change: function, region and the attribute word written -/
  table : Option (Nat × Nat × BitVec 64)
deriving DecidableEq, Repr

/-- A cell's telemetry over the last 1 µs (R460). -/
structure CellReading where
  /-- output more than 5% below setpoint for 10 µs -/
  low : Bool
  /-- internal short or open -/
  broken : Bool
  /-- efficiency in per cent -/
  efficiency : Nat
deriving DecidableEq, Repr

/-- The partner's report at a PAIR_JOIN (R529). -/
structure PartnerReport where
  linkUp : Bool
  sameImage : Bool
  sameOrder : Bool
  /-- free HBM bytes of the standby -/
  standbyFree : Nat
  /-- bytes of the active's READY regions -/
  activeBytes : Nat
deriving DecidableEq, Repr

/-- The commands: one constructor for each row of spec/opcode_table.json, in its order. -/
inductive Instr where
  -- scalar and thread integer instructions (R78, R171)
  | nop (who : Agent) (f : FormA)
  | add (who : Agent) (f : FormA)
  | sub (who : Agent) (f : FormA)
  | mul (who : Agent) (f : FormA)
  | mulhu (who : Agent) (f : FormA)
  | and (who : Agent) (f : FormA)
  | or (who : Agent) (f : FormA)
  | xor (who : Agent) (f : FormA)
  | shl (who : Agent) (f : FormA)
  | shr (who : Agent) (f : FormA)
  | sar (who : Agent) (f : FormA)
  | min (who : Agent) (f : FormA)
  | max (who : Agent) (f : FormA)
  | addi (who : Agent) (f : FormB)
  | li (who : Agent) (f : FormC)
  | cmp (who : Agent) (f : FormA)
  | br (who : Agent) (f : FormC)
  | call (who : Agent) (f : FormC)
  | ret (who : Agent) (f : FormA)
  | done (who : Agent) (f : FormA)
  | csrR (who : Agent) (f : FormB)
  | csrW (who : Agent) (f : FormB)
  | csrS (who : Agent) (f : FormB)
  | csrC (who : Agent) (f : FormB)
  | fenceStore (who : Agent) (f : FormA)
  | fenceInv (who : Agent) (f : FormA)
  | fenceAll (who : Agent) (f : FormA)
  | ld (who : Agent) (f : FormB)
  | st (who : Agent) (f : FormB)
  | tdLd (who : Agent) (f : FormB)
  | msgSend (who : Agent) (f : FormA)
  | msgRecv (who : Agent) (f : FormA)
  | msgPoll (who : Agent) (f : FormA)
  | msgInject (c : Nat)
  -- vector unit (R155, R118 to R120)
  | vadd (who : Agent) (f : FormA)
  | vsub (who : Agent) (f : FormA)
  | vmul (who : Agent) (f : FormA)
  | vfma (who : Agent) (f : FormA)
  | vmin (who : Agent) (f : FormA)
  | vmax (who : Agent) (f : FormA)
  | vun (who : Agent) (f : FormA)
  | vcmp (who : Agent) (f : FormA)
  | vsel (who : Agent) (f : FormA)
  | vbit (who : Agent) (f : FormA)
  | vmov (who : Agent) (f : FormA)
  | vperm (who : Agent) (f : FormA)
  | vget (who : Agent) (f : FormA)
  | vld (who : Agent) (f : FormB)
  | vst (who : Agent) (f : FormB)
  | vlds (who : Agent) (f : FormA)
  | vsts (who : Agent) (f : FormA)
  | vredSum (who : Agent) (f : FormA)
  | vredSeg (who : Agent) (f : FormA)
  | cvt (who : Agent) (f : FormA)
  | cvtEnc (who : Agent) (f : FormA)
  | cvtDec (who : Agent) (f : FormA)
  -- matrix unit (R140 to R144)
  | mma (who : Agent) (f : FormA)
  | mmaStepBegin (c : Nat)
  | accSt (who : Agent) (f : FormA)
  | accLd (who : Agent) (f : FormA)
  | accRv (who : Agent) (f : FormA)
  | accWv (who : Agent) (f : FormA)
  -- thread groups (R193)
  | tgLaunch (who : Agent) (f : FormA)
  | blockLaunchBegin (c : Nat)
  | tgJoin (who : Agent) (f : FormA)
  | tgExit (who : Agent) (f : FormA)
  | tgBar (who : Agent) (f : FormA)
  | lockTry (who : Agent) (f : FormA)
  | lockRel (who : Agent) (f : FormA)
  | yield (who : Agent) (f : FormA)
  | parkTimeout (c slot lane : Nat)
  | tgVote (who : Agent) (f : FormA)
  -- stream engine (R253, R245)
  | ssStart (who : Agent) (f : FormA)
  | streamStartBegin (c slot : Nat)
  | streamStartEnd (c slot : Nat)
  | ssWait (who : Agent) (f : FormA)
  | ssCancel (who : Agent) (f : FormA)
  | ssPoll (who : Agent) (f : FormA)
  | streamLoop (c slot : Nat)
  | streamEndl (c slot : Nat)
  | streamAdda (c slot : Nat)
  | streamMove (c slot : Nat)
  | streamXmove (c slot : Nat)
  | streamEnd (c slot : Nat)
  | rowTransfer (c slot : Nat)
  -- sill cache hints (R239)
  | chPf (who : Agent) (f : FormA)
  | chPin (who : Agent) (f : FormA)
  | chUnpin (who : Agent) (f : FormA)
  | chDead (who : Agent) (f : FormA)
  -- speculation (R263)
  | specOpen (who : Agent) (f : FormA)
  | specClose (who : Agent) (f : FormA)
  | specConfirm (who : Agent) (f : FormA)
  | specAbort (who : Agent) (f : FormA)
  | specPoll (who : Agent) (f : FormA)
  | specConfirmed (lpart group : Nat)
  | specAborted (lpart group : Nat)
  -- events of cores, bays and HBM
  | coreWatchdogExpiry (c : Nat)
  | groupProgressExpiry (c slot : Nat)
  | msgArrival (a : Arrival)
  | clusterClockGate (cluster : Nat)
  | bayReadRequest (bay line cls : Nat) (w : Waiter)
  | bayFillReturn (bay line : Nat)
  | homeBayWrite (w : Writer)
  | invalidationArrival (bay line : Nat)
  | invalidationAcksComplete (bay line : Nat)
  | responseArrival (i : Nat)
  | responseTimeout (i : Nat)
  | bayPatrol (bay corrected : Nat) (bad : List Nat)
  | coreArrayPatrol (c corrected : Nat) (bad : List Nat)
  | hbmSectorRead (sector : Nat) (flips : List (Nat × Byte))
  | hbmSectorWrite (sector start : Nat) (bytes : List Byte)
  | hbmRefreshDue (stack channel pc bank : Nat) (busy : Bool)
  | hbmPeriodicRetrain (stack channel pc0Fails pc1Fails caFails : Nat)
  | hbmOdeccPoll (stack : Nat) (counts : List Nat)
  | kickTaken (stack : Nat)
  | nbStepBoundary (stack channel : Nat) (flips : List (Nat × Nat × Byte))
  | nbSequenceDone (stack : Nat)
  | nbFwResume (stack : Nat) (passed : Bool)
  -- letterbox and register events
  | sqEntryTaken (f : Nat)
  | sqFetchFailure (f : Nat)
  | coalesceTimeout (f : Nat)
  | progressCompletion (cmd : Nat)
  | msixVectorUnmask (f v : Nat)
  | regionAttrWrite (by_ f i : Nat) (v : W64)
  | regionAllocationEnd (f i : Nat)
  | regionReleaseEnd (f i : Nat)
  | allocationCancelEnd (f i : Nat)
  | lbEnable (f : Nat)
  | lbDisable (f : Nat)
  | doorbellSqTail (f : Nat) (v : W32)
  | doorbellCqHead (f : Nat) (v : W32)
  | lbStatusErrorClear (f : Nat) (v : W64)
  | transomRepairWrite (by_ : Requester) (pcore g : Nat) (v : W64)
  | registerWrite (by_ : Requester) (off size : Nat) (v : W64)
  | apertureRead (f x n : Nat)
  | apertureWrite (f x : Nat) (bytes : List Byte)
  | runLaunch (run : Nat)
  | shutterStageEnd (region : Nat)
  | runCompletion (run : Nat)
  | runTimeLimit (run : Nat)
  | holdLimitExpiry (run : Nat)
  -- monitors and resets
  | stepMonitorExpiry (cmd : Nat)
  | fabricMonitorExpiry (cluster : Nat)
  | doorProgressMonitor (p channel : Nat) (inbound partitionHolds : Bool)
  | heartbeatMiss (p : Nat)
  | mcWatchdogExpiry
  | doorDrainEnd (p : Nat)
  | forcedBayReset (bay : Nat)
  | partitionResetDone (p : Nat) (failures : List Finding)
  | drainPoint (lpart : Nat)
  -- pair and live service
  | mirrorStepReceived (m : MirrorStep)
  | mirrorStepAck (seq : BitVec 32)
  | pairLinkLoss
  -- regulation and power
  | louvreWindowEnd (louvre : Nat)
  | quotaUpdate (p : Nat)
  | cellTelemetrySample (region : Nat) (cells : List CellReading)
  | limiterSample (region current : Nat)
  | governorSample (tower power input : Nat) (boost : Bool)
  | boostWindowClose
  | busConverterFailure (k : Nat)
  | vstbyUp (slotId : Nat) (pairPresent : Bool) (goodA goodB : Bool)
  | mainPgAssert (unusable : List Nat) (ringOk phyOk : Bool) (cells : List Finding)
  | bringupStage3 (findings : List Finding)
  | bringupStage4 (findings : List Finding)
  | bringupStage5 (findings : List Finding)
  | bringupComplete
  | mainPgTimeout
  | railStartTimeout
  | mainPgDeassert
  | vmainFault
  | vmainDip
  | vstbyLoss
  | viobLoss
  | vmainNotRemoved
  | railsDownDone
  | moduleResetStart
  | ajarEntryDone (p : Nat)
  | shutEntryDone (p : Nat)
  | ajarIdleExpiry (p : Nat)
  | shutIdleExpiry (p : Nat)
  | wakeDone (p : Nat)
  -- links
  | pcieTlpInL1
  | pcieKnock (vendor : Nat) (hdr : W32)
  | seunonKnock (port : Nat)
  | seunonStandbyTraffic (port : Nat)
  | seunonTrainingDone (port : Nat) (r : TrainResult)
  | seunonFlitError (port : Nat) (trained : Bool)
  | seunonPortDown (port : Nat)
  | seunonRemoteRequest (port : Nat) (r : RemoteReq)
  | hingeBridgeFlitError (link : Nat) (trained : Bool)
  | flr (f : Nat)
  | vfEnable (n : Nat)
  | vfDisable (f : Nat)
  | busMasterEnableClear (f : Nat)
  | busMasterEnableSet (f : Nat)
  | d3hotEntry (f : Nat)
  | pcieFundamentalReset
  | perstNRelease
  -- thermal and security events
  | thermalModelUpdate (sensors : List (Nat × Nat × Int))
  | diodeComparatorTrip (node : Nat)
  | thermalActionRelease (node : Nat)
  | disagreementEpisodeEnd (node : Nat)
  | sensorFailure (node sensor : Nat)
  | bondTempSample (tower : Nat)
  | coolantAlert
  | coolantAlertEnd
  | attestSigningStart
  -- letterbox commands (R376): the command in flight that carries the opcode
  | queryIdentity (cmd : Nat)
  | queryState (cmd : Nat)
  | queryDefects (cmd : Nat)
  | readCounters (cmd : Nat)
  | imageBegin (cmd : Nat)
  | imageChunk (cmd : Nat)
  | imageCommit (cmd : Nat)
  | imageUnload (cmd : Nat)
  | patchTables (cmd : Nat)
  | run (cmd : Nat)
  | runSpeculative (cmd : Nat)
  | confirm (cmd : Nat)
  | abortSpec (cmd : Nat)
  | cancel (cmd : Nat)
  | resultRelease (cmd : Nat)
  | copy (cmd : Nat)
  | fill (cmd : Nat)
  | scrub (cmd : Nat)
  | pin (cmd : Nat)
  | unpin (cmd : Nat)
  | setClassTable (cmd : Nat)
  | setRegulationMode (cmd : Nat)
  | powerState (cmd : Nat)
  | powerPolicy (cmd : Nat)
  | resetCore (cmd : Nat)
  | resetCluster (cmd : Nat)
  | resetPartition (cmd : Nat)
  | resetModule (cmd : Nat)
  | collectDump (cmd : Nat)
  | retireUnit (cmd : Nat)
  | fieldTest (cmd : Nat) (findings : List Finding)
  | recalibrate (cmd : Nat) (outcome : Nat)
  | fwStage (cmd : Nat)
  | fwActivate (cmd : Nat) (failed : List Nat)
  | migrate (cmd : Nat)
  | attest (cmd : Nat)
  | getCert (cmd : Nat)
  | debugUnlock (cmd : Nat)
  | thermalRecordRead (cmd : Nat)
  | clearTrip (cmd : Nat)
  | pairJoin (cmd : Nat) (r : PartnerReport)
  | pairSync (cmd : Nat) (acked : Bool)
  | pairTakeover (cmd : Nat)
  | pairRelease (cmd : Nat)
  | echo (cmd : Nat)
  -- board messages (R561)
  | identity (tag : Nat)
  | readReg (tag off : Nat)
  | alertStatus (tag : Nat)
  | wake (tag : Nat)
  | bmcResetModule (tag mflags : Nat)
  | bmcThermalRecordRead (tag first : Nat)
  | bmcClearTrip (tag : Nat)
  | bmcFwStage (tag component cflags off : Nat) (data : List Byte)
  | ownerEnroll (tag cflags off : Nat) (data : List Byte)
  | domainWrite (tag moduleId domain first : Nat) (routes : List Nat)
  | bmcAttest (tag : Nat) (nonce : List Byte)
  | attestRead (tag off : Nat)
  | bmcGetCert (tag index off : Nat)
  | mctpControlMessage (bytes : List Byte)
  | jtagInstruction (code : Nat) (debugOp : Bool)
  | steppedCommandStep (cmd amount : Nat)
  | d3hotExit (f : Nat)
  | vstbyAbsent
  | viobReturn
  | baseDieFault (stack : Nat)
  | pcieLinkL0
  | pcieLinkL1Entry
  | apertureMirrorStep
deriving DecidableEq, Repr

end Sys2Proof
end

