-- ==== Sys2Proof/Decode.lean ====
section
/-! DEFINITION. The opcode table gives no row any bits, so no word spells a command: commands reach the block as
commands. The words of core instructions (R75) are read and written in Machine/Operands.lean. -/

namespace Sys2Proof

/-- The command that a word spells by the opcode table's bits: none, since no row of the table has bits. -/
def decodeTableWord (_nbits _w : Nat) : Option Instr := none

end Sys2Proof
end

