-- ==== Sys2Proof/Config.lean ====
section
/-! DEFINITION. What the manual leaves open: constants without a body, so that no proof can rest on their
values. Each is named in a row of the assumption log. -/

namespace Sys2Proof

/-- The n-th open value drawn by the machine (State.free counts the draws). -/
opaque Config.freeBits (n : Nat) : Nat

/-- Whether an SLH-DSA signature (FIPS 205, outside the manual) is valid: public key or its hash, message,
signature (R541, R537, R548). -/
opaque Config.verify (key message signature : List Byte) : Bool

/-- The SLH-DSA signature of a message under the device key (R545). -/
opaque Config.sign (message : List Byte) : List Byte

/-- The certificates of R544: 0 the device identity, 1 the certificate authority. -/
opaque Config.cert (index : Nat) : List Byte

/-- The random challenge of DEBUG_UNLOCK for the n-th draw (R548). -/
opaque Config.challenge (n : Nat) : List Byte

/-- The hash of the vendor key in fuses (R536).
[DESIGN CHOICE, log entry 53: safe] -/
opaque Config.vendorHash : List Byte

/-- Waunnum's PCI-SIG vendor ID, which the manual names and does not give (R416, R423, R561). -/
opaque Config.vendorId : Nat

/-- The version of the boot ROM that QUERY_IDENTITY reports (R379). -/
opaque Config.romVersion : Nat

/-- The SHA-256 of the boot ROM that reports carry (R536, R545). -/
opaque Config.romDigest : List Byte

/-- The thermal model (R482): the node, its present temperature in 0.1 °C and the update's number give the
next model temperature. -/
opaque Config.thermStep (node : Nat) (temp : Int) (n : Nat) : Int

/-- Which of the nodes 500 to 599 the substrate sensor beside the NOR store belongs to: their order is not given (R482, R493).
[DESIGN CHOICE, log entry 93: safe] -/
opaque Config.substrateNode : Nat

/-- Which of the nodes 500 to 599 is the module controller's die (R482, R493). -/
opaque Config.controllerNode : Nat

end Sys2Proof
end

