-- ==== Sys2Proof/Machine/State.lean ====
section
/-! DEFINITION. The state of the module as plain data, its faults and refusals, and the state after a module
reset. A sparse map lists only what differs from the value named where it is read, so nearly every field is
empty after reset. -/

namespace Sys2Proof.Machine

/-! ### Cores -/

/-- A write that a core issued to device memory and that its home bay has not applied yet (R84, R223, R265). -/
structure Store where
  /-- 56-bit device address (R15) -/
  addr : Nat
  bytes : List Byte
  cls : Nat
  /-- issuing function, for the region fence (R61) -/
  fn : Nat
  /-- key of the epoch the core held when it issued the write, 0 for none (R265) -/
  epoch : Nat
  /-- core that issued it -/
  core : Nat
  /-- its place among the stores of its core: the model's own field -/
  seq : Nat := 0
  /-- stream slot that issued it, plus one; 0 for the core's other units -/
  src : Nat := 0
deriving DecidableEq, Repr

/-- One tensor descriptor (R82). -/
structure Desc where
  base : Nat
  bytes : Nat
  tensor : Nat
  format : Nat
  kind : Nat
  location : Nat
  flags : Nat
  tableSet : Nat
deriving DecidableEq, Repr

/-- One 128-byte line of a first-level cache (R84): the core address space it caches and its bytes as filled. -/
structure L1Line where
  space : Nat
  line : Nat
  data : NMap Byte
deriving DecidableEq, Repr

/-- An accumulator move in the matrix queue (R73, R141 to R144), with what it read when it issued: its kind is 0 ACC.ST, 1 ACC.LD,
2 ACC.RV and 3 ACC.WV. -/
structure AccMove where
  kind : Nat
  f : FormA
  base : W64 := 0
  stride : W64 := 0
  /-- the source register of ACC.WV -/
  v : BitVec 2048 := 0
  /-- RNG_STATE for stochastic rounding (R117) -/
  rng : W64 := 0
  /-- traffic class of its stores -/
  cls : Nat := 0
deriving DecidableEq, Repr

/-- A matrix instruction in the matrix queue (R137, R140) with the steps it has still to begin. -/
structure MmaOp where
  acc : Nat
  aAddr : Nat
  stride : Nat
  k : Nat
  /-- next value of k to be taken -/
  k0 : Nat
  port : Nat
  overwrite : Bool
  double : Bool
  bFmt : Nat
  aFmt : Nat
  n : Nat
  m : Nat
  /-- key of the epoch it was issued under, 0 for none (R275) -/
  epoch : Nat
  pc : Nat
  /-- its place among the instructions of its core that memory order (R74) compares: the model's own field -/
  seq : Nat
  /-- an accumulator move that waits here; its other fields then mean nothing -/
  move : Option AccMove := none
deriving DecidableEq, Repr

/-- A queued TG.LAUNCH (R168, R193). -/
structure LaunchReq where
  entry : Nat
  arg : W64
  cls : Nat
  cbar : BitVec 4
  block : Nat
  groups : Nat
  epoch : Nat
  pc : Nat
deriving DecidableEq, Repr

/-- Where a thread stands (R174). -/
inductive ThreadMode where
  | exited
  | runnable
  /-- waiting at a barrier: kind 0 group, 1 block, 2 cluster, and its id -/
  | waiting (kind id : Nat)
  | parked
deriving DecidableEq, Repr

/-- One thread of a thread group (R167); t and p hold only non-zero and true entries. -/
structure Thread where
  mode : ThreadMode := .exited
  pc : Nat := 0
  t : NMap W32 := []
  p : NMap Bool := []
  /-- the lock word its last LOCK.TRY failed on: core and scratchpad offset, plus one; 0 for none (R189) -/
  failedOn : Nat := 0
  /-- EXPECT of the cluster barrier at which it waits (R184) -/
  expect : Nat := 0
  /-- register cache: the registers of its 4 entries, least recently used first (R172) -/
  cache : List Nat := []
deriving DecidableEq, Repr

/-- One of a core's four thread-group slots (R167, R168). -/
structure Group where
  used : Bool := false
  block : Nat := 0
  index : Nat := 0
  cls : Nat := 0
  cbar : BitVec 4 := 0
  epoch : Nat := 0
  threads : NMap Thread := []
  /-- progress count of R186 in units of 256 slow cycles -/
  progress : BitVec 16 := 0
deriving DecidableEq, Repr

/-- What an entry of the stream engine's queue is (R253): a start; an SS.CANCEL of slots, with whether their generations have
advanced; or an SS.POLL of slots into a predicate. -/
inductive StreamOp where
  | start
  | cancel (slots : List Nat) (sent : Bool)
  | poll (slots : List Nat) (dst : Nat)
deriving DecidableEq, Repr

/-- A stream start (R242): its program number and the three registers it sets. -/
structure Start where
  prog : Nat
  a0 : W64
  a1 : W64
  a2 : W64
  epoch : Nat
  pc : Nat
  /-- as in MmaOp: the model's own field -/
  seq : Nat
  op : StreamOp := .start
deriving DecidableEq, Repr

/-- One byte held by a stream port with the format and table set its MOVE tagged it with (R251). -/
structure PortByte where
  byte : Byte
  fmt : Nat
  tableSet : Nat
  bad : Bool := false
deriving DecidableEq, Repr

/-- An open loop level of a stream program (R246). -/
structure LoopLevel where
  head : Nat
  count : Nat
  left : Nat
deriving DecidableEq, Repr

/-- One stream slot (R241). -/
structure Slot where
  a : NMap W64 := []
  loops : List LoopLevel := []
  ppc : Nat := 0
  gen : BitVec 16 := 0
  running : Option Start := none
  pending : Option Start := none
  /-- the running start has begun (R244) -/
  begun : Bool := false
  /-- END has executed -/
  ended : Bool := false
  /-- bytes of the present MOVE already moved -/
  moved : Nat := 0
  /-- a MOVE in MODE 3 waits for this many rows (R249) -/
  rowsLeft : Nat := 0
  /-- gather buffer: lines held, least recently used first (R254) -/
  gather : List L1Line := []
  port : List PortByte := []
deriving DecidableEq, Repr

/-- An output held under an open epoch (R271). -/
inductive HeldOut where
  | msg (m : Msg)
  /-- a write into the scratchpad (offset below 2^32) of another core -/
  | spad (core off : Nat) (bytes : List Byte)
  /-- a write into the own region of another core through the sill window -/
  | region (core off : Nat) (bytes : List Byte)
deriving DecidableEq, Repr

/-- One journaled 512-byte granule: in the scratchpad (space 1) or the core's own sill region (space 2) (R270). -/
structure Journal where
  space : Nat
  granule : Nat
  old : List Byte
  /-- its 64-bit words that held uncorrectable data when it was copied, by their number in the memory (R497) -/
  bad : List Nat := []
deriving DecidableEq, Repr

/-- A range pinned by CH.PIN (R231): bay, lines and class. -/
structure ChPinned where
  bay : Nat
  line : Nat
deriving DecidableEq, Repr

/-- A physical core (R72, R95). Registers read 0 or false where unlisted; the control and status registers read
their reset values of R95 where unlisted. -/
structure Core where
  /-- the virtual core it carries, plus one; 0 for none -/
  vcore : Nat := 0
  gen : BitVec 16 := 0
  /-- inside a launch and DONE not yet executed -/
  running : Bool := false
  /-- DONE executed in the present launch -/
  done : Bool := false
  /-- the run of the present launch, plus one; 0 for none -/
  run : Nat := 0
  pc : Nat := 0
  /-- program length in bytes -/
  progLen : Nat := 0
  /-- device offset of the program's first word -/
  codeBase : Nat := 0
  /-- instruction cache of 16 KiB (R72, R497): the device offsets of the words it holds, oldest first -/
  icache : List Nat := []
  s : NMap W64 := []
  p : NMap Bool := []
  v : NMap (BitVec 2048) := []
  acc : NMap W32 := []
  csr : NMap W64 := []
  td : List Desc := []
  spad : NMap Byte := []
  /-- scratchpad 64-bit words that hold uncorrectable data (R497) -/
  spadBad : List Nat := []
  l1 : List L1Line := []
  /-- table cache of two sets, least recently used first (R111) -/
  tsets : List Nat := []
  stores : List Store := []
  /-- stores issued so far: the model's own field -/
  seq : Nat := 0
  send : List Msg := []
  rxq : List Msg := []
  overflow : List Msg := []
  /-- byte of the overflow ring at which its oldest message begins (R90, R207) -/
  ringHead : Nat := 0
  spill : List Msg := []
  /-- a message was discarded under R91 and MSG_LOST is due -/
  lost : Bool := false
  mq : List MmaOp := []
  tgq : List LaunchReq := []
  groups : NMap Group := []
  /-- per cluster barrier: blocks of this launch launched for it that have ended (R184) -/
  exited : NMap Nat := []
  slots : NMap Slot := []
  sq : List (Nat × Start) := []
  /-- key of the epoch it is joined to, 0 for none -/
  epoch : Nat := 0
  handler : Nat := 0
  joining : Bool := false
  journal : List Journal := []
  held : List HeldOut := []
  /-- CH.DEAD hints held under an open epoch: address, length and function (R237) -/
  deads : List (Nat × Nat × Nat) := []
  retained : List Msg := []
  chPins : List ChPinned := []
  /-- why the last instruction command did not retire: 0 none (R74, R80, R84, R88, R89, ...) -/
  stall : Nat := 0
  /-- the function, commit and split of the previous launch of this core, for R57, R85 and R92 -/
  lastFn : Nat := 0
  lastCommit : Nat := 0
  lastSplit : Nat := 0
  launched : Bool := false
  /-- the generation reached a multiple of 512 (R503) -/
  wipe : Bool := false
  shutterOpen : Bool := false
  /-- its shutter opens in the staging that its region runs (R466) -/
  staging : Bool := false
  /-- matrix step grants withheld by the region limiter (R462) -/
  withheld : Bool := false
deriving DecidableEq, Repr

/-! ### Sill -/

/-- How a line is held in a bay (R219). -/
inductive LineKind where
  | home
  | replica
  | remote
deriving DecidableEq, Repr

/-- A line of a bay's shared region (R219 to R237). Its bytes are those of device memory as State.mem holds
them; `stale` lists the bytes that HBM still holds in place of written ones while the line is dirty. -/
structure Line where
  line : Nat
  kind : LineKind
  dirty : Bool := false
  cls : Nat := 0
  /-- time of last use: larger is more recent -/
  stamp : Nat := 0
  /-- filled by a prefetch and not used yet (R261) -/
  mark : Bool := false
  stale : NMap Byte := []
  /-- which of its 64-bit words are poisoned (R498) -/
  bad : BitVec 16 := 0
  otherTower : Bool := false
  modules : List Nat := []
  /-- invalidations sent and not acknowledged -/
  acks : Nat := 0
  /-- bays that every invalidation not acknowledged leaves out: those of the writers (R235) -/
  spared : List Nat := []
deriving DecidableEq, Repr

/-- A provisional line of a bay (R237, R269): the bytes written under an epoch. -/
structure ProvLine where
  epoch : Nat
  line : Nat
  bytes : NMap (Option Byte)
  cls : Nat
deriving DecidableEq, Repr

/-- A requester of a miss entry with its generation when it joined (R225, R227). -/
structure Joiner where
  waiter : Waiter
  gen : BitVec 16
deriving DecidableEq, Repr

/-- An open miss entry (R225). -/
structure Miss where
  line : Nat
  cls : Nat
  joiners : List Joiner
  /-- opened by a sill-only fill -/
  prefetch : Bool
deriving DecidableEq, Repr

/-- A line of a bay that holds something without a device address, with the set in which it takes a way: kind 0 a line of a core's
overflow ring (R207), 1 a line of its journal (R270), 2 an output it holds (R271), each with a number of its own. -/
structure WayUse where
  core : Nat
  kind : Nat
  idx : Nat
  set : Nat
deriving DecidableEq, Repr

/-- A bay (R195, R197): own regions at k × 0x6_0000 + o, the lines of its shared region, and its miss entries. -/
structure Bay where
  own : NMap Byte := []
  ownBad : List Nat := []
  lines : List Line := []
  prov : List ProvLine := []
  /-- ways held for overflow rings, journals and held outputs (R207, R230, R270, R271) -/
  ways : List WayUse := []
  miss : List Miss := []
  /-- fills that wait in the REQ channel for a free miss entry, oldest first (R225) -/
  reqs : List Miss := []
  /-- save array (R470): the registers of slot k's core -/
  save : NMap (NMap W64) := []
  gen : BitVec 16 := 0
  clock : Nat := 0
deriving DecidableEq, Repr

/-- A reserved response buffer (R226, R500). -/
structure Wait where
  waiter : Waiter
  gen : BitVec 16
  addr : Nat
  isRead : Bool
  /-- the response has been sent: its bytes and whether they are poisoned -/
  back : Option (List Byte × Bool)
deriving DecidableEq, Repr

/-- A write waiting for its invalidations to be acknowledged (R223, R235). -/
structure PendingVis where
  bay : Nat
  line : Nat
  core : Nat
  /-- sequence number of the write among its core's stores -/
  seq : Nat
deriving DecidableEq, Repr

/-! ### Image and placement -/

/-- A tensor of the committed image (R55) and where placement put it (R82, R380). -/
structure Tensor where
  id : Nat
  kind : Nat
  fmt : Nat
  use : Nat
  shape : List Nat
  bytes : Nat
  dataOff : Nat
  tableSet : Nat
  base : Nat := 0
  location : Nat := 0
deriving DecidableEq, Repr

/-- A codebook table set (R110): its KIND code and its tables as BF16 entries. -/
structure TableSet where
  kind : Nat
  /-- SET_OFFSET -/
  off : Nat
  tables : List (List (BitVec 16))
deriving DecidableEq, Repr

/-- A window of a stream program (R243). -/
structure Window where
  valid : Bool
  write : Bool
  space : Nat
  base : Nat
  lo : Int
  size : Nat
deriving DecidableEq, Repr

/-- A stream program (R243). -/
structure StreamProg where
  code : List W64
  windows : List Window
deriving DecidableEq, Repr

/-- A virtual core's entry in a phase record (R51). -/
structure VcEntry where
  vcore : Nat
  entry : Option Nat
  thinEntry : Option Nat
  split : Nat
  cls : Nat
  descs : List Nat
deriving DecidableEq, Repr

/-- An operation of a near-bank sequence (R310). -/
structure NbOp where
  w : Nat
  act : Nat
  out : Nat
  actFirst : Nat
  mask : Nat
  accumulate : Bool
deriving DecidableEq, Repr

/-- A near-bank sequence (R309). -/
structure NbSeq where
  lpart : Nat
  cls : Nat
  arg : Option Nat
  ops : List NbOp
deriving DecidableEq, Repr

/-- A phase (R50 to R52). -/
structure Phase where
  id : Nat
  partMask : BitVec 8
  thinMax : Nat
  hasThin : Bool
  bound : List Nat
  rowMode : List Nat
  vcs : List VcEntry
  proxies : List (Option Nat)
  seqs : List NbSeq
deriving DecidableEq, Repr

/-- A committed image. -/
structure Image where
  buildId : List Byte
  digest : List Byte
  vcores : Nat
  /-- PRIVATE_STEPS (R39) -/
  steps : Nat
  tensors : List Tensor
  tables : List TableSet
  /-- the CODEBOOK_TABLES section as committed; empty without one -/
  tableBytes : List Byte
  /-- device offset at which the module keeps the CODEBOOK_TABLES section (R111) -/
  tableBase : Nat := 0
  streams : List StreamProg
  phases : List Phase
  /-- for each virtual core with a program: its number, code offset and length in bytes -/
  programs : List (Nat × Nat × Nat)
  /-- device offset at which the code of CORE_PROGRAMS lies, and its length -/
  codeBase : Nat
  codeLen : Nat
  thinRequired : Bool
  /-- the affinity graph: the summed weight of each pair of virtual cores, by lower × 2^15 + higher (R53) -/
  edges : NMap Nat := []
deriving DecidableEq, Repr

/-- The staging session and the committed image (R384, R385). -/
structure ImageState where
  /-- open session: its IMAGE_LENGTH and the HBM ranges that hold the staged bytes, in image order -/
  session : Option (Nat × List (Nat × Nat)) := none
  image : Option Image := none
  /-- commits made since reset (R85, R197) -/
  commits : Nat := 0
  /-- virtual core to physical core plus one (R380 SELECT 1) -/
  place : NMap Nat := []
  /-- logical partition to physical partition plus one -/
  lpart : NMap Nat := []
  /-- function plus one whose run last used a WORKING tensor, by tensor (R57, R315) -/
  workFn : NMap Nat := []
deriving DecidableEq, Repr

/-! ### Runs and commands -/

/-- A binding of a run (R388). -/
structure Binding where
  tensor : Nat
  region : Nat
  result : Bool
  offset : Nat
deriving DecidableEq, Repr

/-- Where a run stands (R60, R277, R389). -/
inductive RunState where
  | waiting
  | running
  | held
  | stopped
  | ended
deriving DecidableEq, Repr

/-- A run taken from a letterbox. -/
structure Run where
  id : Nat
  /-- the command in flight it belongs to -/
  cmd : Nat
  fn : Nat
  tag : BitVec 16
  phase : Nat
  batch : Nat
  seed : W64
  bindings : List Binding
  timeoutMs : Nat
  holdLimit : Nat
  spec : Bool
  st : RunState := .waiting
  thin : Bool := false
  /-- logical partitions used -/
  mask : BitVec 8 := 0
  /-- first trap: cause and virtual core -/
  trap : Nat := 0
  trapVcore : Nat := 0
  /-- the status the run ends with where it was stopped (R374) -/
  status : Option Nat := none
  abortCause : Nat := 0
  /-- a CONFIRM is held until the launch (R278) -/
  confirmHeld : Bool := false
  /-- the abort cause of a stop that waits until an epoch of the run is CONFIRMED; 0 for none (R268, R279) -/
  due : Nat := 0
deriving DecidableEq, Repr

/-- A reset that waits until the epochs in its reach are CONFIRMED (R268, R283): of a core after its trap, of a cluster, or of a power
region that goes dark, with the SOURCE of its record. -/
inductive Due where
  | core (c : Nat)
  | cluster (n : Nat)
  | dark (region src : Nat)
deriving DecidableEq, Repr

/-- A command in flight (R361): the letterbox it was taken from and its 64-byte entry. -/
structure Cmd where
  id : Nat
  fn : Nat
  entry : List Byte
  tookSlot : Bool := false
  /-- progress of a stepped command: units done, steps done -/
  amount : Nat := 0
  steps : Nat := 0
  /-- no completion entry is written for it (R370) -/
  mute : Bool := false
  /-- its function was reset: nothing is written to the host for it (R370) -/
  dead : Bool := false
  started : Bool := false
deriving DecidableEq, Repr

/-- A completion entry not yet written (R371). -/
structure Comp where
  tag : BitVec 16
  status : Nat
  opcode : Nat
  length : Nat
  detail : W64
  trunc : Bool
  slot : Bool
  irqNow : Bool
deriving DecidableEq, Repr

/-- A result slot (R366). -/
structure ResultSlot where
  seq : BitVec 32 := 0
  /-- 0 EMPTY, 1 FILLING, 2 READY -/
  st : Nat := 0
  status : Nat := 0
  tag : BitVec 16 := 0
  length : Nat := 0
  payload : List Byte := []
deriving DecidableEq, Repr

/-- An entry of the MSI-X table (R351, R365). -/
structure Msix where
  addr : W64 := 0
  data : W32 := 0
  masked : Bool := true
  pending : Bool := false
  /-- the pending message is a completion interrupt's (R365, R372) -/
  owed : Bool := false
deriving DecidableEq, Repr

/-- State of a letterbox (R354). -/
inductive LbState where
  | disabled
  | running
  | stopping
  | error
deriving DecidableEq, Repr

/-- A PIN range of a function (R231). -/
structure PinRange where
  kind : Nat
  object : Nat
  off : Nat
  len : Nat
  cls : Nat
  lines : List ChPinned
  /-- the PIN command that still works on it, plus one, and the lines that it has looked at (R232) -/
  cmd : Nat := 0
  seen : Nat := 0
deriving DecidableEq, Repr

/-- A PCI Express function with its letterbox, result slots and MSI-X structures (R350 to R372). -/
structure Fn where
  /-- the function exists for the host: PF0 always, VF n while enabled (R65, R417) -/
  enabled : Bool := false
  bme : Bool := false
  d3 : Bool := false
  sqBase : W64 := 0
  cqBase : W64 := 0
  ringCfg : W64 := 0
  aperture : W64 := 0
  /-- LB_CTRL.ENABLE as last written (R12, R354) -/
  enable : Bool := false
  st : LbState := .disabled
  sqHead : Nat := 0
  cqTail : Nat := 0
  cqPhase : Bool := false
  dbError : Bool := false
  cfgError : Bool := false
  fetchError : Bool := false
  held : Bool := false
  dbTail : Nat := 0
  dbHead : Nat := 0
  msix : NMap Msix := []
  unsignalled : Nat := 0
  slots : NMap ResultSlot := []
  heldBytes : List (Nat × List Byte) := []
  heldComps : List Comp := []
  pins : List PinRange := []
  refused : Nat := 0
deriving DecidableEq, Repr

/-- A region table entry (R64): REGION_ATTR is the word, BASE the device offset while READY. -/
structure Region where
  attr : W64 := 0x0000_00F0_0000_0000
  base : Nat := 0
  /-- while a release is pending: the identifier of the first command taken after the release write (R65) -/
  rel : Nat := 0
deriving DecidableEq, Repr

/-! ### Speculation, partitions, near-bank units -/

/-- State of an epoch (R267). -/
inductive EpochState where
  | idle
  | open_
  | held
  | confirming
  | confirmed
  | aborting
  | aborted
deriving DecidableEq, Repr

/-- A speculation group of a logical partition (R262, R267). -/
structure SpecGroup where
  st : EpochState := .idle
  epoch : BitVec 16 := 0
  first : Nat := 0
  countM1 : Nat := 0
  cause : Nat := 0
  /-- the RUN_SPECULATIVE it belongs to, plus one -/
  run : Nat := 0
deriving DecidableEq, Repr

/-- A trap record of a partition's trap log (R515). -/
structure TrapRec where
  vcore : Nat
  pcore : Nat
  cause : Nat
  fn : Nat
  tag : BitVec 16
  pc : W64
  addr : W64
  uptime : Nat
deriving DecidableEq, Repr

/-- Doors of a partition (R508). -/
inductive DoorState where
  | open_
  | draining
  | absorbing
deriving DecidableEq, Repr

/-- A physical partition's controller (R506 to R512, R480). -/
structure Part where
  door : DoorState := .open_
  resetting : Bool := false
  /-- REASON of the reset in progress (R515), and its NO_DUMP flag -/
  reason : Nat := 0
  noDump : Bool := false
  /-- command waiting for the reset, plus one -/
  resetCmd : Nat := 0
  hold : List Msg := []
  /-- partition whose HBM holds the door hold area and the dump of the present reset, plus one; 0 for none (R508) -/
  area : Nat := 0
  dump : Option (List Byte) := none
  trapLog : List TrapRec := []
  forced : List Nat := []
  misses : Nat := 0
  /-- AJAR_IDLE in µs and SHUT_IDLE in ms (R400, R480) -/
  ajarIdle : Nat := 50
  shutIdle : Nat := 0
  /-- a wake arrived during an entry (R479) -/
  wakeAfter : Bool := false
  /-- state the present wake leads to: 0 OPEN, 1 AJAR -/
  wakeTo : Nat := 0
  /-- number of the event log record of the present reset (R515) -/
  eventSeq : Nat := 0
deriving DecidableEq, Repr

/-- A kick taken by a near-bank sequencer (R316). -/
structure Kick where
  seq : Nat
  notify : Nat
  tag : BitVec 16
  tokenBase : Nat
  run : Nat
  /-- the proxy's virtual core -/
  proxy : Nat
deriving DecidableEq, Repr

/-- A row of activations in the engines' buffers: the device offset that it was read from, its bytes, and whether a sector of it was
poisoned (R317, R323). -/
structure ActRow where
  off : Nat
  data : List Byte
  bad : Bool
deriving DecidableEq, Repr

/-- A near-bank stack's sequencer and engines (R306, R316 to R327). -/
structure NbStack where
  cur : Option Kick := none
  /-- bytes of the ARG tensor as the sequencer read them for its sequence, and whether that read met poison (R317) -/
  masks : List Byte := []
  masksBad : Bool := false
  /-- the rows that the sequencer broadcast into every engine's activation buffer, oldest first (R306, R317) -/
  acts : List ActRow := []
  /-- channels whose engine ends its step at the next row boundary, for a refresh (R319) -/
  cuts : List Nat := []
  /-- for each channel: the next operation of its engine, times 2^32, plus the rows of it already computed -/
  at_ : NMap Nat := []
  steps : NMap Nat := []
  /-- function of the last thin-path run that used the stack, plus one (R315) -/
  owner : Nat := 0
deriving DecidableEq, Repr

/-- Retry bookkeeping of a link: hinge, bridge or Seunon port (R214, R425). -/
structure Link where
  retries : Nat := 0
  retrainFails : Nat := 0
  retired : Bool := false
  training : Bool := false
deriving DecidableEq, Repr

/-- A louvre (R339 to R342): what its present window runs under, 0 LATENCY, 1 MINBW, 2 MINBW with the class table set aside,
and the level of each class. -/
structure Louvre where
  mode : Nat := 2
  level : NMap Nat := []
deriving DecidableEq, Repr

/-! ### Power, thermal, security, links, service -/

/-- Supplies, rails and pins (R452 to R458, R555, R556), and the boost window (R465).
[DESIGN CHOICE, log entry 57: unsafe] [DESIGN CHOICE, log entry 135: safe] -/
structure Power where
  vmain : Bool := false
  vstby : Bool := true
  viob : Bool := true
  mainPg : Bool := false
  rails : Bool := false
  /-- rails are going down: 0 no, 1 normal profile, 2 fast profile -/
  descent : Nat := 0
  /-- what follows the descent: 0 BOLTED, 1 a module reset's stage 1, 2 stage 1 with MAIN_EN asserted anew, 3 a halt -/
  after : Nat := 0
  mainEn : Bool := false
  epReady : Bool := false
  wakeN : Bool := false
  alertN : Bool := false
  thermtripN : Bool := false
  faultN : Bool := false
  perst : Bool := true
  bolted : Bool := false
  boostOpen : Bool := false
  /-- governor samples since the last boost window closed -/
  sinceClose : Nat := 9000
  boosted0 : Bool := false
  boosted1 : Bool := false
  slotId : Nat := 0
  pairPresent : Bool := false
  /-- MODULE RESET waits to start (R402); bit 0 its QUICK flag -/
  resetPending : Option Bool := none
  /-- regions whose present staging has had a slow stage (R467) -/
  slowSeen : NMap Bool := []
  /-- regions in which a cell failed during the present staging: its other stages are slow (R461) -/
  slowRest : NMap Bool := []
  /-- a BOLTED entry or supply event forbids a quick start next time (R437, R454) -/
  noQuick : Bool := false
  /-- share of the tower cap that a power region holds, in 0.1 A, 200 where unlisted (R462, R463) -/
  shares : NMap Nat := []
  /-- the known-answer runs of stage 5 are done (R442) -/
  tested : Bool := false
deriving DecidableEq, Repr

/-- A sensor of a thermal node (R483, R484): its last reading in 0.1 °C, and whether it is judged failed. -/
structure Sensor where
  value : Int
  failed : Bool := false
deriving DecidableEq, Repr

/-- A node of the thermal model (R482 to R486); temperatures in 0.1 °C.
[DESIGN CHOICE, log entry 58: unsafe] -/
structure ThermNode where
  model : Int := 250
  offset : Int := 0
  /-- by how much the offset has moved in this second, in 0.1 °C (R483) -/
  moved : Nat := 0
  /-- its sensors, by their number within the node, in rising order -/
  sensors : List (Nat × Sensor) := []
  disagree : Bool := false
  throttle : Bool := false
  hard : Bool := false
  /-- of a pane node: the thermal limit of its region in 0.1 A, 200 when none (R486, R487) -/
  limit : Nat := 200
deriving DecidableEq, Repr

/-- A thermal record (R491). -/
structure ThermRec where
  seq : Nat
  type : Nat
  source : Nat
  node : Nat
  model : Int
  sensor : Option Int
  input : Nat
  uptime : Nat
deriving DecidableEq, Repr

/-- Thermal bookkeeping (R490 to R495). -/
structure Therm where
  nodes : NMap ThermNode := []
  records : List ThermRec := []
  nextSeq : Nat := 0
  tripped : Bool := false
  /-- turning points of each tower's bond temperature, newest first -/
  turns : NMap (List Int) := []
  /-- half cycles counted in bins 1 to 3, per tower × 4 + bin -/
  halves : NMap Nat := []
  /-- field bond self-test due, per tower -/
  testDue : NMap Bool := []
  /-- clusters of a partition that the test in progress has done -/
  testAt : NMap Nat := []
  coolant : Bool := false
deriving DecidableEq, Repr

/-- A firmware slot (R408, R537).
[DESIGN CHOICE, log entry 55: unsafe] -/
structure FwSlot where
  full : Bool := true
  svn : Nat := 0
  version : Nat := 0
  digest : List Byte := []
deriving DecidableEq, Repr

/-- A queued attestation (R547): the command that asked, plus one (0 the board), and its nonce. -/
structure AttReq where
  cmd : Nat
  nonce : List Byte
deriving DecidableEq, Repr

/-- A chunked board transfer (R561). -/
structure Xfer where
  component : Nat
  data : List Byte
deriving DecidableEq, Repr

/-- The keyhole and the firmware store (R536 to R549).
[DESIGN CHOICE, log entry 54: unsafe] -/
structure Sec where
  ownerHash : List Byte := []
  owner : Bool := false
  challenge : Option (List Byte) := none
  debug : Bool := false
  attq : List AttReq := []
  signing : Option AttReq := none
  /-- report captured for the present signing -/
  captured : List Byte := []
  report : List Byte := []
  fw : NMap FwSlot := []
  active : NMap Nat := []
  measured : NMap (List Byte) := []
  /-- chunked board transfers in progress, by message code (R561) -/
  xfer : NMap Xfer := []
deriving DecidableEq, Repr

/-- The PCI Express endpoint (R414 to R423).
[DESIGN CHOICE, log entry 59: unsafe] -/
structure Pcie where
  l0 : Bool := false
  training : Bool := false
  vfs : Nat := 0
  ari : Bool := true
  aspmL1 : Bool := true
  vestibule : Bool := false
  /-- KNOCK_STATUS (R356) -/
  knock : W64 := 0
deriving DecidableEq, Repr

/-- Pair bookkeeping beside PAIR_STATUS (R529 to R535). -/
structure Pair where
  /-- PAIR_ROLE pin reads standby -/
  roleStandby : Bool := true
  joined : Bool := false
  txSeq : BitVec 32 := 0
  rxSeq : BitVec 32 := 0
  /-- steps sent and not acknowledged -/
  sent : List MirrorStep := []
  received : List MirrorStep := []
  /-- aperture writes of the present 1 ms -/
  apWrites : List (Nat × Nat × Nat × List Byte) := []
  /-- region writes of runs and commands in flight, for their mirror steps (R530): owner, function, region, offset, bytes -/
  notes : List (Nat × Nat × Nat × Nat × List Byte) := []
  /-- free HBM bytes of the standby beyond its copies of the active's regions (R529, R530) -/
  room : Nat := 0
  /-- last command applied for each letterbox, plus one -/
  last : NMap Nat := []
deriving DecidableEq, Repr

/-- A defect record (R381, R445): source bits 0 fuse, 1 bring-up test, 2 field test, 3 RETIRE_UNIT. -/
structure Defect where
  kind : Nat
  number : Nat
  detail : Nat
  source : BitVec 8
  event : Nat
  /-- it has a place in the fuses or the field record, so that it lasts beyond the session (R446) -/
  kept : Bool := true
deriving DecidableEq, Repr

/-- Work waiting for a drain point (R517 to R519). -/
structure Job where
  kind : Nat
  number : Nat
  /-- the command waiting for it, plus one -/
  cmd : Nat
  /-- what is done: 0 the unit retires, 1 a field test with what it found, 2 a recalibration, 3 virtual cores move off it (R460) -/
  act : Nat
  found : List Finding
deriving DecidableEq, Repr

/-- A stack migration (R524). -/
structure Mig where
  stack : Nat
  back : Bool
  /-- the MIGRATE command, plus one; 0 for the module's own (R527) -/
  cmd : Nat
  /-- chunks of 1 MiB to be copied -/
  chunks : Nat
  /-- ranges of other partitions that hold what was evacuated -/
  temp : List (Nat × Nat) := []
deriving DecidableEq, Repr

/-- A forwarding entry (R525): accesses of the runs listed to the old range go to the new one. -/
structure Forward where
  old : Nat
  new : Nat
  len : Nat
  runs : List Nat
deriving DecidableEq, Repr

/-- The module controller's own records. -/
structure Mc where
  uptime : Nat := 0
  /-- uptime at the end of the last full start since VSTBY came up, plus one (R443) -/
  fullStart : Nat := 0
  eventSeq : Nat := 0
  /-- event log: kind and number, newest first -/
  log : List (Nat × Nat) := []
  defects : List Defect := []
  alerts : W64 := 0
  jobs : List Job := []
  /-- stacks that passed FIELD_TEST since their retirement (R528) -/
  passed : List Nat := []
  mig : Option Mig := none
  /-- forwarding entries (R525) -/
  forwards : List Forward := []
  /-- last shared-state command without a completion entry (R380): opcode, status, tag -/
  sharedDone : Nat × Nat × Nat := (0, 0, 0)
  /-- domain record (R427): module id and domain, and routes by module id -/
  record : Option (Nat × Nat) := none
  routes : NMap Nat := []
  /-- answer to the last board message: code, tag, status and payload -/
  answer : Option (Nat × Nat × Nat × List Byte) := none
  eid : Nat := 0
  /-- bytes returned by the last aperture read, and whether poisoned -/
  lastRead : Option (List Byte × Bool) := none
  /-- last letterbox served, for round-robin (R361) -/
  turn : Nat := 0
  gated : NMap Bool := []
  /-- the bond that failed in each control pair with one failed bond (R211): by core × 32 + pair, bond + 1 -/
  ctrlBonds : NMap Nat := []
  /-- setpoint of a partition's array rails in mV, which the NOR firmware store holds (R439, R456); 0 before the first Vmin search -/
  setpoint : NMap Nat := []
  /-- stacks whose training results the NOR firmware store holds (R301) -/
  trained : NMap Bool := []
  /-- boundary-scan instruction register -/
  jtag : Nat := 0
  serial : List Byte := []
  quick : Bool := false
  /-- by how much the losses of the rails have advanced every core's generation (R502) -/
  genBase : BitVec 16 := 0
  /-- next identifiers -/
  nextCmd : Nat := 0
  nextRun : Nat := 0
deriving DecidableEq, Repr

/-! ### The state -/

/-- Faults: the block stops because a command names something the manual says does not exist. -/
inductive Fault where
  /-- Raised by a command that names a core, cluster, bay, stack, function or other unit beyond the counts of
  R4, R21 and R23. Safe: no such unit exists, so no hardware behaviour is lost. -/
  | noSuchUnit
deriving DecidableEq, Repr

/-- Refusals: commands to which the manual gives no effect. -/
inductive Refusal where
  /-- Raised by an arm of exec that has no meaning yet. Safe: nothing is claimed of it. -/
  | notModelled (mnemonic : String)
  /-- Raised by JTAG_INSTRUCTION for a Waunnum debug instruction after unlock: the manual says that R548 opens
  these instructions and does not say what any of them does. Safe: the machine stops. -/
  | debugInstruction
deriving DecidableEq, Repr

/-- The whole module. Maps are keyed by the numbers of R21 to R25; mem is device memory of this module by
offset as a coherent reader sees it, with unlisted bytes reading 0 (R440). -/
structure State where
  pending : List Instr := []
  /-- the ordering code is WCA-1608 (R1); otherwise WCA-1604 -/
  wca1608 : Bool := true
  cores : NMap Core := []
  bays : NMap Bay := []
  mem : List Host.Cell := []
  /-- check-byte difference of a sector from its correct code (R294), by the offset of the sector's first byte: 0 good, 0x5A5A5A5A the
  poison marker -/
  chk : NMap W32 := []
  dues : List Due := []
  /-- how a stack rests: 0 not, 1 in power-down, 2 in self-refresh (R287, R303) -/
  rest : NMap Nat := []
  /-- postponed refreshes per bank (R299) -/
  refresh : NMap Nat := []
  ctl : NMap W64 := []
  ctr : NMap W64 := []
  host : List Host.Cell := []
  /-- host ranges whose reads fail (R567): address and length -/
  hostBad : List (Nat × Nat) := []
  fns : NMap Fn := []
  regions : NMap Region := []
  cmds : List Cmd := []
  runs : List Run := []
  img : ImageState := {}
  groups : NMap SpecGroup := []
  parts : NMap Part := []
  nbs : NMap NbStack := []
  links : NMap Link := []
  louvres : NMap Louvre := []
  /-- quotas of R342 in bytes: partition × 64 + clock domain × 16 + class, with class 8 for all classes together -/
  quotas : NMap Nat := []
  net : List Msg := []
  waits : List Wait := []
  vis : List PendingVis := []
  /-- writes sent to home bays by masters other than cores -/
  writes : List Store := []
  power : Power := {}
  therm : Therm := {}
  sec : Sec := {}
  pcie : Pcie := {}
  pair : Pair := {}
  mc : Mc := {}
  /-- counter from which each open value is drawn: the model's own field -/
  free : Nat := 0
deriving DecidableEq, Repr

/-- The module right after module reset (R436, R449): bring-up stands at stage 1, nothing is committed, every
register holds the reset value its chapter gives. -/
def State.reset : State := {}

end Sys2Proof.Machine
end

