-- ==== Sys2Proof/WellFormed.lean ====
section
/-! DEFINITION. Well-formed commands: every unit a command names exists (R4, R21 to R25, R67, R168, R241), so
that exec answers no fault on it. -/

namespace Sys2Proof

/-- A physical core (R23). -/
def Unit.core (c : Nat) : Bool := c < 22848
/-- A physical cluster and the bay beneath it (R21). -/
def Unit.cluster (n : Nat) : Bool := n < 1344
/-- A group slot or a stream slot of a core (R167, R241). -/
def Unit.slot (i : Nat) : Bool := i < 4
/-- A lane of a thread group (R167). -/
def Unit.lane (l : Nat) : Bool := l < 32
/-- A PCI Express function (R350). -/
def Unit.fn (f : Nat) : Bool := f < 16
/-- A partition, physical or logical (R4, R37). -/
def Unit.part (p : Nat) : Bool := p < 8
/-- A speculation group of a logical partition (R262). -/
def Unit.specGroup (g : Nat) : Bool := g < 4
/-- An entry of a region table (R64). -/
def Unit.region (i : Nat) : Bool := i < 64
/-- An HBM4E stack (R5). -/
def Unit.stack (n : Nat) : Bool := n < 16
/-- A channel of a stack (R285). -/
def Unit.channel (n : Nat) : Bool := n < 32
/-- A Seunon port (R5). -/
def Unit.port (n : Nat) : Bool := n < 16
/-- A power region of the module: tower × 168 + region (R24). -/
def Unit.powerRegion (g : Nat) : Bool := g < 336
/-- A tower (R4). -/
def Unit.tower (t : Nat) : Bool := t < 2

/-- The issuer of a core instruction exists. -/
def Agent.wf : Agent → Bool
  | .core c => Unit.core c
  | .group c i => Unit.core c && Unit.slot i

/-- The unit that reserved a response buffer exists. -/
def Waiter.wf : Waiter → Bool
  | .core c => Unit.core c
  | .slot c i => Unit.core c && Unit.slot i
  | .walker c i => Unit.core c && Unit.slot i
  | .missEntry b => Unit.cluster b
  | .nearBank st => Unit.stack st
  | .dma => true
  | .port i => Unit.port i

/-- The core whose write arrives at its home bay exists. -/
def Writer.wf : Writer → Bool
  | .core c => Unit.core c
  | .queued => true

/-- A host access comes from a function that exists. -/
def Requester.wf : Requester → Bool
  | .host f => Unit.fn f
  | .moduleController => true
  | .partitionController _ => true
  | .debug => true
  | .board => true

/-- Every unit that a command names exists. -/
def Instr.wf : Instr → Bool
  | .nop who _ => who.wf
  | .add who _ => who.wf
  | .sub who _ => who.wf
  | .mul who _ => who.wf
  | .mulhu who _ => who.wf
  | .and who _ => who.wf
  | .or who _ => who.wf
  | .xor who _ => who.wf
  | .shl who _ => who.wf
  | .shr who _ => who.wf
  | .sar who _ => who.wf
  | .min who _ => who.wf
  | .max who _ => who.wf
  | .addi who _ => who.wf
  | .li who _ => who.wf
  | .cmp who _ => who.wf
  | .br who _ => who.wf
  | .call who _ => who.wf
  | .ret who _ => who.wf
  | .done who _ => who.wf
  | .csrR who _ => who.wf
  | .csrW who _ => who.wf
  | .csrS who _ => who.wf
  | .csrC who _ => who.wf
  | .fenceStore who _ => who.wf
  | .fenceInv who _ => who.wf
  | .fenceAll who _ => who.wf
  | .ld who _ => who.wf
  | .st who _ => who.wf
  | .tdLd who _ => who.wf
  | .msgSend who _ => who.wf
  | .msgRecv who _ => who.wf
  | .msgPoll who _ => who.wf
  | .msgInject c => Unit.core c
  | .vadd who _ => who.wf
  | .vsub who _ => who.wf
  | .vmul who _ => who.wf
  | .vfma who _ => who.wf
  | .vmin who _ => who.wf
  | .vmax who _ => who.wf
  | .vun who _ => who.wf
  | .vcmp who _ => who.wf
  | .vsel who _ => who.wf
  | .vbit who _ => who.wf
  | .vmov who _ => who.wf
  | .vperm who _ => who.wf
  | .vget who _ => who.wf
  | .vld who _ => who.wf
  | .vst who _ => who.wf
  | .vlds who _ => who.wf
  | .vsts who _ => who.wf
  | .vredSum who _ => who.wf
  | .vredSeg who _ => who.wf
  | .cvt who _ => who.wf
  | .cvtEnc who _ => who.wf
  | .cvtDec who _ => who.wf
  | .mma who _ => who.wf
  | .mmaStepBegin c => Unit.core c
  | .accSt who _ => who.wf
  | .accLd who _ => who.wf
  | .accRv who _ => who.wf
  | .accWv who _ => who.wf
  | .tgLaunch who _ => who.wf
  | .blockLaunchBegin c => Unit.core c
  | .tgJoin who _ => who.wf
  | .tgExit who _ => who.wf
  | .tgBar who _ => who.wf
  | .lockTry who _ => who.wf
  | .lockRel who _ => who.wf
  | .yield who _ => who.wf
  | .parkTimeout c slot lane => Unit.core c && Unit.slot slot && Unit.lane lane
  | .tgVote who _ => who.wf
  | .ssStart who _ => who.wf
  | .streamStartBegin c slot => Unit.core c && Unit.slot slot
  | .streamStartEnd c slot => Unit.core c && Unit.slot slot
  | .ssWait who _ => who.wf
  | .ssCancel who _ => who.wf
  | .ssPoll who _ => who.wf
  | .streamLoop c slot => Unit.core c && Unit.slot slot
  | .streamEndl c slot => Unit.core c && Unit.slot slot
  | .streamAdda c slot => Unit.core c && Unit.slot slot
  | .streamMove c slot => Unit.core c && Unit.slot slot
  | .streamXmove c slot => Unit.core c && Unit.slot slot
  | .streamEnd c slot => Unit.core c && Unit.slot slot
  | .rowTransfer c slot => Unit.core c && Unit.slot slot
  | .chPf who _ => who.wf
  | .chPin who _ => who.wf
  | .chUnpin who _ => who.wf
  | .chDead who _ => who.wf
  | .specOpen who _ => who.wf
  | .specClose who _ => who.wf
  | .specConfirm who _ => who.wf
  | .specAbort who _ => who.wf
  | .specPoll who _ => who.wf
  | .specConfirmed lpart group => Unit.part lpart && Unit.specGroup group
  | .specAborted lpart group => Unit.part lpart && Unit.specGroup group
  | .coreWatchdogExpiry c => Unit.core c
  | .groupProgressExpiry c slot => Unit.core c && Unit.slot slot
  | .msgArrival _ => true
  | .clusterClockGate cluster => Unit.cluster cluster
  | .bayReadRequest bay _ _ w => Unit.cluster bay && w.wf
  | .bayFillReturn bay _ => Unit.cluster bay
  | .homeBayWrite w => w.wf
  | .invalidationArrival bay _ => Unit.cluster bay
  | .invalidationAcksComplete bay _ => Unit.cluster bay
  | .responseArrival _ => true
  | .responseTimeout _ => true
  | .bayPatrol bay _ _ => Unit.cluster bay
  | .coreArrayPatrol c _ _ => Unit.core c
  | .hbmSectorRead _ _ => true
  | .hbmSectorWrite _ _ _ => true
  | .hbmRefreshDue stack channel pc _ _ => Unit.stack stack && Unit.channel channel && decide (pc < 2)
  | .hbmPeriodicRetrain stack channel _ _ _ => Unit.stack stack && Unit.channel channel
  | .hbmOdeccPoll stack _ => Unit.stack stack
  | .kickTaken stack => Unit.stack stack
  | .nbStepBoundary stack channel _ => Unit.stack stack && Unit.channel channel
  | .nbSequenceDone stack => Unit.stack stack
  | .nbFwResume stack _ => Unit.stack stack
  | .sqEntryTaken f => Unit.fn f
  | .sqFetchFailure f => Unit.fn f
  | .coalesceTimeout f => Unit.fn f
  | .progressCompletion _ => true
  | .msixVectorUnmask f _ => Unit.fn f
  | .regionAttrWrite by_ f i _ => Unit.fn by_ && Unit.fn f && Unit.region i
  | .regionAllocationEnd f i => Unit.fn f && Unit.region i
  | .regionReleaseEnd f i => Unit.fn f && Unit.region i
  | .allocationCancelEnd f i => Unit.fn f && Unit.region i
  | .lbEnable f => Unit.fn f
  | .lbDisable f => Unit.fn f
  | .doorbellSqTail f _ => Unit.fn f
  | .doorbellCqHead f _ => Unit.fn f
  | .lbStatusErrorClear f _ => Unit.fn f
  | .transomRepairWrite _ pcore g _ => Unit.core pcore && decide (g < 32)
  | .registerWrite by_ _ _ _ => by_.wf
  | .apertureRead f _ _ => Unit.fn f
  | .apertureWrite f _ _ => Unit.fn f
  | .runLaunch _ => true
  | .shutterStageEnd region => Unit.powerRegion region
  | .runCompletion _ => true
  | .runTimeLimit _ => true
  | .holdLimitExpiry _ => true
  | .stepMonitorExpiry _ => true
  | .fabricMonitorExpiry cluster => Unit.cluster cluster
  | .doorProgressMonitor p channel _ _ => Unit.part p && decide (channel < 4)
  | .heartbeatMiss p => Unit.part p
  | .mcWatchdogExpiry => true
  | .doorDrainEnd p => Unit.part p
  | .forcedBayReset bay => Unit.cluster bay
  | .partitionResetDone p _ => Unit.part p
  | .drainPoint lpart => Unit.part lpart
  | .mirrorStepReceived _ => true
  | .mirrorStepAck _ => true
  | .pairLinkLoss => true
  | .louvreWindowEnd louvre => decide (louvre < 45729)
  | .quotaUpdate p => Unit.part p
  | .cellTelemetrySample region _ => Unit.powerRegion region
  | .limiterSample region _ => Unit.powerRegion region
  | .governorSample tower _ _ _ => Unit.tower tower
  | .boostWindowClose => true
  | .busConverterFailure k => decide (k < 4)
  | .vstbyUp _ _ _ _ => true
  | .mainPgAssert _ _ _ _ => true
  | .bringupStage3 _ => true
  | .bringupStage4 _ => true
  | .bringupStage5 _ => true
  | .bringupComplete => true
  | .mainPgTimeout => true
  | .railStartTimeout => true
  | .mainPgDeassert => true
  | .vmainFault => true
  | .vmainDip => true
  | .vstbyLoss => true
  | .viobLoss => true
  | .vmainNotRemoved => true
  | .railsDownDone => true
  | .moduleResetStart => true
  | .ajarEntryDone p => Unit.part p
  | .shutEntryDone p => Unit.part p
  | .ajarIdleExpiry p => Unit.part p
  | .shutIdleExpiry p => Unit.part p
  | .wakeDone p => Unit.part p
  | .pcieTlpInL1 => true
  | .pcieKnock _ _ => true
  | .seunonKnock port => Unit.port port
  | .seunonStandbyTraffic port => Unit.port port
  | .seunonTrainingDone port _ => Unit.port port
  | .seunonFlitError port _ => Unit.port port
  | .seunonPortDown port => Unit.port port
  | .seunonRemoteRequest port r => Unit.port port && Unit.fn r.fn
  | .hingeBridgeFlitError link _ => decide (link < 84)
  | .flr f => Unit.fn f
  | .vfEnable _ => true
  | .vfDisable f => Unit.fn f
  | .busMasterEnableClear f => Unit.fn f
  | .busMasterEnableSet f => Unit.fn f
  | .d3hotEntry f => Unit.fn f
  | .pcieFundamentalReset => true
  | .perstNRelease => true
  | .thermalModelUpdate _ => true
  | .diodeComparatorTrip node => decide (node < 420)
  | .thermalActionRelease node => decide (node < 500)
  | .disagreementEpisodeEnd node => decide (node < 600)
  | .sensorFailure node _ => decide (node < 600)
  | .bondTempSample tower => Unit.tower tower
  | .coolantAlert => true
  | .coolantAlertEnd => true
  | .attestSigningStart => true
  | .queryIdentity _ => true
  | .queryState _ => true
  | .queryDefects _ => true
  | .readCounters _ => true
  | .imageBegin _ => true
  | .imageChunk _ => true
  | .imageCommit _ => true
  | .imageUnload _ => true
  | .patchTables _ => true
  | .run _ => true
  | .runSpeculative _ => true
  | .confirm _ => true
  | .abortSpec _ => true
  | .cancel _ => true
  | .resultRelease _ => true
  | .copy _ => true
  | .fill _ => true
  | .scrub _ => true
  | .pin _ => true
  | .unpin _ => true
  | .setClassTable _ => true
  | .setRegulationMode _ => true
  | .powerState _ => true
  | .powerPolicy _ => true
  | .resetCore _ => true
  | .resetCluster _ => true
  | .resetPartition _ => true
  | .resetModule _ => true
  | .collectDump _ => true
  | .retireUnit _ => true
  | .fieldTest _ _ => true
  | .recalibrate _ _ => true
  | .fwStage _ => true
  | .fwActivate _ _ => true
  | .migrate _ => true
  | .attest _ => true
  | .getCert _ => true
  | .debugUnlock _ => true
  | .thermalRecordRead _ => true
  | .clearTrip _ => true
  | .pairJoin _ _ => true
  | .pairSync _ _ => true
  | .pairTakeover _ => true
  | .pairRelease _ => true
  | .echo _ => true
  | .identity _ => true
  | .readReg _ _ => true
  | .alertStatus _ => true
  | .wake _ => true
  | .bmcResetModule _ _ => true
  | .bmcThermalRecordRead _ _ => true
  | .bmcClearTrip _ => true
  | .bmcFwStage _ _ _ _ _ => true
  | .ownerEnroll _ _ _ _ => true
  | .domainWrite _ _ _ _ _ => true
  | .bmcAttest _ _ => true
  | .attestRead _ _ => true
  | .bmcGetCert _ _ _ => true
  | .mctpControlMessage _ => true
  | .jtagInstruction _ _ => true
  | .steppedCommandStep _ _ => true
  | .d3hotExit f => Unit.fn f
  | .vstbyAbsent => true
  | .viobReturn => true
  | .baseDieFault stack => Unit.stack stack
  | .pcieLinkL0 => true
  | .pcieLinkL1Entry => true
  | .apertureMirrorStep => true

end Sys2Proof
end

