-- ==== Sys2Proof/Machine/Ops.lean ====
section
/-! DEFINITION. The named operations every meaning is built from: numbers and bytes, sparse maps, the numbering
of units, control-space registers, counters, open values, and the access to cores, groups, runs and functions. -/

namespace Sys2Proof.Machine
open Sys2Proof

/-- What a command answers. -/
abbrev Out := Host.Outcome State Fault Refusal

/-- Answers the next state where the unit the command names exists (R4, R21 to R25).
[DESIGN CHOICE, log entry 1: safe] -/
def onUnit (ok : Bool) (s' : State) : Out := if ok then .next s' else .fault .noSuchUnit

/-! ### Numbers, bit fields and bytes (R9, R10) -/

/-- The n bits of v from bit lo up. -/
def bitsN (v lo n : Nat) : Nat := v / 2 ^ lo % 2 ^ n

/-- v with its n bits from bit lo up replaced by x. -/
def putN (v lo n x : Nat) : Nat := v - bitsN v lo n * 2 ^ lo + x % 2 ^ n * 2 ^ lo

/-- The field [lo + n − 1 : lo] of a register. -/
def fld (v : W64) (lo n : Nat) : Nat := bitsN v.toNat lo n

/-- A register with the field [lo + n − 1 : lo] set to x. -/
def setFld (v : W64) (lo n x : Nat) : W64 := BitVec.ofNat 64 (putN v.toNat lo n x)

/-- A number to 64 bits. -/
def w64 (n : Nat) : W64 := BitVec.ofNat 64 n

/-- v taken as a w-bit two's complement number. -/
def sextN (w v : Nat) : Int := if v % 2 ^ w < 2 ^ (w - 1) then (v % 2 ^ w : Nat) else (v % 2 ^ w : Nat) - (2 ^ w : Nat)

/-- The little-endian number of a byte list. -/
def leNat : List Byte → Nat
  | [] => 0
  | b :: r => b.toNat + 256 * leNat r

/-- The n bytes of v, least significant first. -/
def leBytes : Nat → Nat → List Byte
  | 0, _ => []
  | n + 1, v => BitVec.ofNat 8 v :: leBytes n (v / 256)

/-- The number in n bytes from offset a of a byte list; missing bytes read 0. -/
def leAt (bs : List Byte) (a n : Nat) : Nat := leNat ((bs.drop a).take n)

/-- n zero bytes. -/
def zeros (n : Nat) : List Byte := List.replicate n 0

/-- The first n bytes of a list, padded with zeros. -/
def padTo (n : Nat) (bs : List Byte) : List Byte := bs.take n ++ zeros (n - bs.length)

/-- Whether all bytes of a list are 0. -/
def allZero (bs : List Byte) : Bool := bs.all (· == 0)

/-- Counters saturate (R14). -/
def sat64 (n : Nat) : W64 := w64 (min n (2 ^ 64 - 1))

/-- a divided by b, rounded up. -/
def cdiv (a b : Nat) : Nat := (a + b - 1) / b

/-! ### Sparse maps -/

/-- The value of key k, d where unlisted.
[DESIGN CHOICE, log entry 3: unsafe] -/
def nget {α : Type} (d : α) : NMap α → Nat → α
  | [], _ => d
  | (k', v) :: r, k => if k = k' then v else nget d r k

/-- A map without key k. -/
def ndel {α : Type} (k : Nat) : NMap α → NMap α
  | [] => []
  | (k', v) :: r => if k = k' then ndel k r else (k', v) :: ndel k r

/-- A map with an entry put in before the first higher key. -/
def nins {α : Type} (k : Nat) (v : α) : NMap α → NMap α
  | [] => [(k, v)]
  | (k', w) :: r => if k < k' then (k, v) :: (k', w) :: r else (k', w) :: nins k v r

/-- A map with key k set to v; setting the value d of unlisted keys removes the entry. -/
def nset {α : Type} [DecidableEq α] (d : α) (m : NMap α) (k : Nat) (v : α) : NMap α :=
  if v = d then ndel k m else nins k v (ndel k m)

/-- n bytes from address a; unlisted bytes read 0. -/
def rdBytes (m : NMap Byte) (a : Nat) : Nat → List Byte
  | 0 => []
  | n + 1 => nget 0 m a :: rdBytes m (a + 1) n

/-- A memory with the bytes stored from address a up. -/
def wrBytes (m : NMap Byte) (a : Nat) : List Byte → NMap Byte
  | [] => m
  | b :: r => wrBytes (nset 0 m a b) (a + 1) r

/-- A memory with n bytes from address a set to 0. -/
def clrBytes (m : NMap Byte) (a n : Nat) : NMap Byte := m.filter fun e => e.1 < a || a + n ≤ e.1

/-- The canonical form of a memory: strictly rising addresses and no byte 0. -/
def memWf : NMap Byte → Bool
  | [] => true
  | [(_, v)] => v != 0
  | (k, v) :: (k', v') :: r => v != 0 && k < k' && memWf ((k', v') :: r)

/-- Replaces the first element that satisfies p. -/
def updFirst {α : Type} (p : α → Bool) (f : α → α) : List α → List α
  | [] => []
  | x :: r => if p x then f x :: r else x :: updFirst p f r

/-! ### Numbering of units (R4, R5, R21 to R25, R37) -/

/-- Physical cluster of a physical core (R23). -/
def clusterOf (c : Nat) : Nat := c / 17

/-- Partition of a physical cluster (R22). -/
def partOfCluster (n : Nat) : Nat :=
  4 * (n / 672) + (if 12 ≤ n % 24 then 2 else 0) + (if 14 ≤ n % 672 / 24 then 1 else 0)

/-- Partition of a physical core. -/
def partOf (c : Nat) : Nat := partOfCluster (clusterOf c)

/-- Power region of a physical cluster, counted over the module: tower × 168 + region (R24). -/
def powerRegionOf (n : Nat) : Nat := 168 * (n / 672) + (n % 672 / 24 / 2) * 12 + n % 24 / 2

/-- The four clusters of a power region of the module (R24). -/
def clustersOfRegion (g : Nat) : List Nat :=
  let b := 672 * (g / 168) + (g % 168 / 12) * 48 + (g % 12) * 2
  [b, b + 1, b + 24, b + 25]

/-- The clusters of a partition in rising order (R21, R22). -/
def clustersOfPart (p : Nat) : List Nat :=
  (List.range 14).flatMap fun r => (List.range 12).map fun c =>
    672 * (p / 4) + ((if p % 2 = 1 then 14 else 0) + r) * 24 + (if p % 4 / 2 = 1 then 12 else 0) + c

/-- Length of a partition's HBM range (R16): 144 GiB. -/
def partBytes : Nat := 0x2400000000

/-- Partition of an HBM offset (R16). -/
def partOfOff (o : Nat) : Nat := o / partBytes

/-- The near-bank stacks of the ordering code (R1). -/
def State.nbStack (s : State) (st : Nat) : Bool := if s.wca1608 then st % 2 = 0 else st % 4 = 0

/-! ### Control-space registers (R12, R16) -/

/-- BAY_CFG of a bay (R216). -/
def offBayCfg (n : Nat) : Nat := 0x60000000 + n * 0x1000
/-- TRANSOM_REPAIR of a core and group (R210). -/
def offRepair (c g : Nat) : Nat := 0x70000000 + c * 0x100 + g * 8
/-- TRANSOM_STATUS of a core (R217). -/
def offTransom (c : Nat) : Nat := 0x78000000 + c * 8
/-- CACHE_POLICY of a partition and class (R229). -/
def offCache (p c : Nat) : Nat := 0x68000000 + p * 0x100 + c * 8
/-- REMOTE_POLICY of a partition (R229). -/
def offRemote (p : Nat) : Nat := 0x68000040 + p * 0x100
/-- CLASS_TABLE of a partition and class (R343). -/
def offClass (p c : Nat) : Nat := 0x69000000 + p * 0x100 + c * 8
/-- REG_MODE of a partition (R343). -/
def offRegMode (p : Nat) : Nat := 0x69000040 + p * 0x100
/-- HBM_MAP of a partition (R290). -/
def offHbmMap (p : Nat) : Nat := 0x50000000 + p * 0x1000
/-- HBM_CHAN_STATUS of a stack and channel (R302). -/
def offChan (st c : Nat) : Nat := 0x51000000 + st * 0x1000 + c * 0x40
/-- NB_STATUS of a stack (R328). -/
def offNb (st : Nat) : Nat := 0x52000000 + st * 0x1000
/-- NB_STEP_MAP of a partition and step (R313). -/
def offStep (p k : Nat) : Nat := 0x53000000 + p * 0x2000 + k * 8
/-- REGION_PWR of a power region of the module (R468). -/
def offRegionPwr (g : Nat) : Nat := 0x6C000000 + g * 0x40
/-- TOWER_PWR of a tower (R468). -/
def offTower (t : Nat) : Nat := 0x6C010000 + t * 0x40
/-- SUPPLY_STATUS (R468). -/
def offSupply : Nat := 0x6C010100
/-- PWR_STATE of a partition (R481). -/
def offPwr (p : Nat) : Nat := 0x6C020000 + p * 0x100
/-- PWR_MODULE (R481). -/
def offPwrModule : Nat := 0x6C020800
/-- THERM_STATUS (R496). -/
def offTherm : Nat := 0x6C030000
/-- THERM_CYCLES of a tower (R496). -/
def offCycles (t : Nat) : Nat := 0x6C030100 + t * 0x20
/-- BRINGUP_STATUS (R449). -/
def offBringup : Nat := 0x01000000
/-- KEYHOLE_STATUS (R549). -/
def offKeyhole : Nat := 0x01000100
/-- ROLLBACK (R549). -/
def offRollback : Nat := 0x01000108
/-- SEUNON_ID (R435). -/
def offSeunonId : Nat := 0x80000000
/-- SEUNON_PORT of a port (R435). -/
def offPort (i : Nat) : Nat := 0x80001000 + i * 0x40
/-- SEUNON_ROUTE of a module id (R435). -/
def offRoute (m : Nat) : Nat := 0x80010000 + m * 8
/-- PAIR_STATUS (R535). -/
def offPair : Nat := 0x80020000

/-- Whether an offset is one of n registers spaced by step from a base. -/
def isReg (off base step n : Nat) : Bool :=
  base ≤ off && (off - base) % step == 0 && (off - base) / step < n

/-- The value a control-space register holds at reset, as each chapter's table gives it. -/
def ctlReset (wca1608 : Bool) (off : Nat) : W64 :=
  if isReg off (offBayCfg 0) 0x1000 1344 then 0x1000
  else if isReg (off % 0x100) 0 8 8 && isReg (off - off % 0x100) 0x68000000 0x100 8 then 0xE10
  else if isReg off (offRemote 0) 0x100 8 then 0x104
  else if isReg off (offRegMode 0) 0x100 8 then 0x0000199901000010
  else if isReg off (offHbmMap 0) 0x1000 8 then
    (if wca1608 || (off - offHbmMap 0) / 0x1000 % 2 == 0 then 0x1000000 else 0)
  else if isReg off (offNb 0) 0x1000 16 then
    (if (off - offNb 0) / 0x1000 % (if wca1608 then 2 else 4) == 0 then 1 else 0)
  else if isReg off (offRegionPwr 0) 0x40 336 then 0xC8000000
  else if isReg off (offTower 0) 0x40 2 then w64 ((if wca1608 then 1225 else 1275) * 2 ^ 24)
  else if off = offSupply then 0xF0
  else if isReg off (offPwr 0) 0x100 8 then 2
  else if off = offBringup then 1
  else 0

/-- A control-space register. -/
def State.creg (s : State) (off : Nat) : W64 := nget (ctlReset s.wca1608 off) s.ctl off

/-- Sets a control-space register. -/
def State.setCreg (s : State) (off : Nat) (v : W64) : State :=
  { s with ctl := nset (ctlReset s.wca1608 off) s.ctl off v }

/-- A field of a control-space register. -/
def State.cfld (s : State) (off lo n : Nat) : Nat := fld (s.creg off) lo n

/-- Sets a field of a control-space register. -/
def State.setCfld (s : State) (off lo n x : Nat) : State := s.setCreg off (setFld (s.creg off) lo n x)

/-! ### Counters (R14, R382) -/

/-- The key of a counter: family, unit and place in the family's order (R382).
[DEDUCED, log entry 78: unsafe] -/
def ctrKey (fam unit pos : Nat) : Nat := (fam * 65536 + unit) * 256 + pos

/-- A counter's value. -/
def State.counter (s : State) (fam unit pos : Nat) : W64 := nget 0 s.ctr (ctrKey fam unit pos)

/-- Adds to a counter, saturating (R14). -/
def State.bump (s : State) (fam unit pos n : Nat) : State :=
  { s with ctr := nset 0 s.ctr (ctrKey fam unit pos) (sat64 ((s.counter fam unit pos).toNat + n)) }

/-- Sets a counter. -/
def State.setCounter (s : State) (fam unit pos : Nat) (v : W64) : State :=
  { s with ctr := nset 0 s.ctr (ctrKey fam unit pos) v }

/-- Clears the counters of one unit of a family. -/
def State.clearCounters (s : State) (fam unit : Nat) : State :=
  { s with ctr := s.ctr.filter fun e => e.1 / 256 != fam * 65536 + unit }

/-! ### Open values -/

/-- The open value the machine draws next.
[DESIGN CHOICE, log entry 7: safe] [DESIGN CHOICE, log entry 99: safe] -/
def State.draw (s : State) : Nat := Config.freeBits s.free

/-- The state after an open value was drawn. -/
def State.drew (s : State) : State := { s with free := s.free + 1 }

/-- Writes a record of the event log: the rule that makes it and a number (R446). -/
def State.logEv (s : State) (kind num : Nat) : State :=
  { s with mc := { s.mc with log := (kind, num) :: s.mc.log, eventSeq := s.mc.eventSeq + 1 } }

/-- Sets a bit of the alert causes and asserts ALERT_N (R561). -/
def State.alert (s : State) (b : Nat) : State :=
  { s with mc := { s.mc with alerts := s.mc.alerts ||| w64 (2 ^ b) }, power := { s.power with alertN := true } }

/-! ### Units of the state -/

/-- A physical core. -/
def State.core (s : State) (c : Nat) : Core := nget {} s.cores c

/-- The generation that a core's requests carry (R502). -/
def State.coreGen (s : State) (c : Nat) : BitVec 16 := (s.core c).gen + s.mc.genBase

/-- Sets a physical core. -/
def State.setCore (s : State) (c : Nat) (k : Core) : State := { s with cores := nset {} s.cores c k }

/-- A bay. -/
def State.bay (s : State) (n : Nat) : Bay := nget {} s.bays n

/-- Sets a bay. -/
def State.setBay (s : State) (n : Nat) (b : Bay) : State := { s with bays := nset {} s.bays n b }

/-- A PCI Express function. -/
def State.fn (s : State) (f : Nat) : Fn := nget {} s.fns f

/-- Sets a PCI Express function. -/
def State.setFn (s : State) (f : Nat) (x : Fn) : State := { s with fns := nset {} s.fns f x }

/-- A region table entry (R64). -/
def State.region (s : State) (f i : Nat) : Region := nget {} s.regions (f * 64 + i)

/-- Sets a region table entry. -/
def State.setRegion (s : State) (f i : Nat) (r : Region) : State :=
  { s with regions := nset {} s.regions (f * 64 + i) r }

/-- A physical partition's controller. -/
def State.part (s : State) (p : Nat) : Part := nget {} s.parts p

/-- Sets a physical partition's controller. -/
def State.setPart (s : State) (p : Nat) (x : Part) : State := { s with parts := nset {} s.parts p x }

/-- A speculation group: logical partition × 4 + group (R262). -/
def State.group (s : State) (g : Nat) : SpecGroup := nget {} s.groups g

/-- Sets a speculation group. -/
def State.setGroup (s : State) (g : Nat) (x : SpecGroup) : State := { s with groups := nset {} s.groups g x }

/-- A near-bank stack. -/
def State.nb (s : State) (st : Nat) : NbStack := nget {} s.nbs st

/-- Sets a near-bank stack. -/
def State.setNb (s : State) (st : Nat) (x : NbStack) : State := { s with nbs := nset {} s.nbs st x }

/-- A run by its identifier. -/
def State.run (s : State) (id : Nat) : Option Run := s.runs.find? (·.id == id)

/-- Changes a run. -/
def State.modRun (s : State) (id : Nat) (f : Run → Run) : State :=
  { s with runs := updFirst (·.id == id) f s.runs }

/-- A command in flight by its identifier. -/
def State.cmd (s : State) (id : Nat) : Option Cmd := s.cmds.find? (·.id == id)

/-- Changes a command in flight. -/
def State.modCmd (s : State) (id : Nat) (f : Cmd → Cmd) : State :=
  { s with cmds := updFirst (·.id == id) f s.cmds }

/-- The module's own id in its Seunon domain (R427). -/
def State.moduleId (s : State) : Nat := s.cfld offSeunonId 0 12

/-- Whether a partition's doors admit a packet (R508); those of an unusable partition never open (R438). -/
def State.doorShut (s : State) (p : Nat) : Bool :=
  decide ((s.part p).door ≠ .open_) || bitsN (s.cfld offBringup 48 8) p 1 == 1

/-- Whether bring-up found a partition unusable (R438, R449). -/
def State.unusable (s : State) (p : Nat) : Bool := bitsN (s.cfld offBringup 48 8) p 1 == 1

/-! ### Power states (R469 to R481) -/

/-- Adds 1 to counter k of a partition's power-state counters, which do not saturate (R481). -/
def State.pwrCount (s : State) (p k : Nat) : State :=
  s.setCreg (offPwr p + 8 + 8 * k) (s.creg (offPwr p + 8 + 8 * k) + 1)

/-- Whether a usable partition is not in OPEN, or on its way elsewhere (R469, R473). -/
def State.asleep (s : State) (p : Nat) : Bool :=
  (s.cfld (offPwr p) 0 2 != 0 || s.cfld (offPwr p) 8 4 != 0) && !s.unusable p

/-- A wake of a partition alone in KNOCK_STATUS (R356, R476): COUNT rises, SOURCE stays, and FROM_STATE is the module's state unless it
is OPEN.
[DEDUCED, log entry 137: unsafe] -/
def State.countWake (s : State) : State :=
  let m := s.cfld offPwrModule 0 2
  let k := if m = 0 then s.pcie.knock else setFld s.pcie.knock 4 4 m
  { s with pcie := { s.pcie with knock := setFld k 32 32 (fld k 32 32 + 1) } }

/-- Whether a demand begins a wake of a partition: it sleeps, or enters a lower state and no wake follows yet (R476, R479). -/
def State.beginsWake (s : State) (p : Nat) : Bool :=
  !s.unusable p &&
  (match s.cfld (offPwr p) 8 4 with
   | 0 => s.cfld (offPwr p) 0 2 != 0
   | 3 => false
   | _ => !(s.part p).wakeAfter)

/-- A partition wakes to OPEN; during an entry the wake follows the entry and is counted (R476, R479). -/
def State.openPart (s : State) (p : Nat) : State :=
  if s.unusable p then s
  else
    match s.cfld (offPwr p) 8 4 with
    | 0 => if s.cfld (offPwr p) 0 2 = 0 then s
           else (s.setCfld (offPwr p) 8 4 3).setPart p { s.part p with wakeTo := 0 }
    | 3 => s.setPart p { s.part p with wakeTo := 0 }
    | _ => if (s.part p).wakeAfter then s.setPart p { s.part p with wakeTo := 0 }
           else (s.pwrCount p 3).setPart p { s.part p with wakeAfter := true, wakeTo := 0 }

/-- A request at a partition's doors, a launch or a command wakes it to OPEN (R476).
[DEDUCED, log entry 19: safe] -/
def State.demandWake (s : State) (p : Nat) : State := (if s.beginsWake p then s.countWake else s).openPart p

/-- The wake that a waiting access asks for. -/
def State.wakeFor (s : State) (w : Option Nat) : State :=
  match w with
  | some p => s.demandWake p
  | none => s

/-! ### A core's registers (R72, R95) -/

/-- s[n]; s0 reads 0 (R72). -/
def Core.sreg (k : Core) (n : Nat) : W64 := if n = 0 then 0 else nget 0 k.s n

/-- Writes s[n]; a write to s0 is discarded (R72). -/
def Core.setS (k : Core) (n : Nat) (v : W64) : Core := if n = 0 then k else { k with s := nset 0 k.s n v }

/-- p[n]; p0 reads true (R72). -/
def Core.preg (k : Core) (n : Nat) : Bool := if n = 0 then true else nget false k.p n

/-- Writes p[n]; a write to p0 is discarded (R72). -/
def Core.setP (k : Core) (n : Nat) (v : Bool) : Core := if n = 0 then k else { k with p := nset false k.p n v }

/-- v[n] (R150). -/
def Core.vreg (k : Core) (n : Nat) : BitVec 2048 := nget 0 k.v n

/-- Writes v[n]. -/
def Core.setV (k : Core) (n : Nat) (v : BitVec 2048) : Core := { k with v := nset 0 k.v n v }

/-- The value a control and status register takes at core reset (R95). -/
def csrReset (n : Nat) : W64 := if n = 0x020 then 0x0C35 else 0

/-- A stored control and status register (R95). -/
def Core.csrReg (k : Core) (n : Nat) : W64 := nget (csrReset n) k.csr n

/-- Sets a stored control and status register. -/
def Core.setCsr (k : Core) (n : Nat) (v : W64) : Core := { k with csr := nset (csrReset n) k.csr n v }

/-- Adds to a counter among the control and status registers (R14). -/
def Core.bumpCsr (k : Core) (n x : Nat) : Core := k.setCsr n (sat64 ((k.csrReg n).toNat + x))

/-- Scratchpad bytes of the present split (R83). -/
def Core.spadSize (k : Core) : Nat := (k.csrReg 0x011).toNat

/-- Private sill region bytes (R95). -/
def Core.privSize (k : Core) : Nat := (k.csrReg 0x012).toNat

/-- The function the core's launch runs for (R95 RUN_INFO.FUNCTION). -/
def Core.fnOf (k : Core) : Nat := fld (k.csrReg 0x002) 20 4

/-- The virtual core number of the launch (R95 VCORE_ID). -/
def Core.vc (k : Core) : Nat := fld (k.csrReg 0x001) 0 15

/-- The member number of a physical core: its place among the slots that the switch attaches (R196). -/
def State.member (s : State) (c : Nat) : Nat :=
  if s.cfld (offBayCfg (clusterOf c)) 8 5 < c % 17 then c % 17 - 1 else c % 17

/-- The physical core that carries a virtual core. -/
def State.placed (s : State) (v : Nat) : Option Nat :=
  match nget 0 s.img.place v with
  | 0 => none
  | c + 1 => some c

/-- The member k of a physical cluster (R196). -/
def State.memberCore (s : State) (cluster k : Nat) : Nat :=
  cluster * 17 + (if s.cfld (offBayCfg cluster) 8 5 ≤ k then k + 1 else k)

/-- Words that the instruction cache holds (R72): 16 KiB. -/
def icacheWords : Nat := 2048

/-- An instruction cache that holds one more word; a full one loses a word, and which one is open, so a word held may have to be
fetched again (R72, R497). -/
def holdWord (held : List Nat) (a : Nat) : List Nat :=
  if held.contains a then held else (held ++ [a]).drop (held.length + 1 - icacheWords)

/-- Clears the watchdog's COUNT and counts a retirement (R96), and the instruction cache holds the word of the instruction (R72); no
command observes COUNT's growth. -/
def Core.retired (k : Core) : Core :=
  { (k.bumpCsr 0x009 1).setCsr 0x020 (setFld (k.csrReg 0x020) 32 16 0) with
    stall := 0, icache := holdWord k.icache (k.codeBase + k.pc) }

/-- Retires the instruction at the core's program counter (R75). -/
def Core.retire (k : Core) : Core := { k.retired with pc := k.pc + 8 }

/-! ### The keyhole's register (R549) -/

/-- KEYHOLE_STATUS follows the attestation queue, the challenge, the unlock and the enrolled bit. -/
def State.keyhole (s : State) : State :=
  let x := s.sec
  s.setCreg offKeyhole (w64 ((x.attq.length + (if x.signing.isSome then 1 else 0)) * 256 + (if x.challenge.isSome then 4 else 0) +
    (if x.debug then 2 else 0) + (if x.owner then 1 else 0)))

end Sys2Proof.Machine
end

