-- ==== Sys2Proof/Machine/Flags.lean ====
section
/-! DEFINITION. Predicates: the block has no condition flags; every condition is a predicate register, and these
are the computations that write one (R78, R155, R193). -/

namespace Sys2Proof.Machine
open Sys2Proof

/-- The comparison that CMP's FUNC names (R78), on values of any width. -/
def cmpBits {w : Nat} (func : Nat) (a b : BitVec w) : Option Bool :=
  match func with
  | 0x00 => some (a == b)
  | 0x01 => some (a != b)
  | 0x02 => some (a.slt b)
  | 0x03 => some (a.ult b)
  | 0x04 => some (!a.slt b)
  | 0x05 => some (!a.ult b)
  | _ => none

/-- The operation on predicates that CMP's FUNC names (R78). -/
def cmpPred (func : Nat) (a b : Bool) : Option Bool :=
  match func with
  | 0x10 => some (a && b)
  | 0x11 => some (a || b)
  | 0x12 => some (a != b)
  | 0x13 => some (!a)
  | _ => none

/-- Whether CMP's FUNC is defined (R78). -/
def cmpDefined (func : Nat) : Bool := decide (func ≤ 0x05) || (decide (0x10 ≤ func) && decide (func ≤ 0x13))

end Sys2Proof.Machine
end

