-- ==== Sys2Proof/Machine/Formats.lean ====
section
/-! DEFINITION. Number formats (R99 to R117): exact values, decoding, rounding and conversion, the MX, codebook and
ternary blocks, FP32 arithmetic (R104, R152), and sums whose order is open (R123, R125). -/

namespace Sys2Proof.Machine
open Sys2Proof

/-- An exact value: NaN, an infinity, or (−1)^neg × m × 2^e (R103). -/
inductive Num where
  | nan
  | inf (neg : Bool)
  | fin (neg : Bool) (m : Nat) (e : Int)
deriving DecidableEq, Repr

/-- A floating-point element layout (R103): exponent and mantissa bits, bias, and what its all-ones exponent means:
0 infinity and NaN, 1 NaN for the all-ones code only, 2 finite values only. -/
structure Flt where
  eb : Nat
  mb : Nat
  bias : Nat
  style : Nat
deriving DecidableEq, Repr

/-- FP32. -/
def fp32 : Flt := { eb := 8, mb := 23, bias := 127, style := 0 }
/-- FP16. -/
def fp16 : Flt := { eb := 5, mb := 10, bias := 15, style := 0 }
/-- BF16. -/
def bf16 : Flt := { eb := 8, mb := 7, bias := 127, style := 0 }
/-- FP8-E4M3. -/
def e4m3 : Flt := { eb := 4, mb := 3, bias := 7, style := 1 }
/-- FP8-E5M2. -/
def e5m2 : Flt := { eb := 5, mb := 2, bias := 15, style := 0 }
/-- E3M2. -/
def e3m2 : Flt := { eb := 3, mb := 2, bias := 3, style := 2 }
/-- E2M3. -/
def e2m3 : Flt := { eb := 2, mb := 3, bias := 1, style := 2 }
/-- E2M1. -/
def e2m1 : Flt := { eb := 2, mb := 1, bias := 1, style := 2 }

/-- Bits of a layout. -/
def Flt.width (f : Flt) : Nat := 1 + f.eb + f.mb

/-- Magnitude code of the largest finite value (R103). -/
def Flt.maxCode (f : Flt) : Nat :=
  match f.style with
  | 0 => (2 ^ f.eb - 1) * 2 ^ f.mb - 1
  | 1 => 2 ^ (f.eb + f.mb) - 2
  | _ => 2 ^ (f.eb + f.mb) - 1

/-- Exponent of the smallest subnormal. -/
def Flt.emin (f : Flt) : Int := 1 - f.bias - f.mb

/-- The value of a code (R103). -/
def Flt.dec (f : Flt) (v : Nat) : Num :=
  let neg := bitsN v (f.eb + f.mb) 1 == 1
  let mag := v % 2 ^ (f.eb + f.mb)
  if f.maxCode < mag then
    (if f.style = 0 ∧ mag = f.maxCode + 1 then .inf neg else .nan)
  else
    let e := mag / 2 ^ f.mb
    let m := mag % 2 ^ f.mb
    if e = 0 then .fin neg m f.emin else .fin neg (2 ^ f.mb + m) (f.emin + e - 1)

/-- Canonical NaN of a layout (R104). -/
def Flt.nanCode (f : Flt) : Nat :=
  if f.style = 1 then f.maxCode + 1 else (2 ^ f.eb - 1) * 2 ^ f.mb + 2 ^ (f.mb - 1)

/-- Bits needed to write m, less one. -/
def flog2 (m : Nat) : Nat := m.log2

/-- A magnitude m × 2^e over ulps of 2^k, rounded to a whole number of them: to nearest even, or stochastically with
16 random bits (R114, R116). -/
def roundUlps (m : Nat) (e k : Int) (u : Option Nat) : Nat :=
  if k ≤ e then m * 2 ^ (e - k).toNat
  else
    let d := 2 ^ (k - e).toNat
    let t := m / d
    let r := m % d
    match u with
    | none => if d < 2 * r ∨ (2 * r = d ∧ t % 2 = 1) then t + 1 else t
    | some x => if x < r * 65536 / d then t + 1 else t

/-- Magnitude code of m × 2^e rounded to the layout; beyond the largest finite value the code is larger than
maxCode (R114). -/
def Flt.roundMag (f : Flt) (m : Nat) (e : Int) (u : Option Nat) : Nat :=
  if m = 0 then 0
  else
    let k := max (flog2 m + e - f.mb) f.emin
    (k - f.emin).toNat * 2 ^ f.mb + roundUlps m e k u

/-- Conversion of a value to a float layout (R114). -/
def Flt.enc (f : Flt) (sat : Bool) (u : Option Nat) (x : Num) : Nat :=
  let top := 2 ^ (f.eb + f.mb)
  let sign (neg : Bool) (mag : Nat) : Nat := (if neg then top else 0) + mag
  match x with
  | .nan => f.nanCode
  | .inf neg => if f.style = 0 then sign neg (f.maxCode + 1) else f.nanCode
  | .fin neg m e =>
    let c := f.roundMag m e u
    if c ≤ f.maxCode then sign neg c
    else if sat || f.style == 2 then sign neg f.maxCode
    else if f.style = 0 then sign neg (f.maxCode + 1)
    else f.nanCode

/-- Conversion of a value to a w-bit two's complement integer (R105, R114). -/
def encInt (w : Nat) (u : Option Nat) (x : Num) : Nat :=
  let hi := 2 ^ (w - 1) - 1
  match x with
  | .nan => 0
  | .inf neg => if neg then 2 ^ (w - 1) else hi
  | .fin neg m e =>
    let q := roundUlps m e 0 u
    if neg then (if 2 ^ (w - 1) ≤ q then 2 ^ (w - 1) else (2 ^ w - q) % 2 ^ w) else min q hi

/-- The value of a w-bit two's complement integer. -/
def decInt (w v : Nat) : Num :=
  let i := sextN w v
  .fin (decide (i < 0)) i.natAbs 0

/-! ### Element formats by code (R99) -/

/-- Width in bits of an element format, 0 for any other code. -/
def fmtWidth (code : Nat) : Nat :=
  match code with
  | 0x01 => 32 | 0x02 => 16 | 0x03 => 16 | 0x04 => 8 | 0x05 => 8 | 0x06 => 32 | 0x07 => 16 | 0x08 => 8 | 0x09 => 4
  | _ => 0

/-- The value of an element's code. -/
def decElem (code v : Nat) : Num :=
  match code with
  | 0x01 => fp32.dec v | 0x02 => fp16.dec v | 0x03 => bf16.dec v | 0x04 => e4m3.dec v | 0x05 => e5m2.dec v
  | 0x06 => decInt 32 v | 0x07 => decInt 16 v | 0x08 => decInt 8 v | _ => decInt 4 v

/-- The code of a value in an element format (R114). -/
def encElem (code : Nat) (sat : Bool) (u : Option Nat) (x : Num) : Nat :=
  match code with
  | 0x01 => fp32.enc sat u x | 0x02 => fp16.enc sat u x | 0x03 => bf16.enc sat u x | 0x04 => e4m3.enc sat u x
  | 0x05 => e5m2.enc sat u x | 0x06 => encInt 32 u x | 0x07 => encInt 16 u x | 0x08 => encInt 8 u x
  | _ => encInt 4 u x

/-- Whether an element format is an integer format. -/
def fmtInt (code : Nat) : Bool := decide (0x06 ≤ code) && decide (code ≤ 0x09)

/-- Elements of a block (R101); 0 for an element format. -/
def blockElems (code : Nat) : Nat :=
  if 0x0A ≤ code ∧ code ≤ 0x0F then 32 else if code = 0x10 ∨ code = 0x11 then 64 else if code = 0x12 then 80 else 0

/-- Bytes of a block (R101). -/
def blockBytes (code : Nat) : Nat :=
  match code with
  | 0x0A => 33 | 0x0B => 33 | 0x0C => 25 | 0x0D => 25 | 0x0E => 17 | 0x0F => 33 | 0x10 => 33 | 0x11 => 25 | 0x12 => 18
  | _ => 0

/-- Bytes of a row of n elements (R101). -/
def rowBytes (code n : Nat) : Nat :=
  if blockElems code = 0 then (n * fmtWidth code + 7) / 8 else cdiv n (blockElems code) * blockBytes code

/-! ### Random bits (R117) -/

/-- One advance of the core generator; a state of 0 is replaced by 1 before it. -/
def rngStep (x0 : W64) : W64 :=
  let x := if x0 = 0 then 1 else x0
  let a := x ^^^ (x <<< 13)
  let b := a ^^^ (a >>> 7)
  b ^^^ (b <<< 17)

/-- n advances of the core generator. -/
def rngAdvance : Nat → W64 → W64
  | 0, x => x
  | n + 1, x => rngAdvance n (rngStep x)

/-- The 16 random bits of element j (R117). -/
def rngBits (x : W64) (j : Nat) : Nat := fld (rngAdvance (j / 4 + 1) x) (16 * (j % 4)) 16

/-! ### Exact arithmetic -/

/-- The signed whole number of ulps 2^k in a finite value whose exponent is at least k. -/
def scaled (neg : Bool) (m : Nat) (e k : Int) : Int :=
  let v : Int := (m * 2 ^ (e - k).toNat : Nat)
  if neg then -v else v

/-- Exact sum (R104): an exact zero of non-zero terms is +0, and −0 comes only of two −0. -/
def Num.add : Num → Num → Num
  | .nan, _ => .nan
  | _, .nan => .nan
  | .inf a, .inf b => if a = b then .inf a else .nan
  | .inf a, .fin _ _ _ => .inf a
  | .fin _ _ _, .inf b => .inf b
  | .fin a m e, .fin b n d =>
    if m = 0 ∧ n = 0 then .fin (a && b) 0 0
    else
      let k := min e d
      let v := scaled a m e k + scaled b n d k
      if v = 0 then .fin false 0 0 else .fin (decide (v < 0)) v.natAbs k

/-- Negation. -/
def Num.neg : Num → Num
  | .nan => .nan
  | .inf a => .inf (!a)
  | .fin a m e => .fin (!a) m e

/-- Exact product. -/
def Num.mul : Num → Num → Num
  | .nan, _ => .nan
  | _, .nan => .nan
  | .inf a, .inf b => .inf (a != b)
  | .inf a, .fin b m _ => if m = 0 then .nan else .inf (a != b)
  | .fin a m _, .inf b => if m = 0 then .nan else .inf (a != b)
  | .fin a m e, .fin b n d => .fin (a != b) (m * n) (e + d)

/-- Whether a value is NaN. -/
def Num.isNan : Num → Bool
  | .nan => true
  | _ => false

/-- Numeric comparison of two values that are not NaN: whether the first is less. -/
def Num.lt : Num → Num → Bool
  | .nan, _ => false
  | _, .nan => false
  | .inf a, .inf b => a && !b
  | .inf a, .fin _ _ _ => a
  | .fin _ _ _, .inf b => !b
  | .fin a m e, .fin b n d => let k := min e d; decide (scaled a m e k < scaled b n d k)

/-- Numeric equality of two values that are not NaN; −0 equals +0. -/
def Num.eq (x y : Num) : Bool := !x.isNan && !y.isNan && !x.lt y && !y.lt x

/-- The FP32 value of a lane. -/
def f32 (x : W32) : Num := fp32.dec x.toNat

/-- A value rounded to nearest even to FP32 (R152). -/
def toF32 (x : Num) : W32 := BitVec.ofNat 32 (fp32.enc false none x)

/-- Square root of n rounded down, by its bits from the given one down. -/
def isqrt (n : Nat) : Nat → Nat → Nat
  | 0, r => r
  | b + 1, r => let t := r + 2 ^ b; isqrt n b (if t * t ≤ n then t else r)

/-- Reciprocal, correctly rounded (R155). -/
def recipF (x : Num) : Num :=
  match x with
  | .nan => .nan
  | .inf a => .fin a 0 0
  | .fin a m e =>
    if m = 0 then .inf a
    else
      let k := flog2 m + 40
      let q := 2 ^ k / m
      .fin a (2 * q + (if 2 ^ k % m = 0 then 0 else 1)) (-(k : Int) - e - 1)

/-- Square root, correctly rounded (R155). -/
def sqrtF (x : Num) : Num :=
  match x with
  | .nan => .nan
  | .inf a => if a then .nan else .inf false
  | .fin a m e =>
    if m = 0 then .fin a 0 0
    else if a then .nan
    else
      let d : Nat := if e % 2 = 0 then 64 else 65
      let n := m * 2 ^ d
      let r := isqrt n (flog2 n / 2 + 1) 0
      .fin false (2 * r + (if r * r = n then 0 else 1)) ((e - (d : Int)) / 2 - 1)

/-! ### Functions known to 2 ulp (R155) -/

/-- A fixed-point approximation of a value: v × 2^−p. -/
structure Fix where
  v : Int
  p : Nat
deriving DecidableEq, Repr

/-- ln 2 × 2^96, rounded down. -/
def ln2Fix : Nat := 54916777467707473351141471128

/-- exp(y × 2^−96) × 2^96 by its series: the sum of the next n terms from term t of index i. -/
def expSeries (y : Nat) : Nat → Nat → Nat → Nat → Nat
  | 0, _, _, acc => acc
  | n + 1, i, t, acc => let t' := t * y / 2 ^ 96 / i; expSeries y n (i + 1) t' (acc + t')

/-- 2^x of a finite value between −300 and 128, to 90 bits. -/
def exp2Fix (neg : Bool) (m : Nat) (e : Int) : Fix :=
  let f : Int := if 0 ≤ e + 96 then scaled neg (m * 2 ^ (e + 96).toNat) 0 0 else
    scaled neg (m / 2 ^ (-(e + 96)).toNat) 0 0
  let n := f / (2 ^ 96 : Nat)
  let r := (f % (2 ^ 96 : Nat)).toNat
  let v := expSeries (r * ln2Fix / 2 ^ 96) 40 1 (2 ^ 96) (2 ^ 96)
  { v := if 0 ≤ n + 300 then (v * 2 ^ (n + 300).toNat : Nat) else 0, p := 396 }

/-- The n bits of log2 after the point of y × 2^−100 in [1, 2). -/
def log2Bits : Nat → Nat → Nat → Nat
  | 0, _, acc => acc
  | n + 1, y, acc =>
    let q := y * y / 2 ^ 100
    if 2 ^ 101 ≤ q then log2Bits n (q / 2) (2 * acc + 1) else log2Bits n q (2 * acc)

/-- log2 of a positive finite value, to 80 bits after the point. -/
def log2Fix (m : Nat) (e : Int) : Fix :=
  let l := flog2 m
  let y := if l ≤ 100 then m * 2 ^ (100 - l) else m / 2 ^ (l - 100)
  { v := (e + l) * (2 ^ 80 : Nat) + (log2Bits 80 y 0 : Nat), p := 80 }

/-- 1 ÷ √x of a positive finite value. -/
def rsqrtFix (m : Nat) (e : Int) : Fix :=
  let d : Nat := if e % 2 = 0 then 0 else 1
  let k := 2 * ((flog2 m + 201) / 2)
  -- 1/√(m 2^e) = √(2^k ÷ (m 2^d)) × 2^((d − e − k) ÷ 2): d − e and k are even
  let n := 2 ^ k / (m * 2 ^ d)
  let r := isqrt n (flog2 n / 2 + 1) 0
  let ex : Int := ((d : Int) - e - k) / 2
  { v := if 0 ≤ ex + 400 then (r * 2 ^ (ex + 400).toNat : Nat) else 0, p := 400 }

/-- The value of a fixed-point number. -/
def Fix.num (x : Fix) : Num := .fin (decide (x.v < 0)) x.v.natAbs (-(x.p : Int))

/-- Whether an FP32 value lies within 2 ulp of a fixed-point approximation, with 2^−20 ulp granted for the
approximation's own error (R155). -/
def within2ulp (r : W32) (x : Fix) : Bool :=
  match f32 r with
  | .fin a m e =>
    let l : Int := if x.v = 0 then -149 else max ((flog2 x.v.natAbs : Int) - x.p - 23) (-149)
    let k : Int := min (min e (-(x.p : Int))) (l - 20)
    let diff := scaled a m e k - scaled (decide (x.v < 0)) x.v.natAbs (-(x.p : Int)) k
    decide (diff.natAbs ≤ 2 * 2 ^ (l - k).toNat + 2 ^ (l - 20 - k).toNat)
  | _ => false

/-- A result known to 2 ulp: the open value drawn where it lies within the bound, else the rounded
approximation (R155).
[DESIGN CHOICE, log entry 5: safe] -/
def open2ulp (d : Nat) (x : Fix) : W32 :=
  let r : W32 := BitVec.ofNat 32 d
  if within2ulp r x then r else toF32 x.num

/-- VUN EXP2 (R155). -/
def exp2F (d : Nat) (x : Num) : W32 :=
  match x with
  | .nan => toF32 .nan
  | .inf neg => if neg then 0 else toF32 (.inf false)
  | .fin neg m e =>
    if !neg && !(Num.lt x (.fin false 128 0)) then toF32 (.inf false)
    else if neg && !(Num.lt (.fin true 300 0) x) then open2ulp d { v := 0, p := 0 }
    else open2ulp d (exp2Fix neg m e)

/-- VUN LOG2 (R155). -/
def log2F (d : Nat) (x : Num) : W32 :=
  match x with
  | .nan => toF32 .nan
  | .inf neg => if neg then toF32 .nan else toF32 (.inf false)
  | .fin neg m e => if m = 0 then toF32 (.inf true) else if neg then toF32 .nan else open2ulp d (log2Fix m e)

/-- VUN RSQRT (R155). -/
def rsqrtF (d : Nat) (x : Num) : W32 :=
  match x with
  | .nan => toF32 .nan
  | .inf neg => if neg then toF32 .nan else 0
  | .fin neg m e => if m = 0 then toF32 (.inf neg) else if neg then toF32 .nan else open2ulp d (rsqrtFix m e)

/-! ### Sums whose order is open (R123, R125) -/

/-- The lowest exponent among finite terms. -/
def lowExp (ts : List Num) : Int :=
  ts.foldl (fun k t => match t with
    | .fin _ _ e => min k e
    | _ => k) (-150)

/-- Exact sum of finite terms in units of 2^k. -/
def sumAt (k : Int) (ts : List Num) : Int :=
  ts.foldl (fun acc t => match t with
    | .fin a m e => acc + scaled a m e k
    | _ => acc) 0

/-- Sum of the magnitudes of finite terms in units of 2^k. -/
def absAt (k : Int) (ts : List Num) : Nat :=
  ts.foldl (fun acc t => match t with
    | .fin _ m e => acc + m * 2 ^ (e - k).toNat
    | _ => acc) 0

/-- Sum of the magnitudes of the terms of one sign in units of 2^k: no intermediate of any order is larger. -/
def sideAt (k : Int) (neg : Bool) (ts : List Num) : Nat :=
  absAt k (ts.filter fun t => match t with
    | .fin a _ _ => a == neg
    | _ => false)

/-- A term as a unit adds it: an exact product beyond the FP32 range is an infinity, one below its subnormal range rounds (R122). -/
def asTerm (t : Num) : Num := f32 (toF32 t)

/-- How many terms round as they are formed: exact products below the FP32 subnormal range (R122). -/
def roundedTerms (ts : List Num) : Nat := (ts.filter fun t => !(asTerm t).eq t).length

/-- The bound of R125 on a computed sum r of the terms: |r − Σ t| × (2^24 − (n − 1)) ≤ (n − 1) × Σ |t| + q × 2^−150 ×
(2^24 − (n − 1)), for n below 2^24. The part n × 2^−150 is for products that round as they are formed, and q counts them: sums of
FP32 values are exact below the normal range, so that sums of partial sums keep the bound of the whole (R163). -/
def sumBound (r : Num) (ts : List Num) : Bool :=
  match r with
  | .fin a m e =>
    let n := ts.length
    let k := min e (lowExp ts)
    let diff := (scaled a m e k - sumAt k ts).natAbs
    decide (2 ^ 24 ≤ n) ||
    decide (diff * (2 ^ 24 - (n - 1)) ≤ (n - 1) * absAt k ts + roundedTerms ts * 2 ^ (-150 - k).toNat * (2 ^ 24 - (n - 1)))
  | _ => false

/-- Whether an intermediate of some order may exceed the FP32 maximum, where R125 states no bound: the terms of one sign, grown by
the roundings of the n − 2 additions before the last, reach the magnitude that rounds to an infinity. -/
def mayOverflow (ts : List Num) : Bool :=
  let k := lowExp ts
  let n := ts.length
  decide (2 ≤ n) &&
  decide ((2 ^ 25 - 1) * 2 ^ (103 - k).toNat * (2 ^ 24 - (n - 2)) ≤ max (sideAt k false ts) (sideAt k true ts) * 2 ^ 24)

/-- The sum in the order of the list, each addition rounded to FP32. -/
def sumSeq : List Num → Num
  | [] => .fin false 0 0
  | t :: r => r.foldl (fun acc x => f32 (toF32 (acc.add x))) (f32 (toF32 t))

/-- Whether every term is a negative zero. -/
def allMinusZero (ts : List Num) : Bool := !ts.isEmpty && ts.all fun t => match t with
  | .fin a m _ => a && m == 0
  | _ => false

/-- Whether a zero of the given code may be the result (R104): −0 is the sum of negative zeros only, or what a sum below the subnormal
range rounds to; a sum of negative zeros is not +0. -/
def zeroOk (r : W32) (ts : List Num) : Bool :=
  if r = 0x80000000 then allMinusZero (ts.map asTerm) || decide (sumAt (lowExp ts) ts < 0)
  else if r = 0 then !allMinusZero (ts.map asTerm)
  else true

/-- A floating sum of exact terms (R122, R123, R125): NaN where a term is NaN or infinities of both signs meet; an infinity where one
sign does; else the open value drawn where the bound admits it (any value where an intermediate may leave FP32), and the sum in
the order of the list where it does not.
[DESIGN CHOICE, log entry 6: safe] -/
def sumOpen (d : Nat) (ts : List Num) : W32 :=
  let es := ts.map asTerm
  if es.any Num.isNan || (es.any (· == .inf true) && es.any (· == .inf false)) then toF32 .nan
  else if es.any (· == .inf true) then toF32 (.inf true)
  else if es.any (· == .inf false) then toF32 (.inf false)
  else
    let r : W32 := BitVec.ofNat 32 d
    if !zeroOk r ts then toF32 (sumSeq es)
    else if mayOverflow ts then (if (f32 r).isNan then toF32 .nan else r)
    else if sumBound (f32 r) ts then r
    else toF32 (sumSeq es)

/-! ### Block formats (R106 to R113) -/

/-- Element layout of an MX code; MXINT8 has none. -/
def mxFlt (code : Nat) : Option Flt :=
  match code with
  | 0x0A => some e4m3 | 0x0B => some e5m2 | 0x0C => some e3m2 | 0x0D => some e2m3 | 0x0E => some e2m1
  | _ => none

/-- emax of R108. -/
def mxEmax (code : Nat) : Int :=
  match code with
  | 0x0A => 8 | 0x0B => 15 | 0x0C => 4 | 0x0D => 2 | 0x0E => 2 | _ => 0

/-- Bits of an MX element. -/
def mxWidth (code : Nat) : Nat :=
  match code with
  | 0x0C => 6 | 0x0D => 6 | 0x0E => 4 | _ => 8

/-- A value beyond the FP32 maximum decodes as an infinity of its sign (R107). -/
def capInf (x : Num) : Num :=
  match x with
  | .fin a m e => if m ≠ 0 ∧ 128 ≤ (flog2 m : Int) + e then .inf a else x
  | _ => x

/-- Decoding of element i of an MX block (R107). -/
def mxElem (code : Nat) (b : List Byte) (i : Nat) : Num :=
  let sc := leAt b 0 1
  let v := bitsN (leNat (b.drop 1)) (mxWidth code * i) (mxWidth code)
  if sc = 255 then .nan
  else
    let p : Num := .fin false 1 ((sc : Int) - 127)
    match mxFlt code with
    | some f => capInf ((f.dec v).mul p)
    | none => capInf (((decInt 8 v).mul (.fin false 1 (-6))).mul p)

/-- Decoding of element i of a codebook block with its table set's tables (R109, R111). -/
def cbElem (code : Nat) (tables : List (List (BitVec 16))) (b : List Byte) (i : Nat) : Num :=
  let w := if code = 0x10 then 4 else 3
  let ix := bitsN (leNat (b.drop 1)) (w * i) w
  match tables[leAt b 0 1]? with
  | some t => bf16.dec (t.getD ix 0).toNat
  | none => .fin false 0 0

/-- Decoding of element i of a TERN5 block (R113). -/
def ternElem (b : List Byte) (i : Nat) : Num :=
  let x := leAt b (2 + i / 5) 1
  let sc := bf16.dec (leAt b 0 2)
  if 243 ≤ x then .fin false 0 0
  else
    match x / 3 ^ (i % 5) % 3 with
    | 0 => sc.neg
    | 1 => .fin false 0 0
    | _ => sc

/-- Decoding of element i of a block of any block format. -/
def blockElem (code : Nat) (tables : List (List (BitVec 16))) (b : List Byte) (i : Nat) : Num :=
  if code = 0x12 then ternElem b i
  else if code = 0x10 ∨ code = 0x11 then cbElem code tables b i
  else mxElem code b i

/-- What decoding elements lo to hi − 1 of a block adds to DECODE_INVALID (R111, R113): a table id beyond the set, or
each byte above 242 that holds one of them. -/
def blockInvalid (code : Nat) (tables : List (List (BitVec 16))) (b : List Byte) (lo hi : Nat) : Nat :=
  if hi ≤ lo then 0
  else if code = 0x12 then
    ((List.range 16).filter fun i => decide (243 ≤ leAt b (2 + i) 1) && decide (5 * i < hi) && decide (lo < 5 * i + 5)).length
  else if (code = 0x10 ∨ code = 0x11) ∧ tables.length ≤ leAt b 0 1 then 1 else 0

/-- Bits of n fields of width w, field 0 lowest. -/
def packBits (w : Nat) : List Nat → Nat
  | [] => 0
  | x :: r => x + 2 ^ w * packBits w r

/-- Encoding of 32 FP32 values as an MX block (R108), with the random bits of each element under stochastic
rounding. -/
def mxEncode (code : Nat) (xs : List Num) (u : Nat → Option Nat) : List Byte :=
  let w := mxWidth code
  let n := 32 * w / 8
  if xs.any (fun x => match x with
    | .fin _ _ _ => false
    | _ => true) then 255 :: zeros n
  else
    let k := lowExp xs
    let amax := xs.foldl (fun a x => match x with
      | .fin _ m e => max a (m * 2 ^ (e - k).toNat)
      | _ => a) 0
    if amax = 0 then 0 :: zeros n
    else
      let x0 : Int := flog2 amax + k - mxEmax code
      let ovf := match mxFlt code with
        | some f => decide (f.maxCode < f.roundMag amax (k - x0) none)
        | none => decide (127 < roundUlps amax (k - x0 + 6) 0 none)
      let x1 := if ovf then x0 + 1 else x0
      let x := max (-127) (min 127 x1)
      let elems := (List.range 32).map fun i =>
        let v := (xs.getD i .nan).mul (.fin false 1 (-x))
        match mxFlt code with
        | some f => f.enc true (u i) v
        | none => encInt 8 (u i) (v.mul (.fin false 1 6))
      BitVec.ofNat 8 (x + 127).toNat :: leBytes n (packBits w elems)

/-- The value of element i of a run of elements stored from a block boundary, whose block b decodes with the tables that tb gives
it (R101, R109). -/
def storedElem (code : Nat) (tb : Nat → List (List (BitVec 16))) (bs : List Byte) (i : Nat) : Num :=
  if blockElems code = 0 then decElem code (bitsN (leNat bs) (fmtWidth code * i) (fmtWidth code))
  else blockElem code (tb (i / blockElems code)) ((bs.drop (i / blockElems code * blockBytes code)).take (blockBytes code))
    (i % blockElems code)

/-- What decoding a column of n elements adds to DECODE_INVALID (R111, R113).
[DEDUCED, log entry 28: unsafe] -/
def storedInvalid (code : Nat) (tb : Nat → List (List (BitVec 16))) (bs : List Byte) (n : Nat) : Nat :=
  if blockElems code = 0 then 0
  else ((List.range (cdiv n (blockElems code))).map fun b =>
    blockInvalid code (tb b) ((bs.drop (b * blockBytes code)).take (blockBytes code)) 0
      (min (blockElems code) (n - b * blockElems code))).sum

end Sys2Proof.Machine
end

