-- ==== Sys2Proof/Machine/LetterOps.lean ====
section
/-! DEFINITION. What a letterbox does with host memory: interrupts, result slots, completions (R357 to R371). -/

namespace Sys2Proof.Machine
open Sys2Proof

/-- Status values (R374). -/
def stOk : Nat := 0x00
/-- IN_PROGRESS. -/
def stInProgress : Nat := 0x01
/-- BAD_OPCODE. -/
def stBadOpcode : Nat := 0x02
/-- BAD_PARAM. -/
def stBadParam : Nat := 0x03
/-- BUSY. -/
def stBusy : Nat := 0x04
/-- BUSY_THERMAL. -/
def stBusyThermal : Nat := 0x05
/-- NO_RESOURCE. -/
def stNoResource : Nat := 0x06
/-- OVERSUBSCRIBED_SCALED. -/
def stScaled : Nat := 0x07
/-- ABORTED. -/
def stAborted : Nat := 0x08
/-- CANCELLED_BY_RESET. -/
def stReset : Nat := 0x09
/-- DEGRADED. -/
def stDegraded : Nat := 0x0A
/-- AUTH_FAIL. -/
def stAuthFail : Nat := 0x0B
/-- ECC_UNCORRECTABLE. -/
def stEcc : Nat := 0x0C
/-- TIMEOUT. -/
def stTimeout : Nat := 0x0D
/-- NOT_PRIVILEGED. -/
def stNotPrivileged : Nat := 0x0E
/-- DOOR_CLOSED. -/
def stDoorClosed : Nat := 0x0F

/-- The shared-state commands (R377). -/
def opShared (op : Nat) : Bool := [0x12, 0x13, 0x65, 0x60, 0x64, 0x82].contains op

/-- Whether a status is a success (R375). -/
def stSuccess (st : Nat) : Bool := st == stOk || st == stScaled || st == stDegraded

/-- Counter places of a letterbox (R372). -/
def lbTaken : Nat := 0
/-- Place of LB_COMPLETIONS. -/
def lbCompletions : Nat := 1
/-- Place of LB_PROGRESS_SKIPPED. -/
def lbSkipped : Nat := 2
/-- Place of LB_IRQS. -/
def lbIrqs : Nat := 3
/-- Place of LB_DB_ERRORS. -/
def lbDbErrors : Nat := 4
/-- Place of LB_BAD_ACCESS. -/
def lbBadAccess : Nat := 5

/-- Entries of a letterbox's submission ring (R354). -/
def Fn.sqN (x : Fn) : Nat := 2 ^ fld x.ringCfg 0 5

/-- Entries of a letterbox's completion ring (R354). -/
def Fn.cqN (x : Fn) : Nat := 2 ^ fld x.ringCfg 8 5

/-- Writes host memory. -/
def State.hostWrite (s : State) (a : Nat) (bs : List Byte) : State := { s with host := wrBytes s.host a bs }

/-- Reads host memory; nothing where the read fails (R567).
[DESIGN CHOICE, log entry 125: safe] -/
def State.hostRead (s : State) (a n : Nat) : Option (List Byte) :=
  if s.hostBad.any fun r => decide (a < r.1 + r.2) && decide (r.1 < a + n) then none else some (rdBytes s.host a n)

/-- Changes a function's record. -/
def State.modFn (s : State) (f : Nat) (g : Fn → Fn) : State := s.setFn f (g (s.fn f))

/-- Entry v of a function's MSI-X table; it resets masked (R365). -/
def Fn.vec (x : Fn) (v : Nat) : Msix := nget {} x.msix v

/-- Writes the message of an MSI-X entry; one for completions is counted as it is sent (R365, R372). -/
def State.message (s : State) (f : Nat) (m : Msix) (comp : Bool) : State :=
  (if comp then s.bump 0x30 f lbIrqs 1 else s).hostWrite m.addr.toNat (leBytes 4 m.data.toNat)

/-- Sends the message of vector v, or marks it pending while the vector is masked or Bus Master Enable is clear (R365). -/
def State.irq (s : State) (f v : Nat) (comp : Bool) : State :=
  let m := (s.fn f).vec v
  if m.masked || !(s.fn f).bme then
    s.modFn f fun x => { x with msix := nset {} x.msix v { m with pending := true, owed := m.owed || comp } }
  else s.message f m comp

/-- Raises an event on EVT_VECTOR (R365). -/
def State.event (s : State) (f : Nat) : State := s.irq f (fld (s.fn f).ringCfg 32 6) false

/-- Sends the completion interrupt that covers every entry written so far (R365). -/
def State.signal (s : State) (f : Nat) : State :=
  (s.modFn f fun x => { x with unsignalled := 0 }).irq f (fld (s.fn f).ringCfg 24 6) true

/-- The 32 bytes of a completion entry (R358). -/
def compBytes (c : Comp) (sqHead : Nat) (phase : Bool) : List Byte :=
  leBytes 2 c.tag.toNat ++ leBytes 1 c.status ++ leBytes 1 c.opcode ++ leBytes 4 c.length ++
  leBytes 8 c.detail.toNat ++ leBytes 2 sqHead ++ zeros 10 ++
  leBytes 4 ((if phase then 2 ^ 31 else 0) + (if c.trunc then 2 else 0) + (if c.slot then 1 else 0))

/-- Writes a completion entry at CQ_TAIL and signals it when due (R359, R365). -/
def State.writeComp (s : State) (f : Nat) (c : Comp) : State :=
  let x := s.fn f
  let s1 := s.hostWrite (x.cqBase.toNat + 32 * x.cqTail) (compBytes c x.sqHead x.cqPhase)
  let tail := (x.cqTail + 1) % x.cqN
  let s2 := (s1.modFn f fun y => { y with cqTail := tail, cqPhase := if tail = 0 then !y.cqPhase else y.cqPhase,
                                          unsignalled := y.unsignalled + 1 }).bump 0x30 f lbCompletions 1
  if c.irqNow || fld x.ringCfg 48 8 == 0 || max 1 (fld x.ringCfg 40 8) ≤ x.unsignalled + 1 then s2.signal f else s2

/-- Writes a completion entry, or holds it while Bus Master Enable is clear (R371).
[DEDUCED, log entry 25: unsafe] -/
def State.postComp (s : State) (f : Nat) (c : Comp) : State :=
  if (s.fn f).bme && !(s.fn f).held then s.writeComp f c
  else s.modFn f fun x => { x with heldComps := x.heldComps ++ [c], held := true }

/-- Result slot i of a letterbox. -/
def Fn.slot (x : Fn) (i : Nat) : ResultSlot := nget {} x.slots i

/-- Changes a result slot. -/
def State.modSlot (s : State) (f i : Nat) (g : ResultSlot → ResultSlot) : State :=
  s.modFn f fun x => { x with slots := nset {} x.slots i (g (x.slot i)) }

/-- The slot enters FILLING for a command (R367). -/
def State.slotFilling (s : State) (f i : Nat) (tag : BitVec 16) : State :=
  s.modSlot f i fun r => { r with seq := r.seq + 1, st := 1, tag := tag, status := 0, length := 0 }

/-- The slot becomes READY with a payload and a status (R367). -/
def State.slotReady (s : State) (f i status : Nat) (payload : List Byte) : State :=
  s.modSlot f i fun r => { r with st := 2, status := status, length := payload.length, payload := payload }

/-! ### The fields of a submission entry (R357) -/

/-- A field of a command's entry. -/
def Cmd.at_ (c : Cmd) (o n : Nat) : Nat := leAt c.entry o n
/-- OPCODE. -/
def Cmd.opcode (c : Cmd) : Nat := c.at_ 0 1
/-- FLAGS. -/
def Cmd.flags (c : Cmd) : Nat := c.at_ 1 1
/-- TAG. -/
def Cmd.tag (c : Cmd) : BitVec 16 := BitVec.ofNat 16 (c.at_ 2 2)
/-- RESULT_LEN. -/
def Cmd.resultLen (c : Cmd) : Nat := c.at_ 4 4
/-- RESULT_ADDR. -/
def Cmd.resultAddr (c : Cmd) : Nat := c.at_ 8 8
/-- FLAGS bit 0. -/
def Cmd.ordered (c : Cmd) : Bool := bitsN c.flags 0 1 == 1
/-- FLAGS bit 1. -/
def Cmd.wantsSlot (c : Cmd) : Bool := bitsN c.flags 1 1 == 1
/-- FLAGS bit 2. -/
def Cmd.progress (c : Cmd) : Bool := bitsN c.flags 2 1 == 1
/-- FLAGS bit 3. -/
def Cmd.irqNow (c : Cmd) : Bool := bitsN c.flags 3 1 == 1
/-- The slot index. -/
def Cmd.slotIx (c : Cmd) : Nat := c.at_ 8 1

/-- Commands of a letterbox whose final completion is not yet written: INFLIGHT (R354). -/
def State.inflight (s : State) (f : Nat) : Nat :=
  (s.cmds.filter fun c => c.fn == f && !c.mute).length + (s.fn f).heldComps.length

/-- A letterbox that stops becomes DISABLED once its commands have ended (R355). -/
def State.settle (s : State) (f : Nat) : State :=
  if (s.fn f).st = .stopping ∧ s.inflight f = 0 then s.modFn f fun x => { x with st := .disabled } else s

/-- Delivers result bytes to the slot or the host buffer of a command (R357, R367, R371). -/
def State.deliver (s : State) (c : Cmd) (status : Nat) (result : List Byte) : State :=
  let bs := result.take c.resultLen
  if c.dead then s
  else if c.tookSlot then s.slotReady c.fn c.slotIx status bs
  else if bs.isEmpty then s
  else if (s.fn c.fn).bme && !(s.fn c.fn).held then s.hostWrite c.resultAddr bs
  else s.modFn c.fn fun x => { x with heldBytes := x.heldBytes ++ [(c.resultAddr, bs)], held := true }

/-- The completion entry of a command. -/
def Cmd.comp (c : Cmd) (status length : Nat) (detail : W64) : Comp :=
  { tag := c.tag, status := status, opcode := c.opcode, length := length, detail := detail,
    trunc := decide (c.resultLen < length), slot := c.tookSlot, irqNow := c.irqNow }

/-- The command leaves the commands in flight. -/
def State.dropCmd (s : State) (id : Nat) : State := { s with cmds := s.cmds.filter (·.id != id) }

/-- The final completion of a command: its result, its completion entry, and its end (R358, R369). A command
whose function was disabled ends without an entry; if it changes shared state its outcome is kept for
QUERY_STATE (R370, R380). -/
def State.complete (s : State) (id status : Nat) (detail : W64) (result : List Byte) : State :=
  match s.cmd id with
  | none => s
  | some c =>
    if c.mute then
      (if opShared c.opcode then { s with mc := { s.mc with sharedDone := (c.opcode, status, c.tag.toNat) } } else s).dropCmd id
    else
      (((s.deliver c status result).postComp c.fn (c.comp status result.length detail)).dropCmd id).settle c.fn

/-- The final completion of a command that returns nothing. -/
def State.finish (s : State) (id status : Nat) : State := s.complete id status 0 []

/-- A BAD_PARAM that names a byte of the submission entry (R375). -/
def State.badField (s : State) (id off : Nat) : State := s.complete id stBadParam (w64 off) []

/-- A BAD_PARAM that names a byte of data the command read (R375). -/
def State.badData (s : State) (id off : Nat) : State := s.complete id stBadParam (w64 (2 ^ 63 + off)) []

/-- A BAD_PARAM that names no byte (R375). -/
def State.badState (s : State) (id : Nat) : State := s.complete id stBadParam 0x7FFFFFFFFFFFFFFF []

end Sys2Proof.Machine
end

