-- ==== Sys2Proof/Machine/MirrorOps.lean ====
section
/-! DEFINITION. What an active twin keeps of the writes to its regions, and its mirror steps (R530, R535). -/

namespace Sys2Proof.Machine
open Sys2Proof

/-- Whether the module is the active one of a pair whose standby it mirrors to (R530, R535). -/
def State.mirrors (s : State) : Bool :=
  (s.cfld offPair 0 3 == 1 || s.cfld offPair 0 3 == 2 || s.cfld offPair 0 3 == 3) && s.cfld offPair 8 1 == 0

/-- The READY region that holds a device byte, with its function: function × 64 + index. -/
def State.regionOf (s : State) (off : Nat) : Option (Nat × Region) :=
  s.regions.find? fun e => fld e.2.attr 56 2 == 2 && decide (e.2.base ≤ off) &&
    decide (off < e.2.base + fld e.2.attr 0 32 * 65536)

/-- The owner number of a run's writes. -/
def ownerRun (id : Nat) : Nat := 2 * id
/-- The owner number of a command's writes. -/
def ownerCmd (id : Nat) : Nat := 2 * id + 1

/-- Keeps a write that reaches a region for the mirror step of its owner (R530). -/
def State.noteWrite (s : State) (owner off : Nat) (bs : List Byte) : State :=
  if !s.mirrors || bs.isEmpty then s
  else
    match s.regionOf off with
    | some e => { s with pair := { s.pair with notes := s.pair.notes ++ [(owner, e.1 / 64, e.1 % 64, off - e.2.base, bs)] } }
    | none => s

/-- LAG of PAIR_STATUS (R535). -/
def State.setLag (s : State) : State := s.setCfld offPair 32 16 (min s.pair.sent.length 0xFFFF)

/-- Sends a mirror step with the next sequence number (R530). -/
def State.sendStep (s : State) (fn : Nat) (tag : BitVec 16) (writes : List (Nat × Nat × Nat × List Byte))
    (table : Option (Nat × Nat × BitVec 64)) : State :=
  let m : MirrorStep := { seq := s.pair.txSeq, fn := fn, tag := tag, writes := writes, table := table }
  ({ s with pair := { s.pair with txSeq := s.pair.txSeq + 1, sent := s.pair.sent ++ [m] } }).setLag

/-- The letterbox number of a mirror step that belongs to no command. -/
def noLetterbox : Nat := 16

/-- The mirror step of a run or command that ended: the writes kept for it (R530). -/
def State.mirrorEnd (s : State) (owner fn : Nat) (tag : BitVec 16) : State :=
  let mine := (s.pair.notes.filter (·.1 == owner)).map (·.2)
  let s1 := { s with pair := { s.pair with notes := s.pair.notes.filter (·.1 != owner) } }
  if !s.mirrors || mine.isEmpty then s1 else s1.sendStep fn tag mine none

end Sys2Proof.Machine
end

