-- ==== Sys2Proof/Machine/HbmOps.lean ====
section
/-! DEFINITION. HBM as the controllers see it: the map from offsets to channels (R289 to R293, R312), the sector
code (R294), the poison marker and the sectors' counters (R295, R305). -/

namespace Sys2Proof.Machine
open Sys2Proof

/-- Granule slots of a channel, S of R289. -/
def hbmSlots : Nat := 9437184

/-- Bytes of one channel-local step (R289): 128 MiB. -/
def stepBytes : Nat := 0x8000000

/-- Bytes of one stack: 72 GiB. -/
def stackBytes : Nat := 0x1200000000

/-- Where a sector lies: stack, channel, slot, pseudo-channel and sector. -/
structure HbmPlace where
  stack : Nat
  channel : Nat
  slot : Nat
  pc : Nat
  sector : Nat
deriving DecidableEq, Repr

/-- Exclusive or of the n-bit chunks of x whose places are listed. -/
def xorChunks (x n : Nat) : List Nat → Nat
  | [] => 0
  | lo :: r => bitsN x lo n ^^^ xorChunks x n r

/-- CL_STEPS of a partition (R290). -/
def State.clSteps (s : State) (p : Nat) : Nat := s.cfld (offHbmMap p) 0 10

/-- MODE of a partition's map (R290). -/
def State.hbmMode (s : State) (p : Nat) : Nat := s.cfld (offHbmMap p) 26 2

/-- Zone H of partition p under MODE 0 (R291). -/
def placeH (p a : Nat) : HbmPlace :=
  let g := a / 256
  let t := xorChunks g 6 [0, 6, 12, 18, 24]
  { stack := 2 * p + t % 2, channel := t / 2, slot := g / 64, pc := bitsN a 7 1, sector := bitsN a 6 1 }

/-- The single-stack hash of R292, from granule index g of a zone that begins at a slot. -/
def placeP (stack first a g : Nat) : HbmPlace :=
  { stack := stack, channel := xorChunks g 5 [0, 5, 10, 15, 20, 25], slot := first + g / 32,
    pc := bitsN a 7 1, sector := bitsN a 6 1 }

/-- Zone N (R312): z is the offset in the zone. Nothing where the step has no chunk size or the offset lies
beyond the step's whole chunks. -/
def State.placeN (s : State) (p z : Nat) : Option HbmPlace :=
  let k := z / stepBytes
  let q := z % stepBytes
  let g := s.cfld (offStep p k) 0 23
  if g = 0 then none else
  let u := q / g / 32 * g + q % g
  if 4194304 / g * g ≤ u then none else
  some { stack := 2 * p, channel := q / g % 32, slot := hbmSlots - s.clSteps p * 16384 + k * 16384 + u / 256,
         pc := bitsN u 7 1, sector := bitsN u 6 1 }

/-- Where a device offset lies in HBM; nothing where the partition's present map does not back it (R17, R289 to
R293, R312). -/
def State.hbmPlace (s : State) (off : Nat) : Option HbmPlace :=
  let p := partOfOff off
  let a := off % partBytes
  if 8 ≤ p || s.unusable p then none
  else
    let cl := s.clSteps p * stepBytes
    match s.hbmMode p with
    | 0 =>
      let z0 := 2 * (stackBytes - cl)
      if a < z0 then some (placeH p a)
      else if a < z0 + cl then s.placeN p (a - z0)
      else some (placeP (2 * p + 1) (hbmSlots - s.clSteps p * 16384) a ((a - (z0 + cl)) / 256))
    | 1 =>
      let z0 := stackBytes - cl
      if a < z0 then some (placeP (2 * p) 0 a (a / 256))
      else if a < stackBytes then s.placeN p (a - z0)
      else none
    | 2 => if a < stackBytes then some (placeP (2 * p + 1) 0 a (a / 256)) else none
    | _ => none

/-- Whether the byte at an offset is backed by HBM (R17). -/
def State.backed (s : State) (off : Nat) : Bool := (s.hbmPlace off).isSome

/-- Counter unit of an offset: stack × 32 + channel (R382). -/
def State.hbmUnit (s : State) (off : Nat) : Nat :=
  match s.hbmPlace off with
  | some w => w.stack * 32 + w.channel
  | none => 0

/-- Adds to a counter of the channel that holds an offset (R305). -/
def State.hbmCount (s : State) (off pos n : Nat) : State := s.bump 0x18 (s.hbmUnit off) pos n

/-! ### The sector code (R294) -/

/-- Multiplication by α = 0x02 in GF(2^8) over x^8 + x^4 + x^3 + x^2 + 1. -/
def gfTwice (b : Byte) : Byte := (b <<< 1) ^^^ (if b.msb then 0x1D else 0)

/-- Multiplication by α^k. -/
def gfPow : Nat → Byte → Byte
  | 0, b => b
  | k + 1, b => gfPow k (gfTwice b)

/-- Product in GF(2^8). -/
def gfMul (a b : Byte) : Byte :=
  (List.range 8).foldl (fun acc i => acc ^^^ (if a.getLsbD i then gfPow i b else 0)) 0

/-- Coefficients x^3, x^2, x, 1 of g(x) = (x − α^0)(x − α^1)(x − α^2)(x − α^3), by multiplying out. -/
def rsGen : List Byte :=
  let mul1 (p : List Byte) (r : Byte) : List Byte :=
    List.zipWith (· ^^^ ·) (p ++ [0]) ((0 : Byte) :: p.map (gfMul r))
  (mul1 (mul1 (mul1 (mul1 [1] (gfPow 0 1)) (gfPow 1 1)) (gfPow 2 1)) (gfPow 3 1)).drop 1

/-- One step of the division by g(x): the remainder, x^3 first, and the next data byte, highest power first. -/
def rsStep (r : List Byte) (d : Byte) : List Byte :=
  match r with
  | h :: t => List.zipWith (· ^^^ ·) (t ++ [0]) (rsGen.map (gfMul (h ^^^ d)))
  | [] => []

/-- Check symbols c0 to c3 of 64 data bytes: the remainder of D(x) × x^4 by g(x), cj the coefficient of x^j. D(x) has data byte b at
x^(b+4), so its product with x^4 has four zero coefficients below byte 0.
[DEDUCED, log entry 149: unsafe] -/
def rsCheck (data : List Byte) : List Byte := ((data.reverse ++ [0, 0, 0, 0]).foldl rsStep [0, 0, 0, 0]).reverse

/-- Syndrome j of an error pattern: pairs of symbol power and error byte. -/
def rsSyndrome (j : Nat) (errs : List (Nat × Byte)) : Byte :=
  errs.foldl (fun acc e => acc ^^^ gfPow (e.1 * j % 255) e.2) 0

/-- What decoding a sector finds (R295). -/
inductive Decoded where
  | clean
  | corrected (symbol : Nat) (value : Byte)
  | poison
  | uncorrectable
deriving DecidableEq, Repr

/-- The power of x a symbol stands at: check symbol j at j, data byte b at b + 8 as in rsCheck. Symbols are numbered data bytes
0 to 63, then check symbols 64 to 67.
[DEDUCED, log entry 149: unsafe] -/
def rsPower (sym : Nat) : Nat := if sym < 64 then sym + 8 else sym - 64

/-- Decoding of a sector whose read symbols differ from a codeword by the errors given (R295): zero syndrome,
one symbol in error, the poison marker, or anything else. -/
def rsDecode (errs : List (Nat × Byte)) : Decoded :=
  let e := errs.map fun x => (rsPower x.1, x.2)
  let sy := (List.range 4).map fun j => rsSyndrome j e
  let marker := (List.range 4).map fun j => rsSyndrome j [(0, 0x5A), (1, 0x5A), (2, 0x5A), (3, 0x5A)]
  if sy.all (· == 0) then .clean
  else
    match sy with
    | s0 :: _ =>
      match (List.range 68).find? (fun sym => decide (sy = (List.range 4).map fun j => gfPow (rsPower sym * j % 255) s0)) with
      | some sym => .corrected sym s0
      | none => if sy = marker then .poison else .uncorrectable
    | [] => .uncorrectable

/-- The poison marker as a difference of the four check bytes (R295). -/
def poisonMarker : W32 := 0x5A5A5A5A

/-- The place of an offset in a step of zone N whose chunks are no whole sectors (R312, R313): the offset of the step's first byte, the
chunk size, the channel and u. Elsewhere, and where chunks are whole sectors, sectors are aligned blocks of offsets. -/
def State.chunkAt (s : State) (off : Nat) : Option (Nat × Nat × Nat × Nat) :=
  let p := partOfOff off
  let a := off % partBytes
  let cl := s.clSteps p * stepBytes
  let z0 := if s.hbmMode p = 0 then 2 * (stackBytes - cl) else stackBytes - cl
  if 2 ≤ s.hbmMode p ∨ a < z0 ∨ z0 + cl ≤ a then none
  else
    let q := (a - z0) % stepBytes
    let g := s.cfld (offStep p ((a - z0) / stepBytes)) 0 23
    if g % 64 = 0 then none else some (off - q, g, q / g % 32, q / g / 32 * g + q % g)

/-- The offset at which byte u of a channel's run of a step lies (R312). -/
def chunkOff (base g ch u : Nat) : Nat := base + (u / g * 32 + ch) * g + u % g

/-- The offsets of the 64 bytes of the sector that holds an offset (R286, R312). -/
def State.sectorBytes (s : State) (off : Nat) : List Nat :=
  match s.chunkAt off with
  | none => (List.range 64).map fun i => off / 64 * 64 + i
  | some (b, g, ch, u) => (List.range 64).map fun i => chunkOff b g ch (u / 64 * 64 + i)

/-- The offset of the first byte of the sector that holds an offset. -/
def State.sectorKey (s : State) (off : Nat) : Nat :=
  match s.chunkAt off with
  | none => off / 64 * 64
  | some (b, g, ch, u) => chunkOff b g ch (u / 64 * 64)

/-- The check-byte difference of the sector that holds an offset. -/
def State.sectorChk (s : State) (off : Nat) : W32 := nget 0 s.chk (s.sectorKey off)

/-- Sets the check-byte difference of the sector that holds an offset. -/
def State.setChk (s : State) (off : Nat) (v : W32) : State := { s with chk := nset 0 s.chk (s.sectorKey off) v }

/-- The check-byte difference that errors of the stored symbols make: data symbols through the code, check symbols as they
are (R294). -/
def chkOfFlips (flips : List (Nat × Byte)) : W32 :=
  flips.foldl (fun acc f =>
    acc ^^^ (if f.1 < 64 then BitVec.ofNat 32 (leNat (rsCheck ((List.replicate 64 (0 : Byte)).set f.1 f.2)))
             else BitVec.ofNat 32 (f.2.toNat * 2 ^ (8 * (f.1 - 64))))) 0

/-- The errors that a check-byte difference stands for. -/
def chkErrors (d : W32) : List (Nat × Byte) :=
  (List.range 4).map fun j => (64 + j, BitVec.ofNat 8 (d.toNat / 2 ^ (8 * j)))

/-- Device memory bytes as a coherent reader sees them. -/
def State.memRead (s : State) (off n : Nat) : List Byte := rdBytes s.mem off n

/-- Stores device memory bytes as a coherent reader sees them. -/
def State.memWrite (s : State) (off : Nat) (bs : List Byte) : State := { s with mem := wrBytes s.mem off bs }

/-- The offsets of the blocks of size n that a range touches. -/
def blocksOf (n off len : Nat) : List Nat :=
  if len = 0 then [] else (List.range ((off + len - 1) / n - off / n + 1)).map fun i => (off / n + i) * n

/-- The part of bytes written from off that lies in the block of size n at base. -/
def partIn (base n off : Nat) (bs : List Byte) : Nat × List Byte :=
  if off < base then (base, (bs.drop (base - off)).take n) else (off, bs.take (base + n - off))

/-- How many blocks of n bytes a range touches. -/
def blockCount (n off len : Nat) : Nat := (blocksOf n off len).length

/-- The sectors that a range touches, each by an offset in it and how many of its bytes the range has. -/
def State.sectorsIn (s : State) (off n : Nat) : List (Nat × Nat) :=
  if (s.chunkAt off).isNone && (s.chunkAt (off + n - 1)).isNone then
    (blocksOf 64 off n).map fun b => (max b off, min (off + n) (b + 64) - max b off)
  else
    let keys := (List.range n).map fun i => s.sectorKey (off + i)
    keys.eraseDups.map fun k => (k, (keys.filter (· == k)).length)

end Sys2Proof.Machine
end

