-- ==== Sys2Proof/Machine/BayOps.lean ====
section
/-! DEFINITION. The shared region of the bays as cache of device memory: home bays, sets, replacement, write-back
and the write of a home bay (R219 to R238). -/

namespace Sys2Proof.Machine
open Sys2Proof

/-- The line of an offset: the aligned 128-byte block that holds it (R219). -/
def lineOf (off : Nat) : Nat := off / 128 * 128

/-! Counter places of the sill cache, the per-class ones first (R240, R261, R382). -/
/-- HIT. -/
def sillHit : Nat := 0
/-- MISS. -/
def sillMiss : Nat := 8
/-- MERGED. -/
def sillMerged : Nat := 16
/-- REMOTE_HIT. -/
def sillRemoteHit : Nat := 24
/-- REMOTE_MISS. -/
def sillRemoteMiss : Nat := 25
/-- REMOTE_UNCACHED. -/
def sillRemoteUncached : Nat := 26
/-- MULTICAST. -/
def sillMulticast : Nat := 27
/-- NO_ALLOC. -/
def sillNoAlloc : Nat := 28
/-- EVICT. -/
def sillEvict : Nat := 29
/-- WRITEBACK. -/
def sillWriteback : Nat := 30
/-- RELABEL. -/
def sillRelabel : Nat := 31
/-- PIN_REFUSED. -/
def sillPinRefused : Nat := 32
/-- DEAD_DROPS. -/
def sillDeadDrops : Nat := 33
/-- DEAD_IGNORED. -/
def sillDeadIgnored : Nat := 34
/-- INVAL_SENT. -/
def sillInvalSent : Nat := 35
/-- PF_FILLS. -/
def sillPfFills : Nat := 36
/-- PF_UNUSED_BYTES. -/
def sillPfUnusedBytes : Nat := 37

/-- Adds to a sill cache counter of a bay. -/
def State.sill (s : State) (bay pos n : Nat) : State := s.bump 0x11 bay pos n

/-- Adds to a per-class sill cache counter of a bay. -/
def State.sillC (s : State) (bay pos cls n : Nat) : State := s.bump 0x11 bay (pos + cls) n

/-- PRIVATE_STEPS of a bay (R216). -/
def State.privSteps (s : State) (bay : Nat) : Nat := s.cfld (offBayCfg bay) 20 4

/-- Sets per bank pair of a bay's shared region (R221). -/
def State.sillSets (s : State) (bay : Nat) : Nat := 384 - 32 * s.privSteps bay

/-- Whether a bay is retired (R216). -/
def State.bayRetired (s : State) (bay : Nat) : Bool := s.cfld (offBayCfg bay) 0 2 == 2

/-- The place of a line in its bay: bank pair and set (R221). -/
def State.setOf (s : State) (bay line : Nat) : Nat := line / 128 % 8 + 8 * (line / 1024 % s.sillSets bay)

/-- HOME_MAP (R220): the home bay of an HBM offset. -/
def State.homeBay (s : State) (off : Nat) : Nat :=
  let p := partOfOff off
  let i := bitsN off 10 10 ^^^ bitsN off 20 10 ^^^ bitsN off 30 10 ^^^ bitsN off 40 4
  let bays := (clustersOfPart p).filter fun n => !s.bayRetired n
  bays.getD (i % bays.length) 0

/-- A line of a bay. -/
def Bay.find (b : Bay) (line : Nat) : Option Line := b.lines.find? (·.line == line)

/-- A bay with a line changed. -/
def Bay.modLine (b : Bay) (line : Nat) (f : Line → Line) : Bay :=
  { b with lines := updFirst (·.line == line) f b.lines }

/-- A bay without a line. -/
def Bay.drop (b : Bay) (line : Nat) : Bay := { b with lines := b.lines.filter (·.line != line) }

/-! ### What HBM holds (R294 to R296) -/

/-- Stores a byte that HBM holds at an offset: under a dirty line it is the stale value that the bay's copy hides. -/
def State.hbmPut (s : State) (off : Nat) (v : Byte) : State :=
  let h := s.homeBay off
  match (s.bay h).find (lineOf off) with
  | some l =>
    if l.stale.any (·.1 == off) then
      s.setBay h ((s.bay h).modLine l.line fun x => { x with stale := x.stale.map fun e => if e.1 = off then (off, v) else e })
    else s.memWrite off [v]
  | none => s.memWrite off [v]

/-- The byte that HBM holds at an offset. -/
def State.hbmGet (s : State) (off : Nat) : Byte :=
  match (s.bay (s.homeBay off)).find (lineOf off) with
  | some l => match l.stale.find? (·.1 == off) with
    | some e => e.2
    | none => nget 0 s.mem off
  | none => nget 0 s.mem off

/-- Changes the bits of a byte that HBM holds.
[DESIGN CHOICE, log entry 76: safe] -/
def State.hbmFlip (s : State) (off : Nat) (x : Byte) : State := if x = 0 then s else s.hbmPut off (s.hbmGet off ^^^ x)

/-- A read of the sector that holds an offset, decoded (R295): corrected, with the corrected sector written again; or poisoned, which
the answer says. The record of an uncorrectable one gives stack, channel and pseudo-channel, and a bank and row that are the
controller's own choice (R291).
[DESIGN CHOICE, log entry 150: safe] -/
def State.sectorRead (s : State) (off : Nat) : State × Bool :=
  let s1 := s.hbmCount off 0 1
  let d := s.sectorChk off
  if d = 0 then (s1, false)
  else
    match rsDecode (chkErrors d) with
    | .clean => (s1, false)
    | .corrected sym v =>
      let s2 := if sym < 64 then s1.hbmFlip ((s.sectorBytes off).getD sym 0) v else s1
      (((s2.setChk off 0).hbmCount off 3 1).hbmCount off 1 1, false)
    | .poison => (s1.hbmCount off 5 1, true)
    | .uncorrectable =>
      let pc := match s.hbmPlace off with
        | some w => w.pc
        | none => 0
      ((s1.hbmCount off 4 1).drew.logEv 295 ((s.hbmUnit off * 2 + pc) * 2 ^ 32 + s.draw % 2 ^ 32), true)

/-- The controller's write of n bytes inside one sector (R296): a whole sector replaces what it held; a part is merged by
read-modify-write, and the sector then stays poisoned where its read was. -/
def State.sectorPut (s : State) (off n : Nat) (poison : Bool) : State :=
  let mark (st : State) : State := (st.setChk off poisonMarker).hbmCount off 6 1
  if n = 64 then
    let s1 := s.hbmCount off 1 1
    if poison then mark s1 else s1.setChk off 0
  else
    let r := s.sectorRead off
    let s1 := (r.1.hbmCount off 2 1).hbmCount off 1 1
    if r.2 then (mark s1).logEv 296 off else if poison then mark s1 else s1

/-- A write performed by the HBM controller, sector by sector (R296). -/
def State.hbmWrite (s : State) (off : Nat) (bs : List Byte) : State :=
  ((s.sectorsIn off bs.length).foldl (fun (st : State) x => st.sectorPut x.1 x.2 false) s).memWrite off bs

/-- A read of the sectors of a range by the HBM controller (R295), and whether any of them is poisoned. -/
def State.hbmFetch (s : State) (off n : Nat) : State × Bool :=
  (s.sectorsIn off n).foldl (fun acc x => let r := acc.1.sectorRead x.1; (r.1, acc.2 || r.2)) (s, false)

/-! ### Ways and pins (R207, R228, R230, R231) -/

/-- Whether any PIN range or CH.PIN pin covers a line of a bay (R231). -/
def State.pinned (s : State) (bay line : Nat) : Bool :=
  s.fns.any (fun f => f.2.pins.any fun r => r.lines.any fun x => x.bay == bay && x.line == line) ||
  s.cores.any (fun c => c.2.chPins.any fun x => x.bay == bay && x.line == line)

/-- Ways of a set that hold provisional lines, lines of rings and journals, and held outputs (R207, R230, R270, R271). -/
def State.fixedWays (s : State) (bay st : Nat) : Nat :=
  ((s.bay bay).prov.filter fun l => s.setOf bay l.line == st).length + ((s.bay bay).ways.filter fun w => w.set == st).length

/-- Ways of a set that count against the cap of R230: pinned lines beside those. -/
def State.capIn (s : State) (bay st : Nat) : Nat :=
  ((s.bay bay).lines.filter fun l => s.setOf bay l.line == st && s.pinned bay l.line).length + s.fixedWays bay st

/-- The same for the set of a line. -/
def State.capUsed (s : State) (bay line : Nat) : Nat := s.capIn bay (s.setOf bay line)

/-- Beats that move over the far ports of a bay (R195, R218).
[DEDUCED, log entry 151: unsafe] -/
def State.farBeats (s : State) (bay n : Nat) : State := s.bump 0x10 bay 1 n

/-- Retention of a line: its class's RETAIN, or REMOTE_POLICY's (R228). -/
def State.retain (s : State) (bay : Nat) (l : Line) : Nat :=
  if l.kind = .remote then s.cfld (offRemote (partOfCluster bay)) 8 2
  else s.cfld (offCache (partOfCluster bay) l.cls) 4 2

/-- Removes a dropped line's prefetch mark from the accounts (R261). -/
def State.unmark (s : State) (bay : Nat) (l : Line) : State :=
  if l.mark then s.sill bay sillPfUnusedBytes 128 else s

/-- Writes a dirty line back to HBM (R224): its sectors, with the poison marker where the line is poisoned (R295). The line stays,
clean. -/
def State.writeBack (s : State) (bay : Nat) (l : Line) : State :=
  if !l.dirty then s else
  let s1 := (s.sectorsIn l.line 128).foldl (fun (st : State) x => st.sectorPut x.1 x.2 (l.bad != 0)) s
  (((s1.setBay bay ((s1.bay bay).modLine l.line fun x => { x with dirty := false, stale := [] })).sill bay sillWriteback 1)).farBeats bay 2

/-- Drops a line without writing it back: device memory then reads what HBM holds (R233, R238). -/
def State.dropLine (s : State) (bay : Nat) (l : Line) : State :=
  let s1 := s.unmark bay l
  let s2 := if l.dirty then { s1 with mem := l.stale.foldl (fun m e => nset 0 m e.1 e.2) s1.mem } else s1
  s2.setBay bay ((s2.bay bay).drop l.line)

/-- Writes back, if dirty, and invalidates a line. -/
def State.flushLine (s : State) (bay : Nat) (l : Line) : State :=
  let s1 := (s.writeBack bay l).unmark bay l
  s1.setBay bay ((s1.bay bay).drop l.line)

/-- The way that a bay gives in a set to something of a class (R228): nothing when it must serve without allocating, else the line to
replace, if any. -/
def State.victimIn (s : State) (bay st cls : Nat) (remote : Bool) : Option (Option Line) :=
  let b := s.bay bay
  let inSet := b.lines.filter fun l => s.setOf bay l.line == st
  let p := partOfCluster bay
  let remotes := inSet.filter fun l => decide (l.kind = .remote)
  let maxWays := s.cfld (offRemote p) 0 5
  let cand := inSet.filter fun l =>
    !s.pinned bay l.line && l.acks == 0 && !b.miss.any (fun m => m.line == l.line) &&
    !(remote && maxWays ≤ remotes.length && decide (l.kind ≠ .remote)) &&
    !(decide (l.kind ≠ .remote) && l.cls != cls &&
      (inSet.filter fun x => decide (x.kind ≠ .remote) && x.cls == l.cls).length ≤ s.cfld (offCache p l.cls) 0 3)
  if inSet.length + s.fixedWays bay st < 16 && !(remote && maxWays ≤ remotes.length) then some none
  else
    match cand with
    | [] => none
    | c :: r => some (some (r.foldl (fun best l =>
        if s.retain bay l < s.retain bay best || (s.retain bay l == s.retain bay best && l.stamp < best.stamp)
        then l else best) c))

/-- The way that a bay gives to a new line (R228). -/
def State.victim (s : State) (bay line cls : Nat) (remote : Bool) : Option (Option Line) :=
  s.victimIn bay (s.setOf bay line) cls remote

/-- Bays of a tower. -/
def towerBays : Nat := 672

/-- The invalidations that a home line's recorded copies ask for (R235): one for each bay of the other tower but the writer's, and one
for each recorded module. -/
def Line.copies (l : Line) (home : Nat) (writer : Option Nat) : Nat :=
  (if l.otherTower then towerBays - (match writer with
    | some w => if w / towerBays = home / towerBays then 0 else 1
    | none => 0) else 0) + l.modules.length

/-- Drops the copies of a line that satisfy a test of their bay. -/
def State.dropCopiesOf (s : State) (ln : Nat) (p : Nat → Bool) : State :=
  s.bays.foldl (fun st e => match e.2.find ln with
    | some l => if p e.1 && decide (l.kind ≠ .home) then
        let s1 := st.unmark e.1 l
        s1.setBay e.1 ((s1.bay e.1).drop ln)
      else st
    | none => st) s

/-- A line is replaced (R228, R235): a home line with recorded copies has them invalidated first.
[DEDUCED, log entry 152: safe] -/
def State.evictLine (s : State) (bay : Nat) (l : Line) : State :=
  let s1 := if l.kind = .home ∧ l.copies bay none ≠ 0 then
      (s.dropCopiesOf l.line fun b => b / towerBays != bay / towerBays).sill bay sillInvalSent (l.copies bay none)
    else s
  (s1.flushLine bay l).sill bay sillEvict 1

/-- Makes room where a choice of victim says so. -/
def State.makeRoom (s : State) (bay : Nat) (v : Option Line) : State :=
  match v with
  | none => s
  | some l => s.evictLine bay l

/-- Allocates a line in a bay, replacing a victim under R228; the flag says whether it found a way. -/
def State.allocLine (s : State) (bay : Nat) (new : Line) : State × Bool :=
  match s.victim bay new.line new.cls (decide (new.kind = .remote)) with
  | none => (s.sill bay sillNoAlloc 1, false)
  | some v =>
    let s1 := s.makeRoom bay v
    let b := s1.bay bay
    let s2 := s1.setBay bay { b with lines := b.lines ++ [{ new with stamp := b.clock + 1 }], clock := b.clock + 1 }
    (if new.mark then s2.sill bay sillPfFills 1 else s2, true)

/-- Takes a way of a bay for a line without a device address (R207, R270, R271), under the cap of R230; the flag says whether it found
one. No rule says in which set such a line lies: the set is an open value.
[DESIGN CHOICE, log entry 36: safe] -/
def State.takeWay (s : State) (bay core kind idx cls : Nat) : State × Bool :=
  let st := s.draw % (8 * s.sillSets bay)
  let s1 := s.drew
  if 12 ≤ s1.capIn bay st then (s1, false)
  else
    match s1.victimIn bay st cls false with
    | none => (s1, false)
    | some v =>
      let s2 := s1.makeRoom bay v
      let b := s2.bay bay
      (s2.setBay bay { b with ways := b.ways ++ [{ core := core, kind := kind, idx := idx, set := st }] }, true)

/-- Takes a way for each number listed, as long as there is one. -/
def State.takeWays (s : State) (bay core kind cls : Nat) (idxs : List Nat) : State × Bool :=
  idxs.foldl (fun acc i => if acc.2 then acc.1.takeWay bay core kind i cls else acc) (s, true)

/-- Gives back the ways that a core holds for a kind of line and a test of their numbers. -/
def State.giveWays (s : State) (core kind : Nat) (p : Nat → Bool) : State :=
  let n := clusterOf core
  let b := s.bay n
  if b.ways.isEmpty then s
  else s.setBay n { b with ways := b.ways.filter fun w => !(w.core == core && w.kind == kind && p w.idx) }

/-- Marks a use of a line by a request of a class (R228, R261). -/
def State.hitLine (s : State) (bay : Nat) (l : Line) (cls : Nat) : State :=
  let b := s.bay bay
  let s1 := s.setBay bay { (b.modLine l.line fun x => { x with cls := cls, mark := false, stamp := b.clock + 1 }) with
    clock := b.clock + 1 }
  if l.cls = cls then s1 else s1.sill bay sillRelabel 1

/-- Whether a read of the sector that holds an offset answers poisoned data (R295). -/
def State.sectorBad (s : State) (off : Nat) : Bool :=
  s.sectorChk off != 0 && match rsDecode (chkErrors (s.sectorChk off)) with
    | .poison => true
    | .uncorrectable => true
    | _ => false

/-- The poisoned words of a line as HBM holds it: a poisoned sector makes its whole line poisoned (R295). -/
def State.hbmBad (s : State) (ln : Nat) : BitVec 16 :=
  if (s.sectorsIn ln 128).any fun x => s.sectorBad x.1 then BitVec.allOnes 16 else 0

/-- Which words of the line that holds an offset are poisoned: as its home bay holds it, else as HBM holds it (R295,
R498). -/
def State.poisonMask (s : State) (off : Nat) : BitVec 16 :=
  match (s.bay (s.homeBay off)).find (lineOf off) with
  | some l => if l.kind = .home then l.bad else s.hbmBad (lineOf off)
  | none => s.hbmBad (lineOf off)

/-- Whether a line holds poisoned data. -/
def State.linePoison (s : State) (off : Nat) : Bool := s.poisonMask off != 0

/-- Whether the 64-bit word that holds an offset is poisoned (R498). -/
def State.wordPoison (s : State) (off : Nat) : Bool := (s.poisonMask off).getLsbD (off / 8 % 16)

/-- Whether any word of a range is poisoned. -/
def State.rangePoison (s : State) (off n : Nat) : Bool := (blocksOf 8 off n).any s.wordPoison

/-- The words of a line that stay poisoned after a write of n bytes at an offset within it: a word written whole is good
again (R498).
[DEDUCED, log entry 18: unsafe] -/
def badAfter (bad : BitVec 16) (off n : Nat) : BitVec 16 :=
  (List.range 16).foldl (fun (m : BitVec 16) (w : Nat) =>
    let a := lineOf off + 8 * w
    if off ≤ a ∧ a + 8 ≤ off + n then m &&& ~~~(BitVec.ofNat 16 (2 ^ w)) else m) bad

/-- Old bytes kept for the cells that become stale in HBM: those not yet stale. -/
def staleAdd (stale : NMap Byte) (mem : NMap Byte) (off : Nat) : Nat → NMap Byte
  | 0 => stale
  | n + 1 =>
    let st := if stale.any (·.1 == off) then stale else nins off (nget 0 mem off) stale
    staleAdd st mem (off + 1) n

/-- Words of 64 bits that a write covers in part (R208). -/
def narrowWords (off n : Nat) : Nat := ((blocksOf 8 off n).filter fun w => decide (w < off) || decide (off + n < w + 8)).length

/-- A present home line takes runs of bytes: offsets with their bytes, all within the line (R223, R235). -/
def State.putRuns (s : State) (h : Nat) (l : Line) (runs : List (Nat × List Byte)) (writer : Option Nat) : State × Bool :=
  let due := l.copies h writer
  let other := match writer with
    | some w => w / towerBays != h / towerBays
    | none => false
  let s1 := s.setBay h ((s.bay h).modLine l.line fun x =>
    { x with dirty := true,
             bad := runs.foldl (fun b r => badAfter b r.1 r.2.length) x.bad,
             stale := runs.foldl (fun st r => staleAdd st s.mem r.1 r.2.length) x.stale,
             acks := x.acks + due, otherTower := x.otherTower && other, modules := [],
             spared := if due = 0 then x.spared else if x.acks = 0 then writer.toList else x.spared.filter fun b => writer == some b })
  let s2 := if due = 0 then s1 else s1.sill h sillInvalSent due
  (runs.foldl (fun st r => ((st.farBeats h (blockCount 64 r.1 r.2.length)).bump 0x10 h 5 (narrowWords r.1 r.2.length)).memWrite r.1 r.2) s2,
   decide (due ≠ 0))

/-- A write of runs of bytes to one line at its home bay, by a master in a cluster's bay or by none (R223), and whether
invalidations became due (R235). -/
def State.lineRuns (s : State) (ln : Nat) (runs : List (Nat × List Byte)) (cls : Nat) (writer : Option Nat) : State × Bool :=
  let h := s.homeBay ln
  let pass (st : State) : State × Bool := (runs.foldl (fun x r => x.hbmWrite r.1 r.2) st, false)
  match (s.bay h).find ln with
  | some l => ((s.sillC h sillHit cls 1).hitLine h l cls).putRuns h l runs writer
  | none =>
    if runs.any fun r => r.2.length == 128 then
      let new : Line := { line := ln, kind := .home, cls := cls }
      match s.allocLine h new with
      | (s1, true) => s1.putRuns h new runs writer
      | (s1, false) => pass s1
    else if s.cfld (offCache (partOfCluster h) cls) 10 1 = 1 then
      let f := s.hbmFetch ln 128
      let new : Line := { line := ln, kind := .home, cls := cls, bad := f.1.hbmBad ln }
      match (f.1.farBeats h 2).allocLine h new with
      | (s1, true) => s1.putRuns h new runs writer
      | (s1, false) => pass s1
    else pass s

/-- A write that lies in one line (R223). -/
def State.lineWrite (s : State) (off : Nat) (bs : List Byte) (cls : Nat) (writer : Option Nat) : State × Bool :=
  s.lineRuns (lineOf off) [(off, bs)] cls writer

/-- A write at its home bays, line by line (R223); the list holds the lines with invalidations due. -/
def State.homeWriteBy (s : State) (off : Nat) (bs : List Byte) (cls : Nat) (writer : Option Nat) : State × List Nat :=
  (blocksOf 128 off bs.length).foldl (fun acc b =>
    let x := partIn b 128 off bs
    let r := acc.1.lineWrite x.1 x.2 cls writer
    (r.1, if r.2 then acc.2 ++ [b] else acc.2)) (s, [])

/-- A write of a master that lies in no cluster. -/
def State.homeWrite (s : State) (off : Nat) (bs : List Byte) (cls : Nat) : State × List Nat := s.homeWriteBy off bs cls none

/-- Invalidates a device range throughout both sills (R238): dirty home lines are written back, or dropped, and
every home line, replica and remote copy in the range goes. -/
def State.invalRange (s : State) (off n : Nat) (dropDirty : Bool) : State :=
  s.bays.foldl (fun st e =>
    e.2.lines.foldl (fun st2 l =>
      if off < l.line + 128 && l.line < off + n then
        (if dropDirty then st2.dropLine e.1 l else st2.flushLine e.1 l)
      else st2) st) s

/-- Writes back every dirty home line of a range, leaving the lines valid (R317). -/
def State.cleanRange (s : State) (off n : Nat) : State :=
  s.bays.foldl (fun st e =>
    e.2.lines.foldl (fun st2 l =>
      if off < l.line + 128 && l.line < off + n then st2.writeBack e.1 l else st2) st) s

end Sys2Proof.Machine
end

