-- ==== Sys2Proof/Machine/NbEngine.lean ====
section
/-! DEFINITION. The engines of the near-bank stacks: the activation buffers, one step of an engine, and what it reads and writes
(R306, R307, R310, R317 to R320, R323). -/

namespace Sys2Proof.Machine
open Sys2Proof

/-- The tables of a table set of the committed image (R110); a core's table cache always reads them as patched
(R112).
[DEDUCED, log entry 40: unsafe] -/
def State.tables (s : State) (set : Nat) : List (List (BitVec 16)) :=
  match s.img.image with
  | some im => match im.tables[set]? with
    | some t => t.tables
    | none => []
  | none => []

/-- A tensor of the committed image by its id (R55). -/
def State.tensor (s : State) (id : Nat) : Option Tensor :=
  match s.img.image with
  | some im => im.tensors.find? (·.id == id)
  | none => none

/-- The phase of the committed image with an id. -/
def State.phase (s : State) (id : Nat) : Option Phase :=
  match s.img.image with
  | some im => im.phases.find? (·.id == id)
  | none => none

/-- A node of the thermal model (R482). -/
def State.tnode (s : State) (n : Nat) : ThermNode := nget {} s.therm.nodes n


/-! Counter places of a near-bank stack (R329). -/
/-- NB_SEQUENCES. -/
def nbSequences : Nat := 0
/-- NB_OPS_EXECUTED. -/
def nbExecuted : Nat := 1
/-- NB_OPS_SKIPPED. -/
def nbSkipped : Nat := 2
/-- NB_STEPS. -/
def nbSteps : Nat := 3
/-- NB_WEIGHT_BYTES. -/
def nbWeightBytes : Nat := 4
/-- NB_PRODUCTS. -/
def nbProducts : Nat := 5
/-- NB_RMW. -/
def nbRmw : Nat := 8
/-- NB_HANDIN_LINES. -/
def nbHandin : Nat := 9
/-- NB_INVAL_LINES. -/
def nbInval : Nat := 10
/-- NB_HANDBACKS. -/
def nbHandbacks : Nat := 11
/-- NB_PAUSE_NS. -/
def nbPauseNs : Nat := 12

/-- Adds to a counter of a near-bank stack. -/
def State.nbCount (s : State) (st pos n : Nat) : State := s.bump 0x19 st pos n

/-- A kick's sequence. -/
def State.kickSeq (s : State) (k : Kick) : Option NbSeq :=
  match s.run k.run with
  | some r => (s.phase r.phase).bind fun ph => ph.seqs[k.seq]?
  | none => none

/-- Batch size of a kick's run. -/
def State.kickBatch (s : State) (k : Kick) : Nat :=
  match s.run k.run with
  | some r => r.batch
  | none => 0

/-! ### What engines and sequencer read (R317, R323) -/

/-- Bytes that HBM holds over a range. -/
def State.hbmRead (s : State) (off n : Nat) : List Byte := (List.range n).map fun i => s.hbmGet (off + i)

/-- Reads the sectors that hold some offsets, each once, and answers those found poisoned, by the offset of their first byte
(R295, R323). -/
def State.fetchSectors (s : State) (offs : List Nat) : State × List Nat :=
  ((offs.map s.sectorKey).eraseDups).foldl (fun acc k =>
    let r := acc.1.sectorRead k
    (r.1, if r.2 then k :: acc.2 else acc.2)) (s, [])

/-- Symbols of a sector that the array gives changed, by the flips listed (R295). -/
def State.upset (s : State) (off : Nat) (flips : List (Nat × Byte)) : State :=
  let fl := flips.filter fun f => decide (f.1 < 68)
  let bytes := s.sectorBytes off
  let s1 := fl.foldl (fun st f => if f.1 < 64 then st.hbmFlip (bytes.getD f.1 0) f.2 else st) s
  s1.setChk off (s.sectorChk off ^^^ chkOfFlips fl)

/-- What an activation buffer keeps: the least recently loaded rows go while more than 256 KiB are held (R306, R317). -/
def trimRows : List ActRow → List ActRow
  | [] => []
  | x :: r => if 262144 < ((x :: r).map (·.data.length)).sum then trimRows r else x :: r

/-- The sequencer reads a row of activations and broadcasts it, where the buffers do not hold it (R317). -/
def State.nbLoadRow (s : State) (st off n : Nat) : State :=
  if (s.nb st).acts.any (fun a => a.off == off && a.data.length == n) then s
  else
    let r := s.hbmFetch off n
    let x := r.1.nb st
    r.1.setNb st { x with acts := trimRows (x.acts ++ [{ off := off, data := r.1.hbmRead off n, bad := r.2 }]) }

/-- The row of activations of token b of an operation: its device offset (R310). -/
def NbOp.actRow (o : NbOp) (act : Tensor) (kk b : Nat) : Nat := act.base + (o.actFirst + b) * (2 * kk)

/-- The buffers hold every row that an operation's tokens need: a row that a load of this operation displaces is loaded again
(R317). -/
def State.nbLoad (s : State) (st : Nat) (o : NbOp) (act : Tensor) (kk : Nat) (toks : List Nat) : State :=
  ((List.range 8).flatMap fun _ => toks).foldl (fun a b => a.nbLoadRow st (o.actRow act kk b) (2 * kk)) s

/-- A row of the activation buffers. -/
def NbStack.act (x : NbStack) (off n : Nat) : ActRow :=
  (x.acts.find? fun a => a.off == off && a.data.length == n).getD { off := off, data := zeros n, bad := false }

/-- The tokens that an operation selects, by the mask byte or the batch (R310). -/
def State.nbTokens (s : State) (st : Nat) (k : Kick) (o : NbOp) : List Nat :=
  let toks := List.range (min 8 (s.kickBatch k - k.tokenBase))
  if o.mask = 0xFF then toks else toks.filter fun b => ((s.nb st).masks.getD o.mask 0).getLsbD b

/-- The rows of a tensor that lie in a channel of a stack (R310, R312, R314). -/
def State.nbRows (s : State) (st ch : Nat) (t : Tensor) : List Nat :=
  let n := rowBytes t.fmt (t.shape.getD 0 0)
  (List.range (t.shape.getD 1 0)).filter fun r =>
    match s.hbmPlace (t.base + r * n) with
    | some w => w.stack == st && w.channel == ch
    | none => false

/-- One output (R310, R307): the products of a row of weights and a row of activations, with the prior value when it
accumulates. -/
def nbDot (d : Nat) (w a : List Num) (prior : Option W32) : W32 :=
  let ps := List.zipWith Num.mul w a
  sumOpen d (match prior with
    | some p => f32 p :: ps
    | none => ps)

/-- The results of an engine for one row of weights (R310): an element of OUT for each selected token. -/
def State.nbRow (s : State) (st : Nat) (o : NbOp) (w act out : Tensor) (toks : List Nat) (r : Nat) : State :=
  let kk := w.shape.getD 0 0
  let wb := rowBytes w.fmt kk
  let ws := (List.range kk).map (storedElem w.fmt (fun _ => s.tables w.tableSet) (s.hbmRead (w.base + r * wb) wb))
  toks.foldl (fun (a : State) b =>
    let at_ := out.base + r * 32 + 4 * b
    let as := (List.range kk).map (storedElem 0x03 (fun _ => []) ((a.nb st).act (o.actRow act kk b) (2 * kk)).data)
    let v := nbDot a.draw ws as (if o.accumulate then some (BitVec.ofNat 32 (leNat (a.hbmRead at_ 4))) else none)
    (List.range 4).foldl (fun x i => x.hbmPut (at_ + i) ((leBytes 4 v.toNat).getD i 0)) a.drew) s

/-- An engine's write of the OUT sector that holds some of the rows just computed (R320, R323): what it accumulates into, or covers in
part, is read first; the sector takes a new code, or the poison marker where poison went into it, which the flag says. The results of
one operation in one step make one write of the sector.
[DEDUCED, log entry 160: unsafe] -/
def State.nbSector (s : State) (st : Nat) (o : NbOp) (w act out : Tensor) (toks rows : List Nat) (dirty : Bool) : State × Bool :=
  let oo := out.base + rows.headD 0 * 32
  let whole := rows.length * toks.length == 16
  let r := if whole && !o.accumulate then (s, false) else s.sectorRead oo
  let s1 := if whole then r.1 else r.1.nbCount st nbRmw 1
  let s2 := (rows.foldl (fun a i => a.nbRow st o w act out toks i) s1).hbmCount oo 1 1
  (if dirty || r.2 then (s2.setChk oo poisonMarker).hbmCount oo 6 1 else s2.setChk oo 0, dirty || r.2)

/-- An engine computes some rows of an operation (R307, R310, R320, R323): it reads their sectors of W, counts what does not decode
(R111, R113), and writes the sectors of OUT. The flag says whether it met poison. -/
def State.nbRun (s : State) (st : Nat) (o : NbOp) (w act out : Tensor) (toks rows : List Nat) (dirty : Bool) : State × Bool :=
  let kk := w.shape.getD 0 0
  let wb := rowBytes w.fmt kk
  let parts (r : Nat) : List Nat := (s.sectorsIn (w.base + r * wb) wb).map (·.1)
  let f := s.fetchSectors (rows.flatMap parts)
  let bad (r : Nat) : Bool := (parts r).any fun a => f.2.contains (s.sectorKey a)
  let actBad := toks.any fun b => ((s.nb st).act (o.actRow act kk b) (2 * kk)).bad
  let inv := (rows.map fun r =>
    storedInvalid w.fmt (fun _ => s.tables w.tableSet) (f.1.hbmRead (w.base + r * wb) wb) kk).sum
  let s1 := ((if inv = 0 then f.1 else f.1.bump 0x31 (st / 2) 0 inv).nbCount st nbWeightBytes (rows.length * wb)).nbCount st nbProducts
    (rows.length * kk * toks.length)
  let key (r : Nat) : Nat := s.sectorKey (out.base + r * 32)
  ((rows.map key).eraseDups).foldl (fun acc k =>
    let mine := rows.filter fun r => key r == k
    let x := acc.1.nbSector st o w act out toks mine (dirty || actBad || mine.any bad)
    (x.1, acc.2 || x.2)) (s1, dirty || actBad || rows.any bad)

/-- Engine time of the first r rows of an operation, in ns (R318). -/
def nbTime (wb kk t r : Nat) : Nat := if r = 0 then 0 else 16 + max (cdiv (r * wb) 512) (cdiv (r * kk * t) 2048)

/-- One step of a channel's engine from a row of an operation on: whole operations, then rows of the next one, within a limit of ns
and at least one row (R318, R319). It answers whether it met poison, and where the engine stands then: the operation times 2^32, plus
its rows computed.
[DEDUCED, log entry 73: safe] -/
def nbStep (st ch : Nat) (k : Kick) (q : NbSeq) (limit : Nat) : Nat → Nat → Nat → Nat → State → Bool → State × Bool × Nat
  | 0, op, row, _, s, bad => (s, bad, op * 2 ^ 32 + row)
  | fuel + 1, op, row, used, s, bad =>
    match q.ops[op]? with
    | none => (s, bad, op * 2 ^ 32)
    | some o =>
      if used ≠ 0 ∧ limit ≤ used then (s, bad, op * 2 ^ 32 + row)
      else
        match s.tensor o.w, s.tensor o.act, s.tensor o.out with
        | some w, some act, some out =>
          let toks := s.nbTokens st k o
          if toks.isEmpty then nbStep st ch k q limit fuel (op + 1) 0 (used + 1) s bad
          else
            let rows := s.nbRows st ch w
            let kk := w.shape.getD 0 0
            let wb := rowBytes w.fmt kk
            let cost (r : Nat) : Nat := nbTime wb kk toks.length r - nbTime wb kk toks.length row
            let fits := (List.range (rows.length + 1)).filter fun r => decide (row ≤ r) && decide (used + cost r ≤ limit)
            let upTo := if used = 0 then max (fits.getLastD row) (min rows.length (row + 1)) else fits.getLastD row
            let todo := (rows.drop row).take (upTo - row)
            let r := if todo.isEmpty then (s, bad)
              else let x := (s.nbLoad st o act kk toks).nbRun st o w act out toks todo (s.nb st).masksBad
                (x.1, bad || x.2)
            if upTo < rows.length then (r.1, r.2, op * 2 ^ 32 + upTo)
            else nbStep st ch k q limit fuel (op + 1) 0 (used + max 16 (cost upTo)) r.1 r.2
        | _, _, _ => nbStep st ch k q limit fuel (op + 1) 0 (used + 1) s bad

/-- Every engine has finished the last operation of a stack's sequence. -/
def NbStack.finished (x : NbStack) (ops : Nat) : Bool := (List.range 32).all fun ch => decide (ops ≤ nget 0 x.at_ ch / 2 ^ 32)

/-- Refreshes postponed for a near-bank step are issued at its boundary (R299, R319). -/
def State.refreshAll (s : State) (unit : Nat) : State :=
  let mine := s.refresh.filter fun e => e.1 / 131072 == unit
  ({ s with refresh := s.refresh.filter fun e => e.1 / 131072 != unit }).bump 0x18 unit 8 (mine.map fun (e : Nat × Nat) => e.2).sum

/-- An engine of a running sequence ends its present step: the step's rows are computed, then the refreshes that fell due go (R319). A
step that a refresh cuts short ends at a row boundary that the manual leaves to the time that passed; a stack whose nodes stand at the
hard limit holds at the boundary (R486). The flag says whether the step met poison.
[DESIGN CHOICE, log entry 165: safe] -/
def State.nbEndStep (s : State) (st ch : Nat) : State × Bool :=
  match (s.nb st).cur with
  | none => (s, false)
  | some k =>
    match s.kickSeq k with
    | none => (s, false)
    | some q =>
      let at0 := nget 0 (s.nb st).at_ ch
      if s.cfld (offNb st) 0 3 ≠ 2 ∨ q.ops.length ≤ at0 / 2 ^ 32 ∨ (List.range 5).any (fun i => (s.tnode (420 + st * 5 + i)).hard) then
        (s, false)
      else
        let cut := (s.nb st).cuts.contains ch
        let r := nbStep st ch k q (if cut then s.draw % 1601 else 1600) (2 * q.ops.length + 2) (at0 / 2 ^ 32) (at0 % 2 ^ 32) 0
          (if cut then s.drew else s) false
        let x := r.1.nb st
        let s2 := r.1.setNb st { x with at_ := nset 0 x.at_ ch r.2.2, steps := nset 0 x.steps ch (nget 0 x.steps ch + 1),
                                        cuts := x.cuts.filter (· != ch) }
        ((s2.nbCount st nbSteps 1).refreshAll (st * 32 + ch), r.2.1)

/-- Every engine of a stack finishes the step in flight (R303, R324, R326, R327). -/
def State.nbFinish (s : State) (st : Nat) : State × Bool :=
  (List.range 32).foldl (fun acc ch => let r := acc.1.nbEndStep st ch; (r.1, acc.2 || r.2)) (s, false)

/-- A near-bank stack without a sequence. -/
def NbStack.clear (x : NbStack) : NbStack := { owner := x.owner }

end Sys2Proof.Machine
end

