-- ==== Sys2Proof/Machine/SillReads.lean ====
section
/-! DEFINITION. Reads through the bays: which bay serves a line, miss entries, fills, and what a read does to the bays (R219, R222,
R225 to R228, R235, R240). -/

namespace Sys2Proof.Machine
open Sys2Proof

/-- Whether a line is replicable: it lies in a WEIGHT tensor or among the codebook table sets (R219). -/
def State.replicable (s : State) (ln : Nat) : Bool :=
  match s.img.image with
  | none => false
  | some im => decide (im.tableBase < ln + 128 ∧ ln < im.tableBase + im.tableBytes.length) || im.tensors.any fun t =>
      t.kind == 0 && t.location != 3 && decide (t.base < ln + 128) && decide (ln < t.base + t.bytes)

/-- Tower of a device offset in an HBM range (R16). -/
def towerOfOff (off : Nat) : Nat := partOfOff off / 4

/-- The number by which bays know a line of another module: its device address above every offset of this one. -/
def remoteLine (a : Nat) : Nat := 2 ^ 56 + a / 128 * 128

/-- Whether a line number is one of another module. -/
def isRemoteLine (ln : Nat) : Bool := decide (2 ^ 56 ≤ ln)

/-- The kind a line has in a bay (R219). -/
def State.kindIn (s : State) (bay ln : Nat) : LineKind :=
  if isRemoteLine ln || towerOfOff ln != bay / 672 then .remote
  else if s.homeBay ln = bay then .home else .replica

/-- The bay where a read by a member of a cluster looks a line up (R222); HOME of R239 asks for the home bay. -/
def State.readBay (s : State) (cluster ln cls : Nat) (home : Bool) : Nat :=
  if isRemoteLine ln || towerOfOff ln != cluster / 672 then cluster
  else if !home && s.replicable ln && s.cfld (offCache (partOfCluster cluster) cls) 11 1 == 1 then cluster
  else s.homeBay ln

/-- A miss entry of a bay for a line. -/
def Bay.missOf (b : Bay) (ln : Nat) : Option Miss := b.miss.find? (·.line == ln)

/-- Opens a miss entry, or joins the one already open (R225, R240). -/
def State.openMiss (s : State) (bay ln cls : Nat) (j : List Joiner) (prefetch : Bool) : State :=
  let b := s.bay bay
  match b.missOf ln with
  | some _ =>
    let b1 := { b with miss := updFirst (·.line == ln) (fun m => { m with joiners := m.joiners ++ j,
                                                                          prefetch := m.prefetch && prefetch }) b.miss }
    if j.isEmpty then s else (s.setBay bay b1).sillC bay sillMerged cls 1
  | none =>
    let s1 := s.setBay bay { b with miss := b.miss ++ [{ line := ln, cls := cls, joiners := j, prefetch := prefetch }] }
    let s2 := s1.sillC bay sillMiss cls 1
    if s.kindIn bay ln = .remote then s2.sill bay sillRemoteMiss 1 else s2

/-- Allocates a line that a fill brought, under the class's policy (R222, R226, R228, R499): a home bay reads HBM; poisoned data is
passed on and not allocated. -/
def State.fillLine (s : State) (bay ln cls : Nat) (mark : Bool) (force : Bool) : State × Bool :=
  let kind := s.kindIn bay ln
  let s1 := if kind = .home then (s.hbmFetch ln 128).1 else s
  if (!isRemoteLine ln && s1.linePoison ln) || (!force && s.cfld (offCache (partOfCluster bay) cls) 9 1 == 0) then
    (s1.sill bay sillNoAlloc 1, false)
  else
    let r := s1.allocLine bay { line := ln, kind := kind, cls := cls, mark := mark }
    (if r.2 then r.1.farBeats bay 2 else r.1, r.2)

/-- A line read for a bay of the other tower has a copy there (R235). -/
def State.recordTower (s : State) (bay ln : Nat) : State :=
  s.setBay bay ((s.bay bay).modLine ln fun x => { x with otherTower := true })

/-- A read of a line at the bay where it is looked up (R222, R240): a hit; a request that joins an open entry; or a miss whose fill
comes at once, after what the fill asks of another bay. -/
def State.readAt (s : State) (bay ln cls : Nat) (fill : State → State) : State :=
  let b := s.bay bay
  let s1 : State := match b.find ln with
    | some l =>
      let s0 := (s.sillC bay sillHit cls 1).hitLine bay l cls
      if l.kind = .remote then s0.sill bay sillRemoteHit 1 else s0
    | none =>
      if (b.missOf ln).isSome then s.sillC bay sillMerged cls 1
      else
        let s0 := s.sillC bay sillMiss cls 1
        let s0 := if s.kindIn bay ln = .remote then s0.sill bay sillRemoteMiss 1 else s0
        ((fill s0).fillLine bay ln cls false false).1
  s1.farBeats bay 2

/-- What a read of a line by a member of a cluster does to the bays (R222): it is looked up in its bay, which asks the home bay on a
miss. The bytes are those that a coherent reader sees.
[DEDUCED, log entry 153: safe] -/
def State.touch (s : State) (cluster ln cls : Nat) : State :=
  let bay := s.readBay cluster ln cls false
  s.readAt bay ln cls fun s1 =>
    if isRemoteLine ln || decide (s1.kindIn bay ln = .home) then s1
    else
      let h := s1.homeBay ln
      let s2 := s1.readAt h ln cls id
      if h / towerBays = bay / towerBays then s2 else s2.recordTower h ln

/-- What a read by a master outside the clusters does to the home bay of a line (R222). -/
def State.touchHome (s : State) (ln cls : Nat) : State := s.readAt (s.homeBay ln) ln cls id

/-- Whether a read of a line finds no free miss entry and waits (R225). -/
def State.entriesBusy (s : State) (cluster ln cls : Nat) : Bool :=
  let b := s.bay (s.readBay cluster ln cls false)
  (b.find ln).isNone && (b.missOf ln).isNone && decide (64 ≤ b.miss.length)

/-- Whether a read at a line's home bay finds no free miss entry and waits (R225). -/
def State.homeBusy (s : State) (ln : Nat) : Bool :=
  let b := s.bay (s.homeBay ln)
  (b.find ln).isNone && (b.missOf ln).isNone && decide (64 ≤ b.miss.length)

/-- The reads of the lines of a device range, but those that a test leaves out. -/
def State.touchRange (s : State) (cluster off n cls : Nat) (p : Nat → Bool) : State :=
  (blocksOf 128 off n).foldl (fun st ln => if p ln then st.touch cluster ln cls else st) s

end Sys2Proof.Machine
end

