-- ==== Sys2Proof/Machine/RunOps.lean ====
section
/-! DEFINITION. Epochs, the writes made under them, the stopping of runs, the core reset and the trap (R93, R94,
R262 to R283, R502 to R505). -/

namespace Sys2Proof.Machine
open Sys2Proof

/-! ### Trap causes (R93) -/

/-- ILLEGAL_INSTRUCTION. -/
def tIllegal : Nat := 0x01
/-- ILLEGAL_CSR. -/
def tIllegalCsr : Nat := 0x02
/-- ALIGN. -/
def tAlign : Nat := 0x03
/-- RANGE. -/
def tRange : Nat := 0x04
/-- DESC. -/
def tDesc : Nat := 0x05
/-- PC_RANGE. -/
def tPcRange : Nat := 0x06
/-- FETCH_ECC. -/
def tFetchEcc : Nat := 0x07
/-- DATA_ECC. -/
def tDataEcc : Nat := 0x08
/-- WATCHDOG. -/
def tWatchdog : Nat := 0x09
/-- MSG_LOST. -/
def tMsgLost : Nat := 0x0A
/-- UNIT. -/
def tUnit : Nat := 0x0B

/-- The run completion status of a trap cause that is no unit's special case (R93). -/
def trapStatus (cause : Nat) : Nat :=
  if cause = tFetchEcc ∨ cause = tDataEcc then stEcc else if cause = tWatchdog then stTimeout else stAborted

/-- The status of a run after one more of its cores trapped before it was stopped (R94): ECC_UNCORRECTABLE before TIMEOUT before what
came first. -/
def mergeStatus (old : Option Nat) (new : Nat) : Nat :=
  match old with
  | none => new
  | some o => if new = stEcc ∨ o = stEcc then stEcc else if new = stTimeout ∨ o = stTimeout then stTimeout else o

/-! ### Epochs -/

/-- Counter places of a speculation directory (R284). -/
def spOpened : Nat := 0
/-- Place of SPEC_CONFIRMED. -/
def spConfirmed : Nat := 1
/-- Place before SPEC_ABORTED[1]. -/
def spAborted : Nat := 1
/-- Place of SPEC_PROV_LINES. -/
def spProvLines : Nat := 13
/-- Place of SPEC_PROV_APPLIED. -/
def spProvApplied : Nat := 14
/-- Place of SPEC_JOURNAL_GRANULES. -/
def spJournal : Nat := 15
/-- Place of SPEC_JOURNAL_RESTORED. -/
def spRestored : Nat := 16
/-- Place of SPEC_HELD. -/
def spHeld : Nat := 17
/-- Place of SPEC_HELD_DISCARDED. -/
def spHeldDiscarded : Nat := 18
/-- Place of SPEC_DISCARDED_WRITES. -/
def spDiscarded : Nat := 19
/-- Place of SPEC_LATE_RESOLVE. -/
def spLate : Nat := 20

/-- Adds to a counter of a logical partition's directory (R284). -/
def State.spec (s : State) (lp pos n : Nat) : State := s.bump 0x28 lp pos n

/-- The key of an epoch: its group (logical partition × 4 + group) and its number; 0 stands for none.
[DESIGN CHOICE, log entry 79: safe] -/
def epKey (g e : Nat) : Nat := g * 65536 + e + 1

/-- The group of an epoch's key. -/
def keyGroup (key : Nat) : Nat := (key - 1) / 65536

/-- The state of an epoch: IDLE once its group went on to another. -/
def State.epState (s : State) (key : Nat) : EpochState :=
  if key = 0 then .idle
  else if (s.group (keyGroup key)).epoch.toNat = (key - 1) % 65536 then (s.group (keyGroup key)).st else .idle

/-- Whether writes of an epoch that land now are provisional (R265). -/
def State.provisional (s : State) (key : Nat) : Bool :=
  decide (s.epState key = .open_) || decide (s.epState key = .held)

/-- Whether writes of an epoch that land now are ordinary data (R265). -/
def State.ordinary (s : State) (key : Nat) : Bool :=
  key == 0 || decide (s.epState key = .confirming) || decide (s.epState key = .confirmed)

/-- SPEC_EPOCH.STATE of an epoch's state (R266). -/
def epCode : EpochState → Nat
  | .idle => 0 | .open_ => 1 | .held => 1 | .confirming => 2 | .confirmed => 3 | .aborting => 4 | .aborted => 5

/-- The stream slots a core keeps across a generation advance (R257): program stopped, start dropped, port and
gather buffer empty. -/
def Slot.advance (x : Slot) : Slot :=
  { x with gen := x.gen + 1, running := none, pending := none, begun := false, ended := false, moved := 0,
           rowsLeft := 0, loops := [], gather := [], port := [] }

/-- A stream slot of a core. -/
def Core.slot (k : Core) (i : Nat) : Slot := nget {} k.slots i

/-- Sets a stream slot. -/
def Core.setSlot (k : Core) (i : Nat) (x : Slot) : Core := { k with slots := nset {} k.slots i x }

/-- A thread-group slot of a core. -/
def Core.grp (k : Core) (i : Nat) : Group := nget {} k.groups i

/-- Sets a thread-group slot. -/
def Core.setGrp (k : Core) (i : Nat) (x : Group) : Core := { k with groups := nset {} k.groups i x }

/-- Advances the generation of the slots of a core that a test picks, counting each in STREAM_CANCELS (R256,
R260). -/
def State.advanceSlots (s : State) (c : Nat) (p : Slot → Bool) : State :=
  (List.range 4).foldl (fun st i =>
    let x := (st.core c).slot i
    if p x then (st.setCore c ((st.core c).setSlot i x.advance)).bump 0x04 c 1 1 else st) s

/-- Changes a core. -/
def State.modCore (s : State) (c : Nat) (f : Core → Core) : State := s.setCore c (f (s.core c))

/-- A core stopped at an instruction boundary with its units' work dropped (R93, R505); its registers stay, and the generation of
every slot advances (R256). -/
def State.stopCore (s : State) (c : Nat) : State :=
  let s1 := s.advanceSlots c fun _ => true
  s1.modCore c fun k => { k with running := false, mq := [], tgq := [], sq := [], groups := [], exited := [], stall := 0 }

/-- The physical cores that belong to a run's launch. -/
def State.coresOf (s : State) (run : Nat) : List Nat := (s.cores.filter fun e => e.2.run == run + 1).map (·.1)

/-- The cores that stand in as proxies of a thin-path run (R308). -/
def State.proxyCores (s : State) (r : Run) : List Nat :=
  match s.phase r.phase with
  | some ph => if r.thin then ph.proxies.filterMap fun v => v.bind s.placed else []
  | none => []

/-- The sequence that a stack runs for a run ends: each engine finishes its current step, and the rest is dropped (R324). Poison met
there counts as an ECC cause of a run that a trap stops (R94, R323). -/
def State.dropSeq (s : State) (run st : Nat) : State :=
  match (s.nb st).cur with
  | some k =>
    if k.run = run then
      let r := s.nbFinish st
      (if r.2 then r.1.modRun run fun x => { x with status := x.status.map fun o => mergeStatus (some o) stEcc } else r.1).setNb st
        (r.1.nb st).clear
    else s
  | none => s

/-- Near-bank work of a run ends at the current step, and its queued kicks are dropped (R324). -/
def State.stopNb (s : State) (run : Nat) : State :=
  let s1 := (List.range 16).foldl (fun a st => a.dropSeq run st) s
  match s.run run with
  | some r => (s.proxyCores r).foldl (fun st c => st.modCore c fun k => { k with rxq := [], overflow := [], spill := [] }) s1
  | none => s1

/-- NB_STATUS of a stack follows its sequencer (R328). -/
def State.nbIdle (s : State) (st : Nat) : State :=
  if (s.nb st).cur = none ∧ s.cfld (offNb st) 0 3 = 2 then s.setCfld (offNb st) 0 3 1 else s

/-- Stops every core of a run and its near-bank work; the run then waits for its completion (R93, R389). -/
def State.stopRun (s : State) (run status : Nat) : State :=
  let s1 := (s.coresOf run).foldl (fun st c => st.stopCore c) s
  let s2 := (List.range 16).foldl (fun st i => st.nbIdle i) (s1.stopNb run)
  s2.modRun run fun r => { r with st := .stopped, status := some (r.status.getD status) }

/-- Run status of an abort before HELD (R277, R390). -/
def abortStatus (cause : Nat) : Nat :=
  if 3 ≤ cause ∧ cause ≤ 6 then stNoResource else if cause = 8 then stReset
  else if cause = 0x0B then stTimeout else stAborted

/-- Slot status of an abort at HELD (R277). -/
def heldStatus (cause : Nat) : Nat :=
  if cause = 8 then stReset else if cause = 0x0A then stTimeout else stAborted

/-- The abort of one group's epoch begins (R267, R268): only an OPEN or HELD epoch aborts. -/
def State.abortOne (s : State) (g cause : Nat) : State :=
  let x := s.group g
  if x.st = .open_ ∨ x.st = .held then s.setGroup g { x with st := .aborting, cause := cause } else s

/-- The abort of a group's epoch begins; the groups of one RUN_SPECULATIVE abort together and stop its run
(R276, R277, R283). -/
def State.abortGroup (s : State) (g cause : Nat) : State :=
  let x := s.group g
  if x.st = .open_ ∨ x.st = .held then
    if x.run = 0 then s.abortOne g cause
    else
      let s1 := (List.range 32).foldl (fun st i => if (st.group i).run = x.run then st.abortOne i cause else st) s
      match s1.run (x.run - 1) with
      | some r =>
        let s2 := s1.modRun r.id fun y => { y with abortCause := cause }
        if r.st = .running then s2.stopRun r.id (abortStatus cause) else s2
      | none => s1
  else s

/-- Every OPEN or HELD epoch of a run's cores aborts (R276, R279).
[DEDUCED, log entry 16: unsafe] -/
def State.abortEpochs (s : State) (run cause : Nat) : State :=
  ((s.coresOf run).map fun c => (s.core c).epoch).eraseDups.foldl (fun (st : State) (key : Nat) =>
    if key ≠ 0 ∧ st.provisional key then st.abortGroup (keyGroup key) cause else st) s

/-- SPEC_EPOCH of a core that leaves its epoch, with a final state and cause (R266). -/
def specWord (x : SpecGroup) (g st cause : Nat) : W64 :=
  w64 (x.epoch.toNat * 2 ^ 48 + cause * 2 ^ 40 + x.first * 2 ^ 24 + x.countM1 * 2 ^ 16 + g % 4 * 2 ^ 12 +
       (if x.run = 0 then 0 else 0x100) + st)

/-- SPEC_EPOCH as a core reads it (R266): its epoch as it stands while joined, else the word kept. -/
def State.specEpoch (s : State) (k : Core) : W64 :=
  if k.joining then setFld (k.csrReg 0x030) 0 3 6
  else if k.epoch = 0 then k.csrReg 0x030
  else
    let g := keyGroup k.epoch
    specWord (s.group g) g (epCode (s.epState k.epoch)) (s.group g).cause

/-- Bytes of a core's scratchpad (space 1) or own sill region (space 2). -/
def State.localBytes (s : State) (space c off n : Nat) : List Byte :=
  if space = 1 then rdBytes (s.core c).spad off n
  else rdBytes (s.bay (clusterOf c)).own (s.member c * 0x60000 + off) n

/-- Lines of a space with written bytes put in where they hold them (R84, R254). -/
def putLines (ls : List L1Line) (space addr : Nat) (bs : List Byte) : List L1Line :=
  ls.map fun x =>
    if x.space = space then
      { x with data := (List.range 128).foldl (fun d i =>
          let a := x.line * 128 + i
          if addr ≤ a ∧ a < addr + bs.length then nset 0 d i (bs.getD (a - addr) 0) else d) x.data }
    else x

/-- Stores bytes in a core's scratchpad or own sill region; written words are good again (R497), and narrow writes of the bay's SRAM
are counted (R208). A line of the region that the core's first-level cache holds follows a write of any core (R84, R182).
[DEDUCED, log entry 155: unsafe] -/
def State.localStore (s : State) (space c off : Nat) (bs : List Byte) : State :=
  let n := bs.length
  if space = 1 then s.modCore c fun k => { k with
    spad := wrBytes k.spad off bs
    spadBad := k.spadBad.filter fun w => decide (8 * w < off) || decide (off + n < 8 * w + 8) }
  else
    let b := clusterOf c
    let a := s.member c * 0x60000 + off
    let x := s.bay b
    ((s.setBay b { x with
      own := wrBytes x.own a bs
      ownBad := x.ownBad.filter fun w => decide (8 * w < a) || decide (a + n < 8 * w + 8) }).bump 0x10 b 5 (narrowWords a n)).modCore c
        fun k => { k with l1 := putLines k.l1 2 off bs }

/-- Whether a range of a core's local memory holds an uncorrectable word (R497). -/
def State.localBad (s : State) (space c off n : Nat) : Bool :=
  if space = 1 then (s.core c).spadBad.any fun w => decide (8 * w < off + n) && decide (off < 8 * w + 8)
  else
    let a := s.member c * 0x60000 + off
    (s.bay (clusterOf c)).ownBad.any fun w => decide (8 * w < a + n) && decide (a < 8 * w + 8)

/-- Bytes with the part of another range laid over them: the range from b0 replaces what it shares with the range
from a0. -/
def overlay (a0 : Nat) (base : List Byte) (b0 : Nat) (top : List Byte) : List Byte :=
  (List.range base.length).map fun i =>
    if b0 ≤ a0 + i ∧ a0 + i < b0 + top.length then top.getD (a0 + i - b0) 0 else base.getD i 0

/-- A core's local memory as a requester sees it: a requester not joined to the owner's epoch sees journaled
granules as the journal holds them (R272). -/
def State.localRead (s : State) (reader space c off n : Nat) : List Byte :=
  let k := s.core c
  let raw := s.localBytes space c off n
  if k.epoch ≠ 0 ∧ (s.core reader).epoch = k.epoch then raw
  else (k.journal.filter (·.space == space)).foldl (fun bs j => overlay off bs (j.granule * 512) j.old) raw

/-- The granules of a write that are not yet journaled. -/
def newGranules (k : Core) (space off n : Nat) : List Nat :=
  ((blocksOf 512 off n).map (· / 512)).filter fun g => !k.journal.any fun j => j.space == space && j.granule == g

/-- The class of a request that no rule gives one: it takes no way that a class's minimum protects (R228).
[DESIGN CHOICE, log entry 166: unsafe] -/
def noClass : Nat := 8

/-- A held output of a core joined to an OPEN epoch (R271), which takes a way of its bay; the 33rd fails the epoch with HOLD_FULL, one
that finds no way with WAY_CAP. -/
def State.holdOut (s : State) (c : Nat) (o : HeldOut) : State :=
  let k := s.core c
  let g := keyGroup k.epoch
  if 32 ≤ k.held.length then s.abortGroup g 5
  else
    let r := s.takeWay (clusterOf c) c 2 k.held.length noClass
    if r.2 then (r.1.modCore c fun x => { x with held := x.held ++ [o] }).spec (g / 4) spHeld 1
    else (s.drew.abortGroup g 3).spec (g / 4) spDiscarded 1

/-- The lines that a journaled granule takes (R270): 512 bytes. -/
def journalLines (space granule : Nat) : List Nat := (List.range 4).map fun i => (granule * 4 + i) * 4 + space

/-- Copies granules into a core's journal, each taking its lines of the bay (R270); the flag says whether there was room. -/
def State.journalTake (s : State) (c space : Nat) (granules : List Nat) : State × Bool :=
  let r := s.takeWays (clusterOf c) c 1 noClass (granules.flatMap (journalLines space))
  if r.2 then
    let base := if space = 1 then 0 else s.member c * 0x60000
    let words := if space = 1 then (s.core c).spadBad else (s.bay (clusterOf c)).ownBad
    let js : List Journal := granules.map fun g =>
      { space := space, granule := g, old := s.localBytes space c (g * 512) 512,
        bad := words.filter fun w => decide (base + g * 512 ≤ 8 * w) && decide (8 * w < base + g * 512 + 512) }
    (r.1.modCore c fun x => { x with journal := x.journal ++ js }, true)
  else ((s.giveWays c 1 fun i => granules.any fun g => (journalLines space g).contains i), false)

/-- A journaled granule goes back in place, with the words of it that held uncorrectable data (R275, R497). -/
def State.journalBack (s : State) (c : Nat) (j : Journal) : State :=
  let s1 := s.localStore j.space c (j.granule * 512) j.old
  if j.bad.isEmpty then s1
  else if j.space = 1 then s1.modCore c fun k => { k with spadBad := k.spadBad ++ j.bad }
  else let n := clusterOf c; s1.setBay n { s1.bay n with ownBad := (s1.bay n).ownBad ++ j.bad }

/-- An ordinary write that lands in a journaled granule goes into the journal's copy as well (R270). -/
def Journal.written (j : Journal) (base space off : Nat) (bs : List Byte) : Journal :=
  if j.space = space then
    { j with old := overlay (j.granule * 512) j.old off bs,
             bad := j.bad.filter fun w => decide (8 * w < base + off) || decide (base + off + bs.length < 8 * w + 8) }
  else j

/-- A write into a core's scratchpad or own sill region, made by a core that carries an epoch's key (R265, R270,
R271). -/
def State.localWrite (s : State) (writer key space c off : Nat) (bs : List Byte) : State :=
  let k := s.core c
  if key ≠ 0 ∧ s.provisional key then
    if k.epoch = key then
      let new := newGranules k space off bs.length
      if 128 < k.journal.length + new.length then (s.abortGroup (keyGroup key) 4).spec (keyGroup key / 4) spDiscarded 1
      else
        let r := s.journalTake c space new
        if r.2 then (r.1.spec (keyGroup key / 4) spJournal new.length).localStore space c off bs
        else (r.1.abortGroup (keyGroup key) 3).spec (keyGroup key / 4) spDiscarded 1
    else s.holdOut writer (if space = 1 then .spad c off bs else .region c off bs)
  else if s.ordinary key then
    let base := if space = 1 then 0 else s.member c * 0x60000
    (s.localStore space c off bs).modCore c fun x => { x with journal := x.journal.map fun j => j.written base space off bs }
  else s.spec (keyGroup key / 4) spDiscarded 1

/-- The provisional bytes a core reads over a device range: those its own bay holds for its epoch (R269). -/
def State.provOver (s : State) (c off : Nat) (bs : List Byte) : List Byte :=
  let k := s.core c
  if k.epoch = 0 then bs
  else ((s.bay (clusterOf c)).prov.filter (·.epoch == k.epoch)).foldl (fun acc l =>
    (List.range acc.length).map fun i =>
      match nget none l.bytes (off + i) with
      | some b => b
      | none => acc.getD i 0) bs

/-- Which bytes of a device range provOver replaces: 255 marks one. -/
def State.provCover (s : State) (c off n : Nat) : List Byte :=
  let k := s.core c
  if k.epoch = 0 then List.replicate n 0
  else
    let ls := (s.bay (clusterOf c)).prov.filter (·.epoch == k.epoch)
    (List.range n).map fun i => if ls.any fun l => (nget none l.bytes (off + i)).isSome then 255 else 0

/-- The part of a provisional device write that lies in one line (R269): it joins its line, or takes a way under
the cap of R230, or fails the epoch with WAY_CAP. -/
def State.provLine (s : State) (c key off : Nat) (bs : List Byte) (cls : Nat) : State :=
  let n := clusterOf c
  let ln := lineOf off
  let put (m : NMap (Option Byte)) : NMap (Option Byte) :=
    (List.range bs.length).foldl (fun acc i => nset none acc (off + i) (some (bs.getD i 0))) m
  let b := s.bay n
  if b.prov.any fun l => l.epoch == key && l.line == ln then
    let pv := updFirst (fun l => l.epoch == key && l.line == ln) (fun l => { l with bytes := put l.bytes }) b.prov
    s.setBay n { b with prov := pv }
  else if 12 ≤ s.capUsed n ln then (s.abortGroup (keyGroup key) 3).spec (keyGroup key / 4) spDiscarded 1
  else
    match s.victim n ln cls false with
    | none => (s.abortGroup (keyGroup key) 3).spec (keyGroup key / 4) spDiscarded 1
    | some v =>
      let s1 := s.makeRoom n v
      let b1 := s1.bay n
      (s1.setBay n { b1 with prov := b1.prov ++ [{ epoch := key, line := ln, bytes := put [], cls := cls }] }).spec
        (keyGroup key / 4) spProvLines 1

/-- A provisional device write (R269). -/
def State.provWrite (s : State) (c key off : Nat) (bs : List Byte) (cls : Nat) : State :=
  (blocksOf 128 off bs.length).foldl (fun st b =>
    let x := partIn b 128 off bs
    if st.provisional key then st.provLine c key x.1 x.2 cls else st) s

/-- A core with its message queues changed alike. -/
def Core.onQueues (k : Core) (f : List Msg → List Msg) : Core :=
  { k with send := f k.send, rxq := f k.rxq, overflow := f k.overflow, spill := f k.spill }

/-- Bytes a message takes (R87, R90). -/
def msgBytes (m : Msg) : Nat := 16 + m.payload.length

/-- The lines of its overflow ring that a core's messages lie in (R207): the ring is 64 KiB of 128-byte lines. -/
def Core.ringLines (k : Core) : List Nat :=
  ((blocksOf 128 k.ringHead ((k.overflow.map msgBytes).sum)).map fun a => a / 128 % 512).eraseDups

/-- A bay keeps the lines of a core's ring in which messages lie, and takes the others back (R207). -/
def State.syncRing (s : State) (c : Nat) : State :=
  let ls := (s.core c).ringLines
  s.giveWays c 0 fun i => !ls.contains i

/-- The same for every core. -/
def State.syncRings (s : State) : State := s.cores.foldl (fun st e => st.syncRing e.1) s

/-- Removes the provisional messages of an epoch from every queue and network (R275 step 3). -/
def State.dropProvMsgs (s : State) (key : Nat) : State :=
  let f (l : List Msg) : List Msg := l.filter (·.prov != key)
  { s with net := f s.net, cores := s.cores.map fun (e : Nat × Core) => (e.1, e.2.onQueues f) }

/-- One joined core's part of an abort (R275). -/
def State.abortCore (s : State) (g key c : Nat) : State :=
  let k0 := s.core c
  let lp := g / 4
  let s0 := ((k0.journal.foldl (fun st j => st.journalBack c j) s).giveWays c 1 fun _ => true).giveWays c 2 fun _ => true
  let s2 := (s0.spec lp spRestored k0.journal.length).spec lp spHeldDiscarded
    (k0.held.length + (k0.retained.filter (·.prov != 0)).length)
  let s3 := s2.advanceSlots c fun x =>
    (x.running.any (·.epoch == key)) || (x.pending.any (·.epoch == key))
  let x := s3.group g
  s3.modCore c fun k => { k with
    mq := k.mq.filter (·.epoch != key), tgq := k.tgq.filter (·.epoch != key), sq := k.sq.filter (·.2.epoch != key),
    groups := k.groups.filter fun e => e.2.epoch != key,
    journal := [], held := [], deads := [], rxq := k.retained.filter (·.prov == 0) ++ k.rxq, retained := [], l1 := [],
    epoch := 0, joining := false, stall := 0,
    pc := if k.running then k.handler else k.pc,
    csr := nset 0 k.csr 0x030 (specWord x g 5 x.cause) }

/-- The messages among held outputs. -/
def heldMsgs (l : List HeldOut) : List Msg :=
  l.filterMap fun o => match o with
    | .msg m => some m
    | _ => none

/-- A message put into a send buffer by its place among what its core issued (R42). -/
def putMsg (m : Msg) : List Msg → List Msg
  | [] => [m]
  | x :: r => if m.after < x.after then m :: x :: r else x :: putMsg m r

/-- A core's part of a confirmation (R274): its journal and retained messages go, its held writes are applied, and its
held messages take their places in its send buffer, behind every store it made so far. -/
def State.confirmCore (s : State) (c : Nat) : State :=
  let k0 := s.core c
  let s1 := ((s.giveWays c 1 fun _ => true).giveWays c 2 fun _ => true).modCore c fun k => { k with
    journal := [], retained := [], held := [], deads := [],
    send := (heldMsgs k.held).foldl (fun q m => putMsg { m with prov := 0, wait := k.seq } q) k.send }
  k0.held.foldl (fun st o =>
    match o with
    | .msg _ => st
    | .spad d off bs => st.localWrite c 0 1 d off bs
    | .region d off bs => st.localWrite c 0 2 d off bs) s1

/-- The joined cores of an epoch. -/
def State.joined (s : State) (key : Nat) : List Nat := (s.cores.filter fun e => e.2.epoch == key).map (·.1)

/-- A group returns to IDLE once no core is joined; that of a RUN_SPECULATIVE at once (R267). -/
def State.groupSettle (s : State) (g : Nat) : State :=
  let x := s.group g
  if (x.st = .confirmed ∨ x.st = .aborted) ∧ s.joined (epKey g x.epoch.toNat) = [] then
    s.setGroup g { x with st := .idle }
  else s

/-- The deferred end of a RUN_SPECULATIVE whose epochs have all aborted at HELD: its slot becomes READY with LENGTH
0 (R277, R367). -/
def State.endHeld (s : State) (run cause : Nat) : State :=
  match s.run run with
  | some r =>
    if r.st = .held then
      let s1 := s.modRun run fun y => { y with st := .ended, abortCause := cause }
      match s1.cmd r.cmd with
      | some c =>
        let s2 := if c.tookSlot then s1.slotReady c.fn c.slotIx (heldStatus cause) [] else s1
        s2.dropCmd c.id
      | none => s1
    else s
  | none => s

/-- The abort of a group's epoch completes (R275, R267). -/
def State.abortDone (s : State) (g : Nat) : State :=
  let x := s.group g
  if x.st ≠ .aborting then s
  else
    let key := epKey g x.epoch.toNat
    let n := (s.net.filter (·.prov == key)).length + (s.cores.foldl (fun acc e => acc +
      ((e.2.send ++ e.2.rxq ++ e.2.overflow ++ e.2.spill).filter (·.prov == key)).length) 0)
    let s1 := (s.dropProvMsgs key).spec (g / 4) spHeldDiscarded n
    let s2 := ((s1.joined key).foldl (fun st c => st.abortCore g key c) s1).syncRings
    let s3 := { s2 with bays := s2.bays.map fun (e : Nat × Bay) => (e.1, { e.2 with prov := e.2.prov.filter (·.epoch != key) }) }
    let s4 := (s3.setGroup g { x with st := .aborted }).spec (g / 4) (spAborted + x.cause) 1
    let s5 := s4.groupSettle g
    if x.run = 0 then s5
    else if (List.range 32).any fun i => (s5.group i).run == x.run && decide ((s5.group i).st = .aborting) then s5
    else s5.endHeld (x.run - 1) x.cause

/-- The CH.DEAD hint at the home bays of a range (R233): present, unpinned lines that the function may write go
without write-back. A dropped dirty line leaves its last value or HBM's, an open choice (R234).
[DESIGN CHOICE, log entry 37: safe] -/
def State.deadLines (s : State) (off len : Nat) (mayWrite : Nat → Bool) : State :=
  (blocksOf 128 off len).foldl (fun st ln =>
    let h := st.homeBay ln
    if !st.backed ln then st.logEv 17 ln else
    match (st.bay h).find ln with
    | some l =>
      if st.pinned h ln || !mayWrite ln || (st.bay h).miss.any (fun m => m.line == ln) || l.acks != 0
         || (st.bay h).prov.any (fun p => p.line == ln)
      then st.sill h sillDeadIgnored 1
      else
        let st1 := if l.dirty then st.sill h sillDeadDrops 1 else st
        let st2 := if l.dirty && st1.draw % 2 == 1 then (st1.drew.writeBack h l).unmark h l
                   else if l.dirty then (st1.drew).unmark h l else st1.unmark h l
        let st3 := if l.dirty && st1.draw % 2 == 0
          then { st2 with mem := l.stale.foldl (fun m e => nset 0 m e.1 e.2) st2.mem } else st2
        (st3.setBay h ((st3.bay h).drop ln)).dropCopiesOf ln fun _ => true
    | none => st.sill h sillDeadIgnored 1) s

/-- The confirmed epoch of a RUN_SPECULATIVE gives way to IDLE at once (R267): its cores keep the word of R266 and
their later writes are ordinary. -/
def State.runEpochEnd (s : State) (g key : Nat) : State :=
  let x := s.group g
  let leave (k : Core) : Core :=
    { k with epoch := 0, csr := nset 0 k.csr 0x030 (specWord x g 3 0),
             stores := k.stores.map fun (w : Store) => if w.epoch = key then { w with epoch := 0 } else w }
  let s1 := (s.joined key).foldl (fun st c => st.modCore c leave) s
  s1.setGroup g { x with st := .idle, run := 0 }

/-- The written bytes of a provisional line as runs of neighbours. -/
def ProvLine.runs (l : ProvLine) : List (Nat × List Byte) :=
  l.bytes.foldr (fun e acc => match e.2, acc with
    | none, _ => acc
    | some b, [] => [(e.1, [b])]
    | some b, (o, bs) :: r => if o = e.1 + 1 then (e.1, b :: bs) :: r else (e.1, [b]) :: (o, bs) :: r) []

/-- Whether a miss entry is open at the home bay of a line that a range touches (R227). -/
def State.fillPending (s : State) (off n : Nat) : Bool :=
  (blocksOf 128 off n).any fun ln => ((s.bay (s.homeBay ln)).missOf ln).isSome

/-- The first step of a confirmation for one provisional line (R274): its bytes go to the line's home bay as one write, or to the owner
of a line of another module; what must be invalidated first counts as a write of the cluster's joined cores not yet visible. -/
def State.applyProv (s : State) (g owner bay : Nat) (cs : List Nat) (l : ProvLine) : State :=
  let s1 := s.spec (g / 4) spProvApplied 1
  if 2 ^ 56 ≤ l.line then s1
  else
    let r := (l.runs.foldl (fun st x => st.noteWrite owner x.1 x.2) s1).lineRuns l.line l.runs l.cls (some bay)
    if r.2 then
      { r.1 with vis := r.1.vis ++ (cs.filter fun c => clusterOf c == bay).map fun c =>
          { bay := r.1.homeBay l.line, line := l.line, core := c, seq := (r.1.core c).seq - 1 } }
    else r.1

/-- The groups of a speculative run. -/
def State.groupsOf (s : State) (run : Nat) : List Nat :=
  (List.range 32).filter fun g => (s.group g).run == run + 1

/-- Whether an epoch of a run is CONFIRMING, which first completes (R268, R279). -/
def State.confirmingOf (s : State) (run : Nat) : Bool :=
  (s.coresOf run).any (fun c => decide (s.epState (s.core c).epoch = .confirming)) ||
  (s.groupsOf run).any fun g => decide ((s.group g).st = .confirming)

/-- Every epoch of a run aborts (R276, R279).
[DEDUCED, log entry 46: unsafe] -/
def State.abortRun (s : State) (run cause : Nat) : State :=
  (s.groupsOf run).foldl (fun (st : State) (g : Nat) => st.abortGroup g cause) (s.abortEpochs run cause)

/-- The status of a run that a cause of R276 stops (R279, R389, R505). -/
def dueStatus (cause : Nat) : Nat := if cause = 0x0B then stTimeout else if cause = 8 then stReset else stAborted

/-- Stops that waited for a confirmation take effect on their runs (R268, R279). -/
def State.stopDue (s : State) : State :=
  s.runs.foldl (fun st r =>
    if r.due = 0 ∨ st.confirmingOf r.id then st
    else
      let s1 := st.modRun r.id fun y => { y with due := 0 }
      if r.st = .running then (s1.abortRun r.id r.due).stopRun r.id (dueStatus r.due) else s1) s

/-- The confirmation of a group's epoch goes on (R227, R274): its lines are applied, none while a miss entry is open for one of them;
the other steps follow once every one of those writes is visible. -/
def State.confirmDone (s : State) (g : Nat) (mayWrite : Nat → Nat → Bool) : State :=
  let x := s.group g
  let key := epKey g x.epoch.toNat
  let lines := s.bays.flatMap fun e => (e.2.prov.filter (·.epoch == key)).map fun l => (e.1, l)
  let js := s.joined key
  if x.st ≠ .confirming then s
  else if lines.any fun l => decide (l.2.line < 2 ^ 56) && s.fillPending l.2.line 128 then s
  else
    let owner := ownerRun ((s.core (js.headD 0)).run - 1)
    let s1 := { s with bays := s.bays.map fun (e : Nat × Bay) => (e.1, { e.2 with prov := e.2.prov.filter (·.epoch != key) }) }
    let s2 := lines.foldl (fun st l => st.applyProv g owner l.1 js l.2) s1
    if s2.vis.any fun v => js.contains v.core then s2
    else
      let dead := js.flatMap fun c => (s.core c).deads
      let s3 := js.foldl (fun st c => st.confirmCore c) s2
      let f (l : List Msg) : List Msg := l.map fun m => if m.prov = key then { m with prov := 0 } else m
      let s4 := { s3 with net := f s3.net, cores := s3.cores.map fun (e : Nat × Core) => (e.1, e.2.onQueues f) }
      let s5 := dead.foldl (fun st d => if d.1 / 2 ^ 44 = st.moduleId then st.deadLines (d.1 % 2 ^ 44) d.2.1 (mayWrite d.2.2) else st) s4
      let s6 := (s5.setGroup g { x with st := .confirmed }).spec (g / 4) spConfirmed 1
      (if x.run = 0 then s6.groupSettle g else s6.runEpochEnd g key).stopDue

/-! ### Core reset and traps -/

/-- A generation that reaches a multiple of 512 zeroes the scratchpads of the core's whole cluster at their next launch
(R503). -/
def State.wipeDue (s : State) (c : Nat) : State :=
  if (s.coreGen c).toNat % 512 = 0 then
    (List.range 17).foldl (fun (st : State) (i : Nat) => st.modCore (clusterOf c * 17 + i) fun k => { k with wipe := true }) s
  else s

/-- The core reset of R504: registers to the values of R95, queues, stream slots, thread groups and the send buffer
emptied, the generation advanced; the local array, the held messages and the bay stay.
[DEDUCED, log entry 17: unsafe] -/
def State.coreReset (s : State) (c : Nat) : State :=
  State.wipeDue (c := c) <|
  let s1 := s.advanceSlots c fun _ => true
  s1.modCore c fun k => { k with
    running := false, done := false, pc := 0, s := [], p := [], v := [], acc := [], csr := [], td := [], l1 := [],
    icache := [], tsets := [], send := [], mq := [], tgq := [], sq := [], groups := [], exited := [],
    slots := k.slots.map (fun (e : Nat × Slot) => (e.1, { gen := e.2.gen : Slot })),
    gen := k.gen + 1, stall := 0, joining := false, withheld := false }

/-- The speculation groups whose range holds a core's logical cluster. -/
def State.groupsHolding (s : State) (c : Nat) : List Nat :=
  let k := s.core c
  if k.vcore = 0 then []
  else
    let j := (k.vcore - 1) / 2560
    let lc := (k.vcore - 1) / 16 % 160
    ((List.range 4).map (4 * j + ·)).filter fun g => decide ((s.group g).first ≤ lc) && decide (lc ≤ (s.group g).first + (s.group g).countM1)

/-- Whether an epoch that reaches one of the cores is CONFIRMING: the reset waits for it (R283). -/
def State.resetWaits (s : State) (cs : List Nat) : Bool :=
  (cs.flatMap s.groupsHolding).any fun g => decide ((s.group g).st = .confirming)

/-- The core reset after a trap: it waits while an epoch that reaches the core is CONFIRMING, and the core meanwhile stands stopped
(R268, R283). -/
def State.resetSoon (s : State) (c : Nat) : State :=
  if s.resetWaits [c] then { s.stopCore c with dues := s.dues ++ [.core c] } else s.coreReset c

/-- A record of a partition controller's trap log: its last 64 traps (R514).
[DEDUCED, log entry 120: unsafe] -/
def Part.logTrap (p : Part) (t : TrapRec) : Part := { p with trapLog := (p.trapLog ++ [t]).drop (p.trapLog.length + 1 - 64) }

/-- A trap of a core at program counter pc (R93, R94, R505): the partition controller logs it, the core's epoch and those of its run
abort, and the core is reset. No other core of the run issues another instruction; the run is stopped when it completes, and until
then a unit of another core may trap as well.
[DESIGN CHOICE, log entry 154: safe] -/
def State.trapAt (s : State) (c pc cause addr status : Nat) : State :=
  let k := s.core c
  let tag := BitVec.ofNat 16 (fld (k.csrReg 0x002) 0 16)
  let rec_ : TrapRec := { vcore := k.vc, pcore := c, cause := cause, fn := k.fnOf, tag := tag, pc := w64 pc,
                          addr := w64 addr, uptime := s.mc.uptime }
  let s1 := s.setPart (partOf c) ((s.part (partOf c)).logTrap rec_)
  let s2 := s1.modRun (k.run - 1) fun r =>
    if k.run = 0 ∨ r.st ≠ .running then r
    else if r.status.isNone then { r with trap := cause, trapVcore := k.vc, status := some status }
    else { r with status := some (mergeStatus r.status status) }
  let s3 := if k.epoch = 0 then s2 else s2.abortGroup (keyGroup k.epoch) 7
  let s4 := if k.run = 0 then s3 else s3.abortEpochs (k.run - 1) 7
  s4.resetSoon c

/-- A trap of the instruction at the core's program counter. -/
def State.trap (s : State) (c cause addr : Nat) : State := s.trapAt c (s.core c).pc cause addr (trapStatus cause)

/-- A trap with a completion status of its own: an ECC cause of R94 or a closed door (R499). -/
def State.trapAs (s : State) (c cause addr status : Nat) : State := s.trapAt c (s.core c).pc cause addr status

/-! ### Units by KIND and NUMBER (R381) -/

/-- The physical partition of a unit; 8 for a unit of the module. -/
def unitPart (kind number : Nat) : Nat :=
  match kind with
  | 1 => partOf number
  | 2 => partOfCluster number
  | 3 => partOfCluster number
  | 4 => partOfCluster ((clustersOfRegion number).headD 0)
  | 5 => partOf number
  | 6 => number / 64
  | 7 => number / 2
  | 8 => number / 2
  | _ => 8

/-- A cluster's clock runs again (R472). -/
def State.ungate (s : State) (c : Nat) : State := { s with mc := { s.mc with gated := nset false s.mc.gated (clusterOf c) false } }

end Sys2Proof.Machine
end

