-- ==== Sys2Proof/Machine/MemOps.lean ====
section
/-! DEFINITION. A core's accesses to memory: address spaces and bounds (R81, R179), the region fence (R61), the
first-level cache (R84), the order against stream starts and the matrix queue (R74, R244), loads and stores. -/

namespace Sys2Proof.Machine
open Sys2Proof

/-- Where an access lands: device memory of this module (offset), a remote module (device address), a scratchpad
or an own sill region (core and offset), or nowhere (R180). -/
inductive Loc where
  | dev (off : Nat)
  | remote (a : Nat)
  | spad (c off : Nat)
  | own (c off : Nat)
  | nowhere
deriving DecidableEq, Repr

/-- What an access answers: bytes and the next state; a trap with its run status and the state up to it; or a wait, which for a
sleeping partition names the partition to wake (R477). -/
inductive MemAns where
  | ok (bs : List Byte) (s : State)
  | trap (cause status : Nat) (s : State)
  | wait (wake : Option Nat)
deriving Repr

/-- End of the HBM range (R16). -/
def hbmEnd : Nat := 0x12000000000
/-- Start of tower 0's sill window (R16). -/
def sillWindow : Nat := 0x80000000000
/-- Used bytes of a sill window (R198). -/
def sillUsed : Nat := 0xFC000000

/-- The up state of a Seunon port (R434). -/
def portUp : Nat := 2

/-- Whether a module id can be reached: a peer of an up port, or routed to one (R428). -/
def State.reachable (s : State) (m : Nat) : Bool :=
  (List.range 16).any fun i =>
    (s.cfld (offPort i) 0 3 == portUp || s.cfld (offPort i) 0 3 == portUp + 1) &&
    (s.cfld (offPort i) 32 12 == m || (s.cfld (offRoute m) 16 1 == 1 && bitsN (s.cfld (offRoute m) 0 16) i 1 == 1))

/-- The core and bank offset that a sill window offset names (R198), for a bank that is attached to a slot. -/
def State.windowOwner (s : State) (off : Nat) : Nat × Nat :=
  let t := (off - sillWindow) / 0x100000000
  let r := (off - sillWindow) % 0x100000000
  let n := 672 * t + r / 0x600000
  (s.memberCore n (r % 0x600000 / 0x60000), r % 0x60000)

/-- A tensor of the committed image that holds a range: its kind (R55, R82). -/
def State.tensorAt (s : State) (off n : Nat) : Option Tensor :=
  match s.img.image with
  | none => none
  | some im => im.tensors.find? fun t => t.kind != 1 && t.location != 3 && t.base ≤ off && off + n ≤ t.base + t.bytes

/-- A region's bytes (R64). -/
def Region.size (r : Region) : Nat := fld r.attr 0 32 * 65536

/-- Whether a region entry is READY for a command taken with identifier id (R65): a release pending keeps it for
what was taken before. -/
def Region.ready (r : Region) (id : Nat) : Bool :=
  fld r.attr 56 2 == 2 && (fld r.attr 63 1 == 1 || id < r.rel)

/-- The region fence (R61): a range lies inside a READY region of f with the permission. -/
def State.fence (s : State) (f id off n : Nat) (write : Bool) : Bool :=
  (List.range 64).any fun i =>
    let r := s.region f i
    r.ready id && (if write then fld r.attr 62 1 == 1 else fld r.attr 61 1 == 1) &&
    r.base ≤ off && off + n ≤ r.base + r.size

/-- The identifier of the command that a core's launch belongs to (R65). -/
def State.cmdOf (s : State) (k : Core) : Nat :=
  match s.run (k.run - 1) with
  | some r => r.cmd
  | none => 0

/-- Whether a core may read or write a range of device memory: the fence, the WORKING tensors of its own function's runs, and
WEIGHT tensors for reads (R56, R57, R61). -/
def State.devMay (s : State) (k : Core) (off n : Nat) (write : Bool) : Bool :=
  s.fence k.fnOf (s.cmdOf k) off n write ||
  (match s.tensorAt off n with
   | some t => if t.kind = 0 then !write else nget 0 s.img.workFn t.id == k.fnOf + 1
   | none => false)

/-- Whether a range lies in the bound range of one of the core's descriptors (R82). -/
def boundRange (k : Core) (a n : Nat) : Bool := k.td.any fun d => d.kind == 1 && d.base ≤ a && a + n ≤ d.base + d.bytes

/-- The offset of this module's device memory that an access of a run reaches: the new one of a forwarding entry made while the run
was in flight (R525). -/
def State.forwarded (s : State) (run off n : Nat) : Nat :=
  match s.mc.forwards.find? fun e => e.runs.contains run && decide (e.old ≤ off) && decide (off + n ≤ e.old + e.len) with
  | some e => off - e.old + e.new
  | none => off

/-- The same for a core, which holds its run plus one. -/
def State.fwd (s : State) (k : Core) (off n : Nat) : Nat := if k.run = 0 then off else s.forwarded (k.run - 1) off n

/-- The offset by which a core of a run in flight knows a byte that was moved (R525). -/
def State.unfwd (s : State) (k : Core) (off : Nat) : Nat :=
  match s.mc.forwards.find? fun e => k.run != 0 && e.runs.contains (k.run - 1) && decide (e.new ≤ off) && decide (off < e.new + e.len) with
  | some e => off - e.new + e.old
  | none => off

/-- Whether a core stands in as a proxy of a thin-path run, in which it carries no program (R308). -/
def State.standsIn (s : State) (o : Nat) : Bool :=
  match s.run ((s.core o).run - 1) with
  | some r => (s.proxyCores r).contains o
  | none => false

/-- Resolves a core address (R81, R179, R198); nothing where RANGE is raised. A scalar access that starts below
its bound and runs past it is left to the alignment check. -/
def State.resolve (s : State) (c addr n : Nat) (scalar : Bool) : Option Loc :=
  let k := s.core c
  let sp := addr / 2 ^ 60 % 16
  let within (off bound : Nat) : Bool := off < bound && (scalar || off + n ≤ bound)
  match sp with
  | 0 =>
    let a := addr % 2 ^ 60
    if 2 ^ 56 ≤ a then none
    else if a / 2 ^ 44 ≠ s.moduleId then
      (if s.reachable (a / 2 ^ 44) then some (.remote a) else none)
    else
      let off := a % 2 ^ 44
      let fo := s.fwd k off n
      if boundRange k a n then some (.dev fo)
      else if off + n ≤ hbmEnd then
        (if s.backed fo && s.backed (fo + n - 1) then some (.dev fo) else none)
      else if sillWindow ≤ off && off < sillWindow + 0x200000000 && (off - sillWindow) % 0x100000000 + n ≤ sillUsed then
        let (o, bo) := s.windowOwner off
        let ko := s.core o
        if ko.vcore ≠ 0 ∧ k.vcore ≠ 0 ∧ (ko.vcore - 1) / 2560 = (k.vcore - 1) / 2560 ∧ ko.launched ∧
           ko.lastFn = k.fnOf ∧ bo + n ≤ ko.privSize then some (.own o bo)
        else none
      else none
  | 1 =>
    if addr / 2 ^ 32 % 2 ^ 28 = 0 ∧ within (addr % 2 ^ 32) k.spadSize then some (.spad c (addr % 2 ^ 32)) else none
  | 2 =>
    if addr / 2 ^ 32 % 2 ^ 28 = 0 ∧ within (addr % 2 ^ 32) k.privSize then some (.own c (addr % 2 ^ 32)) else none
  | 3 =>
    if addr / 2 ^ 36 % 2 ^ 24 ≠ 0 then none
    else
      match s.placed (k.vc / 16 * 16 + addr / 2 ^ 32 % 16) with
      | none => some .nowhere
      | some o =>
        let ko := s.core o
        if ko.run ≠ k.run ∨ k.run = 0 ∨ (!ko.running && !ko.done) ∨ s.standsIn o then some .nowhere
        else if within (addr % 2 ^ 32) ko.spadSize then some (.spad o (addr % 2 ^ 32)) else none
  | _ => none

/-- An access to device space that R17 refuses is logged. -/
def State.noteRefused (s : State) (addr : Nat) : State := if addr / 2 ^ 60 % 16 = 0 then s.logEv 17 addr else s

/-! ### Order of accesses of one core (R74, R244) -/

/-- The footprint of a start (R244): space, first byte, bytes and whether it writes. -/
def State.footprint (s : State) (st : Start) : List (Nat × Int × Nat × Bool) :=
  match s.img.image with
  | none => []
  | some im =>
    match im.streams[st.prog]? with
    | none => []
    | some p => (p.windows.filter (·.valid)).map fun w =>
        let b := if w.base = 0 then st.a0 else if w.base = 1 then st.a1 else st.a2
        (w.space, (b.toNat % 2 ^ 60 : Nat) + w.lo, w.size, w.write)

/-- Whether two ranges share a granule of 512 bytes. -/
def sharesGranule (a : Int) (n : Nat) (b : Int) (m : Nat) : Bool :=
  decide (0 < n) && decide (0 < m) && decide (a / 512 ≤ (b + m - 1) / 512) && decide (b / 512 ≤ (a + n - 1) / 512)

/-- The starts of a core that have not ended: queued, running and pending (R242). -/
def Core.starts (k : Core) : List Start :=
  (k.slots.flatMap fun e => e.2.running.toList ++ e.2.pending.toList) ++ (k.sq.map (·.2)).filter fun st => decide (st.op = .start)

/-- Whether an access of the core to its own space must wait for a start (R244). -/
def State.startConflict (s : State) (starts : List Start) (space : Nat) (a : Int) (n : Nat) (write : Bool) : Bool :=
  starts.any fun st => (s.footprint st).any fun w =>
    w.1 == space && (write || w.2.2.2) && sharesGranule a n w.2.1 w.2.2.1

/-- The A bytes that a matrix instruction has still to read: offset and length for each row (R74, R127). -/
def MmaOp.reads (o : MmaOp) : List (Nat × Nat) :=
  (List.range o.m).map fun m =>
    ((o.aAddr + m * o.stride + rowBytes o.aFmt o.k0) % 2 ^ 32, rowBytes o.aFmt o.k - rowBytes o.aFmt o.k0)

/-- N of a matrix instruction (R140, R141). -/
def matN (f : FormA) : Nat := bitsN f.mod.toNat 5 5 + 1
/-- M of a matrix instruction (R140, R141). -/
def matM (f : FormA) : Nat := bitsN f.mod.toNat 0 4 + 1

/-- Row addresses of an accumulator move (R141). -/
def AccMove.rows (m : AccMove) : List Nat :=
  (List.range (matM m.f)).map fun r => (m.base.toNat + r * m.stride.toNat) % 2 ^ 64

/-- Bytes of a row of an accumulator move (R141). -/
def AccMove.rowLen (m : AccMove) : Nat := rowBytes m.f.type.toNat (matN m.f)

/-- The ranges of a local space that a queued matrix instruction has still to read or write, where an access to them must wait for
it (R74): a write waits for its reads, any access for its writes. -/
def MmaOp.holds (o : MmaOp) (space : Nat) (write : Bool) : List (Nat × Nat) :=
  match o.move with
  | none => if write && space == 1 then o.reads else []
  | some m =>
    if m.kind = 0 ∨ (m.kind = 1 ∧ write) then
      (m.rows.filter fun a => a / 2 ^ 60 == space).map fun a => (a % 2 ^ 32, m.rowLen)
    else []

/-- Whether an access to a local space must wait for the queued matrix instructions listed (R74). -/
def mqConflict (ops : List MmaOp) (space : Nat) (off : Int) (n : Nat) (write : Bool) : Bool :=
  ops.any fun o => (o.holds space write).any fun r => sharesGranule off n r.1 r.2

/-- Whether an access must wait under R74 or R244.
[DESIGN CHOICE, log entry 12: safe] -/
def State.mustWait (s : State) (c : Nat) (l : Loc) (n : Nat) (write : Bool) : Bool :=
  let k := s.core c
  match l with
  | .dev off => s.startConflict k.starts 0 (s.unfwd k off + s.moduleId * 2 ^ 44 : Nat) n write
  | .remote a => s.startConflict k.starts 0 a n write
  | .spad o off => o == c && (s.startConflict k.starts 1 off n write || mqConflict k.mq 1 off n write)
  | .own o off => o == c && (s.startConflict k.starts 2 off n write || mqConflict k.mq 2 off n write)
  | .nowhere => false

/-! ### First-level cache (R84) -/

/-- Sets of the first-level cache of a split (R83, R84). -/
def l1Sets (k : Core) : Nat := fld (k.csrReg 0x010) 0 3 * 32

/-- Whether the cache may hold a range of space 0x0: its tensor's descriptor has L1-cacheable set (R82, R84). -/
def l1Cacheable (k : Core) (a n : Nat) : Bool :=
  k.td.any fun d => bitsN d.flags 1 1 == 1 && d.base ≤ a && a + n ≤ d.base + d.bytes

/-- A read through the first-level cache: hits return the line as held; a miss fills the line from the bytes given (R84). The manual
does not say which of the 4 ways a fill replaces; the model replaces the least recently used.
[DESIGN CHOICE, log entry 139: unsafe] -/
def l1Read (k : Core) (space addr : Nat) (bs : List Byte) (fill : Nat → Option (List Byte)) : List Byte × Core :=
  let sets := l1Sets k
  if sets = 0 then (bs, k)
  else (blocksOf 128 addr bs.length).foldl (fun acc b =>
    let ln := b / 128
    match acc.2.l1.find? fun x => x.space == space && x.line == ln with
    | some x =>
      (overlay addr acc.1 (max addr b) ((List.range 128).filterMap fun i =>
          if addr ≤ b + i then some (nget 0 x.data i) else none),
       { acc.2 with l1 := (acc.2.l1.filter fun y => !(y.space == space && y.line == ln)) ++ [x] })
    | none =>
      match fill b with
      | none => acc
      | some bytes =>
        let mine := acc.2.l1.filter fun y => y.line % sets == ln % sets
        let kept := if mine.length < 4 then acc.2.l1 else
          match mine with
          | v :: _ => acc.2.l1.filter fun y => !(y.space == v.space && y.line == v.line)
          | [] => acc.2.l1
        (acc.1, { acc.2 with l1 := kept ++ [{ space := space, line := ln, data := wrBytes [] 0 bytes }] }))
    (bs, k)

/-- A store that hits updates the line; a miss allocates nothing (R84). -/
def l1Write (k : Core) (space addr : Nat) (bs : List Byte) : Core := { k with l1 := putLines k.l1 space addr bs }

/-- The lines outside the core's own sill region are invalidated (R84). -/
def l1Invalidate (k : Core) : Core := { k with l1 := k.l1.filter fun x => x.space == 2 }

/-! ### Device memory as a core sees it -/

/-- Bytes at a device address with a core's own stores that have not landed laid over them (R74). -/
def State.ownStores (s : State) (c a : Nat) (bs : List Byte) : List Byte :=
  ((s.core c).stores.filter fun w => s.ordinary w.epoch || s.provisional w.epoch).foldl (fun x w => overlay a x w.addr w.bytes) bs

/-- A device range as a core sees it: device memory, the provisional bytes of its epoch, and its own stores that have
not landed (R74, R269). -/
def State.devBytes (s : State) (c off n : Nat) : List Byte :=
  s.ownStores c (s.moduleId * 2 ^ 44 + off) (s.provOver c off (s.memRead off n))

/-- Which bytes of a device range a core reads from its own provisional and pending writes (R74, R269). -/
def State.ownWritten (s : State) (c off n : Nat) : List Byte :=
  let k := s.core c
  let base := s.provCover c off n
  (k.stores.filter fun w => w.addr / 2 ^ 44 == s.moduleId && (s.ordinary w.epoch || s.provisional w.epoch)).foldl
    (fun (bs : List Byte) (w : Store) => overlay off bs (w.addr % 2 ^ 44) (List.replicate w.bytes.length 255)) base

/-- Whether a core's read of a device range meets a poisoned word (R498, R499): a word that the core itself has written
whole is not one. -/
def State.readPoison (s : State) (c off n : Nat) : Bool :=
  (blocksOf 8 off n).any fun a => s.wordPoison a && (s.ownWritten c a 8).any (· != 255)

/-- Whether each byte of a device range passes the fence. -/
def State.mayBytes (s : State) (k : Core) (off n : Nat) (write : Bool) : List Bool :=
  if s.devMay k off n write then List.replicate n true
  else (List.range n).map fun i => s.devMay k (off + i) 1 write

/-- Counts a refused access against a function (R61). -/
def State.refuse (s : State) (f : Nat) : State := s.modFn f fun x => { x with refused := x.refused + 1 }

/-- The bytes a refused read returns: zeros where refused (R61). -/
def maskBytes (ok : List Bool) (bs : List Byte) : List Byte := List.zipWith (fun o b => if o then b else 0) ok bs

/-- Whether any door on the way to an HBM offset is shut: an unusable partition's range is refused before (R17,
R499). -/
def State.doorAt (s : State) (off : Nat) : Bool :=
  off < hbmEnd && decide ((s.part (partOfOff off)).door ≠ .open_)

/-- n bytes drawn as one open value.
[DESIGN CHOICE, log entry 38: safe] -/
def State.drawBytes (s : State) (n : Nat) : List Byte := leBytes n s.draw

/-- The beats of an access to a core's own sill region (R195, R218): over its near port for its core, over its far port for others. -/
def State.ownBeats (s : State) (c o off n : Nat) : State :=
  if o = c then s.bump 0x10 (clusterOf c) 0 (blockCount 64 off n) else s.farBeats (clusterOf o) (blockCount 64 off n)

/-- A read of a core's own sill region that meets uncorrectable words counts them (R208, R218). -/
def State.passedOwn (s : State) (o off n : Nat) : State :=
  s.bump 0x10 (clusterOf o) 7 ((blocksOf 8 off n).filter fun a => s.localBad 2 o a 8).length

/-- A read that a home bay answers with poisoned words counts them (R208, R218). -/
def State.passedLine (s : State) (off n : Nat) : State :=
  (blocksOf 8 off n).foldl (fun (st : State) (a : Nat) =>
    let h := st.homeBay a
    match (st.bay h).find (lineOf a) with
    | some l => if l.bad.getLsbD (a / 8 % 16) then st.bump 0x10 h 7 1 else st
    | none => st) s

/-- Whether a line that a range touches has a byte of it that passes the fence. -/
def mayLine (off : Nat) (may : List Bool) (ln : Nat) : Bool := ((may.drop (ln - off)).take (ln + 128 - max ln off)).any id

/-- A read of n bytes by a unit of a core, without the first-level cache (R61, R81, R222, R225, R499): ecc is the cause that
poisoned data raises, and cls the traffic class of the request. -/
def State.readRaw (s : State) (c n : Nat) (l : Loc) (ecc cls : Nat) : MemAns :=
  let k := s.core c
  let cl := clusterOf c
  match l with
  | .nowhere => .ok (zeros n) (s.bump 0x03 c 9 1)
  | .remote a =>
    if (blocksOf 128 (2 ^ 56 + a) n).any fun ln => s.entriesBusy cl ln cls then .wait none
    else .ok (s.ownStores c a (s.provOver c (2 ^ 56 + a) (s.drawBytes n))) (s.drew.touchRange cl (2 ^ 56 + a) n cls fun _ => true)
  | .spad o off => if s.localBad 1 o off n then .trap ecc stEcc s else .ok (s.localRead c 1 o off n) s
  | .own o off =>
    if s.localBad 2 o off n then .trap ecc stEcc ((s.ownBeats c o off n).passedOwn o off n)
    else .ok (s.localRead c 2 o off n) (s.ownBeats c o off n)
  | .dev off =>
    if s.doorAt off then .trap tUnit stDoorClosed s
    else if s.asleep (partOfOff off) then .wait (some (partOfOff off))
    else
      let may := s.mayBytes k off n false
      if (blocksOf 128 off n).any fun ln => mayLine off may ln && s.entriesBusy cl ln cls then .wait none
      else
        let s1 := (if may.all id then s else s.refuse k.fnOf).touchRange cl off n cls (mayLine off may)
        if may.any id && s1.readPoison c off n then .trap ecc stEcc (s1.passedLine off n)
        else .ok (maskBytes may (s1.devBytes c off n)) s1

/-- The first-level cache's part of a load that was served (R84). -/
def State.throughL1 (s : State) (c addr : Nat) (l : Loc) (bs : List Byte) : List Byte × State :=
  let k := s.core c
  match l with
  | .own o off =>
    if o = c ∧ addr / 2 ^ 60 = 2 then
      let r := l1Read k 2 off bs fun b => some (s.localRead c 2 c b 128)
      (r.1, s.setCore c r.2)
    else (bs, s)
  | .dev off =>
    if l1Cacheable k (s.unfwd k off + s.moduleId * 2 ^ 44) bs.length then
      let r := l1Read k 0 off bs fun b =>
        if s.devMay k b 128 false && !s.linePoison b then some (s.devBytes c b 128) else none
      (r.1, s.setCore c r.2)
    else (bs, s)
  | _ => (bs, s)

/-- Whether the first-level cache holds every line of a load, which then asks nobody else (R84). -/
def State.l1Holds (s : State) (c addr n : Nat) (l : Loc) : Bool :=
  let k := s.core c
  let held (space off : Nat) : Bool := decide (l1Sets k ≠ 0) &&
    (blocksOf 128 off n).all fun b => k.l1.any fun x => x.space == space && x.line == b / 128
  match l with
  | .own o off => o == c && addr / 2 ^ 60 == 2 && held 2 off
  | .dev off => l1Cacheable k (s.unfwd k off + s.moduleId * 2 ^ 44) n && held 0 off
  | _ => false

/-- A load of n bytes that waits for nothing (R81, R84, R499): the first-level cache serves what it holds. -/
def State.loadNow (s : State) (c addr n : Nat) (l : Loc) (ecc cls : Nat) : MemAns :=
  match (if s.l1Holds c addr n l then MemAns.ok (zeros n) s else s.readRaw c n l ecc cls) with
  | .ok bs s1 => let r := s1.throughL1 c addr l bs; .ok r.1 r.2
  | x => x

/-- A load of n bytes by a core's instruction stream or threads (R74, R81, R84, R499). -/
def State.load (s : State) (c addr n : Nat) (l : Loc) (ecc cls : Nat) : MemAns :=
  if s.mustWait c l n false then .wait none else s.loadNow c addr n l ecc cls

/-- The traffic class of a core's loads: LOAD_CLASS (R95). -/
def Core.loadClass (k : Core) : Nat := fld (k.csrReg 0x018) 0 3

/-- The traffic class of a core's stores: STORE_CLASS (R95). -/
def Core.storeClass (k : Core) : Nat := fld (k.csrReg 0x018) 4 3

/-- The parts of a write that pass the fence: offset and bytes of each run of allowed bytes. -/
def allowedRuns (off : Nat) : List (Bool × Byte) → List (Nat × List Byte)
  | [] => []
  | (false, _) :: r => allowedRuns (off + 1) r
  | (true, b) :: r =>
    match allowedRuns (off + 1) r with
    | (o, bs) :: t => if o = off + 1 then (off, b :: bs) :: t else (off, [b]) :: (o, bs) :: t
    | [] => [(off, [b])]

/-- Sends a device write toward its home bay (R223, R265). -/
def State.sendStore (s : State) (c addr cls src : Nat) (bs : List Byte) : State :=
  s.modCore c fun k => { k with
    seq := k.seq + 1,
    stores := k.stores ++
      [{ addr := addr, bytes := bs, cls := cls, fn := k.fnOf, epoch := k.epoch, core := c, seq := k.seq,
         src := src }] }

/-- Whether a core whose epoch is CONFIRMING still holds a write into another core, before which no later one may land (R181, R274). -/
def State.heldFirst (s : State) (c o : Nat) : Bool :=
  let k := s.core c
  decide (s.epState k.epoch = .confirming) && k.held.any fun h => match h with
    | .spad d _ _ => d == o
    | .region d _ _ => d == o
    | .msg _ => false

/-- A write of bytes by a unit of a core (R61, R81, R84, R223, R265, R499); src is 0, or a stream slot plus one. -/
def State.writeRaw (s : State) (c : Nat) (l : Loc) (bs : List Byte) (cls src : Nat) : MemAns :=
  let k := s.core c
  let n := bs.length
  match l with
  | .nowhere => .ok [] (s.bump 0x03 c 9 1)
  | .remote a => .ok [] (s.sendStore c a cls src bs)
  | .spad o off => if s.heldFirst c o then .wait none else .ok [] (s.localWrite c k.epoch 1 o off bs)
  | .own o off => if s.heldFirst c o then .wait none else .ok [] ((s.localWrite c k.epoch 2 o off bs).ownBeats c o off n)
  | .dev off =>
    if s.doorAt off then .trap tUnit stDoorClosed s
    else if s.asleep (partOfOff off) then .wait (some (partOfOff off))
    else
      let may := s.mayBytes k off n true
      let s1 := if may.all id then s else (s.refuse k.fnOf).logEv 61 k.fnOf
      .ok [] ((allowedRuns off (may.zip bs)).foldl (fun st r =>
        (st.sendStore c (s.moduleId * 2 ^ 44 + r.1) cls src r.2).modCore c fun x => l1Write x 0 r.1 r.2) s1)

/-- A store by a core's instruction stream or threads (R74). -/
def State.store (s : State) (c : Nat) (l : Loc) (bs : List Byte) (cls : Nat) : MemAns :=
  if s.mustWait c l bs.length true then .wait none else s.writeRaw c l bs cls 0

/-- Whether a queued matrix instruction is an ACC.ST (R142). -/
def MmaOp.stores (o : MmaOp) : Bool := o.move.any fun m => m.kind == 0

/-- Whether every store of a core is visible: none waits in a unit's queue, for its home bay or for invalidations (R84, R223).
[DEDUCED, log entry 20: safe] -/
def State.storesDone (s : State) (c : Nat) : Bool :=
  (s.core c).stores.isEmpty && !(s.core c).mq.any MmaOp.stores && !s.vis.any fun v => v.core == c

end Sys2Proof.Machine
end

