-- ==== Sys2Proof/Machine/Operands.lean ====
section
/-! DEFINITION. The instruction word (R75), the legality of its fields (R76), and how an instruction issues: in a
core's scalar stream (R73, R75) and in thread code (R171 to R174). -/

namespace Sys2Proof.Machine
open Sys2Proof

/-! ### Words -/

/-- The word of a Form A instruction (R75). -/
def wordA (major : Nat) (f : FormA) : W64 :=
  w64 (major * 2 ^ 56 + f.pred.toNat * 2 ^ 53 + f.pneg.toNat * 2 ^ 52 + f.dst.toNat * 2 ^ 46 + f.src1.toNat * 2 ^ 40 +
       f.src2.toNat * 2 ^ 34 + f.src3.toNat * 2 ^ 28 + f.func.toNat * 2 ^ 20 + f.type.toNat * 2 ^ 16 + f.mod.toNat)

/-- The word of a Form B instruction (R75). -/
def wordB (major : Nat) (f : FormB) : W64 :=
  w64 (major * 2 ^ 56 + f.pred.toNat * 2 ^ 53 + f.pneg.toNat * 2 ^ 52 + f.dst.toNat * 2 ^ 46 + f.src1.toNat * 2 ^ 40 +
       f.func.toNat * 2 ^ 32 + f.imm.toNat)

/-- The word of a Form C instruction (R75). -/
def wordC (major : Nat) (f : FormC) : W64 :=
  w64 (major * 2 ^ 56 + f.pred.toNat * 2 ^ 53 + f.pneg.toNat * 2 ^ 52 + f.dst.toNat * 2 ^ 46 + f.imm.toNat)

/-- The fields of a word read as Form A (R75). -/
def ofWordA (w : W64) : FormA :=
  { pred := w.extractLsb' 53 3, pneg := w.getLsbD 52, dst := w.extractLsb' 46 6, src1 := w.extractLsb' 40 6,
    src2 := w.extractLsb' 34 6, src3 := w.extractLsb' 28 6, func := w.extractLsb' 20 8, type := w.extractLsb' 16 4,
    mod := w.extractLsb' 0 16 }

/-- The fields of a word read as Form B (R75). -/
def ofWordB (w : W64) : FormB :=
  { pred := w.extractLsb' 53 3, pneg := w.getLsbD 52, dst := w.extractLsb' 46 6, src1 := w.extractLsb' 40 6,
    func := w.extractLsb' 32 8, imm := w.extractLsb' 0 32 }

/-- The fields of a word read as Form C (R75). -/
def ofWordC (w : W64) : FormC :=
  { pred := w.extractLsb' 53 3, pneg := w.getLsbD 52, dst := w.extractLsb' 46 6, imm := w.extractLsb' 0 46 }

/-- The instruction of a core program's word (R77, R78 and the units' tables); nothing for a reserved major or a
selecting code that no instruction has, which raise ILLEGAL_INSTRUCTION (R76). -/
def coreInstr (who : Agent) (w : W64) : Option Instr :=
  let a := ofWordA w
  let b := ofWordB w
  let c := ofWordC w
  match (w.extractLsb' 56 8).toNat with
  | 0x00 => some (.nop who a) | 0x01 => some (.add who a) | 0x02 => some (.sub who a) | 0x03 => some (.mul who a)
  | 0x04 => some (.mulhu who a) | 0x05 => some (.and who a) | 0x06 => some (.or who a) | 0x07 => some (.xor who a)
  | 0x08 => some (.shl who a) | 0x09 => some (.shr who a) | 0x0A => some (.sar who a) | 0x0B => some (.min who a)
  | 0x0C => some (.max who a) | 0x0D => some (.addi who b) | 0x0E => some (.li who c) | 0x0F => some (.cmp who a)
  | 0x10 => some (.br who c) | 0x11 => some (.call who c) | 0x12 => some (.ret who a) | 0x13 => some (.done who a)
  | 0x18 => some (.csrR who b) | 0x19 => some (.csrW who b) | 0x1A => some (.csrS who b) | 0x1B => some (.csrC who b)
  | 0x1C => match a.func.toNat with
    | 0 => some (.fenceStore who a) | 1 => some (.fenceInv who a) | 2 => some (.fenceAll who a) | _ => none
  | 0x20 => some (.ld who b) | 0x21 => some (.st who b) | 0x22 => some (.tdLd who b)
  | 0x30 => some (.vadd who a) | 0x31 => some (.vsub who a) | 0x32 => some (.vmul who a) | 0x33 => some (.vfma who a)
  | 0x34 => some (.vmin who a) | 0x35 => some (.vmax who a) | 0x36 => some (.vun who a) | 0x37 => some (.vcmp who a)
  | 0x38 => some (.vsel who a) | 0x39 => some (.vbit who a) | 0x3A => some (.vmov who a) | 0x3B => some (.vperm who a)
  | 0x3C => some (.vget who a) | 0x40 => some (.vld who b) | 0x41 => some (.vst who b) | 0x42 => some (.vlds who a)
  | 0x43 => some (.vsts who a)
  | 0x48 => match a.func.toNat with
    | 0 => some (.vredSum who a) | 1 => some (.vredSeg who a) | _ => none
  | 0x50 => some (.cvt who a) | 0x51 => some (.cvtEnc who a) | 0x52 => some (.cvtDec who a)
  | 0x60 => some (.mma who a) | 0x61 => some (.accSt who a) | 0x62 => some (.accLd who a) | 0x63 => some (.accRv who a)
  | 0x64 => some (.accWv who a)
  | 0x70 => some (.tgLaunch who a) | 0x71 => some (.tgJoin who a) | 0x72 => some (.tgExit who a)
  | 0x73 => some (.tgBar who a) | 0x74 => some (.lockTry who a) | 0x75 => some (.lockRel who a)
  | 0x76 => some (.yield who a) | 0x77 => some (.tgVote who a)
  | 0x80 => some (.ssStart who a) | 0x81 => some (.ssWait who a) | 0x82 => some (.ssCancel who a)
  | 0x83 => some (.ssPoll who a)
  | 0x90 => some (.msgSend who a) | 0x91 => some (.msgRecv who a) | 0x92 => some (.msgPoll who a)
  | 0x98 => some (.chPf who a) | 0x99 => some (.chPin who a) | 0x9A => some (.chUnpin who a) | 0x9B => some (.chDead who a)
  | 0xA0 => some (.specOpen who a) | 0xA1 => some (.specClose who a) | 0xA2 => some (.specConfirm who a)
  | 0xA3 => some (.specAbort who a) | 0xA4 => some (.specPoll who a)
  | _ => none

/-! ### Legality of fields (R75, R76) -/

/-- Every field not marked as used is zero: DST, SRC1, SRC2, SRC3, FUNC, TYPE, MOD in turn (R76). -/
def usesA (f : FormA) (d a b c fu ty mo : Bool) : Bool :=
  (d || f.dst == 0) && (a || f.src1 == 0) && (b || f.src2 == 0) && (c || f.src3 == 0) && (fu || f.func == 0) &&
  (ty || f.type == 0) && (mo || f.mod == 0)

/-- A field that names an s or v register in scalar code has bit 5 zero; in thread code it names t0 to t63 (R75,
R171). -/
def regOk (who : Agent) (x : BitVec 6) : Bool :=
  match who with
  | .core _ => decide (x.toNat < 32)
  | .group _ _ => true

/-- A field that names a predicate has bits [5:3] zero (R75). -/
def predOk (x : BitVec 6) : Bool := decide (x.toNat < 8)

/-- A register pair of thread code begins at an even register (R171, R176). -/
def evenOk (x : BitVec 6) : Bool := x.toNat % 2 == 0

/-- The instruction is issued by scalar code: its class is illegal in thread code (R171). -/
def scalarOnly : Agent → Bool
  | .core _ => true
  | .group _ _ => false

/-- The instruction is issued by thread code: its class is illegal in scalar code (R171). -/
def threadOnly : Agent → Bool
  | .core _ => false
  | .group _ _ => true

/-- Three registers: DST ← SRC1 op SRC2, every other field zero. -/
def legal3 (who : Agent) (f : FormA) : Bool :=
  usesA f true true true false false false false && regOk who f.dst && regOk who f.src1 && regOk who f.src2

/-! ### Issue in scalar code -/

/-- Whether a fetch of the word at a device offset meets uncorrectable data (R93 FETCH_ECC, R497): a word that the instruction cache
holds may have been discarded and is then fetched again, and which is open.
[DESIGN CHOICE, log entry 143: safe] -/
def State.fetchBadAt (s : State) (k : Core) (a : Nat) : Bool := s.wordPoison a && (!k.icache.contains a || s.draw % 2 == 0)

/-- Whether the instruction fetch of a core meets uncorrectable data (R93, R497). -/
def State.fetchBad (s : State) (k : Core) : Bool := s.fetchBadAt k (k.codeBase + k.pc)

/-- The state after a fetch: a fetch of a poisoned word that the cache may hold has drawn which it was. -/
def State.fetched (s : State) (a : Nat) : State := if s.wordPoison a then s.drew else s

/-- Whether the word at a device offset has a reserved major opcode or a selecting code that no instruction has (R76): whatever row
names the instruction, it is illegal. -/
def State.reservedAt (s : State) (a : Nat) : Bool := (coreInstr (.core 0) (w64 (leNat (s.memRead a 8)))).isNone

/-- Whether a core's run is being stopped since one of its cores trapped (R93, R94). -/
def State.stopping (s : State) (k : Core) : Bool :=
  k.run != 0 && (match s.run (k.run - 1) with
    | some r => decide (r.st = .running) && r.status.isSome
    | none => false)

/-- Whether a core issues at all: inside a launch, neither stopped nor being stopped, and not about to be redirected by an abort (R80,
R93, R275). -/
def State.issues (s : State) (k : Core) : Bool :=
  k.running && k.shutterOpen && !decide (s.epState k.epoch = .aborting) && !s.stopping k

/-- The instruction waits: it stays at the core's program counter and is issued again (R73, R74).
[DESIGN CHOICE, log entry 10: safe] -/
def State.stallAt (s : State) (c why : Nat) : State := s.modCore c fun k => { k with stall := why }

/-- The predicates that an SS.POLL in the stream engine's queue has still to write (R74, R253). -/
def Core.pPending (k : Core) : List Nat := k.sq.filterMap fun e => match e.2.op with
  | .poll _ d => some d
  | _ => none

/-- The vector registers that an ACC.RV in the matrix queue has still to write (R74, R144). -/
def Core.vPending (k : Core) : List Nat := k.mq.filterMap fun o => match o.move with
  | some m => if m.kind = 2 then some m.f.dst.toNat else none
  | none => none

/-- One issue of a core's scalar stream (R73, R75, R76, R79): PC_RANGE beyond the program, FETCH_ECC, then
ILLEGAL_INSTRUCTION whatever the predicate, then the predicate, for which it waits while one is still to be written (R74); the
effect is that of the instruction.
[DESIGN CHOICE, log entry 9: unsafe] -/
def issueCore (s : State) (c : Nat) (legal : Bool) (pred : BitVec 3) (pneg : Bool) (eff : State → State) : State :=
  let k := s.core c
  let s1 := s.fetched (k.codeBase + k.pc)
  if !s.issues k then s
  else if k.progLen ≤ k.pc then s.trap c tPcRange 0
  else if s.fetchBad k then s1.trap c tFetchEcc 0
  else if !legal || s.reservedAt (k.codeBase + k.pc) then s1.trap c tIllegal 0
  else if k.pPending.contains pred.toNat then s1.stallAt c 12
  else if k.preg pred.toNat == pneg then s1.modCore c Core.retire
  else eff s1

/-- An instruction that names predicates or vector registers waits while a unit's queue has still to write one of them (R74). -/
def State.whenFree (s : State) (c : Nat) (ps vs : List Nat) (eff : State → State) : State :=
  let k := s.core c
  if ps.any k.pPending.contains then s.stallAt c 12 else if vs.any k.vPending.contains then s.stallAt c 8 else eff s

/-- Ends an instruction that changed its core only. -/
def State.retireWith (s : State) (c : Nat) (f : Core → Core) : State := s.modCore c fun k => (f k).retire

/-! ### Thread groups (R167 to R176) -/

/-- Thread l of a group. -/
def Group.th (g : Group) (l : Nat) : Thread := nget {} g.threads l

/-- Sets thread l of a group. -/
def Group.setTh (g : Group) (l : Nat) (t : Thread) : Group := { g with threads := nset {} g.threads l t }

/-- t[n] of a thread. -/
def Thread.reg (t : Thread) (n : Nat) : W32 := nget 0 t.t n

/-- A register of the register cache becomes the one used last; of five the least recently used leaves (R172). -/
def cacheTop (cache : List Nat) (n : Nat) : List Nat :=
  let l := cache.filter (· != n) ++ [n]
  l.drop (l.length - 4)

/-- Writes t[n] of a thread, in the main registers and in the register cache (R172). -/
def Thread.setReg (t : Thread) (n : Nat) (v : W32) : Thread := { t with t := nset 0 t.t n v, cache := cacheTop t.cache n }

/-- A thread reads t[n]: one that its register cache holds becomes the one used last (R172).
[DEDUCED, log entry 156: unsafe] -/
def Thread.use (t : Thread) (n : Nat) : Thread := if t.cache.contains n then { t with cache := cacheTop t.cache n } else t

/-- p[n] of a thread; p0 reads true (R167). -/
def Thread.preg (t : Thread) (n : Nat) : Bool := if n = 0 then true else nget false t.p n

/-- Writes p[n] of a thread; a write to p0 is discarded. -/
def Thread.setP (t : Thread) (n : Nat) (v : Bool) : Thread := if n = 0 then t else { t with p := nset false t.p n v }

/-- The 64-bit value of a register pair t[n+1]:t[n] (R171, R176). -/
def Thread.pair (t : Thread) (n : Nat) : W64 := (t.reg (n + 1)) ++ (t.reg n)

/-- Writes a register pair. -/
def Thread.setPair (t : Thread) (n : Nat) (v : W64) : Thread :=
  (t.setReg n (v.extractLsb' 0 32)).setReg (n + 1) (v.extractLsb' 32 32)

/-- The thread continues at the next instruction. -/
def Thread.next (t : Thread) : Thread := { t with pc := t.pc + 8 }

/-- The lanes of a group whose threads are live (R174). -/
def Group.live (g : Group) : List Nat := (List.range 32).filter fun l => decide ((g.th l).mode ≠ .exited)

/-- The lanes whose threads are runnable (R174). -/
def Group.runnable (g : Group) : List Nat := (List.range 32).filter fun l => decide ((g.th l).mode = .runnable)

/-- The lowest PC among the runnable threads (R174). -/
def Group.lowPc (g : Group) : Nat :=
  match g.runnable with
  | [] => 0
  | l :: r => r.foldl (fun m x => min m (g.th x).pc) (g.th l).pc

/-- The active threads: the runnable threads at the lowest PC (R174). -/
def Group.active (g : Group) : List Nat := g.runnable.filter fun l => (g.th l).pc == g.lowPc

/-- A thread-group slot of a core of the state. -/
def State.grp (s : State) (c i : Nat) : Group := (s.core c).grp i

/-- Changes a thread-group slot. -/
def State.modGrp (s : State) (c i : Nat) (f : Group → Group) : State :=
  s.modCore c fun k => k.setGrp i (f (k.grp i))

/-- Changes the threads of the lanes listed. -/
def Group.onLanes (g : Group) (lanes : List Nat) (f : Nat → Thread → Thread) : Group :=
  lanes.foldl (fun acc l => acc.setTh l (f l (acc.th l))) g

/-- One issue of a group's thread code (R171, R174, R75): checks at the lowest PC of the runnable threads, then the
effect on the active lanes whose predicate is true, while the others go on to the next instruction. The progress
count is cleared unless the instruction is one of those R186 names; `clears` says so. An effect that must wait (R74)
answers the partition it wakes, if any, and the group issues the instruction again. `srcs` names the registers that each thread
reads; those that miss its register cache are counted (R172, R194). -/
def issueGroup (s : State) (c i : Nat) (legal : Bool) (pred : BitVec 3) (pneg clears : Bool) (srcs : List Nat)
    (eff : State → List Nat → Except (Option Nat) State) : State :=
  let k := s.core c
  let g := k.grp i
  let act := g.active
  let a := k.codeBase + g.lowPc
  let s0 := s.fetched a
  if !s.issues k || act.isEmpty then s
  else if k.progLen ≤ g.lowPc then s.trapAt c g.lowPc tPcRange 0 stAborted
  else if s.fetchBadAt k a then s0.trapAt c g.lowPc tFetchEcc 0 stEcc
  else if !legal || s.reservedAt a then s0.trapAt c g.lowPc tIllegal 0 stAborted
  else
    let on := act.filter fun l => (g.th l).preg pred.toNat != pneg
    let off := act.filter fun l => (g.th l).preg pred.toNat == pneg
    let s1 := (s0.modCore c fun x => { x with icache := holdWord x.icache a }).modGrp c i fun x =>
      let y := (x.onLanes off fun _ t => t.next).onLanes on fun _ t => srcs.foldl Thread.use t
      if clears then { y with progress := 0 } else y
    let missed := (on.map fun l => (srcs.filter fun n => !(g.th l).cache.contains n).length).sum
    let s2 := (s1.bump 0x03 c 0 1).bump 0x03 c 1 act.length
    let s3 := (if act.length < g.live.length then s2.bump 0x03 c 2 1 else s2).bump 0x03 c 4 missed
    if on.isEmpty then s3
    else
      match eff s3 on with
      | .ok s4 => s4
      | .error w => s.wakeFor w

/-- A thread instruction that changes its threads' own registers only. -/
def threadRegs (s : State) (c i : Nat) (f : Nat → Thread → Thread) (lanes : List Nat) : Except (Option Nat) State :=
  .ok (s.modGrp c i fun g => g.onLanes lanes fun l t => (f l t).next)

/-- An instruction that both kinds of code have and that reads and writes registers only: the predicates it names in scalar code,
the registers it reads in thread code, its scalar effect on the core, and its effect on one thread. -/
def issueRegs (who : Agent) (legal : Bool) (pred : BitVec 3) (pneg : Bool) (ps srcs : List Nat) (onCore : Core → Core)
    (onThread : Thread → Thread) (s : State) : Out :=
  match who with
  | .core c => onUnit (Unit.core c) (issueCore s c legal pred pneg fun s0 => s0.whenFree c ps [] fun s1 => s1.retireWith c onCore)
  | .group c i => onUnit (Unit.core c && Unit.slot i)
      (issueGroup s c i legal pred pneg true srcs fun s1 lanes => threadRegs s1 c i (fun _ t => onThread t) lanes)

/-- An instruction of scalar code only: thread code that meets it raises ILLEGAL_INSTRUCTION (R171). -/
def issueScalar (who : Agent) (legal : Bool) (pred : BitVec 3) (pneg : Bool) (eff : Nat → State → State)
    (s : State) : Out :=
  match who with
  | .core c => onUnit (Unit.core c) (issueCore s c legal pred pneg (eff c))
  | .group c i => onUnit (Unit.core c && Unit.slot i) (issueGroup s c i false pred pneg true [] fun s1 _ => .ok s1)

/-- An instruction of thread code only: scalar code that meets it raises ILLEGAL_INSTRUCTION (R171). -/
def issueThread (who : Agent) (legal : Bool) (pred : BitVec 3) (pneg clears : Bool) (srcs : List Nat)
    (eff : Nat → Nat → State → List Nat → Except (Option Nat) State) (s : State) : Out :=
  match who with
  | .core c => onUnit (Unit.core c) (issueCore s c false pred pneg id)
  | .group c i => onUnit (Unit.core c && Unit.slot i) (issueGroup s c i legal pred pneg clears srcs (eff c i))

end Sys2Proof.Machine
end

