-- ==== Sys2Proof/Machine/Csr.lean ====
section
/-! DEFINITION. Control and status registers and fences (R84, R95 to R97): majors 0x18 to 0x1C. -/

namespace Sys2Proof.Machine
open Sys2Proof

/-- Bytes in a core's overflow ring (R90). -/
def Core.overflowBytes (k : Core) : Nat := (k.overflow.map fun m => 16 + m.payload.length).sum

/-- MSG_STATUS (R95); its counting fields stay at their largest value (R14). -/
def Core.msgStatus (k : Core) : W64 :=
  w64 (min k.spill.length 65535 * 2 ^ 32 + min k.overflowBytes 65535 * 2 ^ 16 + min k.rxq.length 16)

/-- CORE_ID (R95). -/
def coreId (c : Nat) : W64 := w64 (partOf c / 4 * 2 ^ 20 + partOf c * 2 ^ 16 + c)

/-- Whether a control and status register is listed in R95. -/
def csrListed (n : Nat) : Bool :=
  [0x000, 0x001, 0x002, 0x008, 0x009, 0x00A, 0x010, 0x011, 0x012, 0x013, 0x018, 0x019, 0x020, 0x028, 0x029, 0x02A,
   0x030, 0x038, 0x039, 0x03A, 0x03B, 0x03C].contains n

/-- Whether a control and status register has fields of access RW (R95). -/
def csrWritable (n : Nat) : Bool := n == 0x018 || n == 0x019 || n == 0x020

/-- Bits of access RW of a control and status register (R95, R96). -/
def csrRw (n : Nat) : W64 :=
  if n = 0x018 then 0x777 else if n = 0x019 then BitVec.allOnes 64 else if n = 0x020 then 0xFFFF else 0

/-- Reserved bits of a control and status register with RW fields (R95, R96). -/
def csrReserved (n : Nat) : W64 :=
  if n = 0x018 then 0xFFFFFFFFFFFFF888 else if n = 0x020 then 0x7FFF0000FFFF0000 else 0

/-- The value a read of a control and status register returns, and the state after it. CYCLE, STALL_OPERAND and
WDOG.COUNT count time, which the model does not keep: their reads are open values.
[DESIGN CHOICE, log entry 4: safe] -/
def State.csrRead (s : State) (c n : Nat) : W64 × State :=
  let k := s.core c
  if n = 0x000 then (coreId c, s)
  else if n = 0x008 ∨ n = 0x00A then (w64 s.draw, s.drew)
  else if n = 0x013 then (w64 k.td.length, s)
  else if n = 0x020 then (setFld (k.csrReg 0x020) 32 16 s.draw, s.drew)
  else if n = 0x030 then (s.specEpoch k, s)
  else if n = 0x038 then (k.msgStatus, s)
  else (k.csrReg n, s)

/-- A write of v to a register with RW fields: those fields take it, the others stay. A reserved bit written
non-zero leaves the register's RW fields open (R13). -/
def State.csrWrite (s : State) (c n : Nat) (v : W64) : State :=
  let old := (s.core c).csrReg n
  let put (x : W64) (st : State) : State :=
    st.modCore c fun k => k.setCsr n ((old &&& ~~~csrRw n) ||| (x &&& csrRw n))
  if v &&& csrReserved n = 0 then put v s else put (w64 s.draw) s.drew

/-- The fields of the CSR instructions: IMM32 beyond the register number, FUNC and one register field are unused
(R76, R78). -/
def csrLegal (who : Agent) (f : FormB) (unused used : BitVec 6) : Bool :=
  unused == 0 && f.func == 0 && decide (f.imm.toNat < 4096) && regOk who used

/-- CSR.R (R78, R171). -/
def execCsrR (who : Agent) (f : FormB) (s : State) : Out :=
  let legal := csrLegal who f f.src1 f.dst
  let n := f.imm.toNat
  match who with
  | .core c => onUnit (Unit.core c) (issueCore s c legal f.pred f.pneg fun s1 =>
      if !csrListed n then s1.trap c tIllegalCsr 0
      else
        let r := s1.csrRead c n
        r.2.retireWith c fun k => k.setS f.dst.toNat r.1)
  | .group c i => onUnit (Unit.core c && Unit.slot i)
      (issueGroup s c i (legal && evenOk f.dst) f.pred f.pneg true [] fun s1 lanes =>
        if !csrListed n then .ok (s1.trapAt c (s1.grp c i).lowPc tIllegalCsr 0 stAborted)
        else
          let r := s1.csrRead c n
          threadRegs r.2 c i (fun _ t => t.setPair f.dst.toNat r.1) lanes)

/-- A CSR instruction that writes: the new value from the register's and s[SRC1] (R78). -/
def csrUpdate (who : Agent) (f : FormB) (op : W64 → W64 → W64) (s : State) : Out :=
  issueScalar who (csrLegal who f f.dst f.src1) f.pred f.pneg (fun c s1 =>
    let n := f.imm.toNat
    if !csrWritable n then s1.trap c tIllegalCsr 0
    else
      let k := s1.core c
      (s1.csrWrite c n (op (k.csrReg n) (k.sreg f.src1.toNat))).modCore c Core.retire) s

/-- CSR.W (R78). -/
def execCsrW (who : Agent) (f : FormB) (s : State) : Out := csrUpdate who f (fun _ v => v) s

/-- CSR.S (R78). -/
def execCsrS (who : Agent) (f : FormB) (s : State) : Out := csrUpdate who f (fun r v => r ||| v) s

/-- CSR.C (R78). -/
def execCsrC (who : Agent) (f : FormB) (s : State) : Out := csrUpdate who f (fun r v => r &&& ~~~v) s

/-- Whether every queue of a core's units is empty (R73, R84). -/
def Core.queuesEmpty (k : Core) : Bool := k.mq.isEmpty && k.tgq.isEmpty && k.sq.isEmpty

/-- A fence: what it waits for, and whether it invalidates the first-level cache (R84, R171). Thread code waits
for its accesses, which are never in a queue. -/
def fence (who : Agent) (f : FormA) (code : BitVec 8) (stores inv queues : Bool) (s : State) : Out :=
  let legal := usesA f false false false false true false false && f.func == code
  let done (st : State) (c : Nat) : Bool := !stores || st.storesDone c
  let eff (st : State) (c : Nat) : State := if inv then st.modCore c l1Invalidate else st
  match who with
  | .core c => onUnit (Unit.core c) (issueCore s c legal f.pred f.pneg fun s1 =>
      if done s1 c && (!queues || (s1.core c).queuesEmpty) then (eff s1 c).modCore c Core.retire
      else s1.stallAt c 3)
  | .group c i => onUnit (Unit.core c && Unit.slot i) (issueGroup s c i legal f.pred f.pneg true [] fun s1 lanes =>
      if done s1 c then threadRegs (eff s1 c) c i (fun _ t => t) lanes else .error none)

/-- FENCE STORE (R84). -/
def execFenceStore (who : Agent) (f : FormA) (s : State) : Out := fence who f 0 true false false s

/-- FENCE INV (R84). -/
def execFenceInv (who : Agent) (f : FormA) (s : State) : Out := fence who f 1 false true false s

/-- FENCE ALL (R84). -/
def execFenceAll (who : Agent) (f : FormA) (s : State) : Out := fence who f 2 true true true s

end Sys2Proof.Machine
end

