-- ==== Sys2Proof/Machine/SillOps.lean ====
section
/-! DEFINITION. Sill-only fills (R225, R239, R248, R255, R261). -/

namespace Sys2Proof.Machine
open Sys2Proof

/-- The bay in which CH.PF, a TGT 2 move and a lead walker fill a line (R239, R248): the issuer's own for replicable and remote lines,
the home bay for all others; with HOME, the home bay for all that this module has. -/
def State.hintBay (s : State) (cluster ln : Nat) (home : Bool) : Option Nat :=
  if isRemoteLine ln then (if home then none else some cluster)
  else if home then some (s.homeBay ln)
  else if towerOfOff ln != cluster / towerBays || s.replicable ln then some cluster
  else some (s.homeBay ln)

/-- Whether a sill-only fill of a line has anything to do: the line is permitted, this module can serve it, and it is neither present
nor being filled (R239, R255). -/
def State.wantsFill (s : State) (c bay ln : Nat) : Bool :=
  (isRemoteLine ln || ((s.mayBytes (s.core c) ln 128 false).any id && !s.doorAt ln && s.backed ln)) &&
  ((s.bay bay).find ln).isNone && ((s.bay bay).missOf ln).isNone && !(s.bay bay).reqs.any fun m => m.line == ln

/-- A sill-only fill of a line for a core (R239, R248): it takes a miss entry, or waits in the REQ channel for one (R225); the flag
says whether it was issued. A line that this module does not back is refused (R17). -/
def State.sillFill (s : State) (c ln cls : Nat) (home : Bool) : State × Bool :=
  match s.hintBay (clusterOf c) ln home with
  | none => (s, false)
  | some bay =>
    if !isRemoteLine ln && !s.backed ln then (s.logEv 17 ln, false)
    else if !s.wantsFill c bay ln then (s, false)
    else if 64 ≤ (s.bay bay).miss.length then
      let b := s.bay bay
      (s.setBay bay { b with reqs := b.reqs ++ [{ line := ln, cls := cls, joiners := [], prefetch := true }] }, true)
    else (s.openMiss bay ln cls [] true, true)

end Sys2Proof.Machine
end

