-- ==== Sys2Proof/Machine/BayEvents.lean ====
section
/-! DEFINITION. What the bays and the cores' watches do on their own: reads and fills, writes at home bays,
invalidations, responses, patrols, watchdogs and the clock gate (R96, R186, R222 to R236, R472, R498 to R502, R510). -/

namespace Sys2Proof.Machine
open Sys2Proof

/-! ### Watches -/

/-- CORE_WATCHDOG_EXPIRY (R96): only inside a launch and before DONE. -/
def execCoreWatchdogExpiry (c : Nat) (s : State) : Out :=
  onUnit (Unit.core c) (if (s.core c).running then s.trap c tWatchdog 0 else s)

/-- GROUP_PROGRESS_EXPIRY (R186): TRAP_PC is the lowest of the group's live threads.
[DESIGN CHOICE, log entry 34: safe] -/
def execGroupProgressExpiry (c slot : Nat) (s : State) : Out :=
  onUnit (Unit.core c && Unit.slot slot) (
    let g := (s.core c).grp slot
    if (s.core c).running && g.used && !g.live.isEmpty then
      let pcs := g.live.map fun l => (g.th l).pc
      s.trapAt c (pcs.foldl Nat.min (pcs.headD 0)) tWatchdog 0 stTimeout
    else s)

/-- Whether a core has nothing to do until something arrives (R472): no instruction to issue, or one that waits in
MSG.RECV or for threads at a barrier; no queued work, no start, no runnable thread, nothing in flight. -/
def Core.idle (k : Core) : Bool :=
  (!k.running || (k.stall == 5 && k.rxq.isEmpty) || k.stall == 10) && k.queuesEmpty && k.starts.isEmpty &&
  k.groups.all (fun e => !e.2.used || e.2.runnable.isEmpty) && k.stores.isEmpty && k.send.isEmpty

/-- CLUSTER_CLOCK_GATE (R472): it changes only time.
[DEDUCED, log entry 132: safe] -/
def execClusterClockGate (cluster : Nat) (s : State) : Out :=
  onUnit (Unit.cluster cluster) (
    if (List.range 17).all fun i => (s.core (cluster * 17 + i)).idle then
      { s with mc := { s.mc with gated := nset false s.mc.gated cluster true } }
    else s)

/-! ### Requests and fills -/

/-- Generation that a requester puts into its requests (R256, R502). -/
def State.waiterGen (s : State) : Waiter → BitVec 16
  | .core c => (s.core c).gen
  | .slot c i => ((s.core c).slot i).gen
  | .walker c i => ((s.core c).slot i).gen
  | .missEntry b => (s.bay b).gen
  | _ => 0

/-- Whether a requester lies outside a partition (R225). -/
def waiterOutside (p : Nat) : Waiter → Bool
  | .core c => partOf c != p
  | .slot c _ => partOf c != p
  | .walker c _ => partOf c != p
  | .missEntry b => partOfCluster b != p
  | .nearBank st => st / 2 != p
  | _ => true

/-- A requester of the other tower (R235). -/
def waiterOther (t : Nat) : Waiter → Bool
  | .missEntry b => b / 672 != t
  | _ => false

/-- What a requester does with an access that failed: a core and a stream slot trap, the others record it (R256, R499,
R500). -/
def State.waiterFails (s : State) (w : Waiter) (addr : Nat) (coreCause status : Nat) : State :=
  match w with
  | .core c => if (s.core c).running then s.trapAs c coreCause addr status else s
  | .slot c i =>
    match ((s.core c).slot i).running with
    | some st => s.trapAt c st.pc tUnit addr status
    | none => s
  | _ => s

/-- Whether a requester sends a request of a class for a line to a bay (R177, R222, R225): a core with the class of its loads or of one
of its thread groups, and a core's units, to the bay that serves the line for their cluster; a miss entry once to the home bay; the
others to the home bay. -/
def State.sendsTo (s : State) (bay ln cls : Nat) : Waiter → Bool
  | .core c => s.readBay (clusterOf c) ln cls false == bay &&
      (cls == (s.core c).loadClass || (s.core c).groups.any fun e => e.2.used && e.2.cls == cls)
  | .slot c _ => s.readBay (clusterOf c) ln cls false == bay
  | .walker c _ => s.hintBay (clusterOf c) ln false == some bay
  | .missEntry b => !isRemoteLine ln && s.homeBay ln == bay && b != bay && ((s.bay b).missOf ln).isSome &&
      !s.waits.any fun x => decide (x.waiter = .missEntry b) && x.addr == ln
  | _ => !isRemoteLine ln && s.homeBay ln == bay

/-- BAY_READ_REQUEST (R222, R225, R240, R476): a hit is answered, a miss opens or joins an entry; a sleeping partition is
woken and the request waits; a closed door answers DOOR_CLOSED (R499, R508). A request that finds no room waits: it is
sent again.
[DEDUCED, log entry 75: unsafe] -/
def bayReadRequest (bay line cls : Nat) (w : Waiter) (s : State) : State :=
  let ln := lineOf line
  let b := s.bay bay
  if !isRemoteLine ln && s.backed ln && s.doorAt ln then s.waiterFails w ln tUnit stDoorClosed
  else if !isRemoteLine ln && !s.backed ln then s.logEv 17 ln
  else if !s.sendsTo bay ln cls w then s
  else if !isRemoteLine ln && s.asleep (partOfOff ln) then s.demandWake (partOfOff ln)
  else
    let wait (back : Option (List Byte × Bool)) (st : State) : State :=
      { st with waits := st.waits ++ [{ waiter := w, gen := s.waiterGen w, addr := ln, isRead := true, back := back }] }
    match b.find ln with
    | some l =>
      let s1 := (s.sillC bay sillHit cls 1).hitLine bay l cls
      let s2 := if l.kind = .remote then s1.sill bay sillRemoteHit 1 else s1
      let s3 := (if l.kind = .home ∧ waiterOther (bay / 672) w then s2.recordTower bay ln else s2).farBeats bay 2
      wait (some (s3.memRead ln 128, l.bad != 0)) s3
    | none =>
      let outs := match b.missOf ln with
        | some m => (m.joiners.filter fun j => waiterOutside (partOfCluster bay) j.waiter).length
        | none => 0
      if (b.missOf ln).isNone && decide (64 ≤ b.miss.length) then s
      else if waiterOutside (partOfCluster bay) w && decide (8 ≤ outs) then s
      else wait none (s.openMiss bay ln cls [{ waiter := w, gen := s.waiterGen w }] false)

/-- BAY_READ_REQUEST (R222). -/
def execBayReadRequest (bay line cls : Nat) (w : Waiter) (s : State) : Out :=
  onUnit (Unit.cluster bay && w.wf) (if 8 ≤ cls then s else bayReadRequest bay line cls w s)

/-- The buffer that a miss entry of a bay reserved for its line's fill. -/
def Wait.ofEntry (bay ln : Nat) (x : Wait) : Bool := decide (x.waiter = .missEntry bay) && x.addr == ln

/-- Gives the requesters of a miss entry their data (R226): the buffers reserved for the line. -/
def State.answerJoiners (s : State) (js : List Joiner) (ln : Nat) (d : List Byte × Bool) : State :=
  { s with waits := s.waits.map fun (x : Wait) =>
      if x.addr = ln ∧ x.back = none ∧ js.any (fun j => decide (j.waiter = x.waiter) && j.gen == x.gen)
      then { x with back := some d } else x }

/-- A miss entry is free again: the oldest fill that waits in the REQ channel takes it (R225). -/
def State.nextReq (s : State) (bay : Nat) : State :=
  let b := s.bay bay
  match b.reqs with
  | [] => s
  | m :: r =>
    let s1 := s.setBay bay { b with reqs := r }
    if (b.find m.line).isSome then s1 else s1.openMiss bay m.line m.cls m.joiners m.prefetch

/-- BAY_FILL_RETURN (R226, R227, R228, R261): the home bay's fill comes from HBM; another bay's once its own request has
been answered. -/
def bayFillReturn (bay line : Nat) (s : State) : State :=
  let ln := lineOf line
  match (s.bay bay).missOf ln with
  | none => s
  | some m =>
    let home := decide (s.kindIn bay ln = .home)
    let mine := s.waits.find? (Wait.ofEntry bay ln)
    let data : Option (List Byte × Bool) :=
      if home then some ([], false)
      else match mine with
        | some x => x.back
        | none => if isRemoteLine ln then some (s.drawBytes 128, false) else none
    match data with
    | none => s
    | some d =>
      let b := s.bay bay
      let s1 := s.setBay bay { b with miss := b.miss.filter fun x => x.line != ln }
      let s2 := { s1 with waits := s1.waits.filter fun x => !Wait.ofEntry bay ln x }
      let s3 := if !home && mine.isNone && isRemoteLine ln then s2.drew else s2
      let dropped := m.joiners.all fun j => s3.waiterGen j.waiter != j.gen
      let s4 := if d.2 then s3.sill bay sillNoAlloc 1 else (s3.fillLine bay ln m.cls (m.prefetch || dropped) false).1
      let bays := (m.joiners.filter fun j => match j.waiter with
        | .missEntry x => partOfCluster x == partOfCluster bay
        | _ => false).length
      let s5 := if 1 < bays then s4.sill bay sillMulticast 1 else s4
      let s6 := if home ∧ m.joiners.any (fun j => waiterOther (bay / 672) j.waiter) then s5.recordTower bay ln else s5
      (s6.answerJoiners m.joiners ln (if home then (s6.memRead ln 128, s6.linePoison ln) else d)).nextReq bay

/-- BAY_FILL_RETURN (R226). -/
def execBayFillReturn (bay line : Nat) (s : State) : Out := onUnit (Unit.cluster bay) (bayFillReturn bay line s)

/-! ### Writes at home bays -/

/-- A core's write to lines of the remote category hits the copies that its own bay holds (R235, R240). -/
def State.remoteHits (s : State) (c ln n cls : Nat) : State :=
  let bay := clusterOf c
  (blocksOf 128 ln n).foldl (fun st b =>
    match (st.bay bay).find b with
    | some l => if l.kind = .remote then ((st.sillC bay sillHit cls 1).hitLine bay l cls).sill bay sillRemoteHit 1 else st
    | none => st) s

/-- A write reaches the doors of its home partition: nothing while it must wait there (R223, R227, R477). -/
def State.landOrdinary (s : State) (w : Store) (core : Bool) : Option State :=
  if w.addr / 2 ^ 44 ≠ s.moduleId then
    some (if s.reachable (w.addr / 2 ^ 44) then
      (if core then s.remoteHits w.core (2 ^ 56 + w.addr) w.bytes.length w.cls else s) else s.logEv 431 w.addr)
  else
    let off := w.addr % 2 ^ 44
    let n := w.bytes.length
    if s.backed off && s.doorAt off then
      let s1 := s.logEv 508 off
      some (if core && (s.core w.core).running then s1.trapAs w.core tUnit w.addr stDoorClosed else s1)
    else if !s.backed off || !s.backed (off + n - 1) then some (s.logEv 17 off)
    else if s.asleep (partOfOff off) || s.fillPending off n then none
    else
      let s1 := if core ∧ (s.core w.core).run ≠ 0 then s.noteWrite (ownerRun ((s.core w.core).run - 1)) off w.bytes else s
      let s2 := if core then s1.remoteHits w.core off n w.cls else s1
      let r := s2.homeWriteBy off w.bytes w.cls (if core then some (clusterOf w.core) else none)
      some (if core then
        { r.1 with vis := r.1.vis ++ r.2.map fun ln => { bay := r.1.homeBay ln, line := ln, core := w.core, seq := w.seq } }
      else r.1)

/-- The partition that a waiting write wakes (R476). -/
def State.writeWake (s : State) (w : Store) : State :=
  if w.addr / 2 ^ 44 = s.moduleId ∧ s.asleep (partOfOff (w.addr % 2 ^ 44)) then s.demandWake (partOfOff (w.addr % 2 ^ 44))
  else s

/-- A store of a core lands (R223, R265): provisional under an OPEN epoch, ordinary under none or a confirmed one,
discarded under an aborted one. -/
def State.landStore (s : State) (w : Store) : Option State :=
  if w.epoch ≠ 0 ∧ s.provisional w.epoch then
    let off := if w.addr / 2 ^ 44 = s.moduleId then w.addr % 2 ^ 44 else 2 ^ 56 + w.addr
    some (s.provWrite w.core w.epoch off w.bytes w.cls)
  else if s.ordinary w.epoch then s.landOrdinary w true
  else some (s.spec (keyGroup w.epoch / 4) spDiscarded 1)

/-- HOME_BAY_WRITE (R223): the oldest write of a core, or of the other masters. -/
def homeBayWrite (w : Writer) (s : State) : State :=
  match w with
  | .core c =>
    match (s.core c).stores with
    | [] => s
    | x :: r =>
      match (s.modCore c fun k => { k with stores := r }).landStore x with
      | some s1 => s1
      | none => s.writeWake x
  | .queued =>
    match s.writes with
    | [] => s
    | x :: r =>
      match { s with writes := r }.landOrdinary x false with
      | some s1 => s1
      | none => s.writeWake x

/-- HOME_BAY_WRITE (R223). -/
def execHomeBayWrite (w : Writer) (s : State) : Out :=
  onUnit w.wf (homeBayWrite w s)

/-- INVALIDATION_ARRIVAL (R235): a copy that is not the home line goes.
[DEDUCED, log entry 127: safe] -/
def execInvalidationArrival (bay line : Nat) (s : State) : Out :=
  onUnit (Unit.cluster bay) (
    let ln := lineOf line
    match (s.bay bay).find ln with
    | some l => if l.kind = .home then s else let s1 := s.unmark bay l; s1.setBay bay ((s1.bay bay).drop ln)
    | none => s)

/-- INVALIDATION_ACKS_COMPLETE (R223, R235): at the home bay, once no bay of the other tower holds a copy, but the writers' own; the
writes that waited for it are visible. -/
def execInvalidationAcksComplete (bay line : Nat) (s : State) : Out :=
  onUnit (Unit.cluster bay) (
    let ln := lineOf line
    match (s.bay bay).find ln with
    | some l =>
      if l.acks = 0 ∨ l.kind ≠ .home ∨
         s.bays.any (fun e => e.1 / 672 != bay / 672 && !l.spared.contains e.1 && (e.2.find ln).isSome) then s
      else
        let s1 := s.setBay bay ((s.bay bay).modLine ln fun x => { x with acks := 0, spared := [] })
        { s1 with vis := s1.vis.filter fun v => !(v.bay == bay && v.line == ln) }
    | none => { s with vis := s.vis.filter fun v => !(v.bay == bay && v.line == ln) })

/-! ### Responses -/

/-- Removes reserved buffer i. -/
def State.dropWait (s : State) (i : Nat) : State := { s with waits := s.waits.take i ++ s.waits.drop (i + 1) }

/-- Counts the bytes of a stream slot's response that was dropped (R256, R260). -/
def State.droppedBytes (s : State) (w : Waiter) (n : Nat) : State :=
  match w with
  | .slot c _ => s.bump 0x04 c 9 n
  | .walker c _ => s.bump 0x04 c 9 n
  | _ => s

/-- RESPONSE_ARRIVAL (R256, R499, R502): a stale generation is dropped and logged, the bytes of a stream slot's counted;
poisoned data makes the requester trap. A miss entry's response is its fill. -/
def execResponseArrival (i : Nat) (s : State) : Out :=
  .next (match s.waits[i]? with
    | none => s
    | some x =>
      match x.waiter, x.back with
      | .missEntry _, _ => s
      | _, none => s
      | w, some d =>
        let s1 := s.dropWait i
        if x.gen ≠ s.waiterGen w then (s1.droppedBytes w d.1.length).logEv 502 x.addr
        else if d.2 then s1.waiterFails w x.addr tDataEcc stEcc
        else s1)

/-- The partition whose wake stops a response timer (R477). -/
def State.waking (s : State) (ln : Nat) : Bool := !isRemoteLine ln && s.cfld (offPwr (partOfOff ln)) 8 4 == 3

/-- RESPONSE_TIMEOUT (R500): a read is taken as poisoned, a write as acknowledged with poison; what a miss entry held goes
to its requesters poisoned and is not allocated (R499).
[DEDUCED, log entry 128: safe] -/
def execResponseTimeout (i : Nat) (s : State) : Out :=
  .next (match s.waits[i]? with
    | none => s
    | some x =>
      if x.back.isSome || s.waking x.addr then s
      else
        let s1 := (s.dropWait i).logEv 500 x.addr
        match x.waiter with
        | .missEntry b =>
          (match (s1.bay b).missOf x.addr with
           | some m =>
             let k := s1.bay b
             ((s1.setBay b { k with miss := k.miss.filter fun y => y.line != x.addr }).answerJoiners m.joiners x.addr
               (zeros 128, true)).nextReq b
           | none => s1)
        | w => if x.gen ≠ s.waiterGen w then s1
               else s1.waiterFails w x.addr (if x.isRead then tDataEcc else tUnit) stEcc)

/-! ### Patrols -/

/-- Counts what a patrol found (R208, R218, R498). -/
def State.patrolCount (s : State) (bay corrected bad : Nat) : State := (s.bump 0x10 bay 6 corrected).bump 0x10 bay 7 bad

/-- One uncorrectable word of a bay (R498): an even number is twice the word's number in the own regions, an odd one is
twice the number of a word of device memory and one. -/
def State.bayBadWord (s : State) (bay e : Nat) : State :=
  let b := s.bay bay
  if e % 2 = 0 then
    (s.setBay bay { b with ownBad := if b.ownBad.contains (e / 2) then b.ownBad else e / 2 :: b.ownBad }).logEv 498 e
  else
    let ln := e / 32 * 128
    match b.find ln with
    | none => s
    | some l =>
      if l.kind = .home ∧ (l.dirty ∨ s.pinned bay ln) then
        (s.setBay bay (b.modLine ln fun x => { x with bad := x.bad ||| BitVec.ofNat 16 (2 ^ (e / 2 % 16)) })).logEv 498 e
      else s.flushLine bay l

/-- BAY_PATROL (R498).
[DESIGN CHOICE, log entry 74: safe] -/
def execBayPatrol (bay corrected : Nat) (bad : List Nat) (s : State) : Out :=
  onUnit (Unit.cluster bay) (bad.foldl (fun st e => st.bayBadWord bay e) (s.patrolCount bay corrected bad.length))

/-- CORE_ARRAY_PATROL (R498): a bad scratchpad word stays poisoned; a bad word of the first-level cache costs its lines. -/
def execCoreArrayPatrol (c corrected : Nat) (bad : List Nat) (s : State) : Out :=
  onUnit (Unit.core c) (
    bad.foldl (fun st w =>
      if 8 * w < (st.core c).spadSize then
        (st.modCore c fun k => { k with spadBad := if k.spadBad.contains w then k.spadBad else w :: k.spadBad }).logEv 498 w
      else st.modCore c fun k => { k with l1 := [] }) (s.patrolCount (clusterOf c) corrected bad.length))

end Sys2Proof.Machine
end

