-- ==== Sys2Proof/Machine/HbmEvents.lean ====
section
/-! DEFINITION. What the HBM controllers do: sector reads and writes with their code, refresh and on-die counts
(R286, R294 to R299, R305), and the acting temperatures they depend on (R482 to R484). -/

namespace Sys2Proof.Machine
open Sys2Proof

/-! ### Acting temperatures (R484) -/

/-- Changes a node of the thermal model. -/
def State.modNode (s : State) (n : Nat) (f : ThermNode → ThermNode) : State :=
  { s with therm := { s.therm with nodes := nset {} s.therm.nodes n (f (s.tnode n)) } }

/-- The model value of a node, its calibration offset included (R483). -/
def ThermNode.value (x : ThermNode) : Int := x.model + x.offset

/-- What the sensors of a node read, failed ones aside (R484). -/
def ThermNode.live (x : ThermNode) : List Int := (x.sensors.filter fun e => !e.2.failed).map fun e => e.2.value

/-- The acting temperature of a node: the higher of its model value and its sensors, failed sensors aside (R484). -/
def ThermNode.acting (x : ThermNode) : Int := x.live.foldl max x.value

/-- Acting temperature of node n. -/
def State.acting (s : State) (n : Nat) : Int := (s.tnode n).acting

/-- The highest acting temperature of a list of nodes; −40 °C for none. -/
def State.hottest (s : State) (l : List Nat) : Int := l.foldl (fun m n => max m (s.acting n)) (-400)

/-- The nodes of a stack's core dies (R482). -/
def dramNodes (st : Nat) : List Nat := (List.range 4).map fun i => 421 + st * 5 + i

/-- Sets a field of a stack's channel status registers (R302). -/
def State.chanFld (s : State) (st lo n x : Nat) : State :=
  (List.range 32).foldl (fun a c => a.setCfld (offChan st c) lo n x) s

/-- tREFI halves once the hottest DRAM layer of a stack exceeds 85 °C (R299). -/
def State.trefiHalve (s : State) (st : Nat) : State :=
  if s.cfld (offChan st 0) 32 1 = 0 ∧ 850 < s.hottest (dramNodes st) then (s.chanFld st 32 1 1).bump 0x18 (st * 32) 13 1 else s

/-- tREFI is restored once that layer has stayed at or below 82 °C for 10 ms (R299). -/
def State.trefiRestore (s : State) (st : Nat) : State :=
  if s.cfld (offChan st 0) 32 1 = 1 ∧ s.hottest (dramNodes st) ≤ 820 then (s.chanFld st 32 1 0).bump 0x18 (st * 32) 13 1 else s

/-! ### Rest (R287, R299, R303) -/

/-- An all-bank refresh of a stack (R287), for each of its pseudo-channels: it catches up with what was postponed (R299). -/
def State.refreshBanks (s : State) (st : Nat) : State :=
  (List.range 32).foldl (fun (a : State) c => (a.refreshAll (st * 32 + c)).bump 0x18 (st * 32 + c) 8 2) s

/-- A stack goes into power-down (1) or self-refresh (2), or leaves its rest (0). Entry to self-refresh and exit from it come with an
all-bank refresh. -/
def State.setRest (s : State) (st m : Nat) : State :=
  let old := nget 0 s.rest st
  let s1 : State := { s with rest := nset 0 s.rest st m }
  if old = m then s else if old = 2 ∨ m = 2 then s1.refreshBanks st else s1

/-- The two stacks of a partition rest, those retired aside (R287). -/
def State.restPart (s : State) (p m : Nat) : State :=
  (List.range 2).foldl (fun (a : State) i => if a.cfld (offChan (2 * p + i) 0) 0 2 = 2 then a else a.setRest (2 * p + i) m) s

/-- The results of a stack's full training are in the NOR firmware store (R301); training comes with all-bank refreshes (R287). -/
def State.trained (s : State) (st : Nat) : State :=
  let s1 := s.refreshBanks st
  { s1 with mc := { s1.mc with trained := nset false s1.mc.trained st true } }

/-! ### Sectors -/

/-- HBM_SECTOR_READ (R295): the array gives symbols changed by the flips listed; the controller decodes the sector. -/
def hbmSectorRead (sector : Nat) (flips : List (Nat × Byte)) (s : State) : State :=
  let off := sector * 64
  if !s.backed off then s
  else ((s.upset off flips).sectorRead off).1

/-- HBM_SECTOR_READ (R295). -/
def execHbmSectorRead (sector : Nat) (flips : List (Nat × Byte)) (s : State) : Out := .next (hbmSectorRead sector flips s)

/-- HBM_SECTOR_WRITE (R296): the bytes from start that lie in the sector; the code and the counters follow sectorPut. -/
def execHbmSectorWrite (sector start : Nat) (bytes : List Byte) (s : State) : Out :=
  .next (
    let off := sector * 64
    let bs := bytes.take (64 - start)
    if !s.backed off || bs.isEmpty || decide (64 ≤ start) then s
    else
      let places := (s.sectorBytes off).drop start
      (List.range bs.length).foldl (fun st i => st.hbmPut (places.getD i 0) (bs.getD i 0)) (s.sectorPut off bs.length false))

/-! ### Refresh and on-die counts -/

/-- HBM_REFRESH_DUE (R299, R319): a busy bank postpones at most 4 refreshes; what is issued catches up with all of them. Where the
fourth is postponed, an engine that runs a step in the channel ends it at the next row boundary.
[DEDUCED, log entry 133: safe] -/
def execHbmRefreshDue (stack channel pc bank : Nat) (busy : Bool) (s : State) : Out :=
  onUnit (Unit.stack stack && Unit.channel channel && decide (pc < 2)) (
    let unit := stack * 32 + channel
    let key := (unit * 2 + pc) * 65536 + bank
    let n := nget 0 s.refresh key
    let s1 := s.trefiHalve stack
    if busy ∧ n < 4 then
      let s2 := ({ s1 with refresh := nset 0 s1.refresh key (n + 1) }).bump 0x18 unit 9 1
      if n = 3 ∧ (s.nb stack).cur.isSome then s2.setNb stack { s2.nb stack with cuts := (s2.nb stack).cuts ++ [channel] } else s2
    else ({ s1 with refresh := nset 0 s1.refresh key 0 }).bump 0x18 unit 8 (n + 1))

/-- HBM_ODECC_POLL (R298): one count for each channel. -/
def execHbmOdeccPoll (stack : Nat) (counts : List Nat) (s : State) : Out :=
  onUnit (Unit.stack stack) ((List.range 32).foldl (fun st c => st.bump 0x18 (stack * 32 + c) 7 (counts.getD c 0)) s)

end Sys2Proof.Machine
end

