-- ==== Sys2Proof/Machine/Hints.lean ====
section
/-! DEFINITION. The sill cache hints (R230 to R234, R239): majors 0x98 to 0x9B. -/

namespace Sys2Proof.Machine
open Sys2Proof

/-- The fields of a hint (R239).
[DEDUCED, log entry 39: unsafe] -/
def hintLegal (who : Agent) (f : FormA) (dst : Bool) : Bool :=
  (if dst then predOk f.dst else f.dst == 0) && regOk who f.src1 && regOk who f.src2 && f.src3 == 0 && f.func == 0 &&
  f.type == 0 && bitsN f.mod.toNat 11 5 == 0 && bitsN f.mod.toNat 1 7 == 0

/-- CLASS of a hint. -/
def hintClass (f : FormA) : Nat := bitsN f.mod.toNat 8 3
/-- HOME of a hint. -/
def hintHome (f : FormA) : Bool := bitsN f.mod.toNat 0 1 == 1

/-- The lines of a hint's range, by the number the bays know them under. -/
def State.hintLines (s : State) (addr len : Nat) : List Nat :=
  (blocksOf 128 addr len).map fun a => if a / 2 ^ 44 = s.moduleId then a % 2 ^ 44 else remoteLine a

/-- A hint's course (R239): RANGE outside space 0x0, UNIT for its length, then the effect on address and length. -/
def hint (who : Agent) (f : FormA) (dst : Bool) (eff : Nat → Nat → Nat → State → State) (s : State) : Out :=
  issueScalar who (hintLegal who f dst) f.pred f.pneg (fun c s1 =>
    let k := s1.core c
    let addr := (k.sreg f.src1.toNat).toNat
    let len := (k.sreg f.src2.toNat).toNat
    if 2 ^ 56 ≤ addr then s1.trap c tRange addr
    else if len = 0 ∨ 0x400000 < len then s1.trap c tUnit addr
    else eff c (if addr / 2 ^ 44 = s1.moduleId then s1.moduleId * 2 ^ 44 + s1.fwd k (addr % 2 ^ 44) len else addr) len s1) s

/-- The partition that a hint wakes: the first sleeping one that holds a line of its range. -/
def State.hintSleeper (s : State) (lines : List Nat) : Option Nat :=
  (lines.find? fun ln => !isRemoteLine ln && s.backed ln && s.asleep (partOfOff ln) && !s.doorAt ln).map partOfOff

/-- CH.PF (R239). -/
def execChPf (who : Agent) (f : FormA) (s : State) : Out :=
  hint who f false (fun c addr len s1 =>
    let s2 := (s1.hintLines addr len).foldl (fun st ln => (st.sillFill c ln (hintClass f) (hintHome f)).1) s1
    s2.modCore c Core.retire) s

/-- What CH.PIN has done so far: the state and whether it stopped. -/
abbrev PinAcc := State × Bool

/-- Whether CH.PIN passes over a line (R17, R61, R232): the module does not back it, it is remote to the core's tower, its door is
closed, or the core may not read it. -/
def State.pinPasses (s : State) (c ln : Nat) : Bool :=
  isRemoteLine ln || !s.backed ln || towerOfOff ln != clusterOf c / 672 || s.doorAt ln ||
  !(s.mayBytes (s.core c) ln 128 false).any id

/-- The bay in which CH.PIN pins a line (R231, R239). -/
def State.pinBay (s : State) (c ln : Nat) (home : Bool) : Nat := if !home && s.replicable ln then clusterOf c else s.homeBay ln

/-- Whether CH.PIN waits for the fill of a line, or for a free miss entry (R225). -/
def State.pinWaits (s : State) (c ln : Nat) (home : Bool) : Bool :=
  let b := s.bay (s.pinBay c ln home)
  !s.pinPasses c ln && (b.find ln).isNone && ((b.missOf ln).isSome || decide (64 ≤ b.miss.length))

/-- The fill of a line that a pin asks for (R225, R232): a miss entry of its bay, and the home bay's answer where that is another. -/
def State.pinFill (s : State) (bay ln cls : Nat) : State × Bool :=
  let s1 := s.sillC bay sillMiss cls 1
  (if s1.homeBay ln = bay then s1 else s1.readAt (s1.homeBay ln) ln cls id).fillLine bay ln cls false true

/-- CH.PIN's work on one line (R231, R232): refused lines are counted and passed over, the first line beyond the cap
stops it. -/
def chPinLine (c cls : Nat) (home : Bool) (acc : PinAcc) (ln : Nat) : PinAcc :=
  let (s, stopped) := acc
  if stopped then acc
  else
    let cl := clusterOf c
    if s.pinPasses c ln then
      ((if isRemoteLine ln || s.backed ln then s else s.logEv 17 ln).sill cl sillPinRefused 1, false)
    else
      let bay := s.pinBay c ln home
      let pin (st : State) : PinAcc :=
        (st.modCore c fun k => { k with chPins := k.chPins ++ [{ bay := bay, line := ln }] }, false)
      if s.pinned bay ln then pin s
      else if 12 ≤ s.capUsed bay ln then (s.sill bay sillPinRefused 1, true)
      else if ((s.bay bay).find ln).isSome then pin s
      else
        match s.pinFill bay ln cls with
        | (s1, true) => pin s1
        | (s1, false) => (s1.sill bay sillPinRefused 1, true)

/-- CH.PIN (R232, R239). -/
def execChPin (who : Agent) (f : FormA) (s : State) : Out :=
  hint who f true (fun c addr len s0 => s0.whenFree c [f.dst.toNat] [] fun s1 =>
    let lines := s1.hintLines addr len
    match s1.hintSleeper lines with
    | some p => (s1.demandWake p).stallAt c 4
    | none =>
      if lines.any fun ln => s1.pinWaits c ln (hintHome f) then s1.stallAt c 4
      else
      let r := lines.foldl (chPinLine c (hintClass f) (hintHome f)) (s1, false)
      r.1.retireWith c fun k => k.setP f.dst.toNat (!r.2)) s

/-- CH.UNPIN (R231): the issuer's own pins on the range go. -/
def execChUnpin (who : Agent) (f : FormA) (s : State) : Out :=
  hint who f false (fun c addr len s1 =>
    let lines := s1.hintLines addr len
    s1.retireWith c fun k => { k with chPins := k.chPins.filter fun x => !lines.contains x.line }) s

/-- Whether a store of a core that has not reached its home bay touches a device range (R234). -/
def Core.storeIn (k : Core) (addr len : Nat) : Bool :=
  k.stores.any fun w => decide (w.addr < addr + len) && decide (addr < w.addr + w.bytes.length)

/-- CH.DEAD (R233, R234, R237): behind the core's own stores to the range; under an open epoch it is held. -/
def execChDead (who : Agent) (f : FormA) (s : State) : Out :=
  hint who f false (fun c addr len s1 =>
    let k := s1.core c
    if k.storeIn (addr / 128 * 128) (len + 256) then s1.stallAt c 4
    else if k.epoch ≠ 0 ∧ s1.provisional k.epoch then s1.modCore c fun x => { x.retire with deads := x.deads ++ [(addr, len, k.fnOf)] }
    else
      match s1.hintSleeper (s1.hintLines addr len) with
      | some p => (s1.demandWake p).stallAt c 4
      | none =>
        let s2 := if addr / 2 ^ 44 = s1.moduleId then
            s1.deadLines (addr % 2 ^ 44) len fun ln => s1.devMay k ln 128 true
          else s1
        s2.modCore c Core.retire) s

end Sys2Proof.Machine
end

