-- ==== Sys2Proof/Machine/Alloc.lean ====
section
/-! DEFINITION. Which device memory is free and where the module puts regions and tensors (R16, R64, R65, R289, R293,
R380): a first fit over the free ranges, the model's choice among those the manual leaves to the module (R62). -/

namespace Sys2Proof.Machine
open Sys2Proof

/-- Bytes that bring-up reserves at the start of a usable partition for the spill area (R90) and for the door hold and dump
areas of other partitions (R508). -/
def reservedBytes : Nat := 0x9000000

/-- The ranges of a partition that hold no general object: all of it when unusable, zone N, and what its map does not back
(R289, R293, R438). -/
def State.partHoles (s : State) (p : Nat) : List (Nat × Nat) :=
  let b := p * partBytes
  let cl := s.clSteps p * stepBytes
  if s.unusable p then [(b, partBytes)]
  else
    (b, reservedBytes) :: (match s.hbmMode p with
      | 0 => [(b + 2 * (stackBytes - cl), cl)]
      | 1 => [(b + stackBytes - cl, partBytes - stackBytes + cl)]
      | 2 => [(b + stackBytes, partBytes - stackBytes)]
      | _ => [(b, partBytes)])

/-- The ranges that the committed image holds outside zone N: its tensors in HBM, its code and its table sets (R111, R380). -/
def State.imageRanges (s : State) : List (Nat × Nat) :=
  match s.img.image with
  | none => []
  | some im =>
    (im.codeBase, im.codeLen) :: (im.tableBase, im.tableBytes.length) :: (im.tensors.filter fun t => t.location == 0 && t.kind != 1).map fun t => (t.base, t.bytes)

/-- The ranges of READY regions (R64). -/
def State.regionRanges (s : State) : List (Nat × Nat) :=
  (s.regions.filter fun e => fld e.2.attr 56 2 == 2).map fun e => (e.2.base, e.2.size)

/-- The general objects in HBM. -/
def State.objects (s : State) : List (Nat × Nat) := s.imageRanges ++ s.regionRanges

/-- The ranges that a migration holds in other partitions (R524). -/
def State.evacRanges (s : State) : List (Nat × Nat) :=
  match s.mc.mig with
  | some m => m.temp
  | none => []

/-- Every range that is not free. -/
def State.usedRanges (s : State) : List (Nat × Nat) := ((List.range 8).flatMap s.partHoles) ++ s.evacRanges ++ s.objects

/-- A number rounded up to a multiple. -/
def alignUp (a n : Nat) : Nat := (a + n - 1) / n * n

/-- Whether a range is free of every used one. -/
def clearOf (used : List (Nat × Nat)) (b n : Nat) : Bool := used.all fun u => u.2 == 0 || decide (b + n ≤ u.1) || decide (u.1 + u.2 ≤ b)

/-- A free range of n bytes, aligned, within [lo, hi): the lowest one that begins at lo or behind a used range. -/
def fitIn (used : List (Nat × Nat)) (lo hi n al : Nat) : Option Nat :=
  ((lo :: used.map fun u => u.1 + u.2).map fun b => alignUp b al).foldl (fun best b =>
    if lo ≤ b ∧ b + n ≤ hi ∧ clearOf used b n then
      match best with
      | some x => some (min x b)
      | none => some b
    else best) none

/-- A list of ranges with one more, by rising base. -/
def insRange (r : Nat × Nat) : List (Nat × Nat) → List (Nat × Nat)
  | [] => [r]
  | u :: rest => if r.1 ≤ u.1 then r :: u :: rest else u :: insRange r rest

/-- The gaps from lo to hi between ranges of rising base. -/
def gaps (lo hi : Nat) : List (Nat × Nat) → List (Nat × Nat)
  | [] => if lo < hi then [(lo, hi - lo)] else []
  | u :: rest =>
    if u.2 = 0 then gaps lo hi rest
    else if lo < u.1 then (lo, u.1 - lo) :: gaps (max lo (u.1 + u.2)) hi rest
    else gaps (max lo (u.1 + u.2)) hi rest

/-- The ranges that the staging session holds (R384). -/
def State.stagedRanges (s : State) : List (Nat × Nat) :=
  match s.img.session with
  | some x => x.2
  | none => []

/-- The free ranges of HBM. -/
def State.freeRanges (s : State) : List (Nat × Nat) :=
  gaps 0 hbmEnd ((s.usedRanges ++ s.stagedRanges).foldr insRange [])

/-- HBM bytes free for regions (R380 FREE_HBM). -/
def State.freeHbm (s : State) : Nat := (s.freeRanges.map (·.2)).sum

/-- The first n bytes of a list of ranges, as ranges; nothing where they hold fewer. -/
def takeBytes : Nat → List (Nat × Nat) → Option (List (Nat × Nat))
  | 0, _ => some []
  | _ + 1, [] => none
  | n + 1, u :: r => if n + 1 ≤ u.2 then some [(u.1, n + 1)] else (takeBytes (n + 1 - u.2) r).map (u :: ·)

/-- A place for n bytes: in the preferred partition if it has room, else anywhere (R64, R65).
[DESIGN CHOICE, log entry 65: unsafe] -/
def State.place (s : State) (hint n al : Nat) : Option Nat :=
  if s.freeHbm < n then none
  else
    let used := s.usedRanges ++ s.stagedRanges
    match (if hint < 8 then fitIn used (hint * partBytes) ((hint + 1) * partBytes) n al else none) with
    | some b => some b
    | none => fitIn used 0 hbmEnd n al

/-- Fills a device range with zeros that carry correct check bytes (R65, R440). -/
def State.zeroRange (s : State) (off n : Nat) : State :=
  { s with mem := clrBytes s.mem off n, chk := s.chk.filter fun e => decide (e.1 + 64 ≤ off) || decide (off + n ≤ e.1) }

/-- Removes every pin on a device range (R238). -/
def State.unpinRange (s : State) (off n : Nat) : State :=
  let keep (x : ChPinned) : Bool := decide (x.line + 128 ≤ off) || decide (off + n ≤ x.line)
  { s with
    fns := s.fns.map fun (e : Nat × Fn) => (e.1, { e.2 with pins := (e.2.pins.map fun (r : PinRange) =>
      { r with lines := r.lines.filter keep }) })
    cores := s.cores.map fun (e : Nat × Core) => (e.1, { e.2 with chPins := e.2.chPins.filter keep }) }

end Sys2Proof.Machine
end

