-- ==== Sys2Proof/Machine/Letterbox.lean ====
section
/-! DEFINITION. The letterboxes as the host sees them: the taking of entries, doorbells, enable and disable, interrupts,
region tables and the aperture (R64, R65, R350 to R365, R373 to R377, R422, R531). -/

namespace Sys2Proof.Machine
open Sys2Proof

/-! ### Opcodes (R376) -/

/-- Opcodes of R376: its number, whether only PF0 may send it, whether it is stepped, whether it may be cancelled. -/
def opTable : List (Nat × Bool × Bool × Bool) :=
  [(0x01, false, false, false), (0x02, false, false, false), (0x03, true, false, false), (0x04, false, false, false),
   (0x10, true, false, false), (0x11, true, true, true), (0x12, true, true, false), (0x13, true, true, false),
   (0x14, true, true, false), (0x20, false, false, true), (0x21, false, false, true), (0x22, false, false, false),
   (0x23, false, false, false), (0x24, false, false, false), (0x28, false, false, false), (0x30, false, true, true),
   (0x31, false, true, true), (0x32, true, true, true), (0x33, false, true, true), (0x34, false, false, false),
   (0x40, true, false, false), (0x41, true, false, false), (0x48, true, true, false), (0x49, true, false, false),
   (0x50, true, false, false), (0x51, true, false, false), (0x52, true, true, false), (0x53, true, false, false),
   (0x54, true, true, true)] ++
  [(0x60, true, true, false), (0x61, true, true, true), (0x62, true, true, false), (0x63, true, true, true),
   (0x64, true, true, false), (0x65, true, true, false), (0x70, false, true, false), (0x71, false, false, false),
   (0x72, true, false, false), (0x78, true, false, false), (0x79, true, false, false), (0x80, true, true, false),
   (0x81, true, true, false), (0x82, true, true, false), (0x83, true, false, false), (0xF0, false, false, false)]

/-- The row of an opcode. -/
def opRow (op : Nat) : Option (Nat × Bool × Bool × Bool) := opTable.find? (·.1 == op)

/-- Whether an opcode's command is stepped (R376). -/
def opStepped (op : Nat) : Bool := (opRow op).any fun r => r.2.2.1

/-- Whether an opcode's command is cancellable (R376). -/
def opCancellable (op : Nat) : Bool := (opRow op).any fun r => r.2.2.2

/-- The commands that run in vestibule mode (R422). -/
def opVestibule (op : Nat) : Bool := [0x01, 0x02, 0x03, 0x04, 0xF0, 0x78, 0x79, 0x63, 0x53].contains op

/-- BRINGUP_STATUS.STAGE (R449). -/
def State.stage (s : State) : Nat := s.cfld offBringup 0 3

/-- The opcode of the shared-state operation in flight: a command, or a MIGRATE of the module's own (R377, R527). -/
def State.sharedOp (s : State) : Option (Nat × Nat) :=
  match s.cmds.find? (fun c => opShared c.opcode) with
  | some c => some (c.opcode, c.tag.toNat)
  | none => match s.mc.mig with
    | some _ => some (0x65, 0)
    | none => none

/-- Whether an entry conflicts with the shared-state operation in flight (R377). -/
def State.conflicts (s : State) (c : Cmd) : Bool :=
  match s.sharedOp with
  | none => false
  | some (o, _) =>
    opShared c.opcode || c.opcode == 0x10 || c.opcode == 0x11 || c.opcode == 0x14 || c.opcode == 0x52 ||
    (c.opcode == 0x48 && c.at_ 0x12 1 == 3) ||
    ((c.opcode == 0x20 || c.opcode == 0x21) && (o == 0x12 || o == 0x13))

/-- Whether the module is the standby of a pair, or was demoted to it (R531, R533). -/
def State.standby (s : State) : Bool := s.cfld offPair 0 3 == 5 || (s.cfld offPair 0 3 != 0 && s.cfld offPair 8 1 == 1)

/-- The first field of an entry's common part that breaks R357. -/
def Cmd.badCommon (c : Cmd) : Option Nat :=
  if 16 ≤ c.flags then some 0x01
  else if c.wantsSlot ∧ 4032 < c.resultLen then some 0x04
  else if c.wantsSlot ∧ 256 ≤ c.resultAddr then some 0x08
  else if !c.wantsSlot ∧ (c.resultAddr % 8 ≠ 0 ∨ (c.resultLen = 0 ∧ c.resultAddr ≠ 0)) then some 0x08
  else none

/-- The 64-byte entry that a letterbox takes becomes a command in flight, or ends at once: BAD_OPCODE, BUSY in vestibule
mode, NOT_PRIVILEGED, BAD_PARAM, BUSY for a slot not EMPTY, for a conflict, or on a standby (R357, R361, R376, R377, R422,
R531). -/
def State.takeEntry (s : State) (f : Nat) (entry : List Byte) : State :=
  let id := s.mc.nextCmd
  let c : Cmd := { id := id, fn := f, entry := entry }
  let s1 := ({ s with cmds := s.cmds ++ [c], mc := { s.mc with nextCmd := id + 1 } }).bump 0x30 f lbTaken 1
  match opRow c.opcode with
  | none => s1.finish id stBadOpcode
  | some r =>
    if s.pcie.vestibule && !opVestibule c.opcode then s1.complete id stBusy (w64 (s.stage * 2 ^ 32)) []
    else if r.2.1 && f != 0 then s1.finish id stNotPrivileged
    else
      match c.badCommon with
      | some o => s1.badField id o
      | none =>
        if c.wantsSlot && ((s.fn f).slot c.slotIx).st != 0 then s1.finish id stBusy
        else
          let s2 := if c.wantsSlot then (s1.slotFilling f c.slotIx c.tag).modCmd id fun x => { x with tookSlot := true } else s1
          if s.conflicts c || (s.standby && [0x20, 0x21, 0x30, 0x31, 0x33].contains c.opcode) then s2.finish id stBusy
          else s2

/-- Free completion entries of a letterbox (R361). -/
def Fn.freeComps (x : Fn) : Nat := x.cqN - 1 - (x.cqTail + x.cqN - x.dbHead % x.cqN) % x.cqN

/-- Whether a letterbox has an entry that may be taken (R355, R361, R371). An entry waits for the aperture writes of its
function that came before (R369). -/
def State.sqReady (s : State) (f : Nat) : Bool :=
  let x := s.fn f
  decide (x.st = .running) && x.bme && s.pcie.l0 && !x.d3 && s.power.descent == 0 && x.sqHead != x.dbTail && decide (s.inflight f < 256) &&
  decide (s.inflight f < x.freeComps) && !s.writes.any (·.fn == f)

/-- The letterbox whose turn it is (R60, R361).
[DEDUCED, log entry 124: unsafe] -/
def State.sqTurn (s : State) : Option Nat := ((List.range 16).map fun i => (s.mc.turn + 1 + i) % 16).find? s.sqReady

/-- A failed read of the submission ring (R355, R365). -/
def State.fetchFails (s : State) (f : Nat) : State := (s.modFn f fun x => { x with fetchError := true, st := .error }).event f

/-- SQ_ENTRY_TAKEN (R361). -/
def execSqEntryTaken (f : Nat) (s : State) : Out :=
  onUnit (Unit.fn f) (
    if s.sqTurn ≠ some f then s
    else
      let x := s.fn f
      let s1 := { s with mc := { s.mc with turn := f } }
      match s.hostRead (x.sqBase.toNat + 64 * x.sqHead) 64 with
      | none => s1.fetchFails f
      | some e => (s1.modFn f fun y => { y with sqHead := (y.sqHead + 1) % y.sqN }).takeEntry f e)

/-- SQ_FETCH_FAILURE (R355). -/
def execSqFetchFailure (f : Nat) (s : State) : Out :=
  onUnit (Unit.fn f) (if s.sqReady f then s.fetchFails f else s)

/-- COALESCE_TIMEOUT (R365). -/
def execCoalesceTimeout (f : Nat) (s : State) : Out :=
  onUnit (Unit.fn f) (if (s.fn f).unsignalled = 0 ∨ fld (s.fn f).ringCfg 48 8 = 0 then s else s.signal f)

/-- PROGRESS_COMPLETION (R364): only with an entry to spare beyond those that R361 reserves. -/
def execProgressCompletion (cmd : Nat) (s : State) : Out :=
  .next (match s.cmd cmd with
    | none => s
    | some c =>
      let x := s.fn c.fn
      if !c.progress || !opStepped c.opcode || c.mute || c.steps == 0 || !x.bme || x.held then s
      else if s.inflight c.fn < x.freeComps then
        s.writeComp c.fn { tag := c.tag, status := stInProgress, opcode := c.opcode, length := 0,
                           detail := w64 (c.steps * 2 ^ 32), trunc := false, slot := c.tookSlot, irqNow := false }
      else s.bump 0x30 c.fn lbSkipped 1)

/-- Sends the pending message of an unmasked vector (R365). -/
def State.sendPending (s : State) (f v : Nat) : State :=
  let m := (s.fn f).vec v
  if m.pending && !m.masked && (s.fn f).bme then
    (s.modFn f fun x => { x with msix := nset {} x.msix v { m with pending := false, owed := false } }).message f m m.owed
  else s

/-- A vector's mask bit changes; unmasking sends what is pending (R365). -/
def State.maskVector (s : State) (f v : Nat) (masked : Bool) : State :=
  (s.modFn f fun x => { x with msix := nset {} x.msix v { x.vec v with masked := masked } }).sendPending f v

/-- MSIX_VECTOR_UNMASK (R365). -/
def execMsixVectorUnmask (f v : Nat) (s : State) : Out :=
  onUnit (Unit.fn f) (if v < 64 ∧ s.pcie.l0 then s.maskVector f v false else s)

/-! ### Enable, disable, doorbells -/

/-- Whether the host reaches a function's windows. -/
def State.hostReaches (s : State) (f : Nat) : Bool := s.pcie.l0 && (s.fn f).enabled && !(s.fn f).d3

/-- ENABLE written as 1 (R355, R422). -/
def State.lbEnable (s : State) (f : Nat) : State :=
  let x := s.fn f
  let ok := x.sqBase.toNat % 4096 == 0 && x.cqBase.toNat % 4096 == 0 && decide (6 ≤ fld x.ringCfg 0 5) &&
    decide (fld x.ringCfg 0 5 ≤ 16) && decide (6 ≤ fld x.ringCfg 8 5) && decide (fld x.ringCfg 8 5 ≤ 16) &&
    (f == 0 || !s.pcie.vestibule)
  let s : State := s.modFn f fun y => { y with enable := true }
  if x.st ≠ .disabled then s
  else if ok then
    s.modFn f fun y => { y with sqHead := 0, cqTail := 0, dbTail := 0, dbHead := 0, cqPhase := true, unsignalled := 0,
                                st := .running }
  else (s.modFn f fun y => { y with cfgError := true }).event f

/-- LB_ENABLE (R355). -/
def execLbEnable (f : Nat) (s : State) : Out := onUnit (Unit.fn f) (if s.hostReaches f then s.lbEnable f else s)

/-- ENABLE written as 0 (R355). -/
def State.lbDisable (s : State) (f : Nat) : State :=
  let s : State := s.modFn f fun y => { y with enable := false }
  let x := s.fn f
  if x.st = .running ∨ x.st = .error then (s.modFn f fun y => { y with st := .stopping }).settle f else s

/-- LB_DISABLE (R355). -/
def execLbDisable (f : Nat) (s : State) : Out := onUnit (Unit.fn f) (if s.hostReaches f then s.lbDisable f else s)

/-- A refused doorbell write (R360, R372). -/
def State.dbRefused (s : State) (f : Nat) : State :=
  ((s.modFn f fun x => { x with dbError := true }).bump 0x30 f lbDbErrors 1).event f

/-- DOORBELL_SQ_TAIL (R360). -/
def State.sqTail (s : State) (f : Nat) (v : W32) : State :=
  let x := s.fn f
  let n := x.sqN
  let t := v.toNat
  if t < n ∧ (x.dbTail + n - x.sqHead % n) % n ≤ (t + n - x.sqHead % n) % n then s.modFn f fun y => { y with dbTail := t }
  else s.dbRefused f

/-- DOORBELL_SQ_TAIL (R360). -/
def execDoorbellSqTail (f : Nat) (v : W32) (s : State) : Out :=
  onUnit (Unit.fn f) (if s.hostReaches f then s.sqTail f v else s)

/-- DOORBELL_CQ_HEAD (R360). -/
def State.cqHead (s : State) (f : Nat) (v : W32) : State :=
  let x := s.fn f
  let n := x.cqN
  let h := v.toNat
  if h < n ∧ (x.cqTail + n - h) % n ≤ (x.cqTail + n - x.dbHead % n) % n then s.modFn f fun y => { y with dbHead := h }
  else s.dbRefused f

/-- DOORBELL_CQ_HEAD (R360). -/
def execDoorbellCqHead (f : Nat) (v : W32) (s : State) : Out :=
  onUnit (Unit.fn f) (if s.hostReaches f then s.cqHead f v else s)

/-- A write to LB_STATUS: its RW1C bits (R12, R354); with a reserved bit set which of them clear is open (R13). -/
def State.lbStatusWrite (s : State) (f : Nat) (v : W64) : State :=
  let bad := bitsN v.toNat 8 8 != 0 || bitsN v.toNat 6 1 != 0
  let w := if bad then s.draw else v.toNat
  let s1 := if bad then s.drew else s
  s1.modFn f fun x => { x with
    fetchError := x.fetchError && bitsN w 3 1 == 0
    cfgError := x.cfgError && bitsN w 4 1 == 0
    dbError := x.dbError && bitsN w 5 1 == 0 }

/-- LB_STATUS_ERROR_CLEAR (R354). -/
def execLbStatusErrorClear (f : Nat) (v : W64) (s : State) : Out :=
  onUnit (Unit.fn f) (if s.hostReaches f then s.lbStatusWrite f v else s)

/-! ### Region tables (R64, R65) -/

/-- The RW fields of REGION_ATTR (R64). -/
def regionRw : W64 := 0xE00000F0FFFFFFFF

/-- STATE of a region entry. -/
def Region.state (r : Region) : Nat := fld r.attr 56 2

/-- VALID of a region entry. -/
def Region.valid (r : Region) : Bool := r.attr.getLsbD 63

/-- A region entry with new fields and a STATE. -/
def Region.store (r : Region) (v : W64) (st : Nat) : Region := { r with attr := setFld (v &&& regionRw) 56 2 st }

/-- A write to REGION_ATTR of an enabled function's table (R65). -/
def Region.write (r : Region) (v : W64) (next : Nat) : Region :=
  let valid := v.getLsbD 63
  let size := fld v 0 32
  match r.state with
  | 0 => if valid then (if size = 0 then r else r.store v 1) else r.store v 0
  | 1 => if valid then r else { r with attr := setFld r.attr 63 1 0 }
  | 2 => if valid || !r.valid then r else { r with attr := setFld r.attr 63 1 0, rel := next }
  | _ => if valid then (if size = 0 then r else r.store v 1) else {}

/-- Whether a write to REGION_ATTR is logged (R65): no effect although it asks for one. -/
def Region.logged (r : Region) (v : W64) : Bool :=
  let valid := v.getLsbD 63
  let same := v &&& regionRw == r.attr &&& regionRw
  match r.state with
  | 0 => valid && fld v 0 32 == 0
  | 1 => valid && !same
  | 2 => valid && (!r.valid || !same)
  | _ => valid && fld v 0 32 == 0

/-- Reserved bits of REGION_ATTR (R64). -/
def regionReserved : W64 := 0x1CFFFF0F00000000

/-- A write to REGION_ATTR through a function's control window (R65, R422, R531); a reserved bit set leaves the entry's RW
fields open (R13). -/
def State.regionWrite (s : State) (by_ f i : Nat) (v : W64) : State :=
  if by_ ≠ 0 ∨ s.pcie.vestibule then s
  else if s.standby || !(s.fn f).enabled then s.logEv 65 (f * 64 + i)
  else
    let r := s.region f i
    if v &&& regionReserved ≠ 0 then
      (s.setRegion f i { r with attr := (r.attr &&& ~~~regionRw) ||| (w64 s.draw &&& regionRw) }).drew
    else
      let s1 := s.setRegion f i (r.write v s.mc.nextCmd)
      if r.logged v then s1.logEv 65 (f * 64 + i)
      else if s.mirrors && r.write v s.mc.nextCmd != r then s1.sendStep noLetterbox 0 [] (some (f, i, v))
      else s1

/-- REGION_ATTR_WRITE (R65). -/
def execRegionAttrWrite (by_ f i : Nat) (v : W64) (s : State) : Out :=
  onUnit (Unit.fn by_ && Unit.fn f && Unit.region i) (if s.hostReaches by_ then s.regionWrite by_ f i v else s)

/-- Bytes of the standby's free HBM that mirrored regions take or give back (R530). -/
def State.twinRoom (s : State) (taken given : Nat) : State :=
  if s.mirrors then { s with pair := { s.pair with room := s.pair.room + given - taken } } else s

/-- Whether the step that told the standby of a region-table change is still unacknowledged (R530). -/
def State.tablePending (s : State) (f i : Nat) : Bool :=
  s.pair.sent.any fun (m : MirrorStep) => m.table.any fun t => t.1 == f && t.2.1 == i

/-- REGION_ALLOCATION_END (R65, R530): placed and filled with zeros, or NO_SPACE; on an active twin only once the standby has
allocated it too, and NO_SPACE where the standby lacks room. -/
def execRegionAllocationEnd (f i : Nat) (s : State) : Out :=
  onUnit (Unit.fn f && Unit.region i) (
    let r := s.region f i
    if r.state ≠ 1 ∨ !r.valid ∨ (s.mirrors && s.tablePending f i) then s
    else
      match (if s.mirrors && decide (s.pair.room < r.size) then none else s.place (fld r.attr 36 4) r.size 65536) with
      | some b => ((s.zeroRange b r.size).twinRoom r.size 0).setRegion f i { r with attr := setFld r.attr 56 2 2, base := b }
      | none => s.setRegion f i { r with attr := setFld r.attr 56 2 3 })

/-- The region indices that a COPY, FILL or PIN names (R65, R393). -/
def Cmd.regions (c : Cmd) : List Nat :=
  match c.opcode with
  | 0x30 => (if c.at_ 0x10 1 = 1 then [c.at_ 0x12 1] else []) ++ (if c.at_ 0x11 1 = 1 then [c.at_ 0x13 1] else [])
  | 0x31 => [c.at_ 0x10 1]
  | 0x33 => if c.at_ 0x10 1 = 0 then [c.at_ 0x11 1] else []
  | _ => []

/-- Whether a run or command taken before a release write still uses the region (R65).
[DEDUCED, log entry 70: safe] -/
def State.regionUsed (s : State) (f i rel : Nat) : Bool :=
  s.runs.any (fun r => r.fn == f && decide (r.st ≠ .ended) && decide (r.cmd < rel) && r.bindings.any fun b => b.region == i) ||
  s.cmds.any fun c => c.fn == f && decide (c.id < rel) && c.regions.contains i

/-- The end of a release (R65, R231, R238): the range's lines are dropped, pins and PIN ranges on it go, its contents are
discarded, and the entry returns to its reset values. -/
def State.regionEnd (s : State) (f i : Nat) : State :=
  let r := s.region f i
  let s1 := ((s.invalRange r.base r.size true).unpinRange r.base r.size).zeroRange r.base r.size
  let s2 := s1.modFn f fun x => { x with pins := x.pins.filter fun p => !(p.kind == 0 && p.object == i) }
  (s2.twinRoom 0 r.size).setRegion f i {}

/-- REGION_RELEASE_END (R65). -/
def execRegionReleaseEnd (f i : Nat) (s : State) : Out :=
  onUnit (Unit.fn f && Unit.region i) (
    let r := s.region f i
    if r.state ≠ 2 ∨ r.valid ∨ s.regionUsed f i r.rel then s else s.regionEnd f i)

/-- ALLOCATION_CANCEL_END (R65). -/
def execAllocationCancelEnd (f i : Nat) (s : State) : Out :=
  onUnit (Unit.fn f && Unit.region i) (
    let r := s.region f i
    if r.state ≠ 1 ∨ r.valid then s else s.setRegion f i {})

/-! ### The aperture (R356, R418, R499) -/

/-- The device offset that an aperture byte of a function reaches, where the access may proceed (R61, R356, R422). -/
def State.apertureAt (s : State) (f x : Nat) (write : Bool) : Option Nat :=
  let sel := (s.fn f).aperture
  let r := s.region f (fld sel 48 6)
  let o := fld sel 0 32 * 65536 + x
  if s.pcie.vestibule || fld sel 63 1 == 0 || !r.ready s.mc.nextCmd || decide (r.size ≤ o) ||
     (if write then fld r.attr 62 1 == 0 else fld r.attr 61 1 == 0) then none
  else some (r.base + o)

/-- Notes what an aperture read returned. -/
def State.answerRead (s : State) (bs : List Byte) (bad : Bool) : State := { s with mc := { s.mc with lastRead := some (bs, bad) } }

/-- APERTURE_READ (R17, R61, R222, R356, R369, R476, R499): what passes is read at the home bays in class 7; refused bytes read 0; a closed door or poison marks the read poisoned; a
sleeping partition wakes and the read waits, as it does for the function's own earlier writes. -/
def apertureRead (f x n : Nat) (s : State) : State :=
  if !s.hostReaches f || decide (0x1000000000 < x + n) || s.writes.any (·.fn == f) then s
  else
    let at_ := (List.range n).map fun i => (s.apertureAt f (x + i) false).filter s.backed
    match at_.find? (fun o => o.any fun a => s.doorAt a) with
    | some _ => s.answerRead (zeros n) true
    | none =>
      match (at_.filterMap id).find? (fun a => s.asleep (partOfOff a)) with
      | some a => s.demandWake (partOfOff a)
      | none =>
        let bs := at_.map fun o => match o with
          | some a => nget 0 s.mem a
          | none => 0
        let bad := at_.any fun o => o.any s.wordPoison
        let s1 := if at_.all (·.isSome) then s else s.refuse f
        ((((at_.filterMap id).map lineOf).eraseDups).foldl (fun (st : State) (ln : Nat) => st.touchHome ln 7) s1).answerRead bs bad

/-- APERTURE_READ (R356). -/
def execApertureRead (f x n : Nat) (s : State) : Out := onUnit (Unit.fn f) (apertureRead f x n s)

/-- APERTURE_WRITE (R61, R356, R418, R499): what passes the fence is sent to its home bays in traffic class 7; a write at a
closed door is discarded and logged there. An active twin keeps the write for its next mirror step (R530). -/
def apertureWrite (f x : Nat) (bytes : List Byte) (s : State) : State :=
  if !s.hostReaches f || decide (0x1000000000 < x + bytes.length) then s
  else
    let at_ := (List.range bytes.length).map fun i => s.apertureAt f (x + i) true
    let s1 := if at_.all (·.isSome) then s else (s.refuse f).logEv 61 f
    match at_.filterMap id with
    | [] => s1
    | a :: r =>
      let bs := bytes.take (r.length + 1)
      let w : Store := { addr := s.moduleId * 2 ^ 44 + a, bytes := bs, cls := 7, fn := f, epoch := 0, core := 0 }
      let s2 := { s1 with writes := s1.writes ++ [w] }
      let s3 := if s2.asleep (partOfOff a) then s2.demandWake (partOfOff a) else s2
      if s.mirrors then
        let rg := fld (s.fn f).aperture 48 6
        { s3 with pair := { s3.pair with apWrites := s3.pair.apWrites ++ [(f, rg, a - (s.region f rg).base, bs)] } }
      else s3

/-- APERTURE_WRITE (R356). -/
def execApertureWrite (f x : Nat) (bytes : List Byte) (s : State) : Out := onUnit (Unit.fn f) (apertureWrite f x bytes s)

end Sys2Proof.Machine
end

