-- ==== Sys2Proof/Machine/CmdOps.lean ====
section
/-! DEFINITION. What every letterbox command shares: when it may run, the structural checks of its entry, and its reads of
host memory (R67, R362, R373, R375, R567). -/

namespace Sys2Proof.Machine
open Sys2Proof

/-- The offset of a field where its check fails. -/
def flag (bad : Bool) (o : Nat) : List Nat := if bad then [o] else []

/-- The lowest of several offsets. -/
def lowest : List Nat → Option Nat
  | [] => none
  | x :: r => some (r.foldl min x)

/-- The bytes of PARAMS outside the listed fields that are not 0 (R373). -/
def Cmd.unused (c : Cmd) (fields : List (Nat × Nat)) : List Nat :=
  (List.range 48).filterMap fun i =>
    let o := 0x10 + i
    if c.at_ o 1 ≠ 0 ∧ !fields.any (fun f => decide (f.1 ≤ o) && decide (o < f.1 + f.2)) then some o else none

/-- Whether a command has begun its turn: an ORDERED one waits for the final completion of every command taken earlier from
its letterbox (R362). -/
def State.mayBegin (s : State) (c : Cmd) : Bool :=
  !c.ordered || !s.cmds.any fun x => x.fn == c.fn && decide (x.id < c.id) && !x.mute

/-- The command in flight that carries an opcode and may run. -/
def State.cmdFor (s : State) (id op : Nat) : Option Cmd :=
  match s.cmd id with
  | some c => if c.opcode = op ∧ s.mayBegin c then some c else none
  | none => none

/-- A command row: its effect where the command is in flight with that opcode, else nothing.
[DESIGN CHOICE, log entry 11: safe] -/
def onCmd (id op : Nat) (s : State) (eff : Cmd → State) : Out :=
  .next (match s.cmdFor id op with
    | some c => eff c
    | none => s)

/-- A command whose structural checks name the offsets of the fields that fail: BAD_PARAM with the first, else its effect
(R67, R375).
[DEDUCED, log entry 121: unsafe] -/
def State.checked (s : State) (c : Cmd) (bad : List Nat) (eff : State) : State :=
  match lowest bad with
  | some o => s.badField c.id o
  | none => eff

/-- A failed read of host memory through an address field (R567): BAD_PARAM and a log entry. -/
def State.hostFails (s : State) (c : Cmd) (field : Nat) : State := (s.badField c.id field).logEv 567 c.id

/-- Writes bytes to HBM as the module's own master does, sector by sector, past the bays: the lines of the range are
invalidated first (R238, R296). -/
def State.hbmPutRange (s : State) (off : Nat) (bs : List Byte) : State := (s.invalRange off bs.length false).hbmWrite off bs

end Sys2Proof.Machine
end

