-- ==== Sys2Proof/Machine/ScalarMem.lean ====
section
/-! DEFINITION. Scalar and thread loads and stores, and tensor descriptors (R78, R81, R82, R171, R176, R177): majors
0x20 to 0x22. -/

namespace Sys2Proof.Machine
open Sys2Proof

/-- The address a Form B access adds up: base plus sign-extended IMM32 (R78). -/
def addrB (base : W64) (f : FormB) : Nat := (base + f.imm.signExtend 64).toNat

/-- Bytes of a Form B access (R78). -/
def sizeB (f : FormB) : Nat := 2 ^ bitsN f.func.toNat 0 2

/-- What a load of n bytes writes to a register: sign-extended when FUNC[2] is set (R78). -/
def loadValue (f : FormB) (bs : List Byte) : W64 :=
  if bitsN f.func.toNat 2 1 = 1 then BitVec.ofInt 64 (sextN (8 * bs.length) (leNat bs)) else w64 (leNat bs)

/-- The checks of a scalar access: RANGE before ALIGN (R81). -/
def State.checkAccess (s : State) (c addr n : Nat) : Except Nat Loc :=
  match s.resolve c addr n true with
  | none => .error tRange
  | some l => if addr % n ≠ 0 then .error tAlign else .ok l

/-- What a failed check leaves behind: a refusal under R17 is logged. -/
def State.noteFail (s : State) (cause addr : Nat) : State := if cause = tRange then s.noteRefused addr else s

/-- Requests that the accesses of a group's threads make (R177): one for each 64-byte line and target. -/
def requests (addrs : List Nat) : Nat := ((addrs.map (· / 64)).eraseDups).length

/-- What the threads of one access did so far: a state; a trap with its address and status, and the state up to it; or a wait. -/
inductive LaneAns where
  | ok (s : State)
  | trap (cause addr status : Nat) (s : State)
  | wait (wake : Option Nat)
deriving Repr

/-- What the lanes of an access, each with its address, did so far. -/
def laneFold (s : State) (xs : List (Nat × Nat)) (one : State → Nat → Nat → MemAns) : LaneAns :=
  xs.foldl (fun acc x =>
    match acc with
    | .ok st =>
      match one st x.1 x.2 with
      | .ok _ st1 => .ok st1
      | .trap cause status st1 => .trap cause x.2 status st1
      | .wait w => .wait w
    | y => y) (LaneAns.ok s)

/-- One thread's load (R176). -/
def laneLoad (s : State) (c i lane addr n : Nat) (f : FormB) : LaneAns :=
  match s.checkAccess c addr n with
  | .error cause => .trap cause addr stAborted (s.noteFail cause addr)
  | .ok l =>
    match s.load c addr n l tDataEcc (s.grp c i).cls with
    | .wait w => .wait w
    | .trap cause status s1 => .trap cause addr status s1
    | .ok bs s1 => .ok (s1.modGrp c i fun g => g.setTh lane
        ((g.th lane).setReg f.dst.toNat ((loadValue f bs).extractLsb' 0 32)).next)

/-- One thread's store (R176). -/
def laneStore (s : State) (c i lane addr n : Nat) (f : FormB) : LaneAns :=
  match s.checkAccess c addr n with
  | .error cause => .trap cause addr stAborted (s.noteFail cause addr)
  | .ok l =>
    match s.store c l (leBytes n (((s.grp c i).th lane).reg f.dst.toNat).toNat) (s.grp c i).cls with
    | .wait w => .wait w
    | .trap cause status s1 => .trap cause addr status s1
    | .ok _ s1 => .ok (s1.modGrp c i fun g => g.setTh lane (g.th lane).next)

/-- The accesses of a group's threads in increasing lane order (R177). -/
def lanesAccess (s : State) (c i n : Nat) (f : FormB) (one : State → Nat → Nat → Nat → Nat → Nat → FormB → LaneAns)
    (lanes : List Nat) : Except (Option Nat) State :=
  let pc := (s.grp c i).lowPc
  let addrs := lanes.map fun l => addrB (((s.grp c i).th l).pair f.src1.toNat) f
  let r := (lanes.zip addrs).foldl (fun acc la =>
    match acc with
    | .ok st => one st c i la.1 la.2 n f
    | x => x) (LaneAns.ok (s.bump 0x03 c 3 (requests addrs)))
  match r with
  | .ok s1 => .ok s1
  | .trap cause addr status s1 => .ok (s1.trapAt c pc cause addr status)
  | .wait w => .error w

/-- The fields of LD and ST (R76, R78, R171). -/
def memLegal (who : Agent) (f : FormB) (sign : Bool) : Bool :=
  regOk who f.dst && regOk who f.src1 && decide (f.func.toNat < if sign then 8 else 4) &&
  (match who with
   | .core _ => true
   | .group _ _ => evenOk f.src1 && decide (sizeB f ≤ 4))

/-- LD (R78, R81). -/
def execLd (who : Agent) (f : FormB) (s : State) : Out :=
  let n := sizeB f
  match who with
  | .core c => onUnit (Unit.core c) (issueCore s c (memLegal who f true) f.pred f.pneg fun s1 =>
      let addr := addrB ((s1.core c).sreg f.src1.toNat) f
      match s1.checkAccess c addr n with
      | .error cause => (s1.noteFail cause addr).trap c cause addr
      | .ok l =>
        match s1.load c addr n l tDataEcc (s1.core c).loadClass with
        | .wait w => (s1.wakeFor w).stallAt c 4
        | .trap cause status s2 => s2.trapAs c cause addr status
        | .ok bs s2 => s2.retireWith c fun k => k.setS f.dst.toNat (loadValue f bs))
  | .group c i => onUnit (Unit.core c && Unit.slot i)
      (issueGroup s c i (memLegal who f true) f.pred f.pneg true [f.src1.toNat, f.src1.toNat + 1] fun s1 lanes =>
        lanesAccess s1 c i n f laneLoad lanes)

/-- ST (R78, R81). -/
def execSt (who : Agent) (f : FormB) (s : State) : Out :=
  let n := sizeB f
  match who with
  | .core c => onUnit (Unit.core c) (issueCore s c (memLegal who f false) f.pred f.pneg fun s1 =>
      let k := s1.core c
      let addr := addrB (k.sreg f.src1.toNat) f
      match s1.checkAccess c addr n with
      | .error cause => (s1.noteFail cause addr).trap c cause addr
      | .ok l =>
        match s1.store c l (leBytes n (k.sreg f.dst.toNat).toNat) k.storeClass with
        | .wait w => (s1.wakeFor w).stallAt c 4
        | .trap cause status s2 => s2.trapAs c cause addr status
        | .ok _ s2 => s2.modCore c Core.retire)
  | .group c i => onUnit (Unit.core c && Unit.slot i)
      (issueGroup s c i (memLegal who f false) f.pred f.pneg true [f.dst.toNat, f.src1.toNat, f.src1.toNat + 1] fun s1 lanes =>
        lanesAccess s1 c i n f laneStore lanes)

/-- Word w of a tensor descriptor (R82). -/
def Desc.word (d : Desc) (w : Nat) : W64 :=
  match w with
  | 0 => w64 d.base
  | 1 => w64 d.bytes
  | 2 => w64 (d.tensor * 2 ^ 32 + d.format * 2 ^ 24 + d.kind * 2 ^ 16 + d.location * 2 ^ 8 + d.flags)
  | _ => w64 (d.tableSet * 2 ^ 48)

/-- TD.LD (R78, R82): a slot at or above TD_COUNT raises DESC. -/
def execTdLd (who : Agent) (f : FormB) (s : State) : Out :=
  let legal := f.src1 == 0 && f.func == 0 && decide (f.imm.toNat < 1024) && regOk who f.dst
  let slot := f.imm.toNat % 256
  let w := f.imm.toNat / 256
  match who with
  | .core c => onUnit (Unit.core c) (issueCore s c legal f.pred f.pneg fun s1 =>
      match (s1.core c).td[slot]? with
      | none => s1.trap c tDesc 0
      | some d => s1.retireWith c fun k => k.setS f.dst.toNat (d.word w))
  | .group c i => onUnit (Unit.core c && Unit.slot i)
      (issueGroup s c i (legal && evenOk f.dst) f.pred f.pneg true [] fun s1 lanes =>
        match (s1.core c).td[slot]? with
        | none => .ok (s1.trapAt c (s1.grp c i).lowPc tDesc 0 stAborted)
        | some d => threadRegs s1 c i (fun _ t => t.setPair f.dst.toNat (d.word w)) lanes)

end Sys2Proof.Machine
end

