-- ==== Sys2Proof/Machine/Vector.lean ====
section
/-! DEFINITION. The vector unit (R150 to R164, R166) and the same operations in thread code (R171): majors 0x30 to
0x48. -/

namespace Sys2Proof.Machine
open Sys2Proof

/-! ### Lanes -/

/-- Lane l of a vector register (R102, R150). -/
def vlane (v : BitVec 2048) (l : Nat) : W32 := v.extractLsb' (32 * l) 32

/-- The register of 64 lanes. -/
def ofLanes (g : Nat → W32) : BitVec 2048 := BitVec.ofNat 2048 (packBits 32 ((List.range 64).map fun l => (g l).toNat))

/-- A register with lanes 0 to LAST replaced (R154). -/
def setLanes (old : BitVec 2048) (last : Nat) (g : Nat → W32) : BitVec 2048 :=
  ofLanes fun l => if l ≤ last then g l else vlane old l

/-- TYPE names INT32 or FP32 (R151). -/
def typeOk (f : FormA) : Bool := f.type == 1 || f.type == 6

/-- LAST (R154). -/
def lastOf (f : FormA) : Nat := bitsN f.mod.toNat 0 6

/-- SCALAR_B (R154). -/
def scalarB (f : FormA) : Bool := bitsN f.mod.toNat 6 1 == 1

/-- The fields of a lane-wise instruction (R154, R171): `b` says that it names b, `c` that it uses SRC3. -/
def vecLegal (who : Agent) (f : FormA) (b c : Bool) : Bool :=
  typeOk f && regOk who f.dst && regOk who f.src1 && (if b then regOk who f.src2 else f.src2 == 0) &&
  (if c then regOk who f.src3 else f.src3 == 0) &&
  (match who with
   | .core _ => decide (f.mod.toNat < 128) && (b || !scalarB f)
   | .group _ _ => f.mod == 0)

/-- The open value that belongs to lane i of the present instruction. -/
def State.drawAt (s : State) (i : Nat) : Nat := Config.freeBits (s.free + i)

/-- The state after n open values were drawn. -/
def State.drewN (s : State) (n : Nat) : State := { s with free := s.free + n }

/-- Counts an instruction of a core's vector unit: its lanes, floating operations for each, and lanes of the
transcendental class (R166).
[DEDUCED, log entry 26: unsafe] -/
def State.vecCount (s : State) (c flops trans : Nat) : State :=
  let s1 := s.bump 0x02 c 0 1
  let s2 := if flops = 0 then s1 else s1.bump 0x02 c 1 flops
  if trans = 0 then s2 else s2.bump 0x02 c 2 trans

/-- A lane operation: whether the lanes are FP32, an open value, and the operands a, b and c. -/
abbrev LaneOp := Bool → Nat → W32 → W32 → W32 → W32

/-- The vector registers that a lane-wise instruction names: b says that it names b, c that it uses SRC3 (R154). -/
def vecRegs (f : FormA) (b c : Bool) : List Nat :=
  [f.dst.toNat, f.src1.toNat] ++ (if b && !scalarB f then [f.src2.toNat] else []) ++ (if c then [f.src3.toNat] else [])

/-- A lane-wise instruction in both kinds of code (R155, R171): whether it names b and SRC3, operation, FP32 operations counted for
each lane, and whether it is of the transcendental class (R166). The vector unit's queue is always empty: an instruction begins
as it issues (R73).
[DESIGN CHOICE, log entry 144: safe] -/
def vecOp (who : Agent) (f : FormA) (b3 c3 legal : Bool) (flops : Nat) (trans : Bool) (op : LaneOp) (s : State) : Out :=
  let fp := f.type == 1
  match who with
  | .core c => onUnit (Unit.core c) (issueCore s c legal f.pred f.pneg fun s0 => s0.whenFree c [] (vecRegs f b3 c3) fun s1 =>
      let k := s1.core c
      let n := lastOf f + 1
      let a := k.vreg f.src1.toNat
      let b := k.vreg f.src2.toNat
      let d := k.vreg f.src3.toNat
      let sb : W32 := (k.sreg f.src2.toNat).extractLsb' 0 32
      let g (l : Nat) : W32 := op fp (s1.drawAt l) (vlane a l) (if scalarB f then sb else vlane b l) (vlane d l)
      let s2 := (if trans then s1.drewN 64 else s1).vecCount c (if fp then flops * n else 0) (if trans then n else 0)
      s2.retireWith c fun x => x.setV f.dst.toNat (setLanes (k.vreg f.dst.toNat) (lastOf f) g))
  | .group c i => onUnit (Unit.core c && Unit.slot i) (issueGroup s c i legal f.pred f.pneg true
      ([f.src1.toNat] ++ (if b3 then [f.src2.toNat] else []) ++ (if c3 then [f.src3.toNat] else [])) fun s1 lanes =>
      threadRegs (if trans then s1.drewN 64 else s1) c i (fun l t => t.setReg f.dst.toNat
        (op fp (s1.drawAt l) (t.reg f.src1.toNat) (t.reg f.src2.toNat) (t.reg f.src3.toNat))) lanes)

/-! ### Lane operations (R152, R155) -/

/-- a + b. -/
def laneAdd : LaneOp := fun fp _ a b _ => if fp then toF32 ((f32 a).add (f32 b)) else a + b
/-- a − b. -/
def laneSub : LaneOp := fun fp _ a b _ => if fp then toF32 ((f32 a).add (f32 b).neg) else a - b
/-- a × b. -/
def laneMul : LaneOp := fun fp _ a b _ => if fp then toF32 ((f32 a).mul (f32 b)) else a * b
/-- a × b + c with one rounding. -/
def laneFma : LaneOp := fun fp _ a b c => if fp then toF32 (((f32 a).mul (f32 b)).add (f32 c)) else a * b + c

/-- Whether FP32 a comes before b in the order of R152, with −0 below +0. -/
def before (a b : W32) : Bool :=
  if (f32 a).eq (f32 b) then a.msb && !b.msb else (f32 a).lt (f32 b)

/-- Minimum. -/
def laneMin : LaneOp := fun fp _ a b _ =>
  if fp then (if (f32 a).isNan || (f32 b).isNan then toF32 .nan else if before b a then b else a)
  else if b.slt a then b else a
/-- Maximum. -/
def laneMax : LaneOp := fun fp _ a b _ =>
  if fp then (if (f32 a).isNan || (f32 b).isNan then toF32 .nan else if before a b then b else a)
  else if a.slt b then b else a

/-- VUN's operation FUNC (R155). -/
def laneUn (func : Nat) : LaneOp := fun fp d a _ _ =>
  match func with
  | 0 => if fp then toF32 (f32 a).neg else -a
  | 1 => if fp then (if (f32 a).isNan then toF32 .nan else a &&& 0x7FFFFFFF) else if a.msb then -a else a
  | 2 => toF32 (recipF (f32 a))
  | 3 => toF32 (sqrtF (f32 a))
  | 4 => rsqrtF d (f32 a)
  | 5 => exp2F d (f32 a)
  | _ => log2F d (f32 a)

/-- VCMP's comparison FUNC (R152, R155). -/
def laneCmp (func : Nat) : LaneOp := fun fp _ a b _ =>
  let x := f32 a
  let y := f32 b
  let r := match func with
    | 0 => if fp then x.eq y else a == b
    | 1 => if fp then !x.eq y else a != b
    | 2 => if fp then x.lt y else a.slt b
    | _ => if fp then x.lt y || x.eq y else a.sle b
  if r then BitVec.allOnes 32 else 0

/-- VBIT's operation FUNC (R155). -/
def laneBit (func : Nat) : LaneOp := fun _ _ a b _ =>
  match func with
  | 0 => a &&& b
  | 1 => a ||| b
  | 2 => a ^^^ b
  | 3 => a <<< (b.toNat % 32)
  | 4 => a >>> (b.toNat % 32)
  | _ => a.sshiftRight (b.toNat % 32)

/-! ### Instructions -/

/-- VADD (R155). -/
def execVadd (who : Agent) (f : FormA) (s : State) : Out :=
  vecOp who f true false (vecLegal who f true false && f.func == 0) 1 false laneAdd s

/-- VSUB (R155). -/
def execVsub (who : Agent) (f : FormA) (s : State) : Out :=
  vecOp who f true false (vecLegal who f true false && f.func == 0) 1 false laneSub s

/-- VMUL (R155). -/
def execVmul (who : Agent) (f : FormA) (s : State) : Out :=
  vecOp who f true false (vecLegal who f true false && f.func == 0) 1 false laneMul s

/-- VFMA (R155): two operations for each lane (R166). -/
def execVfma (who : Agent) (f : FormA) (s : State) : Out :=
  vecOp who f true true (vecLegal who f true true && f.func == 0) 2 false laneFma s

/-- VMIN (R152, R155). -/
def execVmin (who : Agent) (f : FormA) (s : State) : Out :=
  vecOp who f true false (vecLegal who f true false && f.func == 0) 1 false laneMin s

/-- VMAX (R152, R155). -/
def execVmax (who : Agent) (f : FormA) (s : State) : Out :=
  vecOp who f true false (vecLegal who f true false && f.func == 0) 1 false laneMax s

/-- VUN (R155, R157): FUNC above 1 with INT32 is illegal. -/
def execVun (who : Agent) (f : FormA) (s : State) : Out :=
  vecOp who f false false (vecLegal who f false false && decide (f.func.toNat ≤ 6) && (decide (f.func.toNat < 2) || f.type == 1))
    1 (decide (2 ≤ f.func.toNat)) (laneUn f.func.toNat) s

/-- VCMP (R155). -/
def execVcmp (who : Agent) (f : FormA) (s : State) : Out :=
  vecOp who f true false (vecLegal who f true false && decide (f.func.toNat ≤ 3)) 1 false (laneCmp f.func.toNat) s

/-- VSEL (R155): a lane of v[SRC3] counts as zero when all its bits are 0.
[DEDUCED, log entry 27: unsafe] -/
def execVsel (who : Agent) (f : FormA) (s : State) : Out :=
  vecOp who f true true (vecLegal who f true true && f.func == 0) 0 false (fun _ _ a b c => if c ≠ 0 then a else b) s

/-- VBIT (R155, R157): INT32 only. -/
def execVbit (who : Agent) (f : FormA) (s : State) : Out :=
  vecOp who f true false (vecLegal who f true false && decide (f.func.toNat ≤ 5) && f.type == 6) 0 false (laneBit f.func.toNat) s

/-- VMOV (R155, R171): FUNC 0x01, scalar code only, broadcasts s[SRC1]. -/
def execVmov (who : Agent) (f : FormA) (s : State) : Out :=
  let legal := vecLegal who f false false && (f.func == 0 || (f.func == 1 && scalarOnly who))
  match who with
  | .core c =>
    let x : W32 := ((s.core c).sreg f.src1.toNat).extractLsb' 0 32
    vecOp who f false false legal 0 false (fun _ _ a _ _ => if f.func = 1 then x else a) s
  | .group _ _ => vecOp who f false false legal 0 false (fun _ _ a _ _ => a) s

/-- The fields of VPERM, VGET and the reductions: scalar code only. -/
def vecScalar (who : Agent) (f : FormA) (b : Bool) (modOk : Bool) : Bool :=
  typeOk f && regOk who f.dst && regOk who f.src1 && (if b then regOk who f.src2 else f.src2 == 0) && f.src3 == 0 && modOk

/-- VPERM (R155). -/
def execVperm (who : Agent) (f : FormA) (s : State) : Out :=
  issueScalar who (vecScalar who f true (decide (f.mod.toNat < 64)) && f.func == 0) f.pred f.pneg (fun c s1 =>
    let k := s1.core c
    let a := k.vreg f.src1.toNat
    let b := k.vreg f.src2.toNat
    s1.whenFree c [] [f.dst.toNat, f.src1.toNat, f.src2.toNat] fun s2 =>
      (s2.vecCount c 0 0).retireWith c fun x => x.setV f.dst.toNat
        (setLanes (k.vreg f.dst.toNat) (lastOf f) fun l => vlane a ((vlane b l).toNat % 64))) s

/-- VGET (R155). -/
def execVget (who : Agent) (f : FormA) (s : State) : Out :=
  issueScalar who (vecScalar who f true (f.mod == 0) && f.func == 0) f.pred f.pneg (fun c s1 =>
    let k := s1.core c
    let x := vlane (k.vreg f.src1.toNat) ((k.sreg f.src2.toNat).toNat % 64)
    s1.whenFree c [] [f.src1.toNat] fun s2 =>
      (s2.vecCount c 0 0).retireWith c fun y => y.setS f.dst.toNat (x.zeroExtend 64)) s

/-! ### Reductions (R159 to R161) -/

/-- The sum of lanes: exact modulo 2^32 for INT32, within R125 for FP32. -/
def laneSum (fp : Bool) (d : Nat) (xs : List W32) : W32 :=
  if fp then sumOpen d (xs.map f32) else xs.foldl (· + ·) 0

/-- VRED.SUM (R160). -/
def execVredSum (who : Agent) (f : FormA) (s : State) : Out :=
  issueScalar who (vecScalar who f false (decide (f.mod.toNat < 64)) && f.func == 0) f.pred f.pneg (fun c s1 =>
    let fp := f.type == 1
    let a := (s1.core c).vreg f.src1.toNat
    let xs := (List.range (lastOf f + 1)).map (vlane a)
    s1.whenFree c [] [f.dst.toNat, f.src1.toNat] fun s2 =>
      ((if fp then s2.drewN 64 else s2).vecCount c (if fp then lastOf f else 0) 0).retireWith c fun y =>
        y.setV f.dst.toNat (ofLanes fun l => if l = 0 then laneSum fp (s2.drawAt 0) xs else 0)) s

/-- The lanes of segment j that lie at or below LAST (R161). -/
def segLanes (size last j : Nat) : List Nat := ((List.range size).map fun i => j * size + i).filter fun l => decide (l ≤ last)

/-- VRED.SEG (R161): SEG 0 and 7 are illegal. -/
def execVredSeg (who : Agent) (f : FormA) (s : State) : Out :=
  let seg := bitsN f.mod.toNat 8 3
  let modOk := decide (f.mod.toNat = seg * 256 + lastOf f) && decide (1 ≤ seg) && decide (seg ≤ 6)
  issueScalar who (vecScalar who f false modOk && f.func == 1) f.pred f.pneg (fun c s1 =>
    let fp := f.type == 1
    let a := (s1.core c).vreg f.src1.toNat
    let size := 2 ^ seg
    let adds := ((List.range (64 / size)).map fun j => (segLanes size (lastOf f) j).length - 1).sum
    s1.whenFree c [] [f.dst.toNat, f.src1.toNat] fun s2 =>
      ((if fp then s2.drewN 64 else s2).vecCount c (if fp then adds else 0) 0).retireWith c fun y =>
        y.setV f.dst.toNat (ofLanes fun j => if j < 64 / size then
          laneSum fp (s2.drawAt j) ((segLanes size (lastOf f) j).map (vlane a)) else 0)) s

/-! ### Vector memory (R156, R157) -/

/-- The end of a vector-unit instruction that waits, or that began and traps (R166): it counts as begun where it traps. -/
def State.vecStops (s : State) (c addr : Nat) (r : MemAns) : State :=
  match r with
  | .ok _ s1 => s1
  | .wait w => (s.wakeFor w).stallAt c 4
  | .trap cause status s1 => (s1.vecCount c 0 0).trapAs c cause addr status

/-- A vector-unit instruction begins and raises the UNIT trap (R121, R157, R166). -/
def State.vecTrap (s : State) (c addr : Nat) : State := (s.vecCount c 0 0).trap c tUnit addr

/-- One vector access resolved: UNIT at its address where it is misaligned or leaves its space (R157). -/
def State.vecLoc (s : State) (c addr n : Nat) : Option Loc :=
  if addr % 4 ≠ 0 then none else s.resolve c addr n false

/-- The fields of VLD and VST (R155). -/
def vmemLegal (who : Agent) (f : FormB) : Bool := regOk who f.dst && regOk who f.src1 && decide (f.func.toNat < 64)

/-- A vector access that does not resolve begins and raises UNIT; one that R17 refuses is logged (R157, R499). -/
def State.vecRefused (s : State) (c addr : Nat) : State :=
  (if addr % 4 = 0 then s.noteRefused addr else s).vecTrap c addr

/-- VLD (R155 to R157). -/
def execVld (who : Agent) (f : FormB) (s : State) : Out :=
  issueScalar who (vmemLegal who f) f.pred f.pneg (fun c s0 => s0.whenFree c [] [f.dst.toNat] fun s1 =>
    let k := s1.core c
    let addr := addrB (k.sreg f.src1.toNat) f
    let n := f.func.toNat + 1
    match s1.vecLoc c addr (4 * n) with
    | none => s1.vecRefused c addr
    | some l =>
      match s1.load c addr (4 * n) l tDataEcc k.loadClass with
      | .ok bs s2 => (s2.vecCount c 0 0).retireWith c fun x => x.setV f.dst.toNat
          (setLanes (k.vreg f.dst.toNat) f.func.toNat fun i => BitVec.ofNat 32 (leAt bs (4 * i) 4))
      | r => s1.vecStops c addr r) s

/-- VST (R155 to R157). -/
def execVst (who : Agent) (f : FormB) (s : State) : Out :=
  issueScalar who (vmemLegal who f) f.pred f.pneg (fun c s0 => s0.whenFree c [] [f.dst.toNat] fun s1 =>
    let k := s1.core c
    let addr := addrB (k.sreg f.src1.toNat) f
    let n := f.func.toNat + 1
    match s1.vecLoc c addr (4 * n) with
    | none => s1.vecRefused c addr
    | some l =>
      match s1.store c l (leBytes (4 * n) (k.vreg f.dst.toNat).toNat) k.storeClass with
      | .ok _ s2 => (s2.vecCount c 0 0).modCore c Core.retire
      | r => s1.vecStops c addr r) s

/-- The addresses of a strided access (R155). -/
def strided (base stride : W64) (last : Nat) : List Nat := (List.range (last + 1)).map fun l => (base + w64 l * stride).toNat

/-- The address of the lowest-numbered lane of a strided access that faults (R157): a stride that is not a multiple of
4 faults at lane 1 at the latest. -/
def State.stridedFault (s : State) (c : Nat) (base stride : W64) (last : Nat) : Option Nat :=
  match (strided base stride last).find? fun a => (s.vecLoc c a 4).isNone with
  | some a => some a
  | none => if stride.toNat % 4 ≠ 0 then some (base + stride).toNat else none

/-- One lane of VLDS. -/
def vldsLane (c dst : Nat) (s : State) (l addr : Nat) : MemAns :=
  match s.vecLoc c addr 4 with
  | none => .trap tUnit stAborted s
  | some loc =>
    match s.load c addr 4 loc tDataEcc (s.core c).loadClass with
    | .ok bs s1 => .ok bs (s1.modCore c fun k => k.setV dst
        (ofLanes fun j => if j = l then BitVec.ofNat 32 (leNat bs) else vlane (k.vreg dst) j))
    | x => x

/-- One lane of VSTS. -/
def vstsLane (c : Nat) (v : BitVec 2048) (cls : Nat) (s : State) (l addr : Nat) : MemAns :=
  match s.vecLoc c addr 4 with
  | none => .trap tUnit stAborted s
  | some loc => s.store c loc (leBytes 4 (vlane v l).toNat) cls

/-- A strided access of lanes 0 to LAST. -/
def vecStrided (c : Nat) (f : FormA) (s : State) (one : State → Nat → Nat → MemAns) : State :=
  let k := s.core c
  let base := k.sreg f.src1.toNat
  let stride := k.sreg f.src2.toNat
  match s.stridedFault c base stride (lastOf f) with
  | some a => s.vecRefused c a
  | none =>
    match laneFold s ((List.range (lastOf f + 1)).zip (strided base stride (lastOf f))) one with
    | .wait w => s.vecStops c 0 (.wait w)
    | .trap cause addr status s1 => s1.vecStops c addr (.trap cause status s1)
    | .ok s1 => (s1.vecCount c 0 0).modCore c Core.retire

/-- VLDS (R155 to R157). -/
def execVlds (who : Agent) (f : FormA) (s : State) : Out :=
  issueScalar who (vecScalar who f true (decide (f.mod.toNat < 64)) && f.func == 0) f.pred f.pneg
    (fun c s0 => s0.whenFree c [] [f.dst.toNat] fun s1 => vecStrided c f s1 (vldsLane c f.dst.toNat)) s

/-- VSTS (R155 to R157): DST is 0. -/
def execVsts (who : Agent) (f : FormA) (s : State) : Out :=
  let legal := typeOk f && f.dst == 0 && regOk who f.src1 && regOk who f.src2 && regOk who f.src3 && f.func == 0 &&
    decide (f.mod.toNat < 64)
  issueScalar who legal f.pred f.pneg (fun c s0 => s0.whenFree c [] [f.src3.toNat] fun s1 =>
    let k := s1.core c
    vecStrided c f s1 (vstsLane c (k.vreg f.src3.toNat) k.storeClass)) s

end Sys2Proof.Machine
end

