-- ==== Sys2Proof/Machine/Convert.lean ====
section
/-! DEFINITION. The CVT family (R114 to R121): majors 0x50 to 0x52. -/

namespace Sys2Proof.Machine
open Sys2Proof

/-- Element i of width w of a vector register (R102). -/
def velem (v : BitVec 2048) (w i : Nat) : Nat := (v.extractLsb' (w * i) w).toNat

/-- SRC_FORMAT of CVT (R118). -/
def cvtSrc (f : FormA) : Nat := bitsN f.mod.toNat 10 5
/-- PART of CVT (R118). -/
def cvtPart (f : FormA) : Nat := bitsN f.mod.toNat 4 3
/-- ROUND of CVT and CVT.ENC (R118, R119). -/
def cvtRound (f : FormA) : Nat := bitsN f.mod.toNat 8 2

/-- r of R118: how many sections the narrower side has. -/
def cvtRatio (f : FormA) : Nat :=
  let ws := fmtWidth (cvtSrc f)
  let wd := fmtWidth f.type.toNat
  max ws wd / min ws wd

/-- The fields of CVT (R118). -/
def cvtLegal (who : Agent) (f : FormA) : Bool :=
  regOk who f.dst && regOk who f.src1 && f.src2 == 0 && f.src3 == 0 && f.func == 0 &&
  fmtWidth f.type.toNat != 0 && fmtWidth (cvtSrc f) != 0 && decide (f.mod.toNat < 2 ^ 15) && decide (cvtRound f ≤ 1) &&
  bitsN f.mod.toNat 0 4 == 0 && decide (cvtPart f < cvtRatio f)

/-- The conversion of element j of a register's section (R114, R118). -/
def cvtElem (src : BitVec 2048) (sf df : Nat) (sat : Bool) (from_ : Nat) (u : Option Nat) (j : Nat) : Nat :=
  encElem df sat u (decElem sf (velem src (fmtWidth sf) (from_ + j)))

/-- What CVT writes (R118). -/
def cvtResult (f : FormA) (src old : BitVec 2048) (rng : W64) : BitVec 2048 :=
  let ws := fmtWidth (cvtSrc f)
  let wd := fmtWidth f.type.toNat
  let n := 2048 / max ws wd
  let from_ := if ws < wd then cvtPart f * n else 0
  let sat := bitsN f.mod.toNat 7 1 == 1
  let xs := (List.range n).map fun j =>
    cvtElem src (cvtSrc f) f.type.toNat sat from_ (if cvtRound f = 1 then some (rngBits rng j) else none) j
  if wd < ws then BitVec.ofNat 2048 (putN old.toNat (cvtPart f * n * wd) (n * wd) (packBits wd xs))
  else BitVec.ofNat 2048 (packBits wd xs)

/-- RNG_STATE after an instruction that converts n elements (R117). -/
def Core.rngAfter (k : Core) (stochastic : Bool) (n : Nat) : Core :=
  if stochastic then k.setCsr 0x019 (rngAdvance (cdiv n 4) (k.csrReg 0x019)) else k

/-- CVT (R118). -/
def execCvt (who : Agent) (f : FormA) (s : State) : Out :=
  issueScalar who (cvtLegal who f) f.pred f.pneg (fun c s1 =>
    let k := s1.core c
    let n := 2048 / max (fmtWidth (cvtSrc f)) (fmtWidth f.type.toNat)
    s1.whenFree c [] [f.dst.toNat, f.src1.toNat] fun s2 =>
      (s2.vecCount c 0 0).retireWith c fun x =>
        (x.rngAfter (cvtRound f == 1) n).setV f.dst.toNat
          (cvtResult f (k.vreg f.src1.toNat) (k.vreg f.dst.toNat) (k.csrReg 0x019))) s

/-- The format code that TYPE and TYPE_HI name (R100). -/
def fmtCode (f : FormA) : Nat := bitsN f.mod.toNat 15 1 * 16 + f.type.toNat

/-- Whether an address lies in space 0x1 or 0x2. -/
def localSpace (addr : Nat) : Bool := addr / 2 ^ 60 == 1 || addr / 2 ^ 60 == 2

/-- An access of a unit to space 0x1 or 0x2, or UNIT (R121, R147). -/
def State.unitLoc (s : State) (c addr n : Nat) : Option Loc := if localSpace addr then s.resolve c addr n false else none

/-- CVT.ENC (R119). -/
def execCvtEnc (who : Agent) (f : FormA) (s : State) : Out :=
  let code := fmtCode f
  let legal := f.dst == 0 && regOk who f.src1 && regOk who f.src2 && f.src3 == 0 && f.func == 0 &&
    decide (0x0A ≤ code) && decide (code ≤ 0x0F) && decide (cvtRound f ≤ 1) &&
    f.mod.toNat == code / 16 * 2 ^ 15 + cvtRound f * 256
  issueScalar who legal f.pred f.pneg (fun c s0 => s0.whenFree c [] [f.src1.toNat] fun s1 =>
    let k := s1.core c
    let addr := (k.sreg f.src2.toNat).toNat
    let v := k.vreg f.src1.toNat
    let xs := (List.range 64).map fun l => f32 (vlane v l)
    let u (b i : Nat) : Option Nat := if cvtRound f = 1 then some (rngBits (k.csrReg 0x019) (32 * b + i)) else none
    let bs := mxEncode code (xs.take 32) (u 0) ++ mxEncode code (xs.drop 32) (u 1)
    match s1.unitLoc c addr bs.length with
    | none => s1.vecTrap c addr
    | some l =>
      match s1.store c l bs k.storeClass with
      | .ok _ s2 => (s2.vecCount c 0 0).retireWith c fun x => x.rngAfter (cvtRound f == 1) 64
      | r => s1.vecStops c addr r) s

/-- The multiple that e must be of (R120). -/
def decMultiple (code : Nat) : Nat := if code = 0x12 then 16 else blockElems code

/-- The descriptor that supplies the tables of CVT.DEC (R120, R121); nothing for a descriptor fault. -/
def decTables (s : State) (k : Core) (code slot : Nat) : Option (List (List (BitVec 16))) :=
  if code = 0x10 ∨ code = 0x11 then
    match k.td[slot]? with
    | none => none
    | some d => if d.format ≠ code ∨ d.tableSet = 0xFFFF then none else some (s.tables d.tableSet)
  else some []

/-- Elements e to e + 63 of a block array whose bytes begin with the block of element e (R120), and what their decoding
adds to DECODE_INVALID. -/
def decodeRun (code : Nat) (tables : List (List (BitVec 16))) (bs : List Byte) (e : Nat) : List Num × Nat :=
  let per := blockElems code
  let size := blockBytes code
  let blk (i : Nat) : List Byte := (bs.drop (i * size)).take size
  let first := e % per
  let n := (first + 63) / per + 1
  ((List.range 64).map fun i => blockElem code tables (blk ((first + i) / per)) ((first + i) % per),
   ((List.range n).map fun i => blockInvalid code tables (blk i) (first - i * per) (min per (first + 64 - i * per))).sum)

/-- Counts blocks and bytes that do not decode in the core's partition (R111, R113). -/
def State.decodeInvalid (s : State) (c n : Nat) : State := if n = 0 then s else s.bump 0x31 (partOf c) 0 n

/-- The bytes of a table set's tables (R110). -/
def TableSet.bytes (t : TableSet) : List Byte := t.tables.flatMap fun x => x.flatMap fun e => leBytes 2 e.toNat

/-- A decode names a table set: the core's cache of two replaces the least recently used one, and a reload reads the set's lines
(R111). Its class is that of the core's loads.
[DEDUCED, log entry 40: unsafe] -/
def State.useSet (s : State) (c id : Nat) : State :=
  let k := s.core c
  let keep := k.tsets.filter (· != id)
  let s1 := s.modCore c fun x => { x with tsets := keep.drop (keep.length - 1) ++ [id] }
  if k.tsets.contains id then s1
  else
    match s.img.image with
    | none => s1
    | some im => match im.tables[id]? with
      | none => s1
      | some t => s1.touchRange (clusterOf c) (im.tableBase + t.off) t.bytes.length k.loadClass fun _ => true

/-- The table set that CVT.DEC decodes with. -/
def State.useDesc (s : State) (c code slot : Nat) : State :=
  if code = 0x10 ∨ code = 0x11 then
    match (s.core c).td[slot]? with
    | some d => s.useSet c d.tableSet
    | none => s
  else s

/-- CVT.DEC (R120, R121). The manual leaves open which trap is taken where several hold, TRAP_ADDR of a bad e, which byte of a block
array that leaves its space is named, and whether bytes of a block that no element needs are bounded. The model looks at the
address, then e, then the descriptor, then the bounds; it names the array's base for a bad e, the first block that it reads for a
bound; and it bounds whole blocks.
[DESIGN CHOICE, log entry 145: unsafe] -/
def execCvtDec (who : Agent) (f : FormA) (s : State) : Out :=
  let code := fmtCode f
  let slot := bitsN f.mod.toNat 0 8
  let legal := regOk who f.dst && regOk who f.src1 && regOk who f.src2 && f.src3 == 0 && f.func == 0 &&
    decide (0x0A ≤ code) && decide (code ≤ 0x12) && bitsN f.mod.toNat 8 7 == 0 &&
    (code == 0x10 || code == 0x11 || slot == 0)
  issueScalar who legal f.pred f.pneg (fun c s0 => s0.whenFree c [] [f.dst.toNat] fun s1 =>
    let k := s1.core c
    let base := (k.sreg f.src1.toNat).toNat
    let e := (k.sreg f.src2.toNat).toNat
    let per := blockElems code
    let n := ((e % per + 63) / per + 1) * blockBytes code
    let off := base % 2 ^ 60 + e / per * blockBytes code
    let addr := base / 2 ^ 60 * 2 ^ 60 + off
    if !localSpace base then s1.vecTrap c base
    else if e % decMultiple code ≠ 0 then s1.vecTrap c base
    else
      match decTables s1 k code slot with
      | none => s1.vecTrap c 0
      | some tables =>
        match (if off < 2 ^ 60 then s1.unitLoc c addr n else none) with
        | none => s1.vecTrap c (addr % 2 ^ 64)
        | some l =>
          match s1.load c addr n l tUnit k.loadClass with
          | .ok bs s2 =>
            let r := decodeRun code tables bs e
            (((s2.useDesc c code slot).decodeInvalid c r.2).vecCount c 0 0).retireWith c fun x => x.setV f.dst.toNat
              (ofLanes fun i => toF32 (r.1.getD i .nan))
          | r => s1.vecStops c addr r) s

end Sys2Proof.Machine
end

