-- ==== Sys2Proof/Machine/Matrix.lean ====
section
/-! DEFINITION. The matrix unit (R126 to R148): majors 0x60 to 0x64 and the beginning of a step. -/

namespace Sys2Proof.Machine
open Sys2Proof

/-- The A formats that a B format accepts (R130). -/
def pairAccepts (b : Nat) : List Nat :=
  match b with
  | 0x04 => [4, 5] | 0x05 => [4, 5] | 0x0A => [0x0A, 0x0B] | 0x0B => [0x0A, 0x0B] | 0x08 => [8] | 0x0F => [0x0F]
  | 0x0C => [0x0A, 0x0B, 0x0C, 0x0D] | 0x0D => [0x0A, 0x0B, 0x0C, 0x0D] | 0x0E => [0x0A, 0x0B, 0x0C, 0x0D, 0x0E]
  | 0x09 => [8, 9] | 0x10 => [4, 5, 0x0A, 0x0B] | 0x11 => [4, 5, 0x0A, 0x0B] | 0x12 => [4, 5, 0x0A, 0x0B, 8]
  | 0x03 => [3] | 0x02 => [2] | 0x07 => [7, 8]
  | _ => []

/-- Whether a B format accumulates in INT32 (R130). -/
def pairInt (b : Nat) : Bool := b == 0x08 || b == 0x09 || b == 0x07

/-- K granule of a B format (R130). -/
def granule (b : Nat) : Nat :=
  if b = 0x12 then 160 else if b = 0x0C ∨ b = 0x0D ∨ b = 0x0E ∨ b = 0x09 ∨ b = 0x10 ∨ b = 0x11 then 64 else 32

/-- Cycles of a step of a B format (R130). -/
def stepCycles (b : Nat) : Nat :=
  if b = 0x12 then 40 else if b = 0x03 ∨ b = 0x02 then 64 else if b = 0x07 then 128 else 32

/-- Multiple that addresses and strides of a format keep (R127, R141). -/
def fmtAlign (code : Nat) : Nat := if blockElems code = 0 then max 1 (fmtWidth code / 8) else 1

/-- A_FORMAT of MMA (R140). -/
def mmaA (f : FormA) : Nat := bitsN f.mod.toNat 10 5
/-- DOUBLE (R140). -/
def mmaDouble (f : FormA) : Bool := bitsN f.func.toNat 4 1 == 1

/-- The fields of MMA (R130, R136, R140). -/
def mmaLegal (who : Agent) (f : FormA) : Bool :=
  decide (f.dst.toNat < 2) && regOk who f.src1 && regOk who f.src2 && regOk who f.src3 && bitsN f.func.toNat 0 4 == 0 &&
  bitsN f.mod.toNat 4 1 == 0 && (pairAccepts (fmtCode f)).contains (mmaA f) && (!mmaDouble f || matM f == 16)

/-- Word w of an accumulator (R129). -/
def Core.accWord (k : Core) (a w : Nat) : W32 := nget 0 k.acc (a * 512 + w)

/-- Writes word w of an accumulator. -/
def Core.setAcc (k : Core) (a w : Nat) (v : W32) : Core := { k with acc := nset 0 k.acc (a * 512 + w) v }

/-- An accumulator written from a function of row and column (R129). -/
def Core.mapAcc (k : Core) (a : Nat) (g : Nat → Nat → W32) : Core :=
  { k with acc := (List.range 512).foldl (fun m w => nset 0 m (a * 512 + w) (g (w / 32) (w % 32))) k.acc }

/-! ### Accumulator moves (R141 to R144) -/

/-- ROUND of an accumulator move. -/
def accRound (f : FormA) : Nat := bitsN f.mod.toNat 13 2
/-- ACC_INT. -/
def accInt (f : FormA) : Bool := bitsN f.mod.toNat 11 1 == 1
/-- SAT of an accumulator move. -/
def accSat (f : FormA) : Bool := bitsN f.mod.toNat 12 1 == 1

/-- The fields of ACC.ST and ACC.LD (R141). -/
def accLegal (who : Agent) (f : FormA) : Bool :=
  decide (f.dst.toNat < 2) && regOk who f.src1 && regOk who f.src2 && f.src3 == 0 && f.func == 0 &&
  fmtWidth f.type.toNat != 0 && decide (f.mod.toNat < 2 ^ 15) && decide (accRound f ≤ 1) && bitsN f.mod.toNat 10 1 == 0 &&
  bitsN f.mod.toNat 4 1 == 0 && (f.type != 9 || matN f % 2 == 0)

/-- The first address of an accumulator move that faults (R147): the base address where the alignment is broken, else the first address
of the first row of which a byte lies outside.
[DESIGN CHOICE, log entry 146: unsafe] -/
def AccMove.fault (m : AccMove) (s : State) (c : Nat) : Option Nat :=
  let al := fmtAlign m.f.type.toNat
  if m.base.toNat % al ≠ 0 ∨ m.stride.toNat % al ≠ 0 then some m.base.toNat
  else m.rows.find? fun a => (s.unitLoc c a m.rowLen).isNone

/-- Whether the memory format copies accumulator words unchanged (R142, R143). -/
def accCopy (f : FormA) : Bool := (f.type == 1 && !accInt f) || (f.type == 6 && accInt f)

/-- Random bits of element j of an accumulator move from the generator's state (R117). -/
def accU (rng : W64) (f : FormA) (j : Nat) : Option Nat := if accRound f = 1 then some (rngBits rng j) else none

/-- The bytes ACC.ST stores for row m (R142). -/
def accStRow (k : Core) (rng : W64) (f : FormA) (m : Nat) : List Byte :=
  let w := fmtWidth f.type.toNat
  leBytes (rowBytes f.type.toNat (matN f)) (packBits w ((List.range (matN f)).map fun n =>
    let x := k.accWord f.dst.toNat (32 * m + n)
    if accCopy f then x.toNat
    else encElem f.type.toNat (accSat f) (accU rng f (m * matN f + n)) (if accInt f then decInt 32 x.toNat else f32 x)))

/-- The word ACC.LD writes for element (m, n) from its row's bytes (R143). -/
def accLdWord (rng : W64) (f : FormA) (m n : Nat) (bs : List Byte) : W32 :=
  let w := fmtWidth f.type.toNat
  let v := bitsN (leNat bs) (w * n) w
  if accCopy f then BitVec.ofNat 32 v
  else BitVec.ofNat 32 (encElem (if accInt f then 6 else 1) (accSat f) (accU rng f (m * matN f + n)) (decElem f.type.toNat v))

/-- ACC.ST of row r to its address (R142). -/
def AccMove.storeRow (m : AccMove) (c : Nat) (s : State) (r addr : Nat) : MemAns :=
  match s.unitLoc c addr m.rowLen with
  | none => .trap tUnit stAborted s
  | some l => s.writeRaw c l (accStRow (s.core c) m.rng m.f r) m.cls 0

/-- ACC.LD of row r from its address (R143). -/
def AccMove.loadRow (m : AccMove) (c : Nat) (s : State) (r addr : Nat) : MemAns :=
  match s.unitLoc c addr m.rowLen with
  | none => .trap tUnit stAborted s
  | some l =>
    match s.loadNow c addr m.rowLen l tUnit m.cls with
    | .ok bs s1 => .ok bs (s1.modCore c fun k => (List.range (matN m.f)).foldl (fun x n =>
        x.setAcc m.f.dst.toNat (32 * r + n) (accLdWord m.rng m.f r n bs)) k)
    | x => x

/-- Whether an accumulator move must wait for a start that came before place seq (R74). -/
def AccMove.waits (m : AccMove) (s : State) (c seq : Nat) : Bool :=
  m.rows.any fun a => s.startConflict ((s.core c).starts.filter fun st => decide (st.seq < seq)) (a / 2 ^ 60) (a % 2 ^ 32 : Nat)
    m.rowLen (m.kind == 0)

/-- An accumulator move at its turn in the matrix queue (R141 to R144, R147): its fault, or a wait for an earlier start, or its
effect. -/
def AccMove.run (m : AccMove) (s : State) (c seq : Nat) : LaneAns :=
  match m.kind with
  | 2 => .ok (s.modCore c fun k => k.setV m.f.dst.toNat (ofLanes fun l => k.accWord m.f.src1.toNat (64 * m.f.mod.toNat + l)))
  | 3 => .ok (s.modCore c fun k => (List.range 64).foldl (fun y l =>
      y.setAcc m.f.dst.toNat (64 * m.f.mod.toNat + l) (vlane m.v l)) k)
  | kind =>
    match m.fault s c with
    | some a => .trap tUnit a stAborted s
    | none =>
      if m.waits s c seq then .wait none
      else laneFold s ((List.range (matM m.f)).zip m.rows) (if kind = 0 then m.storeRow c else m.loadRow c)

/-- A trap of a queued instruction, with the program counter of that instruction (R93). -/
def State.unitTrap (s : State) (c pc cause addr status : Nat) : State := s.trapAt c pc cause addr status

/-- What the head of the matrix queue does as soon as it is the head (R73): an MMA with K = 0 executes (R134), and so does an
accumulator move that waits for no start.
[DESIGN CHOICE, log entry 148: safe] -/
def Core.settleMq (c : Nat) (s : State) : List MmaOp → State
  | [] => s.modCore c fun k => { k with mq := [] }
  | o :: r =>
    let held := s.modCore c fun k => { k with mq := o :: r }
    match o.move with
    | some m =>
      match m.run held c o.seq with
      | .ok s1 => Core.settleMq c s1 r
      | .wait _ => held
      | .trap cause addr status s1 => s1.unitTrap c o.pc cause addr status
    | none =>
      if o.k = 0 then
        let s1 := if o.overwrite then s.modCore c fun k =>
            let k1 := k.mapAcc o.acc fun _ _ => 0
            if o.double then k1.mapAcc (1 - o.acc) fun _ _ => 0 else k1
          else s
        Core.settleMq c (s1.bump 0x01 c 7 1) r
      else held

/-- An accumulator move issues (R73): it executes at once where the matrix queue is empty and no start holds it, and enters the
queue of 8 where it must wait. It has read its registers, and advanced RNG_STATE, when it issues. -/
def accIssue (who : Agent) (legal : Bool) (f : FormA) (kind : Nat) (reads : List Nat) (rngN : Nat) (s : State) : Out :=
  issueScalar who legal f.pred f.pneg (fun c s0 => s0.whenFree c [] reads fun s1 =>
    let k := s1.core c
    let m : AccMove :=
      { kind := kind, f := f, base := k.sreg f.src1.toNat, stride := k.sreg f.src2.toNat, v := k.vreg f.src1.toNat,
        rng := k.csrReg 0x019, cls := if kind = 1 then k.loadClass else k.storeClass }
    let o : MmaOp := { acc := 0, aAddr := 0, stride := 0, k := 1, k0 := 0, port := 0, overwrite := false, double := false, bFmt := 0,
                       aFmt := 0, n := 0, m := 0, epoch := k.epoch, pc := k.pc, seq := k.seq, move := some m }
    let queued := (s1.modCore c fun x => { x with mq := x.mq ++ [o], seq := x.seq + 1 }).retireWith c fun x =>
      x.rngAfter (accRound f == 1) rngN
    if k.mq.isEmpty then
      match m.run s1 c k.seq with
      | .wait _ => queued
      | .trap cause addr status s2 => s2.trapAs c cause addr status
      | .ok s2 => s2.retireWith c fun x => x.rngAfter (accRound f == 1) rngN
    else if 8 ≤ k.mq.length then s1.stallAt c 7
    else queued) s

/-- ACC.ST (R141, R142). -/
def execAccSt (who : Agent) (f : FormA) (s : State) : Out := accIssue who (accLegal who f) f 0 [] (matM f * matN f) s

/-- ACC.LD (R141, R143). -/
def execAccLd (who : Agent) (f : FormA) (s : State) : Out := accIssue who (accLegal who f) f 1 [] (matM f * matN f) s

/-- The fields of ACC.RV and ACC.WV, with the field that names the accumulator and the one that names the register (R144). -/
def accRvLegal (who : Agent) (f : FormA) (acc reg : BitVec 6) : Bool :=
  decide (acc.toNat < 2) && regOk who reg && f.src2 == 0 && f.src3 == 0 && f.func == 0 && f.type == 0 && decide (f.mod.toNat < 8)

/-- ACC.RV (R144). -/
def execAccRv (who : Agent) (f : FormA) (s : State) : Out := accIssue who (accRvLegal who f f.src1 f.dst) f 2 [f.dst.toNat] 0 s

/-- ACC.WV (R144). -/
def execAccWv (who : Agent) (f : FormA) (s : State) : Out := accIssue who (accRvLegal who f f.dst f.src1) f 3 [f.src1.toNat] 0 s

/-! ### The queue (R73, R134, R140) -/

/-- MMA (R140): enters the matrix unit's queue of 8 (R73). -/
def execMma (who : Agent) (f : FormA) (s : State) : Out :=
  issueScalar who (mmaLegal who f) f.pred f.pneg (fun c s1 =>
    let k := s1.core c
    if 8 ≤ k.mq.length then s1.stallAt c 7
    else
      let o : MmaOp := { acc := f.dst.toNat, aAddr := (k.sreg f.src1.toNat).toNat, stride := (k.sreg f.src2.toNat).toNat,
                         k := (k.sreg f.src3.toNat).toNat, k0 := 0, port := bitsN f.func.toNat 6 2,
                         overwrite := bitsN f.func.toNat 5 1 == 1, double := mmaDouble f, bFmt := fmtCode f,
                         aFmt := mmaA f, n := matN f, m := if mmaDouble f then 32 else matM f, epoch := k.epoch,
                         pc := k.pc, seq := k.seq }
      Core.settleMq c (s1.modCore c fun x => { x.retire with seq := x.seq + 1 }) (k.mq ++ [o])) s

/-! ### A step (R133 to R139) -/

/-- k values of the present step (R133). -/
def MmaOp.kk (o : MmaOp) : Nat := min (granule o.bFmt) (o.k - o.k0)

/-- Bytes of the present step's B slice (R133, R138). -/
def MmaOp.sliceBytes (o : MmaOp) : Nat := o.n * rowBytes o.bFmt o.kk

/-- The address of row m's part of the present step (R127). -/
def MmaOp.rowAddr (o : MmaOp) (m : Nat) : Nat := (o.aAddr + m * o.stride + rowBytes o.aFmt o.k0) % 2 ^ 64

/-- The faulting address of the present step (R147): A's base address where the address or the stride breaks the alignment, else the
first address of the first row of which a byte lies outside the scratchpad.
[DESIGN CHOICE, log entry 146: unsafe] -/
def MmaOp.aFault (o : MmaOp) (s : State) (c : Nat) : Option Nat :=
  if o.aAddr % fmtAlign o.aFmt ≠ 0 ∨ o.stride % fmtAlign o.aFmt ≠ 0 then some o.aAddr
  else ((List.range o.m).map o.rowAddr).find? fun a =>
    a / 2 ^ 60 != 1 || (s.resolve c a (rowBytes o.aFmt o.kk) false).isNone

/-- The tables that block b of a run of port bytes decodes with: those of the table set that the MOVE of its first byte named
(R109, R251). -/
def State.portTables (s : State) (code : Nat) (col : List PortByte) (b : Nat) : List (List (BitVec 16)) :=
  match col[b * blockBytes code]? with
  | some x => s.tables x.tableSet
  | none => []

/-- The whole number a value is. -/
def Num.toInt : Num → Int
  | .fin a m e => scaled a m e 0
  | _ => 0

/-- One cell's new word: the products of the step with the prior word when it accumulates (R122, R125, R135). -/
def cellWord (int : Bool) (d : Nat) (prior : Option W32) (as bs : List Num) : W32 :=
  if int then
    BitVec.ofInt 32 ((List.zipWith (fun x y : Num => x.toInt * y.toInt) as bs).sum + (prior.getD 0).toInt)
  else
    let ps := List.zipWith Num.mul as bs
    sumOpen d (match prior with
      | some p => f32 p :: ps
      | none => ps)

/-- The accumulators after a step over decoded operands (R126, R135, R136). -/
def MmaOp.applyStep (o : MmaOp) (s : State) (c : Nat) (aRows bCols : List (List Num)) : State :=
  let first := o.k0 = 0
  let pass (k0 k : Core) (acc from_ : Nat) : Core :=
    k.mapAcc acc fun m n =>
      if m < o.m - from_ ∧ n < o.n then
        cellWord (pairInt o.bFmt) (s.drawAt (acc * 512 + 32 * m + n))
          (if first && o.overwrite then none else some (k0.accWord acc (32 * m + n)))
          (aRows.getD (from_ + m) []) (bCols.getD n [])
      else if first && o.overwrite then 0 else k0.accWord acc (32 * m + n)
  (s.modCore c fun k =>
    let k1 := pass k k o.acc 0
    if o.double then pass k k1 (1 - o.acc) 16 else k1).drewN 1024

/-- Whether the step's A bytes are still to be written by an earlier start (R74, R137). -/
def MmaOp.aWaits (o : MmaOp) (s : State) (c : Nat) : Bool :=
  (List.range o.m).any fun m =>
    s.startConflict ((s.core c).starts.filter fun st => decide (st.seq < o.seq)) 1 (o.rowAddr m % 2 ^ 32 : Nat)
      (rowBytes o.aFmt o.kk) false

/-- The effect of MMA_STEP_BEGIN on a queue whose head is an MMA (R137 to R139, R147, R148). Of several faults the first in this order
is raised: K, the A addresses, the exhausted port, the tag; each without waiting for the A ordering or the throttle.
[DESIGN CHOICE, log entry 146: unsafe] [DESIGN CHOICE, log entry 147: unsafe] -/
def mmaStep (s : State) (c : Nat) (o : MmaOp) (rest : List MmaOp) : State :=
  let k := s.core c
  let sl := k.slot o.port
  let n := o.sliceBytes
  let slice := sl.port.take n
  if 2 ^ 32 ≤ o.k then s.unitTrap c o.pc tUnit 0 stAborted
  else
    match o.aFault s c with
    | some a => s.unitTrap c o.pc tUnit a stAborted
    | none =>
      if sl.port.length < n then
        if sl.running.isNone && sl.pending.isNone && !k.sq.any (fun x => x.1 == o.port) then s.unitTrap c o.pc tUnit 0 stAborted else s
      else if slice.any fun b => b.fmt != o.bFmt then s.unitTrap c o.pc tUnit 0 stAborted
      else if k.withheld || o.aWaits s c then s
      else if slice.any (·.bad) || (List.range o.m).any (fun m => s.localBad 1 c (o.rowAddr m % 2 ^ 32) (rowBytes o.aFmt o.kk))
      then s.unitTrap c o.pc tUnit 0 stEcc
      else
        let per := rowBytes o.bFmt o.kk
        let col (j : Nat) : List PortByte := (slice.drop (j * per)).take per
        let bCols := (List.range o.n).map fun j =>
          (List.range o.kk).map (storedElem o.bFmt (s.portTables o.bFmt (col j)) ((col j).map (·.byte)))
        let aRows := (List.range o.m).map fun m =>
          let bs := s.localRead c 1 c (o.rowAddr m % 2 ^ 32) (rowBytes o.aFmt o.kk)
          (List.range o.kk).map (storedElem o.aFmt (fun _ => []) bs)
        let sets := if o.bFmt = 0x10 ∨ o.bFmt = 0x11 then (slice.map (·.tableSet)).eraseDups else []
        let s1 := (o.applyStep (sets.foldl (fun st id => st.useSet c id) s) c aRows bCols).decodeInvalid c
          (((List.range o.n).map fun j => storedInvalid o.bFmt (s.portTables o.bFmt (col j)) ((col j).map (·.byte)) o.kk).sum)
        let s2 := s1.modCore c fun x => x.setSlot o.port { sl with port := sl.port.drop n }
        let d := if o.double then 2 else 1
        let s3 := ((s2.bump 0x01 c 0 1).bump 0x01 c 1 (d * stepCycles o.bFmt)).bump 0x01 c 2 (o.m * o.n * o.kk)
        let o1 := { o with k0 := o.k0 + o.kk }
        if o1.k ≤ o1.k0 then Core.settleMq c s3 rest else s3.modCore c fun x => { x with mq := o1 :: rest }

/-- MMA_STEP_BEGIN (R137): the head of the queue begins a step; a head that waits for nothing more executes. -/
def execMmaStepBegin (c : Nat) (s : State) : Out :=
  onUnit (Unit.core c) (
    match (s.core c).mq with
    | [] => s
    | o :: r => if o.move.isSome then Core.settleMq c s (o :: r) else mmaStep s c o r)

end Sys2Proof.Machine
end

