-- ==== Sys2Proof/Machine/Stream.lean ====
section
/-! DEFINITION. The stream engine (R203, R241 to R260): majors 0x80 to 0x83, the instructions of a stream program,
row transfers, and the beginning and end of a start. -/

namespace Sys2Proof.Machine
open Sys2Proof

/-! ### Counter places of the stream engine (R260) -/
/-- STREAM_STARTS. -/
def stStarts : Nat := 0
/-- STREAM_BYTES_OUT. -/
def stBytesOut : Nat := 2
/-- STREAM_LINE_READS. -/
def stLineReads : Nat := 3
/-- STREAM_GATHER_HITS. -/
def stGatherHits : Nat := 4
/-- STREAM_LEAD_FILLS. -/
def stLeadFills : Nat := 5

/-! ### Starts (R242, R244) -/

/-- Whether a slot has no running and no pending start. -/
def Slot.idle (x : Slot) : Bool := x.running.isNone && x.pending.isNone

/-- Whether a write that a slot issued has not taken effect. -/
def Core.slotStores (k : Core) (i : Nat) : Bool := k.stores.any fun w => w.src == i + 1

/-- What stands at the head of the stream engine's queue goes on (R242, R253, R256 to R258): starts go to their slots while those have
room; an SS.POLL writes its predicate; an SS.CANCEL advances the generations as it reaches the head, and leaves once the writes that
its slots issued have taken effect.
[DEDUCED, log entry 43: unsafe] -/
def State.pump (c : Nat) (s : State) : List (Nat × Start) → State
  | [] => s.modCore c fun k => { k with sq := [] }
  | (i, st) :: r =>
    let k := s.core c
    match st.op with
    | .start =>
      let x := k.slot i
      if x.running.isNone then State.pump c (s.modCore c fun y => y.setSlot i { x with running := some st, begun := false }) r
      else if x.pending.isNone then State.pump c (s.modCore c fun y => y.setSlot i { x with pending := some st }) r
      else s.modCore c fun y => { y with sq := (i, st) :: r }
    | .poll slots d => State.pump c (s.modCore c fun y => y.setP d (slots.all fun j => (y.slot j).idle)) r
    | .cancel slots sent =>
      let s1 := if sent then s else
        slots.foldl (fun a j => (a.modCore c fun y => y.setSlot j (y.slot j).advance).bump 0x04 c 1 1) s
      if slots.any (s1.core c).slotStores then
        s1.modCore c fun y => { y with sq := (i, { st with op := .cancel slots true }) :: r }
      else State.pump c s1 r

/-- The stream engine's queue of a core goes on as far as it can. -/
def State.pumped (s : State) (c : Nat) : State := State.pump c s (s.core c).sq

/-- A stream instruction enters the queue of 4 (R73). -/
def State.streamEnter (s : State) (c slot : Nat) (st : Start) : State :=
  if 4 ≤ (s.core c).sq.length then s.stallAt c 11
  else State.pump c (s.modCore c fun x => { x.retire with seq := x.seq + 1 }) ((s.core c).sq ++ [(slot, st)])

/-- SS.START (R242, R253). -/
def execSsStart (who : Agent) (f : FormA) (s : State) : Out :=
  let legal := f.dst == 0 && regOk who f.src1 && regOk who f.src2 && regOk who f.src3 && decide (f.func.toNat < 4) && f.type == 0
  issueScalar who legal f.pred f.pneg (fun c s1 =>
    let k := s1.core c
    let st : Start := { prog := f.mod.toNat, a0 := k.sreg f.src1.toNat, a1 := k.sreg f.src2.toNat,
                        a2 := k.sreg f.src3.toNat, epoch := k.epoch, pc := k.pc, seq := k.seq }
    s1.streamEnter c f.func.toNat st) s

/-- The slots that SLOT and ALL name (R253). -/
def slotsOf (f : FormA) : List Nat := if f.mod = 1 then [0, 1, 2, 3] else [f.func.toNat]

/-- SLOT and ALL of SS.WAIT, SS.CANCEL and SS.POLL (R253). -/
def slotLegal (f : FormA) : Bool := decide (f.func.toNat < 4) && (f.mod == 0 || (f.mod == 1 && f.func == 0))

/-- SS.WAIT (R253): behind everything in the queue. -/
def execSsWait (who : Agent) (f : FormA) (s : State) : Out :=
  issueScalar who (usesA f false false false false true false true && slotLegal f) f.pred f.pneg (fun c s1 =>
    let s2 := s1.pumped c
    let k := s2.core c
    if k.sq.isEmpty && (slotsOf f).all fun i => (k.slot i).idle then s2.modCore c Core.retire else s2.stallAt c 12) s

/-- An SS.CANCEL or SS.POLL as an entry of the stream engine's queue; it belongs to no slot of the starts' own. -/
def streamItem (k : Core) (op : StreamOp) : Start :=
  { prog := 0, a0 := 0, a1 := 0, a2 := 0, epoch := k.epoch, pc := k.pc, seq := k.seq, op := op }

/-- SS.CANCEL (R253, R256 to R258). -/
def execSsCancel (who : Agent) (f : FormA) (s : State) : Out :=
  issueScalar who (usesA f false false false false true false true && slotLegal f) f.pred f.pneg (fun c s1 =>
    s1.streamEnter c 4 (streamItem (s1.core c) (.cancel (slotsOf f) false))) s

/-- SS.POLL (R253). -/
def execSsPoll (who : Agent) (f : FormA) (s : State) : Out :=
  issueScalar who (usesA f true false false false true false true && slotLegal f && predOk f.dst) f.pred f.pneg
    (fun c s0 => s0.whenFree c [f.dst.toNat] [] fun s1 =>
      s1.streamEnter c 4 (streamItem (s1.core c) (.poll (slotsOf f) f.dst.toNat))) s

/-- A stream program of the committed image (R243). -/
def State.streamProg (s : State) (p : Nat) : Option StreamProg :=
  match s.img.image with
  | some im => im.streams[p]?
  | none => none

/-- The starts of a core issued before another. -/
def Core.startsBefore (k : Core) (st : Start) : List Start := k.starts.filter fun x => decide (x.seq < st.seq)

/-- Whether an earlier access of the core overlaps a start's footprint and has not completed (R244): an earlier start,
a matrix instruction's A reads, or a store on its way. -/
def State.startWaits (s : State) (c : Nat) (st : Start) : Bool :=
  let k := s.core c
  (s.footprint st).any fun w =>
    s.startConflict (k.startsBefore st) w.1 w.2.1 w.2.2.1 w.2.2.2 ||
    mqConflict (k.mq.filter fun o => decide (o.seq < st.seq)) w.1 w.2.1 w.2.2.1 w.2.2.2 ||
    (w.1 == 0 && k.stores.any fun x => decide (x.seq < st.seq) && sharesGranule w.2.1 w.2.2.1 x.addr x.bytes.length)

/-- STREAM_START_BEGIN (R242, R244, R253): the address registers are set and the gather buffer is emptied. -/
def execStreamStartBegin (c slot : Nat) (s0 : State) : Out :=
  onUnit (Unit.core c && Unit.slot slot) (
    let s := s0.pumped c
    let k := s.core c
    let x := k.slot slot
    match x.running with
    | none => s
    | some st =>
      if x.begun || decide (s.epState st.epoch = .aborting) then s
      else
        match s.streamProg st.prog with
        | none => s.unitTrap c st.pc tUnit 0 stAborted
        | some _ =>
          if s.startWaits c st then s
          else
            let a := nset 0 (nset 0 (nset 0 [] 0 st.a0) 1 st.a1) 2 st.a2
            let y : Slot := { x with a := a, loops := [], ppc := 0, ended := false, moved := 0, rowsLeft := 0, gather := [] }
            (s.setCore c (k.setSlot slot { y with begun := true })).bump 0x04 c stStarts 1)

/-- STREAM_START_END (R242): END has run and every write has taken effect; the pending start takes its place. -/
def execStreamStartEnd (c slot : Nat) (s0 : State) : Out :=
  onUnit (Unit.core c && Unit.slot slot) (
    let s := s0.pumped c
    let k := s.core c
    let x := k.slot slot
    if x.running.isNone || !x.begun || !x.ended || k.slotStores slot then s
    else
      (s.setCore c (k.setSlot slot { x with running := x.pending, pending := none, begun := false, ended := false, gather := [] })).pumped c)

/-! ### Stream instructions (R245 to R250) -/

/-- An address register of a slot. -/
def Slot.areg (x : Slot) (n : Nat) : W64 := nget 0 x.a n

/-- Sets an address register. -/
def Slot.setA (x : Slot) (n : Nat) (v : W64) : Slot := { x with a := nset 0 x.a n v }

/-- The opcode of a stream instruction (R245). -/
def streamOp (w : W64) : Nat := fld w 59 5

/-- One instruction of a slot's program: its effect where the slot stands at an instruction of that opcode. -/
def streamStep (c slot op : Nat) (s : State) (eff : Slot → Start → StreamProg → W64 → State) : Out :=
  onUnit (Unit.core c && Unit.slot slot) (
    let x := (s.core c).slot slot
    match x.running with
    | none => s
    | some st =>
      match s.streamProg st.prog with
      | none => s
      | some p =>
        match p.code[x.ppc]? with
        | none => s
        | some w =>
          if x.begun && !x.ended && streamOp w == op && !decide (s.epState st.epoch = .aborting) then eff x st p w else s)

/-- Sets a slot of a core of the state. -/
def State.setSlot (s : State) (c i : Nat) (x : Slot) : State := s.modCore c fun k => k.setSlot i x

/-- The place after the ENDL that matches a LOOP: depth counts the levels still open. -/
def skipLoop : List W64 → Nat → Nat → Nat
  | [], _, i => i
  | w :: r, d, i =>
    if streamOp w = 1 then skipLoop r (d + 1) (i + 1)
    else if streamOp w = 2 then (if d = 0 then i + 1 else skipLoop r (d - 1) (i + 1))
    else skipLoop r d (i + 1)

/-- A slot after LOOP (R246): a count of 0 skips the body and its ENDL. -/
def Slot.loop (x : Slot) (p : StreamProg) (w : W64) : Slot :=
  let n := if fld w 58 1 = 1 then (x.areg (fld w 55 3)).toNat % 2 ^ 32 else fld w 0 32
  if n = 0 then { x with ppc := skipLoop (p.code.drop (x.ppc + 1)) 0 (x.ppc + 1) }
  else { x with loops := { head := x.ppc + 1, count := n, left := n } :: x.loops, ppc := x.ppc + 1 }

/-- LOOP (R246). -/
def execStreamLoop (c slot : Nat) (s : State) : Out := streamStep c slot 1 s fun x _ p w => s.setSlot c slot (x.loop p w)

/-- A stride of ENDL (R246): an address register, or a signed 24-bit number. -/
def endlStride (x : Slot) (reg : Bool) (v : Nat) : W64 := if reg then x.areg (v % 8) else BitVec.ofInt 64 (sextN 24 v)

/-- A slot after ENDL (R246). -/
def Slot.endl (x : Slot) (w : W64) : Slot :=
  let d1 := endlStride x (fld w 51 1 == 1) (fld w 26 24)
  let d2 := endlStride x (fld w 50 1 == 1) (fld w 2 24)
  let r1 := fld w 55 3
  let r2 := fld w 52 3
  let add (y : Slot) (r : Nat) (v : W64) : Slot := y.setA r (y.areg r + v)
  let y := add (add x r1 d1) r2 d2
  match x.loops with
  | [] => { y with ppc := x.ppc + 1 }
  | l :: rest =>
    if 1 < l.left then { y with loops := { l with left := l.left - 1 } :: rest, ppc := l.head }
    else
      let n := w64 l.count
      let z := if fld w 58 1 = 1 then add (add y r1 (-(n * d1))) r2 (-(n * d2)) else y
      { z with loops := rest, ppc := x.ppc + 1 }

/-- ENDL (R246). -/
def execStreamEndl (c slot : Nat) (s : State) : Out := streamStep c slot 2 s fun x _ _ w => s.setSlot c slot (x.endl w)

/-- A slot after ADDA (R246). -/
def Slot.adda (x : Slot) (w : W64) : Slot :=
  let v := if fld w 52 1 = 1 then x.areg (fld w 49 3) else BitVec.ofInt 64 (sextN 32 (fld w 0 32))
  { x.setA (fld w 56 3) (x.areg (fld w 53 3) + v) with ppc := x.ppc + 1 }

/-- ADDA (R246). -/
def execStreamAdda (c slot : Nat) (s : State) : Out := streamStep c slot 3 s fun x _ _ w => s.setSlot c slot (x.adda w)

/-- END (R245). -/
def execStreamEnd (c slot : Nat) (s : State) : Out :=
  streamStep c slot 0 s fun x _ _ _ => s.setSlot c slot { x with ended := true }

/-! ### Moving bytes (R247, R248, R254, R259) -/

/-- Whether bytes of a space lie in a start's windows, windows with WRITE for a write (R244). -/
def State.inWindows (s : State) (st : Start) (addr n : Nat) (write : Bool) : Bool :=
  let ws := (s.footprint st).filter fun w => w.1 == addr / 2 ^ 60 && (w.2.2.2 || !write)
  let a : Int := (addr % 2 ^ 60 : Nat)
  ws.any (fun w => decide (w.2.1 ≤ a) && decide (a + n ≤ w.2.1 + w.2.2.1)) ||
  (List.range n).all fun i => ws.any fun w => decide (w.2.1 ≤ a + i) && decide (a + i < w.2.1 + w.2.2.1)

/-- A slot's read or write of bytes: its place, or nothing for a UNIT trap (R248, R250, R259). -/
def State.streamLoc (s : State) (c : Nat) (st : Start) (addr n : Nat) (write : Bool) (spaces : List Nat) : Option Loc :=
  if !spaces.contains (addr / 2 ^ 60) || !s.inWindows st addr n write then none else s.resolve c addr n false

/-- The line that a slot reads for a piece of n bytes (R254, R259): its 128 bytes; poisoned data anywhere in it faults. -/
def State.lineRead (s : State) (c n cls : Nat) (l : Loc) : MemAns :=
  match l with
  | .dev off =>
    let b := lineOf off
    match s.readRaw c n l tUnit cls with
    | .ok _ s1 =>
      if s1.readPoison c b 128 then .trap tUnit stEcc (s1.passedLine b 128)
      else .ok (maskBytes (s.mayBytes (s.core c) b 128 false) (s1.devBytes c b 128)) s1
    | r => r
  | .own o off => s.readRaw c 128 (.own o (lineOf off)) tUnit cls
  | .remote a => s.readRaw c 128 (.remote (lineOf a)) tUnit cls
  | _ => s.readRaw c n l tUnit cls

/-- A read of at most one line's bytes by a slot (R254): from the gather buffer, or as a line read into it. -/
def State.gatherRead (s : State) (c slot addr n cls : Nat) (l : Loc) : MemAns :=
  let x := (s.core c).slot slot
  let sp := addr / 2 ^ 60
  let ln := addr % 2 ^ 60 / 128
  if sp = 1 then s.readRaw c n l tUnit cls
  else
    match x.gather.find? fun g => g.space == sp && g.line == ln with
    | some g =>
      let x1 := { x with gather := (x.gather.filter fun y => !(y.space == sp && y.line == ln)) ++ [g] }
      .ok (rdBytes g.data (addr % 128) n) ((s.setSlot c slot x1).bump 0x04 c stGatherHits 1)
    | none =>
      match s.lineRead c n cls l with
      | .ok line s1 =>
        let kept := if 32 ≤ x.gather.length then x.gather.drop 1 else x.gather
        .ok ((line.drop (addr % 128)).take n) ((s1.bump 0x04 c stLineReads 1).setSlot c slot
          { x with gather := kept ++ [{ space := sp, line := ln, data := wrBytes [] 0 line }] })
      | y => y

/-- A run of bytes read by a slot, line by line. -/
def State.gatherBytes (s : State) (c slot addr n cls : Nat) : MemAns :=
  (blocksOf 128 addr n).foldl (fun acc b =>
    match acc with
    | .ok got s1 =>
      let a := max addr b
      let m := min (addr + n) (b + 128) - a
      match s1.resolve c a m false with
      | none => .trap tUnit stAborted s1
      | some l =>
        match s1.gatherRead c slot a m cls l with
        | .ok bs s2 => .ok (got ++ bs) s2
        | y => y
    | y => y) (MemAns.ok [] s)

/-- A slot's write of bytes: the lines that its gather buffer holds follow it (R254). -/
def State.slotWrite (s : State) (c slot addr cls : Nat) (l : Loc) (bs : List Byte) : MemAns :=
  match s.writeRaw c l bs cls (slot + 1) with
  | .ok _ s1 =>
    let runs : List (Nat × List Byte) := match l with
      | .dev off => (allowedRuns off ((s.mayBytes (s.core c) off bs.length true).zip bs)).map fun (r : Nat × List Byte) =>
          (r.1 + addr / 2 ^ 44 * 2 ^ 44, r.2)
      | _ => [(addr % 2 ^ 60, bs)]
    let x := (s1.core c).slot slot
    .ok [] (s1.setSlot c slot { x with gather := runs.foldl (fun g r => putLines g (addr / 2 ^ 60) r.1 r.2) x.gather })
  | y => y

/-- The fields of MOVE (R247). -/
structure MoveF where
  src : Nat
  dst : Nat
  tgt : Nat
  mode : Nat
  fmt : Nat
  cls : Nat
  adv : Bool
  desc : Nat
  lead : Nat
  len : Nat
deriving DecidableEq, Repr

/-- MOVE's fields of a word (R247). -/
def moveOf (w : W64) : MoveF :=
  { src := fld w 56 3, dst := fld w 53 3, tgt := fld w 51 2, mode := fld w 49 2, fmt := fld w 44 5, cls := fld w 41 3,
    adv := fld w 40 1 == 1, desc := fld w 32 8, lead := fld w 24 8, len := fld w 0 24 }

/-- The table set that a MOVE's DESC supplies (R251, R259); nothing for a descriptor fault. -/
def moveTables (k : Core) (m : MoveF) : Option Nat :=
  if m.tgt = 0 ∧ (m.fmt = 0x10 ∨ m.fmt = 0x11) then
    match k.td[m.desc]? with
    | none => none
    | some d => if d.format ≠ m.fmt ∨ d.tableSet = 0xFFFF then none else some d.tableSet
  else some 0xFFFF

/-- A slot whose MOVE is complete: ADV and the next instruction (R247). -/
def Slot.moveDone (x : Slot) (m : MoveF) : Slot :=
  let y := if m.adv then
      let y1 := x.setA m.src (x.areg m.src + w64 m.len)
      if m.tgt = 1 then y1.setA m.dst (y1.areg m.dst + w64 m.len) else y1
    else x
  { y with ppc := x.ppc + 1, moved := 0, rowsLeft := 0 }

/-- A slot after n more bytes of its MOVE moved. -/
def Slot.movedBy (x : Slot) (m : MoveF) (n : Nat) : Slot :=
  if m.len ≤ x.moved + n then x.moveDone m else { x with moved := x.moved + n }

/-- E of R250. -/
def tileE (fmt : Nat) : Nat :=
  if blockElems fmt ≠ 0 then 64 else if fmtWidth fmt = 32 then 16 else if fmtWidth fmt = 16 then 32 else 64

/-- A slot after XMOVE (R250). -/
def Slot.xmoveDone (x : Slot) (w : W64) : Slot :=
  let e := tileE (fld w 44 5)
  let y := if fld w 40 1 = 1 then
      let z := x.setA (fld w 56 3) (x.areg (fld w 56 3) + w64 e * x.areg (fld w 50 3))
      z.setA (fld w 53 3) (z.areg (fld w 53 3) + w64 (e * rowBytes (fld w 44 5) e))
    else x
  { y with ppc := x.ppc + 1 }

/-- The source address that lies a number of source bytes ahead of a slot, along the addresses that its program will name (R255); nothing
beyond its END, or beyond the instructions looked at. -/
def StreamProg.ahead (p : StreamProg) : Nat → Slot → Nat → Option Nat
  | 0, _, _ => none
  | fuel + 1, x, skip =>
    match p.code[x.ppc]? with
    | none => none
    | some w =>
      match streamOp w with
      | 1 => StreamProg.ahead p fuel (x.loop p w) skip
      | 2 => StreamProg.ahead p fuel (x.endl w) skip
      | 3 => StreamProg.ahead p fuel (x.adda w) skip
      | 4 =>
        let m := moveOf w
        let rest := if m.mode = 3 then 0 else m.len - x.moved
        if skip < rest then some (x.areg m.src + w64 (x.moved + skip)).toNat
        else StreamProg.ahead p fuel (x.moveDone m) (skip - rest)
      | 5 =>
        let n := rowBytes (fld w 44 5) (tileE (fld w 44 5))
        let total := tileE (fld w 44 5) * n
        if skip < total then some (x.areg (fld w 56 3) + w64 (skip / n) * x.areg (fld w 50 3) + w64 (skip % n)).toNat
        else StreamProg.ahead p fuel (x.xmoveDone w) (skip - total)
      | _ => none

/-- The lead walker of a MOVE (R255): one sill-only fill, for a line as far ahead of the slot as it may be; how far is open, up to
LEAD × 4 KiB, and so is how far the walker has come. It issues none while its bay has no free miss entry.
[DESIGN CHOICE, log entry 41: safe] -/
def State.leadFill (s : State) (c : Nat) (p : StreamProg) (x : Slot) (m : MoveF) : State :=
  if m.lead = 0 ∨ (x.areg m.src).toNat / 2 ^ 60 ≠ 0 then s
  else
    let d := s.draw % (m.lead * 32 + 1) * 128
    let s1 := s.drew
    match (if d = 0 then none else p.ahead 65536 x d) with
    | none => s1
    | some a =>
      let ln := if a / 2 ^ 44 = s.moduleId then lineOf (a % 2 ^ 44) else remoteLine a
      if 2 ^ 60 ≤ a ∨ (s1.hintBay (clusterOf c) ln false).any fun b => decide (64 ≤ (s1.bay b).miss.length) then s1
      else
        match s1.sillFill c ln m.cls false with
        | (s2, true) => s2.bump 0x04 c stLeadFills 1
        | (s2, false) => s2

/-- Bytes a stream port holds (R128). -/
def portBytes : Nat := 4096

/-- The end of a memory access by a slot that did not succeed. -/
def State.slotFault (s : State) (c : Nat) (st : Start) (addr : Nat) (r : MemAns) : State :=
  match r with
  | .ok _ _ => s
  | .trap _ status s1 =>
    (if (s1.resolve c addr 1 false).isNone then s1.noteRefused addr else s1).unitTrap c st.pc tUnit addr status
  | .wait w => s.wakeFor w

/-- Bytes of the next piece of a plain MOVE (R178, R254): at most 64, cut where the target, or else the source, crosses an aligned 64
bytes, so that no aligned word is written in parts; a copy out of the scratchpad whose words lie askew moves at once.
[DESIGN CHOICE, log entry 42: safe] -/
def pieceLen (x : Slot) (m : MoveF) : Nat :=
  let addr := (x.areg m.src + w64 x.moved).toNat
  let daddr := (x.areg m.dst + w64 x.moved).toNat
  let rest := m.len - x.moved
  match m.tgt with
  | 0 => min (min rest (64 - addr % 64)) (portBytes - x.port.length)
  | 1 => if addr / 2 ^ 60 = 1 ∧ addr % 4 ≠ daddr % 4 then rest else min rest (64 - daddr % 64)
  | _ => min rest (128 - addr % 128)

/-- A piece of a MOVE whose target is the sill alone (R248): the line of its bytes. -/
def sillMove (s : State) (c slot : Nat) (x : Slot) (st : Start) (m : MoveF) : State :=
  let addr := (x.areg m.src + w64 x.moved).toNat
  match s.streamLoc c st addr (pieceLen x m) false [0] with
  | none => s.unitTrap c st.pc tUnit addr stAborted
  | some l =>
    let r := s.sillFill c (match l with
      | .dev off => lineOf off
      | _ => remoteLine addr) m.cls false
    (if r.2 then r.1.bump 0x04 c stLeadFills 1 else r.1).setSlot c slot (x.movedBy m (pieceLen x m))

/-- A piece of a plain MOVE (R248, R254). -/
def plainMove (s0 : State) (c slot : Nat) (x : Slot) (st : Start) (p : StreamProg) (m : MoveF) : State :=
  let addr := (x.areg m.src + w64 x.moved).toNat
  let n := pieceLen x m
  let s := s0.leadFill c p x m
  if m.tgt = 2 then sillMove s c slot x st m
  else
    match moveTables (s.core c) m with
    | none => s0.unitTrap c st.pc tUnit 0 stAborted
    | some set =>
      if n = 0 then s0
      else if (s.streamLoc c st addr n false [0, 1, 2]).isNone then s0.unitTrap c st.pc tUnit addr stAborted
      else
        match s.gatherBytes c slot addr n m.cls with
        | .ok bs s1 =>
          if m.tgt = 0 then
            let y := (s1.core c).slot slot
            let add := bs.map fun b => ({ byte := b, fmt := m.fmt, tableSet := set } : PortByte)
            (s1.setSlot c slot ({ y with port := y.port ++ add }.movedBy m n)).bump 0x04 c stBytesOut n
          else
            let daddr := (x.areg m.dst + w64 x.moved).toNat
            match s.streamLoc c st daddr n true [0, 1, 2] with
            | none => s0.unitTrap c st.pc tUnit daddr stAborted
            | some dl =>
              let a0 := (x.areg m.src).toNat
              let b0 := (x.areg m.dst).toNat
              let clash := decide (a0 < b0 + m.len) && decide (b0 < a0 + m.len)
              let out := if clash then s1.drawBytes n else bs
              match (if clash then s1.drew else s1).slotWrite c slot daddr m.cls dl out with
              | .ok _ s2 =>
                let y := (s2.core c).slot slot
                (s2.setSlot c slot (y.movedBy m n)).bump 0x04 c stBytesOut n
              | r => s0.slotFault c st daddr r
        | r => s0.slotFault c st addr r

/-- A row MOVE begins (R248, R249): its source and target are checked and its rows become outstanding.
[DEDUCED, log entry 44: unsafe] -/
def rowMove (s : State) (c slot : Nat) (x : Slot) (st : Start) (m : MoveF) : State :=
  if x.rowsLeft ≠ 0 then s
  else
    let addr := (x.areg m.src).toNat
    let daddr := (x.areg m.dst).toNat
    let srcBad := m.mode ≠ 3 && (addr % 1024 != 0 || decide (hbmEnd ≤ addr % 2 ^ 44) ||
      (s.streamLoc c st addr m.len false [0]).isNone)
    let dstBad := m.tgt = 1 && (s.streamLoc c st daddr m.len true [1]).isNone
    if srcBad then s.unitTrap c st.pc tUnit addr stAborted
    else if dstBad then s.unitTrap c st.pc tUnit daddr stAborted
    else
      match (if m.mode = 2 then some 0xFFFF else moveTables (s.core c) m) with
      | none => s.unitTrap c st.pc tUnit 0 stAborted
      | some _ => s.setSlot c slot { x with rowsLeft := m.len / 1024 }

/-- MOVE (R247 to R249). -/
def execStreamMove (c slot : Nat) (s : State) : Out :=
  streamStep c slot 4 s fun x st p w =>
    let m := moveOf w
    if m.mode = 0 then plainMove s c slot x st p m else rowMove (s.leadFill c p x m) c slot x st m

/-! ### Row transfers (R203, R249) -/

/-- The MOVE at which a core's slot stands with rows outstanding. -/
def State.rowMoveOf (s : State) (c slot : Nat) : Option (Slot × Start × MoveF) :=
  let x := (s.core c).slot slot
  match x.running with
  | none => none
  | some st =>
    match s.streamProg st.prog with
    | none => none
    | some p =>
      match p.code[x.ppc]? with
      | none => none
      | some w => if streamOp w = 4 ∧ x.rowsLeft ≠ 0 ∧ x.begun ∧ !x.ended then some (x, st, moveOf w) else none

/-- The members that a broadcast reaches (R203): those of the logical cluster that run in the phase. -/
def State.rowTargets (s : State) (c : Nat) : List Nat :=
  let k := s.core c
  (s.cores.filter fun e => e.2.run == k.run && e.2.run != 0 && (e.2.running || e.2.done) && e.2.vcore != 0 && !s.standsIn e.1 &&
    (e.2.vcore - 1) / 16 == (k.vcore - 1) / 16).map (·.1)

/-- Whether a target is ready for a row (R203, R249): the sender, or a slot at a MODE 3 MOVE with the same TGT; a port
has 1 KiB free. -/
def State.rowReady (s : State) (sender slot : Nat) (m : MoveF) (t : Nat) : Bool :=
  (if t = sender then true
   else match s.rowMoveOf t slot with
     | some (_, _, r) => r.mode == 3 && r.tgt == m.tgt
     | none => false) &&
  (m.tgt != 0 || decide (((s.core t).slot slot).port.length + 1024 ≤ portBytes))

/-- The bytes of a row and which are poisoned (R203, R248, R272, R499): each line's value, never a provisional one, with the writes of
the same start that have not landed. -/
def State.rowBytesAt (s : State) (c slot addr : Nat) : List (Byte × Bool) :=
  let withOwn (bs : List Byte) : List Byte :=
    ((s.core c).stores.filter fun w => w.src == slot + 1 && s.ordinary w.epoch).foldl (fun x w => overlay addr x w.addr w.bytes) bs
  if addr / 2 ^ 44 % 2 ^ 12 ≠ s.moduleId then (withOwn (s.drawBytes 1024)).map fun b => (b, false)
  else
    let off := addr % 2 ^ 44
    let bs := maskBytes (s.mayBytes (s.core c) off 1024 false) (withOwn (s.memRead off 1024))
    let bad := (List.range 128).map fun i => s.wordPoison (off + 8 * i)
    (List.range 1024).map fun i => (bs.getD i 0, bad.getD (i / 8) false)

/-- One target takes a row (R249): into its port under its own MOVE's tag, or into its scratchpad. -/
def State.rowInto (s : State) (sender slot row : Nat) (m : MoveF) (daddr : Nat) (bytes : List (Byte × Bool)) (t : Nat) : State :=
  match s.rowMoveOf t slot with
  | none => s
  | some (x, st, r) =>
    if m.tgt = 1 ∧ t ≠ sender ∧ x.areg r.dst ≠ ((s.core sender).slot slot).areg m.dst then
      s.unitTrap t st.pc tUnit (x.areg r.dst).toNat stAborted
    else
      let s1 :=
        if m.tgt = 0 then
          let set := (moveTables (s.core t) r).getD 0xFFFF
          s.setSlot t slot { x with port := x.port ++ bytes.map fun b =>
            ({ byte := b.1, fmt := r.fmt, tableSet := set, bad := b.2 } : PortByte) }
        else
          let off := (daddr + 1024 * row) % 2 ^ 32
          let s0 := s.localWrite t (s.core t).epoch 1 t off (bytes.map (·.1))
          let badWords := ((List.range 128).filter fun i => (bytes.getD (8 * i) (0, false)).2).map fun i => off / 8 + i
          s0.modCore t fun k => { k with spadBad := k.spadBad ++ badWords }
      let y := (s1.core t).slot slot
      let s2 := s1.setSlot t slot (if x.rowsLeft = 1 then y.moveDone r else { y with rowsLeft := x.rowsLeft - 1 })
      s2.bump 0x04 t stBytesOut 1024

/-- Whether a line of a row is absent where it is looked up, and can be filled: it passes the fence and is not poisoned. -/
def State.rowAbsent (s : State) (c cls ln : Nat) : Bool :=
  ((s.bay (s.readBay (clusterOf c) ln cls false)).find ln).isNone &&
  (isRemoteLine ln || ((s.mayBytes (s.core c) ln 128 false).any id && !s.linePoison ln))

/-- The lines of a row's block become present (R203): absent ones are filled first; the flag says whether all are there. The lines
that were there already are hit.
[DEDUCED, log entry 158: safe] -/
def State.rowFill (s : State) (c cls : Nat) (lines : List Nat) : State × Bool :=
  let cl := clusterOf c
  let absent := lines.filter (s.rowAbsent c cls)
  if absent.any fun ln => s.entriesBusy cl ln cls || ((s.bay (s.readBay cl ln cls false)).missOf ln).isSome then (s, false)
  else
    let s1 := absent.foldl (fun st ln => st.touch cl ln cls) s
    if absent.any (s1.rowAbsent c cls) then (s1, false)
    else ((lines.filter fun ln => !absent.contains ln).foldl (fun st ln => st.touch cl ln cls) s1, true)

/-- ROW_TRANSFER (R203, R249): one row of a slot's MODE 1 or MODE 2 MOVE. -/
def rowTransfer (c slot : Nat) (s0 : State) : State :=
  match s0.rowMoveOf c slot with
  | none => s0
  | some (x, st, m) =>
    if m.mode = 3 ∨ m.mode = 0 then s0
    else
      let row := m.len / 1024 - x.rowsLeft
      let s := match s0.streamProg st.prog with
        | some p => s0.leadFill c p { x with moved := 1024 * row } m
        | none => s0
      let addr := (x.areg m.src).toNat + 1024 * row
      let off := addr % 2 ^ 44
      let targets := if m.mode = 2 then s.rowTargets c else [c]
      let here := decide (addr / 2 ^ 44 % 2 ^ 12 = s.moduleId)
      if !targets.all (s.rowReady c slot m) then s0
      else if here && s.doorAt off then s0.unitTrap c st.pc tUnit addr stDoorClosed
      else if here && s.asleep (partOfOff off) then s0.demandWake (partOfOff off)
      else
        let n := clusterOf c
        let r := s.rowFill c m.cls ((List.range 8).map fun i => if here then off + 128 * i else remoteLine (addr + 128 * i))
        if !r.2 then r.1
        else
          let bytes := r.1.rowBytesAt c slot addr
          let s1 := if here then r.1 else r.1.drew
          let s2 := if s.cfld (offBayCfg n) 16 1 = 1 then s1.bump 0x10 n 2 1
            else (s1.bump 0x10 n 3 1).farBeats n (16 * (targets.length - 1))
          let s3 := if (s.mayBytes (s.core c) off 1024 false).all id || !here then s2 else s2.refuse (s.core c).fnOf
          targets.foldl (fun st1 t => st1.rowInto c slot row m (x.areg m.dst).toNat bytes t) s3

/-- ROW_TRANSFER (R203, R249). -/
def execRowTransfer (c slot : Nat) (s : State) : Out := onUnit (Unit.core c && Unit.slot slot) (rowTransfer c slot s)

/-! ### XMOVE (R250) -/

/-- Output rows of a transposed tile, from its source rows (R250). -/
def transposeTile (fmt : Nat) (rows : List (List Byte)) : List (List Byte) :=
  let e := tileE fmt
  let w := fmtWidth fmt
  (List.range e).map fun c =>
    if blockElems fmt = 0 then
      leBytes (rowBytes fmt e) (packBits w (rows.map fun r => bitsN (leNat r) (w * c) w))
    else
      let xs := rows.map fun r => storedElem fmt (fun _ => []) r c
      mxEncode fmt (xs.take 32) (fun _ => none) ++ mxEncode fmt (xs.drop 32) (fun _ => none)

/-- Reads the source rows of a tile in turn. -/
def State.readRows (s : State) (c slot n : Nat) (st : Start) (cls : Nat) (addrs : List Nat) :
    Except (Nat × MemAns) (List (List Byte) × State) :=
  addrs.foldl (fun acc a =>
    match acc with
    | .error e => .error e
    | .ok (rows, s1) =>
      match s1.streamLoc c st a n false [0, 1, 2] with
      | none => .error (a, .trap tUnit stAborted s1)
      | some _ =>
        match s1.gatherBytes c slot a n cls with
        | .ok bs s2 => .ok (rows ++ [bs], s2)
        | r => .error (a, r)) (.ok ([], s))

/-- XMOVE (R206, R250). -/
def execStreamXmove (c slot : Nat) (s : State) : Out :=
  streamStep c slot 5 s fun x st _ w =>
    let fmt := fld w 44 5
    let e := tileE fmt
    let n := rowBytes fmt e
    let base := x.areg (fld w 56 3)
    let stride := x.areg (fld w 50 3)
    let out := x.areg (fld w 53 3)
    let addrs := (List.range e).map fun r => (base + w64 r * stride).toNat
    let al := fmtAlign fmt
    if base.toNat % al ≠ 0 ∨ stride.toNat % al ≠ 0 then s.unitTrap c st.pc tUnit base.toNat stAborted
    else if out.toNat % al ≠ 0 then s.unitTrap c st.pc tUnit out.toNat stAborted
    else
      match s.streamLoc c st out.toNat (e * n) true [1, 2] with
      | none => s.unitTrap c st.pc tUnit out.toNat stAborted
      | some l =>
        match s.readRows c slot n st (fld w 41 3) addrs with
        | .error (a, r) => s.slotFault c st a r
        | .ok (rows, s1) =>
          match s1.slotWrite c slot out.toNat (fld w 41 3) l (transposeTile fmt rows).flatten with
          | .ok _ s2 =>
            let s3 := (s2.setSlot c slot (((s2.core c).slot slot).xmoveDone w)).bump 0x04 c stBytesOut (e * n)
            if base.toNat / 2 ^ 60 = 2 ∧ blockElems fmt = 0 ∧ 8 ≤ fmtWidth fmt ∧ base.toNat % 64 = 0 ∧ stride.toNat % 64 = 0
            then s3.bump 0x10 (clusterOf c) 4 1 else s3
          | r => s.slotFault c st out.toNat r

end Sys2Proof.Machine
end

