-- ==== Sys2Proof/Machine/Image.lean ====
section
/-! DEFINITION. The image as IMAGE_COMMIT reads and checks it: header, directory, tables, manifest, programs, stream
programs, phase records, affinity graph and signatures (R44 to R55, R99 to R101, R110, R111, R243 to R252, R309 to R311,
R541). Each check gives the byte offsets of the fields that break it; the first of them is the lowest (R375). -/

namespace Sys2Proof.Machine
open Sys2Proof

/-- The bytes of a staged image by offset. -/
abbrev Bytes := Nat → Byte

/-- The little-endian number in n bytes. -/
def gN (g : Bytes) (o n : Nat) : Nat := leNat ((List.range n).map fun i => g (o + i))

/-- n bytes. -/
def gBytes (g : Bytes) (o n : Nat) : List Byte := (List.range n).map fun i => g (o + i)

/-- The bytes of a reserved field that are not 0 (R47, R54). -/
def nonZero (g : Bytes) (o n : Nat) : List Nat := (List.range n).filterMap fun i => if g (o + i) = 0 then none else some (o + i)

/-- Whether two ranges share a byte. -/
def bytesMeet (a n b m : Nat) : Bool := decide (0 < n) && decide (0 < m) && decide (a < b + m) && decide (b < a + n)

/-- Elements of a list with the elements before them. -/
def withPrev {α : Type} : List α → List α → List (List α × α)
  | _, [] => []
  | prev, x :: r => (prev, x) :: withPrev (prev ++ [x]) r

/-! ### Header and directory (R44 to R47) -/

/-- SECTION_COUNT. -/
def secCount (g : Bytes) : Nat := gN g 0x18 4
/-- VCORE_COUNT. -/
def vcoreCount (g : Bytes) : Nat := gN g 0x1C 4
/-- TENSOR_COUNT. -/
def tensorCount (g : Bytes) : Nat := gN g 0x20 4
/-- PHASE_COUNT. -/
def phaseCount (g : Bytes) : Nat := gN g 0x24 4

/-- The fields of the header that break R44 or R47, for a session of len bytes. -/
def headerBad (g : Bytes) (len : Nat) : List Nat :=
  flag (gBytes g 0 8 != [0x43, 0x48, 0x52, 0x4F, 0x48, 0x41, 0x49, 0x4D]) 0x00 ++ flag (gN g 0x08 2 != 1) 0x08 ++
  flag (gN g 0x0B 1 != 1) 0x0A ++ flag (gN g 0x0C 2 != 1) 0x0C ++ flag (decide (2 ≤ gN g 0x0E 2)) 0x0E ++
  flag (gN g 0x10 8 != len) 0x10 ++ flag (secCount g == 0 || decide (32 < secCount g)) 0x18 ++
  flag (vcoreCount g == 0 || decide (20480 < vcoreCount g)) 0x1C ++
  flag (tensorCount g == 0 || decide (1048576 < tensorCount g)) 0x20 ++
  flag (phaseCount g == 0 || decide (256 < phaseCount g)) 0x24 ++ flag (decide (11 < gN g 0x28 1)) 0x28 ++
  nonZero g 0x29 7 ++ nonZero g 0x40 192

/-- A directory entry (R45). -/
structure DirEntry where
  entry : Nat
  type : Nat
  sflags : Nat
  off : Nat
  len : Nat
deriving DecidableEq, Repr

/-- The directory. -/
def sections (g : Bytes) : List DirEntry :=
  (List.range (secCount g)).map fun k =>
    let d := 0x100 + 64 * k
    { entry := d, type := gN g d 2, sflags := gN g (d + 2) 2, off := gN g (d + 8) 8, len := gN g (d + 0x10) 8 }

/-- The section types of R46. -/
def knownType (t : Nat) : Bool := [1, 2, 3, 4, 5, 6, 7, 0xFF].contains t

/-- The section of a type, empty where the image has none. -/
def secOf (g : Bytes) (t : Nat) : DirEntry := ((sections g).find? (·.type == t)).getD { entry := 0, type := t, sflags := 0, off := 0, len := 0 }

/-- The fields of one directory entry that break R45 to R47.
[DEDUCED, log entry 61: unsafe] -/
def secBad (g : Bytes) (len : Nat) (prev : List DirEntry) (x : DirEntry) : List Nat :=
  let d := x.entry
  let fixed := flag (decide (2 ≤ x.sflags)) (d + 2) ++ nonZero g (d + 4) 4 ++ nonZero g (d + 0x38) 8
  if !knownType x.type then fixed ++ flag (x.sflags % 2 == 0) d
  else
    let before := prev.filter fun y => knownType y.type
    let last := 0x100 + 64 * (secCount g - 1)
    fixed ++ flag (before.any (·.type == x.type)) d ++
    flag (x.off % 4096 != 0 || bytesMeet x.off x.len 0 (0x100 + 64 * secCount g) ||
          before.any fun y => bytesMeet x.off x.len y.off y.len) (d + 8) ++
    flag (decide (len < x.off + x.len)) (d + 0x10) ++
    flag (decide (x.off + x.len ≤ len) && sha256 (gBytes g x.off x.len) != gBytes g (d + 0x18) 32) (d + 0x18) ++
    (if x.type = 3 then flag (x.len != 64 * tensorCount g) (d + 0x10) else []) ++
    (if x.type = 0xFF then
      flag (x.len != (if gN g x.off 4 = 1 then 16304 else 16)) (d + 0x10) ++ flag (d != last) d ++
      flag ((sections g).any fun y => decide (x.off < y.off)) (d + 8)
     else [])

/-- The fields of the directory that break R45 to R47. -/
def dirBad (g : Bytes) (len : Nat) : List Nat := (withPrev [] (sections g)).flatMap fun e => secBad g len e.1 e.2

/-- A missing section names SECTION_COUNT (R375). -/
def missingBad (g : Bytes) : List Nat := [1, 2, 3, 5, 6, 0xFF].flatMap fun t => flag (!(sections g).any (·.type == t)) 0x18

/-! ### Codebook tables (R110, R111) -/

/-- A table set's directory entry. -/
structure CbSet where
  entry : Nat
  kind : Nat
  count : Nat
  off : Nat
deriving DecidableEq, Repr

/-- Bytes of one table of a set's KIND. -/
def tableBytes (kind : Nat) : Nat := if kind = 0x10 then 32 else 16

/-- SET_COUNT, 0 without a CODEBOOK_TABLES section. -/
def setCount (g : Bytes) : Nat := if (secOf g 4).len = 0 then 0 else gN g (secOf g 4).off 4

/-- The table sets. -/
def cbSets (g : Bytes) : List CbSet :=
  (List.range (setCount g)).map fun i =>
    let e := (secOf g 4).off + 0x10 + 16 * i
    { entry := e, kind := gN g e 1, count := gN g (e + 1) 1 + 1, off := gN g (e + 4) 4 }

/-- A table entry is an infinity or a NaN. -/
def bfBad (v : Nat) : Bool := bitsN v 7 8 == 255

/-- The fields of the CODEBOOK_TABLES section that break R110 or R111. -/
def codebookBad (g : Bytes) : List Nat :=
  let x := secOf g 4
  if x.entry = 0 then []
  else if setCount g = 0 ∨ 65535 < setCount g ∨ x.len < 0x10 + 16 * setCount g then [x.off]
  else
    nonZero g (x.off + 4) 12 ++
    (withPrev [] (cbSets g)).flatMap fun p =>
      let e := p.2
      let n := e.count * tableBytes e.kind
      flag (e.kind != 0x10 && e.kind != 0x11) e.entry ++ nonZero g (e.entry + 2) 2 ++ nonZero g (e.entry + 8) 8 ++
      flag (e.off % 32 != 0 || decide (x.len < e.off + n) ||
            p.1.any fun y => bytesMeet e.off n y.off (y.count * tableBytes y.kind)) (e.entry + 4) ++
      (if x.len < e.off + n then []
       else (List.range (n / 2)).flatMap fun j => flag (bfBad (gN g (x.off + e.off + 2 * j) 2)) (x.off + e.off + 2 * j))

/-- The tables of a set from an accessor to its first byte. -/
def readTables (g : Bytes) (o kind count : Nat) : List (List (BitVec 16)) :=
  (List.range count).map fun t => (List.range (tableBytes kind / 2)).map fun j =>
    BitVec.ofNat 16 (gN g (o + t * tableBytes kind + 2 * j) 2)

/-! ### Manifest (R49, R55, R99, R101, R111) -/

/-- Byte offset of a manifest entry. -/
def tensorEntry (g : Bytes) (i : Nat) : Nat := (secOf g 3).off + 64 * i

/-- A manifest entry as a tensor without a place. -/
def readTensor (g : Bytes) (i : Nat) : Tensor :=
  let e := tensorEntry g i
  { id := gN g e 4, kind := gN g (e + 4) 1, fmt := gN g (e + 5) 1, use := gN g (e + 6) 1,
    shape := (List.range (gN g (e + 7) 1)).map fun k => gN g (e + 8 + 4 * k) 4, bytes := gN g (e + 0x20) 8,
    dataOff := gN g (e + 0x28) 8, tableSet := gN g (e + 0x30) 2 }

/-- The manifest. -/
def readTensors (g : Bytes) : List Tensor := (List.range (tensorCount g)).map (readTensor g)

/-- The size that R101 gives. -/
def layoutBytes (t : Tensor) : Nat := rowBytes t.fmt (t.shape.getD 0 0) * (t.shape.drop 1).foldl (· * ·) 1

/-- The fields of a manifest entry that break R49, R55, R99, R101 or R111. -/
def tensorBad (g : Bytes) (i : Nat) (prev : List Tensor) (t : Tensor) : List Nat :=
  let e := tensorEntry g i
  let rank := t.shape.length
  let cb := t.fmt == 0x10 || t.fmt == 0x11
  flag (prev.any (·.id == t.id)) e ++ flag (decide (2 < t.kind)) (e + 4) ++
  flag (t.fmt == 0 || decide (0x12 < t.fmt)) (e + 5) ++ flag (decide (4 ≤ t.use)) (e + 6) ++
  flag (rank == 0 || decide (6 < rank)) (e + 7) ++
  ((List.range 6).flatMap fun k => flag (decide (rank ≤ k) && gN g (e + 8 + 4 * k) 4 != 0) (e + 8 + 4 * k)) ++
  flag (decide (1 ≤ t.fmt) && decide (t.fmt ≤ 0x12) && decide (1 ≤ rank) && decide (rank ≤ 6) && t.bytes != layoutBytes t) (e + 0x20) ++
  flag (if t.kind = 0 then
          t.dataOff % 64 != 0 || decide ((secOf g 5).len < t.dataOff + t.bytes) ||
          prev.any (fun u => u.kind == 0 && bytesMeet t.dataOff t.bytes u.dataOff u.bytes)
        else t.dataOff != 0) (e + 0x28) ++
  flag (if cb then (match (cbSets g)[t.tableSet]? with
          | some s => s.kind != t.fmt
          | none => true)
        else t.tableSet != 0xFFFF) (e + 0x30) ++
  nonZero g (e + 0x32) 14

/-- The fields of the manifest that break a rule. -/
def manifestBad (g : Bytes) : List Nat :=
  ((withPrev [] (readTensors g)).flatMap fun p => tensorBad g p.1.length p.1 p.2)

/-! ### Core programs (R48, R54) -/

/-- PROGRAM_COUNT of CORE_PROGRAMS. -/
def progCount (g : Bytes) : Nat := gN g (secOf g 1).off 4

/-- Offset of the program table inside its section. -/
def progTable (g : Bytes) : Nat := alignUp (0x40 + 4 * vcoreCount g) 16

/-- CODE_OFFSET and the length in bytes of program i. -/
def progAt (g : Bytes) (i : Nat) : Nat × Nat :=
  let e := (secOf g 1).off + progTable g + 16 * i
  (gN g e 8, 8 * gN g (e + 8) 4)

/-- The index entry of virtual core v. -/
def progIndex (g : Bytes) (v : Nat) : Nat := gN g ((secOf g 1).off + 0x40 + 4 * v) 4

/-- The program of virtual core v: code offset in the section and length in bytes. -/
def vcProg (g : Bytes) (v : Nat) : Option (Nat × Nat) :=
  if progIndex g v < progCount g then some (progAt g (progIndex g v)) else none

/-- The fields of CORE_PROGRAMS that break R48 or R54. -/
def programsBad (g : Bytes) : List Nat :=
  let x := secOf g 1
  let n := progCount g
  if x.len < 0x40 then [x.off]
  else if n = 0 ∨ 20480 < n ∨ x.len < progTable g + 16 * n then [x.off]
  else
    flag (gN g (x.off + 4) 4 != vcoreCount g) (x.off + 4) ++ nonZero g (x.off + 8) 56 ++
    ((List.range (vcoreCount g)).flatMap fun v =>
      flag (decide (n ≤ progIndex g v) && progIndex g v != 0xFFFFFFFF) (x.off + 0x40 + 4 * v)) ++
    (List.range n).flatMap fun i =>
      let e := x.off + progTable g + 16 * i
      let p := progAt g i
      flag (p.1 % 8 != 0 || decide (x.len < p.1 + p.2)) e ++
      flag (p.2 == 0 || decide (8 * 1048576 < p.2)) (e + 8) ++ nonZero g (e + 12) 4

/-! ### Stream programs (R243 to R252) -/

/-- Whether a MOVE breaks R247 or R248. -/
def moveBad (w : W64) : Bool :=
  let m := moveOf w
  let tgt := fld w 51 2
  let fmt := fld w 44 5
  let desc := fld w 32 8
  let cb := fmt == 0x10 || fmt == 0x11
  m.len == 0 || tgt == 3 || (tgt != 1 && fld w 53 3 != 0) ||
  (if tgt = 0 then fmt == 0 || decide (0x12 < fmt) else fmt != 0) || (!(tgt == 0 && cb) && desc != 0) ||
  (match fld w 49 2 with
   | 0 => false
   | 3 => tgt == 2 || fld w 56 3 != 0 || m.len % 1024 != 0
   | _ => tgt == 2 || m.len % 1024 != 0)

/-- Whether a stream instruction breaks R245 to R250. -/
def streamInstrBad (w : W64) : Bool :=
  match streamOp w with
  | 0 => fld w 0 59 != 0
  | 1 => fld w 32 23 != 0 || (if w.getLsbD 58 then fld w 0 32 != 0 else fld w 55 3 != 0)
  | 2 => fld w 0 2 != 0 || (w.getLsbD 51 && fld w 29 21 != 0) || (w.getLsbD 50 && fld w 5 21 != 0)
  | 3 => fld w 32 17 != 0 || (if w.getLsbD 52 then fld w 0 32 != 0 else fld w 49 3 != 0)
  | 4 => moveBad w
  | 5 => w.getLsbD 49 || fld w 0 40 != 0 || fld w 44 5 == 0 || decide (0x0F < fld w 44 5)
  | _ => true

/-- The places in a program where loops nest too deep, an ENDL has no LOOP, or a LOOP has no ENDL; the last argument holds
the open LOOPs (R246, R252). -/
def loopBad : List W64 → Nat → List Nat → List Nat
  | [], _, opened => opened
  | w :: r, i, opened =>
    if streamOp w = 1 then flag (decide (6 ≤ opened.length)) i ++ loopBad r (i + 1) (i :: opened)
    else if streamOp w = 2 then flag opened.isEmpty i ++ loopBad r (i + 1) (opened.drop 1)
    else loopBad r (i + 1) opened

/-- Offset of a stream program's entry. -/
def streamEntry (g : Bytes) (p : Nat) : Nat := (secOf g 2).off + 0x40 + 64 * p

/-- The words of stream program p. -/
def streamCode (g : Bytes) (p : Nat) : List W64 :=
  let e := streamEntry g p
  (List.range (gN g (e + 4) 1)).map fun i => w64 (gN g ((secOf g 2).off + gN g e 4 + 8 * i) 8)

/-- Window k of stream program p. -/
def streamWindow (g : Bytes) (p k : Nat) : Window :=
  let e := streamEntry g p + 0x10 + 16 * k
  let f := gN g e 1
  { valid := bitsN f 7 1 == 1, write := bitsN f 6 1 == 1, space := bitsN f 4 2, base := bitsN f 0 2,
    lo := sextN 32 (gN g (e + 4) 4), size := gN g (e + 8) 8 }

/-- Number of stream programs. -/
def streamCount (g : Bytes) : Nat := gN g (secOf g 2).off 4

/-- The fields of one stream program that break R243 or R252. -/
def streamBad (g : Bytes) (p : Nat) : List Nat :=
  let x := secOf g 2
  let e := streamEntry g p
  let code := streamCode g p
  let co := gN g e 4
  let n := gN g (e + 4) 1
  let fits := decide (co + 8 * n ≤ x.len)
  flag (co % 8 != 0 || (!fits && decide (n ≤ 32))) e ++ flag (n == 0 || decide (32 < n)) (e + 4) ++ nonZero g (e + 5) 11 ++
  ((List.range 3).flatMap fun k =>
    let o := e + 0x10 + 16 * k
    let w := streamWindow g p k
    if w.valid then
      flag (bitsN (gN g o 1) 2 2 != 0 || w.space == 3 || w.base == 3) o ++ nonZero g (o + 1) 3 ++ flag (w.size == 0) (o + 8)
    else nonZero g o 16) ++
  (if !fits || decide (32 < n) then []
   else
    (((List.range n).filter fun i =>
      let w := code.getD i 0
      streamInstrBad w || (if i + 1 = n then streamOp w != 0 else streamOp w == 0)) ++ loopBad code 0 []).map fun i =>
        x.off + co + 8 * i)

/-- The fields of STREAM_PROGRAMS that break R243 or R252. -/
def streamsBad (g : Bytes) : List Nat :=
  let x := secOf g 2
  let n := streamCount g
  if n = 0 ∨ 65536 < n ∨ x.len < 0x40 + 64 * n then [x.off]
  else nonZero g (x.off + 4) 60 ++ (List.range n).flatMap (streamBad g)

/-- The stream programs. -/
def readStreams (g : Bytes) : List StreamProg :=
  (List.range (streamCount g)).map fun p => { code := streamCode g p, windows := (List.range 3).map (streamWindow g p) }

/-! ### Phase records (R50 to R54) -/

/-- Byte offset in the image of a phase record, and its length. -/
def recordAt (g : Bytes) (i : Nat) : Nat × Nat :=
  let e := (secOf g 6).off + 0x40 + 16 * i
  ((secOf g 6).off + gN g e 8, gN g (e + 8) 8)

/-- An entry offset of R51 or R52; none where the virtual core carries no program. -/
def entryAt (g : Bytes) (o : Nat) : Option Nat := if gN g o 4 = 0xFFFFFFFF then none else some (gN g o 4)

/-- Offset of the sequence table from the first byte of a thin variant (R52). -/
def seqTableOff (g : Bytes) : Nat := alignUp (4 * vcoreCount g) 32

/-- The entries of the virtual core table of the record at r. -/
def readVcs (g : Bytes) (r : Nat) : List VcEntry :=
  let thin := bitsN (gN g (r + 3) 1) 0 1 == 1
  (List.range (vcoreCount g)).map fun v =>
    let e := r + gN g (r + 8) 4 + 16 * v
    { vcore := v, entry := entryAt g e, thinEntry := if thin then entryAt g (r + gN g (r + 0x18) 4 + 4 * v) else none,
      split := gN g (e + 4) 1, cls := gN g (e + 6) 2,
      descs := (List.range (gN g (e + 8) 2)).map fun i => gN g (r + gN g (e + 0xC) 4 + 4 * i) 4 }

/-- The proxies of the sequence table at t (R309). -/
def readProxies (g : Bytes) (t : Nat) : List (Option Nat) :=
  (List.range 8).map fun j => if gN g (t + 0x10 + 2 * j) 2 = 0xFFFF then none else some (gN g (t + 0x10 + 2 * j) 2)

/-- An operation record at o (R310). -/
def readOp (g : Bytes) (o : Nat) : NbOp :=
  { w := gN g o 4, act := gN g (o + 4) 4, out := gN g (o + 8) 4, actFirst := gN g (o + 0xC) 2, mask := gN g (o + 0xE) 1,
    accumulate := bitsN (gN g (o + 0xF) 1) 0 1 == 1 }

/-- The sequences of the sequence table at t. -/
def readSeqs (g : Bytes) (t : Nat) : List NbSeq :=
  (List.range (gN g t 4)).map fun q =>
    let e := t + 0x20 + 32 * q
    { lpart := gN g e 1, cls := gN g (e + 1) 1, arg := entryAt g (e + 0xC),
      ops := (List.range (gN g (e + 4) 4)).map fun i => readOp g (t + gN g (e + 8) 4 + 32 * i) }

/-- A phase from its record. -/
def readPhase (g : Bytes) (i : Nat) : Phase :=
  let r := (recordAt g i).1
  let thin := bitsN (gN g (r + 3) 1) 0 1 == 1
  let t := r + gN g (r + 0x18) 4 + seqTableOff g
  { id := gN g r 1, partMask := BitVec.ofNat 8 (gN g (r + 1) 1), thinMax := gN g (r + 2) 1, hasThin := thin,
    bound := (List.range (gN g (r + 0xC) 4)).map fun k => gN g (r + gN g (r + 0x10) 4 + 4 * k) 4,
    rowMode := (List.range 1280).filter fun k => (g (r + gN g (r + 0x14) 4 + k / 8)).getLsbD (k % 8),
    vcs := readVcs g r, proxies := if thin then readProxies g t else [], seqs := if thin then readSeqs g t else [] }

/-- A tensor of the manifest by its id. -/
def tensorById (ts : List Tensor) (id : Nat) : Option Tensor := ts.find? (·.id == id)

/-- The fields of an operation at o of a table with the mask tensor arg that break R310 or R311. -/
def opBad (g : Bytes) (ts : List Tensor) (arg : Option Tensor) (argNone : Bool) (o : Nat) : List Nat :=
  let p := readOp g o
  let w := tensorById ts p.w
  let thinUse (t : Tensor) : Bool := 2 ≤ t.use
  let ext (t : Tensor) (i : Nat) : Nat := t.shape.getD i 0
  let wOk := w.any fun t => t.kind == 0 && [4, 5, 0xE, 0x10, 0x11, 0x12].contains t.fmt && t.shape.length == 2 &&
    decide (ext t 0 ≤ 16384) && thinUse t
  let actOk := (tensorById ts p.act).any fun t => t.kind == 2 && t.fmt == 3 && t.shape.length == 2 && thinUse t &&
    decide (p.actFirst + 8 ≤ ext t 1) && w.all fun u => ext u 0 == ext t 0
  let outOk := (tensorById ts p.out).any fun t => t.kind == 2 && t.fmt == 1 && t.shape.length == 2 && thinUse t &&
    ext t 0 == 8 && w.all fun u => ext u 1 == ext t 1
  flag (!wOk) o ++ flag (!actOk) (o + 4) ++ flag (!outOk) (o + 8) ++
  flag (p.mask != 0xFF && (argNone || arg.any fun t => decide (t.shape.getD 0 0 ≤ p.mask))) (o + 0xE) ++
  flag (decide (2 ≤ gN g (o + 0xF) 1)) (o + 0xF) ++ nonZero g (o + 0x10) 16

/-- The fields of the sequence table at t, in a thin variant that ends at fin, that break R309 to R311. -/
def seqTableBad (g : Bytes) (ts : List Tensor) (t fin : Nat) : List Nat :=
  let n := gN g t 4
  let proxies := readProxies g t
  if fin < t + 0x20 then [t]
  else if n = 0 ∨ 65536 < n ∨ fin < t + 0x20 + 32 * n then [t]
  else
    nonZero g (t + 4) 12 ++
    ((List.range 8).flatMap fun j => flag ((proxies.getD j none).any fun v => decide (vcoreCount g ≤ v) || v / 2560 != j)
      (t + 0x10 + 2 * j)) ++
    (List.range n).flatMap fun q =>
      let e := t + 0x20 + 32 * q
      let lp := gN g e 1
      let ops := gN g (e + 4) 4
      let oo := gN g (e + 8) 4
      let argId := entryAt g (e + 0xC)
      let arg := argId.bind (tensorById ts)
      let argOk := argId.isNone || arg.any fun a => a.kind == 2 && a.fmt == 8 && a.shape.length == 1 && decide (2 ≤ a.use)
      flag (decide (8 ≤ lp) || (proxies.getD lp none).isNone) e ++ flag (decide (8 ≤ gN g (e + 1) 1)) (e + 1) ++
      nonZero g (e + 2) 2 ++ flag (ops == 0 || decide (4096 < ops)) (e + 4) ++
      flag (oo % 32 != 0 || decide (fin < t + oo + 32 * ops)) (e + 8) ++ flag (!argOk) (e + 0xC) ++ nonZero g (e + 0x10) 16 ++
      (if fin < t + oo + 32 * ops then [] else (List.range ops).flatMap fun i => opBad g ts arg argId.isNone (t + oo + 32 * i))

/-- Whether an entry or thin entry at a virtual core is outside its program (R51, R54). -/
def entryBad (g : Bytes) (v : Nat) (e : Option Nat) : Bool :=
  match e with
  | none => false
  | some x => x % 8 != 0 || match vcProg g v with
    | none => true
    | some p => decide (p.2 ≤ x)

/-- The fields of the record of phase i that break R50 to R54 or R311. -/
def phaseBad (g : Bytes) (ts : List Tensor) (i : Nat) : List Nat :=
  let r := (recordAt g i).1
  let n := (recordAt g i).2
  let tab := gN g (r + 8) 4
  let bc := gN g (r + 0xC) 4
  let bl := gN g (r + 0x10) 4
  let rm := gN g (r + 0x14) 4
  let ta := gN g (r + 0x18) 4
  let tl := gN g (r + 0x1C) 4
  let thin := bitsN (gN g (r + 3) 1) 0 1 == 1
  if n < 0x40 then [(secOf g 6).off + 0x40 + 16 * i + 8]
  else
    let shape := flag (decide (2 ≤ gN g (r + 3) 1)) (r + 3) ++ nonZero g (r + 4) 4 ++
      flag (tab % 16 != 0 || decide (n < tab + 16 * vcoreCount g)) (r + 8) ++ flag (decide (256 < bc)) (r + 0xC) ++
      flag (bl % 16 != 0 || decide (n < bl + 4 * bc)) (r + 0x10) ++ flag (rm % 16 != 0 || decide (n < rm + 160)) (r + 0x14) ++
      flag (if thin then ta == 0 || ta % 16 != 0 || decide (n < ta + tl) else ta != 0) (r + 0x18) ++
      flag (if thin then decide (tl < seqTableOff g) else tl != 0) (r + 0x1C) ++ nonZero g (r + 0x20) 32
    if shape ≠ [] then shape
    else
      let ph := readPhase g i
      flag ((List.range i).any fun k => gN g (recordAt g k).1 1 == ph.id) r ++
      flag (ph.vcs.any fun v => (v.entry.isSome || v.thinEntry.isSome) && !ph.partMask.getLsbD (v.vcore / 2560)) (r + 1) ++
      ((List.range bc).flatMap fun k => flag ((ph.bound.take k).contains (ph.bound.getD k 0) ||
        !(tensorById ts (ph.bound.getD k 0)).any fun t => t.kind == 1) (r + bl + 4 * k)) ++
      (ph.vcs.flatMap fun v =>
        let e := r + tab + 16 * v.vcore
        let dl := gN g (e + 0xC) 4
        let dc := v.descs.length
        flag (entryBad g v.vcore v.entry) e ++ flag (decide (4 < v.split)) (e + 4) ++ nonZero g (e + 5) 1 ++
        flag (v.cls &&& 0xF888 != 0) (e + 6) ++ flag (decide (256 < dc)) (e + 8) ++ nonZero g (e + 0xA) 2 ++
        flag (dl % 16 != 0 || decide (n < dl + 4 * dc)) (e + 0xC) ++
        (if n < dl + 4 * dc ∨ 256 < dc then []
         else (List.range dc).flatMap fun k =>
          flag (match tensorById ts (v.descs.getD k 0) with
            | none => true
            | some t => t.kind == 1 && !ph.bound.contains t.id) (r + dl + 4 * k)) ++
        flag (entryBad g v.vcore v.thinEntry) (r + ta + 4 * v.vcore)) ++
      (if thin then seqTableBad g ts (r + ta + seqTableOff g) (r + ta + tl) else [])

/-- The fields of PHASE_PROGRAMS that break a rule. -/
def phasesBad (g : Bytes) (ts : List Tensor) : List Nat :=
  let x := secOf g 6
  let n := phaseCount g
  if x.len < 0x40 + 16 * n ∨ gN g x.off 4 ≠ n then [x.off]
  else
    nonZero g (x.off + 4) 60 ++ (List.range n).flatMap fun i =>
      let e := x.off + 0x40 + 16 * i
      let out := decide (x.len < gN g e 8 + gN g (e + 8) 8)
      flag (gN g e 8 % 64 != 0 || out) e ++ (if out then [] else phaseBad g ts i)

/-! ### Affinity graph and signatures (R53, R54, R541) -/

/-- The fields of AFFINITY_GRAPH that break R53 or R54. -/
def affinityBad (g : Bytes) : List Nat :=
  let x := secOf g 7
  let n := gN g x.off 4
  if x.entry = 0 then []
  else if x.len < 0x10 ∨ 16777216 < n ∨ x.len < 0x10 + 12 * n then [x.off]
  else nonZero g (x.off + 4) 12 ++ (List.range n).flatMap fun k =>
    flag (decide (vcoreCount g ≤ gN g (x.off + 0x10 + 12 * k) 4)) (x.off + 0x10 + 12 * k) ++
    flag (decide (vcoreCount g ≤ gN g (x.off + 0x14 + 12 * k) 4)) (x.off + 0x14 + 12 * k)

/-- The affinity graph: edges that repeat a pair add their weights (R53). -/
def readEdges (g : Bytes) : NMap Nat :=
  let x := secOf g 7
  if x.entry = 0 then []
  else (List.range (gN g x.off 4)).foldl (fun (m : NMap Nat) k =>
    let o := x.off + 0x10 + 12 * k
    let a := gN g o 4
    let b := gN g (o + 4) 4
    let key := min a b * 2 ^ 15 + max a b
    nset 0 m key (nget 0 m key + gN g (o + 8) 4)) []

/-- The fields of SIGNATURES that break R541. -/
def sigBad (g : Bytes) : List Nat :=
  let x := secOf g 0xFF
  flag (decide (1 < gN g x.off 4)) x.off ++ nonZero g (x.off + 4) 12 ++
  (if gN g x.off 4 = 1 then flag (gN g (x.off + 0x10) 1 != 1) (x.off + 0x10) ++ nonZero g (x.off + 0x11) 15 else [])

/-- The lowest offset of the first group that names any.
[DEDUCED, log entry 60: unsafe] -/
def firstBad : List (List Nat) → Option Nat
  | [] => none
  | x :: r => match lowest x with
    | some o => some o
    | none => firstBad r

/-- The first field of a staged image of len bytes that fails a check of R385 (R375): the header first, then the directory,
then the sections in the order in which one is read with the help of another. -/
def imageBad (g : Bytes) (len : Nat) : Option Nat :=
  match firstBad [headerBad g len, dirBad g len, missingBad g] with
  | some o => some o
  | none => firstBad [codebookBad g, manifestBad g, programsBad g, streamsBad g, phasesBad g (readTensors g), affinityBad g, sigBad g]

/-- The image digest: all bytes but the SIGNATURES section (R47). -/
def imageDigest (g : Bytes) (len : Nat) : List Byte :=
  let x := secOf g 0xFF
  sha256 (gBytes g 0 x.off ++ gBytes g (x.off + x.len) (len - x.off - x.len))

/-- The message of an image signature (R541). -/
def sigMessage (digest : List Byte) : List Byte :=
  [0x43, 0x48, 0x52, 0x4F, 0x48, 0x41, 0x2D, 0x49, 0x4D, 0x47, 0x2D, 0x53, 0x49, 0x47, 0, 0] ++ digest

/-- The AUTH_FAIL reason of an image once an owner is enrolled, 0 for none (R541, R542). -/
def State.sigReason (s : State) (g : Bytes) (len : Nat) : Nat :=
  let x := secOf g 0xFF
  let key := gBytes g (x.off + 0x20) 48
  if !s.sec.owner then 0
  else if gN g x.off 4 = 0 then 1
  else if sha256 key ≠ s.sec.ownerHash then 2
  else if Config.verify key (sigMessage (imageDigest g len)) (gBytes g (x.off + 0x50) 16224) then 0
  else 3

/-- The image that the staged bytes describe, with nothing placed yet. -/
def readImage (g : Bytes) (len : Nat) : Image :=
  let cb := secOf g 4
  { buildId := gBytes g 0x30 16, digest := imageDigest g len, vcores := vcoreCount g, steps := gN g 0x28 1,
    tensors := readTensors g
    tables := (cbSets g).map fun e => { kind := e.kind, off := e.off, tables := readTables g (cb.off + e.off) e.kind e.count }
    tableBytes := gBytes g cb.off cb.len
    streams := readStreams g, phases := (List.range (phaseCount g)).map (readPhase g)
    programs := (List.range (vcoreCount g)).filterMap fun v => (vcProg g v).map fun p => (v, p.1, p.2)
    codeBase := 0, codeLen := (secOf g 1).len, thinRequired := gN g 0x0E 2 == 1
    edges := readEdges g }

end Sys2Proof.Machine
end

