-- ==== Sys2Proof/Machine/Message.lean ====
section
/-! DEFINITION. The message port (R42, R43, R87 to R92, R271): majors 0x90 to 0x92, injection and arrival. -/

namespace Sys2Proof.Machine
open Sys2Proof

/-- The space 0x1 address of a scratchpad offset (R88, R89). -/
def spadAddr (off : Nat) : Nat := (2 ^ 60 + off) % 2 ^ 64

/-- The first 8 header bytes of a message (R87). -/
def msgHead (m : Msg) : W64 :=
  w64 (m.srcVcore % 2 ^ 15 + m.srcModule % 2 ^ 12 * 2 ^ 16 + m.payload.length % 2 ^ 16 * 2 ^ 32 + m.tag.toNat * 2 ^ 48)

/-- Header and payload of a message (R87). -/
def msgImage (m : Msg) : List Byte := leBytes 8 (msgHead m).toNat ++ zeros 8 ++ m.payload

/-- Counts a discarded message in MSG_ERRORS of its sender, where the sender lies in this module (R43): of the core that carries the
sending virtual core, or of the one that sent it where none does any more. -/
def State.msgError (s : State) (m : Msg) : State :=
  if m.srcModule ≠ s.moduleId then s
  else
    match s.placed m.srcVcore, m.from_ with
    | some c, _ => s.modCore c fun k => k.bumpCsr 0x03B 1
    | none, c + 1 => s.modCore c fun k => k.bumpCsr 0x03B 1
    | none, 0 => s

/-- A message enters a core's overflow ring (R90, R207), where the lines that it newly lies in take ways of the bay; the flag says
whether the ring and their sets had room. -/
def State.intoRing (s : State) (c : Nat) (m : Msg) : State × Bool :=
  let k := s.core c
  if 65536 < k.overflowBytes + msgBytes m then (s, false)
  else
    let new := ({ k with overflow := k.overflow ++ [m] } : Core).ringLines.filter fun i => !k.ringLines.contains i
    let r := s.takeWays (clusterOf c) c 0 noClass new
    if r.2 then ((r.1.modCore c fun x => { x with overflow := x.overflow ++ [m] }).bump 0x10 (clusterOf c) 9 new.length, true)
    else (r.1.giveWays c 0 fun i => new.contains i, false)

/-- The head of a core's receive queue is taken: overflow refills the queue, spill the overflow ring (R90, R207). The manual does not
say how many spilled messages then enter the ring; the model moves at most one for each message taken.
[DESIGN CHOICE, log entry 140: unsafe] -/
def State.takeHead (s : State) (c : Nat) : State :=
  let s1 := match (s.core c).overflow with
    | o :: r => (s.modCore c fun k => { k with rxq := k.rxq.drop 1 ++ [o], overflow := r,
                                               ringHead := (k.ringHead + msgBytes o) % 65536 }).syncRing c
    | [] => s.modCore c fun k => { k with rxq := k.rxq.drop 1 }
  match (s1.core c).spill with
  | m :: r =>
    let t := s1.intoRing c m
    if t.2 then t.1.modCore c fun k => { k with spill := r } else t.1
  | [] => s1

/-- MSG_LOST is due: the core takes the trap (R91). -/
def State.lostTrap (s : State) (c : Nat) : State := (s.modCore c fun k => { k with lost := false }).trap c tMsgLost 0

/-- Whether a message goes to a core joined to the sender's epoch (R271). -/
def State.toJoined (s : State) (key dstModule dst : Nat) : Bool :=
  (dstModule == 0xFFF || dstModule == s.moduleId) &&
  (match s.placed dst with
   | some d => (s.core d).epoch == key
   | none => false)

/-- The checks of MSG.SEND (R88): the fault and its address. The manual bounds where a payload would reach; a payload of length 0
reaches nowhere, and the model raises nothing for its offset beyond the alignment.
[DESIGN CHOICE, log entry 141: unsafe] -/
def sendFault (spad dest off len : Nat) : Option (Nat × Nat) :=
  if dest / 2 ^ 28 ≠ 0 ∨ bitsN dest 15 1 = 1 ∨ 240 < len ∨ len % 16 ≠ 0 then some (tRange, 0)
  else if len ≠ 0 ∧ spad < off + len then some (tRange, spadAddr off)
  else if off % 16 ≠ 0 then some (tAlign, spadAddr off)
  else none

/-- MSG.SEND (R88, R271): it takes a place of its own among what its core issues, so that its order against stores and held messages
is known (R42). -/
def execMsgSend (who : Agent) (f : FormA) (s : State) : Out :=
  let legal := usesA f false true true true false false true && regOk who f.src1 && regOk who f.src2 && regOk who f.src3
  issueScalar who legal f.pred f.pneg (fun c s1 =>
    let k := s1.core c
    let dest := (k.sreg f.src1.toNat).toNat
    let off := (k.sreg f.src2.toNat).toNat
    let len := (k.sreg f.src3.toNat).toNat
    match sendFault k.spadSize dest off len with
    | some (cause, addr) => s1.trap c cause addr
    | none =>
      let prov := k.epoch ≠ 0 && s1.provisional k.epoch
      let joined := s1.toJoined k.epoch (dest / 65536) (dest % 32768)
      if s1.mustWait c (.spad c off) len false then s1.stallAt c 4
      else
        let m : Msg := { srcVcore := k.vc, srcModule := s1.moduleId, dstVcore := dest % 32768, dstModule := dest / 65536,
                         tag := f.mod, payload := s1.localRead c 1 c off len, bad := s1.localBad 1 c off len,
                         prov := if prov && joined then k.epoch else 0, after := k.seq, from_ := c + 1 }
        let placed (st : State) : State := st.modCore c fun x => { x with seq := x.seq + 1 }.retire
        if prov && !joined then placed (s1.holdOut c (.msg m))
        else if 4 ≤ k.send.length then s1.stallAt c 6
        else placed (s1.modCore c fun x => { x with send := x.send ++ [m] })) s

/-- MSG.RECV (R89, R84, R271). The manual does not order MSG_LOST against the traps of the buffer's offset; the model raises MSG_LOST
first.
[DEDUCED, log entry 22: unsafe] [DESIGN CHOICE, log entry 142: unsafe] -/
def execMsgRecv (who : Agent) (f : FormA) (s : State) : Out :=
  let legal := usesA f true true false false false false false && regOk who f.dst && regOk who f.src1
  issueScalar who legal f.pred f.pneg (fun c s1 =>
    let k := s1.core c
    let off := (k.sreg f.src1.toNat).toNat
    if k.lost then s1.lostTrap c
    else if k.spadSize ≤ off then s1.trap c tRange (spadAddr off)
    else if off % 16 ≠ 0 then s1.trap c tAlign (spadAddr off)
    else
      match k.rxq with
      | [] => s1.stallAt c 5
      | m :: _ =>
        if k.spadSize < off + msgBytes m then s1.trap c tRange (spadAddr off)
        else if m.bad then s1.trap c tDataEcc (spadAddr off)
        else if s1.mustWait c (.spad c off) (msgBytes m) true then s1.stallAt c 4
        else
          let prov := k.epoch ≠ 0 && s1.provisional k.epoch
          let s2 := (s1.takeHead c).modCore c fun x =>
            let y := (l1Invalidate x).bumpCsr 0x03A 1
            if prov then { y with retained := y.retained ++ [m] } else y
          let s3 := if prov && 16 < (s2.core c).retained.length then s2.abortGroup (keyGroup k.epoch) 5 else s2
          (s3.localWrite c k.epoch 1 c off (msgImage m)).retireWith c fun x => x.setS f.dst.toNat (msgHead m)) s

/-- MSG.POLL (R78, R91). -/
def execMsgPoll (who : Agent) (f : FormA) (s : State) : Out :=
  let legal := usesA f true false false false false false false && predOk f.dst
  issueScalar who legal f.pred f.pneg (fun c s0 => s0.whenFree c [f.dst.toNat] [] fun s1 =>
    if (s1.core c).lost then s1.lostTrap c
    else s1.retireWith c fun k => k.setP f.dst.toNat (!k.rxq.isEmpty)) s

/-- Whether the stores that come before a message are visible (R88, R223). -/
def State.storesBefore (s : State) (c after : Nat) : Bool :=
  (s.core c).stores.all (fun w => decide (after ≤ w.seq)) && (s.core c).mq.all (fun o => !o.stores || decide (after ≤ o.seq)) &&
  s.vis.all fun v => v.core != c || decide (after ≤ v.seq)

/-- Whether a held message of a core is being released: later messages stay behind it (R42, R274).
[DESIGN CHOICE, log entry 24: safe] -/
def State.releasing (s : State) (k : Core) : Bool :=
  decide (s.epState k.epoch = .confirming) && k.held.any fun o => match o with
    | .msg _ => true
    | _ => false

/-- MSG_INJECT (R88): the oldest message of the send buffer enters the network once the sender's earlier stores are
visible. A message for a module that no up port reaches is discarded and counted (R43, R431).
[DEDUCED, log entry 21: unsafe] [DEDUCED, log entry 23: unsafe] -/
def msgInject (c : Nat) (s : State) : State :=
  let k := s.core c
  match k.send with
  | [] => s
  | m :: r =>
    if !s.storesBefore c (max m.after m.wait) || s.releasing k || decide ((s.part (partOf c)).door ≠ .open_) then s
    else
      let s1 := s.modCore c fun x => ({ x with send := r }).bumpCsr 0x039 1
      if m.dstModule = 0xFFF ∨ m.dstModule = s.moduleId then { s1 with net := s1.net ++ [m] }
      else if s1.reachable m.dstModule then s1
      else s1.msgError m

/-- MSG_INJECT (R88). -/
def execMsgInject (c : Nat) (s : State) : Out := onUnit (Unit.core c) (msgInject c s)

/-- Bytes of a partition's spill area in use (R90). -/
def State.spillUsed (s : State) (p : Nat) : Nat :=
  ((s.cores.filter fun e => partOf e.1 == p).map fun e => (e.2.spill.map msgBytes).sum).sum

/-- A message arrives at a core: receive queue, overflow ring, spill area, or lost (R90, R91). A provisional message
that would go to the spill area fails its epoch (R271). -/
def State.receive (s0 : State) (c : Nat) (m : Msg) : State :=
  let s := s0.ungate c
  let k := s.core c
  if k.overflow.isEmpty && k.spill.isEmpty && decide (k.rxq.length < 16) then
    s.setCore c { k with rxq := k.rxq ++ [m] }
  else
    let r := if k.spill.isEmpty then s.intoRing c m else (s, false)
    let s1 := r.1
    if r.2 then s1
    else if m.prov ≠ 0 ∧ s1.provisional m.prov then s1.abortGroup (keyGroup m.prov) 6
    else if s1.spillUsed (partOf c) + msgBytes m ≤ 0x1000000 then
      s1.modCore c fun x => ({ x with spill := x.spill ++ [m] }).bumpCsr 0x03C 1
    else s1.modCore c fun x => { x with lost := true }

/-- A message whose receiver's doors are closed waits in the door hold area, or is discarded and counted when there
is no area or no room (R43, R508). -/
def State.holdAtDoor (s : State) (p : Nat) (m : Msg) : State :=
  let x := s.part p
  if x.area ≠ 0 ∧ (x.hold.map msgBytes).sum + msgBytes m ≤ 0x100000 then s.setPart p { x with hold := x.hold ++ [m] }
  else s.msgError m

/-- Delivery of a message that has reached the module's doors (R42, R43, R90, R476). Nothing while the receiver's
partition sleeps: the message waits and wakes it. -/
def State.deliverMsg (s : State) (m : Msg) : Option State :=
  match s.placed m.dstVcore with
  | none => some (s.msgError m)
  | some c =>
    if s.img.image.isNone then some (s.msgError m)
    else if (s.part (partOf c)).door ≠ .open_ ∨ !(s.part (partOf c)).hold.isEmpty then some (s.holdAtDoor (partOf c) m)
    else if s.asleep (partOf c) then none
    else some (s.receive c m)

/-- The partition that a message waits for. -/
def State.msgWake (s : State) (m : Msg) : State :=
  match s.placed m.dstVcore with
  | some c => s.demandWake (partOf c)
  | none => s

/-- MSG_ARRIVAL (R42, R90): a message in flight arrives unless an older one of the same sender for the same receiver
is still in flight, or its epoch is aborting (R275).
[DESIGN CHOICE, log entry 134: safe] -/
def msgArrival (a : Arrival) (s : State) : State :=
  match a with
  | .remote m =>
    if m.dstModule ≠ s.moduleId ∨ m.dstModule = 0xFFF then s
    else (s.deliverMsg { m with prov := 0, bad := m.bad }).getD (s.msgWake m)
  | .net i =>
    match s.net[i]? with
    | none => s
    | some m =>
      if (s.net.take i).any (fun x => x.srcVcore == m.srcVcore && x.dstVcore == m.dstVcore) ||
         decide (s.epState m.prov = .aborting) then s
      else
        match ({ s with net := s.net.take i ++ s.net.drop (i + 1) }).deliverMsg m with
        | some s1 => s1
        | none => s.msgWake m

/-- MSG_ARRIVAL (R42, R90). -/
def execMsgArrival (a : Arrival) (s : State) : Out := .next (msgArrival a s)

end Sys2Proof.Machine
end

