-- ==== Sys2Proof/Machine/RunEnd.lean ====
section
/-! DEFINITION. The end of runs: the HELD epoch of a speculative run, results and completion (R56, R277, R389). -/

namespace Sys2Proof.Machine
open Sys2Proof

/-- Whether every core of a run has executed DONE (R80). -/
def State.allDone (s : State) (run : Nat) : Bool := (s.coresOf run).all fun c => !(s.core c).running

/-- The binding that a run marks as its result (R388). -/
def Run.resultBinding (r : Run) : Option Binding := r.bindings.find? (·.result)

/-- LENGTH of a run's result: the bound tensor's BYTES, 0 without one (R389). -/
def State.resultLen (s : State) (r : Run) : Nat :=
  match r.resultBinding with
  | some b => match s.tensor b.tensor with
    | some t => t.bytes
    | none => 0
  | none => 0

/-- Once every core of a speculative run has executed DONE under an OPEN epoch, the epoch is HELD and the run's
completion is written with OK, its result deferred (R277). -/
def State.specHeld (s : State) (run : Nat) : State :=
  match s.run run with
  | none => s
  | some r =>
    let gs := s.groupsOf run
    if r.spec && decide (r.st = .running) && s.allDone run && !gs.isEmpty &&
       gs.all (fun g => decide ((s.group g).st = .open_)) then
      let s1 := gs.foldl (fun st g => st.setGroup g { st.group g with st := .held }) s
      let s2 := s1.modRun run fun y => { y with st := .held }
      match s2.cmd r.cmd with
      | some c =>
        if c.mute then s2
        else ((s2.postComp c.fn (c.comp stOk (s2.resultLen r) 0)).modCmd c.id fun x => { x with mute := true }).settle c.fn
      | none => s2
    else s

end Sys2Proof.Machine
end

