-- ==== Sys2Proof/Machine/NearBank.lean ====
section
/-! DEFINITION. Near-bank units: kicks, the steps of the channel engines, and completion (R306 to R323). -/

namespace Sys2Proof.Machine
open Sys2Proof

/-- The logical partition that a physical partition carries. -/
def State.lpartOn (s : State) (p : Nat) : Option Nat := (List.range 8).find? fun l => nget 0 s.img.lpart l == p + 1

/-- The thin-path run that uses a logical partition (R58, R60). -/
def State.thinRun (s : State) (lp : Nat) : Option Run :=
  s.runs.find? fun r => r.thin && decide (r.st = .running) && r.mask.getLsbD lp

/-- The fields of a kick message (R316). -/
def kickOf (m : Msg) (run proxy : Nat) : Kick :=
  { seq := leAt m.payload 0 2, notify := leAt m.payload 2 2 % 32768, tag := BitVec.ofNat 16 (leAt m.payload 4 2),
    tokenBase := leAt m.payload 6 2, run := run, proxy := proxy }

/-- Whether a kick runs nothing (R316). -/
def State.kickBad (s : State) (k : Kick) (m : Msg) (lp : Nat) : Bool :=
  (match s.kickSeq k with
   | some q => q.lpart != lp
   | none => true) ||
  k.tokenBase % 8 != 0 || decide (s.kickBatch k ≤ k.tokenBase) || !allZero ((m.payload.drop 8).take 8)

/-- The completion message of a kick (R321). -/
def State.nbReply (s : State) (k : Kick) (status executed skipped steps : Nat) : State :=
  let m : Msg := { srcVcore := k.proxy, srcModule := s.moduleId, dstVcore := k.notify, dstModule := s.moduleId, tag := k.tag,
                   payload := leBytes 1 status ++ zeros 1 ++ leBytes 2 k.seq ++ leBytes 4 executed ++ leBytes 4 skipped ++
                              leBytes 4 steps }
  { s with net := s.net ++ [m] }

/-- The tensors of a sequence that the hand-in cleans, each once (R317). -/
def NbSeq.handIn (q : NbSeq) : List Nat := (q.arg.toList ++ q.ops.map (·.act)).eraseDups

/-- The sequencer reads the masks of its sequence, and broadcasts the rows of activations that the first operation selects (R317).
[DEDUCED, log entry 167: unsafe] -/
def State.nbPrepare (s : State) (st : Nat) (k : Kick) (q : NbSeq) : State :=
  let s1 := match q.arg.bind s.tensor with
    | some t =>
      let r := s.hbmFetch t.base t.bytes
      r.1.setNb st { r.1.nb st with masks := r.1.hbmRead t.base t.bytes, masksBad := r.2 }
    | none => s
  match q.ops with
  | [] => s1
  | o :: _ =>
    match s1.tensor o.w, s1.tensor o.act with
    | some w, some act => s1.nbLoad st o act (w.shape.getD 0 0) (s1.nbTokens st k o)
    | _, _ => s1

/-- Dirty lines of a device range. -/
def State.dirtyIn (s : State) (off n : Nat) : Nat :=
  (s.bays.map fun e => (e.2.lines.filter fun l => l.dirty && decide (off < l.line + 128) && decide (l.line < off + n)).length).sum

/-- Lines of a device range that bays hold. -/
def State.linesIn (s : State) (off n : Nat) : Nat :=
  (s.bays.map fun e => (e.2.lines.filter fun l => decide (off < l.line + 128) && decide (l.line < off + n)).length).sum

/-- Whether a stack's near-bank units serve: present and neither paused, disabled nor under test (R328). -/
def State.nbServes (s : State) (st : Nat) : Bool := s.cfld (offNb st) 0 3 == 1 || s.cfld (offNb st) 0 3 == 2

/-- NB_STATUS of a stack as it reads (R328): QUEUED is the number of messages that the proxies of thin-path runs on its
partition hold. -/
def State.nbStatus (s : State) (st : Nat) : W64 :=
  let held : Nat := match s.lpartOn (st / 2) with
    | none => 0
    | some lp =>
      match (s.thinRun lp).bind fun r => (s.phase r.phase).bind fun ph => ((ph.proxies[lp]?).join).bind s.placed with
      | some c => (s.core c).rxq.length + (s.core c).overflow.length + (s.core c).spill.length
      | none => 0
  setFld (s.creg (offNb st)) 40 8 (min 255 held)

/-- KICK_TAKEN (R316, R317): the oldest message that the proxy holds. -/
def kickTaken (st : Nat) (s : State) : State :=
  let r : Option (Nat × Run × Nat × Nat) := do
    let lp ← s.lpartOn (st / 2)
    let run ← s.thinRun lp
    let ph ← s.phase run.phase
    let proxy ← (ph.proxies[lp]?).join
    let c ← s.placed proxy
    return (lp, run, proxy, c)
  match r with
  | none => s
  | some (lp, run, proxy, c) =>
    match (s.core c).rxq with
    | [] => s
    | m :: _ =>
      if !s.nbServes st || (s.nb st).cur.isSome || decide (st % 2 = 1) then s
      else
        let k := kickOf m run.id proxy
        let s1 := s.takeHead c
        match s1.kickBad k m lp, s1.kickSeq k with
        | false, some q =>
          let r := (q.handIn.filterMap s1.tensor).foldl (fun (a : State × Nat) t =>
            (a.1.cleanRange t.base t.bytes, a.2 + a.1.dirtyIn t.base t.bytes)) (s1, 0)
          let s3 := r.1.setNb st { (r.1.nb st).clear with cur := some k }
          (((s3.setCfld (offNb st) 0 3 2).setCfld (offNb st) 16 16 k.seq).nbCount st nbHandin r.2).nbPrepare st k q
        | _, _ => s1.nbReply k 3 0 0 0

/-- KICK_TAKEN (R316). -/
def execKickTaken (stack : Nat) (s : State) : Out := onUnit (Unit.stack stack) (kickTaken stack s)

/-- The flips of one sector among those listed. -/
def flipsOf (flips : List (Nat × Nat × Byte)) (sector : Nat) : List (Nat × Byte) :=
  (flips.filter fun f => f.1 == sector).map (·.2)

/-- NB_STEP_BOUNDARY (R319, R320, R323): a channel's engine ends its step; the flips are the errors that its reads met, by sector
and symbol. Poison ends the sequence, and stops the run as a trap does. -/
def nbStepBoundary (st ch : Nat) (flips : List (Nat × Nat × Byte)) (s : State) : State :=
  match (s.nb st).cur with
  | none => s
  | some k =>
    let s0 := ((flips.map (·.1)).eraseDups).foldl (fun a x => if a.backed (x * 64) then a.upset (x * 64) (flipsOf flips x) else a) s
    let r := s0.nbEndStep st ch
    if r.2 then r.1.stopRun k.run stEcc else r.1

/-- NB_STEP_BOUNDARY (R319). -/
def execNbStepBoundary (stack channel : Nat) (flips : List (Nat × Nat × Byte)) (s : State) : Out :=
  onUnit (Unit.stack stack && Unit.channel channel) (nbStepBoundary stack channel flips s)

/-- NB_SEQUENCE_DONE (R321): the OUT ranges are invalidated, then the completion goes to NOTIFY. -/
def nbSequenceDone (st : Nat) (s : State) : State :=
  match (s.nb st).cur with
  | none => s
  | some k =>
    match s.kickSeq k with
    | none => s
    | some q =>
      if s.cfld (offNb st) 0 3 ≠ 2 ∨ !(s.nb st).finished q.ops.length then s
      else
        let outs := ((q.ops.map (·.out)).eraseDups).filterMap s.tensor
        let n := (outs.map fun t => s.linesIn t.base t.bytes).sum
        let s1 := outs.foldl (fun a t => a.invalRange t.base t.bytes false) s
        let sel := q.ops.map fun o => (s.nbTokens st k o).length
        let ex := (sel.filter (· != 0)).length
        let steps := ((s.nb st).steps.map (·.2)).foldl Nat.max 0
        let s2 := (((s1.nbCount st nbSequences 1).nbCount st nbExecuted ex).nbCount st nbSkipped (sel.length - ex)).nbCount
          st nbInval n
        let s3 := s2.setNb st (s2.nb st).clear
        (s3.setCfld (offNb st) 0 3 1).nbReply k 0 ex (sel.length - ex) steps

/-- NB_SEQUENCE_DONE (R321). -/
def execNbSequenceDone (stack : Nat) (s : State) : Out := onUnit (Unit.stack stack) (nbSequenceDone stack s)

end Sys2Proof.Machine
end

