-- ==== Sys2Proof/Machine/Placement.lean ====
section
/-! DEFINITION. Health of the units and placement: which cores carry virtual cores, where tensors lie, and the moves that
re-placement makes (R29, R37, R38, R61 to R63, R196, R220, R289, R314, R447, R448, R518). Where the manual leaves placement to
the module (R62), the first place that fits is taken. -/

namespace Sys2Proof.Machine
open Sys2Proof

/-! ### Health (R445, R447) -/

/-- Whether a unit has a defect record (R381, R445). -/
def State.defect (s : State) (kind num : Nat) : Bool := s.mc.defects.any fun d => d.kind == kind && d.number == num

/-- Whether a core is healthy. -/
def State.coreHealthy (s : State) (c : Nat) : Bool := !s.defect 1 c

/-- Slots of a cluster whose core is retired. -/
def State.retiredSlots (s : State) (n : Nat) : List Nat := (List.range 17).filter fun i => !s.coreHealthy (17 * n + i)

/-- A usable cluster (R447): its bay is not retired, which a dark power region implies, and a core is healthy. -/
def State.clusterUsable (s : State) (n : Nat) : Bool := !s.bayRetired n && decide ((s.retiredSlots n).length < 17)

/-- A full cluster (R447). -/
def State.clusterFull (s : State) (n : Nat) : Bool := !s.bayRetired n && decide ((s.retiredSlots n).length ≤ 1)

/-- LCORES of a partition (R447). -/
def State.lcores (s : State) (p : Nat) : Nat :=
  if s.unusable p then 0
  else min 2560 (((clustersOfPart p).filter s.clusterUsable).map fun n => min 16 (17 - (s.retiredSlots n).length)).sum

/-- Whether a partition is DEGRADED (R447, and every one after a bus converter failed, R464). -/
def State.partDegraded (s : State) (p : Nat) : Bool :=
  s.unusable p || s.cfld offSupply 4 4 != 15 || decide (((clustersOfPart p).filter s.clusterFull).length < 160) || s.hbmMode p != 0

/-- BRINGUP_STATUS.DEGRADED follows the health of the partitions (R447, R449). -/
def State.refreshDegraded (s : State) : State :=
  s.setCfld offBringup 40 8 (((List.range 8).map fun p => if s.partDegraded p then 2 ^ p else 0).sum)

/-- Whether any partition is DEGRADED. -/
def State.anyDegraded (s : State) : Bool := (List.range 8).any s.partDegraded

/-! ### Virtual cores (R37, R38, R196, R448) -/

/-- Whether an image uses a virtual core: an entry or thin entry in some phase, or a proxy (R448). -/
def Image.uses (im : Image) (v : Nat) : Bool :=
  im.phases.any fun ph => ph.proxies.contains (some v) ||
    (match ph.vcs[v]? with
     | some e => e.entry.isSome || e.thinEntry.isSome
     | none => false)

/-- The used members of a logical cluster. -/
def Image.members (im : Image) (lc : Nat) : List Nat := (List.range 16).filter fun k => decide (16 * lc + k < im.vcores) && im.uses (16 * lc + k)

/-- The used logical clusters of a logical partition with their members, those with most members first. -/
def Image.clusters (im : Image) (j : Nat) : List (Nat × List Nat) :=
  let all := ((List.range 160).map fun i => (160 * j + i, im.members (160 * j + i))).filter fun (x : Nat × List Nat) => !x.2.isEmpty
  (List.range 16).flatMap fun d => all.filter fun (x : Nat × List Nat) => x.2.length == 16 - d

/-- The slot of member k beside an excluded slot (R196). -/
def slotOf (e k : Nat) : Nat := if k < e then k else k + 1

/-- The slot to exclude so that all members of a logical cluster stand on healthy cores of a cluster (R196): a retired one,
or the last when all are healthy. -/
def State.exclude (s : State) (n : Nat) (members : List Nat) : Option Nat :=
  let r := s.retiredSlots n
  (if r.isEmpty then [16] else r).find? fun e => members.all fun k => s.coreHealthy (17 * n + slotOf e k)

/-- Clusters in the order placement takes them: those of a region capped at tier 2 last (R460). -/
def State.spareFirst (s : State) (l : List Nat) : List Nat :=
  let capped (n : Nat) : Bool := s.cfld (offRegionPwr (powerRegionOf n)) 8 2 == 2
  (l.filter fun n => !capped n) ++ l.filter capped

/-- The weight of the affinity graph between two logical clusters (R53). -/
def Image.pull (im : Image) (a b : Nat) : Nat :=
  (im.edges.map fun e =>
    let x := e.1 / 2 ^ 15 / 16
    let y := e.1 % 2 ^ 15 / 16
    if (x = a ∧ y = b) ∨ (x = b ∧ y = a) then e.2 else 0).sum

/-- Steps of the mesh between two clusters of a partition (R21). -/
def clusterDist (a b : Nat) : Nat :=
  (a / 24 % 28 - b / 24 % 28) + (b / 24 % 28 - a / 24 % 28) + (a % 24 - b % 24) + (b % 24 - a % 24)

/-- A list with an element put in before the first that lies farther by a measure. -/
def putNear (f : Nat → Nat) (x : Nat) : List Nat → List Nat
  | [] => [x]
  | y :: r => if f x < f y then x :: y :: r else y :: putNear f x r

/-- The clusters among which a logical cluster is placed, those nearest to the placed neighbour of the greatest weight first (R53);
without one, as they come. -/
def Image.nearFirst (im : Image) (lc : Nat) (done : List (Nat × Nat × Nat)) (l : List Nat) : List Nat :=
  let best := done.foldl (fun (b : Nat × Nat) x => if b.1 < im.pull lc x.1 then (im.pull lc x.1, x.2.1) else b) (0, 0)
  if best.1 = 0 then l else l.foldl (fun acc n => putNear (clusterDist best.2) n acc) []

/-- Logical clusters onto free clusters, full ones first (R448), by the affinity graph among them as a preference (R53, R62): logical
cluster, cluster and excluded slot. -/
def State.assign (s : State) (im : Image) : List (Nat × Nat × Nat) → List (Nat × List Nat) → List Nat → Option (List (Nat × Nat × Nat))
  | _, [], _ => some []
  | done, (lc, ms) :: r, free =>
    let order (l : List Nat) : List Nat := s.spareFirst (im.nearFirst lc done l)
    match (order (free.filter s.clusterFull) ++ order (free.filter fun n => s.clusterUsable n && !s.clusterFull n)).find? fun n =>
      (s.exclude n ms).isSome with
    | some n =>
      let x := (lc, n, (s.exclude n ms).getD 16)
      (s.assign im (done ++ [x]) r (free.filter (· != n))).map (x :: ·)
    | none => none

/-- A logical partition on a physical one. -/
def State.tryPart (s : State) (im : Image) (j p : Nat) : Option (List (Nat × Nat × Nat)) :=
  if s.unusable p then none else s.assign im [] (im.clusters j) ((clustersOfPart p).filter fun n => s.clusterUsable n && s.cfld (offBayCfg n) 0 2 != 3)

/-- The logical partitions an image uses. -/
def Image.lparts (im : Image) : List Nat := (List.range 8).filter fun j => !(im.clusters j).isEmpty

/-- Each used logical partition on a physical partition of its own (R38): its own number where it fits, the others after. -/
def State.assignParts (s : State) (im : Image) : Option (List (Nat × Nat × List (Nat × Nat × Nat))) :=
  let own := im.lparts.filterMap fun j => (s.tryPart im j j).map fun a => (j, j, a)
  let rest := im.lparts.filter fun j => !own.any fun (x : Nat × Nat × List (Nat × Nat × Nat)) => x.1 == j
  rest.foldl (fun acc j => match acc with
    | none => none
    | some l =>
      let free := (List.range 8).filter fun p => !l.any fun (x : Nat × Nat × List (Nat × Nat × Nat)) => x.2.1 == p
      (free.findSome? fun p => (s.tryPart im j p).map fun a => (j, p, a)).map fun x => l ++ [x]) (some own)

/-- A core that carries a virtual core, or none (0). -/
def State.carry (s : State) (c v : Nat) : State := s.modCore c fun k => { k with vcore := v }

/-- BAY_CFG of a cluster that carries a logical cluster (R216): no row mode before a launch gives it one (R202). -/
def State.carryCluster (s : State) (n excl : Nat) : State :=
  ((s.setCfld (offBayCfg n) 0 2 1).setCfld (offBayCfg n) 8 5 excl).setCfld (offBayCfg n) 16 1 0

/-- A core and its cluster left by a virtual core. -/
def State.leave (s : State) (c : Nat) : State :=
  let n := clusterOf c
  let s1 := s.carry c 0
  if s1.cfld (offBayCfg n) 0 2 = 1 then ((s1.setCfld (offBayCfg n) 0 2 0).setCfld (offBayCfg n) 8 5 16).setCfld (offBayCfg n) 16 1 0 else s1

/-- Where the virtual cores of a logical partition stand: virtual core and core. -/
def State.placesOf (s : State) (j : Nat) : List (Nat × Nat) :=
  (s.img.place.filter fun (e : Nat × Nat) => e.1 / 2560 == j).map fun (e : Nat × Nat) => (e.1, e.2 - 1)

/-- The virtual cores of a logical partition leave their cores and clusters. -/
def State.vacate (s : State) (j : Nat) : State :=
  let s1 : State := (s.placesOf j).foldl (fun (st : State) (e : Nat × Nat) => st.leave e.2) s
  { s1 with img := { s1.img with place := s1.img.place.filter fun (e : Nat × Nat) => e.1 / 2560 != j
                                 lpart := ndel j s1.img.lpart } }

/-- A logical partition takes the clusters assigned to it. -/
def State.settleOn (s : State) (im : Image) (j p : Nat) (a : List (Nat × Nat × Nat)) : State :=
  let s1 := a.foldl (fun st x =>
    let st1 := st.carryCluster x.2.1 x.2.2
    (im.members x.1).foldl (fun st2 k =>
      let c := 17 * x.2.1 + slotOf x.2.2 k
      let v := 16 * x.1 + k
      let st3 := st2.carry c (v + 1)
      { st3 with img := { st3.img with place := nset 0 st3.img.place v (c + 1) } }) st1) s
  { s1 with img := { s1.img with lpart := nset 0 s1.img.lpart j (p + 1) } }

/-- What moves with a virtual core (R518): its private region, its scratchpad, its held messages and what its next launch
compares with. -/
structure Carried where
  vcore : Nat
  core : Core
  own : List Byte
  bad : List Nat
deriving DecidableEq, Repr

/-- The private region of a core as bytes, and its bad words. -/
def State.ownOf (s : State) (im : Image) (c : Nat) : List Byte × List Nat :=
  let b := s.bay (clusterOf c)
  let a := s.member c * 0x60000
  (rdBytes b.own a (im.steps * 0x8000), (b.ownBad.filter fun w => decide (a ≤ 8 * w) && decide (8 * w < a + im.steps * 0x8000)).map fun w => w - a / 8)

/-- The virtual cores of a logical partition with what moves with them. -/
def State.lift (s : State) (im : Image) (j : Nat) : List Carried :=
  (s.placesOf j).map fun (e : Nat × Nat) =>
    let o := s.ownOf im e.2
    { vcore := e.1, core := s.core e.2, own := o.1, bad := o.2 }

/-- A message of a send buffer on a new core: every write of its sender is visible at a drain point (R42, R517). -/
def Msg.moved (m : Msg) : Msg := { m with after := 0, wait := 0 }

/-- Messages enter a core's overflow ring in order, the rest its spill entries (R90, R207). -/
def State.refillRing (s : State) (c : Nat) (ms : List Msg) : State :=
  ms.foldl (fun st m =>
    let r := if (st.core c).spill.isEmpty then st.intoRing c m else (st, false)
    if r.2 then r.1 else r.1.modCore c fun k => { k with spill := k.spill ++ [m] }) s

/-- A virtual core's belongings leave their core: nothing of them stays there (R69). -/
def State.strip (s : State) (x : Carried) (c : Nat) : State :=
  let b := s.bay (clusterOf c)
  let a := s.member c * 0x60000
  ((s.modCore c fun k => { k with spad := [], spadBad := [], l1 := [], rxq := [], overflow := [], spill := [], ringHead := 0, send := [],
                                  lost := false, launched := false, lastFn := 0, lastCommit := 0, lastSplit := 0 }).setBay (clusterOf c)
    { b with own := clrBytes b.own a x.own.length, ownBad := b.ownBad.filter fun w => decide (8 * w < a) || decide (a + x.own.length ≤ 8 * w) }).syncRing c

/-- A virtual core's belongings arrive on its new core. -/
def State.drop (s : State) (x : Carried) (c : Nat) : State :=
  let b := s.bay (clusterOf c)
  let a := s.member c * 0x60000
  ((s.modCore c fun k => { k with spad := x.core.spad, spadBad := x.core.spadBad, l1 := [], rxq := x.core.rxq,
                                  send := x.core.send.map Msg.moved, lost := x.core.lost,
                                  launched := x.core.launched, lastFn := x.core.lastFn, lastCommit := x.core.lastCommit,
                                  lastSplit := x.core.lastSplit, wipe := x.core.wipe }).setBay (clusterOf c)
    { b with own := wrBytes b.own a x.own, ownBad := b.ownBad ++ x.bad.map (· + a / 8) }).refillRing c (x.core.overflow ++ x.core.spill)

/-- Before HOME_MAP or the split of the bays changes for a partition's lines (R220, R230): dirty home lines are written back
and all copies of its lines are dropped, except that lines pinned by PIN or CH.PIN come back in their new home bay after the change. -/
def State.rehome (s : State) (mine : Nat → Bool) (change : State → State) : State :=
  let lo (l : Line) : Bool := mine (partOfOff l.line)
  let s1 := s.bays.foldl (fun st e => e.2.lines.foldl (fun st2 l => if lo l then st2.writeBack e.1 l else st2) st) s
  let pins := s1.bays.flatMap fun e => e.2.lines.filter fun l => lo l && decide (l.kind = .home) && s1.pinned e.1 l.line
  let s1 := s1.bays.foldl (fun st e => (e.2.lines.filter fun l => lo l && !(decide (l.kind = .home) && s1.pinned e.1 l.line)).foldl
    (fun st2 l => st2.unmark e.1 l) st) s1
  let s2 := change { s1 with bays := s1.bays.map fun (e : Nat × Bay) => (e.1, { e.2 with lines := e.2.lines.filter fun l => !lo l }) }
  let s3 := pins.foldl (fun st l =>
    let h := st.homeBay l.line
    st.setBay h { (st.bay h) with lines := (st.bay h).lines ++ [{ l with dirty := false, stale := [], otherTower := false, modules := [] }] }) s2
  let move (x : ChPinned) : ChPinned := if mine (partOfOff x.line) then { x with bay := s3.homeBay x.line } else x
  { s3 with fns := s3.fns.map fun (e : Nat × Fn) => (e.1, { e.2 with pins := e.2.pins.map fun (r : PinRange) =>
      { r with lines := r.lines.map move } }),
             cores := s3.cores.map fun (e : Nat × Core) => (e.1, { e.2 with chPins := e.2.chPins.map move }) }

/-- Re-placement of one logical partition on its physical partition (R63, R448, R518): none where it does not fit. The change
is what retires or returns units. -/
def State.replace (s : State) (j : Nat) (change : State → State) : Option State :=
  match s.img.image with
  | none => some (s.rehome (fun _ => true) change)
  | some im =>
    match nget 0 s.img.lpart j with
    | 0 => none
    | p + 1 =>
      let moved := s.lift im j
      let s1 := (moved.foldl (fun st x => st.strip x ((st.placed x.vcore).getD 0)) s).vacate j
      let s2 := s1.rehome (fun q => q == p) change
      match s2.tryPart im j p with
      | none => none
      | some a =>
        let s3 := s2.settleOn im j p a
        some (moved.foldl (fun st x => match st.placed x.vcore with
          | some c => st.drop x c
          | none => st) s3)

/-! ### Thin tensors (R26, R60, R312 to R314) -/

/-- Row bytes of a tensor. -/
def Tensor.rowB (t : Tensor) : Nat := rowBytes t.fmt (t.shape.getD 0 0)

/-- The sequences of a logical partition, over all phases. -/
def Image.seqsOf (im : Image) (j : Nat) : List NbSeq := (im.phases.flatMap (·.seqs)).filter (·.lpart == j)

/-- The tensors that a sequence names. -/
def NbSeq.names (q : NbSeq) : List Nat := q.arg.toList ++ q.ops.flatMap fun o => [o.w, o.act, o.out]

/-- A tensor of an image. -/
def Image.tensor (im : Image) (id : Nat) : Option Tensor := im.tensors.find? (·.id == id)

/-- Groups of 32 chunks that r rows take with n rows in a chunk. -/
def chunkGroups (n r : Nat) : Nat := cdiv (cdiv r n) 32

/-- Whether n rows in a chunk meet R313 and R314 for weights of rb bytes a row, r rows: both the weights and their results lie in a
step each. -/
def chunkFits (rb r n : Nat) : Bool :=
  decide (2 ≤ n) && decide (64 ≤ n * rb) && decide (n * rb ≤ 4194304) && decide (n * 32 ≤ 4194304) &&
  decide (chunkGroups n r ≤ 4194304 / (n * rb)) && decide (chunkGroups n r ≤ 4194304 / (n * 32))

/-- Rows in one chunk for r rows of weights of the row bytes listed (R314): spread over the 32 channels where that fits, else the first
number that does. -/
def chunkRows (rbs : List Nat) (r : Nat) : Option Nat :=
  (max 2 (cdiv r 32) :: (List.range 131073)).find? fun n => rbs.all fun rb => chunkFits rb r n

/-- The operations of a logical partition that share W or OUT with those of a tensor, and so its number of rows in a chunk (R314). -/
def linkedOps : Nat → List NbOp → List NbOp → List NbOp
  | 0, _, got => got
  | fuel + 1, all, got => linkedOps fuel all (all.filter fun o => got.any fun x => x.w == o.w || x.out == o.out)

/-- CHUNK and the number of groups of 32 chunks that a thin tensor of a logical partition takes (R314): W and OUT by the rows in one
chunk, ACT and ARG in chunks of 64 KiB; none where no number of rows meets the rules. -/
def Image.thinShape (im : Image) (j : Nat) (t : Tensor) : Option (Nat × Nat) :=
  let ops := (im.seqsOf j).flatMap (·.ops)
  let r := t.shape.getD 1 0
  if t.kind = 0 ∨ t.fmt = 1 then
    let linked := linkedOps ops.length ops (ops.filter fun o => o.w == t.id || o.out == t.id)
    (chunkRows ((linked.filterMap fun o => (im.tensor o.w).map (·.rowB)).eraseDups) r).map fun n =>
      (n * (if t.kind = 0 then t.rowB else 32), chunkGroups n r)
  else some (65536, cdiv t.bytes 2097152)

/-- Steps with their CHUNK and the groups of 32 chunks in use. -/
abbrev Steps := List (Nat × Nat)

/-- New steps for n groups of chunks: one, or several whole ones where the chunks leave no rest of a step. -/
def newSteps (g n : Nat) : Option Steps :=
  if g = 0 then none
  else if n ≤ 4194304 / g then some [(g, n)]
  else if 4194304 % g = 0 then
    let per := 4194304 / g
    some ((List.range (cdiv n per)).map fun i => (g, min per (n - i * per)))
  else none

/-- A place for groups of chunks: the step and group taken, and the steps after. -/
def takeStep (g n : Nat) : Steps → Nat → Option (Nat × Nat × Steps)
  | [], i => (newSteps g n).map fun st => (i, 0, st)
  | (g', u) :: r, i =>
    if g' = g ∧ u + n ≤ 4194304 / g then some (i, u, (g', u + n) :: r)
    else (takeStep g n r (i + 1)).map fun x => (x.1, x.2.1, (g', u) :: x.2.2)

/-- The thin tensors of a logical partition, in manifest order. -/
def Image.thinOf (im : Image) (j : Nat) : List Tensor :=
  let names := (im.seqsOf j).flatMap NbSeq.names
  im.tensors.filter fun t => names.contains t.id

/-- Thin tensors into steps: each tensor's id with its offset in zone N, and the steps. -/
def Image.thinPlan (im : Image) (j : Nat) (skip : List Nat) : List (Nat × Nat) × Steps :=
  ((im.thinOf j).filter fun t => !skip.contains t.id).foldl (fun (acc : List (Nat × Nat) × Steps) t =>
    match (im.thinShape j t).bind fun g => (takeStep g.1 g.2 acc.2 0).map fun x => (g.1, x) with
    | some (g, i, u, st) => (acc.1 ++ [(t.id, i * stepBytes + u * 32 * g)], st)
    | none => acc) ([], [])

/-- Whether the near-bank units of a physical partition take thin work: present and neither disabled nor lacking their stack; engines
paused for activation still take it, and queued kicks wait (R326, R327). -/
def State.nbRoom (s : State) (p : Nat) : Bool :=
  s.nbStack (2 * p) && (s.nbServes (2 * p) || s.cfld (offNb (2 * p)) 0 3 == 3) && decide (s.hbmMode p < 2)

/-- Where zone N of a partition begins when it has k steps (R289, R293). -/
def State.zoneN (s : State) (p k : Nat) : Nat :=
  p * partBytes + (if s.hbmMode p = 0 then 2 * (stackBytes - k * stepBytes) else stackBytes - k * stepBytes)

/-- Zone N of a partition as commit makes it: the map's CL_STEPS and the steps' CHUNK (R290, R313). -/
def State.setSteps (s : State) (p : Nat) (st : Steps) : State :=
  let s1 := s.setCfld (offHbmMap p) 0 10 st.length
  (List.range 576).foldl (fun a k => a.setCreg (offStep p k) (w64 (st.getD k (0, 0)).1)) s1

/-- The thin tensors of all logical partitions: each tensor's id with its device offset, and the state with zones N set; a partition
without thin tensors has none (R289, R290). -/
def State.placeThin (s : State) (im : Image) : List (Nat × Nat) × State :=
  im.lparts.foldl (fun (acc : List (Nat × Nat) × State) j =>
    match nget 0 acc.2.img.lpart j with
    | 0 => acc
    | p + 1 =>
      let plan := im.thinPlan j (acc.1.map (·.1))
      let k := plan.2.length
      let z := acc.2.zoneN p k
      let used := (p * partBytes, reservedBytes) :: acc.2.regionRanges
      if acc.2.nbRoom p ∧ 0 < k ∧ k ≤ 576 ∧ clearOf used z (k * stepBytes) then
        (acc.1 ++ plan.1.map (fun (x : Nat × Nat) => (x.1, z + x.2)), acc.2.setSteps p plan.2)
      else acc) ([], (List.range 8).foldl (fun st p => if st.clSteps p = 0 then st else st.setSteps p []) s)

/-- Whether every tensor that a sequence names lies in zone N of the stack that runs it. -/
def State.seqThin (s : State) (im : Image) (q : NbSeq) : Bool :=
  match nget 0 s.img.lpart q.lpart with
  | 0 => false
  | p + 1 => q.names.all fun id => (im.tensor id).any fun t => t.location == 2 && partOfOff t.base == p

/-- Whether a phase runs its thin work on near-bank units (R59, R60, R326). -/
def State.thinOnNb (s : State) (im : Image) (ph : Phase) : Bool :=
  ph.hasThin && ph.seqs.all fun q => s.seqThin im q && (match nget 0 s.img.lpart q.lpart with
    | 0 => false
    | p + 1 => s.nbRoom p)

/-! ### Tensors and code -/

/-- Places tensors one after another in what is free; none where one does not fit. -/
def placeAll : List (Nat × Nat) → List Tensor → Option (List Tensor × List (Nat × Nat))
  | used, [] => some ([], used)
  | used, t :: r =>
    if t.location = 2 ∨ t.kind = 1 then (placeAll used r).map fun x => (t :: x.1, x.2)
    else
      match fitIn used 0 hbmEnd t.bytes 128 with
      | some b => (placeAll (used ++ [(b, t.bytes)]) r).map fun x => ({ t with base := b, location := 0 } :: x.1, x.2)
      | none => none

/-- The image with every tensor, its code and its table sets (R111) placed; none where it does not fit (R385). The staging area is free to be used,
since commit frees it.
[DESIGN CHOICE, log entry 64: unsafe] -/
def State.placeImage (s : State) (im : Image) : Option (Image × State) :=
  match s.assignParts im with
  | none => none
  | some a =>
    let s1 := a.foldl (fun st x => st.settleOn im x.1 x.2.1 x.2.2) s
    let th := s1.placeThin im
    let ts := im.tensors.map fun t => match th.1.find? (·.1 == t.id) with
      | some x => { t with base := x.2, location := 2 }
      | none => t
    let used := ((List.range 8).flatMap th.2.partHoles) ++ th.2.regionRanges
    match fitIn used 0 hbmEnd im.codeLen 4096 with
    | none => none
    | some cb =>
      let used1 := used ++ [(cb, im.codeLen)]
      match (if im.tableBytes.isEmpty then some 0 else fitIn used1 0 hbmEnd im.tableBytes.length 128) with
      | none => none
      | some tb =>
      match placeAll (used1 ++ [(tb, im.tableBytes.length)]) ts with
      | none => none
      | some r =>
        let im1 := { im with tensors := r.1, codeBase := cb, tableBase := tb }
        if im.thinRequired ∧ !im1.phases.all (fun ph => !ph.hasThin || ph.seqs.all (th.2.seqThin im1)) then none
        else some (im1, th.2)

end Sys2Proof.Machine
end

