-- ==== Sys2Proof/Machine/ImageCmds.lean ====
section
/-! DEFINITION. The image commands: IMAGE_BEGIN, IMAGE_CHUNK, IMAGE_COMMIT, IMAGE_UNLOAD and PATCH_TABLES (R47, R112, R383 to
R387). -/

namespace Sys2Proof.Machine
open Sys2Proof

/-- A command that needs partitions waits while any of them wakes (R476, R477), and completes with DOOR_CLOSED where it meets
a closed door of a usable one (R378). -/
def State.needs (s : State) (c : Cmd) (ps : List Nat) (eff : State) : State :=
  if ps.any fun p => s.doorShut p && !s.unusable p then s.finish c.id stDoorClosed
  else if ps.any s.asleep then ps.foldl (fun st p => if st.asleep p then st.demandWake p else st) s
  else eff

/-- The usable partitions. -/
def State.usableParts (s : State) : List Nat := (List.range 8).filter fun p => !s.unusable p

/-! ### Staging (R384) -/

/-- The device offset of byte o of a list of ranges. -/
def pieceAddr : List (Nat × Nat) → Nat → Option Nat
  | [], _ => none
  | u :: r, o => if o < u.2 then some (u.1 + o) else pieceAddr r (o - u.2)

/-- The parts of a list of ranges that hold its bytes from o on, n of them. -/
def pieceRange : List (Nat × Nat) → Nat → Nat → List (Nat × Nat)
  | [], _, _ => []
  | u :: r, o, n =>
    if n = 0 then []
    else if u.2 ≤ o then pieceRange r (o - u.2) n
    else (u.1 + o, min n (u.2 - o)) :: pieceRange r 0 (n - (u.2 - o))

/-- Writes bytes across ranges. -/
def State.putPieces (s : State) : List (Nat × Nat) → List Byte → State
  | [], _ => s
  | u :: r, bs => (s.hbmPutRange u.1 (bs.take u.2)).putPieces r (bs.drop u.2)

/-- The staged image as the module reads it. -/
def State.stagedImage (s : State) (ps : List (Nat × Nat)) : Bytes := fun o => match pieceAddr ps o with
  | some a => nget 0 s.mem a
  | none => 0

/-- IMAGE_BEGIN (R383, R384): the open session is discarded and a new one takes free HBM, or NO_RESOURCE.
[DESIGN CHOICE, log entry 62: unsafe] [DEDUCED, log entry 63: unsafe] -/
def imageBegin (s : State) (c : Cmd) : State :=
  let n := c.at_ 0x18 8
  s.checked c (c.unused [(0x18, 8)] ++ flag (decide (n < 256)) 0x18) (
    if s.img.image.isSome then s.finish c.id stBusy
    else
      let s1 := { s with img := { s.img with session := none } }
      match takeBytes n s1.freeRanges with
      | none => s1.finish c.id stNoResource
      | some ps => ((ps.foldl (fun (st : State) (u : Nat × Nat) => st.zeroRange u.1 u.2)
          { s1 with img := { s1.img with session := some (n, ps) } })).finish c.id stOk)

/-- IMAGE_BEGIN (R384). -/
def execImageBegin (cmd : Nat) (s : State) : Out := onCmd cmd 0x10 s (imageBegin s)

/-- The fields of IMAGE_CHUNK that fail a structural check (R383). -/
def chunkBad (c : Cmd) (session : Nat) : List Nat :=
  c.unused [(0x10, 4), (0x18, 8), (0x20, 8)] ++ flag (c.at_ 0x10 4 == 0 || decide (0x4000000 < c.at_ 0x10 4)) 0x10 ++
  flag (decide (session < c.at_ 0x18 8 + c.at_ 0x10 4)) 0x18

/-- Some bytes of a chunk, from its progress on: a failed host read leaves the whole range open (R384, R567). -/
def State.chunkBytes (s : State) (c : Cmd) (ps : List (Nat × Nat)) (n : Nat) : Option State :=
  match s.hostRead (c.at_ 0x20 8 + c.amount) n with
  | none => none
  | some bs => some (s.putPieces (pieceRange ps (c.at_ 0x18 8 + c.amount) n) bs)

/-- The range of a chunk becomes open until it is written again (R384). -/
def State.chunkOpen (s : State) (c : Cmd) : State :=
  match s.img.session with
  | some (_, ps) => (s.putPieces (pieceRange ps (c.at_ 0x18 8) (c.at_ 0x10 4)) (leBytes (c.at_ 0x10 4) s.draw)).drew
  | none => s

/-- The partitions that a list of ranges touches. -/
def partsOf (ps : List (Nat × Nat)) : List Nat := (List.range 8).filter fun p => ps.any fun u =>
  decide (u.1 < (p + 1) * partBytes) && decide (p * partBytes < u.1 + u.2)

/-- IMAGE_CHUNK (R384, R567). -/
def imageChunk (s : State) (c : Cmd) : State :=
  match s.img.session with
  | none => s.checked c (chunkBad c (2 ^ 65)) (s.badState c.id)
  | some (n, ps) =>
    s.checked c (chunkBad c n) (s.needs c (partsOf (pieceRange ps (c.at_ 0x18 8) (c.at_ 0x10 4))) (
      match s.chunkBytes c ps (c.at_ 0x10 4 - c.amount) with
      | some s1 => s1.finish c.id stOk
      | none => (s.chunkOpen c).hostFails c 0x20))

/-- IMAGE_CHUNK (R384). -/
def execImageChunk (cmd : Nat) (s : State) : Out := onCmd cmd 0x11 s (imageChunk s)

/-! ### Commit (R385) -/

/-- FREE_HBM in MiB in DETAIL [63:32] (R385). -/
def State.freeDetail (s : State) : W64 := w64 (s.freeHbm / 2 ^ 20 * 2 ^ 32)

/-- The status of a success that a DEGRADED partition qualifies (R385, R448). -/
def State.okOrDegraded (s : State) : Nat := if s.anyDegraded then stDegraded else stOk

/-- The contents that commit writes: code, table sets, WEIGHT tensors, and zeros for WORKING tensors. -/
def State.loadImage (s : State) (g : Bytes) (im : Image) : State :=
  let x := secOf g 1
  let s0 := s.hbmPutRange im.codeBase (gBytes g x.off x.len)
  let s1 := if im.tableBytes.isEmpty then s0 else s0.hbmPutRange im.tableBase im.tableBytes
  im.tensors.foldl (fun st t => match t.kind with
    | 0 => st.hbmPutRange t.base (gBytes g ((secOf g 5).off + t.dataOff) t.bytes)
    | 2 => (st.invalRange t.base t.bytes true).zeroRange t.base t.bytes
    | _ => st) s1

/-- Every bay takes the image's split, and every private region reads as zeros (R197, R216). -/
def State.splitBays (s : State) (steps : Nat) : State :=
  let s1 := (List.range 1344).foldl (fun (st : State) (n : Nat) => st.setCfld (offBayCfg n) 20 4 steps) s
  { s1 with bays := s1.bays.map fun (e : Nat × Bay) => (e.1, { e.2 with own := [], ownBad := [] }) }

/-- Cores forget earlier launches and hold no message of an earlier image (R85, R92). -/
def State.freshCores (s : State) : State :=
  { s with cores := s.cores.map fun (e : Nat × Core) => (e.1, { e.2 with
      launched := false, lastFn := 0, lastCommit := 0, lastSplit := 0, rxq := [], overflow := [], spill := [], ringHead := 0,
      lost := false }) }

/-- A commit whose checks have passed: placement and the image in place, or NO_RESOURCE and nothing changed (R385). -/
def State.commitImage (s : State) (c : Cmd) (g : Bytes) (len : Nat) : State :=
  match (s.rehome (fun _ => true) id).placeImage (readImage g len) with
  | none => s.finish c.id stNoResource
  | some (im, s1) =>
    let s2 := ((s1.splitBays im.steps).freshCores.syncRings).loadImage g im
    let s3 := { s2 with
      groups := []
      img := { s2.img with session := none, image := some im, commits := s2.img.commits + 1, workFn := [] }
      nbs := s2.nbs.map fun (e : Nat × NbStack) => (e.1, { e.2 with owner := 0 }) }
    s3.complete c.id s3.okOrDegraded s3.freeDetail []

/-- IMAGE_COMMIT (R47, R385, R541). -/
def imageCommit (s : State) (c : Cmd) : State :=
  s.checked c (c.unused []) (
    match s.img.session with
    | none => s.badState c.id
    | some (len, ps) => s.needs c s.usableParts (
      if ps.any fun u => s.rangePoison u.1 u.2 then s.finish c.id stEcc
      else
        let g := s.stagedImage ps
        match imageBad g len with
        | some o => s.badData c.id o
        | none =>
          if s.sigReason g len ≠ 0 then s.complete c.id stAuthFail (w64 (s.sigReason g len)) []
          else s.commitImage c g len))

/-- IMAGE_COMMIT (R385). -/
def execImageCommit (cmd : Nat) (s : State) : Out := onCmd cmd 0x12 s (imageCommit s)

/-! ### Unload (R386) -/

/-- Whether any epoch is HELD. -/
def State.anyHeld (s : State) : Bool := s.groups.any fun e => decide (e.2.st = .held)

/-- Whether any run is in flight. -/
def State.anyRun (s : State) : Bool := s.runs.any fun r => decide (r.st ≠ .ended)

/-- What is on the way to cores of this module as the image goes: messages in send buffers, in the network and held at doors are
discarded and counted (R43). -/
def State.discardMsgs (s : State) : State :=
  let here (m : Msg) : Bool := m.dstModule == 0xFFF || m.dstModule == s.moduleId
  let gone := s.cores.flatMap (fun (e : Nat × Core) => e.2.send.filter here) ++ s.net.filter here ++
    (List.range 8).flatMap (fun p => (s.part p).hold)
  let s1 := gone.foldl (fun (st : State) m => st.msgError m) s
  (List.range 8).foldl (fun (st : State) p => if (st.part p).hold.isEmpty then st else st.setPart p { st.part p with hold := [] })
    { s1 with net := s1.net.filter fun m => !here m
              cores := s1.cores.map fun (e : Nat × Core) => (e.1, { e.2 with send := e.2.send.filter fun m => !here m }) }

/-- IMAGE_UNLOAD (R386). -/
def imageUnload (s : State) (c : Cmd) : State :=
  s.checked c (c.unused []) (
    match s.img.image with
    | none => s.badState c.id
    | some im =>
      if s.anyRun || s.anyHeld then s.finish c.id stBusy
      else
        let s1 := (im.tensors.filter (·.kind == 0)).foldl (fun (st : State) (t : Tensor) =>
          (st.invalRange t.base t.bytes false).unpinRange t.base t.bytes) s.discardMsgs
        let s2 := { s1 with fns := s1.fns.map fun (e : Nat × Fn) => (e.1, { e.2 with pins := e.2.pins.filter (·.kind != 1) }) }
        let s3 := ((List.range 8).foldl (fun (st : State) (j : Nat) => st.vacate j) s2).freshCores.syncRings
        ({ s3 with img := { s3.img with image := none, workFn := [] } }).finish c.id stOk)

/-- IMAGE_UNLOAD (R386). -/
def execImageUnload (cmd : Nat) (s : State) : Out := onCmd cmd 0x13 s (imageUnload s)

/-! ### Codebook patches (R112, R387) -/

/-- One patch record: table set, first table and the new tables. -/
structure PatchRec where
  set : Nat
  first : Nat
  tables : List (List (BitVec 16))
deriving DecidableEq, Repr

/-- The records of a payload from offset o on, or the offset of the first field that fails a check. -/
def patchRecs (g : Bytes) (sets : List TableSet) (len : Nat) : Nat → Nat → Except Nat (List PatchRec)
  | 0, _ => .ok []
  | fuel + 1, o =>
    if len ≤ o then .ok []
    else
      let st := gN g o 2
      let first := gN g (o + 2) 1
      let n := gN g (o + 3) 1 + 1
      match sets[st]? with
      | none => .error o
      | some t =>
        let size := n * tableBytes t.kind
        if t.tables.length < first + n then .error (o + 2)
        else if len < o + 16 + size then .error (o + 3)
        else
          match lowest (nonZero g (o + 4) 12 ++ (List.range (size / 2)).flatMap fun j =>
            flag (bfBad (gN g (o + 16 + 2 * j) 2)) (o + 16 + 2 * j)) with
          | some b => .error b
          | none => (patchRecs g sets len fuel (o + 16 + size)).map fun r =>
            { set := st, first := first, tables := readTables g (o + 16) t.kind n } :: r

/-- A table set with the tables of a record in place of its own. -/
def TableSet.patched (t : TableSet) (r : PatchRec) : TableSet :=
  { t with tables := t.tables.take r.first ++ r.tables ++ t.tables.drop (r.first + r.tables.length) }

/-- The table sets after one record. -/
def patchSets (sets : List TableSet) (r : PatchRec) : List TableSet :=
  match sets[r.set]? with
  | some t => sets.set r.set (t.patched r)
  | none => sets

/-- The table sets of the committed image change, with every copy of those listed (R112): their bytes in HBM, past whose sill lines the
write goes; the cores' table caches, which drop them; and the base dies, whose copy is the image's. -/
def State.patchImage (s : State) (im : Image) (sets : List Nat) : State :=
  let s1 := { s with
    img := { s.img with image := some im }
    cores := s.cores.map fun (e : Nat × Core) => (e.1, { e.2 with tsets := e.2.tsets.filter fun t => !sets.contains t }) }
  sets.eraseDups.foldl (fun (st : State) i => match im.tables[i]? with
    | some t => st.hbmPutRange (im.tableBase + t.off) t.bytes
    | none => st) s1

/-- PATCH_TABLES (R112, R387): every record is checked before any table changes; every copy of a set follows at once. -/
def patchTables (s : State) (c : Cmd) : State :=
  let n := c.at_ 0x10 4
  s.checked c (c.unused [(0x10, 4), (0x18, 8)] ++ flag (n % 16 != 0 || decide (n < 16)) 0x10) (
    match s.hostRead (c.at_ 0x18 8) n with
    | none => s.hostFails c 0x18
    | some bs =>
      let sets := match s.img.image with
        | some im => im.tables
        | none => []
      match patchRecs (fun o => bs.getD o 0) sets n (n / 16) 0 with
      | .error o => s.badData c.id o
      | .ok rs =>
        match s.img.image with
        | some im => (s.patchImage { im with tables := rs.foldl patchSets im.tables } (rs.map (·.set))).finish c.id stOk
        | none => s.finish c.id stOk)

/-- PATCH_TABLES (R112). -/
def execPatchTables (cmd : Nat) (s : State) : Out := onCmd cmd 0x14 s (patchTables s)

end Sys2Proof.Machine
end

