-- ==== Sys2Proof/Machine/MemCmds.lean ====
section
/-! DEFINITION. The memory commands COPY, FILL, SCRUB, PIN and UNPIN, the release of result slots, ECHO, and the steps of
stepped commands (R231, R232, R364, R367, R392 to R396, R413, R501). -/

namespace Sys2Proof.Machine
open Sys2Proof

/-! ### COPY and FILL (R393, R394) -/

/-- Whether a command's use of region i of its function has a permission (R61, R394). -/
def State.regionMay (s : State) (c : Cmd) (i : Nat) (write : Bool) : Bool :=
  let r := s.region c.fn i
  r.ready c.id && (if write then fld r.attr 62 1 == 1 else fld r.attr 61 1 == 1)

/-- The device offset of a byte of a region. -/
def State.regionAddr (s : State) (c : Cmd) (i o : Nat) : Nat := (s.region c.fn i).base + o

/-- The checks of one region range: index field, region, offset field, offset, length, permission (R67, R394). -/
def State.regionBad (s : State) (c : Cmd) (iField i oField o n : Nat) (write : Bool) : List Nat :=
  flag (decide (64 ≤ i) || !s.regionMay c i write) iField ++
  flag (decide ((s.region c.fn (i % 64)).size < o + n)) oField

/-- The structural checks of COPY (R373, R393, R394). -/
def State.copyBad (s : State) (c : Cmd) : List Nat :=
  let sk := c.at_ 0x10 1
  let dk := c.at_ 0x11 1
  let n := c.at_ 0x18 8
  c.unused [(0x10, 4), (0x18, 24)] ++ flag (decide (1 < sk)) 0x10 ++ flag (decide (1 < dk) || (sk == 0 && dk == 0)) 0x11 ++
  flag (sk != 1 && c.at_ 0x12 1 != 0) 0x12 ++ flag (dk != 1 && c.at_ 0x13 1 != 0) 0x13 ++
  flag (n == 0 || decide (2 ^ 40 < n)) 0x18 ++
  (if sk = 1 then s.regionBad c 0x12 (c.at_ 0x12 1) 0x20 (c.at_ 0x20 8) n false else []) ++
  (if dk = 1 then s.regionBad c 0x13 (c.at_ 0x13 1) 0x28 (c.at_ 0x28 8) n true else [])

/-- The structural checks of FILL (R373, R393, R394). -/
def State.fillBad (s : State) (c : Cmd) : List Nat :=
  let o := c.at_ 0x20 8
  let n := c.at_ 0x28 8
  c.unused [(0x10, 1), (0x18, 24)] ++ flag (o % 8 != 0) 0x20 ++ flag (n % 8 != 0 || n == 0) 0x28 ++
  s.regionBad c 0x10 (c.at_ 0x10 1) 0x20 o n true

/-- Source of byte i of a COPY: a device offset, or a host address. -/
def State.copySrc (s : State) (c : Cmd) (i : Nat) : Nat :=
  if c.at_ 0x10 1 = 1 then s.regionAddr c (c.at_ 0x12 1) (c.at_ 0x20 8 + i) else c.at_ 0x20 8 + i

/-- Target of byte i of a COPY. -/
def State.copyDst (s : State) (c : Cmd) (i : Nat) : Nat :=
  if c.at_ 0x11 1 = 1 then s.regionAddr c (c.at_ 0x13 1) (c.at_ 0x28 8 + i) else c.at_ 0x28 8 + i

/-- Target of byte i of a FILL. -/
def State.fillDst (s : State) (c : Cmd) (i : Nat) : Nat := s.regionAddr c (c.at_ 0x10 1) (c.at_ 0x20 8 + i)

/-- Length of a COPY or FILL. -/
def Cmd.span (c : Cmd) : Nat := if c.opcode = 0x30 then c.at_ 0x18 8 else c.at_ 0x28 8

/-- The device bytes that byte i of a COPY or FILL touches. -/
def State.touches (s : State) (c : Cmd) (i : Nat) : List Nat :=
  if c.opcode = 0x30 then
    (if c.at_ 0x10 1 = 1 then [s.copySrc c i] else []) ++ (if c.at_ 0x11 1 = 1 then [s.copyDst c i] else [])
  else [s.fillDst c i]

/-- Why byte i of a COPY or FILL cannot be moved: a closed door (R378), a poisoned source (R394), or a host byte that cannot be
read (R567). -/
def State.moveStop (s : State) (c : Cmd) (i : Nat) : Option Nat :=
  if (s.touches c i).any s.doorAt then some stDoorClosed
  else if c.opcode = 0x30 ∧ c.at_ 0x10 1 = 1 ∧ s.linePoison (s.copySrc c i) then some stEcc
  else if c.opcode = 0x30 ∧ c.at_ 0x10 1 = 0 ∧ (s.hostRead (s.copySrc c i) 1).isNone then some stBadParam
  else none

/-- The first byte from lo on, of n, that cannot be moved, with the status that says why. -/
def State.moveLimit (s : State) (c : Cmd) (lo : Nat) : Nat → Nat × Option Nat
  | 0 => (lo, none)
  | n + 1 => match s.moveStop c lo with
    | some st => (lo, some st)
    | none => s.moveLimit c (lo + 1) n

/-- The bytes that a COPY or FILL gives its target from byte lo on. -/
def State.moveBytes (s : State) (c : Cmd) (lo n : Nat) : List Byte :=
  if c.opcode = 0x30 then
    (if c.at_ 0x10 1 = 1 then s.memRead (s.copySrc c lo) n else rdBytes s.host (s.copySrc c lo) n)
  else (List.range n).map fun i => (leBytes 8 (c.at_ 0x18 8)).getD ((c.at_ 0x20 8 + lo + i) % 8) 0

/-- Bytes into the target of a COPY or FILL from byte lo on; device targets go through their home bays (R223). -/
def State.movePut (s : State) (c : Cmd) (lo : Nat) (bs : List Byte) : State :=
  if c.opcode = 0x30 then
    (if c.at_ 0x11 1 = 1 then ((s.noteWrite (ownerCmd c.id) (s.copyDst c lo) bs).homeWrite (s.copyDst c lo) bs 7).1
     else s.hostWrite (s.copyDst c lo) bs)
  else ((s.noteWrite (ownerCmd c.id) (s.fillDst c lo) bs).homeWrite (s.fillDst c lo) bs 7).1

/-- The bytes that the target of a COPY or FILL holds now. -/
def State.moveOld (s : State) (c : Cmd) (lo n : Nat) : List Byte :=
  if c.opcode = 0x30 ∧ c.at_ 0x11 1 = 0 then rdBytes s.host (s.copyDst c lo) n
  else s.memRead (if c.opcode = 0x30 then s.copyDst c lo else s.fillDst c lo) n

/-- Bytes lo to lo + n of a target, each its present value or the one that the command gives it, as s0 holds the source. -/
def State.moveMix (s0 : State) (c : Cmd) (lo n : Nat) (s : State) : State :=
  let new := s0.moveBytes c lo n
  let old := s.moveOld c lo n
  (s.movePut c lo ((List.range n).map fun i => if s.draw.testBit i then new.getD i 0 else old.getD i 0)).drew

/-- The stretches of a target from byte lo on that no closed door holds. -/
def State.moveScatter (s0 : State) (c : Cmd) : Nat → Nat → State → State
  | 0, _, s => s
  | fuel + 1, lo, s =>
    let lim := s0.moveLimit c lo (c.span - lo)
    let s1 := if lim.1 = lo then s else s0.moveMix c lo (lim.1 - lo) s
    if lim.2 = some stDoorClosed then s0.moveScatter c fuel (lim.1 + 1) s1 else s1

/-- A COPY or FILL that stops, or meets a closed door: each byte of its target that it has not yet moved keeps its old value or takes
the new one, which is open (R378, R394).
[DESIGN CHOICE, log entry 122: safe] -/
def State.moveOpen (s : State) (c : Cmd) : State := s.moveScatter c (c.span - c.amount) c.amount s

/-- The partitions whose device memory a COPY or FILL touches. -/
def State.moveParts (s : State) (c : Cmd) : List Nat :=
  let n := c.span
  let rng (a : Nat) : List Nat := partsOf [(a, n)]
  (if c.opcode = 0x30 then
    (if c.at_ 0x10 1 = 1 then rng (s.copySrc c 0) else []) ++ (if c.at_ 0x11 1 = 1 then rng (s.copyDst c 0) else [])
  else rng (s.fillDst c 0)).eraseDups

/-- A command waits while a partition it needs wakes (R476, R477). -/
def State.awakeFor (s : State) (ps : List Nat) (eff : State) : State :=
  if ps.any s.asleep then ps.foldl (fun st p => if st.asleep p then st.demandWake p else st) s else eff

/-- The device lines that n bytes of a COPY or FILL read, or write, from byte lo on. -/
def State.moveLines (s : State) (c : Cmd) (write : Bool) (lo n : Nat) : List Nat :=
  if c.opcode = 0x30 then
    (if write then (if c.at_ 0x11 1 = 1 then blocksOf 128 (s.copyDst c lo) n else [])
     else if c.at_ 0x10 1 = 1 then blocksOf 128 (s.copySrc c lo) n else [])
  else if write then blocksOf 128 (s.fillDst c lo) n else []

/-- The reads of a COPY's source lines at their home bays (R222, R295). -/
def State.moveTouch (s : State) (c : Cmd) (lo n : Nat) : State :=
  (s.moveLines c false lo n).foldl (fun st ln => if st.backed ln && !st.doorAt ln then st.touchHome ln 7 else st) s

/-- Whether n bytes of a COPY or FILL wait for a fill of a line of their target (R227). -/
def State.moveWaits (s : State) (c : Cmd) (lo n : Nat) : Bool := (s.moveLines c true lo n).any fun ln => s.fillPending ln 1

/-- The rest of a COPY or FILL and its final completion, once every invalidation that its writes asked for is acknowledged (R223,
R394). -/
def State.moveRest (s0 : State) (c : Cmd) : State :=
  s0.awakeFor (s0.moveParts c) (
    let n := c.span - c.amount
    if s0.moveWaits c c.amount n then s0
    else
      let s := s0.moveTouch c c.amount n
      let lim := s.moveLimit c c.amount n
      let s1 := if lim.2 = some stDoorClosed then s.moveOpen c else s.movePut c c.amount (s.moveBytes c c.amount (lim.1 - c.amount))
      if (s1.moveLines c true 0 lim.1).any fun ln => (s1.bay (s1.homeBay ln)).lines.any fun l => l.line == ln && l.acks != 0 then
        s1.modCmd c.id fun x => { x with started := true, amount := lim.1 }
      else
        let s2 := s1.mirrorEnd (ownerCmd c.id) c.fn c.tag
        match lim.2 with
        | none => s2.finish c.id stOk
        | some st => if st = stBadParam then s2.hostFails c 0x20 else s2.finish c.id st)

/-- Whether a COPY's source and target ranges share device bytes; it then moves all at once, as through a temporary buffer
(R394). -/
def State.copyOverlaps (s : State) (c : Cmd) : Bool :=
  c.opcode == 0x30 && c.at_ 0x10 1 == 1 && c.at_ 0x11 1 == 1 && bytesMeet (s.copySrc c 0) c.span (s.copyDst c 0) c.span

/-- COPY (R394). -/
def execCopy (cmd : Nat) (s : State) : Out :=
  onCmd cmd 0x30 s fun c => if c.started then s.moveRest c else s.checked c (s.copyBad c) (s.moveRest c)

/-- FILL (R394). -/
def execFill (cmd : Nat) (s : State) : Out :=
  onCmd cmd 0x31 s fun c => if c.started then s.moveRest c else s.checked c (s.fillBad c) (s.moveRest c)

/-! ### SCRUB (R395, R501) -/

/-- The summary of a scrub so far: corrected, uncorrectable, offsets found. -/
structure Scrubbed where
  fixed : Nat := 0
  bad : Nat := 0
  found : List Nat := []
deriving DecidableEq, Repr

/-- One sector of a scrub. -/
def State.scrubSector (s : State) (x : Scrubbed) (sector : Nat) : State × Scrubbed :=
  let off := 64 * sector
  if !s.backed off then (s, x)
  else
    let s1 := hbmSectorRead sector [] s
    match rsDecode (chkErrors (s.sectorChk off)) with
    | .clean => (s1, x)
    | .corrected _ _ => (s1, { x with fixed := x.fixed + 1, found := x.found ++ [off] })
    | _ => (s1, { x with bad := x.bad + 1, found := x.found ++ [2 ^ 63 + off] })

/-- The sectors of a scrub in address order, up to a partition whose doors are closed. -/
def scrubSectors : List Nat → State → Scrubbed → State × Scrubbed × Bool
  | [], s, x => (s, x, false)
  | o :: r, s, x =>
    if s.backed (64 * o) && s.doorAt (64 * o) then (s, x, true)
    else
      let y := s.scrubSector x o
      scrubSectors r y.1 y.2

/-- The 144-byte result of SCRUB (R395). -/
def Scrubbed.bytes (x : Scrubbed) : List Byte :=
  leBytes 8 x.fixed ++ leBytes 8 x.bad ++ (List.range 16).flatMap fun i => leBytes 8 (x.found.getD i (2 ^ 64 - 1))

/-- SCRUB (R395). -/
def execScrub (cmd : Nat) (s : State) : Out :=
  onCmd cmd 0x32 s fun c =>
    let a := c.at_ 0x18 8
    let n := c.at_ 0x20 8
    s.checked c (c.unused [(0x18, 16)] ++ flag (a % 64 != 0 || decide (hbmEnd ≤ a)) 0x18 ++
        flag (n % 64 != 0 || n == 0 || decide (hbmEnd < a + n)) 0x20) (
      s.awakeFor (partsOf [(a, n)]) (
        let r := scrubSectors ((List.range (n / 64)).map fun i => a / 64 + i) s {}
        r.1.complete c.id (if r.2.2 then stDoorClosed else stOk) 0 r.2.1.bytes))

/-! ### PIN and UNPIN (R231, R232, R396) -/

/-- The device range that a PIN or UNPIN names and the fields that fail its checks. -/
def State.pinRange (s : State) (c : Cmd) : List Nat × Nat × Nat × Nat :=
  let o := c.at_ 0x18 8
  let n := c.at_ 0x20 8
  if c.at_ 0x10 1 = 0 then
    let i := c.at_ 0x11 1
    let r := s.region c.fn (i % 64)
    (flag (decide (64 ≤ i) || !r.ready c.id) 0x11 ++ flag (c.at_ 0x14 4 != 0) 0x14 ++ flag (n == 0 || decide (r.size < o + n)) 0x20,
     i, r.base + o, n)
  else
    match s.tensor (c.at_ 0x14 4) with
    | some t => (flag (c.at_ 0x11 1 != 0) 0x11 ++ flag (t.kind != 0) 0x14 ++ flag (n == 0 || decide (t.bytes < o + n)) 0x20,
                 t.id, t.base + o, n)
    | none => (flag (c.at_ 0x11 1 != 0) 0x11 ++ [0x14], 0, 0, n)

/-- PIN has pinned a line: its range holds the line, and DETAIL counts its bytes (R396). -/
def State.pinGot (s : State) (c : Cmd) (x : ChPinned) (part : Nat) : State :=
  (s.modFn c.fn fun f => { f with pins := updFirst (·.cmd == c.id + 1) (fun r => { r with lines := r.lines ++ [x] }) f.pins }).modCmd c.id
    fun y => { y with amount := y.amount + part }

/-- PIN's work on one line (R231, R232): a line outside the fence is counted and passed over, the first line beyond the cap or
behind a closed door stops it, and one that waits for a fill or a free miss entry makes it wait (R225). The answer beside the state is
what stops it, 0 for a wait. -/
def pinLine (c : Cmd) (cls off n : Nat) (may : Bool) (acc : State × Option Nat) (ln : Nat) : State × Option Nat :=
  if acc.2.isSome then acc
  else
    let s := acc.1
    let bay := s.homeBay ln
    let b := s.bay bay
    let seen (st : State) : State × Option Nat :=
      (st.modFn c.fn fun f => { f with pins := updFirst (·.cmd == c.id + 1) (fun r => { r with seen := r.seen + 1 }) f.pins }, none)
    let got (st : State) : State × Option Nat :=
      seen (st.pinGot c { bay := bay, line := ln } (min (ln + 128) (off + n) - max ln off))
    if !s.backed ln then seen ((s.logEv 17 ln).sill bay sillPinRefused 1)
    else if s.doorAt ln then (s, some stDoorClosed)
    else if !may then seen (s.sill bay sillPinRefused 1)
    else if s.pinned bay ln then got s
    else if 12 ≤ s.capUsed bay ln then (s.sill bay sillPinRefused 1, some stNoResource)
    else if (b.find ln).isSome then got s
    else if (b.missOf ln).isSome ∨ 64 ≤ b.miss.length then (s, some 0)
    else
      match s.pinFill bay ln cls with
      | (s1, true) => got s1
      | (s1, false) => (s1.sill bay sillPinRefused 1, some stNoResource)

/-- The range that a PIN at work fills. -/
def State.pinOf (s : State) (c : Cmd) : Option PinRange := (s.fn c.fn).pins.find? (·.cmd == c.id + 1)

/-- Some lines of a PIN, from the first that it has not looked at. -/
def State.pinSome (s : State) (c : Cmd) (n : Nat) : State × Option Nat :=
  let r := s.pinRange c
  let off := r.2.2.1
  let len := r.2.2.2
  let new : PinRange := { kind := c.at_ 0x10 1, object := r.2.1, off := c.at_ 0x18 8, len := len, cls := c.at_ 0x12 1, lines := [],
                          cmd := c.id + 1 }
  let s1 := if (s.pinOf c).isSome then s
    else (s.modFn c.fn fun f => { f with pins := f.pins ++ [new] }).modCmd c.id fun x => { x with started := true }
  let may := c.at_ 0x10 1 == 1 || s.regionMay c r.2.1 false
  (((blocksOf 128 off len).drop (match s1.pinOf c with
    | some p => p.seen
    | none => 0)).take n).foldl (pinLine c (c.at_ 0x12 1) off len may) (s1, none)

/-- The structural checks of PIN (R396). -/
def State.pinBad (s : State) (c : Cmd) : List Nat :=
  c.unused [(0x10, 3), (0x14, 20)] ++ flag (decide (1 < c.at_ 0x10 1)) 0x10 ++ flag (decide (8 ≤ c.at_ 0x12 1)) 0x12 ++
  (if c.at_ 0x10 1 ≤ 1 then (s.pinRange c).1 else [])

/-- The rest of a PIN and its completion (R232, R396): its lines stay pinned even where it stops early.
[DEDUCED, log entry 67: unsafe] -/
def State.pinRest (s : State) (c : Cmd) : State :=
  let r := s.pinRange c
  s.awakeFor (partsOf [(r.2.2.1, r.2.2.2)]) (
    let x := s.pinSome c (blockCount 128 r.2.2.1 r.2.2.2)
    let done (st : Nat) : State :=
      (x.1.modFn c.fn fun f => { f with pins := updFirst (·.cmd == c.id + 1) (fun p => { p with cmd := 0 }) f.pins }).complete c.id st
        (w64 (match x.1.cmd c.id with
          | some y => y.amount
          | none => 0)) []
    match x.2 with
    | none => done stOk
    | some 0 => x.1
    | some st => done st)

/-- PIN (R231, R232, R396).
[DEDUCED, log entry 67: unsafe] -/
def pinCmd (s : State) (c : Cmd) : State :=
  if c.started then s.pinRest c
  else if c.at_ 0x10 1 = 1 ∧ c.fn ≠ 0 then s.finish c.id stNotPrivileged
  else s.checked c (s.pinBad c) (if 64 ≤ (s.fn c.fn).pins.length then s.finish c.id stNoResource else s.pinRest c)

/-- PIN (R396). -/
def execPin (cmd : Nat) (s : State) : Out := onCmd cmd 0x33 s (pinCmd s)

/-- UNPIN (R396): every PIN range of the function that lies within the range named. -/
def unpinCmd (s : State) (c : Cmd) : State :=
  let kind := c.at_ 0x10 1
  if kind = 1 ∧ c.fn ≠ 0 then s.finish c.id stNotPrivileged
  else
    let r := s.pinRange c
    let bad := c.unused [(0x10, 2), (0x14, 20)] ++ flag (decide (1 < kind)) 0x10 ++ (if kind ≤ 1 then r.1 else [])
    s.checked c bad (
      let o := c.at_ 0x18 8
      let hit (p : PinRange) : Bool :=
        p.kind == kind && p.object == r.2.1 && decide (o ≤ p.off) && decide (p.off + p.len ≤ o + c.at_ 0x20 8)
      if (s.fn c.fn).pins.any hit then
        (s.modFn c.fn fun f => { f with pins := f.pins.filter fun p => !hit p }).finish c.id stOk
      else s.badState c.id)

/-- UNPIN (R396). -/
def execUnpin (cmd : Nat) (s : State) : Out := onCmd cmd 0x34 s (unpinCmd s)

/-! ### Slots, ECHO and steps -/

/-- RESULT_RELEASE (R367, R392): BUSY for a FILLING slot, BAD_PARAM for an EMPTY one. -/
def execResultRelease (cmd : Nat) (s : State) : Out :=
  onCmd cmd 0x28 s fun c =>
    s.checked c (c.unused [(0x10, 1)]) (
      let i := c.at_ 0x10 1
      match ((s.fn c.fn).slot i).st with
      | 2 => (s.modSlot c.fn i fun r => { r with st := 0, status := 0, length := 0, payload := [] }).finish c.id stOk
      | 1 => s.finish c.id stBusy
      | _ => s.badField c.id 0x10)

/-- ECHO (R413): the 48 bytes of PARAMS, unchecked (R373). -/
def execEcho (cmd : Nat) (s : State) : Out :=
  onCmd cmd 0xF0 s fun c => s.complete c.id stOk 0 ((c.entry.drop 16).take 48)

/-- A step of a command: one more, with its bytes. -/
def State.stepped (s : State) (id n : Nat) : State :=
  s.modCmd id fun x => { x with started := true, steps := x.steps + 1, amount := x.amount + n }

/-- One step of a COPY or FILL: it moves some more bytes, short of the last and of the first it cannot move.
[DESIGN CHOICE, log entry 122: safe] -/
def State.moveStep (s0 : State) (c : Cmd) (n : Nat) : State :=
  let want := min n (c.span - 1 - c.amount)
  if (s0.moveParts c).any s0.asleep || s0.copyOverlaps c || s0.moveWaits c c.amount want then s0
  else
    let s := s0.moveTouch c c.amount want
    let k := (s.moveLimit c c.amount want).1 - c.amount
    (s.movePut c c.amount (s.moveBytes c c.amount k)).stepped c.id k

/-- One step of a PIN: it looks at some more lines, short of the last (R232). -/
def State.pinStep (s : State) (c : Cmd) (n : Nat) : State :=
  let r := s.pinRange c
  let lines := blockCount 128 r.2.2.1 r.2.2.2
  let begun := match s.pinOf c with
    | some p => p.seen
    | none => 0
  if (!c.started && ((c.at_ 0x10 1 == 1 && c.fn != 0) || !(s.pinBad c).isEmpty || decide (64 ≤ (s.fn c.fn).pins.length))) ||
     (partsOf [(r.2.2.1, r.2.2.2)]).any s.asleep then s
  else
    let x := s.pinSome c (min n (lines - 1 - begun))
    x.1.modCmd c.id fun y => { y with steps := y.steps + 1 }

/-- One step of an IMAGE_CHUNK. -/
def State.chunkStep (s : State) (c : Cmd) (n : Nat) : State :=
  match s.img.session with
  | none => s
  | some (len, ps) =>
    if chunkBad c len ≠ [] ∨ (partsOf ps).any s.asleep then s
    else
      let k := min n (c.at_ 0x10 4 - 1 - c.amount)
      match s.chunkBytes c ps k with
      | some s1 => s1.stepped c.id k
      | none => s

/-- STEPPED_COMMAND_STEP (R364): the command does some more of its work; of a command that moves bytes the amount says how many. -/
def execSteppedCommandStep (cmd amount : Nat) (s : State) : Out :=
  .next (match s.cmd cmd with
    | none => s
    | some c =>
      if !opStepped c.opcode || !s.mayBegin c then s
      else
        match c.opcode with
        | 0x30 => if c.started || s.copyBad c == [] then s.moveStep c amount else s
        | 0x31 => if c.started || s.fillBad c == [] then s.moveStep c amount else s
        | 0x11 => s.chunkStep c amount
        | 0x33 => s.pinStep c amount
        | _ => s.modCmd cmd fun x => { x with steps := x.steps + 1 })

end Sys2Proof.Machine
end

