-- ==== Sys2Proof/Machine/Regulation.lean ====
section
/-! DEFINITION. Traffic regulation: class tables, modes, quotas and louvre windows (R229, R338 to R345, R397, R398). What a
louvre measures in a window is time, which the model does not keep: those measurements are open values. -/

namespace Sys2Proof.Machine
open Sys2Proof

/-- The mode that a partition's louvres take at their next window (R340): 0 LATENCY, 1 MINBW, 2 MINBW with the class table
set aside. -/
def State.regMode (s : State) (p : Nat) : Nat := if s.cfld (offRegMode p) 4 1 = 1 then 2 else s.cfld (offRegMode p) 0 2

/-- Counts a change between LATENCY and MINBW (R349). -/
def State.modeChanged (s : State) (p old : Nat) : State :=
  if decide (s.regMode p = 0) != decide (old = 0) then s.bump 0x31 p 2 1 else s

/-- Sets AUTO_ACTIVE of a partition (R340).
[DEDUCED, log entry 129: unsafe] -/
def State.setAuto (s : State) (p v : Nat) : State := (s.setCfld (offRegMode p) 4 1 v).modeChanged p (s.regMode p)

/-- Sets MODE of a partition (R398). -/
def State.setRegMode (s : State) (p v : Nat) : State := (s.setCfld (offRegMode p) 0 2 v).modeChanged p (s.regMode p)

/-- Sum of the requested minimums of a partition (R344). -/
def State.minSum (s : State) (p : Nat) : Nat := ((List.range 8).map fun c => s.cfld (offClass p c) 32 16).sum

/-- Whether a partition's minimums are scaled (R344).
[DEDUCED, log entry 130: unsafe] -/
def State.scaled (s : State) (p : Nat) : Bool := decide (9 * s.cfld (offRegMode p) 32 16 < 10 * s.minSum p)

/-- Applies the minimums from the requested ones and DELIVERABLE (R344). -/
def State.applyMin (s : State) (p : Nat) : State :=
  let sum := s.minSum p
  let d := s.cfld (offRegMode p) 32 16
  let sc := s.scaled p
  let s1 := (List.range 8).foldl (fun (st : State) (c : Nat) =>
    let req := s.cfld (offClass p c) 32 16
    st.setCfld (offClass p c) 16 16 (if sc then req * 9 * d / (10 * sum) else req)) s
  s1.setCfld (offRegMode p) 16 9 (if sc then 256 * 9 * d / (10 * sum) else 0x100)

/-- DELIVERABLE changes: the minimums follow, counted and logged (R344). -/
def State.setDeliverable (s : State) (p d : Nat) : State :=
  if s.cfld (offRegMode p) 32 16 = d then s
  else (((s.setCfld (offRegMode p) 32 16 d).applyMin p).bump 0x31 p 1 1).logEv 344 p

/-- The quarters of its bandwidth at which a stack counts: half at a throttle limit, a quarter at a hard limit (R487). -/
def State.stackQuarters (s : State) (st : Nat) : Nat :=
  let any (f : ThermNode → Bool) : Bool := (List.range 5).any fun i => f (nget {} s.therm.nodes (420 + 5 * st + i))
  if any (·.hard) then 1 else if any (·.throttle) then 2 else 4

/-- DELIVERABLE of a partition: 3,276.8 GB/s for each stack in service, less what is throttled (R343, R487). -/
def State.refreshDeliverable (s : State) (p : Nat) : State :=
  let live := match s.hbmMode p with
    | 0 => [2 * p, 2 * p + 1]
    | 1 => [2 * p]
    | _ => [2 * p + 1]
  s.setDeliverable p ((live.map s.stackQuarters).sum * 8192 / 10)

/-! ### Quotas (R342) -/

/-- Louvres of a partition: two for each core, its near-bank stack, its Seunon ports, and the PCI Express DMA in partition 0
(R25, R338). -/
def State.louvresOf (s : State) (p : Nat) : Nat :=
  2 * 168 * 17 + (if s.nbStack (2 * p) then 1 else 0) + 2 + (if p = 0 then 1 else 0)

/-- Window of 1,024 cycles of a louvre clock domain, in thousandths of the clock's period over 1 GHz (R338): 0 partition,
1 base die and endpoint, 2 Seunon port. -/
def windowMhz (dom : Nat) : Nat := if dom = 0 then 1050 else if dom = 1 then 1000 else 1400

/-- A quota in bytes for GB/s among n louvres (R342). -/
def quotaOf (gbs dom n : Nat) : Nat := gbs * 1024000 / (windowMhz dom * n * 64) * 64

/-- The quotas of a partition (R342); how many louvres issued a class in the last 1 ms is open. -/
def State.setQuotas (s : State) (p : Nat) : State :=
  if s.regMode p = 0 then s
  else
    (List.range 9).foldl (fun (st : State) (c : Nat) =>
      let n := 1 + st.draw % s.louvresOf p
      (List.range 3).foldl (fun (st2 : State) (dom : Nat) =>
        let q := if s.regMode p = 2 then (if c = 8 then s.cfld (offRegMode p) 32 16 * 1024000 / (2 * windowMhz dom * n * 64) * 64 else 0)
                 else if c = 8 then 0 else quotaOf (s.cfld (offClass p c) 16 16) dom n
        { st2 with quotas := nset 0 st2.quotas (p * 64 + dom * 16 + c) q }) st.drew) s

/-- QUOTA_UPDATE (R342). -/
def execQuotaUpdate (p : Nat) (s : State) : Out := onUnit (Unit.part p) (s.setQuotas p)

/-! ### Windows (R339 to R341) -/

/-- The partition of a louvre: numbered as READ_COUNTERS numbers them (R25, R382). -/
def louvrePart (l : Nat) : Nat :=
  if l < 22848 then partOf l else if l < 45696 then partOf (l - 22848) else if l < 45712 then (l - 45696) / 2
  else if l = 45712 then 0 else (l - 45713) / 2

/-- A louvre. -/
def State.louvre (s : State) (l : Nat) : Louvre := nget {} s.louvres l

/-- The level of one class for the next window in LATENCY mode (R341); whether a read completed, and the mean latency, are
open.
[DESIGN CHOICE, log entry 131: safe] -/
def State.nextLevel (s : State) (l p c old : Nat) : Nat × State :=
  let target := s.cfld (offClass p c) 0 16
  if target = 0 then (0, s)
  else
    let x := s.draw
    if x % 2 = 0 then (old, s.drew)
    else
      let lat := x / 2
      (min 7 (8 * lat / target), if target < lat then s.drew.bump 0x20 l (32 + c) 1 else s.drew)

/-- Counts the classes that ran at level 7 in the window that ends (R348): in a window of MINBW mode, which ones did is open.
[DESIGN CHOICE, log entry 131: safe] -/
def State.levelSeven (s : State) (l : Nat) (x : Louvre) : State :=
  (List.range 8).foldl (fun (st : State) (c : Nat) =>
    if (if x.mode = 0 then nget 0 x.level c == 7 else s.draw.testBit c) then st.bump 0x20 l (40 + c) 1 else st)
    (if x.mode = 0 then s else s.drew)

/-- LOUVRE_WINDOW_END (R339, R341, R345, R348): levels and mode change at window boundaries only. -/
def louvreWindowEnd (l : Nat) (s0 : State) : State :=
  let p := louvrePart l
  let x := s0.louvre l
  let s := s0.levelSeven l x
  let r : NMap Nat × State :=
    if x.mode ≠ 0 then (x.level, s)
    else (List.range 8).foldl (fun (acc : NMap Nat × State) (c : Nat) =>
      let y := acc.2.nextLevel l p c (nget 0 x.level c)
      (nset 0 acc.1 c y.1, y.2)) (x.level, s)
  { r.2 with louvres := nset {} r.2.louvres l { mode := r.2.regMode p, level := r.1 } }

/-- LOUVRE_WINDOW_END (R339). -/
def execLouvreWindowEnd (louvre : Nat) (s : State) : Out := onUnit (decide (louvre < 45729)) (louvreWindowEnd louvre s)

/-- The levels of a core's louvres start a launch at 0 (R341). -/
def State.levelsReset (s : State) (c : Nat) : State :=
  let f (st : State) (l : Nat) : State := { st with louvres := nset {} st.louvres l { st.louvre l with level := [] } }
  f (f s c) (22848 + c)

/-! ### Commands -/

/-- The partitions that a mask names. -/
def maskParts (m : Nat) : List Nat := (List.range 8).filter fun p => m.testBit p

/-- The fields of the table of SET_CLASS_TABLE that break R229 and R397. -/
def classTableBad (bs : List Byte) : List Nat :=
  let ways (c : Nat) : Nat := bitsN (leAt bs (8 * c + 4) 2) 0 3
  let upTo (c : Nat) : Nat := ((List.range (c + 1)).map ways).sum
  (List.range 8).flatMap (fun c =>
    flag (bitsN (leAt bs (8 * c + 4) 2) 12 4 != 0 || bitsN (leAt bs (8 * c + 4) 2) 6 3 != 0 ||
          bitsN (leAt bs (8 * c + 4) 2) 3 1 != 0 || decide (4 < ways c) ||
          (decide (4 < upTo c) && decide (upTo c - ways c ≤ 4))) (8 * c + 4) ++
    flag (leAt bs (8 * c + 6) 1 != 0) (8 * c + 6) ++ flag (leAt bs (8 * c + 7) 1 != 0) (8 * c + 7)) ++
  flag (decide (16 < bitsN (leAt bs 0x40 2) 0 5) || bitsN (leAt bs 0x40 2) 5 3 != 0 || bitsN (leAt bs 0x40 2) 10 6 != 0) 0x40 ++
  (List.range 14).flatMap fun i => flag (leAt bs (0x42 + i) 1 != 0) (0x42 + i)

/-- A partition takes a class table (R229, R343, R345). -/
def State.takeTable (s : State) (bs : List Byte) (p : Nat) : State :=
  let s1 := (List.range 8).foldl (fun (st : State) (c : Nat) =>
    ((st.setCfld (offClass p c) 32 16 (leAt bs (8 * c) 2)).setCfld (offClass p c) 0 16 (leAt bs (8 * c + 2) 2)).setCreg
      (offCache p c) (w64 (leAt bs (8 * c + 4) 2))) s
  (s1.setCreg (offRemote p) (w64 (leAt bs 0x40 2))).applyMin p

/-- SET_CLASS_TABLE (R229, R344, R397, R567). -/
def setClassTable (s : State) (c : Cmd) : State :=
  s.checked c (c.unused [(0x10, 1), (0x18, 8)] ++ flag (c.at_ 0x10 1 == 0) 0x10) (
    match s.hostRead (c.at_ 0x18 8) 80 with
    | none => s.hostFails c 0x18
    | some bs =>
      match lowest (classTableBad bs) with
      | some o => s.badData c.id o
      | none =>
        let ps := maskParts (c.at_ 0x10 1)
        let s1 := ps.foldl (fun (st : State) (p : Nat) => st.takeTable bs p) s
        let sc := ps.filter s1.scaled
        s1.complete c.id (if sc.isEmpty then stOk else stScaled) (w64 ((sc.map fun p => 2 ^ p).sum)) [])

/-- SET_CLASS_TABLE (R397). -/
def execSetClassTable (cmd : Nat) (s : State) : Out := onCmd cmd 0x40 s (setClassTable s)

/-- SET_REGULATION_MODE (R398). -/
def execSetRegulationMode (cmd : Nat) (s : State) : Out :=
  onCmd cmd 0x41 s fun c =>
    s.checked c (c.unused [(0x10, 2)] ++ flag (decide (1 < c.at_ 0x11 1)) 0x11) (
      ((maskParts (c.at_ 0x10 1)).foldl (fun (st : State) (p : Nat) => st.setRegMode p (c.at_ 0x11 1)) s).finish c.id stOk)

end Sys2Proof.Machine
end

