-- ==== Sys2Proof/Machine/Control.lean ====
section
/-! DEFINITION. Control flow and DONE (R78 to R80, R171): majors 0x10 to 0x13. -/

namespace Sys2Proof.Machine
open Sys2Proof

/-- The target of BR and CALL (R78): 64-bit, wrapping. -/
def branchTarget (pc : Nat) (imm : BitVec 46) : Nat := (w64 pc + (imm.signExtend 64) * 8).toNat

/-- A core that retires a branch to a target. -/
def Core.jump (k : Core) (target : Nat) : Core := { k.retired with pc := target }

/-- The threads of the lanes listed continue at a target of their own. -/
def threadJump (s : State) (c i : Nat) (f : Thread → Thread) (lanes : List Nat) : Except (Option Nat) State :=
  .ok (s.modGrp c i fun g => g.onLanes lanes fun _ t => f t)

/-- An instruction of both kinds of code that sets the program counter.
[DESIGN CHOICE, log entry 13: unsafe] -/
def issueJump (who : Agent) (legal : Bool) (pred : BitVec 3) (pneg : Bool) (onCore : Core → Core)
    (onThread : Thread → Thread) (s : State) : Out :=
  match who with
  | .core c => onUnit (Unit.core c) (issueCore s c legal pred pneg fun s1 => s1.modCore c onCore)
  | .group c i => onUnit (Unit.core c && Unit.slot i)
      (issueGroup s c i legal pred pneg true [] fun s1 lanes => threadJump s1 c i onThread lanes)

/-- BR (R78): DST is not used. -/
def execBr (who : Agent) (f : FormC) (s : State) : Out :=
  issueJump who (f.dst == 0) f.pred f.pneg
    (fun k => k.jump (branchTarget k.pc f.imm)) (fun t => { t with pc := branchTarget t.pc f.imm }) s

/-- CALL (R78, R171): s31, or t63, takes the return offset. -/
def execCall (who : Agent) (f : FormC) (s : State) : Out :=
  issueJump who (f.dst == 0) f.pred f.pneg
    (fun k => (k.setS 31 (w64 (k.pc + 8))).jump (branchTarget k.pc f.imm))
    (fun t => { t.setReg 63 (BitVec.ofNat 32 (t.pc + 8)) with pc := branchTarget t.pc f.imm }) s

/-- RET (R78, R79): a target that is not a multiple of 8 raises ALIGN. -/
def execRet (who : Agent) (f : FormA) (s : State) : Out :=
  let legal := usesA f false true false false false false false && regOk who f.src1
  match who with
  | .core c => onUnit (Unit.core c) (issueCore s c legal f.pred f.pneg fun s1 =>
      let t := ((s1.core c).sreg f.src1.toNat).toNat
      if t % 8 ≠ 0 then s1.trap c tAlign 0 else s1.modCore c fun k => k.jump t)
  | .group c i => onUnit (Unit.core c && Unit.slot i) (issueGroup s c i legal f.pred f.pneg true [f.src1.toNat] fun s1 lanes =>
      let g := s1.grp c i
      if lanes.any fun l => ((g.th l).reg f.src1.toNat).toNat % 8 != 0 then
        .ok (s1.trapAt c g.lowPc tAlign 0 stAborted)
      else threadJump s1 c i (fun t => { t with pc := (t.reg f.src1.toNat).toNat }) lanes)

/-- Whether any stream slot of a core has a start that has not ended (R242, R245). -/
def Core.streaming (k : Core) : Bool := !k.starts.isEmpty

/-- Whether every unit of a core is idle: queues empty, every block ended, every start ended, every store visible
(R80, R84, R170). -/
def State.unitsIdle (s : State) (c : Nat) : Bool :=
  let k := s.core c
  k.mq.isEmpty && k.tgq.isEmpty && k.sq.isEmpty && k.groups.all (fun g => !g.2.used) && !k.streaming && s.storesDone c

/-- A core leaves its confirmed epoch (R265, R266): SPEC_EPOCH keeps the word of the resolved epoch, and the group
returns to IDLE with its last core. Its writes still on their way are ordinary from then on. -/
def State.leaveEpoch (s : State) (c : Nat) : State :=
  let k := s.core c
  if k.epoch = 0 then s
  else
    let g := keyGroup k.epoch
    (s.modCore c fun x => { x with
      csr := nset 0 x.csr 0x030 (specWord (s.group g) g 3 0), epoch := 0,
      stores := if s.ordinary k.epoch then x.stores.map fun (w : Store) => if w.epoch = k.epoch then { w with epoch := 0 } else w
        else x.stores }).groupSettle g

/-- DONE (R80, R265, R277): waits for every unit and every store; a joined core outside a RUN_SPECULATIVE also waits
for its epoch to be CONFIRMED and leaves it. -/
def execDone (who : Agent) (f : FormA) (s : State) : Out :=
  issueScalar who (usesA f false false false false false false false) f.pred f.pneg (fun c s1 =>
    let k := s1.core c
    let runspec := k.epoch ≠ 0 && (s1.group (keyGroup k.epoch)).run != 0
    if !s1.unitsIdle c then s1.stallAt c 1
    else if k.epoch ≠ 0 && !runspec && decide (s1.epState k.epoch ≠ .confirmed) then s1.stallAt c 2
    else
      let s2 := if runspec then s1 else s1.leaveEpoch c
      (s2.modCore c fun x => { x.retire with running := false, done := true, chPins := [] }).specHeld (k.run - 1)) s

end Sys2Proof.Machine
end

