-- ==== Sys2Proof/Machine/Spec.lean ====
section
/-! DEFINITION. The SPEC family and the resolution of epochs (R262 to R278): majors 0xA0 to 0xA4. -/

namespace Sys2Proof.Machine
open Sys2Proof

/-- Logical partition of a core's virtual core (R37). -/
def Core.lpart (k : Core) : Nat := k.vc / 2560

/-- A core's logical cluster within its partition (R262). -/
def Core.lcluster (k : Core) : Nat := k.vc / 16 % 160

/-- Whether two ranges of logical clusters overlap. -/
def rangesMeet (a m b n : Nat) : Bool := decide (a ≤ b + n) && decide (b ≤ a + m)

/-- Whether a core's run took the thin path, or is a RUN_SPECULATIVE (R264). -/
def State.runIs (s : State) (k : Core) (p : Run → Bool) : Bool :=
  match s.run (k.run - 1) with
  | some r => k.run != 0 && p r
  | none => false

/-- The other groups of a logical partition that overlap a range and satisfy a test (R264). -/
def State.overlapping (s : State) (lp g first countM1 : Nat) (p : EpochState → Bool) : Bool :=
  (List.range 4).any fun i =>
    let x := s.group (4 * lp + i)
    i != g && rangesMeet first countM1 x.first x.countM1 && p x.st

/-- OPEN or HELD. -/
def liveEpoch : EpochState → Bool
  | .open_ => true | .held => true | _ => false

/-- CONFIRMING, ABORTING, or resolved with joined cores remaining (R264). -/
def settling : EpochState → Bool
  | .confirming => true | .aborting => true | .confirmed => true | .aborted => true | _ => false

/-- Why SPEC.OPEN raises the UNIT trap (R264).
[DEDUCED, log entry 14: unsafe] -/
def State.openTraps (s : State) (k : Core) (desc : Nat) : Bool :=
  let first := bitsN desc 0 8
  let cm1 := bitsN desc 8 8
  let g := bitsN desc 16 2
  let lp := k.lpart
  let x := s.group (4 * lp + g)
  desc / 2 ^ 18 != 0 || decide (160 < first + cm1 + 1) ||
  decide (k.lcluster < first) || decide (first + cm1 < k.lcluster) || k.epoch != 0 ||
  (decide (x.st = .open_) && (x.first != first || x.countM1 != cm1)) || decide (x.st = .held) ||
  s.overlapping lp g first cm1 liveEpoch || s.runIs k (·.thin) || s.runIs k (·.spec)

/-- A core joins the current epoch of a group (R264, R266). -/
def State.join (s : State) (c g handler : Nat) : State :=
  let key := epKey g (s.group g).epoch.toNat
  s.retireWith c fun k => { k with epoch := key, handler := handler, joining := false }

/-- SPEC.OPEN (R263, R264). -/
def execSpecOpen (who : Agent) (f : FormA) (s : State) : Out :=
  let legal := usesA f false true true false false false false && regOk who f.src1 && regOk who f.src2
  issueScalar who legal f.pred f.pneg (fun c s1 =>
    let k := s1.core c
    let desc := (k.sreg f.src1.toNat).toNat
    let handler := (k.sreg f.src2.toNat).toNat
    let first := bitsN desc 0 8
    let cm1 := bitsN desc 8 8
    let g := 4 * k.lpart + bitsN desc 16 2
    if s1.openTraps k desc then s1.trap c tUnit 0
    else if handler % 8 ≠ 0 then s1.trap c tAlign 0
    else if k.progLen ≤ handler then s1.trap c tPcRange 0
    else if s1.overlapping k.lpart (bitsN desc 16 2) first cm1 settling || settling (s1.group g).st then
      (s1.modCore c fun x => { x with joining := true }).stallAt c 15
    else
      match (s1.group g).st with
      | .open_ => s1.join c g handler
      | _ =>
        let x := s1.group g
        let new : SpecGroup := { st := .open_, epoch := x.epoch + 1, first := first, countM1 := cm1 }
        ((s1.setGroup g new).spec k.lpart spOpened 1).join c g handler) s

/-- SPEC.CLOSE (R263, R265): it leaves the epoch once that is CONFIRMED and the core's writes under it have landed. -/
def execSpecClose (who : Agent) (f : FormA) (s : State) : Out :=
  issueScalar who (usesA f false false false false false false false) f.pred f.pneg (fun c s1 =>
    let k := s1.core c
    if k.epoch = 0 then s1.modCore c Core.retire
    else if decide (s1.epState k.epoch ≠ .confirmed) || k.stores.any (fun w => w.epoch == k.epoch) then s1.stallAt c 14
    else (s1.leaveEpoch c).modCore c Core.retire) s

/-- A resolution word (R263, R264): UNIT inside a RUN_SPECULATIVE and for a reserved bit; no effect but a count unless it
names the current epoch of its group and that is OPEN. -/
def resolve (who : Agent) (f : FormA) (act : State → Nat → State) (s : State) : Out :=
  issueScalar who (usesA f false true false false false false false && regOk who f.src1) f.pred f.pneg (fun c s1 =>
    let k := s1.core c
    let w := (k.sreg f.src1.toNat).toNat
    let g := 4 * k.lpart + bitsN w 16 2
    let x := s1.group g
    if s1.runIs k (·.spec) || w / 2 ^ 18 != 0 then s1.trap c tUnit 0
    else
      let s2 := if x.epoch.toNat = w % 65536 ∧ x.st = .open_ then act s1 g else s1.spec k.lpart spLate 1
      s2.modCore c Core.retire) s

/-- SPEC.CONFIRM (R264, R267). -/
def execSpecConfirm (who : Agent) (f : FormA) (s : State) : Out :=
  resolve who f (fun st g => st.setGroup g { st.group g with st := .confirming }) s

/-- SPEC.ABORT (R264, R276). -/
def execSpecAbort (who : Agent) (f : FormA) (s : State) : Out := resolve who f (fun st g => st.abortGroup g 1) s

/-- SPEC.POLL (R263); a core that is not joined has no epoch.
[DEDUCED, log entry 15: unsafe] -/
def execSpecPoll (who : Agent) (f : FormA) (s : State) : Out :=
  issueScalar who (usesA f true false false false false false false && predOk f.dst) f.pred f.pneg (fun c s0 => s0.whenFree c [f.dst.toNat] [] fun s1 =>
    let st := s1.epState (s1.core c).epoch
    s1.retireWith c fun k => k.setP f.dst.toNat (decide (st = .confirming) || decide (st = .confirmed))) s

/-- Whether a function may write a line: a region of its own, or a WORKING tensor (R61). -/
def State.fnMayWrite (s : State) (fn ln : Nat) : Bool :=
  s.fence fn 0 ln 128 true || (match s.tensorAt ln 128 with
    | some t => t.kind != 0 && nget 0 s.img.workFn t.id == fn + 1
    | none => false)

/-- SPEC_ABORTED (R275): every step of the abort is acknowledged. -/
def execSpecAborted (lpart group : Nat) (s : State) : Out :=
  onUnit (Unit.part lpart && Unit.specGroup group) (s.abortDone (4 * lpart + group))

end Sys2Proof.Machine
end

