-- ==== Sys2Proof/Machine/Runs.lean ====
section
/-! DEFINITION. Runs: RUN and RUN_SPECULATIVE, their launch with the staged opening of shutters, their completion, the limits
of time, and CONFIRM, ABORT_SPEC and CANCEL (R57 to R60, R82 to R86, R92, R117, R266, R277 to R279, R315, R363, R388 to R391,
R466, R467). -/

namespace Sys2Proof.Machine
open Sys2Proof

/-! ### RUN and RUN_SPECULATIVE (R388) -/

/-- The fields of the submission entry that fail a structural check (R373, R388). -/
def State.runBad (s : State) (c : Cmd) (spec : Bool) : List Nat :=
  let n := c.at_ 0x14 2
  let hold := c.at_ 0x16 2
  let a := c.at_ 0x20 8
  c.unused [(0x10, 1), (0x12, 26)] ++
  flag (s.img.image.isSome && (s.phase (c.at_ 0x10 1)).isNone) 0x10 ++ flag (c.at_ 0x12 2 == 0) 0x12 ++
  flag (decide (256 < n)) 0x14 ++ flag (if spec then hold == 0 || decide (1000 < hold) else hold != 0) 0x16 ++
  flag (a % 16 != 0 || (n == 0 && a != 0)) 0x20

/-- Entry i of a binding list. -/
def bindingAt (bs : List Byte) (i : Nat) : Binding :=
  { tensor := leAt bs (16 * i) 4, region := leAt bs (16 * i + 4) 1, result := bitsN (leAt bs (16 * i + 5) 1) 0 1 == 1,
    offset := leAt bs (16 * i + 8) 8 }

/-- The fields of a binding list that fail a check (R388). -/
def bindingsBad (bs : List Byte) (n : Nat) (bound : List Nat) : List Nat :=
  (List.range n).flatMap fun i =>
    let x := bindingAt bs i
    let before := (List.range i).map (bindingAt bs)
    flag (!bound.contains x.tensor || before.any fun y => y.tensor == x.tensor) (16 * i) ++ flag (decide (63 < x.region)) (16 * i + 4) ++
    flag (leAt bs (16 * i + 5) 1 / 2 != 0 || (x.result && before.any (·.result))) (16 * i + 5) ++
    flag (leAt bs (16 * i + 6) 1 != 0) (16 * i + 6) ++ flag (leAt bs (16 * i + 7) 1 != 0) (16 * i + 7)

/-- The physical partitions that carry logical ones of a mask. -/
def State.pparts (s : State) (mask : BitVec 8) : List Nat :=
  (List.range 8).filterMap fun j => if mask.getLsbD j then (match nget 0 s.img.lpart j with
    | 0 => none
    | p + 1 => some p) else none

/-- Whether a partition of a list has its doors closed. -/
def State.shutAmong (s : State) (ps : List Nat) : Bool := ps.any fun p => s.doorShut p

/-- A run enters the order of starts (R60). -/
def State.takeRun (s : State) (c : Cmd) (ph : Phase) (bs : List Binding) (spec : Bool) : State :=
  let r : Run := { id := s.mc.nextRun, cmd := c.id, fn := c.fn, tag := c.tag, phase := ph.id, batch := c.at_ 0x12 2,
                   seed := w64 (c.at_ 0x18 8), bindings := bs, timeoutMs := c.at_ 0x28 4, holdLimit := c.at_ 0x16 2,
                   spec := spec, mask := ph.partMask }
  { s with runs := s.runs ++ [r], mc := { s.mc with nextRun := s.mc.nextRun + 1 }
           cmds := updFirst (·.id == c.id) (fun x => { x with started := true }) s.cmds }

/-- RUN and RUN_SPECULATIVE (R388, R389, R567).
[DEDUCED, log entry 68: unsafe] -/
def runCmd (spec : Bool) (s : State) (c : Cmd) : State :=
  if c.started then s
  else
    s.checked c (s.runBad c spec) (
      match s.phase (c.at_ 0x10 1) with
      | none => s.badState c.id
      | some ph =>
        let n := c.at_ 0x14 2
        match (if n = 0 then some [] else s.hostRead (c.at_ 0x20 8) (16 * n)) with
        | none => s.hostFails c 0x20
        | some bs =>
          match lowest (bindingsBad bs n ph.bound) with
          | some o => s.badData c.id o
          | none =>
            let l := (List.range n).map (bindingAt bs)
            if n ≠ ph.bound.length then s.badField c.id 0x14
            else if c.resultLen ≠ 0 ∧ !l.any (·.result) then s.badField c.id 0x04
            else if s.shutAmong (s.pparts ph.partMask) then s.finish c.id stDoorClosed
            else s.takeRun c ph l spec)

/-- RUN (R388). -/
def execRun (cmd : Nat) (s : State) : Out := onCmd cmd 0x20 s (runCmd false s)

/-- RUN_SPECULATIVE (R277, R388). -/
def execRunSpeculative (cmd : Nat) (s : State) : Out := onCmd cmd 0x21 s (runCmd true s)

/-! ### Ends of runs -/

/-- A run's cores leave it: their confirmed epochs, CH.PIN pins and launch end (R231, R265). -/
def State.freeCores (s : State) (run : Nat) : State :=
  (s.coresOf run).foldl (fun (st : State) (c : Nat) =>
    (st.leaveEpoch c).modCore c fun k => { k with run := 0, running := false, chPins := [] }) s

/-- Ended runs are forgotten unless a command still waits to see their end. -/
def State.purge (s : State) : State :=
  { s with runs := s.runs.filter fun r => decide (r.st ≠ .ended) ||
      s.cmds.any fun c => c.started && (c.opcode == 0x22 || c.opcode == 0x23 || c.opcode == 0x24) && c.amount == r.id + 1 }

/-- DETAIL of a run's completion (R389). -/
def Run.detail (r : Run) : W64 := w64 (r.trap * 2 ^ 56 + (if r.thin then 2 ^ 48 else 0) + r.trapVcore)

/-- A run ends with a final completion (R389, R530). -/
def State.endRun (s : State) (r : Run) (status : Nat) (result : List Byte) : State :=
  let s1 := ((s.freeCores r.id).modRun r.id fun y => { y with st := .ended }).mirrorEnd (ownerRun r.id) r.fn r.tag
  (s1.complete r.cmd status r.detail result).purge

/-- The bound range of a run's result, byte by byte as the fence lets it be read (R61, R388). -/
def State.resultAddr (s : State) (r : Run) (b : Binding) (i : Nat) : Option Nat :=
  let x := s.region r.fn b.region
  if x.ready r.cmd && fld x.attr 61 1 == 1 && decide (b.offset + i < x.size) then some (x.base + b.offset + i) else none

/-- The result of a run, or the status that says why it cannot be read (R389, R499). -/
def State.runResult (s : State) (r : Run) : Except Nat (List Byte) :=
  match r.resultBinding with
  | none => .ok []
  | some b =>
    let at_ := (List.range (s.resultLen r)).map (s.resultAddr r b)
    if at_.any fun o => o.any s.doorAt then .error stDoorClosed
    else if at_.any fun o => o.any s.wordPoison then .error stEcc
    else .ok (at_.map fun o => match o with
      | some a => nget 0 s.mem a
      | none => 0)

/-- The partitions that a run's result lies in. -/
def State.resultParts (s : State) (r : Run) : List Nat :=
  match r.resultBinding with
  | none => []
  | some b => (((List.range (s.resultLen r)).filterMap (s.resultAddr r b)).map partOfOff).eraseDups

/-- A run's result is read at the home bays of its lines, in class 7 (R222, R418). -/
def State.resultTouch (s : State) (r : Run) : State :=
  match r.resultBinding with
  | none => s
  | some b => (((List.range (s.resultLen r)).filterMap (s.resultAddr r b)).map lineOf).eraseDups.foldl (fun st ln => st.touchHome ln 7) s

/-- Whether an epoch that a run's cores are joined to, or a group of the run, is not yet resolved. -/
def State.unresolved (s : State) (run : Nat) : Bool :=
  let live (st : EpochState) : Bool := decide (st = .open_) || decide (st = .held) || decide (st = .confirming) || decide (st = .aborting)
  (s.coresOf run).any (fun c => live (s.epState (s.core c).epoch)) || (s.groupsOf run).any fun g => live (s.group g).st

/-- Whether the deferred part of a HELD run may be delivered: its epochs are confirmed (R274, R277). -/
def State.confirmedAll (s : State) (run : Nat) : Bool := (s.groupsOf run).isEmpty

/-- Whether the completion of a run that a partition reset cancelled still waits for that reset's write-back (R506). -/
def State.resetHolds (s : State) (r : Run) : Bool :=
  r.status == some stReset && (s.pparts r.mask).any fun p => (s.part p).resetting

/-- RUN_COMPLETION (R80, R94, R277, R358, R389, R390, R476): every core of a run has executed DONE, the run was stopped and its
epochs are resolved, or a HELD run's confirmation is complete. A run with a trap is stopped here at the latest (log entry 154). -/
def runCompletion (id : Nat) (s : State) : State :=
  match s.run id with
  | none => s
  | some r =>
    match r.st with
    | .running =>
      match r.status with
      | some status =>
        let s1 := s.stopRun id status
        if s1.unresolved id || s1.resetHolds r then s1 else s1.endRun r status []
      | none =>
      if !s.allDone id || s.unresolved id || !(s.coresOf id).all s.storesDone then s
      else s.awakeFor (s.resultParts r) (
        let s1 := (List.range 16).foldl (fun (st : State) (i : Nat) => st.nbIdle i) (s.stopNb id)
        match s1.runResult r with
        | .ok bs => (s1.resultTouch r).endRun r stOk bs
        | .error st => s1.endRun r st [])
    | .stopped => if s.unresolved id || s.resetHolds r then s else s.endRun r (r.status.getD stAborted) []
    | .held =>
      if !s.confirmedAll id then s
      else s.awakeFor (s.resultParts r) (
        let s1 := ((s.freeCores id).modRun id fun y => { y with st := .ended }).mirrorEnd (ownerRun id) r.fn r.tag
        match s1.cmd r.cmd with
        | none => s1.purge
        | some c =>
          let s2 := match s.runResult r with
            | .ok bs => (s1.resultTouch r).deliver c stOk bs
            | .error st => s1.deliver c st []
          (s2.dropCmd c.id).purge)
    | _ => s

/-- RUN_COMPLETION (R389). -/
def execRunCompletion (run : Nat) (s : State) : Out := .next (runCompletion run s)

/-! ### Shutters (R466, R467) -/

/-- Counter of a power region: 1 THROTTLE_CYCLES, 2 STAGINGS, 3 SLOW, 4 CELL_FAULTS (R468). -/
def State.pwrRegCount (s : State) (g k n : Nat) : State :=
  s.setCreg (offRegionPwr g + 8 * k) (sat64 ((s.creg (offRegionPwr g + 8 * k)).toNat + n))

/-- A power region and those that share an edge with it in its tower (R24, R467). -/
def regionEdges (g : Nat) : List Nat :=
  let t := g / 168
  let r := g % 168 / 12
  let c := g % 12
  [g] ++ (if 0 < r then [g - 12] else []) ++ (if r < 13 then [g + 12] else []) ++ (if 0 < c then [g - 1] else []) ++
  (if c < 11 then [g + 1] else []) |>.filter fun x => x / 168 == t

/-- Whether the next stage of a region's staging is slow (R461, R467).
[DEDUCED, log entry 116: unsafe] -/
def State.stageSlow (s : State) (g : Nat) : Bool :=
  nget false s.power.slowRest g ||
  (regionEdges g).any fun x => decide (s.cfld (offRegionPwr x) 24 8 * 8 < s.cfld (offRegionPwr x) 32 8 * 10)

/-- A stage of a region's staging begins. -/
def State.beginStage (s : State) (g n : Nat) : State :=
  let slow := s.stageSlow g
  let s1 := (s.setCfld (offRegionPwr g) 0 4 n).setCfld (offRegionPwr g) 4 1 (if slow then 1 else 0)
  if slow ∧ !nget false s.power.slowSeen g then
    ({ s1 with power := { s1.power with slowSeen := nset false s1.power.slowSeen g true } }).pwrRegCount g 3 1
  else s1

/-- Starts the staging of a region for cores whose shutters are closed, unless one runs there (R466). -/
def State.startStaging (s : State) (g : Nat) (cs : List Nat) : State :=
  if s.cfld (offRegionPwr g) 0 4 ≠ 0 ∨ s.cfld (offRegionPwr g) 8 2 = 3 ∨ cs.isEmpty then s
  else
    let s1 := cs.foldl (fun (st : State) (c : Nat) => st.modCore c fun k => { k with staging := true }) s
    ({ s1 with power := { s1.power with slowSeen := ndel g s1.power.slowSeen, slowRest := ndel g s1.power.slowRest } }).pwrRegCount g 2 1 |>.beginStage g 1

/-- Opens the shutters of cores that need it (R466). -/
def State.openShutters (s : State) (cs : List Nat) : State :=
  let need := cs.filter fun c => !(s.core c).shutterOpen && !(s.core c).staging
  ((need.map fun c => powerRegionOf (clusterOf c)).eraseDups).foldl (fun (st : State) (g : Nat) =>
    st.startStaging g (need.filter fun c => powerRegionOf (clusterOf c) == g)) s

/-- Closes a core's shutter (R466). -/
def State.closeShutter (s : State) (c : Nat) : State := s.modCore c fun k => { k with shutterOpen := false, staging := false }

/-- Whether the shutter of a cluster's fabric and pane router is open (R466): while one of its cores' is.
[DEDUCED, log entry 175: unsafe] -/
def State.fabricOpen (s : State) (n : Nat) : Bool := (List.range 17).any fun i => (s.core (17 * n + i)).shutterOpen

/-- SHUTTER_STAGE_END (R466, R467): the next stage, or the shutters of the staging are open and those that waited begin. -/
def shutterStageEnd (g : Nat) (s : State) : State :=
  let n := s.cfld (offRegionPwr g) 0 4
  if n = 0 then s
  else if n < 8 then s.beginStage g (n + 1)
  else
    let mine (c : Nat) : Bool := powerRegionOf (clusterOf c) == g
    let s1 : State := { s with
      cores := s.cores.map fun (e : Nat × Core) =>
        if mine e.1 && e.2.staging then (e.1, { e.2 with staging := false, shutterOpen := true }) else e
      power := { s.power with slowSeen := ndel g s.power.slowSeen, slowRest := ndel g s.power.slowRest } }
    let s2 := (s1.setCfld (offRegionPwr g) 0 4 0).setCfld (offRegionPwr g) 4 1 0
    s2.startStaging g ((s2.cores.filter fun (e : Nat × Core) => mine e.1 && e.2.running && !e.2.shutterOpen).map (·.1))

/-- SHUTTER_STAGE_END (R466). -/
def execShutterStageEnd (region : Nat) (s : State) : Out := onUnit (Unit.powerRegion region) (shutterStageEnd region s)

/-! ### Launch -/

/-- A run's logical partitions. -/
def Run.lparts (r : Run) : List Nat := (List.range 8).filter fun j => r.mask.getLsbD j

/-- Whether work waits for a drain point of a logical partition: runs that would start there are held (R517). -/
def State.drainHolds (s : State) (j : Nat) : Bool :=
  s.mc.jobs.any fun (x : Job) => nget 0 s.img.lpart j == unitPart x.kind x.number + 1

/-- Whether a run may start (R60, R277, R517): none taken before it that shares a logical partition is running or waiting, no
drain point is due there, and a speculative run finds every group idle.
[DEDUCED, log entry 49: unsafe] -/
def State.mayStart (s : State) (r : Run) : Bool :=
  let meets (m : BitVec 8) : Bool := m &&& r.mask != 0
  !s.runs.any (fun x => x.id != r.id && meets x.mask && decide (x.st ≠ .ended) && (decide (x.st ≠ .waiting) || decide (x.cmd < r.cmd))) &&
  !s.cmds.any (fun c => (c.opcode == 0x20 || c.opcode == 0x21) && !c.started && decide (c.id < r.cmd) &&
    (match s.phase (c.at_ 0x10 1) with
     | some ph => meets ph.partMask
     | none => false)) &&
  !r.lparts.any s.drainHolds && (!r.spec || r.lparts.all fun j => (List.range 4).all fun g => decide ((s.group (4 * j + g)).st = .idle))

/-- The entries of a phase that a run starts: virtual core and entry offset (R51, R52, R59, R308). On the thin path a proxy
starts no program. -/
def Phase.starts (ph : Phase) (thinEntries onNb : Bool) : List (VcEntry × Nat) :=
  ph.vcs.filterMap fun e =>
    if onNb && ph.proxies.contains (some e.vcore) then none
    else (if thinEntries then e.thinEntry else e.entry).map fun o => (e, o)

/-- The base address of a binding (R82): open where its region is not READY or the address leaves the module.
[DESIGN CHOICE, log entry 50: safe] -/
def State.bindBase (s : State) (r : Run) (b : Binding) : Nat :=
  let x := s.region r.fn b.region
  s.moduleId * 2 ^ 44 + (if x.ready r.cmd && decide (x.base + b.offset < 2 ^ 44) then x.base + b.offset else s.draw % 2 ^ 44)

/-- The descriptor of a tensor for a run (R82).
[DEDUCED, log entry 66: unsafe] -/
def State.descOf (s : State) (r : Run) (im : Image) (id : Nat) : Desc :=
  match im.tensors.find? (·.id == id) with
  | none => { base := 0, bytes := 0, tensor := id, format := 0, kind := 0, location := 0, flags := 0, tableSet := 0xFFFF }
  | some t =>
    { base := if t.kind = 1 then (match r.bindings.find? (·.tensor == id) with
                | some b => s.bindBase r b
                | none => 0) else s.moduleId * 2 ^ 44 + t.base
      bytes := t.bytes, tensor := id, format := t.fmt, kind := t.kind
      location := if t.kind = 1 then 0 else t.location
      flags := if t.kind = 0 then 2 else 1, tableSet := t.tableSet }

/-- The state of a core's generator at launch (R117). -/
def launchSeed (seed : W64) (v : Nat) : W64 := seed ^^^ (w64 (v + 1) * 0x9E3779B97F4A7C15)

/-- RUN_INFO (R95). -/
def Run.info (r : Run) : W64 :=
  w64 (r.batch * 2 ^ 32 + r.phase * 2 ^ 24 + r.fn * 2 ^ 20 + (if r.thin then 2 ^ 19 else 0) + r.tag.toNat)

/-- Scratchpad bytes of a split (R83). -/
def splitBytes (split : Nat) : Nat := 98304 - 16384 * split

/-- The module clears what an earlier launch left that this one may not see: the scratchpad (R85, R503), the private region and
the cache (R57, R199), and held messages of another function (R92). The manual does not say what becomes of messages held before a
virtual core's first launch, which no function precedes; the model discards and counts them.
[DESIGN CHOICE, log entry 159: unsafe] -/
def State.clearFor (s : State) (r : Run) (c split : Nat) : State :=
  let k := s.core c
  let sameFn := k.launched && k.lastFn == r.fn
  let keep := sameFn && k.lastCommit == s.img.commits && k.lastSplit == split && !k.wipe
  let b := s.bay (clusterOf c)
  let a := s.member c * 0x60000
  let n := k.rxq.length + k.overflow.length + k.spill.length
  let s1 := if keep then s else s.modCore c fun x => { x with spad := [], spadBad := [] }
  let s2 := if sameFn then s1 else s1.setBay (clusterOf c) { b with
    own := clrBytes b.own a 0x60000
    ownBad := b.ownBad.filter fun w => decide (8 * w < a) || decide (a + 0x60000 ≤ 8 * w) }
  if sameFn then s2
  else (s2.modCore c fun x => ({ x with rxq := [], overflow := [], spill := [], ringHead := 0, lost := false }).bumpCsr 0x03B n).syncRing c

/-- The registers and units of a core at the start of a launch (R85, R86, R95). -/
def Core.begin (k : Core) (r : Run) (module v entry len code split cls steps : Nat) (td : List Desc) (commits : Nat) : Core :=
  let csr := [(0x001, w64 (module * 2 ^ 16 + v)), (0x002, r.info), (0x010, w64 split), (0x011, w64 (splitBytes split)),
              (0x012, w64 (steps * 0x8000)), (0x018, w64 cls), (0x019, launchSeed r.seed v), (0x030, (0 : W64))]
  csr.foldl (fun (x : Core) (e : Nat × W64) => x.setCsr e.1 e.2) { k with
    running := true, done := false, run := r.id + 1, pc := entry, progLen := len, codeBase := code, s := [], p := [], v := [],
    acc := [], td := td, l1 := [], icache := [], tsets := [], mq := [], tgq := [], groups := [], exited := [], sq := [],
    slots := k.slots.map (fun (e : Nat × Slot) => (e.1, { gen := e.2.gen : Slot })), handler := 0, joining := false, stall := 0,
    lastFn := r.fn, lastCommit := commits, lastSplit := split, launched := true, wipe := false }

/-- A virtual core begins a launch (R57, R82, R85, R86, R95, R341). -/
def State.launchCore (s : State) (r : Run) (im : Image) (e : VcEntry) (entry : Nat) : State :=
  match s.placed e.vcore with
  | none => s
  | some c =>
    let prog := (im.programs.find? (·.1 == e.vcore)).getD (0, 0, 0)
    let td := e.descs.map (s.descOf r im)
    let s1 := (s.drew.clearFor r c e.split).modCore c fun k =>
      k.begin r s.moduleId e.vcore entry prog.2.2 (im.codeBase + prog.2.1) e.split e.cls im.steps td s.img.commits
    (s1.levelsReset c).ungate c

/-- A proxy of a thin-path run: messages to its core are taken by the sequencer (R308).
[DEDUCED, log entry 72: unsafe] -/
def State.launchProxy (s : State) (r : Run) (v : Nat) : State :=
  match s.placed v with
  | none => s
  | some c => (s.clearFor r c (s.core c).lastSplit).modCore c fun k => { k with
      run := r.id + 1, running := false, done := true, lastFn := r.fn, launched := true, stall := 0 }

/-- A WORKING tensor passes to a function: zeros if another one's run used it last (R57). -/
def State.workingTo (s : State) (fn : Nat) (t : Tensor) : State :=
  let s1 := if nget 0 s.img.workFn t.id = fn + 1 ∨ nget 0 s.img.workFn t.id = 0 then s
    else (s.invalRange t.base t.bytes true).zeroRange t.base t.bytes
  { s1 with img := { s1.img with workFn := nset 0 s1.img.workFn t.id (fn + 1) } }

/-- The WORKING tensors that sequences name in zone N of a physical partition (R315). -/
def State.thinWorking (s : State) (im : Image) (p : Nat) : List Tensor :=
  let names := (im.phases.flatMap (·.seqs)).flatMap NbSeq.names
  im.tensors.filter fun t => t.kind == 2 && t.location == 2 && partOfOff t.base == p && names.contains t.id

/-- A near-bank stack passes to a function (R315). -/
def State.stackTo (s : State) (im : Image) (fn p : Nat) : State :=
  let st := 2 * p
  let x := s.nb st
  let s1 := if x.owner = 0 ∨ x.owner = fn + 1 then s
    else (s.thinWorking im p).foldl (fun (a : State) (t : Tensor) => (a.invalRange t.base t.bytes true).zeroRange t.base t.bytes) s
  let s2 := s1.setNb st { s1.nb st with owner := fn + 1 }
  (s2.thinWorking im p).foldl (fun (a : State) (t : Tensor) =>
    { a with img := { a.img with workFn := nset 0 a.img.workFn t.id (fn + 1) } }) s2

/-- The epochs of a speculative run open at launch, one group 0 for each logical partition, and its cores join (R266, R277,
R278). -/
def State.openRunEpochs (s : State) (r : Run) : State :=
  r.lparts.foldl (fun (st : State) (j : Nat) =>
    let x := st.group (4 * j)
    let new : SpecGroup := { st := if r.confirmHeld then .confirming else .open_, epoch := x.epoch + 1, first := 0, countM1 := 159,
                             run := r.id + 1 }
    let s1 := (st.setGroup (4 * j) new).spec j spOpened 1
    let key := epKey (4 * j) new.epoch.toNat
    ((s1.coresOf r.id).filter fun c => (s1.core c).vc / 2560 == j).foldl (fun (a : State) (c : Nat) =>
      a.modCore c fun k => { k with epoch := key }) s1) s

/-- The transom mode of each logical cluster of a run's phase, set at launch (R58, R202, R216). -/
def State.setRowModes (s : State) (r : Run) (im : Image) (ph : Phase) : State :=
  (r.lparts.flatMap fun j => im.clusters j).foldl (fun (st : State) (x : Nat × List Nat) =>
    match st.placed (16 * x.1 + x.2.headD 0) with
    | some c => st.setCfld (offBayCfg (clusterOf c)) 16 1 (if ph.rowMode.contains x.1 then 1 else 0)
    | none => st) s

/-- The start of a run on the path chosen (R59, R60, R277). -/
def State.startRun (s : State) (r0 : Run) (im : Image) (ph : Phase) : State :=
  let thinEntries := ph.hasThin && decide (r0.batch ≤ ph.thinMax)
  let onNb := thinEntries && !r0.spec && s.thinOnNb im ph
  let r := { r0 with thin := onNb, st := .running, confirmHeld := false }
  let starts := ph.starts thinEntries onNb
  let s1 := s.modRun r.id fun _ => r
  let named := (starts.flatMap fun (x : VcEntry × Nat) => x.1.descs).eraseDups
  let s2 := (im.tensors.filter fun t => t.kind == 2 && named.contains t.id).foldl (fun (st : State) (t : Tensor) => st.workingTo r.fn t) s1
  let s3 := if onNb then (ph.seqs.filterMap fun q => match nget 0 s.img.lpart q.lpart with
      | 0 => none
      | p + 1 => some p).eraseDups.foldl (fun (st : State) (p : Nat) => st.stackTo im r.fn p) s2 else s2
  let s4 := starts.foldl (fun (st : State) (x : VcEntry × Nat) => st.launchCore r im x.1 x.2) (s3.setRowModes r im ph)
  let s5 := if onNb then (ph.proxies.filterMap id).foldl (fun (st : State) (v : Nat) => st.launchProxy r v) s4 else s4
  let s6 := (s.pparts r.mask).foldl (fun (st : State) (p : Nat) => st.setQuotas p) s5
  let s7 := if r.spec then s6.openRunEpochs { r with confirmHeld := r0.confirmHeld } else s6
  s7.openShutters (starts.filterMap fun (x : VcEntry × Nat) => s.placed x.1.vcore)

/-- RUN_LAUNCH (R59, R60, R277, R389, R405, R476). -/
def runLaunch (id : Nat) (s : State) : State :=
  match s.run id, s.img.image with
  | some r, some im =>
    if r.st ≠ .waiting ∨ !s.mayStart r then s
    else
      match s.phase r.phase with
      | none => s
      | some ph =>
        let ps := s.pparts r.mask
        if s.shutAmong ps then s.endRun r stDoorClosed []
        else if (ph.starts (ph.hasThin && decide (r.batch ≤ ph.thinMax)) false).any fun (x : VcEntry × Nat) => (s.placed x.1.vcore).isNone then
          s.endRun r stNoResource []
        else s.awakeFor ps (s.startRun r im ph)
  | _, _ => s

/-- RUN_LAUNCH (R60). -/
def execRunLaunch (run : Nat) (s : State) : Out := .next (runLaunch run s)

/-! ### Limits (R277, R389) -/

/-- RUN_TIME_LIMIT (R279, R389). -/
def runTimeLimit (id : Nat) (s : State) : State :=
  match s.run id with
  | some r =>
    if r.st ≠ .running then s
    else if s.confirmingOf id then s.modRun id fun y => { y with due := if y.due = 0 then 0x0B else y.due }
    else (s.abortRun id 0x0B).stopRun id stTimeout
  | none => s

/-- RUN_TIME_LIMIT (R389). -/
def execRunTimeLimit (run : Nat) (s : State) : Out := .next (runTimeLimit run s)

/-- HOLD_LIMIT_EXPIRY (R277). -/
def holdLimitExpiry (id : Nat) (s : State) : State :=
  match s.run id with
  | some r => if r.st = .held ∧ (s.groupsOf id).any (fun g => decide ((s.group g).st = .held)) then s.abortRun id 0x0A else s
  | none => s

/-- HOLD_LIMIT_EXPIRY (R277). -/
def execHoldLimitExpiry (run : Nat) (s : State) : Out := .next (holdLimitExpiry run s)

/-! ### Stopping commands and runs (R279, R363, R370, R371, R391) -/

/-- Marks the inactive slot of a firmware component empty (R408); slot s of component n is number 2n + s. -/
def State.emptyStaged (s : State) (comp : Nat) : State :=
  let i := 2 * comp + (1 - nget 0 s.sec.active comp)
  { s with sec := { s.sec with fw := nset {} s.sec.fw i { full := false } } }

/-- What a command that is stopped leaves behind (R384, R394, R408, R406). -/
def State.partialEffect (s : State) (c : Cmd) : State :=
  let s1 := match c.opcode with
    | 0x11 => if c.started then s.chunkOpen c else s
    | 0x30 => if c.started then (s.moveOpen c).mirrorEnd (ownerCmd c.id) c.fn c.tag else s
    | 0x31 => if c.started then (s.moveOpen c).mirrorEnd (ownerCmd c.id) c.fn c.tag else s
    | 0x52 => { s with parts := s.parts.map fun (e : Nat × Part) =>
        (e.1, if e.2.resetCmd = c.id + 1 then { e.2 with resetCmd := 0 } else e.2) }
    | 0x63 => s.emptyStaged (c.at_ 0x10 1)
    | 0x70 => State.keyhole { s with sec := { s.sec with
        attq := s.sec.attq.filter fun (a : AttReq) => a.cmd != c.id + 1
        signing := s.sec.signing.filter fun (a : AttReq) => a.cmd != c.id + 1 } }
    | 0x65 => { s with mc := { s.mc with mig := if s.mc.mig.any (fun (m : Mig) => m.cmd == c.id + 1) then none else s.mc.mig } }
    | _ => s
  { s1 with mc := { s1.mc with jobs := s1.mc.jobs.filter fun j => j.cmd != c.id + 1 } }

/-- A command stops with a status (R371, R391). -/
def State.stopCmd (s : State) (c : Cmd) (status : Nat) : State := (s.partialEffect c).finish c.id status

/-- A run stops: not yet launched it ends at once, else its epochs abort, its cores and near-bank work stop, and its completion
follows (R277, R279, R324). -/
def State.stopRunAs (s : State) (r : Run) (cause status : Nat) : State :=
  match r.st with
  | .waiting => (s.modRun r.id fun y => { y with abortCause := cause }).endRun { r with abortCause := cause } status []
  | .running => ((s.abortRun r.id cause).stopRun r.id status)
  | .held => s.abortRun r.id cause
  | _ => s

/-- The command that a tag names: the oldest in flight of the same letterbox (R363). -/
def State.target (s : State) (c : Cmd) : Option Cmd :=
  let tag := BitVec.ofNat 16 (c.at_ 0x10 2)
  s.cmds.find? fun x => x.fn == c.fn && x.tag == tag && x.id != c.id &&
    (!x.mute || s.runs.any fun r => r.cmd == x.id && decide (r.st = .held))

/-- The run of a command. -/
def State.runOf (s : State) (c : Cmd) : Option Run := s.runs.find? fun r => r.cmd == c.id && decide (r.st ≠ .ended)

/-- A command waits for the end of a run; `did` says that it has stopped it. -/
def State.awaitRun (s : State) (c : Cmd) (run : Nat) (did : Bool) : State :=
  s.modCmd c.id fun x => { x with started := true, amount := run + 1, steps := if did then 1 else 0 }

/-- Whether groups of a run can still be confirmed or aborted. -/
def State.liveGroups (s : State) (run : Nat) : List Nat := (s.groupsOf run).filter fun g => liveEpoch (s.group g).st

/-- The end of a CONFIRM (R278): OK once the run has ended and its epochs were confirmed.
[DEDUCED, log entry 48: unsafe] -/
def State.confirmEnd (s : State) (c : Cmd) : State :=
  match s.run (c.amount - 1) with
  | none => s.finish c.id stOk
  | some r =>
    if r.st ≠ .ended then s
    else (if r.abortCause ≠ 0 ∨ r.confirmHeld then s.complete c.id stAborted (w64 r.abortCause) [] else s.finish c.id stOk).purge

/-- CONFIRM (R278, R390). -/
def confirmCmd (s : State) (c : Cmd) : State :=
  if c.started then s.confirmEnd c
  else
    s.checked c (c.unused [(0x10, 2)]) (
      match s.target c with
      | none => s.badField c.id 0x10
      | some t =>
        if t.opcode ≠ 0x21 then s.badField c.id 0x10
        else
          match s.runOf t with
          | none => s
          | some r =>
            if r.st = .waiting then (s.modRun r.id fun y => { y with confirmHeld := true }).awaitRun c r.id false
            else if r.abortCause ≠ 0 then s.complete c.id stAborted (w64 r.abortCause) []
            else ((s.liveGroups r.id).foldl (fun (st : State) (g : Nat) =>
              st.setGroup g { st.group g with st := .confirming }) s).awaitRun c r.id false)

/-- CONFIRM (R278). -/
def execConfirm (cmd : Nat) (s : State) : Out := onCmd cmd 0x22 s (confirmCmd s)

/-- ABORT_SPEC (R278, R390). -/
def abortSpecCmd (s : State) (c : Cmd) : State :=
  if c.started then
    (if (s.groupsOf (c.amount - 1)).any fun g => decide ((s.group g).st = .aborting) then s else (s.finish c.id stOk).purge)
  else
    s.checked c (c.unused [(0x10, 2)]) (
      match s.target c with
      | none => s.badField c.id 0x10
      | some t =>
        match t.opcode, s.runOf t with
        | 0x20, some r => (s.abortEpochs r.id 2).finish c.id stOk
        | 0x20, none => s.finish c.id stOk
        | 0x21, none => (s.stopCmd t stAborted).finish c.id stOk
        | 0x21, some r =>
          if r.st = .waiting then
            (if r.confirmHeld then s.badField c.id 0x10 else (s.stopRunAs r 2 stAborted).finish c.id stOk)
          else if (s.liveGroups r.id).isEmpty then s.badField c.id 0x10
          else (s.abortRun r.id 2).awaitRun c r.id true
        | _, _ => s.badField c.id 0x10)

/-- ABORT_SPEC (R278). -/
def execAbortSpec (cmd : Nat) (s : State) : Out := onCmd cmd 0x23 s (abortSpecCmd s)

/-- CANCEL's part on a run: it stops the run unless an epoch is CONFIRMING, which first completes (R279).
[DEDUCED, log entry 47: unsafe] -/
def State.cancelRun (s : State) (c : Cmd) (r : Run) : State :=
  if s.confirmingOf r.id then s.awaitRun c r.id false
  else
    match r.st with
    | .running => (s.stopRunAs r 9 stAborted).awaitRun c r.id true
    | .held => (s.stopRunAs r 9 stAborted).awaitRun c r.id true
    | _ => s.awaitRun c r.id false

/-- CANCEL (R279, R324, R391): its own completion follows the target's. -/
def cancelCmd (s : State) (c : Cmd) : State :=
  if c.started then
    (match s.run (c.amount - 1) with
     | none => s.complete c.id stOk (w64 c.steps) []
     | some r =>
       if r.st = .ended then (s.complete c.id stOk (w64 c.steps) []).purge
       else if c.steps = 0 ∧ (r.st = .running ∨ r.st = .held) then s.cancelRun c r
       else s)
  else
    s.checked c (c.unused [(0x10, 2)]) (
      match s.target c with
      | none => s.badField c.id 0x10
      | some t =>
        if !opCancellable t.opcode then s.badField c.id 0x10
        else
          match s.runOf t with
          | none => (s.stopCmd t stAborted).complete c.id stOk 1 []
          | some r => if r.st = .waiting then (s.stopRunAs r 9 stAborted).complete c.id stOk 1 [] else s.cancelRun c r)

/-- CANCEL (R391). -/
def execCancel (cmd : Nat) (s : State) : Out := onCmd cmd 0x24 s (cancelCmd s)

end Sys2Proof.Machine
end

