-- ==== Sys2Proof/Machine/Queries.lean ====
section
/-! DEFINITION. The query commands and the records of defective units (R353, R379 to R382, R445, R446). -/

namespace Sys2Proof.Machine
open Sys2Proof

/-! ### Identity (R353, R379) -/

/-- IDENT of a function (R353). -/
def State.ident (s : State) (f : Nat) : W64 :=
  w64 (2 ^ 48 + (if s.wca1608 then 0x1608 else 0x1604) * 2 ^ 32 + 0x0100 * 2 ^ 16 + (if s.power.pairPresent then 0x100 else 0) + f)

/-- The firmware slot that a component runs from (R538). -/
def State.fwActive (s : State) (comp : Nat) : FwSlot := nget {} s.sec.fw (2 * comp + nget 0 s.sec.active comp)

/-- The 64 bytes of QUERY_IDENTITY (R379). -/
def State.identity (s : State) (f : Nat) : List Byte :=
  leBytes 8 (s.ident f).toNat ++ padTo 16 s.mc.serial ++ leBytes 2 s.moduleId ++ leBytes 1 (s.power.slotId % 16) ++
  leBytes 1 ((if s.sec.owner then 1 else 0) + (if s.sec.debug then 2 else 0)) ++ zeros 4 ++
  ((List.range 5).flatMap fun i => leBytes 4 (s.fwActive (i + 1)).version) ++ leBytes 4 Config.romVersion ++ zeros 8

/-- QUERY_IDENTITY (R379). -/
def execQueryIdentity (cmd : Nat) (s : State) : Out :=
  onCmd cmd 0x01 s fun c => s.checked c (c.unused []) (s.complete c.id stOk 0 (s.identity c.fn))

/-! ### State (R380) -/

/-- IMAGE of the summary; commit and unload are whole steps of the model, so 2 and 4 show only while such a command is in
flight. -/
def State.imageState (s : State) : Nat :=
  if s.cmds.any (·.opcode == 0x12) then 2 else if s.cmds.any (·.opcode == 0x13) then 4
  else if s.img.image.isSome then 3 else if s.img.session.isSome then 1 else 0

/-- PART of the summary for a partition. -/
def State.partByte (s : State) (p : Nat) : Nat :=
  s.cfld (offPwr p) 0 2 + (if s.partDegraded p then 4 else 0) + (if (s.part p).resetting then 8 else 0) +
  (if s.nbStack (2 * p) && s.cfld (offNb (2 * p)) 0 3 == 4 then 16 else 0) + (if s.hbmMode p = 0 then 0 else 32)

/-- Phases whose thin work runs on the pane path (R60, R326). -/
def State.thinOnPane (s : State) : List Nat :=
  match s.img.image with
  | none => []
  | some im => (im.phases.filter fun ph => ph.hasThin && !s.thinOnNb im ph).map (·.id)

/-- Summary flags (R380). -/
def State.summaryFlags (s : State) : Nat :=
  (if s.anyDegraded then 1 else 0) +
  (if s.cfld offPair 0 3 != 0 && s.cfld offPair 8 1 == 0 && s.cfld offPair 0 3 != 5 then 2 else 0) +
  (if s.standby then 4 else 0) + (if s.mc.quick then 8 else 0)

/-- The 96-byte summary (R380); a VF reads only MODULE_POWER, IMAGE, BUILD_ID and FREE_HBM. During bring-up FREE_HBM reads 0 until the
stacks are tested and LCORES until the cores are (R422).
[DEDUCED, log entry 69: unsafe] -/
def State.summary (s : State) (f : Nat) : List Byte :=
  let pf := f == 0
  let build := match s.img.image with
    | some im => padTo 16 im.buildId
    | none => zeros 16
  let sh := s.sharedOp.getD (0, 0)
  let rest (bs : List Byte) : List Byte := if pf then bs else zeros bs.length
  leBytes 1 (s.cfld offPwrModule 0 2) ++ leBytes 1 s.imageState ++ rest (leBytes 2 s.summaryFlags ++ zeros 4) ++
  rest ((List.range 8).flatMap fun p => leBytes 1 (s.partByte p)) ++ build ++ leBytes 8 (if s.stage < 4 then 0 else s.freeHbm) ++
  rest ((List.range 8).flatMap fun p => leBytes 2 (if s.stage < 6 && !s.power.tested then 0 else s.lcores p)) ++
  rest (leBytes 32 ((s.thinOnPane.map fun k => 2 ^ k).sum)) ++
  rest (leBytes 1 sh.1 ++ leBytes 1 s.mc.sharedDone.2.1 ++ leBytes 2 sh.2 ++ zeros 4)

/-- The placement map from a virtual core on (R380). -/
def State.placeMap (s : State) (first : Nat) : List Byte :=
  match s.img.image with
  | none => []
  | some im => (List.range (im.vcores - first)).flatMap fun i => leBytes 2 (match s.placed (first + i) with
    | some c => 0x8000 + c
    | none => 0)

/-- The tensor map from an entry on (R380). -/
def State.tensorMap (s : State) (first : Nat) : List Byte :=
  match s.img.image with
  | none => []
  | some im => (im.tensors.drop first).flatMap fun t =>
    leBytes 4 t.id ++ leBytes 1 (if t.kind = 1 then 0 else t.location) ++ zeros 3 ++ leBytes 8 (if t.kind = 1 then 0 else t.base)

/-- QUERY_STATE (R380). -/
def queryState (s : State) (c : Cmd) : State :=
  let sel := c.at_ 0x10 1
  if c.fn ≠ 0 ∧ sel ≠ 0 then s.finish c.id stNotPrivileged
  else s.checked c (c.unused [(0x10, 1), (0x18, 8)] ++ flag (decide (2 < sel)) 0x10 ++ flag (sel == 0 && c.at_ 0x18 8 != 0) 0x18) (
    s.complete c.id stOk 0 (match sel with
      | 0 => s.summary c.fn
      | 1 => s.placeMap (c.at_ 0x18 8)
      | _ => s.tensorMap (c.at_ 0x18 8)))

/-- QUERY_STATE (R380). -/
def execQueryState (cmd : Nat) (s : State) : Out := onCmd cmd 0x02 s (queryState s)

/-! ### Defect records (R381, R445, R446) -/

/-- The order of records: KIND, NUMBER, DETAIL (R381). -/
def Defect.le (a b : Defect) : Bool :=
  decide (a.kind < b.kind) || (a.kind == b.kind && (decide (a.number < b.number) || (a.number == b.number && decide (a.detail ≤ b.detail))))

/-- Records in order with one more. -/
def insDefect (d : Defect) : List Defect → List Defect
  | [] => [d]
  | x :: r => if d.le x then d :: x :: r else x :: insDefect d r

/-- Records of the field record: what a test or RETIRE_UNIT retired (R445). -/
def State.fieldRecords (s : State) : Nat := (s.mc.defects.filter fun d => d.kept && d.source &&& 0xE != 0).length

/-- A unit's record gains a source (R381, R445, R446): a new record is kept unless the field record is full.
[DEDUCED, log entry 83: unsafe] -/
def State.addDefect (s : State) (kind number detail : Nat) (src : Nat) : State :=
  let same (d : Defect) : Bool := d.kind == kind && d.number == number && d.detail == detail
  let ev := s.mc.eventSeq
  let s1 := s.logEv 445 number
  let more (d : Defect) : Defect := if same d then { d with source := d.source ||| BitVec.ofNat 8 (2 ^ src), event := ev } else d
  if s.mc.defects.any same then { s1 with mc := { s1.mc with defects := s1.mc.defects.map more } }
  else
    let d : Defect := { kind := kind, number := number, detail := detail, source := BitVec.ofNat 8 (2 ^ src), event := ev,
                        kept := src == 0 || decide (s.fieldRecords < 4096) }
    let s2 := { s1 with mc := { s1.mc with defects := insDefect d s1.mc.defects } }
    if d.kept then s2 else s2.alert 7

/-- The 16 bytes of a record (R381). -/
def Defect.bytes (d : Defect) : List Byte :=
  leBytes 1 d.kind ++ leBytes 1 d.source.toNat ++ leBytes 2 d.detail ++ leBytes 4 d.number ++ leBytes 8 d.event

/-- What QUERY_DEFECTS returns from a record on: header and records (R381). -/
def State.defectsFrom (s : State) (first : Nat) : List Byte :=
  let all := s.mc.defects
  let n (m : BitVec 8) : Nat := (all.filter fun d => d.source &&& m != 0).length
  leBytes 4 all.length ++ leBytes 4 (n 1) ++ leBytes 4 (n 6) ++ zeros 4 ++ (all.drop first).flatMap Defect.bytes

/-- QUERY_DEFECTS (R381). -/
def queryDefects (s : State) (c : Cmd) : State :=
  s.checked c (c.unused [(0x10, 4)]) (s.complete c.id stOk (w64 s.mc.defects.length) (s.defectsFrom (c.at_ 0x10 4)))

/-- QUERY_DEFECTS (R381). -/
def execQueryDefects (cmd : Nat) (s : State) : Out := onCmd cmd 0x03 s (queryDefects s)

/-! ### Counters (R382) -/

/-- Units of a counter family (R382): 0 for a family that does not exist. -/
def famUnits : Nat → Nat
  | 0x01 => 22848 | 0x02 => 22848 | 0x03 => 22848 | 0x04 => 22848 | 0x05 => 22848 | 0x10 => 1346 | 0x11 => 1344
  | 0x18 => 512 | 0x19 => 16 | 0x20 => 45729 | 0x21 => 2696 | 0x28 => 8 | 0x30 => 16 | 0x31 => 8 | _ => 0

/-- Values of a unit of a family: the first place and how many (R148, R166, R194, R218, R240, R260, R261, R284, R305, R329,
R348, R349, R372, R382). A tower's hinge and bridge counters come after the bays'. -/
def famSpan (fam unit : Nat) : Nat × Nat :=
  match fam with
  | 0x01 => (0, 8) | 0x02 => (0, 5) | 0x03 => (0, 10) | 0x04 => (0, 10) | 0x05 => (0, 6)
  | 0x10 => if unit < 1344 then (0, 10) else (10, 8)
  | 0x11 => (0, 38) | 0x18 => (0, 14) | 0x19 => (0, 13) | 0x20 => (0, 57)
  | 0x21 => if unit < 2688 then (0, 14) else (14, 2)
  | 0x28 => (0, 21) | 0x30 => (0, 6) | 0x31 => (0, 5) | _ => (0, 0)

/-- Counters of time or of traffic that the model does not keep: their reads are open values.
[DESIGN CHOICE, log entry 35: safe] -/
def ctrOpen (fam pos : Nat) : Bool :=
  match fam with
  | 0x01 => decide (3 ≤ pos) && decide (pos ≤ 6)
  | 0x02 => decide (3 ≤ pos)
  | 0x03 => pos == 5
  | 0x04 => decide (6 ≤ pos) && decide (pos ≤ 8)
  | 0x05 => pos == 1
  | 0x10 => pos == 8 || (decide (10 ≤ pos) && decide (pos < 14))
  | 0x18 => pos == 10 || pos == 11
  | 0x19 => pos == 6 || pos == 7 || pos == 12
  | 0x20 => decide (pos < 32) || decide (48 ≤ pos)
  | 0x21 => true
  | 0x31 => pos == 4
  | _ => false

/-- The physical partition of a unit of a family (R25, R382); a tower's links belong to none, the letterboxes to that of the
endpoint. -/
def State.famPart (s : State) (fam unit : Nat) : Nat :=
  match fam with
  | 0x10 => if unit < 1344 then partOfCluster unit else 8
  | 0x11 => partOfCluster unit
  | 0x18 => unit / 64
  | 0x19 => unit / 2
  | 0x20 => louvrePart unit
  | 0x21 => if unit < 1344 then partOfCluster unit else if unit < 2688 then partOfCluster (unit - 1344) else unit - 2688
  | 0x28 => nget 0 s.img.lpart unit - 1
  | 0x30 => 0
  | 0x31 => unit
  | _ => partOf unit

/-- The control and status register of a counter of family 5 (R95, R382).
[DEDUCED, log entry 123: unsafe] -/
def fam5Csr (pos : Nat) : Nat := [0x009, 0x00A, 0x039, 0x03A, 0x03B, 0x03C].getD pos 0

/-- A counter summed over the units that a test picks. -/
def State.ctrSum (s : State) (fam pos : Nat) (p : Nat → Bool) : Nat :=
  if fam = 0x05 then ((s.cores.filter fun e => p e.1).map fun (e : Nat × Core) => (e.2.csrReg (fam5Csr pos)).toNat).sum
  else ((s.ctr.filter fun e => e.1 / 2 ^ 24 == fam && e.1 % 256 == pos && p (e.1 / 256 % 65536)).map fun (e : Nat × W64) => e.2.toNat).sum

/-- The units over which READ_COUNTERS sums. tREFI changes are kept per stack, at its channel 0 (R305). -/
def State.ctrUnits (s : State) (fam agg index pos unit : Nat) : Bool :=
  match agg with
  | 0 => if fam = 0x18 ∧ pos = 13 then unit == index / 32 * 32 else unit == index
  | 1 => s.famPart fam unit == index
  | _ => true

/-- The places that READ_COUNTERS returns. -/
def ctrPlaces (fam agg index : Nat) : List Nat :=
  let a := famSpan fam 0
  let b := famSpan fam (famUnits fam - 1)
  if agg = 0 then (let x := famSpan fam index; (List.range x.2).map (· + x.1))
  else if a = b then List.range a.2
  else if agg = 1 ∧ fam = 0x10 then List.range a.2
  else (List.range a.2).map (· + a.1) ++ (List.range b.2).map (· + b.1)

/-- READ_COUNTERS (R382). -/
def readCounters (s : State) (c : Cmd) : State :=
  let fam := c.at_ 0x10 1
  let agg := c.at_ 0x11 1
  let ix := c.at_ 0x14 4
  if c.fn ≠ 0 ∧ (fam ≠ 0x30 ∨ agg ≠ 0 ∨ ix ≠ c.fn) then s.finish c.id stNotPrivileged
  else
    let bad := c.unused [(0x10, 2), (0x14, 4)] ++ flag (famUnits fam == 0) 0x10 ++ flag (decide (2 < agg)) 0x11 ++
      flag (match agg with
        | 0 => decide (famUnits fam ≤ ix)
        | 1 => decide (8 ≤ ix)
        | _ => ix != 0) 0x14
    s.checked c bad (
      let ps := ctrPlaces fam agg ix
      let r : List Nat × State := ps.foldl (fun (acc : List Nat × State) (pos : Nat) =>
        if ctrOpen fam pos then (acc.1 ++ [acc.2.draw % 2 ^ 64], acc.2.drew)
        else (acc.1 ++ [(sat64 (s.ctrSum fam pos (s.ctrUnits fam agg ix pos))).toNat], acc.2)) ([], s)
      r.2.complete c.id stOk 0 (leBytes 1 fam ++ leBytes 1 agg ++ zeros 2 ++ leBytes 4 ix ++ leBytes 4 ps.length ++ zeros 4 ++
        r.1.flatMap (leBytes 8)))

/-- READ_COUNTERS (R382). -/
def execReadCounters (cmd : Nat) (s : State) : Out := onCmd cmd 0x04 s (readCounters s)

end Sys2Proof.Machine
end

