-- ==== Sys2Proof/Machine/Registers.lean ====
section
/-! DEFINITION. Writes to registers: bond repair positions (R210), the control window of a function (R12, R13, R351 to
R356, R365) and the control and status space (R229, R343). -/

namespace Sys2Proof.Machine
open Sys2Proof

/-! ### Bond repair (R210) -/

/-- The positions that a TRANSOM_REPAIR value marks. -/
def repairMarks (v : W64) : List Nat :=
  (if v.getLsbD 7 then [fld v 0 6] else []) ++ (if v.getLsbD 15 then [fld v 8 6] else [])

/-- The bond position that logical bit j of a group travels on: the (j + 1)-th position not marked failed, of 34 (R209). -/
def bondOfBit (v : W64) (j : Nat) : Nat := ((List.range 34).filter fun p => !(repairMarks v).contains p).getD j 34

/-- Whether a repair value is refused against the present one (R210). -/
def repairRefused (old v : W64) : Bool :=
  decide (33 < fld v 0 6) || decide (33 < fld v 8 6) ||
  (v.getLsbD 15 && (!v.getLsbD 7 || decide (fld v 8 6 ≤ fld v 0 6))) ||
  (repairMarks old).any fun p => !(repairMarks v).contains p

/-- Whether a core's channel is idle and the core carries no virtual core (R210). -/
def Core.channelFree (k : Core) : Bool := k.vcore == 0 && k.stores.isEmpty && k.starts.isEmpty && k.mq.isEmpty

/-- A write of bond repair positions (R210); a reserved bit set leaves the register's fields open (R13). -/
def State.repairWrite (s : State) (c g : Nat) (v : W64) : State :=
  if v &&& 0xFFFFFFFFFFFF4040 ≠ 0 then (s.setCreg (offRepair c g) (w64 s.draw &&& 0xBFBF)).drew
  else if !(s.core c).channelFree || repairRefused (s.creg (offRepair c g)) v then s.logEv 210 (c * 32 + g)
  else s.setCreg (offRepair c g) v

/-- Whether a requester is a partition controller (R210, R229, R343). -/
def isPartController : Requester → Bool
  | .partitionController p => decide (p < 8)
  | _ => false

/-- TRANSOM_REPAIR_WRITE (R210): only partition controllers write; any other is refused under R17. -/
def execTransomRepairWrite (by_ : Requester) (pcore g : Nat) (v : W64) (s : State) : Out :=
  onUnit (Unit.core pcore && decide (g < 32)) (
    if isPartController by_ then s.repairWrite pcore g v else s.logEv 17 (offRepair pcore g))

/-! ### Control windows (R351, R352) -/

/-- A disallowed access to a control window (R352). -/
def State.badWindow (s : State) (f : Nat) : State := s.bump 0x30 f lbBadAccess 1

/-- The RW fields of a register take a written value; a reserved bit set leaves them open (R12, R13).
[DESIGN CHOICE, log entry 8: safe] -/
def State.rwValue (s : State) (v rw reserved : W64) : W64 × State :=
  if v &&& reserved = 0 then (v &&& rw, s) else (w64 s.draw &&& rw, s.drew)

/-- RW fields of LB_RING_CFG (R354). -/
def ringRw : W64 := 0x00FFFF3F3F001F1F
/-- RW fields of APERTURE_SEL (R356). -/
def apertureRw : W64 := 0x803F0000FFFFFFFF

/-- A write to the ring registers, accepted only while DISABLED (R354). -/
def State.ringWrite (s : State) (f : Nat) (g : Fn → Fn) : State :=
  if (s.fn f).st = .disabled then s.modFn f g else s.badWindow f

/-- A write to the MSI-X table in pieces of 4 bytes (R351, R352, R365). -/
def State.msixWrite (s : State) (f off : Nat) (v : W32) : State :=
  let e := off / 16
  let m := (s.fn f).vec e
  let put (m' : Msix) : State := s.modFn f fun x => { x with msix := nset {} x.msix e m' }
  match off % 16 / 4 with
  | 0 => put { m with addr := setFld m.addr 0 32 v.toNat }
  | 1 => put { m with addr := setFld m.addr 32 32 v.toNat }
  | 2 => put { m with data := v }
  | _ => s.maskVector f e (v.getLsbD 0)

/-- A write through function f's control window (R351 to R356, R422); the MSI-X pending bits ignore writes of 4 or 8 bytes. -/
def State.windowWrite (s : State) (f off size : Nat) (v : W64) : State :=
  let lo : W32 := v.truncate 32
  let hi : W32 := (v >>> 32).truncate 32
  if off = 0x2000 ∨ off = 0x2004 then
    if size ≠ 4 then s.badWindow f else if off = 0x2000 then s.sqTail f lo else s.cqHead f lo
  else if 0x20000 ≤ off ∧ off < 0x20400 then
    if size = 4 ∧ off % 4 = 0 then s.msixWrite f (off - 0x20000) lo
    else if size = 8 ∧ off % 8 = 0 then (s.msixWrite f (off - 0x20000) lo).msixWrite f (off - 0x20000 + 4) hi
    else s.badWindow f
  else if 0x21000 ≤ off ∧ off < 0x21008 ∧ size = 4 ∧ off % 4 = 0 then s
  else if size ≠ 8 ∨ off % 8 ≠ 0 then s.badWindow f
  else if off = 0x1000 then s.ringWrite f fun x => { x with sqBase := v }
  else if off = 0x1008 then s.ringWrite f fun x => { x with cqBase := v }
  else if off = 0x1010 then
    let r := s.rwValue v ringRw (~~~ringRw)
    if (s.fn f).st = .disabled then r.2.modFn f fun x => { x with ringCfg := r.1 } else s.badWindow f
  else if off = 0x1018 then
    let r := s.rwValue v 1 (~~~1)
    if r.1 = 1 then r.2.lbEnable f else r.2.lbDisable f
  else if off = 0x1020 then s.lbStatusWrite f v
  else if off = 0x1028 then
    let r := s.rwValue v apertureRw (~~~apertureRw)
    r.2.modFn f fun x => { x with aperture := r.1 }
  else if 0x10000 ≤ off ∧ off < 0x14000 ∧ off % 16 = 0 then
    s.regionWrite f ((off - 0x10000) / 0x400) ((off - 0x10000) % 0x400 / 16) v
  else s

/-! ### Control and status space -/

/-- Whether READ_REG may read an offset: the registers of R434, R435, R449, R468, R481, R496, R535 and R549. -/
def boardReadable (off : Nat) : Bool :=
  off == offSeunonId || isReg off (offRoute 0) 8 4096 ||
  (decide (offPort 0 ≤ off) && decide (off < offPort 16) && decide (off % 8 = 0) && decide (off % 0x40 < 0x38)) ||
  off == offBringup ||
  (decide (offRegionPwr 0 ≤ off) && decide (off < offRegionPwr 336) && decide (off % 8 = 0) && decide (off % 0x40 < 0x28)) ||
  off == offTower 0 || off == offTower 0 + 8 || off == offTower 1 || off == offTower 1 + 8 || off == offSupply ||
  (decide (offPwr 0 ≤ off) && decide (off < offPwr 8) && decide (off % 8 = 0) && decide (off % 0x100 < 0x58)) ||
  off == offPwrModule || off == offPwrModule + 8 || off == offPwrModule + 16 ||
  off == offTherm || off == offCycles 0 || off == offCycles 1 || off == offPair || off == offKeyhole || off == offRollback

/-- Offset of TRANSOM_REPAIR of core 0. -/
def repairBase : Nat := offRepair 0 0

/-- Whether an offset of the control and status space is a register of the sill die, of caching or regulation, or of the memory
(R210, R216, R217, R229, R290, R302, R313, R328, R343). -/
def unitReg (off : Nat) : Bool :=
  isReg off (offBayCfg 0) 0x1000 1344 || isReg off repairBase 8 (22848 * 32) || isReg off (offTransom 0) 8 22848 ||
  (isReg (off - off % 0x100) (offCache 0 0) 0x100 8 && isReg (off % 0x100) 0 8 9) ||
  (isReg (off - off % 0x100) (offClass 0 0) 0x100 8 && isReg (off % 0x100) 0 8 9) ||
  isReg off (offHbmMap 0) 0x1000 8 ||
  (isReg (off - off % 0x1000) (offChan 0 0) 0x1000 16 && isReg (off % 0x1000) 0 0x40 32) ||
  isReg off (offNb 0) 0x1000 16 || (isReg (off - off % 0x2000) (offStep 0 0) 0x2000 8 && isReg (off % 0x2000) 0 8 576)

/-- Whether an offset of the control and status space is a register, those of the cores aside. -/
def controlReg (off : Nat) : Bool := boardReadable off || unitReg off

/-- The RW fields of the registers that partition controllers write, with the partition (R229, R343). -/
def ctlRw (off : Nat) : Option (Nat × W64) :=
  let p := off / 0x100 % 8
  if 0x68000000 ≤ off ∧ off < 0x68000800 ∧ off % 8 = 0 then
    if off % 0x100 < 0x40 then some (p, 0xE37) else if off % 0x100 = 0x40 then some (p, 0x31F) else none
  else if 0x69000000 ≤ off ∧ off < 0x69000800 ∧ off % 8 = 0 then
    if off % 0x100 < 0x40 then some (p, 0x0000FFFF0000FFFF) else if off % 0x100 = 0x40 then some (p, 0x3) else none
  else none

/-- Reserved bits of those registers (R229, R343). -/
def ctlReserved (off : Nat) : W64 :=
  if off < 0x69000000 then (if off % 0x100 < 0x40 then 0xFFFFFFFFFFFFF1C8 else 0xFFFFFFFFFFFFFCE0)
  else (if off % 0x100 < 0x40 then 0xFFFF000000000000 else 0xFFFF0000FE00FFEC)

/-- Whether a requester is a controller (R198, R290). -/
def isController (by_ : Requester) : Bool := isPartController by_ || decide (by_ = .moduleController)

/-- A controller's write to a sill window (R198): any byte of a private region; those of the shared regions are refused. -/
def State.sillWrite (s : State) (by_ : Requester) (off : Nat) (bs : List Byte) : State :=
  let r := (off - sillWindow) % 0x100000000
  let o := s.windowOwner off
  if isController by_ && decide (off < sillWindow + 0x200000000) && decide (r + bs.length ≤ sillUsed) &&
     decide (o.2 + bs.length ≤ 0x8000 * s.privSteps (clusterOf o.1)) then s.localStore 2 o.1 o.2 bs
  else s.logEv 17 off

/-- A write of a controller to the control and status space, or at a device offset in a sill window. Partition controllers write the
registers that have RW fields; RO fields ignore a write (R12), and every other requester is refused (R17, R210, R229, R343). -/
def State.controlWrite (s : State) (by_ : Requester) (off size : Nat) (v : W64) : State :=
  if sillWindow ≤ off then s.sillWrite by_ off (leBytes size v.toNat)
  else
    match ctlRw off with
    | some (_, rw) =>
      if !isPartController by_ || size != 8 then s.logEv 17 off
      else
        let r := s.rwValue v rw (ctlReserved off)
        r.2.setCreg off ((r.2.creg off &&& ~~~rw) ||| r.1)
    | none =>
      if isReg off repairBase 8 (22848 * 32) then
        (if isPartController by_ && size == 8 then s.repairWrite ((off - repairBase) / 0x100) ((off - repairBase) / 8 % 32) v
         else s.logEv 17 off)
      else if isController by_ && controlReg off && size == 8 then s
      else s.logEv 17 off

/-- A host's write at an offset behind its function's control window lies in its result window, where it is discarded and
counted (R366).
[DESIGN CHOICE, log entry 138: safe] -/
def State.hostRegister (s : State) (f off size : Nat) (v : W64) : State :=
  if off + size ≤ 0x100000 then s.windowWrite f off size v
  else if 0x100000 ≤ off ∧ off + size ≤ 0x1100000 then s.badWindow f
  else s

/-- REGISTER_WRITE (R12, R13, R351, R352, R366): a host's write lies in its function's control or result window, a
controller's in the control and status space. -/
def execRegisterWrite (by_ : Requester) (off size : Nat) (v : W64) (s : State) : Out :=
  match by_ with
  | .host f => onUnit (Unit.fn f) (if s.hostReaches f then s.hostRegister f off size v else s)
  | _ => .next (s.controlWrite by_ off size v)

end Sys2Proof.Machine
end

