-- ==== Sys2Proof/Machine/Retire.lean ====
section
/-! DEFINITION. Units taken out of service: bonds (R210, R211), near-bank units and their handback (R326), and the retirement
of cores, clusters, bays and power regions with the re-placement that follows (R381, R405, R439 to R442, R445 to R448, R518). -/

namespace Sys2Proof.Machine
open Sys2Proof

/-! ### Units by KIND and NUMBER (R381) -/

/-- Whether KIND and NUMBER name a unit. -/
def unitExists (kind number : Nat) : Bool :=
  match kind with
  | 1 => decide (number < 22848)
  | 2 => decide (number < 1344)
  | 3 => decide (number < 1344)
  | 4 => decide (number < 336)
  | 5 => decide (number < 22848)
  | 6 => decide (number < 512)
  | 7 => decide (number < 16)
  | 8 => decide (number < 16)
  | 9 => decide (number < 64)
  | 10 => decide (number < 84)
  | 11 => number == 0
  | _ => false

/-- The clusters that the retirement of a unit takes (R381, R460). -/
def unitClusters (kind number : Nat) : List Nat :=
  match kind with
  | 2 => [number]
  | 3 => [number]
  | 4 => clustersOfRegion number
  | _ => []

/-- A cluster and its bay leave service: the bay is retired and holds nothing (R30, R216). -/
def State.bayOut (s : State) (n : Nat) : State :=
  (s.setCfld (offBayCfg n) 0 2 2).setBay n { s.bay n with own := [], ownBad := [], lines := [], prov := [], miss := [] }

/-- A unit of KIND 0x01 to 0x04 leaves service. -/
def State.takeOut (s : State) (kind number : Nat) : State := (unitClusters kind number).foldl (fun (st : State) (n : Nat) => st.bayOut n) s

/-- A change of a partition's healthy units, with the re-placement of the logical partition it carries; one that no longer fits
is not placed, and its runs end with NO_RESOURCE (R405, R448, R520). The flag says whether it fits. -/
def State.rework (s : State) (p : Nat) (change : State → State) : State × Bool :=
  match s.lpartOn p with
  | none => (s.rehome (fun q => q == p) change, true)
  | some j =>
    match s.replace j change with
    | some s1 => (s1, true)
    | none => ((s.vacate j).rehome (fun q => q == p) change, false)

/-- The units of KIND 0x01 to 0x04 among findings that lie in a partition. -/
def placeable (p : Nat) (fs : List Finding) : List Finding :=
  fs.filter fun f => decide (1 ≤ f.kind) && decide (f.kind ≤ 4) && unitExists f.kind f.number && unitPart f.kind f.number == p

/-- Units of a partition are retired: recorded with a source, taken out, and its logical partition placed again. -/
def State.retireUnits (s : State) (p : Nat) (fs : List Finding) (src : Nat) : State × Bool :=
  let l := placeable p fs
  if l.isEmpty then (s, true)
  else
    let s1 := l.foldl (fun (st : State) (f : Finding) => st.addDefect f.kind f.number f.detail src) s
    let r := s1.rework p fun st => l.foldl (fun (a : State) (f : Finding) => a.takeOut f.kind f.number) st
    (r.1.refreshDegraded, r.2)

/-! ### Bonds (R210, R211) -/

/-- The first number that names a control bond: below it a finding of KIND 0x05 has DETAIL group × 64 + position; above it,
2 × control pair + bond. -/
def ctrlBond : Nat := 0x8000

/-- What a failed bond of a core's channel changes (R211): a repair, a note, or a failure of the core. -/
def State.bondMark (s : State) (c d : Nat) : State × List Finding :=
  let lost (st : State) : State × List Finding := (st.setCfld (offTransom c) 0 2 3, [{ kind := 1, number := c, detail := 0 }])
  if d < 2048 then
    let g := d / 64
    let pos := d % 64
    let s1 := s.setCfld (offTransom c) 0 2 (max 2 (s.cfld (offTransom c) 0 2))
    match repairMarks (s.creg (offRepair c g)) with
    | [] => (s1.setCreg (offRepair c g) (w64 (0x80 + pos)), [])
    | [x] => if x = pos then (s1, []) else (s1.setCreg (offRepair c g) (w64 (0x8080 + min x pos + 256 * max x pos)), [])
    | ms => if ms.contains pos then (s1, []) else lost s1
  else
    let pair := (d - ctrlBond) / 2 % 32
    let bond := d % 2 + 1
    if s.cfld (offTransom c) (16 + pair) 1 = 1 then (if nget 0 s.mc.ctrlBonds (c * 32 + pair) = bond then (s, []) else lost s)
    else
      let s1 := (s.setCfld (offTransom c) (16 + pair) 1 1).setCfld (offTransom c) 0 2 (max 2 (s.cfld (offTransom c) 0 2))
      ({ s1 with mc := { s1.mc with ctrlBonds := nset 0 s1.mc.ctrlBonds (c * 32 + pair) bond } }, [])

/-- A failed bond that a test finds: a data bond is recorded (R439). -/
def State.bondFail (s : State) (c d src : Nat) : State × List Finding :=
  (if d < 2048 then s.addDefect 5 c d src else s).bondMark c d

/-- The bond test of a core's channel: its failed bonds, or a pass (R211). -/
def State.bondTest (s : State) (c : Nat) (ds : List Nat) (src : Nat) : State × List Finding :=
  if ds.isEmpty then (if s.cfld (offTransom c) 0 2 = 0 then s.setCfld (offTransom c) 0 2 1 else s, [])
  else ds.foldl (fun (acc : State × List Finding) (d : Nat) =>
    let r := acc.1.bondFail c d src
    (r.1, acc.2 ++ r.2)) (s, [])

/-- The bond tests of a list of cores, from findings of KIND 0x05; the list holds the cores that failed. -/
def State.bondTests (s : State) (cores : List Nat) (fs : List Finding) (src : Nat) : State × List Finding :=
  cores.foldl (fun (acc : State × List Finding) (c : Nat) =>
    let ds := (fs.filter fun f => f.kind == 5 && f.number == c).map (·.detail)
    let r := acc.1.bondTest c ds src
    (r.1, acc.2 ++ r.2)) (s, [])

/-- Placement drains a cluster for its bond test, which BAY_CFG shows (R211, R216): what it carries moves to the partition's other
clusters; none where they do not hold it. A retired cluster stays as it is. -/
def State.drainCluster (s : State) (n : Nat) : Option State :=
  let mark (st : State) : State := st.setCfld (offBayCfg n) 0 2 3
  if s.cfld (offBayCfg n) 0 2 = 2 then some s
  else if s.cfld (offBayCfg n) 0 2 = 1 then
    match s.lpartOn (partOfCluster n) with
    | some j => s.replace j mark
    | none => some (mark s)
  else some (mark s)

/-- A tested cluster that was not retired is idle again. -/
def State.testOver (s : State) (n : Nat) : State := if s.cfld (offBayCfg n) 0 2 = 3 then s.setCfld (offBayCfg n) 0 2 0 else s

/-! ### HBM lanes (R301, R302) -/

/-- Failed lanes of a channel: `which` is 0 for PC0's data lanes, 1 for PC1's, 2 for the command/address lanes. One is moved to the
spare; the flag says that a second repair was needed, so that the stack has failed. -/
def State.laneRepair (s : State) (st ch which n : Nat) : State × Bool :=
  let o := offChan st ch
  if n = 0 then (s, false)
  else if s.cfld o (17 + which) 1 = 0 ∧ n = 1 then (s.setCfld o (17 + which) 1 1, false)
  else (s.setCfld o (17 + which) 1 1, true)

/-- The group of lanes that a finding of KIND 0x06 names in DETAIL [9:8]. -/
def laneGroup (detail : Nat) : Nat := min 2 (detail / 256 % 4)

/-! ### Near-bank units (R308, R326) -/

/-- The program that a proxy runs on the pane path (R308). -/
def Phase.proxyEntry (ph : Phase) (v : Nat) : Option (VcEntry × Nat) :=
  ph.vcs.findSome? fun e => if e.vcore = v then e.thinEntry.map fun o => (e, o) else none

/-- The resume record of a sequence handed back (R326). -/
def resumeRecord (k : Kick) (x : NbStack) : List Byte :=
  let ops := (List.range 32).map fun c => nget 0 x.at_ c / 2 ^ 32
  let next := ops.foldl min (ops.headD 0)
  leBytes 2 k.seq ++ leBytes 2 k.notify ++ leBytes 2 k.tag.toNat ++ zeros 2 ++ leBytes 4 next ++
  leBytes 4 (((List.range 32).map fun c => if next < ops.getD c 0 then 2 ^ c else 0).sum)

/-- A sequence in flight is handed back to its proxy's pane-path program (R326). -/
def State.handback (s : State) (st : Nat) (k : Kick) : State :=
  let rec_ := resumeRecord k (s.nb st)
  let s1 := (s.setNb st (s.nb st).clear).nbCount st nbHandbacks 1
  match s.run k.run, s.img.image with
  | some r, some im =>
    (match s.phase r.phase with
     | some ph =>
       (match ph.proxyEntry k.proxy, s.placed k.proxy with
        | some (e, o), some c => ((s1.launchCore r im e o).localStore 1 c 0 rec_).openShutters [c]
        | _, _ => s1)
     | none => s1)
  | _, _ => s1

/-- The near-bank units of a stack are disabled (R326, R328): each engine finishes its current step, and the sequence in flight is handed
back, unless that step met poison and so stops the run (R323). -/
def State.nbDisable (s : State) (st : Nat) : State :=
  if s.cfld (offNb st) 0 3 = 0 ∨ s.cfld (offNb st) 0 3 = 4 then s
  else
    let r := s.nbFinish st
    let s1 := r.1.setCfld (offNb st) 0 3 4
    match (s.nb st).cur with
    | some k => if r.2 then s1.stopRun k.run stEcc else s1.handback st k
    | none => s1

end Sys2Proof.Machine
end

