-- ==== Sys2Proof/Machine/Resets.lean ====
section
/-! DEFINITION. Core, cluster and partition resets, doors, dumps and the monitors that find lost progress (R283, R303, R401 to
R403, R499 to R515). -/

namespace Sys2Proof.Machine
open Sys2Proof

/-! ### Beginning of a partition reset (R506, R508) -/

/-- The partition, plus one, that holds the door hold area and dump area that a reset of p uses: the primary's host, else the
secondary's; 0 where the doors of both are closed or there is none (R508).
[DEDUCED, log entry 77: unsafe] -/
def State.areaFor (s : State) (p : Nat) : Nat :=
  let hosts := (((List.range 8).map fun i => (p + 4 + i) % 8).filter fun q => q != p && !s.unusable q).take 2
  match hosts.find? fun q => decide ((s.part q).door = .open_) with
  | some q => q + 1
  | none => 0

/-- Whether a run uses a physical partition. -/
def State.runUses (s : State) (r : Run) (p : Nat) : Bool := decide (r.st ≠ .ended) && (s.pparts r.mask).contains p

/-- The speculation groups of the logical partition that a physical one carries. -/
def State.groupsOn (s : State) (p : Nat) : List Nat :=
  match s.lpartOn p with
  | some j => (List.range 4).map (4 * j + ·)
  | none => []

/-- Runs and epochs that a partition reset ends: launched runs stop, OPEN and HELD epochs abort with cause 0x08 (R283, R506). -/
def State.endUsers (s : State) (p : Nat) : State :=
  let s1 := (s.runs.filter fun r => s.runUses r p).foldl (fun (st : State) (r0 : Run) =>
    match st.run r0.id with
    | some r => if r.st = .running ∨ r.st = .held then st.stopRunAs r 8 stReset else st
    | none => st) s
  (s1.groupsOn p).foldl (fun (st : State) (g : Nat) => st.abortGroup g 8) s1

/-- PARTITION_RESET_BEGIN (R340, R506, R508): REASON 1 is RESET_PARTITION; any other alerts the board. -/
def State.beginReset (s : State) (p reason : Nat) (noDump : Bool) (cmd : Nat) : State :=
  let x := s.part p
  if x.resetting || s.unusable p then s
  else
    let area := s.areaFor p
    let seq := s.mc.eventSeq
    let s1 := (s.logEv 506 p).setPart p { x with
      door := .draining, resetting := true, reason := reason, noDump := noDump, resetCmd := cmd, area := area, forced := [],
      misses := 0, eventSeq := seq }
    let s2 := if area = 0 then s1.logEv 508 p else s1
    let s3 := if reason = 1 then s2 else s2.alert 0
    (s3.setAuto p 1).endUsers p

/-! ### Doors and bays (R507 to R509) -/

/-- A confirmation that the drain cuts short: each of its lines holds its old or its confirmed bytes, an open choice, and the
epoch is ABORTED with cause 0x08 (R283). -/
def State.cutConfirm (s : State) (g : Nat) : State :=
  let x := s.group g
  if x.st ≠ .confirming then s
  else
    let key := epKey g x.epoch.toNat
    let lines := s.bays.flatMap fun e => e.2.prov.filter (·.epoch == key)
    let s1 := lines.foldl (fun (st : State) (l : ProvLine) =>
      if st.draw % 2 = 0 then st.drew
      else if 2 ^ 56 ≤ l.line then st.drew
      else (st.lineRuns l.line l.runs l.cls none).1.drew) s
    (s1.setGroup g { x with st := .aborting, cause := 8 }).abortDone g

/-- DOOR_DRAIN_END (R283, R508). -/
def doorDrainEnd (p : Nat) (s : State) : State :=
  if (s.part p).door ≠ .draining then s
  else
    let s1 := s.setPart p { s.part p with door := .absorbing }
    (s1.groupsOn p).foldl (fun (st : State) (g : Nat) => st.cutConfirm g) s1

/-- DOOR_DRAIN_END (R508). -/
def execDoorDrainEnd (p : Nat) (s : State) : Out := onUnit (Unit.part p) (doorDrainEnd p s)

/-- A miss entry whose line lies behind doors that closed fails for each of its requesters (R499, R513). -/
def State.entryFails (s : State) (bay ln : Nat) : State :=
  let b := s.bay bay
  match b.missOf ln with
  | none => s
  | some m =>
    let s1 := s.setBay bay { b with miss := b.miss.filter fun x => x.line != ln }
    let s2 := { s1 with waits := s1.waits.filter fun x => !(Wait.ofEntry bay ln x) && !(x.addr == ln && m.joiners.any fun j => decide (j.waiter = x.waiter)) }
    m.joiners.foldl (fun (st : State) (j : Joiner) =>
      if st.waiterGen j.waiter = j.gen then st.waiterFails j.waiter ln tUnit stDoorClosed else st) s2

/-- The door answers the requesters outside that joined a bay's miss entries with DOOR_CLOSED (R513), and the bay's own requests
end. -/
def State.releaseBay (s : State) (n : Nat) : State :=
  let p := partOfCluster n
  let outs := (s.bay n).miss.flatMap fun m => (m.joiners.filter fun j => waiterOutside p j.waiter).map fun j => (j, m.line)
  let keep (x : Wait) : Bool := !decide (x.waiter = .missEntry n) && !outs.any fun o => decide (o.1.waiter = x.waiter) && o.2 == x.addr
  outs.foldl (fun (st : State) (o : Joiner × Nat) =>
    if st.waiterGen o.1.waiter ≠ o.1.gen then st
    else
      match o.1.waiter with
      | .missEntry b => st.entryFails b o.2
      | w => st.waiterFails w o.2 tUnit stDoorClosed) { s with waits := s.waits.filter keep }

/-- A bay is reset: it holds nothing, and its generation advances (R31, R502). -/
def State.clearBay (s : State) (n : Nat) : State :=
  let s0 := s.releaseBay n
  let s1 := (s0.bay n).lines.foldl (fun (st : State) (l : Line) => st.unmark n l) s0
  s1.setBay n { gen := (s1.bay n).gen + 1 }

/-- A dirty home line that is not written back: HBM gets the poison marker in its sectors (R507). -/
def State.markLine (s : State) (bay : Nat) (l : Line) : State :=
  if l.kind = .home ∧ l.dirty then
    (s.sectorsIn l.line 128).foldl (fun (st : State) x => ((st.setChk x.1 poisonMarker).hbmCount x.1 1 1).hbmCount x.1 6 1) (s.dropLine bay l)
  else s

/-- The dirty home lines of a partition at its reset (R507): each is written back, or still unwritten when the 2 ms bound passes, which is
open.
[DESIGN CHOICE, log entry 173: safe] -/
def State.flushPart (s : State) (p : Nat) : State :=
  let dirty := s.bays.flatMap fun (e : Nat × Bay) =>
    (e.2.lines.filter fun l => l.dirty && decide (l.kind = .home) && partOfOff l.line == p).map fun l => (e.1, l)
  (dirty.zipIdx).foldl (fun (st : State) (x : (Nat × Line) × Nat) =>
    if s.draw.testBit x.2 then st.markLine x.1.1 x.1.2 else st.writeBack x.1.1 x.1.2) s.drew

/-- FORCED_BAY_RESET (R507, R509): during a partition reset, after the doors have closed. -/
def forcedBayReset (n : Nat) (s : State) : State :=
  let p := partOfCluster n
  let x := s.part p
  if !x.resetting || decide (x.door ≠ .absorbing) || x.forced.contains n then s
  else
    let s1 := (s.bay n).lines.foldl (fun (st : State) (l : Line) => st.markLine n l) s
    let s2 := (List.range 17).foldl (fun (st : State) (i : Nat) =>
      let c := 17 * n + i
      ((st.core c).stores.foldl (fun (a : State) (w : Store) => a.logEv 509 w.addr) st).modCore c fun k => { k with stores := [] }) s1
    ((s2.clearBay n).setPart p { x with forced := x.forced ++ [n] }).logEv 509 n

/-- FORCED_BAY_RESET (R509). -/
def execForcedBayReset (bay : Nat) (s : State) : Out := onUnit (Unit.cluster bay) (forcedBayReset bay s)

/-! ### Dumps (R514, R515) -/

/-- The 32 bytes of a trap record. -/
def TrapRec.bytes (t : TrapRec) : List Byte :=
  leBytes 2 t.vcore ++ leBytes 2 t.pcore ++ leBytes 1 t.cause ++ leBytes 1 t.fn ++ leBytes 2 t.tag.toNat ++ leBytes 8 t.pc.toNat ++
  leBytes 8 t.addr.toNat ++ leBytes 8 t.uptime

/-- The registers of R95 in the order it lists them. -/
def csrOrder : List Nat :=
  [0x000, 0x001, 0x002, 0x008, 0x009, 0x00A, 0x010, 0x011, 0x012, 0x013, 0x018, 0x019, 0x020, 0x028, 0x029, 0x02A, 0x030, 0x038,
   0x039, 0x03A, 0x03B, 0x03C]

/-- Scratchpad bytes as a dump gives them: poisoned words read zero. -/
def Core.dumpSpad (k : Core) (off n : Nat) : List Byte :=
  (List.range n).map fun i => if k.spadBad.contains ((off + i) / 8) then 0 else nget 0 k.spad (off + i)

/-- The entry of one core. -/
def State.coreEntry (s : State) (c : Nat) (forced : List Nat) : List Byte × State :=
  let k := s.core c
  let r : List Byte × State := csrOrder.foldl (fun (acc : List Byte × State) (n : Nat) =>
    let x := acc.2.csrRead c n
    (acc.1 ++ leBytes 8 x.1.toNat, x.2)) ([], s)
  let tail := k.spadSize - 256
  let bad := k.spadBad.any fun w => decide (w < 32) || (decide (tail ≤ 8 * w + 7) && decide (8 * w < tail + 256))
  let flags := (if bad then 1 else 0) + (if forced.contains (clusterOf c) then 2 else 0) + 4
  (padTo 0x40 (leBytes 2 k.vc ++ leBytes 2 c ++ leBytes 2 (s.coreGen c).toNat ++ leBytes 1 flags) ++ padTo 256 r.1 ++ k.dumpSpad 0 256 ++
   k.dumpSpad tail 256 ++ ((List.range 512).flatMap fun i => leBytes 4 (nget 0 k.acc i).toNat) ++ zeros 192, r.2)

/-- The physical cores of a partition in rising order. -/
def coresOfPart (p : Nat) : List Nat := (clustersOfPart p).flatMap fun n => (List.range 17).map fun i => 17 * n + i

/-- The dump of a partition (R514, R515): DOOR_STATE counts flits, which the model does not keep, and is open.
[DESIGN CHOICE, log entry 119: unsafe] -/
def State.dumpPart (s : State) (p : Nat) : State :=
  let x := s.part p
  if x.noDump || x.area == 0 then s
  else
    let cs := (coresOfPart p).filter fun c => (s.core c).vcore != 0
    let r : List Byte × State := cs.foldl (fun (acc : List Byte × State) (c : Nat) =>
      let e := acc.2.coreEntry c x.forced
      (acc.1 ++ e.1, e.2)) ([], s.drew)
    let log := (x.trapLog.flatMap TrapRec.bytes) ++ zeros (2048 - 32 * x.trapLog.length)
    let head := leBytes 8 0x5044414F52484843 ++ leBytes 4 (4096 + 3072 * cs.length) ++ leBytes 1 p ++ leBytes 1 x.reason ++
      leBytes 2 cs.length ++ leBytes 8 x.eventSeq ++ leBytes 8 s.mc.uptime ++ s.drawBytes 8 ++ leBytes 4 x.forced.length ++ zeros 20 ++
      log ++ zeros 1984
    r.2.setPart p { r.2.part p with dump := some (head ++ r.1) }

/-! ### End of a partition reset (R506, R507) -/

/-- Stores of a partition's cores still on their way when it stops: each is applied or discarded with a record, an open choice
(R507, R508).
[DESIGN CHOICE, log entry 84: safe] -/
def State.drainStores (s : State) (c : Nat) : State :=
  let ws := (s.core c).stores
  ws.foldl (fun (st : State) (w : Store) =>
    if st.draw % 2 = 0 then st.drew.logEv 508 w.addr
    else
      match st.drew.landStore w with
      | some s1 => s1
      | none => st.drew.logEv 508 w.addr) (s.modCore c fun k => { k with stores := [] })

/-- A core in a partition reset: a core reset, and what the partition loses with it (R504, R507). Which function launched it
last is kept, since messages from the hold area wait for that function's next launch (R92, R508). -/
def State.loseCore (s : State) (c : Nat) : State :=
  (s.coreReset c).modCore c fun k => { k with
    spad := [], spadBad := [], rxq := [], overflow := [], spill := [], ringHead := 0, lost := false, retained := [], journal := [],
    held := [], deads := [], epoch := 0, wipe := false }

/-- Copies of a partition's lines elsewhere are invalidated (R238, R506). -/
def State.dropCopies (s : State) (p : Nat) : State :=
  s.bays.foldl (fun (st : State) (e : Nat × Bay) =>
    if partOfCluster e.1 = p then st
    else (e.2.lines.filter fun l => !isRemoteLine l.line && partOfOff l.line == p).foldl (fun (a : State) (l : Line) => a.dropLine e.1 l) st) s

/-- The reset of a partition's domain: cores, bays, controllers and near-bank engines, whose step in flight finishes first; the stacks
go through self-refresh; what its stream slots were waiting for is dropped (R256, R267, R303, R325, R502, R504, R507). -/
def State.losePart (s : State) (p : Nat) : State :=
  let s1 := (coresOfPart p).foldl (fun (st : State) (c : Nat) => st.loseCore c) s
  let s2 := (clustersOfPart p).foldl (fun (st : State) (n : Nat) => st.clearBay n) s1
  let s3 := s2.dropCopies p
  let st := 2 * p
  let s4 := (s3.nbFinish st).1
  let s4 := s4.setNb st (s4.nb st).clear
  let s5 := if s4.cfld (offNb st) 0 3 = 2 ∨ s4.cfld (offNb st) 0 3 = 3 ∨ s4.cfld (offNb st) 0 3 = 5 then s4.setCfld (offNb st) 0 3 1 else s4
  let s6 := (s5.restPart p 2).restPart p 0
  let s6 := (s6.waits.filter fun x => !waiterOutside p x.waiter).foldl (fun (a : State) (x : Wait) =>
    a.droppedBytes x.waiter (match x.back with
      | some d => d.1.length
      | none => 128)) s6
  let s7 := (s6.groupsOn p).foldl (fun (a : State) (g : Nat) => a.groupSettle g) s6
  { s7 with
    waits := s7.waits.filter fun x => waiterOutside p x.waiter
    vis := s7.vis.filter fun v => partOfCluster v.bay != p && partOf v.core != p
    dues := s7.dues.filter fun d => match d with
      | .core c => partOf c != p
      | .cluster n => partOfCluster n != p
      | .dark g _ => partOfCluster ((clustersOfRegion g).headD 0) != p }

/-- The completions of the runs that a reset of p cancelled (R506).
[DEDUCED, log entry 85: unsafe] -/
def State.endCancelled (s : State) (p : Nat) : State :=
  (s.runs.filter fun r => s.runUses r p && decide (r.st = .stopped)).foldl (fun (st : State) (r0 : Run) =>
    match st.run r0.id with
    | some r =>
      let other := (st.pparts r.mask).any fun q => q != p && (st.part q).resetting
      if r.st ≠ .stopped ∨ st.unresolved r.id ∨ other then st else st.endRun r (r.status.getD stReset) []
    | none => st) s

/-- PIN ranges of a partition are filled and pinned again (R506). -/
def State.refillPins (s : State) (p : Nat) : State :=
  (s.fns.flatMap fun (e : Nat × Fn) => e.2.pins).foldl (fun (st : State) (r : PinRange) =>
    r.lines.foldl (fun (a : State) (x : ChPinned) =>
      if isRemoteLine x.line || partOfOff x.line != p then a
      else
        let h := a.homeBay x.line
        if ((a.bay h).find x.line).isSome then a else (a.pinFill h x.line r.cls).1) st) s

/-- Messages held at doors that are open again are delivered in arrival order, once the partition that holds them is open too
(R508). -/
def State.releaseHolds (s : State) : State :=
  (List.range 8).foldl (fun (st : State) (q : Nat) =>
    let x := st.part q
    if x.door ≠ .open_ ∨ x.hold.isEmpty ∨ (st.part (x.area - 1)).door ≠ .open_ then st
    else
      x.hold.foldl (fun (a : State) (m : Msg) =>
        match a.placed m.dstVcore with
        | some c => if a.img.image.isSome then a.receive c m else a.msgError m
        | none => a.msgError m) (st.setPart q { x with hold := [], area := 0 })) s

/-- Cores, clusters and near-bank units that the reset's own tests found bad are retired with SOURCE bit 2 (R445, R506). -/
def State.resetFindings (s : State) (p : Nat) (fs : List Finding) : State :=
  let s1 := (s.retireUnits p fs 2).1
  (fs.filter fun f => f.kind == 8 && f.number == 2 * p).foldl (fun (st : State) (f : Finding) =>
    (st.addDefect 8 f.number f.detail 2).nbDisable f.number) s1

/-- PARTITION_RESET_DONE (R303, R340, R401, R506, R507, R508): the steps of the sequence from the stop of the pane on. A reset
whose command ended with TIMEOUT does not come back (R401). -/
def partitionResetDone (p : Nat) (failures : List Finding) (s : State) : State :=
  let x := s.part p
  if !x.resetting || decide (x.door ≠ .absorbing) || (x.resetCmd != 0 && (s.cmd (x.resetCmd - 1)).isNone) then s
  else
    let before := s.lcores p
    let s1 := (s.groupsOn p).foldl (fun (st : State) (g : Nat) => st.abortDone g) s
    let s2 := ((coresOfPart p).foldl (fun (st : State) (c : Nat) => st.drainStores c) s1).dumpPart p
    let s3 := (s2.flushPart p).endCancelled p
    let s4 := (s3.losePart p).resetFindings p failures
    let s5 := s4.setPart p { s4.part p with door := .open_, resetting := false, resetCmd := 0, area := if x.hold.isEmpty then 0 else x.area }
    let s6 := ((s5.refillPins p).setAuto p 0).releaseHolds
    if x.resetCmd = 0 then s6 else s6.finish (x.resetCmd - 1) (if s6.lcores p < before then stDegraded else stOk)

/-- PARTITION_RESET_DONE (R506). -/
def execPartitionResetDone (p : Nat) (failures : List Finding) (s : State) : Out := onUnit (Unit.part p) (partitionResetDone p failures s)

/-- RESET_PARTITION (R401, R506). -/
def execResetPartition (cmd : Nat) (s : State) : Out :=
  onCmd cmd 0x52 s fun c =>
    if c.started then s
    else
      let p := c.at_ 0x10 1
      s.checked c (c.unused [(0x10, 2)] ++ flag (decide (7 < p)) 0x10 ++ flag (decide (1 < c.at_ 0x11 1)) 0x11) (
        if (s.part p).resetting then s.finish c.id stBusy
        else if s.unusable p then s.finish c.id stDoorClosed
        else s.awakeFor [p] ((s.modCmd c.id fun x => { x with started := true }).beginReset p 1 (c.at_ 0x11 1 == 1) (c.id + 1)))

/-- COLLECT_DUMP (R403). -/
def execCollectDump (cmd : Nat) (s : State) : Out :=
  onCmd cmd 0x54 s fun c =>
    s.checked c (c.unused [(0x10, 1), (0x18, 8)] ++ flag (decide (7 < c.at_ 0x10 1)) 0x10) (
      match (s.part (c.at_ 0x10 1)).dump with
      | none => s.badState c.id
      | some d => s.complete c.id stOk (w64 d.length) (d.drop (c.at_ 0x18 8)))

/-! ### Core and cluster resets (R283, R401, R504, R505) -/

/-- Runs of a list of cores stop with CANCELLED_BY_RESET, the epochs that reach them abort first, and the cores are reset (R283,
R504, R505). -/
def State.resetCores (s : State) (cs : List Nat) : State :=
  let gs := (cs.flatMap s.groupsHolding).eraseDups
  let runs := ((cs.filterMap fun c => if (s.core c).run = 0 then none else some ((s.core c).run - 1)) ++
    gs.filterMap fun g => if (s.group g).run = 0 ∨ !liveEpoch (s.group g).st then none else some ((s.group g).run - 1)).eraseDups
  let s1 := gs.foldl (fun (st : State) (g : Nat) => st.abortGroup g 8) s
  let s2 := runs.foldl (fun (st : State) (id : Nat) => match st.run id with
    | some r => if r.st = .running ∨ r.st = .held then st.stopRunAs r 8 stReset
                else if r.st = .stopped ∧ r.abortCause = 8 then st.modRun id fun y => { y with status := some stReset } else st
    | none => st) s1
  let s3 := (List.range 32).foldl (fun (st : State) (g : Nat) =>
    if (st.group g).st = .aborting ∧ (gs.contains g ∨ runs.any fun id => (st.group g).run == id + 1) then st.abortDone g else st) s2
  cs.foldl (fun (st : State) (c : Nat) =>
    let k := st.core c
    let cause := fld (k.csrReg 0x028) 0 8
    let st1 := if cause = 0 then st else st.setPart (partOf c) ((st.part (partOf c)).logTrap
      { vcore := k.vc, pcore := c, cause := cause, fn := k.fnOf, tag := BitVec.ofNat 16 (fld (k.csrReg 0x002) 0 16),
        pc := k.csrReg 0x029, addr := k.csrReg 0x02A, uptime := st.mc.uptime })
    st1.coreReset c) s3

/-- A core or cluster reset by command, once its checks have passed (R378, R401). -/
def State.unitReset (s : State) (c : Cmd) (cs : List Nat) (after : State → State) : State :=
  if cs.any fun k => s.doorShut (partOf k) then s.finish c.id stDoorClosed
  else if s.resetWaits cs then s
  else s.awakeFor ((cs.map partOf).eraseDups) ((after (s.resetCores cs)).finish c.id stOk)

/-- RESET_CORE (R401, R504). -/
def execResetCore (cmd : Nat) (s : State) : Out :=
  onCmd cmd 0x50 s fun c =>
    match s.img.image with
    | none => s.checked c (c.unused [(0x10, 2)]) (s.badState c.id)
    | some im =>
      let v := c.at_ 0x10 2
      s.checked c (c.unused [(0x10, 2)] ++ flag (decide (im.vcores ≤ v) || (s.placed v).isNone) 0x10) (
        match s.placed v with
        | some k => s.unitReset c [k] id
        | none => s)

/-- The shutters of a cluster's cores that were open close and are staged again (R466, R504). -/
def State.restage (s : State) (n : Nat) : State :=
  let cs := (List.range 17).map fun i => 17 * n + i
  let open_ := cs.filter fun c => (s.core c).shutterOpen || (s.core c).staging
  (cs.foldl (fun (st : State) (c : Nat) => st.closeShutter c) s).openShutters open_

/-- RESET_CLUSTER (R401, R504). -/
def execResetCluster (cmd : Nat) (s : State) : Out :=
  onCmd cmd 0x51 s fun c =>
    let lc := c.at_ 0x10 2
    match s.img.image with
    | none => s.checked c (c.unused [(0x10, 2)]) (s.badState c.id)
    | some _ =>
      let core := ((List.range 16).filterMap fun k => s.placed (16 * lc + k)).head?
      s.checked c (c.unused [(0x10, 2)] ++ flag (decide (1280 ≤ lc) || core.isNone) 0x10) (
        match core with
        | some k =>
          let n := clusterOf k
          s.unitReset c ((List.range 17).map fun i => 17 * n + i) fun st => st.restage n
        | none => s)

/-! ### Monitors (R510 to R512) -/

/-- A cluster reset that no command asked for: its cores, and their shutters again (R504, R505). -/
def State.clusterReset (s : State) (n : Nat) : State :=
  (s.resetCores ((List.range 17).map fun i => 17 * n + i)).restage n

/-- FABRIC_MONITOR_EXPIRY (R510): the reset waits for a CONFIRMING epoch (R283). -/
def execFabricMonitorExpiry (cluster : Nat) (s : State) : Out :=
  onUnit (Unit.cluster cluster) (
    let s1 := s.logEv 510 cluster
    if s1.resetWaits ((List.range 17).map fun i => 17 * cluster + i) then { s1 with dues := s1.dues ++ [.cluster cluster] }
    else s1.clusterReset cluster)

/-- Whether a stepped command has begun a step. -/
def Cmd.began (c : Cmd) : Bool := opStepped c.opcode && (c.started || c.steps != 0)

/-- STEP_MONITOR_EXPIRY (R510). -/
def execStepMonitorExpiry (cmd : Nat) (s : State) : Out :=
  .next (match s.cmd cmd with
    | some c => if !c.began || !s.mayBegin c then s else if c.opcode = 0x52 then s.finish c.id stTimeout else s.stopCmd c stTimeout
    | none => s)

/-- DOOR_PROGRESS_MONITOR (R511): the time of a wake or of a reset does not count. -/
def execDoorProgressMonitor (p channel : Nat) (inbound partitionHolds : Bool) (s : State) : Out :=
  onUnit (Unit.part p && decide (channel < 4)) (
    if (s.part p).resetting || s.cfld (offPwr p) 8 4 == 3 || s.unusable p then s
    else if partitionHolds then s.beginReset p 2 false 0
    else (s.logEv 511 (p * 8 + channel * 2 + (if inbound then 0 else 1))).alert 2)

/-- HEARTBEAT_MISS (R512): the third in a row restarts the controller and resets its partition.
[DESIGN CHOICE, log entry 118: safe] -/
def execHeartbeatMiss (p : Nat) (s : State) : Out :=
  onUnit (Unit.part p) (
    let x := s.part p
    if s.unusable p || x.resetting then s
    else if x.misses < 2 then s.setPart p { x with misses := x.misses + 1 }
    else s.beginReset p 3 false 0)

/-- The module controller restarts (R512, R547): shared-state commands go on, other stepped commands that have begun and every
queued attestation end with TIMEOUT. -/
def State.mcRestart (s : State) : State :=
  let s0 : State := { s with parts := s.parts.map fun (e : Nat × Part) => (e.1, { e.2 with resetCmd := 0 })
                             sec := { s.sec with attq := [], signing := none } }
  let s1 := s0.keyhole
  (s.cmds.filter fun c => !opShared c.opcode && (c.began || c.opcode == 0x70)).foldl (fun (st : State) (c : Cmd) =>
    match st.cmd c.id with
    | some x => if x.opcode = 0x70 ∧ !s.sec.attq.any (fun a => a.cmd == x.id + 1) ∧ !s.sec.signing.any (fun a => a.cmd == x.id + 1) then st
                else st.stopCmd x stTimeout
    | none => st) s1

/-- MC_WATCHDOG_EXPIRY (R512). -/
def execMcWatchdogExpiry (s : State) : Out := .next ((s.mcRestart).logEv 512 0)

end Sys2Proof.Machine
end

