-- ==== Sys2Proof/Machine/PowerStates.lean ====
section
/-! DEFINITION. The power states OPEN, AJAR, SHUT and BOLTED: entries, refusers, wakes and the autonomous policy (R399, R400,
R469 to R481). -/

namespace Sys2Proof.Machine
open Sys2Proof

/-- STATE of a partition (R481). -/
def State.pstate (s : State) (p : Nat) : Nat := s.cfld (offPwr p) 0 2

/-- TRANSITION of a partition (R481): 1 entering AJAR, 2 entering SHUT, 3 waking. -/
def State.ptrans (s : State) (p : Nat) : Nat := s.cfld (offPwr p) 8 4

/-- Sideband inputs are ignored, and logged, while VIOB is lost (R454). -/
def State.sideband (s eff : State) : State := if s.power.viob then eff else s.logEv 454 7

/-! ### Thermal nodes of a partition (R482) -/

/-- Power regions, over the module, that a sill node covers (R482). -/
def sillRegions (i : Nat) : List Nat :=
  let t := i / 42
  let r := i % 42 / 6 * 2
  let c := i % 6 * 2
  [0, 1].flatMap fun dr => [0, 1].map fun dc => 168 * t + (r + dr) * 12 + c + dc

/-- The physical partition that a thermal node belongs to: a pane region's, that of the first region above a sill node, a stack's;
8 for the other nodes. -/
def nodePart (n : Nat) : Nat :=
  if n < 336 then partOfCluster ((clustersOfRegion n).headD 0)
  else if n < 420 then partOfCluster ((clustersOfRegion ((sillRegions (n - 336)).headD 0)).headD 0)
  else if n < 500 then (n - 420) / 10
  else 8

/-! ### Refusers (R474) -/

/-- Code 0x01: a run in flight that uses the partition, or taken and waiting to start. -/
def State.refRun (s : State) (p : Nat) : Bool :=
  s.runs.any (fun r => s.runUses r p && decide (r.st ≠ .held)) ||
  s.cmds.any fun c => (c.opcode == 0x20 || c.opcode == 0x21) && !c.started && (match s.phase (c.at_ 0x10 1) with
    | some ph => (s.pparts ph.partMask).contains p
    | none => false)

/-- Code 0x02: a speculation group OPEN, HELD, CONFIRMING or ABORTING. -/
def State.refSpec (s : State) (p : Nat) : Bool :=
  (s.groupsOn p).any fun g => liveEpoch (s.group g).st || decide ((s.group g).st = .confirming) || decide ((s.group g).st = .aborting)

/-- Code 0x03: a near-bank sequence running or a kick queued. -/
def State.refNearBank (s : State) (p : Nat) : Bool :=
  (s.nb (2 * p)).cur.isSome ||
  (match s.lpartOn p with
   | some j => (match s.thinRun j with
     | some r => (s.proxyCores r).any fun c => partOf c == p && !(s.core c).rxq.isEmpty
     | none => false)
   | none => false)

/-- Code 0x04: a COPY, FILL, SCRUB or PIN in flight that touches the partition's HBM range. -/
def State.refDma (s : State) (p : Nat) : Bool :=
  s.cmds.any fun c => match c.opcode with
    | 0x30 => (s.moveParts c).contains p
    | 0x31 => (s.moveParts c).contains p
    | 0x32 => (partsOf [(c.at_ 0x18 8, c.at_ 0x20 8)]).contains p
    | 0x33 => (partsOf [((s.pinRange c).2.2.1, (s.pinRange c).2.2.2)]).contains p
    | _ => false

/-- Code 0x05: a shared-state command, a FIELD_TEST or RECALIBRATE that uses the partition, or its reset. -/
def State.refService (s : State) (p : Nat) : Bool :=
  s.sharedOp.isSome || (s.part p).resetting ||
  s.cmds.any fun c => (c.opcode == 0x61 || c.opcode == 0x62) && unitPart (c.at_ 0x10 1) (c.at_ 0x14 4) == p

/-- Code 0x06: the hottest DRAM layer above 85 °C, or a hard limit in force in the partition. -/
def State.refThermal (s : State) (p : Nat) : Bool :=
  decide (850 < s.hottest (dramNodes (2 * p) ++ dramNodes (2 * p + 1))) ||
  s.therm.nodes.any fun (e : Nat × ThermNode) => e.2.hard && nodePart e.1 == p

/-- The code that refuses a partition's entry to a state, 1 AJAR, 2 SHUT or 3 BOLTED: a near-bank sequence is named as such, though
a run holds it too (R325); of the others, the lowest.
[DEDUCED, log entry 161: safe] -/
def State.refuser (s : State) (p target : Nat) : Option Nat :=
  if s.refNearBank p then some 3 else if s.refRun p then some 1 else if s.refSpec p then some 2 else if s.refDma p then some 4
  else if s.refService p then some 5 else if target = 2 ∧ s.refThermal p then some 6 else none

/-- Code 0x07 or 0x08 where it refuses the module's entry to SHUT or BOLTED. -/
def State.moduleRefuser (s : State) (target : Nat) : Option Nat :=
  if target = 2 ∧ !s.pcie.aspmL1 then some 7 else if s.pair.joined then some 8 else none

/-- A refusal by a partition is counted (R481). -/
def State.refused (s : State) (p code : Nat) : State := (s.setCfld (offPwr p) 16 8 code).pwrCount p (3 + code)

/-- A module-wide refusal is counted (R481). -/
def State.moduleRefused (s : State) (code : Nat) : State :=
  let o := offPwrModule + 8 * (code - 6)
  (s.setCfld offPwrModule 8 8 code).setCreg o (s.creg o + 1)

/-! ### The module's state (R471) -/

/-- PWR_MODULE.STATE follows the partitions; SHUT holds while all of them are SHUT and the module-wide units are down. -/
def State.refreshModule (s : State) : State :=
  let st := if s.usableParts.any fun p => s.pstate p == 0 then 0
    else if s.cfld offPwrModule 0 2 = 2 ∧ s.usableParts.all (fun p => s.pstate p == 2) then 2 else 1
  s.setCfld offPwrModule 0 2 st

/-- A wake in KNOCK_STATUS (R356, R476). -/
def State.recordWake (s : State) (source from_ : Nat) : State :=
  { s with pcie := { s.pcie with knock := w64 ((fld s.pcie.knock 32 32 + 1) % 2 ^ 32 * 2 ^ 32 + from_ * 16 + source) } }

/-- A retraining of a port is counted (R434). -/
def State.retrained (s : State) (i : Nat) : State := s.setCfld (offPort i) 48 16 (min 0xFFFF (s.cfld (offPort i) 48 16 + 1))

/-- A port trains again (R425, R434). -/
def State.portTrain (s : State) (i : Nat) : State := (s.setCfld (offPort i) 0 3 1).retrained i

/-- Ports in standby retrain (R432). -/
def State.portsRetrain (s : State) : State :=
  (List.range 16).foldl (fun (st : State) (i : Nat) => if st.cfld (offPort i) 0 3 = 4 then st.portTrain i else st) s

/-- The module-wide units come up again: the endpoint leaves L1 and the ports retrain (R432, R478). -/
def State.unitsUp (s : State) : State :=
  let l1 := s.cfld offPwrModule 2 1 == 1
  let s1 := (s.portsRetrain.setCfld offPwrModule 2 1 0).setCfld offPwrModule 0 2 1
  { s1 with pcie := { s1.pcie with l0 := s1.pcie.l0 || l1 } }

/-- Whether every usable partition is SHUT. -/
def State.allShut (s : State) : Bool := !s.usableParts.isEmpty && s.usableParts.all fun p => s.pstate p == 2 && s.ptrans p == 0

/-- The module-wide units go down once every partition is SHUT (R432, R473, R474): ports in service enter standby. A module-wide refuser
keeps them up, which counts as its refusal.
[DEDUCED, log entry 170: unsafe] -/
def State.unitsDown (s : State) : State :=
  if !s.allShut then s
  else
    match s.moduleRefuser 2 with
    | some code => s.moduleRefused code
    | none => (List.range 16).foldl (fun (st : State) (i : Nat) =>
        if st.cfld (offPort i) 0 3 = 2 ∨ st.cfld (offPort i) 0 3 = 3 then st.setCfld (offPort i) 0 3 4 else st) s

/-! ### Wakes (R474, R476, R479) -/

/-- A SHUT partition wakes to AJAR; one that is entering SHUT does so after its entry. -/
def State.wakeAjar (s : State) (p : Nat) : State :=
  if s.unusable p then s
  else if s.ptrans p = 0 ∧ s.pstate p = 2 then (s.setCfld (offPwr p) 8 4 3).setPart p { s.part p with wakeTo := 1 }
  else if s.ptrans p = 2 ∧ !(s.part p).wakeAfter then (s.pwrCount p 3).setPart p { s.part p with wakeAfter := true, wakeTo := 1 }
  else s

/-- An event wakes the module, with the partitions it names to OPEN: from SHUT every other usable partition goes to AJAR (R476). -/
def State.wakeModule (s : State) (source : Nat) (named : List Nat) : State :=
  let from_ := s.cfld offPwrModule 0 2
  let s1 := (s.recordWake source from_).unitsUp
  let s2 := named.foldl (fun (st : State) (p : Nat) => st.openPart p) s1
  if from_ = 2 then (s.usableParts.filter fun p => !named.contains p).foldl (fun (st : State) (p : Nat) => st.wakeAjar p) s2 else s2

/-- A SHUT partition whose hottest DRAM layer passes 85 °C returns to AJAR (R474). -/
def State.hotWake (s : State) (p : Nat) : State :=
  if !s.unusable p && s.pstate p == 2 && s.ptrans p == 0 && decide (850 < s.hottest (dramNodes (2 * p) ++ dramNodes (2 * p + 1))) then
    ((if s.cfld offPwrModule 0 2 = 2 then s.unitsUp else s).recordWake 6 2).wakeAjar p
  else s

/-! ### Entries (R470, R473) -/

/-- A POWER_STATE that waits for a partition's transition goes on; the last one completes it (R473, R479). -/
def State.powerProgress (s : State) (p : Nat) : State :=
  (s.cmds.filter fun c => c.opcode == 0x48 && c.started && c.amount.testBit p).foldl (fun (st : State) (c : Cmd) =>
    let left := c.amount - 2 ^ p
    if left = 0 then st.finish c.id stOk else st.modCmd c.id fun x => { x with amount := left }) s

/-- A wake that arrived during an entry follows it (R479). -/
def State.wakeFollows (s : State) (p : Nat) : State :=
  if (s.part p).wakeAfter then (s.setCfld (offPwr p) 8 4 3).setPart p { s.part p with wakeAfter := false } else s

/-- The clocks of a partition's clusters stop or run (R472, R473). -/
def State.gatePart (s : State) (p : Nat) (v : Bool) : State :=
  { s with mc := { s.mc with gated := (clustersOfPart p).foldl (fun g n => nset false g n v) s.mc.gated } }

/-- The end of an entry. -/
def State.entryEnd (s : State) (p st count : Nat) : State :=
  (((s.setCfld (offPwr p) 0 2 st).setCfld (offPwr p) 8 4 0).pwrCount p count).powerProgress p

/-- AJAR_ENTRY_DONE (R303, R473): the stacks are in power-down. -/
def ajarEntryDone (p : Nat) (s : State) : State :=
  if s.ptrans p ≠ 1 then s
  else (((((s.restPart p 1).gatePart p true).entryEnd p 1 0).refreshModule).wakeFollows p)

/-- AJAR_ENTRY_DONE (R473). -/
def execAjarEntryDone (p : Nat) (s : State) : Out := onUnit (Unit.part p) (ajarEntryDone p s)

/-- The number by which a save area keeps a counter of a unit family: above every control and status register. -/
def saveCtr (fam pos : Nat) : Nat := 0x10000 + fam * 256 + pos

/-- What a core writes into its save area before its shutters close (R470).
[DEDUCED, log entry 88: unsafe] -/
def State.saveArea (s : State) (c : Nat) : NMap W64 :=
  ((s.ctr.filter fun e => e.1 / 2 ^ 24 != 0 && decide (e.1 / 2 ^ 24 ≤ 4) && e.1 / 256 % 65536 == c).map fun (e : Nat × W64) =>
    (saveCtr (e.1 / 2 ^ 24) (e.1 % 256), e.2)).foldl (fun m e => nset 0 m e.1 e.2) ((s.core c).csr)

/-- A core loses its shutters for SHUT: its registers and first-level cache go (R469, R470). -/
def State.coreShut (s : State) (c : Nat) : State :=
  let n := clusterOf c
  let b := s.bay n
  (s.setBay n { b with save := nset [] b.save (c % 17) (s.saveArea c) }).modCore c fun k => { k with
    s := [], p := [], v := [], acc := [], l1 := [], icache := [], tsets := [], shutterOpen := false, staging := false }

/-- A core reloads its save area before its clock starts (R470). -/
def State.coreReload (s : State) (c : Nat) : State :=
  let m := nget [] (s.bay (clusterOf c)).save (c % 17)
  let s1 := if m.isEmpty then s else s.modCore c fun k => { k with csr := m.filter fun e => decide (e.1 < 0x10000) }
  (m.filter fun e => decide (0x10000 ≤ e.1)).foldl (fun (st : State) (e : Nat × W64) =>
    st.setCounter ((e.1 - 0x10000) / 256) c (e.1 % 256) e.2) s1

/-- The cores of a partition that State lists. -/
def State.coresIn (s : State) (p : Nat) : List Nat := (s.cores.map (·.1)).filter fun c => partOf c == p

/-- SHUT_ENTRY_DONE (R303, R469, R470, R473). -/
def shutEntryDone (p : Nat) (s : State) : State :=
  if s.ptrans p ≠ 2 then s
  else
    let s1 := s.bays.foldl (fun (st : State) (e : Nat × Bay) =>
      if partOfCluster e.1 = p then
        (e.2.lines.filter fun l => decide (l.kind ≠ .home)).foldl (fun (a : State) (l : Line) => a.dropLine e.1 l) st
      else st) s
    let s2 := (s1.coresIn p).foldl (fun (st : State) (c : Nat) => st.coreShut c) s1
    let s3 := s2.restPart p 2
    ((((s3.gatePart p true).entryEnd p 2 1).refreshModule).unitsDown).wakeFollows p

/-- SHUT_ENTRY_DONE (R473). -/
def execShutEntryDone (p : Nat) (s : State) : Out := onUnit (Unit.part p) (shutEntryDone p s)

/-- WAKE_DONE (R303, R470, R478, R481): the stacks serve in OPEN and are in power-down in AJAR. -/
def wakeDone (p : Nat) (s : State) : State :=
  if s.ptrans p ≠ 3 then s
  else
    let shut := s.pstate p == 2
    let to_ := (s.part p).wakeTo
    let s1 := if s.cfld offPwrModule 0 2 = 2 then s.unitsUp else s
    let s2 := if shut then
      ((s1.coresIn p).foldl (fun (st : State) (c : Nat) => st.coreReload c) s1).openShutters ((s1.coresIn p).filter fun c => (s1.core c).vcore != 0)
      else s1
    let s3 := ((s2.setCfld (offPwr p) 0 2 to_).setCfld (offPwr p) 8 4 0).setQuotas p
    let s4 := if to_ = 0 then ((s3.pwrCount p 2).gatePart p false).restPart p 0 else s3.restPart p to_
    (s4.powerProgress p).refreshModule

/-- WAKE_DONE (R478). -/
def execWakeDone (p : Nat) (s : State) : Out := onUnit (Unit.part p) (wakeDone p s)

/-- The commit of an entry (R473). -/
def State.beginEntry (s : State) (p target : Nat) : State :=
  (s.setCfld (offPwr p) 8 4 target).setPart p { s.part p with wakeAfter := false }

/-! ### The autonomous policy (R480) -/

/-- Whether a request waits at a partition's doors. -/
def State.requestWaits (s : State) (p : Nat) : Bool :=
  let mine (w : Store) : Bool := w.addr / 2 ^ 44 == s.moduleId && partOfOff (w.addr % 2 ^ 44) == p
  s.writes.any mine || s.cores.any (fun (e : Nat × Core) => e.2.stores.any mine) ||
  s.net.any fun m => match s.placed m.dstVcore with
    | some c => partOf c == p
    | none => false

/-- Whether a partition's idle period runs. -/
def State.idlePeriod (s : State) (p : Nat) : Bool :=
  !s.unusable p && s.ptrans p == 0 && s.stage == 6 && (s.refuser p 1).isNone && !s.requestWaits p

/-- AJAR_IDLE_EXPIRY (R480). -/
def execAjarIdleExpiry (p : Nat) (s : State) : Out :=
  onUnit (Unit.part p) (if s.idlePeriod p && s.pstate p == 0 && (s.part p).ajarIdle != 0 then s.beginEntry p 1 else s)

/-- SHUT_IDLE_EXPIRY (R474, R480): only THERMAL_HOLD refuses it then. -/
def execShutIdleExpiry (p : Nat) (s : State) : Out :=
  onUnit (Unit.part p) (
    if !(s.idlePeriod p && s.pstate p != 2 && (s.part p).shutIdle != 0) then s
    else
      match s.refuser p 2 with
      | some code => s.refused p code
      | none => s.beginEntry p 2)

/-! ### Commands -/

/-- The module leaves service for BOLTED (R475): EP_READY falls and the rails go down with the normal profile. -/
def State.toBolted (s : State) : State :=
  let s1 := s.logEv 475 0
  { s1 with power := { s1.power with epReady := false, descent := 1, after := 0 } }

/-- The refusal of a POWER_STATE (R399, R474). -/
def State.powerRefused (s : State) (c : Cmd) (p code : Nat) : State :=
  (if p = 0xFF then s.moduleRefused code else s.refused p code).complete c.id stBusy (w64 (code * 256 + p)) []

/-- The first refusal among partitions, then the module's. -/
def State.firstRefusal (s : State) (ps : List Nat) (target : Nat) (module : Bool) : Option (Nat × Nat) :=
  match ps.findSome? fun p => (s.refuser p target).map fun c => (p, c) with
  | some x => some x
  | none => if module then (s.moduleRefuser target).map fun c => (0xFF, c) else none

/-- A POWER_STATE waits for the partitions of a mask. -/
def State.awaitPower (s : State) (c : Cmd) (ps : List Nat) : State :=
  if ps.isEmpty then s.finish c.id stOk
  else s.modCmd c.id fun x => { x with started := true, amount := (ps.map fun p => 2 ^ p).sum }

/-- POWER_STATE (R399, R473 to R475, R479). -/
def powerState (s : State) (c : Cmd) : State :=
  let scope := c.at_ 0x10 1
  let mask := c.at_ 0x11 1
  let t := c.at_ 0x12 1
  if c.started then s
  else
    s.checked c (c.unused [(0x10, 3)] ++ flag (decide (1 < scope)) 0x10 ++ flag (scope == 0 && mask != 0) 0x11 ++
        flag (decide (3 < t) || (t == 3 && scope == 1)) 0x12) (
      let ps := if scope = 0 then s.usableParts else s.usableParts.filter fun p => mask.testBit p
      if ps.any fun p => s.ptrans p != 0 then s
      else
        match t with
        | 0 =>
          let l := ps.filter fun p => s.pstate p != 0
          (l.foldl (fun (st : State) (p : Nat) => st.demandWake p) s).awaitPower c l
        | 3 =>
          (match s.firstRefusal ps 3 true with
           | some x => s.powerRefused c x.1 x.2
           | none => (s.finish c.id stOk).toBolted)
        | _ =>
          let up := ps.filter fun p => decide (t < s.pstate p)
          let down := ps.filter fun p => decide (s.pstate p < t)
          match s.firstRefusal down t (decide (scope = 0) && decide (t = 2)) with
          | some x => s.powerRefused c x.1 x.2
          | none =>
            let s1 := down.foldl (fun (st : State) (p : Nat) => st.beginEntry p t) s
            (up.foldl (fun (st : State) (p : Nat) => st.wakeAjar p) s1).awaitPower c (down ++ up))

/-- POWER_STATE (R399). -/
def execPowerState (cmd : Nat) (s : State) : Out := onCmd cmd 0x48 s (powerState s)

/-- POWER_POLICY (R400). -/
def execPowerPolicy (cmd : Nat) (s : State) : Out :=
  onCmd cmd 0x49 s fun c =>
    s.checked c (c.unused [(0x10, 1), (0x14, 8)]) (
      ((maskParts (c.at_ 0x10 1)).foldl (fun (st : State) (p : Nat) =>
        st.setPart p { st.part p with ajarIdle := c.at_ 0x14 4, shutIdle := c.at_ 0x18 4 }) s).finish c.id stOk)

/-! ### The link in L1 (R471, R476) -/

/-- PCIE_LINK_L1_ENTRY (R471): every partition is SHUT and the module-wide units are down. -/
def execPcieLinkL1Entry (s : State) : Out :=
  .next (
    if s.pcie.l0 && s.cfld offPwrModule 2 1 == 0 && s.allShut && (s.moduleRefuser 2).isNone then
      let s1 := (s.setCfld offPwrModule 2 1 1).setCfld offPwrModule 0 2 2
      { s1 with pcie := { s1.pcie with l0 := false } }
    else s)

/-- PCIE_TLP_IN_L1 (R476). -/
def execPcieTlpInL1 (s : State) : Out := .next (if s.cfld offPwrModule 2 1 = 1 then s.wakeModule 1 [] else s)

end Sys2Proof.Machine
end

