-- ==== Sys2Proof/Machine/Links.lean ====
section
/-! DEFINITION. The PCI Express endpoint with its functions, the Seunon ports, and the hinge and bridge links (R214, R235, R236,
R350, R365, R370, R371, R414 to R435). -/

namespace Sys2Proof.Machine
open Sys2Proof

/-! ### Function resets (R370, R419, R420) -/

/-- The regions of a function are released (R65, R370). -/
def State.releaseRegions (s : State) (f : Nat) : State :=
  (List.range 64).foldl (fun (st : State) (i : Nat) =>
    let r := st.region f i
    match r.state with
    | 1 => st.setRegion f i { r with attr := setFld r.attr 63 1 0 }
    | 2 => if r.valid then st.setRegion f i { r with attr := setFld r.attr 63 1 0, rel := st.mc.nextCmd } else st
    | _ => st.setRegion f i {}) s

/-- The runs of a function are cancelled (R279, R370, R371); one with a CONFIRMING epoch once that is CONFIRMED (R268).
[DEDUCED, log entry 87: unsafe] -/
def State.cancelRuns (s : State) (f : Nat) : State :=
  (s.runs.filter fun r => r.fn == f && decide (r.st ≠ .ended)).foldl (fun (st : State) (r0 : Run) =>
    match st.run r0.id with
    | some r =>
      if r.st = .stopped then st
      else if st.confirmingOf r.id then st.modRun r.id fun y => { y with due := if y.due = 0 then 9 else y.due }
      else st.stopRunAs r 9 stAborted
    | none => st) s

/-- FLR of a function (R370): its commands end without a completion entry, except that those which change shared state run on. -/
def State.flr (s : State) (f : Nat) : State :=
  let silence (c : Cmd) : Cmd := if c.fn = f then { c with mute := true, dead := true, tookSlot := false } else c
  let s1 : State := { s with cmds := s.cmds.map silence }
  let s2 := s1.cancelRuns f
  let gone (c : Cmd) : Bool := c.fn == f && !opShared c.opcode && !s2.runs.any fun r => r.cmd == c.id && decide (r.st ≠ .ended)
  let s3 := (s2.cmds.filter gone).foldl (fun (st : State) (c : Cmd) => (st.partialEffect c).dropCmd c.id) s2
  let s4 : State := { s3 with sec := { s3.sec with attq := s3.sec.attq.filter fun a => a.cmd == 0 || s3.cmds.any fun c => c.id + 1 == a.cmd } }
  let x := s4.fn f
  (s4.releaseRegions f).setFn f { enabled := x.enabled, refused := x.refused }

/-- FLR (R370): one of PF0 also disables every VF. -/
def State.flrAll (s : State) : State :=
  let s1 := ((List.range 16).filter fun f => f != 0 && (s.fn f).enabled).foldl (fun (st : State) (f : Nat) =>
    (st.flr f).modFn f fun x => { x with enabled := false }) (s.flr 0)
  { s1 with pcie := { s1.pcie with vfs := 0 } }

/-- FLR (R370). -/
def execFlr (f : Nat) (s : State) : Out :=
  onUnit (Unit.fn f) (if !s.hostReaches f && !(s.fn f).d3 then s else if f = 0 then s.flrAll else s.flr f)

/-- VF_ENABLE (R417): NumVFs beyond the limits leaves every VF disabled. -/
def execVfEnable (n : Nat) (s : State) : Out :=
  .next (
    if !s.pcie.l0 || s.pcie.vfs != 0 || decide (15 < n) || (!s.pcie.ari && decide (7 < n)) then s
    else
      let s1 := (List.range n).foldl (fun (st : State) (i : Nat) => st.modFn (i + 1) fun x => { x with enabled := true }) s
      { s1 with pcie := { s1.pcie with vfs := n } })

/-- VF_DISABLE (R370). -/
def execVfDisable (f : Nat) (s : State) : Out :=
  onUnit (Unit.fn f) (
    if f = 0 ∨ !(s.fn f).enabled then s
    else
      let s1 := (s.flr f).modFn f fun x => { x with enabled := false }
      if (List.range 16).any fun i => i != 0 && (s1.fn i).enabled then s1 else { s1 with pcie := { s1.pcie with vfs := 0 } })

/-- BUS_MASTER_ENABLE_CLEAR (R371): every command in flight stops with ABORTED; its completion is held. -/
def busMasterClear (f : Nat) (s : State) : State :=
  if !(s.fn f).bme then s
  else
    let s1 := (s.modFn f fun x => { x with bme := false }).cancelRuns f
    (s1.cmds.filter fun c => c.fn == f && !c.mute && !s1.runs.any fun r => r.cmd == c.id && decide (r.st ≠ .ended)).foldl
      (fun (st : State) (c : Cmd) => st.stopCmd c stAborted) s1

/-- BUS_MASTER_ENABLE_CLEAR (R371). -/
def execBusMasterEnableClear (f : Nat) (s : State) : Out := onUnit (Unit.fn f) (busMasterClear f s)

/-- BUS_MASTER_ENABLE_SET (R371): held result bytes first, then held entries, the event that ends HELD, and the pending
interrupts (R365). -/
def busMasterSet (f : Nat) (s : State) : State :=
  if (s.fn f).bme then s
  else
    let x := s.fn f
    let s1 := s.modFn f fun y => { y with bme := true, held := false, heldBytes := [], heldComps := [] }
    let s2 := x.heldBytes.foldl (fun (st : State) (h : Nat × List Byte) => st.hostWrite h.1 h.2) s1
    let s3 := x.heldComps.foldl (fun (st : State) (c : Comp) => st.writeComp f c) s2
    let s4 := if x.held then s3.event f else s3
    ((List.range 64).foldl (fun (st : State) (v : Nat) => st.sendPending f v) s4).settle f

/-- BUS_MASTER_ENABLE_SET (R371). -/
def execBusMasterEnableSet (f : Nat) (s : State) : Out := onUnit (Unit.fn f) (if s.hostReaches f then busMasterSet f s else s)

/-- D3HOT_ENTRY (R419). -/
def execD3hotEntry (f : Nat) (s : State) : Out :=
  onUnit (Unit.fn f) (if s.hostReaches f then (s.lbDisable f).modFn f fun x => { x with d3 := true } else s)

/-- D3HOT_EXIT (R419). -/
def execD3hotExit (f : Nat) (s : State) : Out := onUnit (Unit.fn f) (s.modFn f fun x => { x with d3 := false })

/-- PCIE_FUNDAMENTAL_RESET (R420, R421): PERST_N once EP_READY is deasserted, else a Hot Reset or a link down, from which the
endpoint trains again. -/
def execPcieFundamentalReset (s : State) : Out :=
  .next (
    let s1 := s.flrAll
    { s1 with pcie := { s1.pcie with l0 := false, training := s.power.epReady }, power := { s1.power with perst := !s.power.epReady } })

/-- PERST_N_RELEASE (R421). -/
def execPerstNRelease (s : State) : Out :=
  .next (s.sideband (if s.power.epReady && s.power.perst then
      { s with power := { s.power with perst := false }, pcie := { s.pcie with training := true } } else s))

/-- PCIE_LINK_L0 (R421): PF0 answers configuration requests. -/
def execPcieLinkL0 (s : State) : Out :=
  .next (if s.power.epReady && !s.power.perst && s.pcie.training then
      { s with pcie := { s.pcie with l0 := true, training := false } }.modFn 0 fun x => { x with enabled := true } else s)

/-! ### Knocks (R423, R432) -/

/-- PCIE_KNOCK (R423): any other vendor, code or a reserved bit is discarded. -/
def execPcieKnock (vendor : Nat) (hdr : W32) (s : State) : Out :=
  .next (
    let h := hdr.toNat
    let named := (maskParts (h % 256)).filter fun p => !s.unusable p
    if vendor ≠ Config.vendorId ∨ h / 65536 ≠ 0x4B4E ∨ h / 256 % 256 ≠ 0 ∨ s.stage ≠ 6 ∨ !(s.pcie.l0 || s.cfld offPwrModule 2 1 == 1) then s
    else if s.cfld offPwrModule 0 2 = 0 then named.foldl (fun (st : State) (p : Nat) => st.openPart p) s
    else s.wakeModule 2 named)

/-- A port in standby hears its peer (R432). -/
def State.standbyWake (s : State) (port source : Nat) : State :=
  if s.cfld (offPort port) 0 3 = 4 then s.wakeModule source [] else s

/-- SEUNON_KNOCK (R432). -/
def execSeunonKnock (port : Nat) (s : State) : Out := onUnit (Unit.port port) (s.standbyWake port 3)

/-- SEUNON_STANDBY_TRAFFIC (R432). -/
def execSeunonStandbyTraffic (port : Nat) (s : State) : Out := onUnit (Unit.port port) (s.standbyWake port 4)

/-! ### Seunon ports (R425, R426, R430, R431) -/

/-- Counter k of a port (R435): 1 SN_TX_FLITS to 6 SN_REFUSED. -/
def State.portCount (s : State) (i k n : Nat) : State :=
  s.setCreg (offPort i + 8 * k) (sat64 ((s.creg (offPort i + 8 * k)).toNat + n))

/-- Key of a port among the links: hinge and bridge links are 0 to 83. -/
def linkOfPort (i : Nat) : Nat := 100 + i

/-- A link. -/
def State.link (s : State) (i : Nat) : Link := nget {} s.links i

/-- Sets a link. -/
def State.setLink (s : State) (i : Nat) (x : Link) : State := { s with links := nset {} s.links i x }

/-- The state that training gives a port by the lanes that lock (R424, R426): ×4, ×2 with its half, or down. -/
def portWidth (good : BitVec 4) : Nat × Nat :=
  if good = 0xF then (2, 0) else if good &&& 3 = 3 then (3, 0) else if good &&& 0xC = 0xC then (3, 1) else (0, 0)

/-- SEUNON_TRAINING_DONE (R426, R433, R441): lanes in service that do not lock are logged. -/
def seunonTrainingDone (i : Nat) (r : TrainResult) (s : State) : State :=
  if s.cfld (offPort i) 0 3 ≠ 1 then s
  else
    let usable := ~~~(BitVec.ofNat 4 (s.cfld (offPort i) 8 4))
    let good := r.lanes &&& usable
    let w := portWidth good
    if !r.peerPresent || w.1 == 0 then (s.setCfld (offPort i) 0 3 0).logEv 441 i
    else
      let s0 := if good = usable then s else s.logEv 441 i
      let s1 := (s0.setCfld (offPort i) 32 12 r.peerId).setCfld (offPort i) 4 1 w.2
      if r.peerDomain ≠ s.cfld offSeunonId 16 32 ∨ r.peerId = s.moduleId then s1.setCfld (offPort i) 0 3 5
      else s1.setCfld (offPort i) 0 3 (if s.pair.joined ∧ 14 ≤ i then 7 else w.1)

/-- SEUNON_TRAINING_DONE (R426). -/
def execSeunonTrainingDone (port : Nat) (r : TrainResult) (s : State) : Out := onUnit (Unit.port port) (seunonTrainingDone port r s)

/-- What waited on a port that went down: reads that no port can carry return poisoned (R431). -/
def State.flowsMove (s : State) : State :=
  let gone (ln : Nat) : Bool := isRemoteLine ln && !s.reachable ((ln - 2 ^ 56) / 2 ^ 44)
  let back (x : Wait) : Wait := if gone x.addr ∧ x.back = none then { x with back := some (zeros 128, true) } else x
  { s with waits := s.waits.map back }

/-- Whether a module lies beyond a port's link: its peer, or a module whose route names the port (R428). -/
def State.beyond (s : State) (i m : Nat) : Bool :=
  s.cfld (offPort i) 32 12 == m || (s.cfld (offRoute m) 16 1 == 1 && bitsN (s.cfld (offRoute m) 0 16) i 1 == 1)

/-- A link goes down (R236, R431): the modules beyond it leave the record of every line, this module drops all of its remote lines, and
what waited moves to other ports. -/
def State.linkLost (s : State) (i : Nat) : State :=
  let s1 := s.bays.foldl (fun (st : State) (e : Nat × Bay) =>
    (e.2.lines.filter fun l => decide (l.kind = .remote)).foldl (fun (a : State) (l : Line) => a.dropLine e.1 l) st) s
  let bay (e : Nat × Bay) : Nat × Bay := (e.1, { e.2 with lines := e.2.lines.map fun l =>
    { l with modules := l.modules.filter fun m => !s.beyond i m } })
  ({ s1 with bays := s1.bays.map bay }).flowsMove

/-- A port leaves service (R431). -/
def State.portDown (s : State) (i : Nat) : State := ((s.setCfld (offPort i) 0 3 0).logEv 431 i).linkLost i

/-- Whether a port carries traffic. -/
def State.portLive (s : State) (i : Nat) : Bool := s.cfld (offPort i) 0 3 == 2 || s.cfld (offPort i) 0 3 == 3 || s.cfld (offPort i) 0 3 == 7

/-- SEUNON_PORT_DOWN (R431). -/
def execSeunonPortDown (port : Nat) (s : State) : Out := onUnit (Unit.port port) (if s.portLive port then s.portDown port else s)

/-- One more retry of a link (R214, R425): whether it retrains, and whether it has failed its third retraining. The 1 ms and 1 s
windows are time, which the model does not keep: whether earlier counts still stand is open.
[DESIGN CHOICE, log entry 86: safe] -/
def Link.retry (x : Link) (d : Nat) (trained : Bool) : Link × Bool × Bool :=
  let n := (if d % 2 = 0 then x.retries else 0) + 1
  if n ≤ 16 then ({ x with retries := n }, false, false)
  else if trained then ({ x with retries := 0 }, true, false)
  else
    let fails := (if d / 2 % 2 = 0 then x.retrainFails else 0) + 1
    if fails < 3 then ({ x with retries := 0, retrainFails := fails }, true, false)
    else ({ x with retries := 0, retrainFails := 0, retired := true }, true, true)

/-- SEUNON_FLIT_ERROR (R425): replays, retraining, and down until RECALIBRATE or module reset. -/
def seunonFlitError (i : Nat) (trained : Bool) (s : State) : State :=
  if !s.portLive i then s
  else
    let r := (s.link (linkOfPort i)).retry s.draw trained
    let s1 := ((s.drew.portCount i 4 1).setLink (linkOfPort i) r.1)
    if r.2.2 then (s1.retrained i).portDown i
    else if r.2.1 then (if trained then s1.retrained i else (s1.portTrain i).linkLost i)
    else s1

/-- SEUNON_FLIT_ERROR (R425). -/
def execSeunonFlitError (port : Nat) (trained : Bool) (s : State) : Out := onUnit (Unit.port port) (seunonFlitError port trained s)

/-- HINGE_BRIDGE_FLIT_ERROR (R214): hinge link tower × 28 + row, bridge link 56 + row, counted in the tower's counters, those of
the bridge in tower 0's. -/
def hingeBridgeFlitError (i : Nat) (trained : Bool) (s : State) : State :=
  if (s.link i).retired then s
  else
    let unit := 1344 + (if i < 56 then i / 28 else 0)
    let place := if i < 56 then 0 else 1
    let r := (s.link i).retry s.draw trained
    let s1 := (s.drew.bump 0x10 unit (14 + place) 1).setLink i r.1
    if r.2.2 then (s1.bump 0x10 unit (16 + place) 1).logEv 214 i else s1

/-- HINGE_BRIDGE_FLIT_ERROR (R214). -/
def execHingeBridgeFlitError (link : Nat) (trained : Bool) (s : State) : Out :=
  onUnit (decide (link < 84)) (hingeBridgeFlitError link trained s)

/-- Whether a remote request is served (R430). -/
def State.remoteMay (s : State) (r : RemoteReq) : Bool :=
  decide (r.off + r.len ≤ hbmEnd) && s.backed r.off && s.backed (r.off + r.len - 1) &&
  (s.fence r.fn s.mc.nextCmd r.off r.len r.data.isSome ||
   (r.data.isNone && (s.tensorAt r.off r.len).any fun t => t.kind == 0))

/-- The home bay's record of the modules that hold copies of a line: 4 at most; a read from a fifth is served without being
recorded, and counted (R235). -/
def State.recordCopy (s : State) (bay ln m : Nat) : State :=
  match (s.bay bay).find ln with
  | none => s
  | some l =>
    if l.modules.contains m then s
    else if 4 ≤ l.modules.length then s.sill bay sillRemoteUncached 1
    else s.setBay bay ((s.bay bay).modLine ln fun x => { x with modules := x.modules ++ [m] })

/-- A read for another module: the home bay serves it and records the copy (R235). -/
def State.remoteRead (s : State) (r : RemoteReq) : State :=
  let s1 := (blocksOf 128 r.off r.len).foldl (fun (st : State) (ln : Nat) =>
    (st.touchHome ln r.cls).recordCopy (st.homeBay ln) ln r.requester) s
  (s1.passedLine r.off r.len).answerRead (s.memRead r.off r.len) (s.rangePoison r.off r.len)

/-- A request for another module (R17, R428): forwarded where a port reaches it, else refused. How many flits it takes is open.
[DESIGN CHOICE, log entry 168: safe] -/
def State.forward (s : State) (i : Nat) (r : RemoteReq) : State :=
  if s.reachable r.target then s.drew.portCount i 5 (1 + s.draw % (r.len + 1))
  else
    match r.data with
    | some _ => s.logEv 17 r.off
    | none => (s.logEv 17 r.off).answerRead (zeros r.len) false

/-- SEUNON_REMOTE_REQUEST (R17, R61, R225, R428, R430, R499): served, refused, or forwarded; a read for which a home bay has no miss
entry waits.
[DESIGN CHOICE, log entry 126: safe] -/
def seunonRemoteRequest (i : Nat) (r : RemoteReq) (s : State) : State :=
  if s.cfld (offPort i) 0 3 ≠ 2 ∧ s.cfld (offPort i) 0 3 ≠ 3 then s
  else if r.target ≠ s.moduleId then s.forward i r
  else if r.len = 0 then s
  else if !s.remoteMay r then
    let s0 := (s.portCount i 6 1).refuse r.fn
    let s1 := if s.backed r.off && s.backed (r.off + r.len - 1) then s0 else s0.logEv 17 r.off
    (match r.data with
     | some _ => s1.logEv 61 r.fn
     | none => s1.answerRead (zeros r.len) false)
  else if s.doorAt r.off then
    (match r.data with
     | some _ => s.logEv 508 r.off
     | none => s.answerRead (zeros r.len) true)
  else if s.asleep (partOfOff r.off) then s.demandWake (partOfOff r.off)
  else
    match r.data with
    | none => if (blocksOf 128 r.off r.len).any s.homeBusy then s else s.remoteRead r
    | some bs =>
      let w : Store := { addr := s.moduleId * 2 ^ 44 + r.off, bytes := padTo r.len bs, cls := r.cls, fn := r.fn, epoch := 0, core := 0 }
      { s with writes := s.writes ++ [w] }

/-- SEUNON_REMOTE_REQUEST (R430). -/
def execSeunonRemoteRequest (port : Nat) (r : RemoteReq) (s : State) : Out :=
  onUnit (Unit.port port && Unit.fn r.fn) (if 8 ≤ r.cls then s else seunonRemoteRequest port r s)

end Sys2Proof.Machine
end

