-- ==== Sys2Proof/Machine/Power.lean ====
section
/-! DEFINITION. Power delivery: regulator cells and their tiers, the region limiters, the tower governor with its boosts, and the
bus converters (R459 to R465, R468, R487). -/

namespace Sys2Proof.Machine
open Sys2Proof

/-! ### The limit of a region (R462, R487) -/

/-- Region cap in 0.1 A of a tier (R460). -/
def tierCap : Nat → Nat
  | 0 => 200
  | 1 => 140
  | 2 => 100
  | _ => 0

/-- The tier that a number of failed cells gives (R460). -/
def tierOf (failed : Nat) : Nat := min failed 3

/-- TIER of a region. -/
def State.tier (s : State) (g : Nat) : Nat := s.cfld (offRegionPwr g) 8 2

/-- The sill node above which a region lies (R482). -/
def sillNode (g : Nat) : Nat := 336 + g / 168 * 42 + g % 168 / 12 / 2 * 6 + g % 12 / 2

/-- A region's share of its tower's cap, in 0.1 A (R463). -/
def State.share (s : State) (g : Nat) : Nat := nget 200 s.power.shares g

/-- The limit of a region: the lowest of its cap, its share and its thermal limit (R462, R487). -/
def State.limitOf (s : State) (g : Nat) : Nat := min (min (tierCap (s.tier g)) (s.share g)) (s.tnode g).limit

/-- LIMIT follows what it is made of. -/
def State.refreshLimit (s : State) (g : Nat) : State := s.setCfld (offRegionPwr g) 24 8 (s.limitOf g)

/-! ### Cells (R459 to R461) -/

/-- Whether a cell is judged failed (R460). -/
def cellFails (r : CellReading) : Bool := r.low || r.broken || decide (r.efficiency < 85)

/-- The number of failed cells in a mask of four. -/
def cellCount (m : Nat) : Nat := ((List.range 4).filter fun k => m.testBit k).length

/-- The cores of a region. -/
def coresOfRegion (g : Nat) : List Nat := (clustersOfRegion g).flatMap fun n => (List.range 17).map fun i => 17 * n + i

/-- Whether a launched run uses the logical partition on a physical one: its drain point is not yet there (R517). -/
def State.lpartBusy (s : State) (p : Nat) : Bool :=
  s.runs.any fun r => s.runUses r p && decide (r.st ≠ .waiting)

/-- Work for the drain points of a partition (R517); done at once where no logical partition stands there. -/
def State.addJob (s : State) (j : Job) : State := { s with mc := { s.mc with jobs := s.mc.jobs ++ [j] } }

/-- A region goes dark (R461): its shutters close, its cores lose their state as by a cluster reset, and its clusters are
retired; virtual cores move at once unless a run still holds the logical partition. -/
def State.darken (s : State) (g src : Nat) : State :=
  let p := partOfCluster ((clustersOfRegion g).headD 0)
  let s1 := (coresOfRegion g).foldl (fun (st : State) (c : Nat) => st.closeShutter c) s
  let s2 := (s1.setCfld (offRegionPwr g) 0 5 0).resetCores (coresOfRegion g)
  let f : Finding := { kind := 4, number := g, detail := 0 }
  if s2.lpartBusy p then (s2.addDefect 4 g 0 src).addJob { kind := 4, number := g, cmd := 0, act := 0, found := [f] }
  else (s2.retireUnits p [f] src).1

/-- The same, once no epoch that reaches its cores is CONFIRMING (R283). -/
def State.darkenSoon (s : State) (g src : Nat) : State :=
  if s.resetWaits (coresOfRegion g) then { s with dues := s.dues ++ [.dark g src] } else s.darken g src

/-- The cores that a reset takes. -/
def Due.cores : Due → List Nat
  | .core c => [c]
  | .cluster n => (List.range 17).map fun i => 17 * n + i
  | .dark g _ => coresOfRegion g

/-- A reset that waited for a confirmation begins. -/
def State.doDue (s : State) : Due → State
  | .core c => s.coreReset c
  | .cluster n => s.clusterReset n
  | .dark g src => s.darken g src

/-- The resets that no longer wait (R268, R283). -/
def State.runDues (s : State) : State :=
  s.dues.foldl (fun st d => if st.resetWaits d.cores then st else ({ st with dues := st.dues.erase d }).doDue d) s

/-- SPEC_CONFIRMED (R268, R274, R283): every step of the confirmation is acknowledged, and what waited for it takes effect.
[DESIGN CHOICE, log entry 45: safe] -/
def execSpecConfirmed (lpart group : Nat) (s : State) : Out :=
  onUnit (Unit.part lpart && Unit.specGroup group) (s.confirmDone (4 * lpart + group) s.fnMayWrite).runDues

/-- What a region's tier brings beyond its cap (R460, R461).
[DEDUCED, log entry 90: unsafe] -/
def State.tierActs (s : State) (g old src : Nat) : State :=
  let t := s.tier g
  if t = old ∨ t < 2 then s
  else if t = 3 then s.darkenSoon g src
  else
    let s1 := s.addDefect 4 g 0 src
    if (s1.lpartOn (partOfCluster ((clustersOfRegion g).headD 0))).isSome then
      s1.addJob { kind := 4, number := g, cmd := 0, act := 3, found := [] }
    else s1

/-- Cells of a region failed: turned off, counted, and the region's tier and limit follow at once (R460, R461). -/
def State.cellsFail (s : State) (g new src : Nat) : State :=
  let o := offRegionPwr g
  let old := s.tier g
  let mask := s.cfld o 16 4 ||| new
  let n := cellCount mask - cellCount (s.cfld o 16 4)
  if n = 0 then s
  else
    let s1 := ((s.setCfld o 16 4 mask).setCfld o 8 2 (tierOf (cellCount mask))).pwrRegCount g 4 n
    let s2 := if s1.cfld o 0 4 = 0 then s1 else
      { s1 with power := { s1.power with slowRest := nset false s1.power.slowRest g true } }
    (s2.refreshLimit g).tierActs g old src

/-- CELL_TELEMETRY_SAMPLE (R460, R461). -/
def cellTelemetrySample (g : Nat) (cells : List CellReading) (s : State) : State :=
  if !s.power.rails || s.tier g == 3 then s
  else s.cellsFail g (((List.range 4).filter fun k => (cells[k]?).any cellFails).map fun k => 2 ^ k).sum 2

/-- CELL_TELEMETRY_SAMPLE (R460). -/
def execCellTelemetrySample (region : Nat) (cells : List CellReading) (s : State) : Out :=
  onUnit (Unit.powerRegion region) (cellTelemetrySample region cells s)

/-! ### Limiters (R462) -/

/-- The x-th of a list, counted around; nothing for an empty list.
[DESIGN CHOICE, log entry 89: safe] -/
def pick (l : List Nat) (x : Nat) : Option Nat := l[x % l.length]?

/-- LIMITER_SAMPLE (R462): which core is next in the rotation and how many of the 32 cycles were withheld are open. -/
def limiterSample (g current : Nat) (s : State) : State :=
  if !s.power.rails then s
  else
    let s1 := s.setCfld (offRegionPwr g) 32 8 (min current 255)
    let l := s.limitOf g
    let cs := (coresOfRegion g).filter fun c => (s.core c).running
    let off := (coresOfRegion g).filter fun c => (s.core c).withheld
    let s2 :=
      if 95 * l < 100 * current then
        match pick (cs.filter fun c => !off.contains c) s1.draw with
        | some c => s1.drew.modCore c fun k => { k with withheld := true }
        | none => s1
      else if 100 * current < 90 * l then
        match pick off s1.draw with
        | some c => s1.drew.modCore c fun k => { k with withheld := false }
        | none => s1
      else s1
    if (coresOfRegion g).any fun c => (s2.core c).withheld then s2.drew.pwrRegCount g 1 (s2.draw % 33) else s2

/-- LIMITER_SAMPLE (R462). -/
def execLimiterSample (region current : Nat) (s : State) : Out := onUnit (Unit.powerRegion region) (limiterSample region current s)

/-! ### The governor and boosts (R463, R465) -/

/-- The regions of a tower. -/
def regionsOfTower (t : Nat) : List Nat := (List.range 168).map (168 * t + ·)

/-- Whether a tower has a pane or sill node at or above throttle (R487). -/
def State.towerHot (s : State) (t : Nat) : Bool :=
  s.therm.nodes.any fun (e : Nat × ThermNode) => (e.2.throttle || e.2.hard) &&
    (e.1 / 168 == t && decide (e.1 < 336) || (decide (336 ≤ e.1) && decide (e.1 < 420) && (e.1 - 336) / 42 == t))

/-- Sets a region's share. -/
def State.setShare (s : State) (g x : Nat) : State :=
  ({ s with power := { s.power with shares := nset 200 s.power.shares g x } }).refreshLimit g

/-- The shares fall in proportion to the regions' present current, never below 8 A; by how much is open (R463). -/
def State.sharesFall (s : State) (t : Nat) : State :=
  let k := s.draw % 1001
  (regionsOfTower t).foldl (fun (st : State) (g : Nat) =>
    st.setShare g (min (st.share g) (max 80 (st.share g - st.cfld (offRegionPwr g) 32 8 * k / 1000)))) s.drew

/-- The shares rise again; by how much is open (R463). -/
def State.sharesRise (s : State) (t : Nat) : State :=
  (regionsOfTower t).foldl (fun (st : State) (g : Nat) =>
    if st.share g < 200 then st.drew.setShare g (min 200 (st.share g + st.draw % 201)) else st) s

/-- Whether a boost window may open: 90 ms after the last one closed, within the energy of the last second (R465).
[DEDUCED, log entry 117: unsafe] -/
def State.windowMay (s : State) : Bool :=
  !s.power.boostOpen && decide (9000 ≤ s.power.sinceClose) && decide (s.cfld offSupply 16 16 * 1000 + 5730 ≤ 4000000)

/-- A tower boosts: counted once in a window (R465, R468). -/
def State.towerBoosts (s : State) (t : Nat) : State :=
  let done := if t = 0 then s.power.boosted0 else s.power.boosted1
  let s1 := s.setCfld (offTower t) 1 1 1
  if done then s1
  else
    let s2 := s1.setCreg (offTower t + 8) (sat64 ((s1.creg (offTower t + 8)).toNat + 1))
    { s2 with power := (if t = 0 then { s2.power with boosted0 := true } else { s2.power with boosted1 := true }) }

/-- A boost request of a tower (R465, R487). -/
def State.boostAsked (s : State) (t : Nat) : State :=
  if s.towerHot t then s
  else if s.power.boostOpen then s.towerBoosts t
  else if s.windowMay then ({ s with power := { s.power with boostOpen := true, boosted0 := false, boosted1 := false } }).towerBoosts t
  else s

/-- GOVERNOR_SAMPLE (R463, R465): tower 0's sample tells the time of the boost windows, 10 µs each. -/
def governorSample (t power input : Nat) (boost : Bool) (s : State) : State :=
  if !s.power.rails then s
  else
    let s1 := (s.setCfld (offTower t) 36 12 (min power 4095)).setCfld offSupply 16 16 (min input 65535)
    let tick := t == 0 && !s1.power.boostOpen
    let s2 : State := { s1 with power := { s1.power with sinceClose := if tick then s1.power.sinceClose + 1 else s1.power.sinceClose } }
    let s3 := (if boost then s2.boostAsked t else s2.setCfld (offTower t) 1 1 0)
    let cap := s3.cfld (offTower t) 24 12 + (if s3.cfld (offTower t) 1 1 = 1 then 250 else 0)
    if cap < power then s3.sharesFall t else if power < cap then s3.sharesRise t else s3

/-- GOVERNOR_SAMPLE (R463). -/
def execGovernorSample (tower power input : Nat) (boost : Bool) (s : State) : Out :=
  onUnit (Unit.tower tower) (governorSample tower power input boost s)

/-- BOOST_WINDOW_CLOSE (R465). -/
def execBoostWindowClose (s : State) : Out :=
  .next (
    if s.power.boostOpen then
      let s1 := (s.setCfld (offTower 0) 1 1 0).setCfld (offTower 1) 1 1 0
      { s1 with power := { s1.power with boostOpen := false, sinceClose := 0, boosted0 := false, boosted1 := false } }
    else s)

/-! ### The rails go down (R437, R454, R458, R464, R489) -/

/-- What runs ends as for a module reset: no command in flight is completed, letterboxes are DISABLED, and cores stop (R402,
R454, R489). -/
def State.endAll (s : State) : State :=
  let s1 := (s.cores.map (·.1)).foldl (fun (st : State) (c : Nat) => st.stopCore c) s
  let s2 : State := { s1 with
    cmds := [], runs := [], waits := []
    fns := s1.fns.map fun (e : Nat × Fn) => (e.1, { e.2 with st := .disabled, heldComps := [], heldBytes := [] })
    sec := { s1.sec with attq := [], signing := none } }
  s2.keyhole

/-- Bring-up halts with a fault code; ELAPSED, which is frozen then, is open once MAIN_PG has come (R437, R449). -/
def State.halt (s : State) (fault : Nat) : State :=
  let s1 := if s.stage < 2 then s else s.drew.setCfld offBringup 16 16 s.draw
  (s1.setCfld offBringup 0 3 7).setCfld offBringup 8 4 fault

/-- The rails go down: profile 1 normal, 2 fast; what follows is 0 BOLTED, 1 the bring-up of a module reset, 2 a
bring-up with MAIN_EN asserted anew, 3 a halt (R402, R437, R458). -/
def State.descend (s : State) (profile after : Nat) : State :=
  let s1 := s.endAll
  { s1 with power := { s1.power with epReady := false, descent := max profile s1.power.descent, after := after, resetPending := none } }

/-- A supply fault: FAULT_N, rails down fast, a halt of a bring-up in progress with FAULT 2, and a full start next (R437, R454). -/
def State.supplyFault (s : State) (num : Nat) : State :=
  let s1 := (s.logEv 454 num).descend 2 0
  let s2 : State := { s1 with power := { s1.power with faultN := true, noQuick := true } }
  if s2.stage < 6 then s2.halt 2 else s2

/-- BUS_CONVERTER_FAILURE (R464). -/
def busConverterFailure (k : Nat) (s : State) : State :=
  if s.cfld offSupply (4 + k) 1 = 0 ∨ !s.power.rails then s
  else
    let first := s.cfld offSupply 4 4 == 15
    let s1 := (s.setCfld offSupply (4 + k) 1 0).logEv 464 k
    if first then
      (((s1.setCfld (offTower 0) 24 12 (s1.cfld (offTower 0) 24 12 - 150)).setCfld (offTower 1) 24 12
        (s1.cfld (offTower 1) 24 12 - 150)).refreshDegraded).alert 5
    else s1.supplyFault k

/-- BUS_CONVERTER_FAILURE (R464). -/
def execBusConverterFailure (k : Nat) (s : State) : Out := onUnit (decide (k < 4)) (busConverterFailure k s)

end Sys2Proof.Machine
end

