-- ==== Sys2Proof/Machine/Thermal.lean ====
section
/-! DEFINITION. Thermal management: the model and its calibration, disagreements and failed sensors, the actions at the thresholds,
the trip, thermal records, the temperature windows and the thermal cycles of the bonds (R482 to R496, R564). -/

namespace Sys2Proof.Machine
open Sys2Proof

/-! ### Thresholds (R485) -/

/-- Throttle threshold of a node in 0.1 °C; nodes from 500 up have none. -/
def throttleAt (n : Nat) : Int := if n < 420 then 1000 else 950
/-- Hard limit of a node. -/
def hardAt (n : Nat) : Int := if n < 420 then 1100 else 1000
/-- Trip threshold of a node. -/
def tripAt (n : Nat) : Int := if n < 420 then 1180 else 1050
/-- Whether a node has thresholds. -/
def hasLimits (n : Nat) : Bool := decide (n < 500)

/-! ### Records (R491) -/

/-- Where the room for one more record comes from: the oldest record that is not a trip record, else the oldest. -/
def dropOldest (l : List ThermRec) : List ThermRec :=
  match l.findIdx? fun r => r.type != 1 with
  | some i => l.take i ++ l.drop (i + 1)
  | none => l.drop 1

/-- The SOURCE code of a node's sensor: a diode or a DRAM die sensor; the table has none for other sensors, and theirs is open. -/
def State.sensorSource (s : State) (n : Nat) : Nat := if n < 420 then 1 else if n < 500 then 2 else s.draw % 4

/-- The SOURCE of a node's acting temperature. -/
def State.actingSource (s : State) (n : Nat) : Nat :=
  if (s.tnode n).value < (s.tnode n).acting then s.sensorSource n else 0

/-- The reading of a node's hottest sensor, failed ones aside. -/
def ThermNode.top (x : ThermNode) : Option Int :=
  match x.live with
  | [] => none
  | v :: r => some (r.foldl max v)

/-- How far the sensor furthest from a node's model value differs from it. -/
def ThermNode.gap (x : ThermNode) : Nat := (x.live.map fun v => (v - x.value).natAbs).foldl max 0

/-- The reading of the sensor furthest from the model value; the first of several. -/
def ThermNode.far (x : ThermNode) : Option Int := x.live.find? fun v => (v - x.value).natAbs == x.gap

/-- Writes a thermal record with a sensor value. -/
def State.thermRecordOf (s : State) (type source n : Nat) (sensor : Option Int) : State :=
  let x := s.tnode n
  let r : ThermRec := { seq := s.therm.nextSeq, type := type, source := source, node := n, model := x.value, sensor := sensor,
                        input := s.cfld offSupply 16 16, uptime := s.mc.uptime }
  let held := if s.therm.records.length < 1024 then s.therm.records else dropOldest s.therm.records
  ({ s.drew with therm := { s.therm with records := held ++ [r], nextSeq := s.therm.nextSeq + 1 } }).logEv 491 type

/-- Writes a thermal record with the reading of the node's hottest sensor.
[DEDUCED, log entry 136: unsafe] -/
def State.thermRecord (s : State) (type source n : Nat) : State := s.thermRecordOf type source n (s.tnode n).top

/-- A signed 16-bit field. -/
def int16 (v : Int) : List Byte := leBytes 2 (v % 65536).toNat

/-- The 32 bytes of a record. -/
def ThermRec.bytes (r : ThermRec) : List Byte :=
  leBytes 4 r.seq ++ leBytes 1 r.type ++ leBytes 1 r.source ++ leBytes 2 r.node ++ int16 r.model ++
  (match r.sensor with
   | some v => int16 v
   | none => leBytes 2 0x8000) ++
  leBytes 2 r.input ++ zeros 2 ++ leBytes 8 r.uptime ++ zeros 8

/-- What THERMAL_RECORD_READ returns from a sequence number on (R411). -/
def State.thermFrom (s : State) (first : Nat) : List Byte :=
  (s.therm.records.filter fun (r : ThermRec) => decide (first ≤ r.seq)).flatMap ThermRec.bytes

/-- THERMAL_RECORD_READ (R411). -/
def execThermalRecordRead (cmd : Nat) (s : State) : Out :=
  onCmd cmd 0x78 s fun c =>
    s.checked c (c.unused [(0x10, 4)]) (s.complete c.id stOk (w64 s.therm.records.length) (s.thermFrom (c.at_ 0x10 4)))

/-! ### The trip (R488 to R490) -/

/-- A trip: record, THERMTRIP_N, the rails down fast, and a halt of a bring-up in progress with FAULT 5.
[DEDUCED, log entry 94: unsafe] -/
def State.trip (s : State) (source n : Nat) : State :=
  if s.therm.tripped then s
  else
    let s1 := (s.thermRecord 1 source n).logEv 489 n
    let s2 : State := { s1 with therm := { s1.therm with tripped := true } }
    let s3 := if s2.power.rails || s2.power.mainEn then s2.descend 2 0 else s2.endAll
    let s4 : State := { s3 with power := { s3.power with thermtripN := true, noQuick := true } }
    let s5 := s4.setCfld offTherm 3 1 1
    if s5.stage < 6 then s5.halt 5 else s5

/-- DIODE_COMPARATOR_TRIP (R488): pane and sill diodes have comparators. -/
def execDiodeComparatorTrip (node : Nat) (s : State) : Out := onUnit (decide (node < 420)) (s.trip 3 node)

/-- The clearing of a trip; false while a node reads 70 °C or more (R490). -/
def State.tripCleared (s : State) : Option State :=
  if (List.range 600).any fun n => decide (700 ≤ s.acting n) then none
  else if !s.therm.tripped then some s
  else
    let s1 := s.thermRecord 5 0 0
    some (({ s1 with therm := { s1.therm with tripped := false }, power := { s1.power with thermtripN := false } }).setCfld offTherm 3 1 0)

/-- CLEAR_TRIP (R411, R490). -/
def execClearTrip (cmd : Nat) (s : State) : Out :=
  onCmd cmd 0x79 s fun c =>
    s.checked c (c.unused []) (
      match s.tripCleared with
      | some s1 => s1.finish c.id stOk
      | none => s.finish c.id stBusyThermal)

/-! ### Sensors (R483, R484) -/

/-- A sensor of a node, where it has given a reading. -/
def ThermNode.sensor (x : ThermNode) (i : Nat) : Option Sensor := (x.sensors.find? fun e => e.1 == i).map (·.2)

/-- Sets a sensor of a node. -/
def ThermNode.setSensor (x : ThermNode) (i : Nat) (v : Sensor) : ThermNode := { x with sensors := nins i v (ndel i x.sensors) }

/-- A node without one of its sensors: a disagreement ends where no sensor is left (R484). -/
def ThermNode.without (x : ThermNode) (i : Nat) (v : Sensor) : ThermNode :=
  let y := x.setSensor i { v with failed := true }
  { y with disagree := y.disagree && !y.live.isEmpty }

/-- A sensor is judged failed: recorded, alerted and ignored from then on. -/
def State.sensorFails (s : State) (n i : Nat) : State :=
  match (s.tnode n).sensor i with
  | none => s
  | some v =>
    if v.failed then s
    else (((s.thermRecordOf 4 (s.sensorSource n) n (some v.value)).modNode n fun x => x.without i v).logEv 484 n).alert 6

/-- SENSOR_FAILURE (R484). -/
def execSensorFailure (node sensor : Nat) (s : State) : Out := onUnit (decide (node < 600)) (s.sensorFails node sensor)

/-- Whether a sensor of a node is judged failed. -/
def ThermNode.sensorFailed (x : ThermNode) (i : Nat) : Bool :=
  match x.sensor i with
  | some v => v.failed
  | none => false

/-- A reading of a node's sensor: outside −40 °C to 150 °C it is judged failed. -/
def State.reading (s : State) (n i : Nat) (v : Int) : State :=
  if 600 ≤ n ∨ (s.tnode n).sensorFailed i then s
  else
    let s1 := s.modNode n fun x => x.setSensor i { value := v }
    if v < -400 ∨ 1500 < v then s1.sensorFails n i else s1

/-- The calibration of a node, or a disagreement with one of its sensors: within 6 °C of all of them the offset moves toward one of
them, by an open amount of at most 0.5 °C between two one-second ticks (R483, R484).
[DESIGN CHOICE, log entry 171: safe] -/
def State.calibrate (s : State) (n : Nat) : State :=
  let x := s.tnode n
  if x.live.isEmpty then s
  else if 60 < x.gap then
    (if x.disagree then s
     else (s.thermRecordOf 3 (s.actingSource n) n x.far).modNode n fun y => { y with disagree := true })
  else if x.disagree || decide (5 ≤ x.moved) then s
  else
    let up := x.live.any fun v => decide (x.value < v)
    let down := x.live.any fun v => decide (v < x.value)
    let d : Int := if s.draw % 3 = 1 ∧ up then 1 else if s.draw % 3 = 2 ∧ down then -1 else 0
    s.drew.modNode n fun y => { y with offset := y.offset + d, moved := y.moved + d.natAbs }

/-- DISAGREEMENT_EPISODE_END (R484): the difference has stayed at or below 4 °C. -/
def execDisagreementEpisodeEnd (node : Nat) (s : State) : Out :=
  onUnit (decide (node < 600)) (
    if (s.tnode node).disagree && decide ((s.tnode node).gap ≤ 40) then s.modNode node fun x => { x with disagree := false } else s)

/-! ### The update (R482, R485 to R488, R496) -/

/-- The model's new value of a node.
[DESIGN CHOICE, log entry 92: safe] -/
def State.modelStep (s : State) (n : Nat) : State :=
  s.modNode n fun x => { x with model := Config.thermStep n x.model s.free }

/-- The thermal limit of a region at an update, by its pane node and the sill node below it (R486): 8 A where one is at its hard limit,
1 A below the present limit where one is throttled, else 1 A up.
[DEDUCED, log entry 172: unsafe] -/
def State.nextLimit (s : State) (g : Nat) : Nat :=
  let x := s.tnode g
  let y := s.tnode (sillNode g)
  if x.hard || y.hard then 80 else if x.throttle || y.throttle then max 80 (s.limitOf g - 10) else min 200 (x.limit + 10)

/-- A region's thermal limit and LIMIT at an update. -/
def State.regionUpdate (s : State) (g : Nat) : State := (s.modNode g fun x => { x with limit := s.nextLimit g }).refreshLimit g

/-- The action of a node at an update (R486): crossing a hard limit is recorded and alerted. -/
def State.thermAct (s : State) (n : Nat) : State :=
  let a := s.acting n
  let x := s.tnode n
  let s1 := if hardAt n ≤ a ∧ !x.hard then ((s.thermRecord 2 (s.actingSource n) n).logEv 486 n).alert 4 else s
  let noQ := if hardAt n ≤ a then { s1.power with noQuick := true } else s1.power
  ({ s1 with power := noQ }).modNode n fun y =>
    { y with throttle := y.throttle || decide (throttleAt n ≤ a), hard := y.hard || decide (hardAt n ≤ a) }

/-- The node with the highest margin used against its throttle threshold; the lowest of several.
[DEDUCED, log entry 95: unsafe] -/
def State.hotNode (s : State) : Nat :=
  (List.range 500).foldl (fun best n => if s.acting best - throttleAt best < s.acting n - throttleAt n then n else best) 0

/-- A temperature as an 8-bit field in °C. -/
def degC (v : Int) : Nat := min 255 (v / 10).toNat

/-- THERM_STATUS (R496). -/
def State.thermStatus (s : State) : State :=
  let any (f : ThermNode → Bool) : Nat := if s.therm.nodes.any (fun (e : Nat × ThermNode) => f e.2) then 1 else 0
  let dis := (s.therm.nodes.filter fun (e : Nat × ThermNode) => e.2.disagree).length
  s.setCreg offTherm (w64 (
    degC (s.hottest (List.range 336)) * 2 ^ 56 + degC (s.hottest ((List.range 84).map (336 + ·))) * 2 ^ 48 +
    degC (s.hottest ((List.range 80).map (420 + ·))) * 2 ^ 40 + s.hotNode * 2 ^ 30 + min 15 dis * 2 ^ 4 +
    (if s.therm.tripped then 2 ^ 3 else 0) + any (·.hard) * 2 ^ 2 + any (·.throttle) * 2))

/-- What follows the node actions in one partition: DELIVERABLE, refresh rates, stack temperatures and a wake from SHUT (R299, R302,
R474, R487). -/
def State.thermPart (s : State) (p : Nat) : State :=
  let one (st : State) (k : Nat) : State := (st.trefiHalve k).chanFld k 40 8 (degC (st.hottest (dramNodes k)))
  ((one (one s (2 * p)) (2 * p + 1)).refreshDeliverable p).hotWake p

/-- THERMAL_MODEL_UPDATE (R482 to R488). -/
def thermalModelUpdate (sensors : List (Nat × Nat × Int)) (s : State) : State :=
  if !(s.power.vmain || s.power.vstby) then s
  else
    let s1 := sensors.foldl (fun (st : State) (r : Nat × Nat × Int) => st.reading r.1 r.2.1 r.2.2) s
    let s2 := ((List.range 600).foldl (fun (st : State) (n : Nat) => st.modelStep n) s1).drew
    let s3 := (List.range 600).foldl (fun (st : State) (n : Nat) => st.calibrate n) s2
    let s4 := (List.range 500).foldl (fun (st : State) (n : Nat) => st.thermAct n) s3
    let s5 := (List.range 336).foldl (fun (st : State) (g : Nat) => st.regionUpdate g) s4
    let s6 := ((List.range 8).foldl (fun (st : State) (p : Nat) => st.thermPart p) s5).thermStatus
    match (List.range 500).find? fun n => decide (tripAt n ≤ s6.acting n) with
    | some n => s6.trip (s6.actingSource n) n
    | none => s6

/-- THERMAL_MODEL_UPDATE (R482). -/
def execThermalModelUpdate (sensors : List (Nat × Nat × Int)) (s : State) : Out := .next (thermalModelUpdate sensors s)

/-- THERMAL_ACTION_RELEASE (R299, R486): the node has stayed 3 °C below a threshold for 10 ms. -/
def thermalActionRelease (n : Nat) (s : State) : State :=
  let a := s.acting n
  let s1 := s.modNode n fun x => { x with
    hard := x.hard && decide (hardAt n - 30 < a), throttle := x.throttle && decide (throttleAt n - 30 < a) }
  if n < 420 then s1.thermStatus
  else
    let st := (n - 420) / 5
    (((s1.trefiRestore st).refreshDeliverable (st / 2)).thermStatus)

/-- THERMAL_ACTION_RELEASE (R486). -/
def execThermalActionRelease (node : Nat) (s : State) : Out := onUnit (hasLimits node) (thermalActionRelease node s)

/-! ### Temperature windows (R493) -/

/-- Whether the NOR store may be erased or programmed now. -/
def State.norWindow (s : State) : Bool :=
  let t := s.acting (500 + Config.substrateNode % 100)
  decide (0 ≤ t) && decide (t ≤ 850)

/-- Whether a fuse word may be programmed now: never while a trip is uncleared. -/
def State.fuseWindow (s : State) : Bool :=
  let t := s.acting (500 + Config.controllerNode % 100)
  decide (150 ≤ t) && decide (t ≤ 550) && !s.therm.tripped

/-! ### Thermal cycles (R494, R495) -/

/-- A tower's bond temperature: the mean of its 42 sill nodes. -/
def State.bondTemp (s : State) (t : Nat) : Int := ((List.range 42).map fun i => s.acting (336 + 42 * t + i)).sum / 42

/-- The bin of a range in 0.1 °C. -/
def cycleBin (r : Nat) : Nat := if r < 200 then 0 else if r < 400 then 1 else if r ≤ 600 then 2 else 3

/-- The rainflow count of turning points, newest first: what stays, and the half cycles counted by range. -/
def rainflow : Nat → List Int → List (Nat × Nat) → List Int × List (Nat × Nat)
  | 0, l, acc => (l, acc)
  | fuel + 1, l, acc =>
    match l with
    | a :: b :: c :: r =>
      let x := (a - b).natAbs
      let y := (b - c).natAbs
      if x < y then (l, acc)
      else if r.isEmpty then ([a, b], acc ++ [(y, 1)])
      else rainflow fuel (a :: r) (acc ++ [(y, 2)])
    | _ => (l, acc)

/-- A sample among the turning points: a sample that goes on in the same direction replaces the newest. -/
def turnWith (x : Int) : List Int → List Int
  | [] => [x]
  | [a] => if x = a then [a] else [x, a]
  | a :: b :: r => if x = a then a :: b :: r else if (b < a ∧ a < x) ∨ (a < b ∧ x < a) then x :: b :: r else x :: a :: b :: r

/-- Half cycles of a tower's bin. -/
def State.halves (s : State) (t b : Nat) : Nat := nget 0 s.therm.halves (t * 4 + b)

/-- The weighted count of a tower in whole cycles. -/
def State.weighted (s : State) (t : Nat) : Nat := (s.halves t 1 + 4 * s.halves t 2 + 16 * s.halves t 3) / 2

/-- THERM_CYCLES of a tower (R496). -/
def State.cyclesReg (s : State) (t : Nat) : State :=
  let h (b : Nat) : Nat := min 65535 (s.halves t b / 2)
  s.setCreg (offCycles t) (w64 (h 3 * 2 ^ 48 + h 2 * 2 ^ 32 + h 1 * 2 ^ 16 + min 65535 (s.weighted t)))

/-- The bonds that fail in a test whose outcome the commands do not bring: an open set (R211). -/
def drawnBonds (d : Nat) : List Nat :=
  ((List.range 2048).filter fun i => decide (i % 64 < 34) && d.testBit i) ++ ((List.range 64).filter fun i => d.testBit (2048 + i)).map (ctrlBond + ·)

/-- The field bond self-test of one cluster (R211, R495), once placement has drained it; one that it cannot drain is passed over.
[DESIGN CHOICE, log entry 162: unsafe] -/
def State.testCluster (s : State) (n : Nat) : State :=
  match s.drainCluster n with
  | none => s
  | some s1 =>
    let r : State × List Finding := (List.range 17).foldl (fun (acc : State × List Finding) (i : Nat) =>
      let q := acc.1.drew.bondTest (17 * n + i) (drawnBonds acc.1.draw) 2
      (q.1, acc.2 ++ q.2)) (s1, [])
    (r.1.retireUnits (partOfCluster n) r.2 2).1.testOver n

/-- A tower's test is complete: its count starts again (R495). -/
def State.testEnd (s : State) (t : Nat) : State :=
  let ps := (List.range 4).map (4 * t + ·)
  if ps.all fun p => s.unusable p || decide (168 ≤ nget 0 s.therm.testAt p) then
    ({ s with therm := { s.therm with
        halves := s.therm.halves.filter fun e => e.1 / 4 != t
        testDue := nset false s.therm.testDue t false
        testAt := s.therm.testAt.filter fun e => e.1 / 4 != t } }).cyclesReg t
  else s

/-- Part of a test that is due, at a drain point or in an idle partition: 25 clusters of 2 ms each (R495, R517). -/
def State.testSome (s : State) (p : Nat) : State :=
  let k := nget 0 s.therm.testAt p
  if !nget false s.therm.testDue (p / 4) || decide (168 ≤ k) || s.asleep p || s.unusable p then s
  else
    let s1 := (((clustersOfPart p).drop k).take 25).foldl (fun (st : State) (n : Nat) => st.testCluster n) s
    ({ s1 with therm := { s1.therm with testAt := nset 0 s1.therm.testAt p (min 168 (k + 25)) } }).testEnd (p / 4)

/-- A second passes: the always-on uptime counter advances, and the offsets of the thermal model may move again (R483). -/
def State.secondTick (s : State) : State :=
  { s with mc := { s.mc with uptime := s.mc.uptime + 1000 }
           therm := { s.therm with nodes := s.therm.nodes.map fun (e : Nat × ThermNode) => (e.1, { e.2 with moved := 0 }) } }

/-- BOND_TEMP_SAMPLE (R494, R495): each second; tower 0's sample also tells that a second has passed. A test that
is due runs in partitions that carry no logical partition.
[DESIGN CHOICE, log entry 96: unsafe] -/
def bondTempSample (t : Nat) (s : State) : State :=
  let s0 : State := if t = 0 then s.secondTick else s
  let r := rainflow 10000 (turnWith (s0.bondTemp t) (nget [] s0.therm.turns t)) []
  let hs := r.2.foldl (fun (m : NMap Nat) (e : Nat × Nat) =>
    if cycleBin e.1 = 0 then m else nset 0 m (t * 4 + cycleBin e.1) (nget 0 m (t * 4 + cycleBin e.1) + e.2)) s0.therm.halves
  let s1 := ({ s0 with therm := { s0.therm with turns := nset [] s0.therm.turns t r.1, halves := hs } }).cyclesReg t
  let s2 : State := if 1000 ≤ s1.weighted t then { s1 with therm := { s1.therm with testDue := nset false s1.therm.testDue t true } } else s1
  ((List.range 4).map (4 * t + ·)).foldl (fun (st : State) (p : Nat) => if (st.lpartOn p).isNone && st.power.rails then st.testSome p else st) s2

/-- BOND_TEMP_SAMPLE (R494). -/
def execBondTempSample (tower : Nat) (s : State) : Out := onUnit (Unit.tower tower) (bondTempSample tower s)

/-! ### Coolant (R564) -/

/-- COOLANT_ALERT (R564). -/
def execCoolantAlert (s : State) : Out := .next (({ s with therm := { s.therm with coolant := true } }).alert 3)

/-- COOLANT_ALERT_END (R564): the condition has ended; the alert cause stays until the board reads it (R561). -/
def execCoolantAlertEnd (s : State) : Out := .next { s with therm := { s.therm with coolant := false } }

end Sys2Proof.Machine
end

