-- ==== Sys2Proof/Machine/Bringup.lean ====
section
/-! DEFINITION. Supplies, bring-up and module reset: what a loss of the rails leaves, the five stages, quick starts, and the
supply events (R402, R421, R422, R427, R436 to R451, R452 to R458, R538). -/

namespace Sys2Proof.Machine
open Sys2Proof

/-! ### What is lost with the rails (R31, R402, R469, R475) -/

/-- Control-space registers that the module controller keeps: fuses, MRAM and what it reports of bring-up and temperature.
[DEDUCED, log entry 98: unsafe] -/
def keptReg (off : Nat) : Bool :=
  off == offCycles 0 || off == offCycles 1 || off == offKeyhole || off == offRollback || off == offBringup || off == offTherm

/-- The state with everything lost that the rails hold; MRAM, NOR store, fuses, pins and the host's memory stay, and the
generations of the cores and bays advance (R502).
[DEDUCED, log entry 174: unsafe] -/
def State.volatileLost (s : State) : State :=
  let node (e : Nat × ThermNode) : Nat × ThermNode :=
    (e.1, { e.2 with sensors := e.2.sensors.map fun x => (x.1, { x.2 with failed := false }), disagree := false, throttle := false, hard := false, limit := 200 })
  let st : State := {
    pending := s.pending, wca1608 := s.wca1608, host := s.host, hostBad := s.hostBad, free := s.free
    ctl := s.ctl.filter fun e => keptReg e.1
    cores := (s.cores.filter fun e => e.2.gen != 0).map fun (e : Nat × Core) => (e.1, { gen := e.2.gen })
    bays := (s.bays.map fun (e : Nat × Bay) => (e.1, ({ gen := e.2.gen + 1 } : Bay))).filter fun e => e.2.gen != 0
    power := { s.power with
      rails := false, descent := 0, epReady := false, boostOpen := false, boosted0 := false, boosted1 := false,
      shares := [], slowSeen := [], slowRest := [], tested := false }
    therm := { s.therm with nodes := s.therm.nodes.map node, testAt := [] }
    sec := { ownerHash := s.sec.ownerHash, owner := s.sec.owner, fw := s.sec.fw, active := s.sec.active }
    pcie := { knock := s.pcie.knock }
    pair := { roleStandby := s.pair.roleStandby }
    mc := { uptime := s.mc.uptime, fullStart := s.mc.fullStart, eventSeq := s.mc.eventSeq, log := s.mc.log,
            defects := s.mc.defects.filter (·.kept), trained := s.mc.trained, setpoint := s.mc.setpoint, alerts := s.mc.alerts, passed := s.mc.passed, record := s.mc.record,
            routes := s.mc.routes, answer := s.mc.answer, eid := s.mc.eid, serial := s.mc.serial, jtag := s.mc.jtag,
            genBase := s.mc.genBase + 1, nextCmd := s.mc.nextCmd, nextRun := s.mc.nextRun } }
  st.keyhole.setCfld offTherm 0 64 (if s.therm.tripped then 8 else 0)

/-! ### Firmware slots (R437, R537 to R539) -/

/-- The anti-rollback counter of a component (R539, R549). -/
def State.fuseCount (s : State) (comp : Nat) : Nat := s.cfld offRollback (8 * (comp - 1)) 8

/-- Whether a slot of a component holds firmware that passes verification (R538). -/
def State.slotOk (s : State) (comp i : Nat) : Bool :=
  let x := nget {} s.sec.fw (2 * comp + i)
  x.full && decide (s.fuseCount comp ≤ x.svn)

/-- A component loads its active slot, else the other with a record (R538): the state, and whether one was good.
[DEDUCED, log entry 100: unsafe] -/
def State.loadFw (s : State) (comp : Nat) (good : Nat → Bool) : State × Bool :=
  let a := nget 0 s.sec.active comp
  let load (st : State) (i : Nat) : State :=
    { st with sec := { st.sec with active := nset 0 st.sec.active comp i
                                   measured := nset [] st.sec.measured comp (nget {} st.sec.fw (2 * comp + i)).digest } }
  if s.slotOk comp a && good a then (load s a, true)
  else if s.slotOk comp (1 - a) && good (1 - a) then ((load s (1 - a)).logEv 538 comp, true)
  else (s.logEv 538 comp, false)

/-! ### Stage 1 (R427, R436, R437, R443) -/

/-- Bring-up halts (R437): MAIN_EN falls, after the rails where they are up, and FAULT_N is asserted. -/
def State.haltAll (s : State) (fault : Nat) : State :=
  let s1 := (s.halt fault).logEv 437 fault
  let s2 : State := { s1 with power := { s1.power with faultN := true, wakeN := false } }
  if s2.power.rails then s2.descend 1 3 else { s2 with power := { s2.power with mainEn := false, epReady := false } }

/-- Whether a start may be quick (R443): one flag for what RESET_MODULE asked. -/
def State.quickMay (s : State) (flag : Bool) : Bool :=
  flag && decide (s.mc.fullStart ≠ 0) && decide (s.mc.uptime < s.mc.fullStart - 1 + 86400000) && !s.power.noQuick

/-- The registers that the domain record gives (R427, R434). -/
def State.domainRegs (s : State) : State :=
  match s.mc.record with
  | some r => s.mc.routes.foldl (fun (st : State) (e : Nat × Nat) => st.setCreg (offRoute e.1) (w64 (e.2 % 0x20000)))
      (s.setCreg offSeunonId (w64 (r.2 % 2 ^ 32 * 65536 + r.1 % 4096)))
  | none => s.setCreg offSeunonId (w64 (s.power.slotId % 16))

/-- Recorded repairs of bonds and lanes are applied (R210, R301, R445): the state, and the cores beyond repair. -/
def State.applyRepairs (s : State) : State × List Finding :=
  s.mc.defects.foldl (fun (acc : State × List Finding) (d : Defect) =>
    if d.kind = 5 then
      let r := acc.1.bondMark d.number d.detail
      (r.1, acc.2 ++ r.2)
    else if d.kind = 6 then ((acc.1.laneRepair (d.number / 32) (d.number % 32) (laneGroup d.detail) 1).1, acc.2)
    else acc) (s, [])

/-- The units that the merged map retires before any test (R445). -/
def State.applyRetired (s : State) : State :=
  s.mc.defects.foldl (fun (st : State) (d : Defect) =>
    if 2 ≤ d.kind ∧ d.kind ≤ 4 then st.takeOut d.kind d.number
    else if d.kind = 10 then { st with links := nset {} st.links d.number { nget {} st.links d.number with retired := true } }
    else st) s

/-- Bring-up begins at stage 1 and asserts MAIN_EN, or halts with FAULT 1 where no slot of the module controller is good. -/
def State.stage1 (s : State) (flag : Bool) (good : Nat → Bool) : State :=
  let q := s.quickMay flag
  let s1 := ((s.setCreg offBringup (if q then 0x11 else 1)).domainRegs)
  let s2 : State := { s1 with power := { s1.power with faultN := false, bolted := false, mainEn := true, resetPending := none, after := 0 } }
  let r := s2.loadFw 1 good
  if r.2 then r.1.applyRetired else r.1.haltAll 1

/-- The always-on logic begins a bring-up, unless an uncleared trip holds the module BOLTED (R436, R490). -/
def State.powerOn (s : State) (good : Nat → Bool) : State :=
  if s.therm.tripped then { s with power := { s.power with bolted := true, thermtripN := true, mainEn := false } }
  else s.stage1 true good

/-- VSTBY_UP (R436, R437, R490): SLOT_ID and PAIR_PRSNT_N are sampled. Where the rails are still on their way down, the bring-up
follows the descent. -/
def execVstbyUp (slotId : Nat) (pairPresent goodA goodB : Bool) (s : State) : Out :=
  .next (
    if s.power.vstby && !(s.stage == 1 && !s.power.mainEn) then s
    else
      let s1 : State := { s with power := { s.power with vstby := true, slotId := slotId, pairPresent := pairPresent } }
      if s1.power.descent ≠ 0 then { s1 with power := { s1.power with after := 2 } }
      else s1.powerOn fun i => if i = 0 then goodA else goodB)

/-! ### Stage 2 (R421, R436, R438, R453, R457) -/

/-- MAIN_PG_ASSERT (R421, R436 to R438, R453, R457): stage 2 as a whole. A service ring clock that does not lock halts with FAULT 3;
partitions found unusable stay out; the regulator cell test names failed cells by region; an endpoint that does not come up halts with FAULT 4. VMAIN's reading lies in its range and is open.
[DESIGN CHOICE, log entry 91: safe] [DESIGN CHOICE, log entry 97: unsafe] -/
def mainPgAssert (unusable : List Nat) (ringOk phyOk : Bool) (cells : List Finding) (s : State) : State :=
  if s.stage ≠ 1 ∨ !s.power.mainEn ∨ s.power.descent ≠ 0 then s
  else
    let s1 : State := { s with power := { s.power with vmain := true, mainPg := true, rails := true } }
    let s2 := ((s1.drew.setCfld offSupply 32 16 (4800 + s1.draw % 601)).setCfld offSupply 0 1 1).setCfld offBringup 0 3 2
    if !ringOk then s2.haltAll 3
    else
      let r := s2.loadFw 2 fun _ => true
      let mask := ((List.range 8).filter fun p => unusable.contains p || !r.2).foldl (fun m p => m + 2 ^ p) 0
      let s3 := r.1.setCfld offBringup 48 8 mask
      let s4 := (cells.filter fun f => f.kind == 4 && decide (f.number < 336)).foldl (fun (st : State) (f : Finding) =>
        st.cellsFail f.number (f.detail % 16) 1) s3
      let e := s4.loadFw 4 fun _ => true
      if !phyOk || !e.2 then e.1.haltAll 4
      else
        let s5 := (e.1.refreshDegraded).setCfld offBringup 0 3 3
        { s5 with power := { s5.power with epReady := true, wakeN := false }, pcie := { s5.pcie with vestibule := true } }

/-- MAIN_PG_ASSERT (R453). -/
def execMainPgAssert (unusable : List Nat) (ringOk phyOk : Bool) (cells : List Finding) (s : State) : Out :=
  .next (s.sideband (mainPgAssert unusable ringOk phyOk cells s))

/-- MAIN_PG_TIMEOUT (R437): MAIN_PG does not come within 1 s of MAIN_EN. -/
def execMainPgTimeout (s : State) : Out :=
  .next (if s.stage = 1 ∧ s.power.mainEn ∧ s.power.descent = 0 then s.haltAll 2 else s)

/-- RAIL_START_TIMEOUT (R437, R457): a rail of stage 2 misses its limit. -/
def execRailStartTimeout (s : State) : Out :=
  .next (if s.stage = 1 ∧ s.power.mainEn ∧ s.power.descent = 0 then
    ({ s with power := { s.power with vmain := true, mainPg := true, rails := true } }).haltAll 2 else s)

/-! ### Stage 3 (R301, R439, R440) -/

/-- Findings of KIND 0x06: lanes moved to spares, and the stacks that needed a second repair. -/
def State.lanes (s : State) (fs : List Finding) : State × List Nat :=
  (fs.filter fun f => f.kind == 6 && decide (f.number < 512)).foldl (fun (acc : State × List Nat) (f : Finding) =>
    let r := (acc.1.addDefect 6 f.number f.detail 1).laneRepair (f.number / 32) (f.number % 32) (laneGroup f.detail) 1
    (r.1, if r.2 then acc.2 ++ [f.number / 32] else acc.2)) (s, [])

/-- What the stacks of a partition come up as, with those that failed named (R293, R302, R440). -/
def State.stacksUp (s : State) (bad : List Nat) (p : Nat) : State :=
  let a := bad.contains (2 * p)
  let b := bad.contains (2 * p + 1)
  if s.unusable p then s
  else if a && b then
    (((s.setCfld offBringup 48 8 (s.cfld offBringup 48 8 + 2 ^ p)).chanFld (2 * p) 0 2 2).chanFld (2 * p + 1) 0 2 2).nbDisable (2 * p)
  else if a then
    ((((s.setCfld (offHbmMap p) 26 2 2).setCfld (offHbmMap p) 0 10 0).chanFld (2 * p) 0 2 2).chanFld (2 * p + 1) 0 2 1).nbDisable (2 * p)
  else if b then ((s.setCfld (offHbmMap p) 26 2 1).chanFld (2 * p) 0 2 1).chanFld (2 * p + 1) 0 2 2
  else (s.chanFld (2 * p) 0 2 1).chanFld (2 * p + 1) 0 2 1

/-- The stacks of the near-bank units. -/
def State.nbStacks (s : State) : List Nat := (List.range 16).filter s.nbStack

/-- Near-bank units as stage 3 leaves them: those recorded as failed, or all where no slot of their firmware is good, disabled
(R445, R538). -/
def State.nbUp (s : State) : State :=
  let r := s.loadFw 3 fun _ => true
  let slot := nget 0 r.1.sec.active 3
  (s.nbStacks).foldl (fun (st : State) (k : Nat) =>
    let up : State := { st with sec := { st.sec with measured := nset [] st.sec.measured (16 + k) (nget [] st.sec.measured 3) } }
    if !r.2 then (st.addDefect 8 k 0 1).nbDisable k
    else if st.defect 8 k then st.nbDisable k else up.setCfld (offNb k) 8 1 slot) r.1

/-- Retires what a stage found, partition by partition (R439, R442). -/
def State.stageRetire (s : State) (fs : List Finding) : State :=
  (List.range 8).foldl (fun (st : State) (p : Nat) => if st.unusable p then st else (st.retireUnits p fs 1).1) s

/-- The Vmin search of a partition sets its array rails; a quick start takes the stored setpoint. What the search finds is open within
the rails' range (R439, R444, R456).
[DESIGN CHOICE, log entry 176: safe] -/
def State.vminSearch (s : State) (p : Nat) : State :=
  if s.unusable p ∨ (s.cfld offBringup 4 1 = 1 ∧ nget 0 s.mc.setpoint p ≠ 0) then s
  else { s.drew with mc := { s.mc with setpoint := nset 0 s.mc.setpoint p (650 + s.draw % 201) } }

/-- A finding of KIND 0 says that the check of a stored result failed: what is left of the bring-up is a full start (R444). -/
def State.checkFails (s : State) (fs : List Finding) : State := if fs.any (·.kind == 0) then s.setCfld offBringup 4 1 0 else s

/-- BRINGUP_STAGE3 (R436, R439, R440, R444). -/
def bringupStage3 (fs : List Finding) (s : State) : State :=
  if s.stage ≠ 3 then s
  else
    let s0 := s.checkFails fs
    let rep := s0.applyRepairs
    let cores := (List.range 8).flatMap fun p => if s0.unusable p then [] else coresOfPart p
    let bonds := rep.1.bondTests cores fs 1
    let s1 := bonds.1.stageRetire (rep.2 ++ bonds.2 ++ fs.filter fun f => f.kind == 2 || f.kind == 3)
    let ln := s1.lanes fs
    let found := (ln.2 ++ (fs.filter fun f => f.kind == 7 && decide (f.number < 16)).map (·.number)).eraseDups
    let s2 := found.foldl (fun (st : State) (k : Nat) => st.addDefect 7 k 0 1) ln.1
    let bad := (List.range 16).filter fun k => s2.defect 7 k
    let s3 := (List.range 8).foldl (fun (st : State) (p : Nat) => st.stacksUp bad p) s2
    let s4 := (((List.range 16).filter fun k => !bad.contains k && !s3.unusable (k / 2)).foldl (fun (st : State) (k : Nat) => st.trained k)
      s3.nbUp).refreshDegraded
    let s5 := (List.range 8).foldl (fun (st : State) (p : Nat) => (st.vminSearch p).refreshDeliverable p) s4
    ({ s5 with mem := [], chk := [] }).setCfld offBringup 0 3 4

/-- BRINGUP_STAGE3 (R439). -/
def execBringupStage3 (findings : List Finding) (s : State) : Out := .next (bringupStage3 findings s)

/-! ### Stages 4 and 5 (R426, R441, R442) -/

/-- The retired lanes of a port: what the records say. -/
def State.lanesRetired (s : State) (i : Nat) : Nat := (((List.range 4).filter fun k => s.defect 9 (4 * i + k)).map fun k => 2 ^ k).sum

/-- LANES_RETIRED of a port, and whether it may train (R426): with a retired lane in each pair it stays down, with all lanes it is
retired.
[DEDUCED, log entry 101: unsafe] -/
def State.portLanes (s : State) (i : Nat) (train : Bool) : State :=
  let m := s.lanesRetired i
  let s1 := s.setCfld (offPort i) 8 4 m
  if m = 15 then s1.setCfld (offPort i) 0 3 6
  else if m % 4 ≠ 0 ∧ m / 4 ≠ 0 then s1.setCfld (offPort i) 0 3 0
  else if train then s1.setCfld (offPort i) 0 3 1 else s1

/-- BRINGUP_STAGE4 (R426, R441, R444, R538). -/
def bringupStage4 (fs : List Finding) (s0 : State) : State :=
  if s0.stage ≠ 4 then s0
  else
    let s := s0.checkFails fs
    let s1 := (fs.filter fun f => f.kind == 9 && decide (f.number < 64) || f.kind == 10 && decide (f.number < 84)).foldl
      (fun (st : State) (f : Finding) => st.addDefect f.kind f.number 0 1) s
    let r := (s1.applyRetired).loadFw 5 fun _ => true
    let s2 := (List.range 16).foldl (fun (st : State) (i : Nat) => st.portLanes i r.2) r.1
    s2.setCfld offBringup 0 3 5

/-- BRINGUP_STAGE4 (R441). -/
def execBringupStage4 (findings : List Finding) (s : State) : Out := .next (bringupStage4 findings s)

/-- BRINGUP_STAGE5 (R442): cores, clusters and near-bank units of usable partitions that fail their known-answer runs. -/
def bringupStage5 (fs : List Finding) (s : State) : State :=
  if s.stage ≠ 5 || s.power.tested then s
  else
    let s1 := s.stageRetire (fs.filter fun f => f.kind == 1 || f.kind == 2)
    let s2 := (fs.filter fun f => f.kind == 8 && decide (f.number < 16) && s.nbStack f.number && !s.unusable (f.number / 2)).foldl
      (fun (st : State) (f : Finding) => (st.addDefect 8 f.number 0 1).nbDisable f.number) s1
    { s2 with power := { s2.power with tested := true } }

/-- BRINGUP_STAGE5 (R442). -/
def execBringupStage5 (findings : List Finding) (s : State) : Out := .next (bringupStage5 findings s)

/-- What the bring-up record holds (R450): BRINGUP_STATUS, then for each source a count of the records that name it, 16 bits each.
[DEDUCED, log entry 169: unsafe] -/
def State.bringupRecord (s : State) : Nat :=
  (s.creg offBringup).toNat + ((List.range 4).map fun b =>
    (s.mc.defects.filter fun d => d.source.getLsbD b).length % 2 ^ 16 * 2 ^ (64 + 16 * b)).sum

/-- BRINGUP_COMPLETE (R422, R443, R446, R450, R480): ELAPSED is time, which the model does not keep, and is open. -/
def bringupComplete (s : State) : State :=
  if s.stage ≠ 5 || !s.power.tested then s
  else
    let q := s.cfld offBringup 4 1 == 1
    let s0 := (s.drew.setCfld offBringup 16 16 (s.draw % 65536)).setCfld offBringup 0 3 6
    let s1 := s0.logEv 450 s0.bringupRecord
    let s2 : State := { s1 with
      pcie := { s1.pcie with vestibule := false }
      power := { s1.power with noQuick := if q then s1.power.noQuick else false }
      mc := { s1.mc with quick := q, fullStart := if q then s1.mc.fullStart else s1.mc.uptime + 1 } }
    (s2.usableParts.foldl (fun (st : State) (p : Nat) =>
      ((((st.setAuto p 0).gatePart p true).setCfld (offPwr p) 0 2 1).pwrCount p 0).setQuotas p) s2).refreshModule

/-- BRINGUP_COMPLETE (R450). -/
def execBringupComplete (s : State) : Out := .next (bringupComplete s)

/-! ### Supply events (R28, R454) -/

/-- MAIN_PG_DEASSERT (R453, R454): a fault while MAIN_EN is asserted. -/
def execMainPgDeassert (s : State) : Out :=
  .next (s.sideband (
    if !s.power.mainPg then s
    else
      let s1 : State := { s with power := { s.power with mainPg := false } }
      if s.power.mainEn then s1.supplyFault 1 else s1))

/-- VMAIN_FAULT (R454). -/
def execVmainFault (s : State) : Out := .next (if s.power.vmain && s.power.mainEn then s.supplyFault 2 else s)

/-- VMAIN_DIP (R454): ridden through and logged. -/
def execVmainDip (s : State) : Out := .next (if s.power.vmain then s.logEv 454 3 else s)

/-- VMAIN_NOT_REMOVED (R454): logged; the converters stay disabled. -/
def execVmainNotRemoved (s : State) : Out := .next (if s.power.mainEn then s else s.logEv 454 4)

/-- The always-on logic loses power (R28, R443, R555): the uptime counter is cleared and every output rests. -/
def State.unpowered (s : State) : State :=
  let s1 := s.volatileLost
  { s1 with
    power := { s1.power with
      vstby := false, vmain := false, mainPg := false, mainEn := false, wakeN := false, alertN := false, thermtripN := false,
      faultN := false, after := 0, resetPending := none }
    pcie := { s1.pcie with knock := 0 }
    mc := { s1.mc with uptime := 0, fullStart := 0, alerts := 0, answer := none, eid := 0 } }

/-- VSTBY_LOSS (R28, R454): with VMAIN present the module controller runs on from the bus and the rails go down. -/
def execVstbyLoss (s : State) : Out :=
  .next (
    if !s.power.vstby || !s.power.vmain then s
    else
      let s1 := (s.logEv 454 5).descend 1 0
      { s1 with power := { s1.power with vstby := false }, mc := { s1.mc with uptime := 0, fullStart := 0 } })

/-- VSTBY_ABSENT (R28): with VMAIN absent, the always-on logic loses power. -/
def execVstbyAbsent (s : State) : Out := .next (if s.power.vmain || !s.power.vstby then s else s.endAll.unpowered)

/-- VIOB_LOSS (R454): sideband inputs are ignored and logged until it returns. -/
def execViobLoss (s : State) : Out := .next ({ s with power := { s.power with viob := false } }.logEv 454 6)

/-- VIOB_RETURN (R454). -/
def execViobReturn (s : State) : Out := .next { s with power := { s.power with viob := true } }

/-! ### The end of the descent and the module reset (R402, R458) -/

/-- Any slot passes, as far as the supply event says. -/
def anySlot (_ : Nat) : Bool := true

/-- RAILS_DOWN_DONE (R402, R454, R458, R475): BOLTED, a halt (R437), or a new bring-up where a module reset, a WAKE or VSTBY's return asked for one.
The module controller loses power where VSTBY is gone. -/
def railsDownDone (s : State) : State :=
  if s.power.descent = 0 then s
  else
    let flag := s.power.resetPending.getD false
    let s1 := s.volatileLost
    match s.power.after with
    | 1 =>
      let s2 := { s1 with pcie := { s1.pcie with knock := 0 } }.stage1 flag anySlot
      (s2.setCfld offSupply 32 16 (s.cfld offSupply 32 16)).setCfld offSupply 0 1 1
    | _ =>
      let s2 : State := { s1 with power := { s1.power with mainEn := false, vmain := false, mainPg := false, bolted := s1.power.after != 3 } }
      if !s.power.vstby then s2.unpowered
      else if s.power.after = 2 then s2.powerOn anySlot else s2

/-- RAILS_DOWN_DONE (R458). -/
def execRailsDownDone (s : State) : Out := .next (railsDownDone s)

/-- A module reset is due 10 ms after its request (R402): MFLAGS bit 0 is QUICK. -/
def State.askReset (s : State) (quick : Bool) : State := { s with power := { s.power with resetPending := some quick } }

/-- RESET_MODULE (R402). -/
def execResetModule (cmd : Nat) (s : State) : Out :=
  onCmd cmd 0x53 s fun c =>
    s.checked c (c.unused [(0x10, 1)] ++ flag (decide (1 < c.at_ 0x10 1)) 0x10)
      ((s.finish c.id stOk).askReset (c.at_ 0x10 1 == 1))

/-- MODULE_RESET_START (R402, R421, R451): EP_READY falls, commands in flight end without completions and the rails go down with
the normal profile; before they are up, bring-up restarts at once. -/
def moduleResetStart (s : State) : State :=
  match s.power.resetPending with
  | none => s
  | some q =>
    if s.power.rails then
      let s1 := s.descend 1 1
      { s1 with power := { s1.power with resetPending := some q } }
    else
      let s1 := s.endAll.volatileLost
      if s.power.bolted then { s1 with power := { s1.power with resetPending := none } }
      else { s1 with pcie := { s1.pcie with knock := 0 } }.stage1 q anySlot

/-- MODULE_RESET_START (R402). -/
def execModuleResetStart (s : State) : Out := .next (moduleResetStart s)

end Sys2Proof.Machine
end

