-- ==== Sys2Proof/Machine/Migrate.lean ====
section
/-! DEFINITION. Migration of a stack's contents and the failure of a stack in service (R293, R301, R409, R524 to R528). -/

namespace Sys2Proof.Machine
open Sys2Proof

/-! ### Moving device memory (R238, R525) -/

/-- Where an offset lies after ranges moved. -/
def movedTo (ms : List Forward) (a : Nat) : Nat :=
  match ms.find? fun (m : Forward) => decide (m.old ≤ a) && decide (a < m.old + m.len) with
  | some m => a - m.old + m.new
  | none => a

/-- Whether an offset lies in a range that moves. -/
def inOld (ms : List Forward) (a : Nat) : Bool := ms.any fun (m : Forward) => decide (m.old ≤ a) && decide (a < m.old + m.len)

/-- Whether an offset lies in a range that something moves to. -/
def inNew (ms : List Forward) (a : Nat) : Bool := ms.any fun (m : Forward) => decide (m.new ≤ a) && decide (a < m.new + m.len)

/-- A sparse memory with ranges moved, each key standing for g bytes. -/
def moveMap {α : Type} [DecidableEq α] (d : α) (ms : List Forward) (g : Nat) (m : NMap α) : NMap α :=
  (m.filter fun (e : Nat × α) => inOld ms (g * e.1)).foldl (fun (acc : NMap α) (e : Nat × α) => nset d acc (movedTo ms (g * e.1) / g) e.2)
    (m.filter fun (e : Nat × α) => !inOld ms (g * e.1) && !inNew ms (g * e.1))

/-- A device address with ranges of this module moved. -/
def State.movedAddr (s : State) (ms : List Forward) (a : Nat) : Nat :=
  if a / 2 ^ 44 = s.moduleId then s.moduleId * 2 ^ 44 + movedTo ms (a % 2 ^ 44) else a

/-- The parts of a core that name device memory by address, with ranges moved: its stores on their way, its held hints and the
place of its code. What its program holds in registers is served by the forwarding entries. -/
def State.moveCore (s : State) (ms : List Forward) (k : Core) : Core :=
  { k with
    codeBase := movedTo ms k.codeBase
    stores := k.stores.map fun (w : Store) => { w with addr := s.movedAddr ms w.addr }
    deads := k.deads.map fun (d : Nat × Nat × Nat) => (s.movedAddr ms d.1, d.2) }

/-- A provisional line with ranges moved. -/
def moveProv (ms : List Forward) (l : ProvLine) : ProvLine :=
  if isRemoteLine l.line then l
  else { l with line := movedTo ms l.line, bytes := l.bytes.map fun (e : Nat × Option Byte) => (movedTo ms e.1, e.2) }

/-- Ranges of device memory move (R238, R525): lines written back and invalidated, pins removed, the bytes with their check state
carried over, and every address the module keeps changed; the runs in flight reach the ranges through forwarding entries. -/
def State.moveRanges (s : State) (ms : List Forward) : State :=
  let s1 := ms.foldl (fun (st : State) (m : Forward) => (st.invalRange m.old m.len false).unpinRange m.old m.len) s
  let chained := s1.mc.forwards.map fun (e : Forward) => { e with new := movedTo ms e.new }
  { s1 with
    mem := moveMap 0 ms 1 s1.mem
    chk := (moveMap 0 ms 1 s1.chk).foldl (fun (m : NMap W32) (e : Nat × W32) => nset 0 m (s1.sectorKey e.1) e.2) []
    cores := s1.cores.map fun (e : Nat × Core) => (e.1, s1.moveCore ms e.2)
    bays := s1.bays.map fun (e : Nat × Bay) => (e.1, { e.2 with prov := e.2.prov.map (moveProv ms) })
    writes := s1.writes.map fun (w : Store) => { w with addr := s1.movedAddr ms w.addr }
    mc := { s1.mc with forwards := chained ++ ms } }

/-- Forwarding entries stay while a run that began before the move is in flight (R525). -/
def State.dropForwards (s : State) : State :=
  let live (id : Nat) : Bool := s.runs.any fun r => r.id == id && decide (r.st ≠ .ended)
  { s with mc := { s.mc with forwards := s.mc.forwards.filter fun (e : Forward) => e.runs.any live } }

/-! ### Objects (R524) -/

/-- An object in HBM: tag 0 the image's code, 1 a tensor, 2 a region, 3 a piece of the staging session, 4 the image's table sets; its key, range and
alignment. -/
structure Placed where
  tag : Nat
  key : Nat
  base : Nat
  len : Nat
  align : Nat
deriving DecidableEq, Repr

/-- Every object in HBM. -/
def State.placedObjects (s : State) : List Placed :=
  (match s.img.image with
   | some im => { tag := 0, key := 0, base := im.codeBase, len := im.codeLen, align := 4096 } ::
      { tag := 4, key := 0, base := im.tableBase, len := im.tableBytes.length, align := 128 } ::
      (im.tensors.filter fun (t : Tensor) => t.kind != 1 && t.location != 3).map fun (t : Tensor) =>
        { tag := 1, key := t.id, base := t.base, len := t.bytes, align := 128 }
   | none => []) ++
  ((s.regions.filter fun (e : Nat × Region) => fld e.2.attr 56 2 == 2).map fun (e : Nat × Region) =>
    { tag := 2, key := e.1, base := e.2.base, len := e.2.size, align := 65536 }) ++
  ((s.stagedRanges.zipIdx).map fun (u : (Nat × Nat) × Nat) => { tag := 3, key := u.2, base := u.1.1, len := u.1.2, align := 64 })

/-- Whether a tensor lies in zone N. -/
def State.inZoneN (s : State) (o : Placed) : Bool := o.tag == 1 && (s.tensor o.key).any fun t => t.location == 2

/-- Whether an object has bytes in a partition's range. -/
def Placed.inPart (o : Placed) (p : Nat) : Bool := decide (o.base < (p + 1) * partBytes) && decide (p * partBytes < o.base + o.len)

/-- Gives an object its new place. -/
def State.setBase (s : State) (o : Placed) (b loc : Nat) : State :=
  match o.tag with
  | 0 => { s with img := { s.img with image := s.img.image.map fun (im : Image) => { im with codeBase := b } } }
  | 1 => { s with img := { s.img with image := s.img.image.map fun (im : Image) => { im with
      tensors := im.tensors.map fun (t : Tensor) => if t.id = o.key then { t with base := b, location := loc } else t } } }
  | 4 => { s with img := { s.img with image := s.img.image.map fun (im : Image) => { im with tableBase := b } } }
  | 2 => { s with regions := nset {} s.regions o.key { nget {} s.regions o.key with base := b } }
  | _ => { s with img := { s.img with session := s.img.session.map fun (x : Nat × List (Nat × Nat)) =>
      (x.1, x.2.zipIdx.map fun (u : (Nat × Nat) × Nat) => if u.2 = o.key then (b, u.1.2) else u.1) } }

/-- Objects with their new places: location 2 is zone N, 0 anywhere else. -/
abbrev Plan := List (Placed × Nat × Nat)

/-- Places for objects, in partition p where they fit, else anywhere. -/
def placeMoves (p : Nat) : List (Nat × Nat) → List Placed → Option Plan
  | _, [] => some []
  | used, o :: r =>
    match (match fitIn used (p * partBytes) ((p + 1) * partBytes) o.len o.align with
      | some b => some b
      | none => fitIn used 0 hbmEnd o.len o.align) with
    | some b => (placeMoves p (used ++ [(b, o.len)]) r).map ((o, b, 0) :: ·)
    | none => none

/-- A plan carried out. -/
def State.carryOut (s : State) (pl : Plan) : State :=
  let live := (s.runs.filter fun (r : Run) => decide (r.st ≠ .waiting) && decide (r.st ≠ .ended)).map (·.id)
  let ms : List Forward := pl.map fun (x : Placed × Nat × Nat) => { old := x.1.base, new := x.2.1, len := x.1.len, runs := live }
  pl.foldl (fun (st : State) (x : Placed × Nat × Nat) => st.setBase x.1 x.2.1 x.2.2) (s.dropForwards.moveRanges ms)

/-! ### Off a stack (R409, R524) -/

/-- The map of a partition once a stack is off it (R293): MODE names the other one. -/
def State.mapOff (s : State) (st : Nat) : State :=
  let p := st / 2
  let s1 := (s.setCfld (offHbmMap p) 26 2 (if st % 2 = 1 then 1 else 2)).chanFld st 0 2 2
  if st % 2 = 1 then s1 else s1.setSteps p []

/-- The objects of a partition that leave their place: those that the new map does not back, and under MODE 1 those of zone N, which
are renamed. -/
def State.offPlan (s : State) (st : Nat) : Option Plan :=
  let p := st / 2
  let holes := (List.range 8).flatMap (s.mapOff st).partHoles
  let cl := s.clSteps p * stepBytes
  let objs := s.placedObjects
  let zn := objs.filter fun (o : Placed) => o.inPart p && s.inZoneN o
  let rest := objs.filter fun (o : Placed) => !s.inZoneN o
  let go := (rest.filter fun (o : Placed) => o.inPart p && !clearOf holes o.base o.len) ++ (if st % 2 = 1 then [] else zn)
  let stay := rest.filter fun (o : Placed) => !(o.inPart p && !clearOf holes o.base o.len)
  (placeMoves p (holes ++ stay.map fun (o : Placed) => (o.base, o.len)) go).map fun pl =>
    (if st % 2 = 1 then zn.map fun (o : Placed) => (o, o.base - (stackBytes - cl), 2) else []) ++ pl

/-- Bytes of the objects of a partition that a migration evacuates, and of all of them. -/
def State.evacBytes (s : State) (st : Nat) : Nat × Nat :=
  let objs := s.placedObjects.filter fun (o : Placed) => o.inPart (st / 2)
  let sum (l : List Placed) : Nat := (l.map fun (o : Placed) => o.len).sum
  (sum (objs.filter fun (o : Placed) => st % 2 = 0 || !s.inZoneN o), sum objs)

/-- Free ranges outside a partition. -/
def State.freeElsewhere (s : State) (p : Nat) : List (Nat × Nat) :=
  gaps 0 hbmEnd (((p * partBytes, partBytes) :: s.usedRanges ++ s.stagedRanges).foldr insRange [])

/-- The ranges of other partitions that hold what is evacuated, where the move fits (R409, R524). -/
def State.offRoom (s : State) (st : Nat) : Option (List (Nat × Nat)) :=
  let n := s.evacBytes st
  if stackBytes < n.2 || (s.offPlan st).isNone then none else takeBytes n.1 (s.freeElsewhere (st / 2))

/-- What follows a change of a partition's stacks. -/
def State.stacksChanged (s : State) (p : Nat) : State := (s.refreshDegraded).refreshDeliverable p

/-- A stack leaves service: its contents move, and MODE names the other stack. -/
def State.stackOff (s : State) (st : Nat) (pl : Plan) : State :=
  let s1 := (s.carryOut pl).mapOff st
  (if st % 2 = 0 then s1.nbDisable st else s1).stacksChanged (st / 2)

/-! ### Back onto a stack (R409, R528) -/

/-- The thin tensors of the logical partition on p in zone N of p again (R312 to R314, R528): their plan and the steps; nothing where
zone N is not free. -/
def State.thinBack (s : State) (p : Nat) : Plan × Steps :=
  match s.lpartOn p, s.img.image with
  | some j, some im =>
    let plan := im.thinPlan j ((im.tensors.filter fun (t : Tensor) => t.location == 2).map (·.id))
    let k := plan.2.length
    let z := s.zoneN p k
    let objs := s.placedObjects
    let mine (o : Placed) : Option (Nat × Nat) := if o.tag = 1 then plan.1.find? fun (x : Nat × Nat) => x.1 == o.key else none
    let others := (objs.filter fun (o : Placed) => (mine o).isNone).map fun (o : Placed) => (o.base, o.len)
    if k = 0 || 576 < k || !s.nbRoom p || !clearOf ((p * partBytes, reservedBytes) :: others) z (k * stepBytes) then ([], [])
    else (objs.filterMap fun (o : Placed) => (mine o).map fun x => (o, z + x.2, 2), plan.2)
  | _, _ => ([], [])

/-- A stack is back in service: the map of both stacks, zone N at its own offsets again, and near-bank units enabled again. -/
def State.stackBack (s : State) (st : Nat) : State :=
  let p := st / 2
  let cl := s.clSteps p * stepBytes
  let zn := s.placedObjects.filter fun (o : Placed) => o.inPart p && s.inZoneN o
  let s1 := (s.setCfld (offHbmMap p) 26 2 0).chanFld st 0 2 1
  let s2 :=
    if st % 2 = 1 then s1.carryOut (zn.map fun (o : Placed) => (o, o.base + (stackBytes - cl), 2))
    else
      let s3 := if s1.cfld (offNb st) 0 3 = 4 ∧ !s1.defect 8 st then s1.setCfld (offNb st) 0 3 1 else s1
      let b := s3.thinBack p
      (s3.carryOut b.1).setSteps p b.2
  let s4 := { s2 with mc := { s2.mc with
    defects := s2.mc.defects.filter fun (d : Defect) => !(d.kind == 7 && d.number == st)
    passed := s2.mc.passed.filter (· != st) } }
  s4.stacksChanged p

/-! ### MIGRATE (R409, R524 to R528) -/

/-- Whether a stack is out of service under its partition's MODE. -/
def State.stackRetired (s : State) (st : Nat) : Bool := s.hbmMode (st / 2) == (if st % 2 = 1 then 1 else 2)

/-- Whether a fill of a line that would move is on its way. -/
def State.fillsOn (s : State) (p : Nat) : Bool :=
  let here (ln : Nat) : Bool := !isRemoteLine ln && partOfOff ln == p
  s.bays.any (fun (e : Nat × Bay) => e.2.miss.any fun (m : Miss) => here m.line) || s.waits.any fun (x : Wait) => here x.addr

/-- A MIGRATE begins: what it evacuates takes room in other partitions.
[DESIGN CHOICE, log entry 80: unsafe] -/
def State.migrateBegin (s : State) (c : Cmd) (st : Nat) (back : Bool) (temp : List (Nat × Nat)) : State :=
  let s1 := s.modCmd c.id fun x => { x with started := true }
  { s1 with mc := { s1.mc with mig := some { stack := st, back := back, cmd := c.id + 1, chunks := cdiv (s.evacBytes st).1 0x100000, temp := temp } } }

/-- A MIGRATE ends. -/
def State.migrateEnd (s : State) (c : Cmd) (m : Mig) : State :=
  let s0 : State := { s with mc := { s.mc with mig := none } }
  if m.back then
    let s1 := s0.stackBack m.stack
    s1.finish c.id (if s1.partDegraded (m.stack / 2) then stDegraded else stOk)
  else
    match s0.offPlan m.stack with
    | some pl => (s0.stackOff m.stack pl).finish c.id stDegraded
    | none => s0.finish c.id stNoResource

/-- MIGRATE: its first turn checks and reserves, the next moves and switches; a partition in reset pauses it (R526).
[DEDUCED, log entry 81: unsafe] -/
def migrate (s : State) (c : Cmd) : State :=
  let st := c.at_ 0x10 1
  let p := st / 2
  let back := c.at_ 0x11 1 == 1
  if c.started then
    match s.mc.mig with
    | none => s.finish c.id stAborted
    | some m => if (s.part p).resetting || s.fillsOn p then s else s.awakeFor [p] (s.migrateEnd c m)
  else
    s.checked c (c.unused [(0x10, 2)] ++ flag (decide (15 < st)) 0x10 ++ flag (decide (1 < c.at_ 0x11 1)) 0x11) (
      s.needs c [p] (
        if s.unusable p then s.badState c.id
        else if back then
          (if s.stackRetired st && s.mc.passed.contains st then s.migrateBegin c st true [] else s.badState c.id)
        else if s.stackRetired st then s.finish c.id stOk
        else if s.hbmMode p ≠ 0 then s.badState c.id
        else
          match s.offRoom st with
          | some temp => s.migrateBegin c st false temp
          | none => s.finish c.id stNoResource))

/-- MIGRATE (R409). -/
def execMigrate (cmd : Nat) (s : State) : Out := onCmd cmd 0x65 s (migrate s)

/-! ### A stack that fails in service (R301, R526, R527) -/

/-- The outcome of a migration of the module's own (R380, R527).
[DEDUCED, log entry 82: unsafe] -/
def State.ownShared (s : State) (status : Nat) : State := { s with mc := { s.mc with sharedDone := (0x65, status, 0) } }

/-- Whether a MIGRATE off the other stack of a stack's partition is on its way. -/
def State.otherLeaves (s : State) (st : Nat) : Bool := s.mc.mig.any fun (m : Mig) => !m.back && m.stack != st && m.stack / 2 == st / 2

/-- A stack has failed: the module migrates off it by itself, in one step of the model, and retires it; where the other stack is out
already, or a MIGRATE is taking it out, the partition becomes unusable. A stack that fails during a MIGRATE off it is only recorded
(R440, R526, R527). -/
def State.stackFails (s : State) (st : Nat) : State :=
  let p := st / 2
  if s.unusable p || s.stackRetired st then s
  else
    let s1 := (s.logEv 527 st).alert 1
    if s1.mc.mig.any fun (m : Mig) => !m.back && m.stack == st then s1.addDefect 7 st 0 2
    else if s1.hbmMode p ≠ 0 || s1.otherLeaves st then
      let s2 := (s1.addDefect 7 st 0 2).setCfld offBringup 48 8 (s1.cfld offBringup 48 8 ||| 2 ^ p)
      ({ s2 with mc := { s2.mc with mig := match s2.mc.mig with
        | some m => if m.stack / 2 = p then none else some m
        | none => none } }).refreshDegraded
    else
      match s1.offRoom st, s1.offPlan st with
      | some _, some pl => ((s1.stackOff st pl).addDefect 7 st 0 2).ownShared stDegraded
      | _, _ => s1.ownShared stNoResource

/-- HBM_PERIODIC_RETRAIN (R301, R305): the lanes found below margin, by group; a repair is recorded, a second one fails the stack. -/
def hbmPeriodicRetrain (st ch a b ca : Nat) (s : State) : State :=
  if s.cfld (offChan st ch) 0 2 ≠ 1 then s
  else
    let one (x : State × Bool) (g n : Nat) : State × Bool :=
      let r := x.1.laneRepair st ch g n
      (if n = 0 then r.1 else r.1.addDefect 6 (st * 32 + ch) (256 * g) 2, x.2 || r.2)
    let r := one (one (one (s.bump 0x18 (st * 32 + ch) 12 1, false) 0 a) 1 b) 2 ca
    if r.2 then r.1.stackFails st else r.1

/-- HBM_PERIODIC_RETRAIN (R301). -/
def execHbmPeriodicRetrain (stack channel pc0Fails pc1Fails caFails : Nat) (s : State) : Out :=
  onUnit (Unit.stack stack && Unit.channel channel) (hbmPeriodicRetrain stack channel pc0Fails pc1Fails caFails s)

/-- BASE_DIE_FAULT (R326): the near-bank units of a stack that has them are disabled. -/
def execBaseDieFault (stack : Nat) (s : State) : Out :=
  onUnit (Unit.stack stack) (if s.nbStack stack then (s.logEv 326 stack).nbDisable stack else s)

end Sys2Proof.Machine
end

