-- ==== Sys2Proof/Machine/Firmware.lean ====
section
/-! DEFINITION. Firmware packages: their verification and staging, and activation component by component (R327, R404, R408,
R493, R521, R522, R537 to R539, R542). -/

namespace Sys2Proof.Machine
open Sys2Proof

/-! ### Packages (R537) -/

/-- Bytes of a package before its body. -/
def pkgHead : Nat := 16336

/-- Whether an FW_ACTIVATE of a component is in flight (R522). -/
def State.activating (s : State) (comp : Nat) : Bool := s.cmds.any fun (c : Cmd) => c.opcode == 0x64 && c.at_ 0x10 1 == comp

/-- The offsets of a package's fields that break its layout (R537).
[DEDUCED, log entry 105: unsafe] -/
def pkgBad (comp : Nat) (bs : List Byte) : List Nat :=
  flag (bs.take 8 != [0x43, 0x48, 0x52, 0x4F, 0x48, 0x41, 0x46, 0x57]) 0 ++ flag (leAt bs 8 1 != comp) 8 ++
  flag (decide (64 < leAt bs 9 1)) 9 ++ flag (!allZero ((bs.drop 0x0A).take 6)) 0x0A ++ flag (!allZero ((bs.drop 0x18).take 8)) 0x18

/-- The AUTH_FAIL reason of a package of a component, 0 for one that passes verification (R537, R542). -/
def State.pkgReason (s : State) (comp : Nat) (bs : List Byte) : Nat :=
  let key := (bs.drop 0x40).take 48
  if sha256 key ≠ Config.vendorHash then 2
  else if !Config.verify key (bs.take 0x40) ((bs.drop 0x70).take 16224) then 3
  else if sha256 (bs.drop pkgHead) ≠ (bs.drop 0x20).take 32 then 5
  else if leAt bs 9 1 < s.fuseCount comp then 4
  else 0

/-- A verified package in the component's inactive slot (R408). -/
def State.stageSlot (s : State) (comp : Nat) (bs : List Byte) : State :=
  let x : FwSlot := { full := true, svn := leAt bs 9 1, version := leAt bs 0x10 4, digest := (bs.drop 0x20).take 32 }
  { s with sec := { s.sec with fw := nset {} s.sec.fw (2 * comp + (1 - nget 0 s.sec.active comp)) x } }

/-- The staging of a package that was read whole: the state, the status and DETAIL; any failure leaves the inactive slot empty
(R408, R537, R542). -/
def State.stagePackage (s : State) (comp : Nat) (bs : List Byte) : State × Nat × W64 :=
  let e := s.emptyStaged comp
  if bs.length < pkgHead ∨ bs.length ≠ pkgHead + leAt bs 0x14 4 then (e, stBadParam, 0x14)
  else
    match lowest (pkgBad comp bs) with
    | some o => (e, stBadParam, w64 (2 ^ 63 + o))
    | none =>
      match s.pkgReason comp bs with
      | 0 => (s.stageSlot comp bs, stOk, 0)
      | r => (e, stAuthFail, w64 r)

/-- FW_STAGE (R404, R408, R493, R522, R567). -/
def fwStage (s : State) (c : Cmd) : State :=
  let comp := c.at_ 0x10 1
  let n := c.at_ 0x14 4
  s.checked c (c.unused [(0x10, 1), (0x14, 4), (0x18, 8)] ++ flag (comp == 0 || decide (5 < comp)) 0x10 ++
      flag (n == 0 || decide (0x1000000 < n)) 0x14) (
    if s.activating comp then s.finish c.id stBusy
    else if !s.norWindow then s.finish c.id stBusyThermal
    else
      match s.hostRead (c.at_ 0x18 8) n with
      | none => (s.emptyStaged comp).hostFails c 0x18
      | some bs =>
        let r := s.stagePackage comp bs
        r.1.complete c.id r.2.1 r.2.2 [])

/-- FW_STAGE (R408). -/
def execFwStage (cmd : Nat) (s : State) : Out := onCmd cmd 0x63 s (fwStage s)

/-! ### Activation (R521, R539) -/

/-- The slot that a component has staged. -/
def State.fwStaged (s : State) (comp : Nat) : FwSlot := nget {} s.sec.fw (2 * comp + (1 - nget 0 s.sec.active comp))

/-- FWFLAGS.ADVANCE. -/
def Cmd.advance (c : Cmd) : Bool := bitsN (c.at_ 0x11 1) 0 1 == 1

/-- The staged slot of a component becomes its active one and is measured; no start after it is quick until a full one has run (R443,
R538). -/
def State.switchSlot (s : State) (comp : Nat) : State :=
  let a := 1 - nget 0 s.sec.active comp
  { s with
    sec := { s.sec with active := nset 0 s.sec.active comp a
                        measured := nset [] s.sec.measured comp (nget {} s.sec.fw (2 * comp + a)).digest }
    power := { s.power with noQuick := true } }

/-- The anti-rollback counter of a component rises to its active slot's SVN, and the other slot empties where it lies below (R539). -/
def State.advanceFuse (s : State) (comp : Nat) : State :=
  let a := nget 0 s.sec.active comp
  let svn := (nget {} s.sec.fw (2 * comp + a)).svn
  let s1 := s.setCfld offRollback (8 * (comp - 1)) 8 (max svn (s.fuseCount comp))
  if (nget {} s.sec.fw (2 * comp + (1 - a))).svn < svn then s1.emptyStaged comp else s1

/-- Every instance has passed: the slot switches and the counter follows under ADVANCE, where the fuse window is still open (R493,
R521). -/
def State.activated (s : State) (c : Cmd) : State :=
  let s1 := s.switchSlot (c.at_ 0x10 1)
  if !c.advance then s1.finish c.id stOk
  else if s1.fuseWindow then (s1.advanceFuse (c.at_ 0x10 1)).finish c.id stOk
  else s1.finish c.id stBusyThermal

/-- An instance failed its known-answer run: every instance is back on the previous slot and the staged one is empty (R521, R542). -/
def State.activateFails (s : State) (c : Cmd) : State :=
  let s1 := s.emptyStaged (c.at_ 0x10 1)
  ({ s1 with power := { s1.power with noQuick := true } }).complete c.id stAuthFail (w64 (2 ^ 63 + 8)) []

/-- The end of an activation of a component other than the base dies. -/
def State.activateEnd (s : State) (c : Cmd) (bad : Bool) : State := if bad then s.activateFails c else s.activated c

/-- A partition controller has restarted at its drain point: AMOUNT holds the partitions still to come, with bit 8 once one has
failed (R521). -/
def State.fwPartDone (s : State) (id p : Nat) (bad : Bool) : State :=
  match s.cmd id with
  | none => s
  | some c =>
    let left := (if c.amount.testBit p then c.amount - 2 ^ p else c.amount) ||| (if bad then 256 else 0)
    if left % 256 = 0 then s.activateEnd c (decide (256 ≤ left))
    else s.modCmd id fun x => { x with amount := left }

/-- The controllers restart one partition at a time: where no logical partition stands at once, elsewhere at its drain point. -/
def State.activateParts (s : State) (c : Cmd) (failed : List Nat) : State :=
  let ps := s.usableParts.filter fun p => (s.lpartOn p).isSome
  let idle := s.usableParts.any fun p => (s.lpartOn p).isNone && failed.contains p
  if ps.isEmpty then s.activateEnd c idle
  else
    let s1 := s.modCmd c.id fun x => { x with started := true, amount := (ps.map fun p => 2 ^ p).sum + (if idle then 256 else 0) }
    ps.foldl (fun (st : State) (p : Nat) => st.addJob
      { kind := 7, number := 2 * p, cmd := c.id + 1, act := 5,
        found := if failed.contains p then [{ kind := 7, number := 2 * p, detail := 0 }] else [] }) s1

/-- AMOUNT of an activation of the base dies: stacks disabled, stacks that passed, and the stack now paused, plus one. -/
def nbAmount (bad good cur : Nat) : Nat := bad + good * 65536 + cur * 2 ^ 32

/-- The end of an activation of the base dies: DEGRADED where a stack was disabled (R327, R408). -/
def State.activateNbEnd (s : State) (c : Cmd) (bad good : Nat) : State :=
  if bad = 0 then s.activated c
  else
    let s1 := if good = 0 then s else s.switchSlot 3
    ({ s1 with power := { s1.power with noQuick := true } }).complete c.id stDegraded (w64 bad) []

/-- The next stack whose engines pause for activation, from one on (R327). -/
def State.activateNext (s : State) (c : Cmd) (from_ bad good : Nat) : State :=
  match (List.range 16).find? fun k => decide (from_ ≤ k) && s.nbServes k with
  | some k => (s.setCfld (offNb k) 0 3 3).modCmd c.id fun x => { x with started := true, amount := nbAmount bad good (k + 1) }
  | none => s.activateNbEnd c bad good

/-- Ports in service retrain one after another (R521). -/
def State.activatePorts (s : State) : State :=
  (List.range 16).foldl (fun (st : State) (i : Nat) =>
    if st.portLive i then st.setCfld (offPort i) 48 16 (min 0xFFFF (st.cfld (offPort i) 48 16 + 1)) else st) s

/-- FW_ACTIVATE (R404, R408, R493, R521): the list names the instances that fail their known-answer run.
[DEDUCED, log entry 106: unsafe] -/
def fwActivate (s : State) (c : Cmd) (failed : List Nat) : State :=
  let comp := c.at_ 0x10 1
  if c.started then s
  else
    s.checked c (c.unused [(0x10, 2)] ++ flag (comp == 0 || decide (5 < comp)) 0x10 ++ flag (decide (1 < c.at_ 0x11 1)) 0x11) (
      let x := s.fwStaged comp
      if !x.full then s.complete c.id stAuthFail 1 []
      else if x.svn < s.fuseCount comp then s.complete c.id stAuthFail 4 []
      else if c.advance && !s.fuseWindow then s.finish c.id stBusyThermal
      else
        match comp with
        | 1 => s.mcRestart.activateEnd c (!failed.isEmpty)
        | 2 => s.activateParts c failed
        | 3 => s.activateNext c 0 0 0
        | 5 => s.activatePorts.activateEnd c (!failed.isEmpty)
        | _ => s.activateEnd c (!failed.isEmpty))

/-- FW_ACTIVATE (R521). -/
def execFwActivate (cmd : Nat) (failed : List Nat) (s : State) : Out := onCmd cmd 0x64 s fun c => fwActivate s c failed

/-- The engines of a stack resume from the staged slot (R327, R328). -/
def State.nbResumes (s : State) (st : Nat) : State :=
  let slot := 1 - nget 0 s.sec.active 3
  let s1 := (s.setCfld (offNb st) 0 3 (if (s.nb st).cur.isSome then 2 else 1)).setCfld (offNb st) 8 1 slot
  { s1 with sec := { s1.sec with measured := nset [] s1.sec.measured (16 + st) (nget {} s1.sec.fw (6 + slot)).digest } }

/-- NB_FW_RESUME (R326, R327, R445): the stack paused for activation resumes, or its units are disabled and recorded; then the next
stack pauses. -/
def nbFwResume (st : Nat) (passed : Bool) (s : State) : State :=
  match s.cmds.find? fun (c : Cmd) => c.opcode == 0x64 && c.at_ 0x10 1 == 3 && c.started with
  | none => s
  | some c =>
    if c.amount / 2 ^ 32 ≠ st + 1 then s
    else
      let bad := c.amount % 65536
      let good := c.amount / 65536 % 65536
      if s.cfld (offNb st) 0 3 ≠ 3 then s.activateNext c (st + 1) bad good
      else if passed then (s.nbResumes st).activateNext c (st + 1) bad (good + 2 ^ st)
      else ((s.addDefect 8 st 0 2).nbDisable st).activateNext c (st + 1) (bad + 2 ^ st) good

/-- NB_FW_RESUME (R327). -/
def execNbFwResume (stack : Nat) (passed : Bool) (s : State) : Out := onUnit (Unit.stack stack) (nbFwResume stack passed s)

end Sys2Proof.Machine
end

