-- ==== Sys2Proof/Machine/Security.lean ====
section
/-! DEFINITION. The keyhole's commands: attestation, certificates, debug unlock and the JTAG port (R410, R543 to R548). -/

namespace Sys2Proof.Machine
open Sys2Proof

/-! ### Reports (R545, R546) -/

/-- The CODEBOOK_TABLES section with every patch applied (R110, R112, R546). -/
def Image.patchedTables (im : Image) : List Byte :=
  im.tables.foldl (fun (bs : List Byte) (t : TableSet) =>
    overlay 0 bs t.off t.bytes) im.tableBytes

/-- TABLES of the configuration record: zeros without a section. -/
def State.tablesDigest (s : State) : List Byte :=
  match s.img.image with
  | some im => if im.tableBytes.isEmpty then zeros 32 else sha256 im.patchedTables
  | none => zeros 32

/-- The 64-byte configuration record (R546). -/
def State.configRecord (s : State) : List Byte :=
  leBytes 2 (if s.wca1608 then 0x1608 else 0x1604) ++ leBytes 2 s.moduleId ++ leBytes 4 (s.cfld offSeunonId 16 32) ++
  ((List.range 5).flatMap fun i => leBytes 1 (s.fuseCount (i + 1))) ++ zeros 3 ++
  ((List.range 8).flatMap fun p => leBytes 1 (s.hbmMode p)) ++ zeros 8 ++ s.tablesDigest

/-- A measurement entry (R545). -/
def measurement (comp instance_ slot : Nat) (x : FwSlot) (digest : List Byte) : List Byte :=
  leBytes 1 comp ++ leBytes 1 instance_ ++ leBytes 1 slot ++ leBytes 1 x.svn ++ leBytes 4 x.version ++ padTo 32 digest

/-- The entry of a component that has one instance in the report. -/
def State.measured (s : State) (comp : Nat) : List Byte :=
  measurement comp 0 (nget 0 s.sec.active comp) (s.fwActive comp) (nget [] s.sec.measured comp)

/-- The entry of a near-bank stack. -/
def State.measuredStack (s : State) (st : Nat) : List Byte :=
  let slot := s.cfld (offNb st) 8 1
  measurement 3 st slot (nget {} s.sec.fw (6 + slot)) (nget [] s.sec.measured (16 + st))

/-- FLAGS of a report (R545). -/
def State.reportFlags (s : State) : Nat :=
  (if s.sec.owner then 1 else 0) + (if s.sec.debug then 2 else 0) + (if s.img.image.isSome then 4 else 0) +
  (if s.mc.quick then 8 else 0) + (if s.pair.joined then 16 else 0)

/-- The measurement entries, in order (R545). -/
def State.measurements (s : State) : List (List Byte) :=
  [measurement 0 0 0 { full := true, svn := 0, version := Config.romVersion, digest := [] } Config.romDigest, s.measured 1, s.measured 2] ++
  (((List.range 16).filter s.nbStack).map s.measuredStack) ++ [s.measured 4, s.measured 5]

/-- The 768 bytes of a report that its signature covers (R545). -/
def State.reportBody (s : State) (nonce : List Byte) : List Byte :=
  let m := s.measurements
  let image := match s.img.image with
    | some im => padTo 32 im.digest
    | none => zeros 32
  [0x43, 0x48, 0x52, 0x4F, 0x48, 0x41, 0x41, 0x54] ++ leBytes 2 1 ++ leBytes 2 s.reportFlags ++ leBytes 4 m.length ++
  padTo 16 s.mc.serial ++ padTo 32 nonce ++ image ++ sha256 (s.defectsFrom 0) ++ sha256 s.configRecord ++
  (if s.sec.owner then padTo 32 s.sec.ownerHash else zeros 32) ++ leBytes 8 s.mc.uptime ++ zeros 24 ++ padTo 520 m.flatten ++ zeros 24

/-- A report with its signature: 17,856 bytes. -/
def signedReport (body : List Byte) : List Byte := body ++ padTo 17088 (Config.sign body)

/-! ### Attestation (R410, R547) -/

/-- Attestations that wait or are being signed. -/
def State.attesting (s : State) : Nat := s.sec.attq.length + (if s.sec.signing.isSome then 1 else 0)

/-- A request joins the queue of the signing engine.
[DEDUCED, log entry 109: unsafe] -/
def State.queueAttest (s : State) (a : AttReq) : State := State.keyhole { s with sec := { s.sec with attq := s.sec.attq ++ [a] } }

/-- A signing ends: its report goes to the command that asked, or is kept for the board. -/
def State.signingEnd (s : State) : State :=
  match s.sec.signing with
  | none => s
  | some a =>
    let r := signedReport s.sec.captured
    let s1 := State.keyhole { s with sec := { s.sec with signing := none, captured := [], report := if a.cmd = 0 then r else s.sec.report } }
    if a.cmd = 0 then s1 else s1.complete (a.cmd - 1) stOk 17856 r

/-- The next queued report is captured and its signing begins. -/
def State.signingBegin (s : State) : State :=
  match s.sec.attq with
  | [] => s
  | a :: rest => State.keyhole { s with sec := { s.sec with attq := rest, signing := some a, captured := s.reportBody a.nonce } }

/-- ATTEST_SIGNING_START (R547): the signing engine signs one report at a time, so the one before has ended. -/
def execAttestSigningStart (s : State) : Out := .next s.signingEnd.signingBegin

/-- ATTEST (R410, R547): it queues, and at a later turn its signing ends. -/
def attest (s : State) (c : Cmd) : State :=
  if c.started then (if s.sec.signing.any fun (a : AttReq) => a.cmd == c.id + 1 then s.signingEnd else s)
  else
    s.checked c (c.unused [(0x10, 32)]) (
      if 16 ≤ s.attesting then s.finish c.id stBusy
      else (s.modCmd c.id fun x => { x with started := true }).queueAttest { cmd := c.id + 1, nonce := (c.entry.drop 0x10).take 32 })

/-- ATTEST (R545). -/
def execAttest (cmd : Nat) (s : State) : Out := onCmd cmd 0x70 s (attest s)

/-- GET_CERT (R410, R544). -/
def execGetCert (cmd : Nat) (s : State) : Out :=
  onCmd cmd 0x71 s fun c =>
    s.checked c (c.unused [(0x10, 1)] ++ flag (decide (1 < c.at_ 0x10 1)) 0x10) (s.complete c.id stOk 0 (Config.cert (c.at_ 0x10 1)))

/-! ### Debug (R410, R548) -/

/-- The message of a debug response (R548). -/
def unlockMessage (challenge serial : List Byte) : List Byte :=
  [0x43, 0x48, 0x52, 0x4F, 0x48, 0x41, 0x2D, 0x44, 0x42, 0x47, 0x2D, 0x55, 0x4E, 0x4C, 0x4B, 0] ++ challenge ++ padTo 16 serial

/-- Whether a debug response to a challenge is valid: the vendor key before enrolment, the owner key after it. -/
def State.unlocks (s : State) (ch bs : List Byte) : Bool :=
  let key := bs.take 48
  sha256 key == (if s.sec.owner then s.sec.ownerHash else Config.vendorHash) &&
    Config.verify key (unlockMessage ch s.mc.serial) ((bs.drop 48).take 16224)

/-- DEBUG_UNLOCK (R410, R548, R567): each challenge is valid for one response.
[DEDUCED, log entry 113: unsafe] -/
def debugUnlock (s : State) (c : Cmd) : State :=
  let phase := c.at_ 0x10 1
  s.checked c (c.unused [(0x10, 1), (0x14, 4), (0x18, 8)] ++ flag (decide (1 < phase)) 0x10 ++
      flag (phase == 1 && c.at_ 0x14 4 != 16272) 0x14) (
    if phase = 0 then
      let ch := padTo 32 (Config.challenge s.free)
      (State.keyhole { s.drew with sec := { s.sec with challenge := some ch } }).complete c.id stOk 0 ch
    else
      match s.sec.challenge with
      | none => s.badState c.id
      | some ch =>
        match s.hostRead (c.at_ 0x18 8) 16272 with
        | none => s.hostFails c 0x18
        | some bs =>
          let s1 : State := { s with sec := { s.sec with challenge := none } }
          if s.unlocks ch bs then
            ((State.keyhole { s1 with sec := { s1.sec with debug := true } }).logEv 548 c.id).finish c.id stOk
          else s1.keyhole.complete c.id stAuthFail 6 [])

/-- DEBUG_UNLOCK (R548). -/
def execDebugUnlock (cmd : Nat) (s : State) : Out := onCmd cmd 0x72 s (debugUnlock s)

/-- JTAG_INSTRUCTION (R548): boundary scan is open at all times; before unlock a debug instruction has no effect; what one does after
unlock is not said.
[DESIGN CHOICE, log entry 114: safe] -/
def execJtagInstruction (code : Nat) (debugOp : Bool) (s : State) : Out :=
  if debugOp && s.sec.debug && s.power.viob then .refused .debugInstruction
  else .next (s.sideband (if debugOp then s else { s with mc := { s.mc with jtag := code } }))

end Sys2Proof.Machine
end

