-- ==== Sys2Proof/Machine/Board.lean ====
section
/-! DEFINITION. The board management path: Waunnum's messages and MCTP control (R427, R475, R540, R560 to R562). -/

namespace Sys2Proof.Machine
open Sys2Proof

/-- The answer to a message (R561). -/
def State.reply (s : State) (code tag status : Nat) (payload : List Byte) : State :=
  { s with mc := { s.mc with answer := some (code + 0x80, tag, status, payload) } }

/-- A board message: the path works whenever VSTBY is present, and its pins while VIOB is (R454, R560). -/
def board (code tag : Nat) (s : State) (eff : State → State × Nat × List Byte) : Out :=
  .next (if !s.power.vstby then s else s.sideband (let r := eff s; r.1.reply code tag r.2.1 r.2.2))

/-! ### Reads -/

/-- IDENTITY (R379, R561). -/
def execIdentity (tag : Nat) (s : State) : Out := board 1 tag s fun s => (s, stOk, s.identity 0)

/-- Whether a register counts flits that the model does not keep: SN_TX_FLITS, SN_RX_FLITS and SN_FEC_CORRECTED (R435). -/
def flitCounter (off : Nat) : Bool :=
  decide (offPort 0 ≤ off) && decide (off < offPort 16) && (off % 0x40 == 8 || off % 0x40 == 16 || off % 0x40 == 24)

/-- The value of a register as a read gives it: flit counts are open, and so is ELAPSED while bring-up runs after MAIN_PG (R435, R449).
[DESIGN CHOICE, log entry 35: safe] -/
def State.readReg (s : State) (off : Nat) : W64 × State :=
  if flitCounter off then (w64 s.draw, s.drew)
  else if off = offBringup ∧ 2 ≤ s.stage ∧ s.stage ≤ 5 then (setFld (s.creg off) 16 16 s.draw, s.drew)
  else (s.creg off, s)

/-- READ_REG (R561). -/
def execReadReg (tag off : Nat) (s : State) : Out :=
  board 2 tag s fun s =>
    if boardReadable off then ((s.readReg off).2, stOk, leBytes 8 (s.readReg off).1.toNat) else (s, stBadParam, [])

/-- ALERT_STATUS (R561): the read clears the causes and releases ALERT_N. -/
def execAlertStatus (tag : Nat) (s : State) : Out :=
  board 3 tag s fun s =>
    ({ s with mc := { s.mc with alerts := 0 }, power := { s.power with alertN := false } }, stOk, leBytes 8 s.mc.alerts.toNat)

/-- THERMAL_RECORD_READ (R411, R561). -/
def execBmcThermalRecordRead (tag first : Nat) (s : State) : Out := board 6 tag s fun s => (s, stOk, (s.thermFrom first).take 3968)

/-- GET_CERT (R544, R561). -/
def execBmcGetCert (tag index off : Nat) (s : State) : Out :=
  board 0x0D tag s fun s => if 1 < index then (s, stBadParam, []) else (s, stOk, ((Config.cert index).drop off).take 1024)

/-! ### Wake, reset, trip (R402, R475, R476, R479, R490) -/

/-- The sideband WAKE: from BOLTED it begins a bring-up, during the entry to BOLTED one once the rails are down; from SHUT it wakes the
module; an uncleared trip holds BOLTED. -/
def State.boardWake (s : State) : State × Nat :=
  if s.power.bolted || (s.power.descent != 0 && s.power.after == 0) then
    if s.therm.tripped then (s, stBusyThermal)
    else
      let s1 := s.recordWake 5 3
      let s2 : State := { s1 with power := { s1.power with wakeN := true } }
      if s.power.descent ≠ 0 then ({ s2 with power := { s2.power with after := 2 } }, stOk) else (s2.stage1 true anySlot, stOk)
  else if s.stage = 6 ∧ s.cfld offPwrModule 0 2 = 2 then (s.wakeModule 5 [], stOk)
  else (s, stOk)

/-- WAKE (R475). -/
def execWake (tag : Nat) (s : State) : Out := board 4 tag s fun s => (s.boardWake.1, s.boardWake.2, [])

/-- RESET_MODULE (R402, R561): MFLAGS bit 0 is QUICK; a module that is BOLTED has no rails to restart. -/
def execBmcResetModule (tag mflags : Nat) (s : State) : Out :=
  board 5 tag s fun s =>
    if 1 < mflags then (s, stBadParam, []) else if s.power.bolted || s.power.descent != 0 then (s, stBusy, [])
    else (s.askReset (mflags == 1), stOk, [])

/-- CLEAR_TRIP (R490, R561). -/
def execBmcClearTrip (tag : Nat) (s : State) : Out :=
  board 7 tag s fun s =>
    match s.tripCleared with
    | some s1 => (s1, stOk, [])
    | none => (s, stBusyThermal, [])

/-! ### Chunked transfers (R561) -/

/-- A chunk of a transfer: the state, a status, and the whole of the data after the last chunk. A gap discards the transfer. -/
def State.chunk (s : State) (code component cflags off : Nat) (data : List Byte) : State × Nat × Option (List Byte) :=
  let put (m : NMap Xfer) : State := { s with sec := { s.sec with xfer := m } }
  let first := bitsN cflags 0 1 == 1
  let old := (s.sec.xfer.find? fun e => e.1 == code).map (·.2)
  let so_far := if first then some [] else (old.filter fun (x : Xfer) => x.component == component).map fun (x : Xfer) => x.data
  match so_far with
  | none => (put (ndel code s.sec.xfer), stBadParam, none)
  | some bs =>
    if 3 < cflags ∨ 1024 < data.length ∨ off ≠ bs.length ∨ 0x1000000 < bs.length + data.length then
      (put (ndel code s.sec.xfer), stBadParam, none)
    else if bitsN cflags 1 1 = 1 then (put (ndel code s.sec.xfer), stOk, some (bs ++ data))
    else (put (nins code { component := component, data := bs ++ data } (ndel code s.sec.xfer)), stOk, none)

/-- The last chunk of a firmware package starts the checks of R408. -/
def State.boardStage (s : State) (comp : Nat) (bs : List Byte) : State × Nat :=
  if s.activating comp then (s, stBusy)
  else if !s.norWindow then (s, stBusyThermal)
  else
    let r := s.stagePackage comp bs
    (r.1, r.2.1)

/-- FW_STAGE (R408, R561). -/
def execBmcFwStage (tag component cflags off : Nat) (data : List Byte) (s : State) : Out :=
  board 8 tag s fun s =>
    if component = 0 ∨ 5 < component then (s, stBadParam, [])
    else
      let r := s.chunk 8 component cflags off data
      match r.2.2 with
      | none => (r.1, r.2.1, [])
      | some bs => ((r.1.boardStage component bs).1, (r.1.boardStage component bs).2, [])

/-- The message of an enrolment's signature (R540). -/
def enrolMessage (serial : List Byte) : List Byte :=
  [0x43, 0x48, 0x52, 0x4F, 0x48, 0x41, 0x2D, 0x4F, 0x57, 0x4E, 0x2D, 0x45, 0x4E, 0x52, 0x4C, 0] ++ serial

/-- The owner's key hash is programmed, the enrolled bit last (R540).
[DESIGN CHOICE, log entry 111: unsafe] -/
def State.enrol (s : State) (key : List Byte) : State :=
  State.keyhole { s with sec := { s.sec with ownerHash := sha256 key, owner := true }, power := { s.power with noQuick := true } }

/-- The checks of an enrolment, then the fuses (R493, R540).
[DEDUCED, log entry 110: unsafe] -/
def State.enrolment (s : State) (bs : List Byte) : State × Nat :=
  let serial := (bs.drop 48).take 16
  if s.sec.owner then (s, stAuthFail)
  else if bs.length ≠ 16288 then (s, stBadParam)
  else if s.img.session.isSome || s.img.image.isSome then (s, stBusy)
  else if !s.fuseWindow then (s, stBusyThermal)
  else if serial = padTo 16 s.mc.serial ∧ Config.verify (bs.take 48) (enrolMessage serial) (bs.drop 64) then (s.enrol (bs.take 48), stOk)
  else (s, stAuthFail)

/-- OWNER_ENROLL (R540, R561). -/
def execOwnerEnroll (tag cflags off : Nat) (data : List Byte) (s : State) : Out :=
  board 9 tag s fun s =>
    let r := s.chunk 9 0 cflags off data
    match r.2.2 with
    | none => (r.1, r.2.1, [])
    | some bs => ((r.1.enrolment bs).1, (r.1.enrolment bs).2, [])

/-! ### Domain record (R427, R493) -/

/-- DOMAIN_WRITE (R427, R561): the record takes effect at the next bring-up.
[DESIGN CHOICE, log entry 112: unsafe] -/
def State.domainWrite (s : State) (moduleId domain first : Nat) (routes : List Nat) : State × Nat :=
  if 4095 < moduleId ∨ 2 ^ 32 ≤ domain ∨ 512 < routes.length ∨ 4096 < first + routes.length then (s, stBadParam)
  else if !s.norWindow then (s, stBusyThermal)
  else
    let rs := (routes.zip (List.range routes.length)).foldl (fun (m : NMap Nat) (e : Nat × Nat) => nset 0 m (first + e.2) (e.1 % 0x20000)) s.mc.routes
    ({ s with mc := { s.mc with record := some (moduleId, domain), routes := rs } }, stOk)

/-- DOMAIN_WRITE (R427). -/
def execDomainWrite (tag moduleId domain first : Nat) (routes : List Nat) (s : State) : Out :=
  board 0x0A tag s fun s => ((s.domainWrite moduleId domain first routes).1, (s.domainWrite moduleId domain first routes).2, [])

/-! ### Attestation (R547, R561) -/

/-- ATTEST (R547, R561). -/
def execBmcAttest (tag : Nat) (nonce : List Byte) (s : State) : Out :=
  board 0x0B tag s fun s =>
    if nonce.length ≠ 32 then (s, stBadParam, []) else if 16 ≤ s.attesting then (s, stBusy, [])
    else (s.queueAttest { cmd := 0, nonce := nonce }, stOk, [])

/-- Whether a report of the board waits or is being signed. -/
def State.boardSigning (s : State) : Bool := s.sec.attq.any (fun (a : AttReq) => a.cmd == 0) || s.sec.signing.any fun (a : AttReq) => a.cmd == 0

/-- ATTEST_READ (R561). -/
def execAttestRead (tag off : Nat) (s : State) : Out :=
  board 0x0C tag s fun s => if s.boardSigning then (s, stBusy, []) else (s, stOk, (s.sec.report.drop off).take 1024)

/-! ### MCTP control (R560) -/

/-- Set Endpoint ID of MCTP's base protocol, PRESUMED: the bytes are the message type 0, the instance byte, the command code 1, the operation
and the id.
[PRESUMED, log entry 115: unsafe] -/
def eidOf (bytes : List Byte) : Option Nat :=
  if leAt bytes 0 1 = 0 ∧ leAt bytes 2 1 = 1 ∧ 5 ≤ bytes.length ∧ leAt bytes 3 1 % 4 < 2 ∧ 8 ≤ leAt bytes 4 1 ∧ leAt bytes 4 1 < 255 then some (leAt bytes 4 1)
  else none

/-- MCTP_CONTROL_MESSAGE (R560): the bus owner gives the endpoint its id; the bytes of the answer, which the manual does not give, are open. -/
def mctpControl (bytes : List Byte) (s : State) : State :=
  let s1 : State := match eidOf bytes with
    | some e => { s with mc := { s.mc with eid := e } }
    | none => s
  { s1.drew with mc := { s1.mc with answer := some (0, leAt bytes 1 1, stOk, leBytes (s1.draw % 64) (s1.draw / 64)) } }

/-- MCTP_CONTROL_MESSAGE (R560). -/
def execMctpControlMessage (bytes : List Byte) (s : State) : Out :=
  .next (if !s.power.vstby then s else s.sideband (mctpControl bytes s))

end Sys2Proof.Machine
end

