-- ==== Sys2Proof/Machine/LiveService.lean ====
section
/-! DEFINITION. Service while the module runs: drain points and the work done there, retirement, field tests and recalibration
(R404 to R407, R495, R517 to R520). -/

namespace Sys2Proof.Machine
open Sys2Proof

/-! ### Retirement (R381, R405, R520) -/

/-- Kinds that RETIRE_UNIT takes. -/
def mayRetire (k : Nat) : Bool := [1, 2, 3, 4, 7, 8, 9, 10].contains k
/-- Kinds that FIELD_TEST takes. -/
def mayTest (k : Nat) : Bool := [1, 2, 3, 4, 7, 8, 9, 10].contains k
/-- Kinds that RECALIBRATE takes. -/
def mayCalibrate (k : Nat) : Bool := [4, 7, 9, 10, 11].contains k

/-- Whether this module has a unit: near-bank units stand only in some stacks. -/
def State.hasUnit (s : State) (kind number : Nat) : Bool := unitExists kind number && (kind != 8 || s.nbStack number)

/-- Whether a unit is retired already. -/
def State.isRetired (s : State) (kind number : Nat) : Bool :=
  match kind with
  | 1 => s.defect 1 number
  | 4 => (clustersOfRegion number).all s.bayRetired
  | 7 => s.stackRetired number && s.defect 7 number
  | 8 => s.defect 8 number && s.cfld (offNb number) 0 3 == 4
  | 9 => s.defect 9 number
  | 10 => s.defect 10 number
  | _ => s.bayRetired number

/-- Whether a partition has fewer full clusters than logical ones (R447). -/
def State.coresShort (s : State) (p : Nat) : Bool := decide (((clustersOfPart p).filter s.clusterFull).length < 160)

/-- The status of a retirement of units of a partition: NO_RESOURCE where the image no longer fits, DEGRADED below its logical cores
(R405). -/
def State.retireStatus (s : State) (p : Nat) (fits : Bool) : Nat :=
  if !fits then stNoResource else if s.coresShort p then stDegraded else stOk

/-- A Seunon lane is retired: its port trains on its other pair, or leaves service (R426, R519, R520). -/
def State.retireLane (s : State) (n src : Nat) : State :=
  let i := n / 4
  let s1 := s.addDefect 9 n 0 src
  let live := s1.portLive i || s1.cfld (offPort i) 0 3 == 1
  let s2 := s1.portLanes i false
  if s2.cfld (offPort i) 0 3 = 0 ∨ s2.cfld (offPort i) 0 3 = 6 then s2.linkLost i
  else if live then (s2.portTrain i).linkLost i else s2

/-- A hinge or bridge link is retired: its routes move to a live row (R214, R331). -/
def State.retireLink (s : State) (n src : Nat) : State :=
  let tower := if n < 56 then n / 28 else 0
  let s1 := (s.addDefect 10 n 0 src).setLink n { s.link n with retired := true }
  if (s.link n).retired then s1 else (s1.bump 0x10 (1344 + tower) (if n < 56 then 16 else 17) 1).logEv 214 n

/-- Retires a unit of the module that needs no drain point: a stack out of service, near-bank units, a lane or a link. -/
def State.retireNow (s : State) (kind number src : Nat) : State :=
  match kind with
  | 7 => (s.addDefect 7 number 0 src).refreshDegraded
  | 8 => (s.addDefect 8 number 0 src).nbDisable number
  | 9 => s.retireLane number src
  | _ => s.retireLink number src

/-- Whether a kind of unit waits for a drain point of its logical partition. -/
def needsDrain (kind : Nat) : Bool := decide (kind ≤ 4)

/-- Whether work on a partition's units waits for a drain point: a logical partition stands there. -/
def State.drains (s : State) (p : Nat) : Bool := (s.lpartOn p).isSome

/-- A command leaves work for the next drain point of a partition. -/
def State.atDrain (s : State) (c : Cmd) (j : Job) : State := (s.modCmd c.id fun x => { x with started := true }).addJob j

/-- RETIRE_UNIT (R404, R405). -/
def retireUnit (s : State) (c : Cmd) : State :=
  let k := c.at_ 0x10 1
  let n := c.at_ 0x14 4
  let p := unitPart k n
  if c.started then s
  else
    s.checked c (c.unused [(0x10, 1), (0x14, 4)] ++ flag (!mayRetire k) 0x10 ++ flag (mayRetire k && !s.hasUnit k n) 0x14) (
      if s.isRetired k n then s.finish c.id stOk
      else if k = 7 ∧ !s.stackRetired n then s.badState c.id
      else if !needsDrain k then (s.retireNow k n 3).finish c.id stOk
      else s.needs c (if s.unusable p then [] else [p]) (
        if s.drains p then s.atDrain c { kind := k, number := n, cmd := c.id + 1, act := 0, found := [] }
        else
          let r := s.retireUnits p [{ kind := k, number := n, detail := 0 }] 3
          r.1.finish c.id (r.1.retireStatus p r.2)))

/-- RETIRE_UNIT (R405). -/
def execRetireUnit (cmd : Nat) (s : State) : Out := onCmd cmd 0x60 s (retireUnit s)

/-! ### Field tests (R211, R406) -/

/-- The record of a tested unit: RESULT 0 pass, 1 repaired, 2 failed. -/
def testRecord (kind result number : Nat) : List Byte :=
  leBytes 1 kind ++ leBytes 1 result ++ zeros 2 ++ leBytes 4 number ++ zeros 8

/-- A finding names a unit. -/
def names (fs : List Finding) (kind number : Nat) : Bool := fs.any fun f => f.kind == kind && f.number == number

/-- The cores of a cluster. -/
def coresOfCluster (n : Nat) : List Nat := (List.range 17).map fun i => 17 * n + i

/-- The test of a unit that holds cores: what it retires, and whether bonds were repaired (R211). -/
def State.testCores (s : State) (kind n : Nat) (fs : List Finding) : State × List Finding × Bool :=
  let unit : Finding := { kind := kind, number := n, detail := 0 }
  match kind with
  | 1 => (s, if names fs 1 n then [unit] else [], false)
  | 3 => (s, if names fs 3 n || names fs 2 n then [unit] else [], false)
  | _ =>
    let cs := coresOfCluster n
    let b := s.bondTests cs fs 2
    let bad := if names fs 2 n || names fs 3 n then [unit] else []
    (b.1, bad ++ b.2 ++ fs.filter fun f => f.kind == 1 && cs.contains f.number, fs.any fun f => f.kind == 5 && cs.contains f.number)

/-- A field test carried out: the state, RESULT, and whether the image still fits. A cluster that placement cannot drain is not tested
(R211). A stack that passes after its retirement is known
to have passed; a stack in service that fails is migrated off (R406, R527, R528).
[DEDUCED, log entry 103: unsafe] -/
def State.fieldTest (s : State) (kind n : Nat) (fs : List Finding) : State × Nat × Bool :=
  let bad := names fs kind n
  match kind with
  | 4 =>
    let mask := ((fs.filter fun f => f.kind == 4 && f.number == n).map fun f => f.detail % 16).foldl (· ||| ·) 0
    let s1 := s.cellsFail n mask 2
    (s1, if s1.tier n = 3 ∧ s.tier n ≠ 3 then 2 else if mask ≠ 0 then 1 else 0, true)
  | 7 =>
    if bad then
      (if s.stackRetired n then ({ s with mc := { s.mc with passed := s.mc.passed.filter (· != n) } }.retireNow 7 n 2, 2, true)
       else (s.stackFails n, 2, true))
    else if s.stackRetired n then ({ s with mc := { s.mc with passed := n :: s.mc.passed.filter (· != n) } }, 0, true)
    else (s, 0, true)
  | 8 => if bad then (s.retireNow 8 n 2, 2, true) else (s, 0, true)
  | 9 => if bad then (s.retireNow 9 n 2, 2, true) else (s, 0, true)
  | 10 => if bad then (s.retireNow 10 n 2, 2, true) else (s, 0, true)
  | 2 =>
    match s.drainCluster n with
    | none => (s, 3, true)
    | some s1 =>
      let r := s1.testCores kind n fs
      let q := r.1.retireUnits (unitPart kind n) r.2.1 2
      (q.1.testOver n, if !r.2.1.isEmpty then 2 else if r.2.2 then 1 else 0, q.2)
  | _ =>
    let r := s.testCores kind n fs
    let q := r.1.retireUnits (unitPart kind n) r.2.1 2
    (q.1, if !r.2.1.isEmpty then 2 else if r.2.2 then 1 else 0, q.2)

/-- The completion of a FIELD_TEST: AUTO_ACTIVE is set in the unit's partition while the test runs (R340). -/
def State.testDone (s : State) (id kind n : Nat) (fs : List Finding) : State :=
  let p := unitPart kind n
  let auto (st : State) (v : Nat) : State := if p < 8 ∧ !s.unusable p then st.setAuto p v else st
  let r := (auto s 1).fieldTest kind n fs
  (auto r.1 (s.cfld (offRegMode p) 4 1)).complete id (if r.2.1 = 2 then stDegraded else stOk) 0 (testRecord kind r.2.1 n)

/-- FIELD_TEST (R404, R406). -/
def fieldTestCmd (s : State) (c : Cmd) (fs : List Finding) : State :=
  let k := c.at_ 0x10 1
  let n := c.at_ 0x14 4
  let p := unitPart k n
  if c.started then s
  else
    s.checked c (c.unused [(0x10, 1), (0x14, 4)] ++ flag (!mayTest k) 0x10 ++ flag (mayTest k && !s.hasUnit k n) 0x14) (
      s.needs c (if p < 8 ∧ !s.unusable p then [p] else []) (
        if p < 8 ∧ s.drains p then s.atDrain c { kind := k, number := n, cmd := c.id + 1, act := 1, found := fs }
        else s.testDone c.id k n fs))

/-- FIELD_TEST (R406). -/
def execFieldTest (cmd : Nat) (findings : List Finding) (s : State) : Out := onCmd cmd 0x61 s fun c => fieldTestCmd s c findings

/-! ### Recalibration (R301, R407, R426, R519) -/

/-- Spare lanes of a stack that are not in use: channel × 3 + group. -/
def State.freeSpares (s : State) (st : Nat) : List Nat :=
  (List.range 96).filter fun i => s.cfld (offChan st (i / 3)) (17 + i % 3) 1 == 0

/-- The training of a stack in full, with its all-bank refresh (R287) and its results stored; where a lane was moved to a spare, which
one is open (R301, R407). HBM_RETRAIN counts periodic retrainings only (R305). -/
def State.trainStack (s : State) (st outcome : Nat) : State :=
  let s1 := s.trained st
  if outcome = 1 then
    match pick (s1.freeSpares st) s1.draw with
    | some i => ((s1.drew.laneRepair st (i / 3) (i % 3) 1).1).addDefect 6 (st * 32 + i / 3) (256 * (i % 3)) 2
    | none => s1
  else s1

/-- The recalibration of a Seunon lane: a port in service retrains, one that went down trains again (R425, R426, R520). -/
def State.calibrateLane (s : State) (n : Nat) : State :=
  let i := n / 4
  let s1 := s.setLink (linkOfPort i) { s.link (linkOfPort i) with retired := false, retries := 0, retrainFails := 0 }
  if s.portLive i then s1.retrained i
  else if s.cfld (offPort i) 0 3 = 6 then s
  else ((s1.portTrain i).portLanes i false)

/-- What a recalibration does: outcome 0 in its limits, 1 only with a lane moved to a spare, else not (R407). Cells and the PCI Express
link come back as they were. -/
def State.recalibrate (s : State) (kind n outcome : Nat) : State :=
  if 1 < outcome then s
  else
    match kind with
    | 7 => s.trainStack n outcome
    | 9 => s.calibrateLane n
    | _ => s

/-- The status of a recalibration (R407). -/
def calStatus (outcome : Nat) : Nat := if outcome = 0 then stOk else if outcome = 1 then stDegraded else stTimeout

/-- RECALIBRATE (R404, R407): the cells of a region whose logical partition runs wait for a drain point. -/
def recalibrateCmd (s : State) (c : Cmd) (outcome : Nat) : State :=
  let k := c.at_ 0x10 1
  let n := c.at_ 0x14 4
  let p := unitPart k n
  if c.started then s
  else
    s.checked c (c.unused [(0x10, 1), (0x14, 4)] ++ flag (!mayCalibrate k) 0x10 ++ flag (mayCalibrate k && !unitExists k n) 0x14) (
      s.needs c (if p < 8 ∧ !s.unusable p then [p] else []) (
        if k = 4 ∧ s.drains p then
          s.atDrain c { kind := 4, number := n, cmd := c.id + 1, act := 2, found := [{ kind := 4, number := n, detail := outcome }] }
        else (s.recalibrate k n outcome).finish c.id (calStatus outcome)))

/-- RECALIBRATE (R407). -/
def execRecalibrate (cmd outcome : Nat) (s : State) : Out := onCmd cmd 0x62 s fun c => recalibrateCmd s c outcome

/-! ### Drain points (R461, R495, R517, R518) -/

/-- One piece of work at a drain point of partition p: 0 retirement, 1 field test, 2 recalibration, 3 virtual cores move off a capped
region while spares last, 5 a controller's restart. -/
def State.doJob (s : State) (p : Nat) (j : Job) : State :=
  match j.act with
  | 0 =>
    let r := s.retireUnits p [{ kind := j.kind, number := j.number, detail := 0 }] (if j.cmd = 0 then 2 else 3)
    if j.cmd = 0 then r.1 else r.1.finish (j.cmd - 1) (r.1.retireStatus p r.2)
  | 1 => s.testDone (j.cmd - 1) j.kind j.number j.found
  | 2 =>
    let o := (j.found.map (·.detail)).headD 0
    (s.recalibrate j.kind j.number o).finish (j.cmd - 1) (calStatus o)
  | 3 => (s.rework p id).1
  | 5 => s.fwPartDone (j.cmd - 1) p (!j.found.isEmpty)
  | _ => s

/-- DRAIN_POINT (R517, R518): no run of the logical partition has started and not ended; the work held for it runs, and the hold time
is time, which the model does not keep. -/
def drainPoint (lp : Nat) (s : State) : State :=
  match nget 0 s.img.lpart lp with
  | 0 => s
  | p + 1 =>
    let mine := s.mc.jobs.filter fun (j : Job) => unitPart j.kind j.number == p
    let test := nget false s.therm.testDue (p / 4) && decide (nget 0 s.therm.testAt p < 168)
    if s.lpartBusy p || (s.part p).resetting || s.asleep p || (mine.isEmpty && !test) then s
    else
      let s0 : State := { s with mc := { s.mc with jobs := s.mc.jobs.filter fun (j : Job) => unitPart j.kind j.number != p } }
      let s1 := mine.foldl (fun (st : State) (j : Job) => st.doJob p j) s0
      ((if test then s1.testSome p else s1).bump 0x31 p 3 1)

/-- DRAIN_POINT (R517). -/
def execDrainPoint (lpart : Nat) (s : State) : Out := onUnit (Unit.part lpart) (drainPoint lpart s)

end Sys2Proof.Machine
end

