-- ==== Sys2Proof/Machine/Pair.lean ====
section
/-! DEFINITION. The redundant pair: joining, synchronising, mirror steps, takeover, release and the loss of the link (R412, R433,
R529 to R535). -/

namespace Sys2Proof.Machine
open Sys2Proof

/-- STATE of PAIR_STATUS (R535). -/
def State.pairState (s : State) : Nat := s.cfld offPair 0 3

/-- Whether a port of the pair link is up (R433). -/
def State.pairUp (s : State) : Bool := s.cfld (offPort 14) 0 3 == 7 || s.cfld (offPort 15) 0 3 == 7

/-- Ports 14 and 15 carry pair traffic only (R433). -/
def State.pairPorts (s : State) : State :=
  [14, 15].foldl (fun (st : State) (i : Nat) => if st.cfld (offPort i) 0 3 = 6 then st else st.setCfld (offPort i) 0 3 7) s

/-- The pair's bookkeeping starts afresh. -/
def Pair.fresh (x : Pair) (joined : Bool) (room : Nat) : Pair := { roleStandby := x.roleStandby, joined := joined, room := room }

/-! ### Join, sync, release (R412, R529, R532) -/

/-- PAIR_JOIN (R412, R433, R529).
[DEDUCED, log entry 107: unsafe] -/
def pairJoin (s : State) (c : Cmd) (r : PartnerReport) : State :=
  let role := c.at_ 0x10 1
  let partner := c.at_ 0x12 2
  let pin := if s.pair.roleStandby then 1 else 0
  s.checked c (c.unused [(0x10, 1), (0x12, 2)] ++ flag (!s.power.pairPresent || role != pin) 0x10 ++ flag (decide (4095 < partner)) 0x12) (
    if s.pair.joined then s.badState c.id
    else if !r.linkUp then s.finish c.id stTimeout
    else if !r.sameImage || !r.sameOrder || decide (r.standbyFree < r.activeBytes) then s.badState c.id
    else
      let s1 : State := { s.pairPorts with pair := s.pair.fresh true (r.standbyFree - r.activeBytes) }
      (s1.setCreg offPair (w64 (partner * 2 ^ 20 + role * 256 + 1))).finish c.id stOk)

/-- PAIR_JOIN (R529). -/
def execPairJoin (cmd : Nat) (r : PartnerReport) (s : State) : Out := onCmd cmd 0x80 s fun c => pairJoin s c r

/-- PAIR_SYNC (R412, R433, R532): STATE 2 while it copies, 3 once every chunk and step is acknowledged. -/
def pairSync (s : State) (c : Cmd) (acked : Bool) : State :=
  s.checked c (c.unused []) (
    if c.started && !(s.pair.joined && s.pairUp) then s.finish c.id stTimeout
    else if !s.pair.joined || s.standby then s.badState c.id
    else if !s.pairUp then s.finish c.id stTimeout
    else
      let s1 := if c.started then s else (s.setCfld offPair 0 3 2).modCmd c.id fun x => { x with started := true }
      if acked && s1.pair.sent.isEmpty then (s1.setCfld offPair 0 3 3).finish c.id stOk else s1)

/-- PAIR_SYNC (R532). -/
def execPairSync (cmd : Nat) (acked : Bool) (s : State) : Out := onCmd cmd 0x81 s fun c => pairSync s c acked

/-- The pair ends, and ports 14 and 15 train as ordinary ports (R412, R433). -/
def State.pairEnd (s : State) : State :=
  let s1 : State := { s with pair := s.pair.fresh false 0 }
  [14, 15].foldl (fun (st : State) (i : Nat) => if st.cfld (offPort i) 0 3 = 7 then st.portTrain i else st) (s1.setCreg offPair 0)

/-- PAIR_RELEASE (R412, R433). -/
def execPairRelease (cmd : Nat) (s : State) : Out :=
  onCmd cmd 0x83 s fun c =>
    s.checked c (c.unused []) (if s.pair.joined then s.pairEnd.finish c.id stOk else s.badState c.id)

/-! ### Mirror steps (R530) -/

/-- One write of a step into the standby's own copy of the region, where it is READY. -/
def State.mirrorWrite (s : State) (w : Nat × Nat × Nat × List Byte) : State :=
  let r := s.region w.1 w.2.1
  if fld r.attr 56 2 = 2 ∧ w.2.2.1 + w.2.2.2.length ≤ r.size then (s.homeWrite (r.base + w.2.2.1) w.2.2.2 7).1 else s

/-- A region-table change on the standby: what it asks to allocate is allocated before the step is acknowledged. -/
def State.mirrorTable (s : State) (t : Nat × Nat × W64) : State :=
  let r := (s.region t.1 t.2.1).write t.2.2 s.mc.nextCmd
  if r.state = 1 ∧ r.valid then
    match s.place (fld r.attr 36 4) r.size 65536 with
    | some b => (s.zeroRange b r.size).setRegion t.1 t.2.1 { r with attr := setFld r.attr 56 2 2, base := b }
    | none => s.setRegion t.1 t.2.1 { r with attr := setFld r.attr 56 2 3 }
  else s.setRegion t.1 t.2.1 r

/-- A step applied: its writes, its table change, and the letterbox and tag it names. -/
def State.applyMirror (s : State) (m : MirrorStep) : State :=
  let s1 := m.writes.foldl (fun (st : State) (w : Nat × Nat × Nat × List Byte) => st.mirrorWrite w) s
  let s2 := match m.table with
    | some t => s1.mirrorTable t
    | none => s1
  { s2 with pair := { s2.pair with
      rxSeq := m.seq + 1
      last := if m.fn = noLetterbox then s2.pair.last else nset 0 s2.pair.last m.fn (m.tag.toNat + 1) } }

/-- Applies the received steps that are next in sequence order. -/
def State.applyNext : Nat → State → State
  | 0, s => s
  | n + 1, s =>
    match s.pair.received.find? fun (m : MirrorStep) => m.seq == s.pair.rxSeq with
    | some m =>
      State.applyNext n (({ s with pair := { s.pair with received := s.pair.received.filter fun (x : MirrorStep) => x.seq != m.seq } }).applyMirror m)
    | none => s

/-- MIRROR_STEP_RECEIVED (R530): steps are applied in sequence order; one that came before is ignored. -/
def mirrorStepReceived (m : MirrorStep) (s : State) : State :=
  if !s.pair.joined || !s.standby || s.pairState == 4 then s
  else if 2 ^ 31 ≤ (m.seq - s.pair.rxSeq).toNat || s.pair.received.any (fun (x : MirrorStep) => x.seq == m.seq) then s
  else
    let s1 : State := { s with pair := { s.pair with received := s.pair.received ++ [m] } }
    s1.applyNext s1.pair.received.length

/-- MIRROR_STEP_RECEIVED (R530). -/
def execMirrorStepReceived (m : MirrorStep) (s : State) : Out := .next (mirrorStepReceived m s)

/-- MIRROR_STEP_ACK (R530, R535). -/
def execMirrorStepAck (seq : BitVec 32) (s : State) : Out :=
  .next (if s.pair.sent.any (fun (m : MirrorStep) => m.seq == seq) then
    State.setLag { s with pair := { s.pair with sent := s.pair.sent.filter fun (m : MirrorStep) => m.seq != seq } } else s)

/-- APERTURE_MIRROR_STEP (R530): each 1 ms, the aperture writes since the last one. -/
def execApertureMirrorStep (s : State) : Out :=
  .next (if s.mirrors && !s.pair.apWrites.isEmpty then
    ({ s with pair := { s.pair with apWrites := [] } }).sendStep noLetterbox 0 s.pair.apWrites none else s)

/-! ### Takeover and the loss of the link (R533, R534) -/

/-- The 64-byte result of a takeover: for each letterbox, the tag of the last command whose step was applied, and whether there is one. -/
def State.takenTags (s : State) : List Byte :=
  (List.range 16).flatMap fun f =>
    match nget 0 s.pair.last f with
    | 0 => zeros 4
    | t + 1 => leBytes 4 (t % 65536 + 65536)

/-- PAIR_TAKEOVER (R412, R533): the standby applies every step it received and becomes active; with both ports down only where PAIR_ROLE
already reads active. DETAIL is open where no step was ever received.
[PRESUMED, log entry 108: unsafe] -/
def pairTakeover (s : State) (c : Cmd) : State :=
  s.checked c (c.unused []) (
    if !s.pair.joined || !s.standby then s.badState c.id
    else if !s.pairUp && s.pair.roleStandby then s.finish c.id stTimeout
    else
      let s1 := State.applyNext s.pair.received.length s
      let s2 := (s1.setCfld offPair 8 1 0).setCfld offPair 0 3 (if s1.pairUp then 1 else 4)
      let seq := s1.pair.rxSeq - 1
      let none_ := s1.pair.rxSeq == 0
      let s3 : State := { s2 with pair := { s2.pair with txSeq := s1.pair.rxSeq, received := [], room := s2.freeHbm } }
      (if none_ then s3.drew else s3).complete c.id stOk (if none_ then w64 s3.draw else w64 seq.toNat) s1.takenTags)

/-- PAIR_TAKEOVER (R533). -/
def execPairTakeover (cmd : Nat) (s : State) : Out := onCmd cmd 0x82 s (pairTakeover s)

/-- PAIR_LINK_LOSS (R433, R534): the module serves on and keeps no log of steps; a PAIR_SYNC in flight ends with TIMEOUT. -/
def pairLinkLoss (s : State) : State :=
  if !s.pair.joined || s.pairState == 0 || s.pairState == 4 then s
  else
    let s1 := [14, 15].foldl (fun (st : State) (i : Nat) => if st.cfld (offPort i) 0 3 = 7 then st.portDown i else st) s
    let s2 : State := { s1 with pair := { s1.pair with sent := [], notes := [], apWrites := [] } }
    (s.cmds.filter fun (c : Cmd) => c.opcode == 0x81 && c.started).foldl (fun (st : State) (c : Cmd) => st.finish c.id stTimeout)
      ((s2.setLag).setCfld offPair 0 3 4)

/-- PAIR_LINK_LOSS (R534). -/
def execPairLinkLoss (s : State) : Out := .next (pairLinkLoss s)

end Sys2Proof.Machine
end

