-- ==== Sys2Proof/Machine/Reads.lean ====
section
/-! DEFINITION. What reads of registers and windows return: a function's control window and result window (R65, R350 to R356, R366,
R368), the control and status space, the sill windows and the local-array view (R16, R98, R198, R210, R290, R434, R449, R468, R548).
The command table has no row for such a read but READ_REG; these functions say what the requester is given. -/

namespace Sys2Proof.Machine
open Sys2Proof

/-! ### The control window (R350 to R356) -/

/-- The number of a letterbox state (R354). -/
def LbState.code : LbState → Nat
  | .disabled => 0
  | .running => 1
  | .stopping => 2
  | .error => 3

/-- A flag as a bit. -/
def bitOf (b : Bool) (n : Nat) : Nat := if b then 2 ^ n else 0

/-- LB_STATUS (R354). -/
def State.lbStatus (s : State) (f : Nat) : W64 :=
  let x := s.fn f
  w64 (s.inflight f * 2 ^ 48 + x.sqHead % 65536 * 2 ^ 32 + x.cqTail % 65536 * 2 ^ 16 + bitOf x.cqPhase 7 + bitOf x.dbError 5 +
    bitOf x.cfgError 4 + bitOf x.fetchError 3 + bitOf x.held 2 + x.st.code)

/-- REGION_ATTR or REGION_BASE of a function's entry as another function's window shows it (R64, R65, R351): VF n sees its own table,
and the table of a VF that is not enabled holds reset values. -/
def State.regionRead (s : State) (by_ f i : Nat) (base : Bool) : W64 :=
  let r : Region := if (s.fn f).enabled then s.region f i else {}
  if by_ ≠ 0 ∧ by_ ≠ f then 0
  else if base then (if fld r.attr 56 2 = 2 then w64 r.base else 0)
  else r.attr

/-- A word of the MSI-X table (R351, R365). -/
def Msix.word (m : Msix) (i : Nat) : Nat :=
  match i with
  | 0 => fld m.addr 0 32
  | 1 => fld m.addr 32 32
  | 2 => m.data.toNat
  | _ => bitOf m.masked 0

/-- The MSI-X pending bits (R351). -/
def Fn.pendingBits (x : Fn) : W64 := w64 (((List.range 64).map fun v => bitOf (x.vec v).pending v).sum)

/-- The aligned 8 bytes at an offset of function f's control window (R351). -/
def State.windowWord (s : State) (f off : Nat) : W64 :=
  let x := s.fn f
  if off = 0 then s.ident f
  else if off = 0x1000 then x.sqBase
  else if off = 0x1008 then x.cqBase
  else if off = 0x1010 then x.ringCfg
  else if off = 0x1018 then w64 (bitOf x.enable 0)
  else if off = 0x1020 then s.lbStatus f
  else if off = 0x1028 then x.aperture
  else if off = 0x2000 then w64 (x.dbHead * 2 ^ 32 + x.dbTail)
  else if off = 0x3000 then (if f = 0 then s.pcie.knock else 0)
  else if 0x10000 ≤ off ∧ off < 0x14000 then
    s.regionRead f ((off - 0x10000) / 0x400) ((off - 0x10000) % 0x400 / 16) (off % 16 == 8)
  else if 0x20000 ≤ off ∧ off < 0x20400 then
    let m := x.vec ((off - 0x20000) / 16)
    let i := off % 16 / 4
    w64 (m.word (i + 1) * 2 ^ 32 + m.word i)
  else if off = 0x21000 then x.pendingBits
  else 0

/-- A read of n bytes through function f's control window (R350 to R352): aligned 4 and 8 bytes; any other reads zeros and is
counted. -/
def State.windowRead (s : State) (f off n : Nat) : List Byte × State :=
  if (n = 4 ∨ n = 8) ∧ off % n = 0 then (((leBytes 8 (s.windowWord f (off / 8 * 8)).toNat).drop (off % 8)).take n, s)
  else (zeros n, s.badWindow f)

/-! ### The result window (R366, R368) -/

/-- The header of a result slot (R366). -/
def ResultSlot.header (r : ResultSlot) : List Byte :=
  leBytes 8 (r.seq.toNat * 2 ^ 32 + r.st * 2 ^ 30 + r.status % 256 * 2 ^ 16 + r.tag.toNat) ++ leBytes 8 (r.length % 2 ^ 32) ++ zeros 48

/-- The 4,096 bytes of a result slot (R366 to R368): what no result gives is open while FILLING or EMPTY.
[DESIGN CHOICE, log entry 163: safe] -/
def State.slotBytes (s : State) (r : ResultSlot) : List Byte :=
  r.header ++ (if r.st = 2 then r.payload ++ zeros (4032 - r.payload.length) else s.drawBytes 4032)

/-- A read of n bytes of the result window by function f: its own letterbox's slots, zeros elsewhere (R366). -/
def State.resultRead (s : State) (f off n : Nat) : List Byte × State :=
  ((List.range n).map fun i =>
    let a := off + i
    if a / 0x100000 = f then (s.slotBytes ((s.fn f).slot (a % 0x100000 / 0x1000))).getD (a % 0x1000) 0 else 0, s.drew)

/-! ### Device offsets as controllers and debug access read them -/

/-- Whether a requester reads what controllers read: they do, and debug access does after DEBUG_UNLOCK (R98, R198, R210, R290, R434,
R548). -/
def State.mayRead (s : State) (by_ : Requester) : Bool := isController by_ || (decide (by_ = .debug) && s.sec.debug)

/-- A register of the control and status space as a read shows it: BAY_CFG, HBM_CHAN_STATUS and NB_STATUS read as under test while
bring-up tests the unit (R216, R302, R328, R439, R442). -/
def State.regValue (s : State) (off : Nat) : W64 × State :=
  let r := s.readReg off
  let v := if isReg off (offNb 0) 0x1000 16 then s.nbStatus ((off - offNb 0) / 0x1000) else r.1
  (if s.stage = 3 ∧ isReg off (offBayCfg 0) 0x1000 1344 ∧ fld v 0 2 ≠ 2 then setFld v 0 2 3
  else if s.stage = 3 ∧ isReg (off - off % 0x1000) (offChan 0 0) 0x1000 16 ∧ fld v 0 2 ≠ 2 then setFld v 0 2 3
  else if s.stage = 5 ∧ !s.power.tested ∧ isReg off (offNb 0) 0x1000 16 ∧ fld v 0 3 = 1 then setFld v 0 3 5
  else v, r.2)

/-- Base of the cores' registers in the control and status space (R98). -/
def coreRegs : Nat := 0x40000000

/-- Whether an offset of the control and status space is a register of a core. -/
def isCoreReg (off : Nat) : Bool :=
  decide (coreRegs ≤ off) && decide (off < coreRegs + 22848 * 0x1000) && decide (off % 8 = 0) && csrListed ((off - coreRegs) % 0x1000 / 8)

/-- A read of a register of the control and status space: nothing where it is refused (R17), which is logged. -/
def State.controlRead (s : State) (by_ : Requester) (off : Nat) : Option W64 × State :=
  if s.mayRead by_ && isCoreReg off then
    let r := s.csrRead ((off - coreRegs) / 0x1000) ((off - coreRegs) % 0x1000 / 8)
    (some r.1, r.2)
  else if (s.mayRead by_ && controlReg off) || (decide (by_ = .board) && boardReadable off) then
    let r := s.regValue off
    (some r.1, r.2)
  else (none, s.logEv 17 off)

/-- A read of n bytes of a sill window (R198): a private region's bytes; those of a shared region are the raw data array, whose
layout the model does not keep.
[DESIGN CHOICE, log entry 164: safe] -/
def State.sillRead (s : State) (by_ : Requester) (off n : Nat) : Option (List Byte) × State :=
  let o := s.windowOwner off
  if !s.mayRead by_ || decide (sillWindow + 0x200000000 ≤ off) || decide (sillUsed < (off - sillWindow) % 0x100000000 + n) then
    (none, s.logEv 17 off)
  else if o.2 + n ≤ 0x8000 * s.privSteps (clusterOf o.1) then (some (s.localBytes 2 o.1 o.2 n), s)
  else (some (s.drawBytes n), s.drew)

/-- The local arrays' debug view (R16, R548). The manual does not say where in it a core's array lies, so what a read there returns
is open.
[DESIGN CHOICE, log entry 164: safe] -/
def State.arrayRead (s : State) (by_ : Requester) (off n : Nat) : Option (List Byte) × State :=
  if decide (by_ = .debug) && s.sec.debug then (some (s.drawBytes n), s.drew) else (none, s.logEv 17 off)

/-- A read of n bytes at a device offset by a controller, the board or debug access, device memory aside (R16, R17, R98, R198, R548):
nothing where it is refused. -/
def State.ringRead (s : State) (by_ : Requester) (off n : Nat) : Option (List Byte) × State :=
  if sillWindow ≤ off ∧ off < sillWindow + 0x200000000 then s.sillRead by_ off n
  else if 0xC0000000000 ≤ off ∧ off + n ≤ 0xC0100000000 then s.arrayRead by_ off n
  else if 0xF0000000000 ≤ off ∧ off + n ≤ 0xF0100000000 ∧ n = 8 then
    let r := s.controlRead by_ (off - 0xF0000000000)
    (r.1.map fun v => leBytes 8 v.toNat, r.2)
  else (none, s.logEv 17 off)

end Sys2Proof.Machine
end

