-- ==== Sys2Proof/Machine/Scalar.lean ====
section
/-! DEFINITION. Scalar and thread integer instructions (R78, R171): majors 0x00 to 0x0F. -/

namespace Sys2Proof.Machine
open Sys2Proof

/-- A three-register integer instruction: 64-bit in scalar code, 32-bit in thread code (R78, R171). -/
def intA (who : Agent) (f : FormA) (op : (w : Nat) → BitVec w → BitVec w → BitVec w) (s : State) : Out :=
  issueRegs who (legal3 who f) f.pred f.pneg [] [f.src1.toNat, f.src2.toNat]
    (fun k => k.setS f.dst.toNat (op 64 (k.sreg f.src1.toNat) (k.sreg f.src2.toNat)))
    (fun t => t.setReg f.dst.toNat (op 32 (t.reg f.src1.toNat) (t.reg f.src2.toNat))) s

/-- NOP (R78): all fields other than MAJOR are zero. -/
def execNop (who : Agent) (f : FormA) (s : State) : Out :=
  issueRegs who (usesA f false false false false false false false && f.pred == 0 && !f.pneg) f.pred f.pneg [] [] id id s

/-- ADD (R78). -/
def execAdd (who : Agent) (f : FormA) (s : State) : Out := intA who f (fun _ a b => a + b) s

/-- SUB (R78). -/
def execSub (who : Agent) (f : FormA) (s : State) : Out := intA who f (fun _ a b => a - b) s

/-- MUL (R78): the low half of the product. -/
def execMul (who : Agent) (f : FormA) (s : State) : Out := intA who f (fun _ a b => a * b) s

/-- MULHU (R78, R171): the high half of the unsigned product. -/
def execMulhu (who : Agent) (f : FormA) (s : State) : Out :=
  intA who f (fun w a b => BitVec.ofNat w (a.toNat * b.toNat / 2 ^ w)) s

/-- AND (R78). -/
def execAnd (who : Agent) (f : FormA) (s : State) : Out := intA who f (fun _ a b => a &&& b) s

/-- OR (R78). -/
def execOr (who : Agent) (f : FormA) (s : State) : Out := intA who f (fun _ a b => a ||| b) s

/-- XOR (R78). -/
def execXor (who : Agent) (f : FormA) (s : State) : Out := intA who f (fun _ a b => a ^^^ b) s

/-- SHL (R78, R171): by bits [5:0] of the count, [4:0] in thread code. -/
def execShl (who : Agent) (f : FormA) (s : State) : Out := intA who f (fun w a b => a <<< (b.toNat % w)) s

/-- SHR (R78, R171). -/
def execShr (who : Agent) (f : FormA) (s : State) : Out := intA who f (fun w a b => a >>> (b.toNat % w)) s

/-- SAR (R78, R171). -/
def execSar (who : Agent) (f : FormA) (s : State) : Out := intA who f (fun w a b => a.sshiftRight (b.toNat % w)) s

/-- MIN (R78): signed. -/
def execMin (who : Agent) (f : FormA) (s : State) : Out := intA who f (fun _ a b => if b.slt a then b else a) s

/-- MAX (R78): signed. -/
def execMax (who : Agent) (f : FormA) (s : State) : Out := intA who f (fun _ a b => if a.slt b then b else a) s

/-- ADDI (R78, R171): FUNC is not used. -/
def execAddi (who : Agent) (f : FormB) (s : State) : Out :=
  issueRegs who (f.func == 0 && regOk who f.dst && regOk who f.src1) f.pred f.pneg [] [f.src1.toNat]
    (fun k => k.setS f.dst.toNat (k.sreg f.src1.toNat + f.imm.signExtend 64))
    (fun t => t.setReg f.dst.toNat (t.reg f.src1.toNat + f.imm)) s

/-- LI (R78, R171). -/
def execLi (who : Agent) (f : FormC) (s : State) : Out :=
  issueRegs who (regOk who f.dst) f.pred f.pneg [] []
    (fun k => k.setS f.dst.toNat (f.imm.signExtend 64))
    (fun t => t.setReg f.dst.toNat (f.imm.extractLsb' 0 32)) s

/-- The fields of CMP: registers under a comparison, predicates under a predicate operation (R75, R78). -/
def cmpLegal (who : Agent) (f : FormA) : Bool :=
  usesA f true true true false true false false && cmpDefined f.func.toNat && predOk f.dst &&
  (if f.func.toNat ≤ 5 then regOk who f.src1 && regOk who f.src2
   else predOk f.src1 && predOk f.src2 && (f.func != 0x13 || f.src2 == 0))

/-- What CMP writes, from the two registers and the two predicates its fields name (R78). -/
def cmpResult {w : Nat} (func : Nat) (a b : BitVec w) (pa pb : Bool) : Bool :=
  match cmpBits func a b with
  | some r => r
  | none => (cmpPred func pa pb).getD false

/-- CMP (R78). -/
def execCmp (who : Agent) (f : FormA) (s : State) : Out :=
  let onRegs := decide (f.func.toNat ≤ 5)
  issueRegs who (cmpLegal who f) f.pred f.pneg (if onRegs then [f.dst.toNat] else [f.dst.toNat, f.src1.toNat, f.src2.toNat])
    (if onRegs then [f.src1.toNat, f.src2.toNat] else [])
    (fun k => k.setP f.dst.toNat (cmpResult f.func.toNat (k.sreg f.src1.toNat) (k.sreg f.src2.toNat)
      (k.preg f.src1.toNat) (k.preg f.src2.toNat)))
    (fun t => t.setP f.dst.toNat (cmpResult f.func.toNat (t.reg f.src1.toNat) (t.reg f.src2.toNat)
      (t.preg f.src1.toNat) (t.preg f.src2.toNat))) s

end Sys2Proof.Machine
end

