-- ==== Sys2Proof/Machine/ThreadGroup.lean ====
section
/-! DEFINITION. Thread groups (R167 to R193): launch, join and exit, barriers, locks, YIELD and votes: majors 0x70 to
0x77. -/

namespace Sys2Proof.Machine
open Sys2Proof

/-! ### Waking (R183, R184, R189) -/

/-- A waiting thread goes on at the instruction after the one at which it arrived (R183). -/
def Thread.wake (t : Thread) : Thread := { t with mode := .runnable }

/-- The threads of a group that satisfy a test become runnable. -/
def Group.wakeIf (g : Group) (p : Thread → Bool) : Group :=
  { g with threads := g.threads.map fun (e : Nat × Thread) => (e.1, if p e.2 then e.2.wake else e.2) }

/-- Whether every live thread of a group waits at a barrier; a group with none does. -/
def Group.allAt (g : Group) (kind id : Nat) : Bool := g.live.all fun l => decide ((g.th l).mode = .waiting kind id)

/-- Once no thread of a group is runnable, its parked threads are (R189). -/
def Group.unpark (g : Group) : Group :=
  if g.runnable.isEmpty then g.wakeIf fun t => decide (t.mode = .parked) else g

/-- The groups of a block of a core. -/
def Core.blockGroups (k : Core) (b : Nat) : List Group := (k.groups.map (·.2)).filter fun g => g.used && g.block == b

/-- Whether some live thread of the groups listed waits at a barrier. -/
def someAt (gs : List Group) (kind id : Nat) : Bool := gs.any fun g => g.live.any fun l => decide ((g.th l).mode = .waiting kind id)

/-- A core after its group and block barriers have been judged (R183). -/
def Core.localBarriers (k : Core) : Core :=
  let k1 := (List.range 8).foldl (fun x id =>
    { x with groups := x.groups.map fun (e : Nat × Group) =>
        (e.1, if e.2.used && someAt [e.2] 0 id && e.2.allAt 0 id
              then e.2.wakeIf fun t => decide (t.mode = .waiting 0 id) else e.2) }) k
  let k2 := (List.range 32).foldl (fun x i =>
    let b := i / 8
    let id := i % 8
    let gs := x.blockGroups b
    if someAt gs 1 id && gs.all (·.allAt 1 id) then
      { x with groups := x.groups.map fun (e : Nat × Group) =>
          (e.1, if e.2.block = b then e.2.wakeIf fun t => decide (t.mode = .waiting 1 id) else e.2) }
    else x) k1
  { k2 with groups := k2.groups.map fun (e : Nat × Group) => (e.1, e.2.unpark) }

/-- The cores of a core's logical cluster in the same run (R37, R184). -/
def State.clusterMates (s : State) (c : Nat) : List Nat :=
  let k := s.core c
  (s.cores.filter fun e => e.2.run == k.run && e.2.vcore != 0 && (e.2.vcore - 1) / 16 == (k.vcore - 1) / 16).map (·.1)

/-- The participating blocks of a core for cluster barrier n that have arrived (R184). -/
def Core.arrived (k : Core) (n : Nat) : Nat :=
  ((List.range 4).filter fun b =>
    let gs := k.blockGroups b
    gs.any (fun g => g.cbar.getLsbD n) && someAt gs 2 n && gs.all (·.allAt 2 n)).length

/-- The smallest EXPECT stated in the present round of cluster barrier n by a core's threads; 64 where none.
[DESIGN CHOICE, log entry 32: unsafe] -/
def Core.leastExpect (k : Core) (n : Nat) : Nat :=
  (k.groups.flatMap fun e => e.2.live.filterMap fun l =>
    if (e.2.th l).mode = .waiting 2 n then some (e.2.th l).expect else none).foldl min 64

/-- Cluster barrier n of a core's logical cluster is judged (R184): a round completes when EXPECT arrived and ended
blocks are counted. -/
def State.clusterBarrier (s : State) (c n : Nat) : State :=
  let mates := s.clusterMates c
  let arrived := (mates.map fun m => (s.core m).arrived n).sum
  let ended := (mates.map fun m => nget 0 (s.core m).exited n).sum
  let expect := mates.foldl (fun e m => min e ((s.core m).leastExpect n)) 64
  if arrived ≠ 0 ∧ expect ≤ arrived + ended then
    mates.foldl (fun st m => st.modCore m fun k =>
      let here := (List.range 4).filter fun b =>
        let gs := k.blockGroups b
        someAt gs 2 n && gs.all (·.allAt 2 n)
      { k with groups := k.groups.map fun (e : Nat × Group) =>
          (e.1, if here.contains e.2.block then (e.2.wakeIf fun t => decide (t.mode = .waiting 2 n)).unpark else e.2) }) s
  else s

/-- Barriers and parked threads after threads of a core arrived, exited or parked (R183, R184, R189). -/
def State.judge (s : State) (c : Nat) : State :=
  (List.range 4).foldl (fun st n => st.clusterBarrier c n) (s.modCore c Core.localBarriers)

/-! ### Launch, join, exit -/

/-- TG.LAUNCH (R168, R193): enters the thread-group unit's queue of 4. -/
def execTgLaunch (who : Agent) (f : FormA) (s : State) : Out :=
  let legal := f.dst == 0 && regOk who f.src1 && regOk who f.src2 && f.src3 == 0 && f.func == 0 && f.type == 0 &&
    decide (f.mod.toNat < 2 ^ 11)
  issueScalar who legal f.pred f.pneg (fun c s1 =>
    let k := s1.core c
    let m := f.mod.toNat
    if 4 ≤ k.tgq.length then s1.stallAt c 9
    else
      let q : LaunchReq := { entry := (k.sreg f.src1.toNat).toNat, arg := k.sreg f.src2.toNat, cls := bitsN m 8 3,
                             cbar := BitVec.ofNat 4 (bitsN m 4 4), block := bitsN m 2 2, groups := bitsN m 0 2 + 1,
                             epoch := k.epoch, pc := k.pc }
      s1.modCore c fun x => { x.retire with tgq := x.tgq ++ [q] }) s

/-- The registers of a thread at launch (R169). -/
def launchThread (q : LaunchReq) (gi lane : Nat) : Thread :=
  let t : Thread := { mode := .runnable, pc := q.entry }
  { (((t.setReg 0 (BitVec.ofNat 32 (32 * gi + lane))).setReg 1 (BitVec.ofNat 32 q.block)).setReg 2
    (q.arg.extractLsb' 0 32)).setReg 3 (q.arg.extractLsb' 32 32) with cache := [] }

/-- Group gi of a launched block (R168, R169). -/
def launchGroup (q : LaunchReq) (gi : Nat) : Group :=
  { used := true, block := q.block, index := gi, cls := q.cls, cbar := q.cbar, epoch := q.epoch,
    threads := (List.range 32).map fun l => (l, launchThread q gi l) }

/-- The free group slots of a core.
[DESIGN CHOICE, log entry 31: unsafe] -/
def Core.freeSlots (k : Core) : List Nat := (List.range 4).filter fun i => !(k.grp i).used

/-- BLOCK_LAUNCH_BEGIN (R168): the launch at the head of the queue begins once its block number and enough slots are
free; it takes the lowest free slots. -/
def blockLaunch (c : Nat) (s : State) : State :=
  let k := s.core c
  match k.tgq with
  | [] => s
  | q :: r =>
    if !(k.blockGroups q.block).isEmpty || decide (k.freeSlots.length < q.groups) then s
    else if q.entry % 8 ≠ 0 then s.trapAt c q.pc tAlign 0 stAborted
    else
      let k1 := ((List.range q.groups).zip k.freeSlots).foldl (fun x gs => x.setGrp gs.2 (launchGroup q gs.1)) { k with tgq := r }
      s.setCore c k1

/-- BLOCK_LAUNCH_BEGIN (R168). -/
def execBlockLaunchBegin (c : Nat) (s : State) : Out := onUnit (Unit.core c) (blockLaunch c s)

/-- TG.JOIN (R168, R170, R193): waits behind the launches in the queue, then for the named block, or for every block. -/
def execTgJoin (who : Agent) (f : FormA) (s : State) : Out :=
  let m := f.mod.toNat
  let all := bitsN m 4 1 == 1
  let legal := usesA f false false false false false false true && decide (m < 32) && bitsN m 0 2 == 0 &&
    (!all || bitsN m 2 2 == 0)
  issueScalar who legal f.pred f.pneg (fun c s1 =>
    let k := s1.core c
    let mine (b : Nat) : Bool := all || b == bitsN m 2 2
    if k.groups.any (fun g => g.2.used && mine g.2.block) || !k.tgq.isEmpty then s1.stallAt c 10
    else s1.modCore c Core.retire) s

/-- A block whose last thread has exited frees its slots and number, and counts as ended at its cluster barriers
(R175, R184). -/
def Core.endBlock (k : Core) (b : Nat) : Core :=
  let gs := k.blockGroups b
  if gs.isEmpty || gs.any (fun g => !g.live.isEmpty) then k
  else
    let cbar := (gs.map (·.cbar)).foldl (· ||| ·) 0
    { k with
      groups := k.groups.filter fun e => !(e.2.used && e.2.block == b),
      exited := (List.range 4).foldl (fun m n => if cbar.getLsbD n then nset 0 m n (nget 0 m n + 1) else m) k.exited }

/-- TG.EXIT (R175): threads of a block that joins a cluster barrier exit once the core's earlier stores are visible, since they then count
as arrived (R182, R184).
[DEDUCED, log entry 33: safe] -/
def execTgExit (who : Agent) (f : FormA) (s : State) : Out :=
  issueThread who (usesA f false false false false false false false) f.pred f.pneg true [] (fun c i s1 lanes =>
    let b := (s1.grp c i).block
    let s2 := s1.modGrp c i fun g => g.onLanes lanes fun _ _ => {}
    if (s1.grp c i).cbar ≠ 0 ∧ !s1.storesDone c then .error none
    else .ok ((s2.modCore c fun k => k.endBlock b).judge c)) s

/-! ### Barriers -/

/-- TG.BAR (R182 to R184, R193): a cluster barrier is reached once the core's earlier stores are visible.
[DEDUCED, log entry 33: safe] -/
def execTgBar (who : Agent) (f : FormA) (s : State) : Out :=
  let m := f.mod.toNat
  let kind := f.func.toNat
  let id := bitsN m 0 3
  let legal := usesA f false false false false true false true && decide (kind ≤ 2) &&
    (if kind = 2 then decide (id < 4) && decide (m = bitsN m 5 6 * 32 + id) else decide (m < 8))
  issueThread who legal f.pred f.pneg true [] (fun c i s1 lanes =>
    let g := s1.grp c i
    if kind = 2 ∧ !g.cbar.getLsbD id then .ok (s1.trapAt c g.lowPc tUnit 0 stAborted)
    else if kind = 2 ∧ !s1.storesDone c then .error none
    else .ok ((s1.modGrp c i fun x => x.onLanes lanes fun _ t =>
      { t.next with mode := .waiting kind id, expect := bitsN m 5 6 + 1 }).judge c)) s

/-! ### Locks (R187 to R190) -/

/-- The token of a lane of a group (R187). -/
def State.token (s : State) (c slot lane : Nat) : W32 :=
  BitVec.ofNat 32 (2 ^ 31 + (s.coreGen c).toNat % 512 * 2 ^ 22 + (s.core c).vc * 2 ^ 7 + slot * 32 + lane)

/-- Whether a lock word counts as free for a core (R187): HELD clear, or its GEN is not the present generation of the
core it names in the logical cluster.
[DEDUCED, log entry 30: unsafe] -/
def State.lockFree (s : State) (c : Nat) (w : W32) : Bool :=
  let v := bitsN w.toNat 7 15
  if !w.msb then true
  else if v / 16 ≠ (s.core c).vc / 16 then false
  else
    match s.placed v with
    | some o => bitsN w.toNat 22 9 != (s.coreGen o).toNat % 512
    | none => false

/-- A lock word's location: UNIT outside spaces 0x1 and 0x3 or misaligned, RANGE beyond the bound (R81, R176, R193). -/
def State.lockLoc (s : State) (c addr : Nat) : Except Nat Loc :=
  let sp := addr / 2 ^ 60
  if sp ≠ 1 ∧ sp ≠ 3 then .error tUnit
  else
    match s.resolve c addr 4 true with
    | none => .error tRange
    | some l => if addr % 4 ≠ 0 then .error tUnit else .ok l

/-- The number by which R189 knows a lock word: its core and offset, plus one. -/
def lockId : Loc → Nat
  | .spad c off => c * 2 ^ 32 + off + 1
  | _ => 0

/-- A lock word as a core's LOCK.TRY and LOCK.REL test it: the bytes read, with the writes to it that the core itself holds under an
open epoch in the order issued (R188, R271).
[DEDUCED, log entry 157: unsafe] -/
def State.lockWord (s : State) (c : Nat) (l : Loc) (bs : List Byte) : W32 :=
  match l with
  | .spad o off => BitVec.ofNat 32 (leNat ((s.core c).held.foldl (fun w h =>
      match h with
      | .spad d a x => if d = o then overlay off w a x else w
      | _ => w) bs))
  | _ => BitVec.ofNat 32 (leNat bs)

/-- Whether another core holds a write to a lock word under an open epoch (R188, R271): until that resolves the word is not free, so that
two holders of one word are never possible.
[DEDUCED, log entry 157: unsafe] -/
def State.lockPending (s : State) (c : Nat) (l : Loc) : Bool :=
  match l with
  | .spad o off => s.cores.any fun e => e.1 != c && e.2.held.any fun h =>
      match h with
      | .spad d a x => d == o && decide (a < off + 4) && decide (off < a + x.length)
      | _ => false
  | _ => false

/-- One lane of LOCK.TRY (R188). -/
def lockTryLane (c i dst : Nat) (s : State) (lane addr : Nat) : MemAns :=
  match s.lockLoc c addr with
  | .error cause => .trap cause stAborted s
  | .ok l =>
    if s.mustWait c l 4 true then .wait none
    else
      match s.load c addr 4 l tDataEcc 0 with
      | .ok bs s1 =>
        if s1.lockFree c (s1.lockWord c l bs) && !s1.lockPending c l then
          match s1.store c l (leBytes 4 (s1.token c i lane).toNat) 0 with
          | .ok _ s2 => .ok [] (s2.modGrp c i fun g =>
              { g.setTh lane { ((g.th lane).setP dst true).next with failedOn := 0 } with progress := 0 })
          | x => x
        else .ok [] ((s1.bump 0x03 c 6 1).modGrp c i fun g =>
          g.setTh lane { ((g.th lane).setP dst false).next with failedOn := lockId l })
      | x => x

/-- The lane addresses of a lock instruction. -/
def lockAddrs (g : Group) (f : FormA) (lanes : List Nat) : List (Nat × Nat) :=
  lanes.map fun l => (l, ((g.th l).pair f.src1.toNat).toNat)

/-- The end of an instruction whose lanes act in turn. -/
def laneEnd (c pc : Nat) (r : LaneAns) : Except (Option Nat) State :=
  match r with
  | .ok s1 => .ok s1
  | .trap cause addr status s1 => .ok (s1.trapAt c pc cause addr status)
  | .wait w => .error w

/-- LOCK.TRY (R188, R193): lanes in increasing order. -/
def execLockTry (who : Agent) (f : FormA) (s : State) : Out :=
  let legal := usesA f true true false false false false false && predOk f.dst && evenOk f.src1
  issueThread who legal f.pred f.pneg false [f.src1.toNat, f.src1.toNat + 1] (fun c i s1 lanes =>
    let g := s1.grp c i
    laneEnd c g.lowPc (laneFold s1 (lockAddrs g f lanes) (lockTryLane c i f.dst.toNat))) s

/-- Threads of a core that parked after failing on a lock word become runnable (R189). -/
def Core.wakeParked (k : Core) (id : Nat) : Core :=
  { k with groups := k.groups.map fun (e : Nat × Group) =>
      (e.1, e.2.wakeIf fun t => decide (t.mode = .parked) && t.failedOn == id) }

/-- One lane of LOCK.REL (R190). -/
def lockRelLane (c i : Nat) (s : State) (lane addr : Nat) : MemAns :=
  match s.lockLoc c addr with
  | .error cause => .trap cause stAborted s
  | .ok l =>
    if s.mustWait c l 4 true then .wait none
    else
      match s.load c addr 4 l tDataEcc 0 with
      | .ok bs s1 =>
        if s1.lockWord c l bs = s1.token c i lane then
          match s1.store c l [0, 0, 0, 0] 0 with
          | .ok _ s2 => .ok [] ((s2.modGrp c i fun g => g.setTh lane (g.th lane).next).modCore c fun k => k.wakeParked (lockId l))
          | x => x
        else .ok [] ((s1.bump 0x03 c 8 1).modGrp c i fun g => g.setTh lane (g.th lane).next)
      | x => x

/-- LOCK.REL (R190, R193): the core's earlier stores are visible first. -/
def execLockRel (who : Agent) (f : FormA) (s : State) : Out :=
  let legal := usesA f false true false false false false false && evenOk f.src1
  issueThread who legal f.pred f.pneg true [f.src1.toNat, f.src1.toNat + 1] (fun c i s1 lanes =>
    let g := s1.grp c i
    if !s1.storesDone c then .error none
    else laneEnd c g.lowPc (laneFold s1 (lockAddrs g f lanes) (lockRelLane c i))) s

/-- YIELD (R189). -/
def execYield (who : Agent) (f : FormA) (s : State) : Out :=
  issueThread who (usesA f false false false false false false false) f.pred f.pneg false [] (fun c i s1 lanes =>
    .ok ((s1.modGrp c i fun g => g.onLanes lanes fun _ t => { t.next with mode := .parked }).judge c)) s

/-- PARK_TIMEOUT (R189, R194): 256 cycles have passed since a thread parked. -/
def execParkTimeout (c slot lane : Nat) (s : State) : Out :=
  onUnit (Unit.core c && Unit.slot slot && Unit.lane lane) (
    let g := s.grp c slot
    if (g.th lane).mode = .parked then
      (s.modGrp c slot fun x => x.setTh lane (g.th lane).wake).bump 0x03 c 7 1
    else s)

/-! ### Votes -/

/-- TG.VOTE (R193), over the threads that execute it.
[DEDUCED, log entry 29: unsafe] -/
def execTgVote (who : Agent) (f : FormA) (s : State) : Out :=
  let legal := usesA f true true false false true false false && decide (f.func.toNat ≤ 2) && predOk f.src1 &&
    (f.func == 0 || predOk f.dst)
  issueThread who legal f.pred f.pneg true [] (fun c i s1 lanes =>
    let g := s1.grp c i
    let yes (l : Nat) : Bool := (g.th l).preg f.src1.toNat
    let ballot : W32 := BitVec.ofNat 32 ((lanes.filter yes).map fun l => 2 ^ l).sum
    threadRegs s1 c i (fun _ t =>
      if f.func = 0 then t.setReg f.dst.toNat ballot
      else t.setP f.dst.toNat (if f.func = 1 then lanes.any yes else lanes.all yes)) lanes) s

end Sys2Proof.Machine
end

