-- ==== Sys2Proof/Machine/Dispatch.lean ====
section
/-! DEFINITION. One arm for each command: its meaning. -/

namespace Sys2Proof.Machine
open Sys2Proof

def exec (i : Instr) (s : State) : Host.Outcome State Fault Refusal :=
  match i with
  | .nop who f => Sys2Proof.Machine.execNop who f s
  | .add who f => Sys2Proof.Machine.execAdd who f s
  | .sub who f => Sys2Proof.Machine.execSub who f s
  | .mul who f => Sys2Proof.Machine.execMul who f s
  | .mulhu who f => Sys2Proof.Machine.execMulhu who f s
  | .and who f => Sys2Proof.Machine.execAnd who f s
  | .or who f => Sys2Proof.Machine.execOr who f s
  | .xor who f => Sys2Proof.Machine.execXor who f s
  | .shl who f => Sys2Proof.Machine.execShl who f s
  | .shr who f => Sys2Proof.Machine.execShr who f s
  | .sar who f => Sys2Proof.Machine.execSar who f s
  | .min who f => Sys2Proof.Machine.execMin who f s
  | .max who f => Sys2Proof.Machine.execMax who f s
  | .addi who f => Sys2Proof.Machine.execAddi who f s
  | .li who f => Sys2Proof.Machine.execLi who f s
  | .cmp who f => Sys2Proof.Machine.execCmp who f s
  | .br who f => Sys2Proof.Machine.execBr who f s
  | .call who f => Sys2Proof.Machine.execCall who f s
  | .ret who f => Sys2Proof.Machine.execRet who f s
  | .done who f => Sys2Proof.Machine.execDone who f s
  | .csrR who f => Sys2Proof.Machine.execCsrR who f s
  | .csrW who f => Sys2Proof.Machine.execCsrW who f s
  | .csrS who f => Sys2Proof.Machine.execCsrS who f s
  | .csrC who f => Sys2Proof.Machine.execCsrC who f s
  | .fenceStore who f => Sys2Proof.Machine.execFenceStore who f s
  | .fenceInv who f => Sys2Proof.Machine.execFenceInv who f s
  | .fenceAll who f => Sys2Proof.Machine.execFenceAll who f s
  | .ld who f => Sys2Proof.Machine.execLd who f s
  | .st who f => Sys2Proof.Machine.execSt who f s
  | .tdLd who f => Sys2Proof.Machine.execTdLd who f s
  | .msgSend who f => Sys2Proof.Machine.execMsgSend who f s
  | .msgRecv who f => Sys2Proof.Machine.execMsgRecv who f s
  | .msgPoll who f => Sys2Proof.Machine.execMsgPoll who f s
  | .msgInject c => Sys2Proof.Machine.execMsgInject c s
  | .vadd who f => Sys2Proof.Machine.execVadd who f s
  | .vsub who f => Sys2Proof.Machine.execVsub who f s
  | .vmul who f => Sys2Proof.Machine.execVmul who f s
  | .vfma who f => Sys2Proof.Machine.execVfma who f s
  | .vmin who f => Sys2Proof.Machine.execVmin who f s
  | .vmax who f => Sys2Proof.Machine.execVmax who f s
  | .vun who f => Sys2Proof.Machine.execVun who f s
  | .vcmp who f => Sys2Proof.Machine.execVcmp who f s
  | .vsel who f => Sys2Proof.Machine.execVsel who f s
  | .vbit who f => Sys2Proof.Machine.execVbit who f s
  | .vmov who f => Sys2Proof.Machine.execVmov who f s
  | .vperm who f => Sys2Proof.Machine.execVperm who f s
  | .vget who f => Sys2Proof.Machine.execVget who f s
  | .vld who f => Sys2Proof.Machine.execVld who f s
  | .vst who f => Sys2Proof.Machine.execVst who f s
  | .vlds who f => Sys2Proof.Machine.execVlds who f s
  | .vsts who f => Sys2Proof.Machine.execVsts who f s
  | .vredSum who f => Sys2Proof.Machine.execVredSum who f s
  | .vredSeg who f => Sys2Proof.Machine.execVredSeg who f s
  | .cvt who f => Sys2Proof.Machine.execCvt who f s
  | .cvtEnc who f => Sys2Proof.Machine.execCvtEnc who f s
  | .cvtDec who f => Sys2Proof.Machine.execCvtDec who f s
  | .mma who f => Sys2Proof.Machine.execMma who f s
  | .mmaStepBegin c => Sys2Proof.Machine.execMmaStepBegin c s
  | .accSt who f => Sys2Proof.Machine.execAccSt who f s
  | .accLd who f => Sys2Proof.Machine.execAccLd who f s
  | .accRv who f => Sys2Proof.Machine.execAccRv who f s
  | .accWv who f => Sys2Proof.Machine.execAccWv who f s
  | .tgLaunch who f => Sys2Proof.Machine.execTgLaunch who f s
  | .blockLaunchBegin c => Sys2Proof.Machine.execBlockLaunchBegin c s
  | .tgJoin who f => Sys2Proof.Machine.execTgJoin who f s
  | .tgExit who f => Sys2Proof.Machine.execTgExit who f s
  | .tgBar who f => Sys2Proof.Machine.execTgBar who f s
  | .lockTry who f => Sys2Proof.Machine.execLockTry who f s
  | .lockRel who f => Sys2Proof.Machine.execLockRel who f s
  | .yield who f => Sys2Proof.Machine.execYield who f s
  | .parkTimeout c slot lane => Sys2Proof.Machine.execParkTimeout c slot lane s
  | .tgVote who f => Sys2Proof.Machine.execTgVote who f s
  | .ssStart who f => Sys2Proof.Machine.execSsStart who f s
  | .streamStartBegin c slot => Sys2Proof.Machine.execStreamStartBegin c slot s
  | .streamStartEnd c slot => Sys2Proof.Machine.execStreamStartEnd c slot s
  | .ssWait who f => Sys2Proof.Machine.execSsWait who f s
  | .ssCancel who f => Sys2Proof.Machine.execSsCancel who f s
  | .ssPoll who f => Sys2Proof.Machine.execSsPoll who f s
  | .streamLoop c slot => Sys2Proof.Machine.execStreamLoop c slot s
  | .streamEndl c slot => Sys2Proof.Machine.execStreamEndl c slot s
  | .streamAdda c slot => Sys2Proof.Machine.execStreamAdda c slot s
  | .streamMove c slot => Sys2Proof.Machine.execStreamMove c slot s
  | .streamXmove c slot => Sys2Proof.Machine.execStreamXmove c slot s
  | .streamEnd c slot => Sys2Proof.Machine.execStreamEnd c slot s
  | .rowTransfer c slot => Sys2Proof.Machine.execRowTransfer c slot s
  | .chPf who f => Sys2Proof.Machine.execChPf who f s
  | .chPin who f => Sys2Proof.Machine.execChPin who f s
  | .chUnpin who f => Sys2Proof.Machine.execChUnpin who f s
  | .chDead who f => Sys2Proof.Machine.execChDead who f s
  | .specOpen who f => Sys2Proof.Machine.execSpecOpen who f s
  | .specClose who f => Sys2Proof.Machine.execSpecClose who f s
  | .specConfirm who f => Sys2Proof.Machine.execSpecConfirm who f s
  | .specAbort who f => Sys2Proof.Machine.execSpecAbort who f s
  | .specPoll who f => Sys2Proof.Machine.execSpecPoll who f s
  | .specConfirmed lpart group => Sys2Proof.Machine.execSpecConfirmed lpart group s
  | .specAborted lpart group => Sys2Proof.Machine.execSpecAborted lpart group s
  | .coreWatchdogExpiry c => Sys2Proof.Machine.execCoreWatchdogExpiry c s
  | .groupProgressExpiry c slot => Sys2Proof.Machine.execGroupProgressExpiry c slot s
  | .msgArrival a => Sys2Proof.Machine.execMsgArrival a s
  | .clusterClockGate cluster => Sys2Proof.Machine.execClusterClockGate cluster s
  | .bayReadRequest bay line cls w => Sys2Proof.Machine.execBayReadRequest bay line cls w s
  | .bayFillReturn bay line => Sys2Proof.Machine.execBayFillReturn bay line s
  | .homeBayWrite w => Sys2Proof.Machine.execHomeBayWrite w s
  | .invalidationArrival bay line => Sys2Proof.Machine.execInvalidationArrival bay line s
  | .invalidationAcksComplete bay line => Sys2Proof.Machine.execInvalidationAcksComplete bay line s
  | .responseArrival ix => Sys2Proof.Machine.execResponseArrival ix s
  | .responseTimeout ix => Sys2Proof.Machine.execResponseTimeout ix s
  | .bayPatrol bay corrected bad => Sys2Proof.Machine.execBayPatrol bay corrected bad s
  | .coreArrayPatrol c corrected bad => Sys2Proof.Machine.execCoreArrayPatrol c corrected bad s
  | .hbmSectorRead sector flips => Sys2Proof.Machine.execHbmSectorRead sector flips s
  | .hbmSectorWrite sector start bytes => Sys2Proof.Machine.execHbmSectorWrite sector start bytes s
  | .hbmRefreshDue stack channel pc bank busy => Sys2Proof.Machine.execHbmRefreshDue stack channel pc bank busy s
  | .hbmPeriodicRetrain stack channel pc0Fails pc1Fails caFails => Sys2Proof.Machine.execHbmPeriodicRetrain stack channel pc0Fails pc1Fails caFails s
  | .hbmOdeccPoll stack counts => Sys2Proof.Machine.execHbmOdeccPoll stack counts s
  | .kickTaken stack => Sys2Proof.Machine.execKickTaken stack s
  | .nbStepBoundary stack channel flips => Sys2Proof.Machine.execNbStepBoundary stack channel flips s
  | .nbSequenceDone stack => Sys2Proof.Machine.execNbSequenceDone stack s
  | .nbFwResume stack passed => Sys2Proof.Machine.execNbFwResume stack passed s
  | .sqEntryTaken f => Sys2Proof.Machine.execSqEntryTaken f s
  | .sqFetchFailure f => Sys2Proof.Machine.execSqFetchFailure f s
  | .coalesceTimeout f => Sys2Proof.Machine.execCoalesceTimeout f s
  | .progressCompletion cmd => Sys2Proof.Machine.execProgressCompletion cmd s
  | .msixVectorUnmask f v => Sys2Proof.Machine.execMsixVectorUnmask f v s
  | .regionAttrWrite by_ f ix v => Sys2Proof.Machine.execRegionAttrWrite by_ f ix v s
  | .regionAllocationEnd f ix => Sys2Proof.Machine.execRegionAllocationEnd f ix s
  | .regionReleaseEnd f ix => Sys2Proof.Machine.execRegionReleaseEnd f ix s
  | .allocationCancelEnd f ix => Sys2Proof.Machine.execAllocationCancelEnd f ix s
  | .lbEnable f => Sys2Proof.Machine.execLbEnable f s
  | .lbDisable f => Sys2Proof.Machine.execLbDisable f s
  | .doorbellSqTail f v => Sys2Proof.Machine.execDoorbellSqTail f v s
  | .doorbellCqHead f v => Sys2Proof.Machine.execDoorbellCqHead f v s
  | .lbStatusErrorClear f v => Sys2Proof.Machine.execLbStatusErrorClear f v s
  | .transomRepairWrite by_ pcore g v => Sys2Proof.Machine.execTransomRepairWrite by_ pcore g v s
  | .registerWrite by_ off size v => Sys2Proof.Machine.execRegisterWrite by_ off size v s
  | .apertureRead f x n => Sys2Proof.Machine.execApertureRead f x n s
  | .apertureWrite f x bytes => Sys2Proof.Machine.execApertureWrite f x bytes s
  | .runLaunch run => Sys2Proof.Machine.execRunLaunch run s
  | .shutterStageEnd region => Sys2Proof.Machine.execShutterStageEnd region s
  | .runCompletion run => Sys2Proof.Machine.execRunCompletion run s
  | .runTimeLimit run => Sys2Proof.Machine.execRunTimeLimit run s
  | .holdLimitExpiry run => Sys2Proof.Machine.execHoldLimitExpiry run s
  | .stepMonitorExpiry cmd => Sys2Proof.Machine.execStepMonitorExpiry cmd s
  | .fabricMonitorExpiry cluster => Sys2Proof.Machine.execFabricMonitorExpiry cluster s
  | .doorProgressMonitor p channel inbound partitionHolds => Sys2Proof.Machine.execDoorProgressMonitor p channel inbound partitionHolds s
  | .heartbeatMiss p => Sys2Proof.Machine.execHeartbeatMiss p s
  | .mcWatchdogExpiry => Sys2Proof.Machine.execMcWatchdogExpiry s
  | .doorDrainEnd p => Sys2Proof.Machine.execDoorDrainEnd p s
  | .forcedBayReset bay => Sys2Proof.Machine.execForcedBayReset bay s
  | .partitionResetDone p failures => Sys2Proof.Machine.execPartitionResetDone p failures s
  | .drainPoint lpart => Sys2Proof.Machine.execDrainPoint lpart s
  | .mirrorStepReceived m => Sys2Proof.Machine.execMirrorStepReceived m s
  | .mirrorStepAck seq => Sys2Proof.Machine.execMirrorStepAck seq s
  | .pairLinkLoss => Sys2Proof.Machine.execPairLinkLoss s
  | .louvreWindowEnd louvre => Sys2Proof.Machine.execLouvreWindowEnd louvre s
  | .quotaUpdate p => Sys2Proof.Machine.execQuotaUpdate p s
  | .cellTelemetrySample region cells => Sys2Proof.Machine.execCellTelemetrySample region cells s
  | .limiterSample region current => Sys2Proof.Machine.execLimiterSample region current s
  | .governorSample tower power input boost => Sys2Proof.Machine.execGovernorSample tower power input boost s
  | .boostWindowClose => Sys2Proof.Machine.execBoostWindowClose s
  | .busConverterFailure k => Sys2Proof.Machine.execBusConverterFailure k s
  | .vstbyUp slotId pairPresent goodA goodB => Sys2Proof.Machine.execVstbyUp slotId pairPresent goodA goodB s
  | .mainPgAssert unusable ringOk phyOk cells => Sys2Proof.Machine.execMainPgAssert unusable ringOk phyOk cells s
  | .bringupStage3 findings => Sys2Proof.Machine.execBringupStage3 findings s
  | .bringupStage4 findings => Sys2Proof.Machine.execBringupStage4 findings s
  | .bringupStage5 findings => Sys2Proof.Machine.execBringupStage5 findings s
  | .bringupComplete => Sys2Proof.Machine.execBringupComplete s
  | .mainPgTimeout => Sys2Proof.Machine.execMainPgTimeout s
  | .railStartTimeout => Sys2Proof.Machine.execRailStartTimeout s
  | .mainPgDeassert => Sys2Proof.Machine.execMainPgDeassert s
  | .vmainFault => Sys2Proof.Machine.execVmainFault s
  | .vmainDip => Sys2Proof.Machine.execVmainDip s
  | .vstbyLoss => Sys2Proof.Machine.execVstbyLoss s
  | .viobLoss => Sys2Proof.Machine.execViobLoss s
  | .vmainNotRemoved => Sys2Proof.Machine.execVmainNotRemoved s
  | .railsDownDone => Sys2Proof.Machine.execRailsDownDone s
  | .moduleResetStart => Sys2Proof.Machine.execModuleResetStart s
  | .ajarEntryDone p => Sys2Proof.Machine.execAjarEntryDone p s
  | .shutEntryDone p => Sys2Proof.Machine.execShutEntryDone p s
  | .ajarIdleExpiry p => Sys2Proof.Machine.execAjarIdleExpiry p s
  | .shutIdleExpiry p => Sys2Proof.Machine.execShutIdleExpiry p s
  | .wakeDone p => Sys2Proof.Machine.execWakeDone p s
  | .pcieTlpInL1 => Sys2Proof.Machine.execPcieTlpInL1 s
  | .pcieKnock vendor hdr => Sys2Proof.Machine.execPcieKnock vendor hdr s
  | .seunonKnock port => Sys2Proof.Machine.execSeunonKnock port s
  | .seunonStandbyTraffic port => Sys2Proof.Machine.execSeunonStandbyTraffic port s
  | .seunonTrainingDone port r => Sys2Proof.Machine.execSeunonTrainingDone port r s
  | .seunonFlitError port trained => Sys2Proof.Machine.execSeunonFlitError port trained s
  | .seunonPortDown port => Sys2Proof.Machine.execSeunonPortDown port s
  | .seunonRemoteRequest port r => Sys2Proof.Machine.execSeunonRemoteRequest port r s
  | .hingeBridgeFlitError link trained => Sys2Proof.Machine.execHingeBridgeFlitError link trained s
  | .flr f => Sys2Proof.Machine.execFlr f s
  | .vfEnable n => Sys2Proof.Machine.execVfEnable n s
  | .vfDisable f => Sys2Proof.Machine.execVfDisable f s
  | .busMasterEnableClear f => Sys2Proof.Machine.execBusMasterEnableClear f s
  | .busMasterEnableSet f => Sys2Proof.Machine.execBusMasterEnableSet f s
  | .d3hotEntry f => Sys2Proof.Machine.execD3hotEntry f s
  | .pcieFundamentalReset => Sys2Proof.Machine.execPcieFundamentalReset s
  | .perstNRelease => Sys2Proof.Machine.execPerstNRelease s
  | .thermalModelUpdate sensors => Sys2Proof.Machine.execThermalModelUpdate sensors s
  | .diodeComparatorTrip node => Sys2Proof.Machine.execDiodeComparatorTrip node s
  | .thermalActionRelease node => Sys2Proof.Machine.execThermalActionRelease node s
  | .disagreementEpisodeEnd node => Sys2Proof.Machine.execDisagreementEpisodeEnd node s
  | .sensorFailure node sensor => Sys2Proof.Machine.execSensorFailure node sensor s
  | .bondTempSample tower => Sys2Proof.Machine.execBondTempSample tower s
  | .coolantAlert => Sys2Proof.Machine.execCoolantAlert s
  | .coolantAlertEnd => Sys2Proof.Machine.execCoolantAlertEnd s
  | .attestSigningStart => Sys2Proof.Machine.execAttestSigningStart s
  | .queryIdentity cmd => Sys2Proof.Machine.execQueryIdentity cmd s
  | .queryState cmd => Sys2Proof.Machine.execQueryState cmd s
  | .queryDefects cmd => Sys2Proof.Machine.execQueryDefects cmd s
  | .readCounters cmd => Sys2Proof.Machine.execReadCounters cmd s
  | .imageBegin cmd => Sys2Proof.Machine.execImageBegin cmd s
  | .imageChunk cmd => Sys2Proof.Machine.execImageChunk cmd s
  | .imageCommit cmd => Sys2Proof.Machine.execImageCommit cmd s
  | .imageUnload cmd => Sys2Proof.Machine.execImageUnload cmd s
  | .patchTables cmd => Sys2Proof.Machine.execPatchTables cmd s
  | .run cmd => Sys2Proof.Machine.execRun cmd s
  | .runSpeculative cmd => Sys2Proof.Machine.execRunSpeculative cmd s
  | .confirm cmd => Sys2Proof.Machine.execConfirm cmd s
  | .abortSpec cmd => Sys2Proof.Machine.execAbortSpec cmd s
  | .cancel cmd => Sys2Proof.Machine.execCancel cmd s
  | .resultRelease cmd => Sys2Proof.Machine.execResultRelease cmd s
  | .copy cmd => Sys2Proof.Machine.execCopy cmd s
  | .fill cmd => Sys2Proof.Machine.execFill cmd s
  | .scrub cmd => Sys2Proof.Machine.execScrub cmd s
  | .pin cmd => Sys2Proof.Machine.execPin cmd s
  | .unpin cmd => Sys2Proof.Machine.execUnpin cmd s
  | .setClassTable cmd => Sys2Proof.Machine.execSetClassTable cmd s
  | .setRegulationMode cmd => Sys2Proof.Machine.execSetRegulationMode cmd s
  | .powerState cmd => Sys2Proof.Machine.execPowerState cmd s
  | .powerPolicy cmd => Sys2Proof.Machine.execPowerPolicy cmd s
  | .resetCore cmd => Sys2Proof.Machine.execResetCore cmd s
  | .resetCluster cmd => Sys2Proof.Machine.execResetCluster cmd s
  | .resetPartition cmd => Sys2Proof.Machine.execResetPartition cmd s
  | .resetModule cmd => Sys2Proof.Machine.execResetModule cmd s
  | .collectDump cmd => Sys2Proof.Machine.execCollectDump cmd s
  | .retireUnit cmd => Sys2Proof.Machine.execRetireUnit cmd s
  | .fieldTest cmd findings => Sys2Proof.Machine.execFieldTest cmd findings s
  | .recalibrate cmd outcome => Sys2Proof.Machine.execRecalibrate cmd outcome s
  | .fwStage cmd => Sys2Proof.Machine.execFwStage cmd s
  | .fwActivate cmd failed => Sys2Proof.Machine.execFwActivate cmd failed s
  | .migrate cmd => Sys2Proof.Machine.execMigrate cmd s
  | .attest cmd => Sys2Proof.Machine.execAttest cmd s
  | .getCert cmd => Sys2Proof.Machine.execGetCert cmd s
  | .debugUnlock cmd => Sys2Proof.Machine.execDebugUnlock cmd s
  | .thermalRecordRead cmd => Sys2Proof.Machine.execThermalRecordRead cmd s
  | .clearTrip cmd => Sys2Proof.Machine.execClearTrip cmd s
  | .pairJoin cmd r => Sys2Proof.Machine.execPairJoin cmd r s
  | .pairSync cmd acked => Sys2Proof.Machine.execPairSync cmd acked s
  | .pairTakeover cmd => Sys2Proof.Machine.execPairTakeover cmd s
  | .pairRelease cmd => Sys2Proof.Machine.execPairRelease cmd s
  | .echo cmd => Sys2Proof.Machine.execEcho cmd s
  | .identity tag => Sys2Proof.Machine.execIdentity tag s
  | .readReg tag off => Sys2Proof.Machine.execReadReg tag off s
  | .alertStatus tag => Sys2Proof.Machine.execAlertStatus tag s
  | .wake tag => Sys2Proof.Machine.execWake tag s
  | .bmcResetModule tag mflags => Sys2Proof.Machine.execBmcResetModule tag mflags s
  | .bmcThermalRecordRead tag first => Sys2Proof.Machine.execBmcThermalRecordRead tag first s
  | .bmcClearTrip tag => Sys2Proof.Machine.execBmcClearTrip tag s
  | .bmcFwStage tag component cflags off data => Sys2Proof.Machine.execBmcFwStage tag component cflags off data s
  | .ownerEnroll tag cflags off data => Sys2Proof.Machine.execOwnerEnroll tag cflags off data s
  | .domainWrite tag moduleId domain first routes => Sys2Proof.Machine.execDomainWrite tag moduleId domain first routes s
  | .bmcAttest tag nonce => Sys2Proof.Machine.execBmcAttest tag nonce s
  | .attestRead tag off => Sys2Proof.Machine.execAttestRead tag off s
  | .bmcGetCert tag index off => Sys2Proof.Machine.execBmcGetCert tag index off s
  | .mctpControlMessage bytes => Sys2Proof.Machine.execMctpControlMessage bytes s
  | .jtagInstruction code debugOp => Sys2Proof.Machine.execJtagInstruction code debugOp s
  | .steppedCommandStep cmd amount => Sys2Proof.Machine.execSteppedCommandStep cmd amount s
  | .d3hotExit f => Sys2Proof.Machine.execD3hotExit f s
  | .vstbyAbsent => Sys2Proof.Machine.execVstbyAbsent s
  | .viobReturn => Sys2Proof.Machine.execViobReturn s
  | .baseDieFault stack => Sys2Proof.Machine.execBaseDieFault stack s
  | .pcieLinkL0 => Sys2Proof.Machine.execPcieLinkL0 s
  | .pcieLinkL1Entry => Sys2Proof.Machine.execPcieLinkL1Entry s
  | .apertureMirrorStep => Sys2Proof.Machine.execApertureMirrorStep s

end Sys2Proof.Machine
end

