-- ==== Sys2Proof/Machine/Step.lean ====
section
/-! DEFINITION. One step: the command at the front of the queue acts on the rest of the state. -/

namespace Sys2Proof.Machine
open Sys2Proof

/-- Takes the command at the front of the queue and answers what exec answers on it with the queue's rest; on an
empty queue the block idles.
[DESIGN CHOICE, log entry 2: safe] -/
def step (s : State) : Host.Outcome State Fault Refusal :=
  match s.pending with
  | [] => .next s
  | c :: rest => exec c { s with pending := rest }

/-- s with the command that a word spells at the front of its queue.
[DESIGN CHOICE, log entry 71: safe] -/
def State.withFetchWord (s : State) (nbits w : Nat) : State :=
  match decodeTableWord nbits w with
  | none => s
  | some c => { s with pending := c :: s.pending }

end Sys2Proof.Machine
end

