-- ==== Sys2Proof/Safety.lean ====
section
/-! DEFINITION. The terms that statements about the machine use: when a command may take its own effect, what it leaves
alone, and what every step keeps. -/

namespace Sys2Proof.Machine
open Sys2Proof

/-! ### Frames -/

/-- Every byte of device memory reads in t as in s. -/
def SameMemory (s t : State) : Prop := ∀ a, nget 0 t.mem a = nget 0 s.mem a

/-- t differs from s in core c at most. -/
structure OnlyCore (s t : State) (c : Nat) : Prop where
  others : ∀ x, x ≠ c → t.core x = s.core x
  memory : SameMemory s t
  rest : { t with cores := s.cores } = s

/-- What the retirement of a scalar instruction at k does beside its own result (R72, R75, R95, R96): the core goes on at pc, the
instruction cache holds the instruction's word, RETIRED counts it, the watchdog's COUNT is cleared, and no other control and status
register changes. -/
structure Retires (k k' : Core) (pc : Nat) : Prop where
  pc : k'.pc = pc
  cache : k'.icache = holdWord k.icache (k.codeBase + k.pc)
  count : k'.csrReg 0x009 = sat64 ((k.csrReg 0x009).toNat + 1)
  watchdog : k'.csrReg 0x020 = setFld (k.csrReg 0x020) 32 16 0
  others : ∀ n, n ≠ 0x009 → n ≠ 0x020 → k'.csrReg n = k.csrReg n

/-- The s registers after v was written to s[d]: s0 keeps reading 0 (R72). -/
def WritesS (k k' : Core) (d : Nat) (v : W64) : Prop := ∀ n, k'.sreg n = if n = d ∧ d ≠ 0 then v else k.sreg n

/-- The predicates after v was written to p[d]: p0 keeps reading true (R72). -/
def WritesP (k k' : Core) (d : Nat) (v : Bool) : Prop := ∀ n, k'.preg n = if n = d ∧ d ≠ 0 then v else k.preg n

/-! ### Scalar instructions -/

/-- Core c issues a scalar instruction whose predicate holds and is not still to be written (R74 to R76, R79, R80, R93). -/
structure ScalarReady (s : State) (c : Nat) (pred : BitVec 3) (pneg : Bool) : Prop where
  unit : Unit.core c = true
  issues : s.issues (s.core c) = true
  inside : (s.core c).pc < (s.core c).progLen
  good : s.wordPoison ((s.core c).codeBase + (s.core c).pc) = false
  known : s.reservedAt ((s.core c).codeBase + (s.core c).pc) = false
  settled : pred.toNat ∉ (s.core c).pPending
  holds : (s.core c).preg pred.toNat ≠ pneg

/-- The three-register integer instructions with their issuer, fields and operation at each width (R78, R171). -/
def aluOf : Instr → Option (Agent × FormA × ((w : Nat) → BitVec w → BitVec w → BitVec w))
  | .add who f => some (who, f, fun _ a b => a + b)
  | .sub who f => some (who, f, fun _ a b => a - b)
  | .mul who f => some (who, f, fun _ a b => a * b)
  | .mulhu who f => some (who, f, fun w a b => BitVec.ofNat w (a.toNat * b.toNat / 2 ^ w))
  | .and who f => some (who, f, fun _ a b => a &&& b)
  | .or who f => some (who, f, fun _ a b => a ||| b)
  | .xor who f => some (who, f, fun _ a b => a ^^^ b)
  | .shl who f => some (who, f, fun w a b => a <<< (b.toNat % w))
  | .shr who f => some (who, f, fun w a b => a >>> (b.toNat % w))
  | .sar who f => some (who, f, fun w a b => a.sshiftRight (b.toNat % w))
  | .min who f => some (who, f, fun w a b => if a.toInt ≤ b.toInt then a else b)
  | .max who f => some (who, f, fun w a b => if a.toInt ≤ b.toInt then b else a)
  | _ => none

/-! ### Reads and writes that complete at once and count nothing -/

/-- No sector of HBM and no line of a bay holds an error, and every bay has a free miss entry (R225, R295, R498). -/
def State.calm (s : State) : Bool :=
  s.chk.isEmpty && s.bays.all fun e => decide (e.2.miss.length < 64) && e.2.lines.all fun l => l.bad == 0

/-- No sector of HBM stands one symbol off its code: its next read corrects nothing (R295). -/
def State.noLatent (s : State) : Prop := ∀ off sym v, rsDecode (chkErrors (s.sectorChk off)) ≠ .corrected sym v

/-- The bytes that a read of n bytes answers where it completes at once and changes nothing but the bays and the counters (R74, R81,
R84, R222): in a scratchpad, in the own region of a core outside the first-level cache, or in device memory that the fence admits,
that is awake behind open doors, where no error is, and that the reader does not cache. -/
def State.plainRead (s : State) (c addr n : Nat) (scalar : Bool) : Option (List Byte) :=
  match s.resolve c addr n scalar with
  | some (.spad o off) =>
    if s.mustWait c (.spad o off) n false || s.localBad 1 o off n then none else some (s.localRead c 1 o off n)
  | some (.own o off) =>
    if s.mustWait c (.own o off) n false || s.localBad 2 o off n || (o == c && addr / 2 ^ 60 == 2) then none
    else some (s.localRead c 2 o off n)
  | some (.dev off) =>
    if s.mustWait c (.dev off) n false || s.doorAt off || s.asleep (partOfOff off) || !s.devMay (s.core c) off n false ||
      !s.calm || l1Cacheable (s.core c) (s.unfwd (s.core c) off + s.moduleId * 2 ^ 44) n then none
    else some (s.devBytes c off n)
  | _ => none

/-- The offset at which a write of n bytes by core c lands at once in its own scratchpad, as ordinary data (R74, R81, R265). -/
def State.plainWrite (s : State) (c addr n : Nat) (scalar : Bool) : Option Nat :=
  match s.resolve c addr n scalar with
  | some (.spad o off) => if o != c || s.mustWait c (.spad c off) n true || (s.core c).epoch != 0 then none else some off
  | _ => none

/-- What a write of ordinary data into its own scratchpad leaves of core c: m names the bytes of the scratchpad after it. -/
structure WritesSpad (s t : State) (c : Nat) (m : Nat → Byte) : Prop where
  bytes : ∀ a, nget 0 (t.core c).spad a = m a
  others : ∀ x, x ≠ c → t.core x = s.core x
  regs : (t.core c).s = (s.core c).s ∧ (t.core c).p = (s.core c).p ∧ (t.core c).v = (s.core c).v ∧ (t.core c).acc = (s.core c).acc
  memory : SameMemory s t
  rest : { t with cores := s.cores, ctr := s.ctr } = s

/-- The bytes of a map with a list of bytes laid over it from offset off on. -/
def laidOver (m : Nat → Byte) (off : Nat) (bs : List Byte) (a : Nat) : Byte :=
  if off ≤ a ∧ a < off + bs.length then bs.getD (a - off) 0 else m a

/-! ### Vector and matrix instructions -/

/-- A scalar instruction of a unit that writes vector register d, lane by lane, and else only retires (R72, R75, R150): counters
and the next open value may move. -/
structure WritesV (s t : State) (c d : Nat) (g : Nat → W32) : Prop where
  lanes : ∀ l, l < 64 → vlane ((t.core c).vreg d) l = g l
  vector : ∀ n, n ≠ d → (t.core c).vreg n = (s.core c).vreg n
  retires : Retires (s.core c) (t.core c) ((s.core c).pc + 8)
  core : { t.core c with v := (s.core c).v, pc := (s.core c).pc, csr := (s.core c).csr, stall := (s.core c).stall, icache := (s.core c).icache } = s.core c
  others : ∀ x, x ≠ c → t.core x = s.core x
  memory : SameMemory s t
  rest : { t with cores := s.cores, ctr := s.ctr, free := s.free } = s

/-- The lane-wise instructions whose results are exact, with their issuer and fields, whether they name SRC2 and SRC3, whether
their FUNC and TYPE are theirs, and the operation on FP32 lanes and on INT32 lanes (R152, R155, R157). -/
def laneOf : Instr → Option (Agent × FormA × Bool × Bool × Bool × (Bool → W32 → W32 → W32 → W32))
  | .vadd who f => some (who, f, true, false, f.func == 0, fun fp a b _ => if fp then toF32 ((f32 a).add (f32 b)) else a + b)
  | .vsub who f => some (who, f, true, false, f.func == 0, fun fp a b _ => if fp then toF32 ((f32 a).add (f32 b).neg) else a - b)
  | .vmul who f => some (who, f, true, false, f.func == 0, fun fp a b _ => if fp then toF32 ((f32 a).mul (f32 b)) else a * b)
  | .vfma who f => some (who, f, true, true, f.func == 0, fun fp a b c =>
      if fp then toF32 (((f32 a).mul (f32 b)).add (f32 c)) else a * b + c)
  | .vmin who f => some (who, f, true, false, f.func == 0, fun fp a b _ =>
      if fp then (if (f32 a).isNan || (f32 b).isNan then toF32 .nan else if before b a then b else a)
      else if b.toInt < a.toInt then b else a)
  | .vmax who f => some (who, f, true, false, f.func == 0, fun fp a b _ =>
      if fp then (if (f32 a).isNan || (f32 b).isNan then toF32 .nan else if before a b then b else a)
      else if a.toInt < b.toInt then b else a)
  | .vun who f => some (who, f, false, false, decide (f.func.toNat < 4) && (decide (f.func.toNat < 2) || f.type == 1), fun fp a _ _ =>
      if f.func = 0 then (if fp then toF32 (f32 a).neg else -a)
      else if f.func = 1 then
        (if fp then (if (f32 a).isNan then toF32 .nan else a &&& 0x7FFFFFFF) else if a.toInt < 0 then -a else a)
      else if f.func = 2 then toF32 (recipF (f32 a)) else toF32 (sqrtF (f32 a)))
  | .vcmp who f => some (who, f, true, false, decide (f.func.toNat < 4), fun fp a b _ =>
      if (if f.func = 0 then (if fp then (f32 a).eq (f32 b) else a == b)
          else if f.func = 1 then (if fp then !(f32 a).eq (f32 b) else a != b)
          else if f.func = 2 then (if fp then (f32 a).lt (f32 b) else decide (a.toInt < b.toInt))
          else if fp then (f32 a).lt (f32 b) || (f32 a).eq (f32 b) else decide (a.toInt ≤ b.toInt)) then 0xFFFFFFFF else 0)
  | .vsel who f => some (who, f, true, true, f.func == 0, fun _ a b c => if c ≠ 0 then a else b)
  | .vbit who f => some (who, f, true, false, decide (f.func.toNat < 6) && f.type == 6, fun _ a b _ =>
      if f.func = 0 then a &&& b else if f.func = 1 then a ||| b else if f.func = 2 then a ^^^ b
      else if f.func = 3 then a <<< (b.toNat % 32) else if f.func = 4 then a >>> (b.toNat % 32)
      else a.sshiftRight (b.toNat % 32))
  | .vmov who f => some (who, f, false, false, f.func == 0, fun _ a _ _ => a)
  | _ => none

/-! ### Stream programs -/

/-- Slot i of core c stands, begun and not ended, at the instruction word w of a program p of the image, under a start whose epoch
does not abort (R242 to R245, R275). -/
structure StreamReady (s : State) (c i : Nat) (st : Start) (p : StreamProg) (w : W64) : Prop where
  unit : Unit.core c = true
  slot : Unit.slot i = true
  runs : ((s.core c).slot i).running = some st
  prog : s.streamProg st.prog = some p
  word : p.code[((s.core c).slot i).ppc]? = some w
  begun : ((s.core c).slot i).begun = true
  going : ((s.core c).slot i).ended = false
  epoch : s.epState st.epoch ≠ .aborting

/-- t differs from s in slot i of core c, which is x, and in counters at most. -/
structure SlotEffect (s t : State) (c i : Nat) (x : Slot) : Prop where
  slot : (t.core c).slot i = x
  slots : ∀ j, j ≠ i → (t.core c).slot j = (s.core c).slot j
  core : { t.core c with slots := (s.core c).slots } = s.core c
  others : ∀ y, y ≠ c → t.core y = s.core y
  memory : SameMemory s t
  rest : { t with cores := s.cores, ctr := s.ctr } = s

/-! ### Thread code -/

/-- Group i of core c issues a thread instruction (R171, R174). -/
structure ThreadReady (s : State) (c i : Nat) : Prop where
  unit : Unit.core c = true
  slot : Unit.slot i = true
  issues : s.issues (s.core c) = true
  active : (s.grp c i).active ≠ []
  inside : (s.grp c i).lowPc < (s.core c).progLen
  good : s.wordPoison ((s.core c).codeBase + (s.grp c i).lowPc) = false
  known : s.reservedAt ((s.core c).codeBase + (s.grp c i).lowPc) = false

/-- The active threads of a group whose predicate holds (R174). -/
def Group.takes (g : Group) (pred : BitVec 3) (pneg : Bool) (l : Nat) : Bool :=
  g.active.contains l && (g.th l).preg pred.toNat != pneg

/-- A thread that has read the registers listed: those that its register cache holds are its latest (R172). -/
def Thread.reads (t : Thread) (srcs : List Nat) : Thread := srcs.foldl Thread.use t

/-- What an instruction of thread code that changes its threads' own registers does (R171, R172, R174, R186, R193): the active
threads whose predicate holds read the registers srcs and take its effect, the other active threads go on to the next instruction,
no other thread changes, the group's progress count is cleared, and the core's instruction cache holds the instruction's word. -/
structure ThreadEffect (s t : State) (c i : Nat) (pred : BitVec 3) (pneg : Bool) (srcs : List Nat) (f : Thread → Thread) : Prop where
  lanes : ∀ l, (t.grp c i).th l =
    if (s.grp c i).takes pred pneg l then f (((s.grp c i).th l).reads srcs)
    else if (s.grp c i).active.contains l then { (s.grp c i).th l with pc := ((s.grp c i).th l).pc + 8 }
    else (s.grp c i).th l
  group : { t.grp c i with threads := (s.grp c i).threads, progress := (s.grp c i).progress } = s.grp c i
  progress : (t.grp c i).progress = 0
  slots : ∀ j, j ≠ i → t.grp c j = s.grp c j
  core : { t.core c with groups := (s.core c).groups, icache := (s.core c).icache } = s.core c
  cache : (t.core c).icache = holdWord (s.core c).icache ((s.core c).codeBase + (s.grp c i).lowPc)
  others : ∀ x, x ≠ c → t.core x = s.core x
  memory : SameMemory s t
  rest : { t with cores := s.cores, ctr := s.ctr } = s

/-! ### Resets -/

/-- What a core reset leaves of a core k (R95, R504): it does not run, its registers, tables and queues are empty, its generation is one
more, and its scratchpad stays. -/
structure WasReset (k k' : Core) : Prop where
  stopped : k'.running = false ∧ k'.done = false ∧ k'.pc = 0
  regs : k'.s = [] ∧ k'.p = [] ∧ k'.v = [] ∧ k'.acc = [] ∧ k'.csr = [] ∧ k'.td = []
  units : k'.send = [] ∧ k'.mq = [] ∧ k'.tgq = [] ∧ k'.sq = [] ∧ k'.groups = []
  gen : k'.gen = k.gen + 1
  spad : k'.spad = k.spad

/-! ### The instruction words (R75, R77, R78 and the tables of the units) -/

/-- The instructions of Form A with their major opcode and, where it selects the instruction, their FUNC. -/
def formA : List (Nat × Option Nat × (Agent → FormA → Instr)) :=
  [(0x00, none, .nop), (0x01, none, .add), (0x02, none, .sub), (0x03, none, .mul), (0x04, none, .mulhu), (0x05, none, .and),
   (0x06, none, .or), (0x07, none, .xor), (0x08, none, .shl), (0x09, none, .shr), (0x0A, none, .sar), (0x0B, none, .min),
   (0x0C, none, .max), (0x0F, none, .cmp), (0x12, none, .ret), (0x13, none, .done), (0x1C, some 0, .fenceStore),
   (0x1C, some 1, .fenceInv), (0x1C, some 2, .fenceAll)] ++
  [(0x30, none, .vadd), (0x31, none, .vsub), (0x32, none, .vmul), (0x33, none, .vfma), (0x34, none, .vmin), (0x35, none, .vmax),
   (0x36, none, .vun), (0x37, none, .vcmp), (0x38, none, .vsel), (0x39, none, .vbit), (0x3A, none, .vmov), (0x3B, none, .vperm),
   (0x3C, none, .vget), (0x42, none, .vlds), (0x43, none, .vsts), (0x48, some 0, .vredSum), (0x48, some 1, .vredSeg),
   (0x50, none, .cvt), (0x51, none, .cvtEnc), (0x52, none, .cvtDec)] ++
  [(0x60, none, .mma), (0x61, none, .accSt), (0x62, none, .accLd), (0x63, none, .accRv), (0x64, none, .accWv),
   (0x70, none, .tgLaunch), (0x71, none, .tgJoin), (0x72, none, .tgExit), (0x73, none, .tgBar), (0x74, none, .lockTry),
   (0x75, none, .lockRel), (0x76, none, .yield), (0x77, none, .tgVote), (0x80, none, .ssStart), (0x81, none, .ssWait),
   (0x82, none, .ssCancel), (0x83, none, .ssPoll), (0x90, none, .msgSend), (0x91, none, .msgRecv), (0x92, none, .msgPoll)] ++
  [(0x98, none, .chPf), (0x99, none, .chPin), (0x9A, none, .chUnpin), (0x9B, none, .chDead), (0xA0, none, .specOpen),
   (0xA1, none, .specClose), (0xA2, none, .specConfirm), (0xA3, none, .specAbort), (0xA4, none, .specPoll)]

/-- The instructions of Form B with their major opcode. -/
def formB : List (Nat × (Agent → FormB → Instr)) :=
  [(0x0D, .addi), (0x18, .csrR), (0x19, .csrW), (0x1A, .csrS), (0x1B, .csrC), (0x20, .ld), (0x21, .st), (0x22, .tdLd),
   (0x40, .vld), (0x41, .vst)]

/-- The instructions of Form C with their major opcode. -/
def formC : List (Nat × (Agent → FormC → Instr)) := [(0x0E, .li), (0x10, .br), (0x11, .call)]

/-- w is a word of instruction i. -/
def Spells (who : Agent) (i : Instr) (w : W64) : Prop :=
  (∃ e ∈ formA, ∃ f : FormA, (∀ x, e.2.1 = some x → f.func.toNat = x) ∧ i = e.2.2 who f ∧ w = wordA e.1 f) ∨
  (∃ e ∈ formB, ∃ f : FormB, i = e.2 who f ∧ w = wordB e.1 f) ∨ (∃ e ∈ formC, ∃ f : FormC, i = e.2 who f ∧ w = wordC e.1 f)

end Sys2Proof.Machine
end

