-- ==== Sys2Proof/Certificates/Slice0/Obligations.lean ====
section
/-! DEFINITION. The statements for the provers, each citing the rule of spec/ it comes from. -/

namespace Sys2Proof
open Sys2Proof.Machine

/-- R78, R72: in scalar code ADD, SUB, MUL, MULHU, AND, OR, XOR, SHL, SHR, SAR, MIN and MAX write their 64-bit result to
s[DST] and retire; s0 keeps no write, and nothing else changes. -/
def Claim.ScalarIntegerResults : Prop :=
  ∀ (s : State) (i : Instr) (c : Nat) (f : FormA) (op : (w : Nat) → BitVec w → BitVec w → BitVec w),
    aluOf i = some (.core c, f, op) → legal3 (.core c) f = true → ScalarReady s c f.pred f.pneg →
    ∃ t, exec i s = .next t ∧ OnlyCore s t c ∧
      WritesS (s.core c) (t.core c) f.dst.toNat (op 64 ((s.core c).sreg f.src1.toNat) ((s.core c).sreg f.src2.toNat)) ∧
      Retires (s.core c) (t.core c) ((s.core c).pc + 8) ∧
      { t.core c with s := (s.core c).s, pc := (s.core c).pc, csr := (s.core c).csr, stall := (s.core c).stall, icache := (s.core c).icache } = s.core c

/-- R78, R171, R174: in thread code the same twelve instructions compute at 32 bits in every active thread whose predicate
holds. -/
def Claim.ThreadIntegerResults : Prop :=
  ∀ (s : State) (i : Instr) (c g : Nat) (f : FormA) (op : (w : Nat) → BitVec w → BitVec w → BitVec w),
    aluOf i = some (.group c g, f, op) → legal3 (.group c g) f = true → ThreadReady s c g →
    ∃ t, exec i s = .next t ∧ ThreadEffect s t c g f.pred f.pneg [f.src1.toNat, f.src2.toNat]
      (fun x => { x.setReg f.dst.toNat (op 32 (x.reg f.src1.toNat) (x.reg f.src2.toNat)) with pc := x.pc + 8 })

/-- R78, R72: NOP, ADDI, LI and CMP in scalar code. -/
def Claim.ScalarImmediatesAndCompare : Prop :=
  ∀ (s : State) (c : Nat),
    (∀ f : FormA, f = { pred := 0, pneg := false, dst := 0, src1 := 0, src2 := 0, src3 := 0, func := 0, type := 0, mod := 0 } →
      ScalarReady s c f.pred f.pneg →
      ∃ t, exec (.nop (.core c) f) s = .next t ∧ OnlyCore s t c ∧ Retires (s.core c) (t.core c) ((s.core c).pc + 8) ∧
        { t.core c with pc := (s.core c).pc, csr := (s.core c).csr, stall := (s.core c).stall, icache := (s.core c).icache } = s.core c) ∧
    (∀ f : FormB, f.func = 0 → f.dst.toNat < 32 → f.src1.toNat < 32 → ScalarReady s c f.pred f.pneg →
      ∃ t, exec (.addi (.core c) f) s = .next t ∧ OnlyCore s t c ∧
        WritesS (s.core c) (t.core c) f.dst.toNat ((s.core c).sreg f.src1.toNat + f.imm.signExtend 64) ∧
        Retires (s.core c) (t.core c) ((s.core c).pc + 8) ∧
        { t.core c with s := (s.core c).s, pc := (s.core c).pc, csr := (s.core c).csr, stall := (s.core c).stall, icache := (s.core c).icache } = s.core c) ∧
    (∀ f : FormC, f.dst.toNat < 32 → ScalarReady s c f.pred f.pneg →
      ∃ t, exec (.li (.core c) f) s = .next t ∧ OnlyCore s t c ∧
        WritesS (s.core c) (t.core c) f.dst.toNat (f.imm.signExtend 64) ∧
        Retires (s.core c) (t.core c) ((s.core c).pc + 8) ∧
        { t.core c with s := (s.core c).s, pc := (s.core c).pc, csr := (s.core c).csr, stall := (s.core c).stall, icache := (s.core c).icache } = s.core c) ∧
    (∀ f : FormA, cmpLegal (.core c) f = true → ScalarReady s c f.pred f.pneg → f.dst.toNat ∉ (s.core c).pPending →
      (5 < f.func.toNat → f.src1.toNat ∉ (s.core c).pPending ∧ f.src2.toNat ∉ (s.core c).pPending) →
      ∃ t v, exec (.cmp (.core c) f) s = .next t ∧ OnlyCore s t c ∧ WritesP (s.core c) (t.core c) f.dst.toNat v ∧
        (∀ a b pa pb, a = (s.core c).sreg f.src1.toNat → b = (s.core c).sreg f.src2.toNat →
          pa = (s.core c).preg f.src1.toNat → pb = (s.core c).preg f.src2.toNat →
          (f.func = 0x00 → v = decide (a = b)) ∧ (f.func = 0x01 → v = decide (a ≠ b)) ∧
          (f.func = 0x02 → v = decide (a.toInt < b.toInt)) ∧ (f.func = 0x03 → v = decide (a.toNat < b.toNat)) ∧
          (f.func = 0x04 → v = decide (b.toInt ≤ a.toInt)) ∧ (f.func = 0x05 → v = decide (b.toNat ≤ a.toNat)) ∧
          (f.func = 0x10 → v = (pa && pb)) ∧ (f.func = 0x11 → v = (pa || pb)) ∧ (f.func = 0x12 → v = (pa ^^ pb)) ∧
          (f.func = 0x13 → v = !pa)) ∧
        Retires (s.core c) (t.core c) ((s.core c).pc + 8) ∧
        { t.core c with p := (s.core c).p, pc := (s.core c).pc, csr := (s.core c).csr, stall := (s.core c).stall, icache := (s.core c).icache } = s.core c)

/-- R78, R79, R171: BR, CALL and RET in scalar and in thread code; a return to an offset that is no multiple of 8 traps ALIGN. -/
def Claim.ControlTransfers : Prop :=
  ∀ (s : State) (c : Nat),
    (∀ f : FormC, f.dst = 0 → ScalarReady s c f.pred f.pneg →
      ∃ t, exec (.br (.core c) f) s = .next t ∧ OnlyCore s t c ∧
        Retires (s.core c) (t.core c) (BitVec.ofNat 64 (s.core c).pc + f.imm.signExtend 64 * 8).toNat ∧
        { t.core c with pc := (s.core c).pc, csr := (s.core c).csr, stall := (s.core c).stall, icache := (s.core c).icache } = s.core c) ∧
    (∀ f : FormC, f.dst = 0 → ScalarReady s c f.pred f.pneg →
      ∃ t, exec (.call (.core c) f) s = .next t ∧ OnlyCore s t c ∧
        WritesS (s.core c) (t.core c) 31 (BitVec.ofNat 64 ((s.core c).pc + 8)) ∧
        Retires (s.core c) (t.core c) (BitVec.ofNat 64 (s.core c).pc + f.imm.signExtend 64 * 8).toNat ∧
        { t.core c with s := (s.core c).s, pc := (s.core c).pc, csr := (s.core c).csr, stall := (s.core c).stall, icache := (s.core c).icache } = s.core c) ∧
    (∀ f : FormA, usesA f false true false false false false false = true → f.src1.toNat < 32 → ScalarReady s c f.pred f.pneg →
      if ((s.core c).sreg f.src1.toNat).toNat % 8 = 0 then
        ∃ t, exec (.ret (.core c) f) s = .next t ∧ OnlyCore s t c ∧
          Retires (s.core c) (t.core c) ((s.core c).sreg f.src1.toNat).toNat ∧
          { t.core c with pc := (s.core c).pc, csr := (s.core c).csr, stall := (s.core c).stall, icache := (s.core c).icache } = s.core c
      else exec (.ret (.core c) f) s = .next (s.trap c 0x03 0)) ∧
    (∀ (g : Nat) (f : FormC), f.dst = 0 → ThreadReady s c g →
      (∃ t, exec (.br (.group c g) f) s = .next t ∧ ThreadEffect s t c g f.pred f.pneg [] fun x =>
        { x with pc := (BitVec.ofNat 64 x.pc + f.imm.signExtend 64 * 8).toNat }) ∧
      (∃ t, exec (.call (.group c g) f) s = .next t ∧ ThreadEffect s t c g f.pred f.pneg [] fun x =>
        { x.setReg 63 (BitVec.ofNat 32 (x.pc + 8)) with pc := (BitVec.ofNat 64 x.pc + f.imm.signExtend 64 * 8).toNat })) ∧
    (∀ (g : Nat) (f : FormA), usesA f false true false false false false false = true → ThreadReady s c g →
      (∀ l, (s.grp c g).takes f.pred f.pneg l = true → (((s.grp c g).th l).reg f.src1.toNat).toNat % 8 = 0) →
      ∃ t, exec (.ret (.group c g) f) s = .next t ∧ ThreadEffect s t c g f.pred f.pneg [f.src1.toNat] fun x =>
        { x with pc := (x.reg f.src1.toNat).toNat })

/-- R78, R95, R96: CSR.R reads a listed register; CSR.W, CSR.S and CSR.C change the RW fields of CACHE_CLASS (0x018), the generator
state (0x019) and WDOG (0x020) and nothing else, where no reserved bit is written non-zero. The counters of time read an open
value: the model's choice, log entry 4. -/
def Claim.ControlAndStatusRegisters : Prop :=
  ∀ (s : State) (c : Nat) (f : FormB), ScalarReady s c f.pred f.pneg → f.func = 0 → f.imm.toNat < 4096 →
    (f.src1 = 0 → f.dst.toNat < 32 → csrListed f.imm.toNat = true →
      ∃ t v, exec (.csrR (.core c) f) s = .next t ∧ WritesS (s.core c) (t.core c) f.dst.toNat v ∧
        (f.imm.toNat = 0x000 → v = BitVec.ofNat 64 (partOf c / 4 * 2 ^ 20 + partOf c * 2 ^ 16 + c)) ∧
        (f.imm.toNat = 0x013 → v = BitVec.ofNat 64 (s.core c).td.length) ∧
        (f.imm.toNat = 0x030 → v = s.specEpoch (s.core c)) ∧
        (f.imm.toNat = 0x038 → v = (s.core c).msgStatus) ∧
        (f.imm.toNat ∉ [0x000, 0x008, 0x00A, 0x013, 0x020, 0x030, 0x038] → v = (s.core c).csrReg f.imm.toNat) ∧
        Retires (s.core c) (t.core c) ((s.core c).pc + 8) ∧
        { t.core c with s := (s.core c).s, pc := (s.core c).pc, csr := (s.core c).csr, stall := (s.core c).stall, icache := (s.core c).icache } = s.core c ∧
        (∀ x, x ≠ c → t.core x = s.core x) ∧ SameMemory s t ∧ { t with cores := s.cores, free := s.free } = s) ∧
    (f.dst = 0 → f.src1.toNat < 32 → ∀ i new, i = .csrW (.core c) f ∧ new = (s.core c).sreg f.src1.toNat ∨
        i = .csrS (.core c) f ∧ new = (s.core c).csrReg f.imm.toNat ||| (s.core c).sreg f.src1.toNat ∨
        i = .csrC (.core c) f ∧ new = (s.core c).csrReg f.imm.toNat &&& ~~~((s.core c).sreg f.src1.toNat) →
      ∀ rw reserved : W64, (f.imm.toNat, rw, reserved) ∈
        [(0x018, 0x777, 0xFFFFFFFFFFFFF888), (0x019, 0xFFFFFFFFFFFFFFFF, 0), (0x020, 0xFFFF, 0x7FFF0000FFFF0000)] →
      new &&& reserved = 0 →
      ∃ t, exec i s = .next t ∧ OnlyCore s t c ∧ (t.core c).pc = (s.core c).pc + 8 ∧
        (∀ n, n ≠ 0x009 → n ≠ 0x020 → n ≠ f.imm.toNat → (t.core c).csrReg n = (s.core c).csrReg n) ∧
        (f.imm.toNat ≠ 0x020 → (t.core c).csrReg f.imm.toNat = ((s.core c).csrReg f.imm.toNat &&& ~~~rw) ||| (new &&& rw)) ∧
        (f.imm.toNat = 0x020 → (t.core c).csrReg 0x020 =
          setFld (((s.core c).csrReg 0x020 &&& ~~~rw) ||| (new &&& rw)) 32 16 0) ∧
        { t.core c with pc := (s.core c).pc, csr := (s.core c).csr, stall := (s.core c).stall, icache := (s.core c).icache } = s.core c)

/-- R84, R80: a fence whose waits are over retires, FENCE INV and FENCE ALL also dropping the cached lines outside the core's own
region; DONE of a core whose units are idle and that has no epoch ends its part of a run that is not speculative. -/
def Claim.FencesAndDone : Prop :=
  ∀ (s : State) (c : Nat) (f : FormA), ScalarReady s c f.pred f.pneg →
    usesA f false false false false true false false = true →
    (f.func = 0 → s.storesDone c = true → ∃ t, exec (.fenceStore (.core c) f) s = .next t ∧ OnlyCore s t c ∧
      Retires (s.core c) (t.core c) ((s.core c).pc + 8) ∧
      { t.core c with pc := (s.core c).pc, csr := (s.core c).csr, stall := (s.core c).stall, icache := (s.core c).icache } = s.core c) ∧
    (f.func = 1 → ∃ t, exec (.fenceInv (.core c) f) s = .next t ∧ OnlyCore s t c ∧
      Retires (s.core c) (t.core c) ((s.core c).pc + 8) ∧ (∀ x, x ∈ (t.core c).l1 ↔ x ∈ (s.core c).l1 ∧ x.space = 2) ∧
      { t.core c with l1 := (s.core c).l1, pc := (s.core c).pc, csr := (s.core c).csr, stall := (s.core c).stall, icache := (s.core c).icache } = s.core c) ∧
    (f.func = 2 → s.storesDone c = true → (s.core c).mq = [] → (s.core c).tgq = [] → (s.core c).sq = [] →
      ∃ t, exec (.fenceAll (.core c) f) s = .next t ∧ OnlyCore s t c ∧
      Retires (s.core c) (t.core c) ((s.core c).pc + 8) ∧ (∀ x, x ∈ (t.core c).l1 ↔ x ∈ (s.core c).l1 ∧ x.space = 2) ∧
      { t.core c with l1 := (s.core c).l1, pc := (s.core c).pc, csr := (s.core c).csr, stall := (s.core c).stall, icache := (s.core c).icache } = s.core c) ∧
    (f.func = 0 → s.unitsIdle c = true → (s.core c).epoch = 0 → (∀ r, s.run ((s.core c).run - 1) = some r → r.spec = false) →
      ∃ t, exec (.done (.core c) f) s = .next t ∧ OnlyCore s t c ∧
      Retires (s.core c) (t.core c) ((s.core c).pc + 8) ∧ (t.core c).running = false ∧ (t.core c).done = true ∧
      (t.core c).chPins = [] ∧
      { t.core c with
        running := (s.core c).running, done := (s.core c).done, chPins := (s.core c).chPins, pc := (s.core c).pc
        csr := (s.core c).csr, stall := (s.core c).stall, icache := (s.core c).icache } = s.core c)

/-- R81, R78: a scalar load whose address passes the checks and whose access answers writes its bytes to s[DST], zero-extended, or
sign-extended when FUNC[2] is set; RANGE is found before ALIGN. -/
def Claim.ScalarLoads : Prop :=
  ∀ (s : State) (c : Nat) (f : FormB) (addr n : Nat), f.dst.toNat < 32 → f.src1.toNat < 32 → f.func.toNat < 8 →
    ScalarReady s c f.pred f.pneg → addr = ((s.core c).sreg f.src1.toNat + f.imm.signExtend 64).toNat → n = 2 ^ (f.func.toNat % 4) →
    (s.resolve c addr n true = none →
      exec (.ld (.core c) f) s = .next ((if addr / 2 ^ 60 = 0 then s.logEv 17 addr else s).trap c 0x04 addr)) ∧
    (s.resolve c addr n true ≠ none → addr % n ≠ 0 → exec (.ld (.core c) f) s = .next (s.trap c 0x03 addr)) ∧
    (∀ l bs s2, s.resolve c addr n true = some l → addr % n = 0 →
      s.load c addr n l 0x08 (fld ((s.core c).csrReg 0x018) 0 3) = .ok bs s2 →
      ∃ t, exec (.ld (.core c) f) s = .next t ∧ OnlyCore s2 t c ∧
        WritesS (s2.core c) (t.core c) f.dst.toNat
          (if f.func.toNat < 4 then BitVec.ofNat 64 (leNat bs) else BitVec.ofInt 64 (sextN (8 * bs.length) (leNat bs))) ∧
        Retires (s2.core c) (t.core c) ((s2.core c).pc + 8) ∧
        { t.core c with
          s := (s2.core c).s, pc := (s2.core c).pc, csr := (s2.core c).csr, stall := (s2.core c).stall
          icache := (s2.core c).icache } = s2.core c)

/-- R81, R84, R222, R272: what a load answers. The first-level cache serves a load all of whose lines it holds; a scratchpad gives
its bytes, a private region not cached its bytes, the space of an absent virtual core zeros, and device memory that the fence admits,
not cached by the core, the bytes as the core sees them: then only lines of bays and counters change, where no error lies in HBM. -/
def Claim.LoadAnswers : Prop :=
  ∀ (s : State) (c addr n ecc cls : Nat),
    (∀ l, s.mustWait c l n false = false → s.l1Holds c addr n l = true →
      ∃ bs t, s.load c addr n l ecc cls = .ok bs t ∧ OnlyCore s t c) ∧
    (∀ o off, s.mustWait c (.spad o off) n false = false → s.localBad 1 o off n = false →
      s.load c addr n (.spad o off) ecc cls = .ok (s.localRead c 1 o off n) s) ∧
    (∀ o off, s.mustWait c (.spad o off) n false = false → s.localBad 1 o off n = true →
      s.load c addr n (.spad o off) ecc cls = .trap ecc 0x0C s) ∧
    (∀ o off, s.mustWait c (.own o off) n false = false → s.localBad 2 o off n = false → o ≠ c ∨ addr / 2 ^ 60 ≠ 2 →
      ∃ t, s.load c addr n (.own o off) ecc cls = .ok (s.localRead c 2 o off n) t ∧ { t with ctr := s.ctr } = s) ∧
    (∃ t, s.load c addr n .nowhere ecc cls = .ok (List.replicate n 0) t ∧ { t with ctr := s.ctr } = s) ∧
    (∀ off, s.mustWait c (.dev off) n false = false → s.l1Holds c addr n (.dev off) = false →
      (off < hbmEnd → (s.part (partOfOff off)).door ≠ .open_ → s.load c addr n (.dev off) ecc cls = .trap 0x0B 0x0F s) ∧
      (s.doorAt off = false → s.asleep (partOfOff off) = true →
        s.load c addr n (.dev off) ecc cls = .wait (some (partOfOff off))) ∧
      (s.doorAt off = false → s.asleep (partOfOff off) = false → s.devMay (s.core c) off n false = true → s.calm = true →
        l1Sets (s.core c) = 0 →
        ∃ t, s.load c addr n (.dev off) ecc cls = .ok (s.devBytes c off n) t ∧ (∀ x, t.core x = s.core x) ∧
          { t with cores := s.cores, bays := s.bays, ctr := s.ctr } = s))

/-- R81, R84, R223: a scalar store into a scratchpad by a core without an epoch changes the bytes it covers there and no others; a
store to device memory that the fence admits joins the core's stores on their way to their home bay; RANGE is found before ALIGN. -/
def Claim.ScalarStores : Prop :=
  ∀ (s : State) (c : Nat) (f : FormB) (addr n : Nat), f.dst.toNat < 32 → f.src1.toNat < 32 → f.func.toNat < 4 →
    ScalarReady s c f.pred f.pneg → addr = ((s.core c).sreg f.src1.toNat + f.imm.signExtend 64).toNat → n = 2 ^ f.func.toNat →
    (s.resolve c addr n true = none →
      exec (.st (.core c) f) s = .next ((if addr / 2 ^ 60 = 0 then s.logEv 17 addr else s).trap c 0x04 addr)) ∧
    (s.resolve c addr n true ≠ none → addr % n ≠ 0 → exec (.st (.core c) f) s = .next (s.trap c 0x03 addr)) ∧
    (addr % n = 0 → (s.core c).epoch = 0 →
    (∀ o off, s.resolve c addr n true = some (.spad o off) → s.mustWait c (.spad o off) n true = false →
      ∃ t, exec (.st (.core c) f) s = .next t ∧ SameMemory s t ∧ { t with cores := s.cores } = s ∧
        (∀ x, x ≠ c → x ≠ o → t.core x = s.core x) ∧ (t.core c).pc = (s.core c).pc + 8 ∧
        (∀ a, nget 0 (t.core o).spad a = if off ≤ a ∧ a < off + n then
          ((s.core c).sreg f.dst.toNat).extractLsb' (8 * (a - off)) 8 else nget 0 (s.core o).spad a) ∧
        (∀ m, (t.core c).sreg m = (s.core c).sreg m) ∧ (∀ m, (t.core c).preg m = (s.core c).preg m)) ∧
    (∀ off, s.resolve c addr n true = some (.dev off) → s.mustWait c (.dev off) n true = false → s.doorAt off = false →
      s.asleep (partOfOff off) = false → s.devMay (s.core c) off n true = true →
      ∃ t w, exec (.st (.core c) f) s = .next t ∧ SameMemory s t ∧ OnlyCore s t c ∧ (t.core c).pc = (s.core c).pc + 8 ∧
        (t.core c).stores = (s.core c).stores ++ [w] ∧ w.addr = s.moduleId * 2 ^ 44 + off ∧ w.core = c ∧ w.epoch = 0 ∧
        w.fn = (s.core c).fnOf ∧ w.cls = fld ((s.core c).csrReg 0x018) 4 3 ∧ w.bytes.length = n ∧
        (∀ i, i < n → w.bytes.getD i 0 = ((s.core c).sreg f.dst.toNat).extractLsb' (8 * i) 8) ∧
        (∀ m, (t.core c).sreg m = (s.core c).sreg m)))

/-- R82: TD.LD reads a word of a tensor descriptor, and traps DESC at or above TD_COUNT. -/
def Claim.TensorDescriptors : Prop :=
  ∀ (s : State) (c : Nat) (f : FormB), f.src1 = 0 → f.func = 0 → f.imm.toNat < 1024 → f.dst.toNat < 32 →
    ScalarReady s c f.pred f.pneg →
    (∀ d, (s.core c).td[f.imm.toNat % 256]? = some d →
      ∃ t, exec (.tdLd (.core c) f) s = .next t ∧ OnlyCore s t c ∧ WritesS (s.core c) (t.core c) f.dst.toNat (
        if f.imm.toNat / 256 = 0 then BitVec.ofNat 64 d.base else if f.imm.toNat / 256 = 1 then BitVec.ofNat 64 d.bytes
        else if f.imm.toNat / 256 = 2 then
          BitVec.ofNat 64 (d.tensor * 2 ^ 32 + d.format * 2 ^ 24 + d.kind * 2 ^ 16 + d.location * 2 ^ 8 + d.flags)
        else BitVec.ofNat 64 (d.tableSet * 2 ^ 48)) ∧ Retires (s.core c) (t.core c) ((s.core c).pc + 8)) ∧
    ((s.core c).td.length ≤ f.imm.toNat % 256 → exec (.tdLd (.core c) f) s = .next (s.trap c 0x05 0))

/-- R171, R174: NOP, ADDI, LI and CMP in thread code compute at 32 bits in every active thread whose predicate holds. -/
def Claim.ThreadImmediatesAndCompare : Prop :=
  ∀ (s : State) (c g : Nat), ThreadReady s c g →
    (∀ f : FormA, usesA f false false false false false false false = true →
      ∃ t, exec (.nop (.group c g) f) s = .next t ∧ ThreadEffect s t c g f.pred f.pneg [] fun x => { x with pc := x.pc + 8 }) ∧
    (∀ f : FormB, f.func = 0 → ∃ t, exec (.addi (.group c g) f) s = .next t ∧
      ThreadEffect s t c g f.pred f.pneg [f.src1.toNat] fun x =>
      { x.setReg f.dst.toNat (x.reg f.src1.toNat + f.imm) with pc := x.pc + 8 }) ∧
    (∀ f : FormC, ∃ t, exec (.li (.group c g) f) s = .next t ∧ ThreadEffect s t c g f.pred f.pneg [] fun x =>
      { x.setReg f.dst.toNat (f.imm.extractLsb' 0 32) with pc := x.pc + 8 }) ∧
    (∀ f : FormA, cmpLegal (.group c g) f = true →
      ∃ (t : State) (v : Thread → Bool), exec (.cmp (.group c g) f) s = .next t ∧
        (∀ (x : Thread) a b pa pb, a = x.reg f.src1.toNat → b = x.reg f.src2.toNat →
          pa = x.preg f.src1.toNat → pb = x.preg f.src2.toNat →
          (f.func = 0x00 → v x = decide (a = b)) ∧ (f.func = 0x01 → v x = decide (a ≠ b)) ∧
          (f.func = 0x02 → v x = decide (a.toInt < b.toInt)) ∧ (f.func = 0x03 → v x = decide (a.toNat < b.toNat)) ∧
          (f.func = 0x04 → v x = decide (b.toInt ≤ a.toInt)) ∧ (f.func = 0x05 → v x = decide (b.toNat ≤ a.toNat)) ∧
          (f.func = 0x10 → v x = (pa && pb)) ∧ (f.func = 0x11 → v x = (pa || pb)) ∧ (f.func = 0x12 → v x = (pa ^^ pb)) ∧
          (f.func = 0x13 → v x = !pa)) ∧
        ThreadEffect s t c g f.pred f.pneg (if f.func.toNat ≤ 5 then [f.src1.toNat, f.src2.toNat] else [])
          fun x => { x.setP f.dst.toNat (v x) with pc := x.pc + 8 })

/-- R171, R82, R84, R95: in thread code CSR.R and TD.LD write a register pair, and the fences wait for the core's stores; FENCE INV
and FENCE ALL drop the cached lines outside the core's own region. -/
def Claim.ThreadReadsAndFences : Prop :=
  ∀ (s : State) (c g : Nat), ThreadReady s c g →
    (∀ f : FormB, f.src1 = 0 → f.func = 0 → f.dst.toNat % 2 = 0 → csrListed f.imm.toNat = true →
      ∃ t v, exec (.csrR (.group c g) f) s = .next t ∧
        (f.imm.toNat = 0x000 → v = BitVec.ofNat 64 (partOf c / 4 * 2 ^ 20 + partOf c * 2 ^ 16 + c)) ∧
        (f.imm.toNat = 0x013 → v = BitVec.ofNat 64 (s.core c).td.length) ∧
        (f.imm.toNat = 0x030 → v = s.specEpoch (s.core c)) ∧ (f.imm.toNat = 0x038 → v = (s.core c).msgStatus) ∧
        (f.imm.toNat ∉ [0x000, 0x008, 0x00A, 0x013, 0x020, 0x030, 0x038] → v = (s.core c).csrReg f.imm.toNat) ∧
        ThreadEffect { s with free := t.free } t c g f.pred f.pneg [] fun x => { x.setPair f.dst.toNat v with pc := x.pc + 8 }) ∧
    (∀ (f : FormB) (d : Desc), f.src1 = 0 → f.func = 0 → f.dst.toNat % 2 = 0 → f.imm.toNat < 1024 →
      (s.core c).td[f.imm.toNat % 256]? = some d →
      ∃ t, exec (.tdLd (.group c g) f) s = .next t ∧ ThreadEffect s t c g f.pred f.pneg [] fun x =>
        { x.setPair f.dst.toNat (
            if f.imm.toNat / 256 = 0 then BitVec.ofNat 64 d.base else if f.imm.toNat / 256 = 1 then BitVec.ofNat 64 d.bytes
            else if f.imm.toNat / 256 = 2 then
              BitVec.ofNat 64 (d.tensor * 2 ^ 32 + d.format * 2 ^ 24 + d.kind * 2 ^ 16 + d.location * 2 ^ 8 + d.flags)
            else BitVec.ofNat 64 (d.tableSet * 2 ^ 48)) with pc := x.pc + 8 }) ∧
    (∀ (f : FormA) (i : Instr) (inv : Bool), usesA f false false false false true false false = true →
      (i = .fenceStore (.group c g) f ∧ f.func = 0 ∧ s.storesDone c = true ∧ inv = false ∨
       i = .fenceInv (.group c g) f ∧ f.func = 1 ∧ inv = true ∨
       i = .fenceAll (.group c g) f ∧ f.func = 2 ∧ s.storesDone c = true ∧ inv = true) →
      ∃ t, exec i s = .next t ∧
        ThreadEffect (if inv && (s.grp c g).active.any ((s.grp c g).takes f.pred f.pneg) then
            s.modCore c fun k => { k with l1 := k.l1.filter fun x => x.space == 2 } else s)
          t c g f.pred f.pneg [] fun x => { x with pc := x.pc + 8 })

/-- R171, R176, R177, R81: in thread code LD and ST take a 64-bit base from a register pair. Where the access of every thread that
takes part completes at once, a load writes its extended bytes to each thread's t[DST], and the stores into the core's own
scratchpad land in increasing lane order. -/
def Claim.ThreadLoadsAndStores : Prop :=
  ∀ (s : State) (c g : Nat) (f : FormB) (n : Nat) (addr : Thread → Nat), ThreadReady s c g →
    f.src1.toNat % 2 = 0 → n = 2 ^ (f.func.toNat % 4) → n ≤ 4 →
    (∀ x, addr x = (x.pair f.src1.toNat + f.imm.signExtend 64).toNat) →
    (f.func.toNat < 8 →
      (∀ l, (s.grp c g).takes f.pred f.pneg l = true → addr ((s.grp c g).th l) % n = 0 ∧
        (s.plainRead c (addr ((s.grp c g).th l)) n true).isSome = true) →
      ∃ t, exec (.ld (.group c g) f) s = .next t ∧
        ThreadEffect { s with bays := t.bays } t c g f.pred f.pneg [f.src1.toNat, f.src1.toNat + 1] fun x =>
        let bs := (s.plainRead c (addr x) n true).getD []
        { x.setReg f.dst.toNat (if f.func.toNat < 4 then BitVec.ofNat 32 (leNat bs)
            else BitVec.ofInt 32 (sextN (8 * bs.length) (leNat bs))) with pc := x.pc + 8 }) ∧
    (f.func.toNat < 4 →
      (∀ l, (s.grp c g).takes f.pred f.pneg l = true → addr ((s.grp c g).th l) % n = 0 ∧
        (s.plainWrite c (addr ((s.grp c g).th l)) n true).isSome = true) →
      ∃ t, exec (.st (.group c g) f) s = .next t ∧
        WritesSpad s t c (((s.grp c g).active.filter ((s.grp c g).takes f.pred f.pneg)).foldl
          (fun m l => laidOver m ((s.plainWrite c (addr ((s.grp c g).th l)) n true).getD 0)
            (leBytes n (((s.grp c g).th l).reg f.dst.toNat).toNat)) (nget 0 (s.core c).spad)) ∧
        (∀ l, (t.grp c g).th l = if (s.grp c g).takes f.pred f.pneg l then
            { ((s.grp c g).th l).reads [f.dst.toNat, f.src1.toNat, f.src1.toNat + 1] with pc := ((s.grp c g).th l).pc + 8 }
          else if (s.grp c g).active.contains l then { (s.grp c g).th l with pc := ((s.grp c g).th l).pc + 8 }
          else (s.grp c g).th l) ∧
        (∀ j, j ≠ g → t.grp c j = s.grp c j))

/-- R87, R88: MSG.SEND whose checks pass retires with its message, as of that moment, at the end of the core's send buffer; outside
an epoch. -/
def Claim.MessageSend : Prop :=
  ∀ (s : State) (c : Nat) (f : FormA) (dest off len : Nat), ScalarReady s c f.pred f.pneg →
    usesA f false true true true false false true = true → f.src1.toNat < 32 → f.src2.toNat < 32 → f.src3.toNat < 32 →
    dest = ((s.core c).sreg f.src1.toNat).toNat → off = ((s.core c).sreg f.src2.toNat).toNat →
    len = ((s.core c).sreg f.src3.toNat).toNat →
    (dest / 2 ^ 28 ≠ 0 ∨ dest / 2 ^ 15 % 2 = 1 ∨ 240 < len ∨ len % 16 ≠ 0 →
      exec (.msgSend (.core c) f) s = .next (s.trap c 0x04 0)) ∧
    (dest / 2 ^ 28 = 0 → dest / 2 ^ 15 % 2 = 0 → len ≤ 240 → len % 16 = 0 → off % 16 = 0 →
      (len = 0 ∨ off + len ≤ (s.core c).spadSize) → (s.core c).epoch = 0 → s.mustWait c (.spad c off) len false = false →
      ((s.core c).send.length < 4 →
        ∃ t m, exec (.msgSend (.core c) f) s = .next t ∧ OnlyCore s t c ∧ (t.core c).send = (s.core c).send ++ [m] ∧
          m.srcVcore = (s.core c).vc ∧ m.srcModule = s.moduleId ∧ m.dstVcore = dest % 2 ^ 15 ∧ m.dstModule = dest / 2 ^ 16 ∧
          m.tag = f.mod ∧ m.payload = s.localRead c 1 c off len ∧ m.prov = 0 ∧
          Retires (s.core c) (t.core c) ((s.core c).pc + 8) ∧
          { t.core c with send := (s.core c).send, seq := (s.core c).seq, pc := (s.core c).pc, csr := (s.core c).csr, stall := (s.core c).stall, icache := (s.core c).icache } = s.core c) ∧
      (4 ≤ (s.core c).send.length →
        ∃ t, exec (.msgSend (.core c) f) s = .next t ∧ OnlyCore s t c ∧ { t.core c with stall := (s.core c).stall } = s.core c))

/-- R87, R89, R91, R84: MSG.RECV of a waiting message, outside an epoch, writes header and payload to the scratchpad and the first
header bytes to s[DST], frees the receive queue's entry, counts MSG_RECEIVED and drops the cached lines outside the core's own
region; MSG.POLL tells whether one waits. -/
def Claim.MessageReceive : Prop :=
  ∀ (s : State) (c : Nat) (f : FormA), ScalarReady s c f.pred f.pneg → (s.core c).lost = false →
    (∀ (off : Nat) (m : Msg) (r : List Msg), usesA f true true false false false false false = true → f.dst.toNat < 32 →
      f.src1.toNat < 32 → off = ((s.core c).sreg f.src1.toNat).toNat → off % 16 = 0 → (s.core c).rxq = m :: r →
      off + 16 + m.payload.length ≤ (s.core c).spadSize → m.bad = false → (s.core c).epoch = 0 →
      s.mustWait c (.spad c off) (16 + m.payload.length) true = false →
      ∃ t head, exec (.msgRecv (.core c) f) s = .next t ∧
        head = BitVec.ofNat 64 (m.srcVcore % 2 ^ 15 + m.srcModule % 2 ^ 12 * 2 ^ 16 + m.payload.length % 2 ^ 16 * 2 ^ 32 +
          m.tag.toNat * 2 ^ 48) ∧
        WritesS (s.core c) (t.core c) f.dst.toNat head ∧
        (∀ a, nget 0 (t.core c).spad a = if off ≤ a ∧ a < off + 16 + m.payload.length then
          (if a < off + 8 then head.extractLsb' (8 * (a - off)) 8 else if a < off + 16 then 0 else m.payload.getD (a - off - 16) 0)
          else nget 0 (s.core c).spad a) ∧
        ((s.core c).overflow = [] → (s.core c).spill = [] → (t.core c).rxq = r ∧ { t with cores := s.cores } = s) ∧
        (∀ o os, (s.core c).overflow = o :: os → (s.core c).spill = [] → (t.core c).rxq = r ++ [o] ∧ (t.core c).overflow = os ∧
          { t with cores := s.cores, bays := s.bays } = s) ∧
        (t.core c).pc = (s.core c).pc + 8 ∧ (t.core c).csrReg 0x03A = sat64 (((s.core c).csrReg 0x03A).toNat + 1) ∧
        (t.core c).l1 = (s.core c).l1.filter (fun x => x.space == 2) ∧
        (∀ x, x ≠ c → t.core x = s.core x)) ∧
    (usesA f true false false false false false false = true → f.dst.toNat < 8 → f.dst.toNat ∉ (s.core c).pPending →
      ∃ t, exec (.msgPoll (.core c) f) s = .next t ∧ OnlyCore s t c ∧
        WritesP (s.core c) (t.core c) f.dst.toNat (decide ((s.core c).rxq ≠ [])) ∧
        Retires (s.core c) (t.core c) ((s.core c).pc + 8) ∧
        { t.core c with p := (s.core c).p, pc := (s.core c).pc, csr := (s.core c).csr, stall := (s.core c).stall, icache := (s.core c).icache } = s.core c)

/-- R88, R42, R90, R43: the oldest message of a send buffer enters the network once the sender's earlier stores are visible; one in
flight arrives in the receive queue, then in the overflow ring (shown where the bay's sets are empty), of the core that carries its
receiver, behind every older one of the same pair; a message for a virtual core that no core carries is counted at its sender. -/
def Claim.MessageTransport : Prop :=
  ∀ (s : State) (c : Nat),
    (∀ (m : Msg) (r : List Msg), Unit.core c = true → (s.core c).send = m :: r → s.storesDone c = true →
      s.releasing (s.core c) = false → (s.part (partOf c)).door = .open_ → m.dstModule = s.moduleId →
      ∃ t, exec (.msgInject c) s = .next t ∧ t.net = s.net ++ [m] ∧ (t.core c).send = r ∧
        (t.core c).csrReg 0x039 = sat64 (((s.core c).csrReg 0x039).toNat + 1) ∧
        { t.core c with send := (s.core c).send, csr := (s.core c).csr } = s.core c ∧
        (∀ x, x ≠ c → t.core x = s.core x) ∧ SameMemory s t ∧ { t with cores := s.cores, net := s.net } = s) ∧
    (∀ (i : Nat) (m : Msg), s.net[i]? = some m →
      (∀ x ∈ s.net.take i, x.srcVcore ≠ m.srcVcore ∨ x.dstVcore ≠ m.dstVcore) → s.epState m.prov ≠ .aborting →
      (∀ im, s.img.image = some im → s.placed m.dstVcore = some c → (s.part (partOf c)).door = .open_ →
        (s.part (partOf c)).hold = [] → s.asleep (partOf c) = false →
        (s.core c).overflow = [] → (s.core c).spill = [] →
        ∃ t, exec (.msgArrival (.net i)) s = .next t ∧ t.net = s.net.take i ++ s.net.drop (i + 1) ∧
          ((s.core c).rxq.length < 16 → (t.core c).rxq = (s.core c).rxq ++ [m] ∧ (t.core c).overflow = [] ∧ SameMemory s t) ∧
          (16 ≤ (s.core c).rxq.length → m.payload.length ≤ 240 → (s.bay (clusterOf c)).lines = [] →
            (s.bay (clusterOf c)).ways = [] → (s.bay (clusterOf c)).prov = [] →
            (t.core c).rxq = (s.core c).rxq ∧ (t.core c).overflow = [m] ∧ SameMemory s t)) ∧
      (s.placed m.dstVcore = none → m.srcModule = s.moduleId → s.placed m.srcVcore = some c →
        ∃ t, exec (.msgArrival (.net i)) s = .next t ∧ t.net = s.net.take i ++ s.net.drop (i + 1) ∧
          (t.core c).csrReg 0x03B = sat64 (((s.core c).csrReg 0x03B).toNat + 1) ∧ SameMemory s t))

/-- R154, R155, R152: in scalar code the lane-wise vector instructions write lanes 0 to LAST of v[DST], with s[SRC2] in place of
v[SRC2] under SCALAR_B, and leave the lanes above LAST; VMOV with FUNC 0x01 writes s[SRC1] to them. -/
def Claim.VectorLanes : Prop :=
  ∀ (s : State) (i : Instr) (c : Nat) (f : FormA) (ok : Bool) (hasB hasC : Bool) (op : Bool → W32 → W32 → W32 → W32),
    ScalarReady s c f.pred f.pneg →
    (laneOf i = some (.core c, f, hasB, hasC, ok, op) → vecLegal (.core c) f hasB hasC = true → ok = true →
      (∀ n ∈ vecRegs f hasB hasC, n ∉ (s.core c).vPending) →
      ∃ t, exec i s = .next t ∧ WritesV s t c f.dst.toNat fun l =>
        if l ≤ f.mod.toNat % 64 then op (f.type == 1) (vlane ((s.core c).vreg f.src1.toNat) l)
            (if f.mod.toNat / 64 % 2 = 1 then ((s.core c).sreg f.src2.toNat).extractLsb' 0 32
             else vlane ((s.core c).vreg f.src2.toNat) l) (vlane ((s.core c).vreg f.src3.toNat) l)
        else vlane ((s.core c).vreg f.dst.toNat) l) ∧
    (i = .vmov (.core c) f → f.func = 1 → vecLegal (.core c) f false false = true →
      (∀ n ∈ [f.dst.toNat, f.src1.toNat], n ∉ (s.core c).vPending) →
      ∃ t, exec i s = .next t ∧ WritesV s t c f.dst.toNat fun l =>
        if l ≤ f.mod.toNat % 64 then ((s.core c).sreg f.src1.toNat).extractLsb' 0 32 else vlane ((s.core c).vreg f.dst.toNat) l)

/-- R171, R155: in thread code the same instructions work on t registers, one lane for each thread. -/
def Claim.ThreadLanes : Prop :=
  ∀ (s : State) (i : Instr) (c g : Nat) (f : FormA) (ok : Bool) (hasB hasC : Bool) (op : Bool → W32 → W32 → W32 → W32),
    laneOf i = some (.group c g, f, hasB, hasC, ok, op) → vecLegal (.group c g) f hasB hasC = true → ok = true → ThreadReady s c g →
    ∃ t, exec i s = .next t ∧ ThreadEffect { s with free := t.free } t c g f.pred f.pneg
        ([f.src1.toNat] ++ (if hasB then [f.src2.toNat] else []) ++ (if hasC then [f.src3.toNat] else [])) fun x =>
      { x.setReg f.dst.toNat (op (f.type == 1) (x.reg f.src1.toNat) (x.reg f.src2.toNat) (x.reg f.src3.toNat)) with pc := x.pc + 8 }

/-- R155: VUN RSQRT, EXP2 and LOG2 complete with lanes that the rule bounds: NaN for NaN and, for RSQRT and LOG2, for values below
zero. Inside the bound the value is open: the model's choice, log entry 5. -/
def Claim.ApproximateLanes : Prop :=
  ∀ (s : State) (c : Nat) (f : FormA) (func : Nat), ScalarReady s c f.pred f.pneg → func = f.func.toNat → 4 ≤ func → func ≤ 6 →
    f.type = 1 → vecLegal (.core c) f false false = true → (∀ n ∈ [f.dst.toNat, f.src1.toNat], n ∉ (s.core c).vPending) →
    ∃ t g, exec (.vun (.core c) f) s = .next t ∧ WritesV s t c f.dst.toNat g ∧
      ∀ l x, l < 64 → x = f32 (vlane ((s.core c).vreg f.src1.toNat) l) →
        (f.mod.toNat % 64 < l → g l = vlane ((s.core c).vreg f.dst.toNat) l) ∧
        (l ≤ f.mod.toNat % 64 → x = .nan → g l = 0x7FC00000) ∧
        (l ≤ f.mod.toNat % 64 → ∀ neg m e, x = .fin neg m e → m ≠ 0 →
          (func ≠ 5 → neg = true → g l = 0x7FC00000) ∧
          (func = 4 → neg = false → within2ulp (g l) (rsqrtFix m e) = true ∨ g l = toF32 (rsqrtFix m e).num) ∧
          (func = 5 → x.lt (.fin false 128 0) = true → Num.lt (.fin true 300 0) x = true →
            within2ulp (g l) (exp2Fix neg m e) = true ∨ g l = toF32 (exp2Fix neg m e).num) ∧
          (func = 6 → neg = false → within2ulp (g l) (log2Fix m e) = true ∨ g l = toF32 (log2Fix m e).num))

/-- R155: VPERM takes each lane of v[DST] up to LAST from the lane of v[SRC1] that v[SRC2] names modulo 64; VGET writes one lane,
zero-extended, to s[DST]. -/
def Claim.VectorPermuteAndGet : Prop :=
  ∀ (s : State) (c : Nat) (f : FormA), ScalarReady s c f.pred f.pneg → f.func = 0 →
    (∀ n ∈ [f.dst.toNat, f.src1.toNat, f.src2.toNat], n ∉ (s.core c).vPending) →
    (vecScalar (.core c) f true (decide (f.mod.toNat < 64)) = true →
      ∃ t, exec (.vperm (.core c) f) s = .next t ∧ WritesV s t c f.dst.toNat fun l =>
        if l ≤ f.mod.toNat then vlane ((s.core c).vreg f.src1.toNat) ((vlane ((s.core c).vreg f.src2.toNat) l).toNat % 64)
        else vlane ((s.core c).vreg f.dst.toNat) l) ∧
    (vecScalar (.core c) f true (f.mod == 0) = true →
      ∃ t, exec (.vget (.core c) f) s = .next t ∧ WritesS (s.core c) (t.core c) f.dst.toNat
          ((vlane ((s.core c).vreg f.src1.toNat) (((s.core c).sreg f.src2.toNat).toNat % 64)).zeroExtend 64) ∧
        Retires (s.core c) (t.core c) ((s.core c).pc + 8) ∧
        { t.core c with s := (s.core c).s, pc := (s.core c).pc, csr := (s.core c).csr, stall := (s.core c).stall, icache := (s.core c).icache } = s.core c ∧
        (∀ x, x ≠ c → t.core x = s.core x) ∧ SameMemory s t ∧ { t with cores := s.cores, ctr := s.ctr } = s)

/-- R160, R161: VRED.SUM adds lanes 0 to LAST into lane 0, VRED.SEG the lanes of each segment up to LAST into the lane with the
segment's number, and both clear the other lanes; INT32 sums are exact modulo 2^32, FP32 sums are those of R125 with their open
order. -/
def Claim.VectorReductions : Prop :=
  ∀ (s : State) (c : Nat) (f : FormA) (seg last : Nat), ScalarReady s c f.pred f.pneg → last = f.mod.toNat % 64 →
    (∀ n ∈ [f.dst.toNat, f.src1.toNat], n ∉ (s.core c).vPending) →
    (f.func = 0 → vecScalar (.core c) f false (decide (f.mod.toNat < 64)) = true →
      ∃ t g, exec (.vredSum (.core c) f) s = .next t ∧ WritesV s t c f.dst.toNat g ∧ (∀ l, 0 < l → l < 64 → g l = 0) ∧
        (f.type = 6 → g 0 = (((List.range (last + 1)).map (vlane ((s.core c).vreg f.src1.toNat))).foldl (· + ·) 0)) ∧
        (f.type = 1 → ∃ d, g 0 = sumOpen d (((List.range (last + 1)).map (vlane ((s.core c).vreg f.src1.toNat))).map f32))) ∧
    (f.func = 1 → 1 ≤ seg → seg ≤ 6 → f.mod.toNat = seg * 256 + last →
      vecScalar (.core c) f false true = true →
      ∃ t g, exec (.vredSeg (.core c) f) s = .next t ∧ WritesV s t c f.dst.toNat g ∧
        (∀ j, 64 / 2 ^ seg ≤ j → j < 64 → g j = 0) ∧
        ∀ j xs, j < 64 / 2 ^ seg →
          xs = (((List.range 64).filter fun l => l / 2 ^ seg == j && decide (l ≤ last)).map (vlane ((s.core c).vreg f.src1.toNat))) →
          (f.type = 6 → g j = xs.foldl (· + ·) 0) ∧ (f.type = 1 → ∃ d, g j = sumOpen d (xs.map f32)))

/-- R155 to R157: a vector load or store of lanes 0 to LAST whose address is a multiple of 4 inside its space moves LAST + 1 words;
any other counts as begun and raises UNIT at its address. -/
def Claim.VectorLoadsAndStores : Prop :=
  ∀ (s : State) (c : Nat) (f : FormB) (addr n : Nat), ScalarReady s c f.pred f.pneg → f.dst.toNat < 32 → f.src1.toNat < 32 →
    f.func.toNat < 64 → n = 4 * (f.func.toNat + 1) → addr = ((s.core c).sreg f.src1.toNat + f.imm.signExtend 64).toNat →
    f.dst.toNat ∉ (s.core c).vPending →
    (∀ t, t = ((if addr % 4 = 0 ∧ addr / 2 ^ 60 = 0 then s.logEv 17 addr else s).bump 0x02 c 0 1).trap c 0x0B addr →
      addr % 4 ≠ 0 ∨ s.resolve c addr n false = none →
      exec (.vld (.core c) f) s = .next t ∧ exec (.vst (.core c) f) s = .next t) ∧
    (addr % 4 = 0 → ∀ bs, s.plainRead c addr n false = some bs →
      ∃ t, exec (.vld (.core c) f) s = .next t ∧ WritesV { s with bays := t.bays } t c f.dst.toNat fun l =>
        if l ≤ f.func.toNat then BitVec.ofNat 32 (leNat ((bs.drop (4 * l)).take 4)) else vlane ((s.core c).vreg f.dst.toNat) l) ∧
    (addr % 4 = 0 → ∀ off, s.plainWrite c addr n false = some off →
      ∃ t, exec (.vst (.core c) f) s = .next t ∧ Retires (s.core c) (t.core c) ((s.core c).pc + 8) ∧
        WritesSpad s t c fun a => if off ≤ a ∧ a < off + n then ((s.core c).vreg f.dst.toNat).extractLsb' (8 * (a - off)) 8
          else nget 0 (s.core c).spad a)

/-- R155 to R157: a strided access whose lanes 0 to LAST each pass moves one word for each lane: a load leaves the lanes above LAST,
and stores land in increasing lane order. -/
def Claim.VectorStridedAccess : Prop :=
  ∀ (s : State) (c : Nat) (f : FormA) (last : Nat) (addr : Nat → Nat), ScalarReady s c f.pred f.pneg → f.func = 0 →
    f.mod.toNat < 64 → last = f.mod.toNat →
    (∀ l, addr l = ((s.core c).sreg f.src1.toNat + BitVec.ofNat 64 l * (s.core c).sreg f.src2.toNat).toNat) →
    ((s.core c).sreg f.src1.toNat).toNat % 4 = 0 → ((s.core c).sreg f.src2.toNat).toNat % 4 = 0 →
    (∀ n ∈ [f.dst.toNat, f.src3.toNat], n ∉ (s.core c).vPending) →
    (vecScalar (.core c) f true true = true → (∀ l, l ≤ last → (s.plainRead c (addr l) 4 false).isSome = true) →
      ∃ t, exec (.vlds (.core c) f) s = .next t ∧ WritesV { s with bays := t.bays } t c f.dst.toNat fun l =>
        if l ≤ last then BitVec.ofNat 32 (leNat ((s.plainRead c (addr l) 4 false).getD []))
        else vlane ((s.core c).vreg f.dst.toNat) l) ∧
    (typeOk f = true → f.dst = 0 → f.src1.toNat < 32 → f.src2.toNat < 32 → f.src3.toNat < 32 →
      (∀ l, l ≤ last → (s.plainWrite c (addr l) 4 false).isSome = true) →
      ∃ t, exec (.vsts (.core c) f) s = .next t ∧ Retires (s.core c) (t.core c) ((s.core c).pc + 8) ∧
        WritesSpad s t c ((List.range (last + 1)).foldl (fun m l => laidOver m ((s.plainWrite c (addr l) 4 false).getD 0)
          (leBytes 4 (vlane ((s.core c).vreg f.src3.toNat) l).toNat)) (nget 0 (s.core c).spad)))

/-- R114, R117, R118: CVT converts a register's elements between two element formats: the wider side gives the number of elements,
PART names the section of the narrower, a narrowing leaves the rest of v[DST], and stochastic rounding takes its bits from the
core generator, which then advances by a quarter of the elements. -/
def Claim.ElementConversions : Prop :=
  ∀ (s : State) (c : Nat) (f : FormA) (sf df ws wd n part : Nat) (rng : W64), ScalarReady s c f.pred f.pneg →
    cvtLegal (.core c) f = true → sf = f.mod.toNat / 1024 % 32 → df = f.type.toNat → ws = fmtWidth sf → wd = fmtWidth df →
    n = 2048 / max ws wd → part = f.mod.toNat / 16 % 8 → rng = (s.core c).csrReg 0x019 →
    (∀ r ∈ [f.dst.toNat, f.src1.toNat], r ∉ (s.core c).vPending) →
    ∃ t, exec (.cvt (.core c) f) s = .next t ∧
      (∀ j, j < n → velem ((t.core c).vreg f.dst.toNat) wd ((if wd < ws then part * n else 0) + j) =
        encElem df (decide (f.mod.toNat / 128 % 2 = 1)) (if f.mod.toNat / 256 % 4 = 1 then some (rngBits rng j) else none)
          (decElem sf (velem ((s.core c).vreg f.src1.toNat) ws ((if ws < wd then part * n else 0) + j)))) ∧
      (wd < ws → ∀ j, j < 2048 / wd → j / n ≠ part →
        velem ((t.core c).vreg f.dst.toNat) wd j = velem ((s.core c).vreg f.dst.toNat) wd j) ∧
      (∀ r, r ≠ f.dst.toNat → (t.core c).vreg r = (s.core c).vreg r) ∧
      (t.core c).csrReg 0x019 = (if f.mod.toNat / 256 % 4 = 1 then rngAdvance ((n + 3) / 4) rng else rng) ∧
      (∀ r, r ≠ 0x009 → r ≠ 0x019 → r ≠ 0x020 → (t.core c).csrReg r = (s.core c).csrReg r) ∧
      (t.core c).pc = (s.core c).pc + 8 ∧
      { t.core c with v := (s.core c).v, pc := (s.core c).pc, csr := (s.core c).csr, stall := (s.core c).stall, icache := (s.core c).icache } = s.core c ∧
      (∀ x, x ≠ c → t.core x = s.core x) ∧ SameMemory s t ∧ { t with cores := s.cores, ctr := s.ctr } = s

/-- R108, R109, R113, R119, R121, R120: CVT.ENC to the nearest writes the MX blocks of lanes 0 to 31 and 32 to 63 to memory; CVT.DEC decodes
64 elements of a block array from element s[SRC2] on, codebook blocks with the tables of a descriptor's table set. -/
def Claim.BlockConversions : Prop :=
  ∀ (s : State) (c : Nat) (f : FormA) (code : Nat), ScalarReady s c f.pred f.pneg → f.src3 = 0 → f.func = 0 →
    code = f.mod.toNat / 2 ^ 15 * 16 + f.type.toNat → f.src1.toNat < 32 → f.src2.toNat < 32 →
    (∀ addr bs off, f.dst = 0 → 0x0A ≤ code → code ≤ 0x0F → f.mod = 0 → addr = ((s.core c).sreg f.src2.toNat).toNat → addr / 2 ^ 60 = 1 →
      bs = mxEncode code ((List.range 32).map fun l => f32 (vlane ((s.core c).vreg f.src1.toNat) l)) (fun _ => none) ++
        mxEncode code ((List.range 32).map fun l => f32 (vlane ((s.core c).vreg f.src1.toNat) (32 + l))) (fun _ => none) →
      s.plainWrite c addr bs.length false = some off → f.src1.toNat ∉ (s.core c).vPending →
      ∃ t, exec (.cvtEnc (.core c) f) s = .next t ∧ Retires (s.core c) (t.core c) ((s.core c).pc + 8) ∧
        WritesSpad s t c (laidOver (nget 0 (s.core c).spad) off bs)) ∧
    (∀ base e per size addr n bs tables, f.dst.toNat < 32 → per = blockElems code → size = blockBytes code →
      (0x0A ≤ code ∧ code ≤ 0x0F ∧ f.mod.toNat % 2 ^ 15 = 0 ∧ e % per = 0 ∧ tables = [] ∨
       code = 0x12 ∧ f.mod.toNat % 2 ^ 15 = 0 ∧ e % 16 = 0 ∧ tables = [] ∨
       (code = 0x10 ∨ code = 0x11) ∧ f.mod.toNat % 2 ^ 15 < 256 ∧ e % per = 0 ∧
         ∃ d, (s.core c).td[f.mod.toNat % 2 ^ 15]? = some d ∧ d.format = code ∧ d.tableSet ≠ 0xFFFF ∧ tables = s.tables d.tableSet ∧
           s.calm = true) →
      base = ((s.core c).sreg f.src1.toNat).toNat →
      e = ((s.core c).sreg f.src2.toNat).toNat → base / 2 ^ 60 = 1 ∨ base / 2 ^ 60 = 2 →
      base % 2 ^ 60 + e / per * size < 2 ^ 60 → addr = base + e / per * size → n = ((e % per + 63) / per + 1) * size →
      s.plainRead c addr n false = some bs → f.dst.toNat ∉ (s.core c).vPending →
      ∃ t, exec (.cvtDec (.core c) f) s = .next t ∧
        WritesV (({ s with bays := t.bays } : State).modCore c fun k => { k with tsets := (t.core c).tsets }) t c f.dst.toNat fun i =>
        toF32 (blockElem code tables ((bs.drop ((e % per + i) / per * size)).take size) ((e % per + i) % per)))

/-- R134, R137, R140, R73: an MMA that the matrix queue has room for enters it with its operands and retires; with K = 0 at the head
of an empty queue it does at once what it does: nothing, or with OVERWRITE it clears its accumulator, both with DOUBLE. -/
def Claim.MatrixIssue : Prop :=
  ∀ (s : State) (c : Nat) (f : FormA) (k : Nat), ScalarReady s c f.pred f.pneg → mmaLegal (.core c) f = true →
    k = ((s.core c).sreg f.src3.toNat).toNat →
    ((s.core c).mq.length < 8 → ((s.core c).mq = [] ∧ k ≠ 0 ∨ ∃ h r, (s.core c).mq = h :: r ∧ h.k ≠ 0 ∧ h.move = none) →
      ∃ t o, exec (.mma (.core c) f) s = .next t ∧ OnlyCore s t c ∧ (t.core c).mq = (s.core c).mq ++ [o] ∧
        o.acc = f.dst.toNat ∧ o.aAddr = ((s.core c).sreg f.src1.toNat).toNat ∧ o.stride = ((s.core c).sreg f.src2.toNat).toNat ∧
        o.k = k ∧ o.k0 = 0 ∧ o.port = f.func.toNat / 64 % 4 ∧ o.overwrite = decide (f.func.toNat / 32 % 2 = 1) ∧
        o.double = decide (f.func.toNat / 16 % 2 = 1) ∧ o.bFmt = f.mod.toNat / 2 ^ 15 * 16 + f.type.toNat ∧
        o.aFmt = f.mod.toNat / 1024 % 32 ∧ o.n = f.mod.toNat / 32 % 32 + 1 ∧
        o.m = (if f.func.toNat / 16 % 2 = 1 then 32 else f.mod.toNat % 16 + 1) ∧ o.epoch = (s.core c).epoch ∧
        o.move = none ∧ o.seq = (s.core c).seq ∧ Retires (s.core c) (t.core c) ((s.core c).pc + 8) ∧
        { t.core c with mq := (s.core c).mq, seq := (s.core c).seq, pc := (s.core c).pc, csr := (s.core c).csr, stall := (s.core c).stall, icache := (s.core c).icache } = s.core c) ∧
    ((s.core c).mq = [] → k = 0 → ∃ t, exec (.mma (.core c) f) s = .next t ∧ (t.core c).mq = [] ∧
      (∀ a w, a < 2 → w < 512 → (t.core c).accWord a w =
        if f.func.toNat / 32 % 2 = 1 ∧ (a = f.dst.toNat ∨ f.func.toNat / 16 % 2 = 1) then 0 else (s.core c).accWord a w) ∧
      (t.core c).pc = (s.core c).pc + 8 ∧ (∀ x, x ≠ c → t.core x = s.core x) ∧ SameMemory s t ∧
      { t with cores := s.cores, ctr := s.ctr } = s) ∧
    (8 ≤ (s.core c).mq.length → ∃ t, exec (.mma (.core c) f) s = .next t ∧ OnlyCore s t c ∧
      { t.core c with stall := (s.core c).stall } = s.core c)

/-- R126, R133, R135, R137: a matrix step with a single accumulator whose A rows and B slice are there takes the slice out of its
port and adds the exact products of its k values into the cells of its M rows and N columns, each codebook block decoded with the
table set of its own bytes (R109, R251); under OVERWRITE the first step leaves the
products alone in them and clears every other cell. INT32 accumulation is exact modulo 2^32. -/
def Claim.MatrixStep : Prop :=
  ∀ (s : State) (c : Nat) (o : MmaOp) (rest : List MmaOp) (slice : List PortByte) (kk per : Nat)
    (row col : Nat → List Machine.Num), Unit.core c = true → (s.core c).mq = o :: rest → o.move = none → o.k < 2 ^ 32 → o.double = false → o.acc < 2 → o.m ≤ 16 →
    o.n ≤ 32 → 0 < o.n → o.k0 < o.k → kk = min (granule o.bFmt) (o.k - o.k0) → per = rowBytes o.bFmt kk →
    o.aFault s c = none → slice = ((s.core c).slot o.port).port.take (o.n * per) → slice.length = o.n * per →
    (∀ b ∈ slice, b.fmt = o.bFmt ∧ b.bad = false) → (o.bFmt = 0x10 ∨ o.bFmt = 0x11 → s.calm = true) →
    (s.core c).withheld = false → o.aWaits s c = false →
    (∀ m, m < o.m → s.localBad 1 c (o.rowAddr m % 2 ^ 32) (rowBytes o.aFmt kk) = false) →
    (∀ m, row m = (List.range kk).map (storedElem o.aFmt (fun _ => []) (s.localRead c 1 c (o.rowAddr m % 2 ^ 32) (rowBytes o.aFmt kk)))) →
    (∀ n, col n = (List.range kk).map (storedElem o.bFmt (s.portTables o.bFmt ((slice.drop (n * per)).take per))
      (((slice.drop (n * per)).take per).map (·.byte)))) →
    (o.k ≤ o.k0 + kk → ∀ r ∈ rest, r.k ≠ 0 ∧ r.move = none) →
    ∃ (t : State) (d : Nat → Nat), exec (.mmaStepBegin c) s = .next t ∧
      ((t.core c).slot o.port).port = ((s.core c).slot o.port).port.drop (o.n * per) ∧
      (t.core c).mq = (if o.k ≤ o.k0 + kk then rest else { o with k0 := o.k0 + kk } :: rest) ∧
      (∀ m n prior, m < 16 → n < 32 →
        prior = (if o.k0 = 0 ∧ o.overwrite = true then none else some ((s.core c).accWord o.acc (32 * m + n))) →
        (t.core c).accWord o.acc (32 * m + n) =
          if m < o.m ∧ n < o.n then
            (if o.bFmt ∈ [0x07, 0x08, 0x09] then BitVec.ofInt 32 ((List.zipWith (fun (x y : Machine.Num) => x.toInt * y.toInt) (row m)
                (col n)).sum + (prior.getD 0).toInt)
             else sumOpen (d (32 * m + n)) ((prior.map f32).toList ++ List.zipWith (fun (x y : Machine.Num) => x.mul y) (row m) (col n)))
          else prior.getD 0) ∧
      (∀ w, w < 512 → (t.core c).accWord (1 - o.acc) w = (s.core c).accWord (1 - o.acc) w) ∧
      { t.core c with mq := (s.core c).mq, acc := (s.core c).acc, slots := (s.core c).slots, tsets := (s.core c).tsets } = s.core c ∧
      (o.bFmt ≠ 0x10 → o.bFmt ≠ 0x11 → (t.core c).tsets = (s.core c).tsets ∧ t.bays = s.bays) ∧
      (∀ x, x ≠ c → t.core x = s.core x) ∧ SameMemory s t ∧
      { t with cores := s.cores, bays := s.bays, ctr := s.ctr, free := s.free } = s

/-- R141 to R145: with the matrix queue empty, ACC.RV and ACC.WV move 64 words, and ACC.ST and ACC.LD move M rows of N elements
between an accumulator and the core's scratchpad, copying words in the accumulator's own format. -/
def Claim.AccumulatorMoves : Prop :=
  ∀ (s : State) (c : Nat) (f : FormA), ScalarReady s c f.pred f.pneg → (s.core c).mq = [] →
    (f.dst.toNat < 32 → f.src1.toNat < 2 → usesA f true true false false false false true = true → f.mod.toNat < 8 →
      ∃ t, exec (.accRv (.core c) f) s = .next t ∧
        WritesV s t c f.dst.toNat fun l => (s.core c).accWord f.src1.toNat (64 * f.mod.toNat + l)) ∧
    (f.dst.toNat < 2 → f.src1.toNat < 32 → usesA f true true false false false false true = true → f.mod.toNat < 8 →
      ∃ t, exec (.accWv (.core c) f) s = .next t ∧ OnlyCore s t c ∧ Retires (s.core c) (t.core c) ((s.core c).pc + 8) ∧
        (∀ a w, a < 2 → w < 512 → (t.core c).accWord a w =
          if a = f.dst.toNat ∧ w / 64 = f.mod.toNat then vlane ((s.core c).vreg f.src1.toNat) (w % 64) else (s.core c).accWord a w) ∧
        { t.core c with acc := (s.core c).acc, pc := (s.core c).pc, csr := (s.core c).csr, stall := (s.core c).stall, icache := (s.core c).icache } = s.core c) ∧
    (∀ (m n size : Nat) (addr : Nat → Nat), accLegal (.core c) f = true →
      m = f.mod.toNat % 16 + 1 → n = f.mod.toNat / 32 % 32 + 1 → size = rowBytes f.type.toNat n →
      ((s.core c).sreg f.src1.toNat).toNat % fmtAlign f.type.toNat = 0 →
      ((s.core c).sreg f.src2.toNat).toNat % fmtAlign f.type.toNat = 0 →
      (∀ r, addr r = (((s.core c).sreg f.src1.toNat).toNat + r * ((s.core c).sreg f.src2.toNat).toNat) % 2 ^ 64) →
      (∀ r, r < m → addr r / 2 ^ 60 = 1) →
      ((∀ r, r < m → (s.plainWrite c (addr r) size false).isSome = true) →
        ∃ t, exec (.accSt (.core c) f) s = .next t ∧ (t.core c).pc = (s.core c).pc + 8 ∧
          WritesSpad s t c ((List.range m).foldl (fun b r => laidOver b ((s.plainWrite c (addr r) size false).getD 0)
            (accStRow (s.core c) ((s.core c).csrReg 0x019) f r)) (nget 0 (s.core c).spad)) ∧
          (t.core c).csrReg 0x019 = (if f.mod.toNat / 2 ^ 13 % 4 = 1 then rngAdvance ((m * n + 3) / 4) ((s.core c).csrReg 0x019)
            else (s.core c).csrReg 0x019)) ∧
      ((∀ r, r < m → (s.plainRead c (addr r) size false).isSome = true) →
        ∃ t, exec (.accLd (.core c) f) s = .next t ∧ OnlyCore s t c ∧ (t.core c).pc = (s.core c).pc + 8 ∧
          (∀ a r j, a < 2 → r < 16 → j < 32 → (t.core c).accWord a (32 * r + j) =
            if a = f.dst.toNat ∧ r < m ∧ j < n then accLdWord ((s.core c).csrReg 0x019) f r j ((s.plainRead c (addr r) size false).getD [])
            else (s.core c).accWord a (32 * r + j)) ∧
          (t.core c).csrReg 0x019 = (if f.mod.toNat / 2 ^ 13 % 4 = 1 then rngAdvance ((m * n + 3) / 4) ((s.core c).csrReg 0x019)
            else (s.core c).csrReg 0x019) ∧
          { t.core c with acc := (s.core c).acc, pc := (s.core c).pc, csr := (s.core c).csr, stall := (s.core c).stall, icache := (s.core c).icache } =
            s.core c))

/-- R73, R141, R144: an accumulator move that finds instructions before it and room among the eight enters the matrix queue with what
it reads from registers and retires; without room it waits at issue. -/
def Claim.AccumulatorQueue : Prop :=
  ∀ (s : State) (c : Nat) (f : FormA) (i : Instr) (kind : Nat), ScalarReady s c f.pred f.pneg → (s.core c).mq ≠ [] →
    (i = .accSt (.core c) f ∧ kind = 0 ∧ accLegal (.core c) f = true ∨ i = .accLd (.core c) f ∧ kind = 1 ∧ accLegal (.core c) f = true ∨
     i = .accRv (.core c) f ∧ kind = 2 ∧ accRvLegal (.core c) f f.src1 f.dst = true ∧ f.dst.toNat ∉ (s.core c).vPending ∨
     i = .accWv (.core c) f ∧ kind = 3 ∧ accRvLegal (.core c) f f.dst f.src1 = true ∧ f.src1.toNat ∉ (s.core c).vPending) →
    ((s.core c).mq.length < 8 →
      ∃ t o m, exec i s = .next t ∧ OnlyCore s t c ∧ (t.core c).pc = (s.core c).pc + 8 ∧ (t.core c).mq = (s.core c).mq ++ [o] ∧
        o.move = some m ∧ m.kind = kind ∧ m.f = f ∧ m.base = (s.core c).sreg f.src1.toNat ∧ m.stride = (s.core c).sreg f.src2.toNat ∧
        m.v = (s.core c).vreg f.src1.toNat ∧ m.rng = (s.core c).csrReg 0x019 ∧ (t.core c).acc = (s.core c).acc ∧
        (t.core c).v = (s.core c).v ∧ (t.core c).spad = (s.core c).spad) ∧
    (8 ≤ (s.core c).mq.length → ∃ t, exec i s = .next t ∧ OnlyCore s t c ∧ { t.core c with stall := (s.core c).stall } = s.core c)

/-- R142, R143: an accumulator move whose memory format is the accumulator's own, FP32 or under ACC_INT INT32, copies words; any
other store converts each element once, under ROUND and SAT, and each load converts to the accumulator's format. -/
def Claim.AccumulatorElements : Prop :=
  ∀ (k : Core) (f : FormA) (rng : W64) (r j n w : Nat) (bs : List Byte), accRound f = 0 → n = matN f → j < n → w = fmtWidth f.type.toNat → w ≠ 0 →
    bs.length = rowBytes f.type.toNat n → (f.type ≠ 9 ∨ n % 2 = 0) →
    (accStRow k rng f r).length = (n * w + 7) / 8 ∧
    bitsN (leNat (accStRow k rng f r)) (w * j) w = (if accCopy f then (k.accWord f.dst.toNat (32 * r + j)).toNat
      else encElem f.type.toNat (accSat f) none (if accInt f then decInt 32 (k.accWord f.dst.toNat (32 * r + j)).toNat
        else f32 (k.accWord f.dst.toNat (32 * r + j)))) ∧
    accLdWord rng f r j bs = (if accCopy f then BitVec.ofNat 32 (bitsN (leNat bs) (w * j) w)
      else BitVec.ofNat 32 (encElem (if accInt f then 6 else 1) (accSat f) none (decElem f.type.toNat
        (bitsN (leNat bs) (w * j) w))))

/-- R168, R169, R170: TG.LAUNCH enters the thread-group queue; the launch at its head begins when its block number and enough slots
are free, in the lowest free slots, with t0 to t3 of each of the 32 threads of a group set and every other register clear; the register
caches empty; TG.JOIN retires once no launch waits before it and no group of the blocks it names is left. -/
def Claim.BlockLaunch : Prop :=
  ∀ (s : State) (c : Nat),
    (∀ f : FormA, ScalarReady s c f.pred f.pneg → usesA f false true true false false false true = true → f.src1.toNat < 32 →
      f.src2.toNat < 32 → f.mod.toNat < 2 ^ 11 → (s.core c).tgq.length < 4 →
      ∃ t q, exec (.tgLaunch (.core c) f) s = .next t ∧ OnlyCore s t c ∧ (t.core c).tgq = (s.core c).tgq ++ [q] ∧
        q.entry = ((s.core c).sreg f.src1.toNat).toNat ∧ q.arg = (s.core c).sreg f.src2.toNat ∧
        q.cls = f.mod.toNat / 256 ∧ q.cbar = f.mod.extractLsb' 4 4 ∧ q.block = f.mod.toNat / 4 % 4 ∧
        q.groups = f.mod.toNat % 4 + 1 ∧ q.epoch = (s.core c).epoch ∧ Retires (s.core c) (t.core c) ((s.core c).pc + 8) ∧
        { t.core c with tgq := (s.core c).tgq, pc := (s.core c).pc, csr := (s.core c).csr, stall := (s.core c).stall, icache := (s.core c).icache } = s.core c) ∧
    (∀ (q : LaunchReq) (r : List LaunchReq), Unit.core c = true → (s.core c).tgq = q :: r → (s.core c).blockGroups q.block = [] →
      q.groups ≤ (s.core c).freeSlots.length → q.entry % 8 = 0 →
      ∃ t, exec (.blockLaunchBegin c) s = .next t ∧ OnlyCore s t c ∧ (t.core c).tgq = r ∧
        (∀ gi i, gi < q.groups → (s.core c).freeSlots[gi]? = some i →
          (t.grp c i).used = true ∧ (t.grp c i).block = q.block ∧ (t.grp c i).cls = q.cls ∧ (t.grp c i).cbar = q.cbar ∧
          (t.grp c i).epoch = q.epoch ∧ ∀ l, l < 32 →
            ((t.grp c i).th l).mode = .runnable ∧ ((t.grp c i).th l).pc = q.entry ∧ ((t.grp c i).th l).cache = [] ∧
            ((t.grp c i).th l).reg 0 = BitVec.ofNat 32 (32 * gi + l) ∧ ((t.grp c i).th l).reg 1 = BitVec.ofNat 32 q.block ∧
            ((t.grp c i).th l).reg 2 = q.arg.extractLsb' 0 32 ∧ ((t.grp c i).th l).reg 3 = q.arg.extractLsb' 32 32 ∧
            (∀ n, 3 < n → ((t.grp c i).th l).reg n = 0) ∧ ∀ n, n ≠ 0 → ((t.grp c i).th l).preg n = false) ∧
        (∀ i, i ∉ (s.core c).freeSlots.take q.groups → t.grp c i = s.grp c i) ∧
        { t.core c with tgq := (s.core c).tgq, groups := (s.core c).groups } = s.core c) ∧
    (∀ f : FormA, ScalarReady s c f.pred f.pneg → usesA f false false false false false false true = true →
      (f.mod = 16 ∨ f.mod.toNat < 16 ∧ f.mod.toNat % 4 = 0) →
      (∀ e ∈ (s.core c).groups, e.2.used = true → f.mod ≠ 16 ∧ e.2.block ≠ f.mod.toNat / 4) →
      (s.core c).tgq = [] →
      ∃ t, exec (.tgJoin (.core c) f) s = .next t ∧ OnlyCore s t c ∧ Retires (s.core c) (t.core c) ((s.core c).pc + 8) ∧
        { t.core c with pc := (s.core c).pc, csr := (s.core c).csr, stall := (s.core c).stall, icache := (s.core c).icache } = s.core c)

/-- R175, R184: TG.EXIT ends the active threads whose predicate holds; the last thread of a block frees its slots and counts the
block as ended at its cluster barriers. No register, and nothing of other cores but their threads' waiting, changes. -/
def Claim.ThreadExit : Prop :=
  ∀ (s : State) (c g : Nat) (f : FormA), ThreadReady s c g → usesA f false false false false false false false = true →
    (s.grp c g).cbar = 0 ∨ s.storesDone c = true →
    ∃ t, exec (.tgExit (.group c g) f) s = .next t ∧
      (∀ l, (s.grp c g).takes f.pred f.pneg l = true → ((t.grp c g).th l).mode = .exited) ∧
      (∀ x, (s.grp c g).used = true → (s.core c).groups = [(g, x)] →
        (∀ l, (s.grp c g).live.contains l = true → (s.grp c g).takes f.pred f.pneg l = true) →
        (t.core c).groups = [] ∧ ∀ n, n < 4 → nget 0 (t.core c).exited n =
          nget 0 (s.core c).exited n + (if (s.grp c g).cbar.getLsbD n then 1 else 0)) ∧
      (∀ x, { t.core x with groups := (s.core x).groups, exited := (s.core x).exited, icache := (s.core x).icache } = s.core x) ∧ SameMemory s t ∧
      { t with cores := s.cores, ctr := s.ctr } = s

/-- R182, R183, R184, R193: TG.BAR leaves the threads that execute it waiting at their barrier, or runnable when that ended its round:
a group barrier at which every live thread stands lets them all go on, and one that misses a thread holds them. -/
def Claim.ThreadBarriers : Prop :=
  ∀ (s : State) (c g : Nat) (f : FormA) (kind id : Nat), ThreadReady s c g → usesA f false false false false true false true = true →
    kind = f.func.toNat → id = f.mod.toNat % 8 →
    (kind < 2 ∧ f.mod.toNat < 8 ∨ kind = 2 ∧ id < 4 ∧ f.mod.toNat % 32 = id ∧ f.mod.toNat < 2 ^ 11 ∧
      (s.grp c g).cbar.getLsbD id = true ∧ s.storesDone c = true) →
    ∃ t, exec (.tgBar (.group c g) f) s = .next t ∧
      (∀ l, (s.grp c g).takes f.pred f.pneg l = true →
        (((t.grp c g).th l).mode = .waiting kind id ∨ ((t.grp c g).th l).mode = .runnable) ∧
        ((t.grp c g).th l).pc = ((s.grp c g).th l).pc + 8 ∧ ((t.grp c g).th l).t = ((s.grp c g).th l).t ∧
        ((t.grp c g).th l).p = ((s.grp c g).th l).p) ∧
      (kind = 0 → (s.grp c g).used = true →
        (∀ l, (s.grp c g).live.contains l = true → (s.grp c g).takes f.pred f.pneg l = true) →
        ∀ l, (s.grp c g).takes f.pred f.pneg l = true → ((t.grp c g).th l).mode = .runnable) ∧
      (kind = 0 → ∀ w, (s.grp c g).live.contains w = true → (s.grp c g).takes f.pred f.pneg w = false →
        ((s.grp c g).th w).mode ≠ .waiting 0 id →
        ∀ l, (s.grp c g).takes f.pred f.pneg l = true → ((t.grp c g).th l).mode = .waiting 0 id) ∧
      (∀ x, { t.core x with groups := (s.core x).groups, icache := (s.core x).icache } = s.core x) ∧ SameMemory s t ∧
      { t with cores := s.cores, ctr := s.ctr } = s

/-- R187, R188: threads of a group that try one lock word of their core's scratchpad: where it is free, the lowest lane takes it with
its token and the others fail; where it is held, all fail and remember the word. Shown where no core holds outputs of an epoch. -/
def Claim.LockTry : Prop :=
  ∀ (s : State) (c g : Nat) (f : FormA) (a off first : Nat) (bs : List Byte) (word token : W32), ThreadReady s c g →
    usesA f true true false false false false false = true → f.dst.toNat < 8 → 0 < f.dst.toNat → f.src1.toNat % 2 = 0 →
    (∀ l, (s.grp c g).takes f.pred f.pneg l = true → (((s.grp c g).th l).pair f.src1.toNat).toNat = a) →
    (s.grp c g).takes f.pred f.pneg first = true →
    (∀ l, l < first → (s.grp c g).takes f.pred f.pneg l = false) → a / 2 ^ 60 = 1 → a % 4 = 0 →
    s.plainRead c a 4 true = some bs → s.plainWrite c a 4 true = some off → word = BitVec.ofNat 32 (leNat bs) →
    (∀ e ∈ s.cores, e.2.held = []) → s.placed (s.core c).vc = some c →
    token = BitVec.ofNat 32 (2 ^ 31 + (s.coreGen c).toNat % 512 * 2 ^ 22 + (s.core c).vc * 2 ^ 7 + g * 32 + first) →
    ∃ t, exec (.lockTry (.group c g) f) s = .next t ∧
      (∀ l, ((t.grp c g).th l).t = ((s.grp c g).th l).t ∧ ((t.grp c g).th l).mode = ((s.grp c g).th l).mode ∧
        ((t.grp c g).th l).pc = ((s.grp c g).th l).pc + (if (s.grp c g).active.contains l then 8 else 0) ∧
        (∀ n, ((t.grp c g).th l).preg n = if (s.grp c g).takes f.pred f.pneg l = true ∧ n = f.dst.toNat then
          decide (l = first ∧ s.lockFree c word = true) else ((s.grp c g).th l).preg n) ∧
        ((s.grp c g).takes f.pred f.pneg l = true → ((t.grp c g).th l).failedOn =
          if l = first ∧ s.lockFree c word = true then 0 else c * 2 ^ 32 + off + 1)) ∧
      WritesSpad s t c (if s.lockFree c word then laidOver (nget 0 (s.core c).spad) off (leBytes 4 token.toNat)
        else nget 0 (s.core c).spad)

/-- R187: a lock word with HELD clear is free; one that a core of the same logical cluster holds in its present generation is not. -/
def Claim.LockWordFree : Prop :=
  ∀ (s : State) (c o slot lane : Nat) (word : W32),
    (word.toNat < 2 ^ 31 → s.lockFree c word = true) ∧
    (slot < 4 → lane < 32 → s.placed (s.core o).vc = some o → (s.core o).vc / 16 = (s.core c).vc / 16 →
      word = s.token o slot lane → s.lockFree c word = false) ∧
    (slot < 4 → lane < 32 → s.placed (s.core o).vc = some o → (s.core o).vc / 16 = (s.core c).vc / 16 →
      ∀ gen, gen % 512 ≠ (s.coreGen o).toNat % 512 →
      word = BitVec.ofNat 32 (2 ^ 31 + gen % 512 * 2 ^ 22 + (s.core o).vc * 2 ^ 7 + slot * 32 + lane) → s.lockFree c word = true)

/-- R190, R189: LOCK.REL by the thread whose token a word holds clears the word, once the core's stores are visible, and wakes the
parked threads that failed on it; any other word stays. -/
def Claim.LockRelease : Prop :=
  ∀ (s : State) (c g : Nat) (f : FormA) (a off lane : Nat) (bs : List Byte) (holds : Bool), ThreadReady s c g →
    usesA f false true false false false false false = true → f.src1.toNat % 2 = 0 →
    (∀ l, (s.grp c g).takes f.pred f.pneg l = true ↔ l = lane) → (((s.grp c g).th lane).pair f.src1.toNat).toNat = a →
    a / 2 ^ 60 = 1 → a % 4 = 0 → s.storesDone c = true → s.plainRead c a 4 true = some bs → s.plainWrite c a 4 true = some off →
    (s.core c).held = [] → holds = decide (BitVec.ofNat 32 (leNat bs) = s.token c g lane) →
    ∃ t, exec (.lockRel (.group c g) f) s = .next t ∧
      WritesSpad s t c (if holds then laidOver (nget 0 (s.core c).spad) off [0, 0, 0, 0] else nget 0 (s.core c).spad) ∧
      ((t.grp c g).th lane).pc = ((s.grp c g).th lane).pc + 8 ∧
      (∀ i l, ((t.grp c i).th l).t = ((s.grp c i).th l).t ∧ ((t.grp c i).th l).p = ((s.grp c i).th l).p ∧
        ((t.grp c i).th l).mode = if holds = true ∧ ((s.grp c i).th l).mode = .parked ∧
          ((s.grp c i).th l).failedOn = c * 2 ^ 32 + off + 1 then .runnable else ((s.grp c i).th l).mode)

/-- R189, R194: YIELD parks its threads while another thread of the group can run, and lets them go on when none can; the end of the
parking time makes a parked thread runnable and counts it. -/
def Claim.YieldAndParking : Prop :=
  ∀ (s : State) (c g : Nat),
    (∀ f : FormA, ThreadReady s c g → usesA f false false false false false false false = true →
      ∃ t, exec (.yield (.group c g) f) s = .next t ∧
        (∀ l, (s.grp c g).takes f.pred f.pneg l = true → ((t.grp c g).th l).pc = ((s.grp c g).th l).pc + 8 ∧
          ((t.grp c g).th l).t = ((s.grp c g).th l).t ∧ ((t.grp c g).th l).p = ((s.grp c g).th l).p ∧
          ((∃ w, (s.grp c g).runnable.contains w = true ∧ (s.grp c g).takes f.pred f.pneg w = false) →
            ((t.grp c g).th l).mode = .parked)) ∧
        ((∀ l, (s.grp c g).live.contains l = true → (s.grp c g).takes f.pred f.pneg l = true) →
          ∀ l, (s.grp c g).takes f.pred f.pneg l = true → ((t.grp c g).th l).mode = .runnable) ∧
        (∀ x, { t.core x with groups := (s.core x).groups, icache := (s.core x).icache } = s.core x) ∧ SameMemory s t ∧
        { t with cores := s.cores, ctr := s.ctr } = s) ∧
    (∀ l, Unit.core c = true → g < 4 → l < 32 → ((s.grp c g).th l).mode = .parked →
      ∃ t, exec (.parkTimeout c g l) s = .next t ∧ (t.grp c g).th l = { (s.grp c g).th l with mode := .runnable } ∧
        (∀ m, m ≠ l → (t.grp c g).th m = (s.grp c g).th m) ∧ (∀ j, j ≠ g → t.grp c j = s.grp c j) ∧
        (∀ x, x ≠ c → t.core x = s.core x) ∧ { t.core c with groups := (s.core c).groups } = s.core c ∧
        { t with cores := s.cores, ctr := s.ctr } = s)

/-- R193: TG.VOTE over the threads that execute it: FUNC 0 writes the ballot of p[SRC1] to t[DST], FUNC 1 and 2 write to p[DST] whether
any or all of them hold it. -/
def Claim.ThreadVotes : Prop :=
  ∀ (s : State) (c g : Nat) (f : FormA) (yes : Nat → Bool), ThreadReady s c g → usesA f true true false false true false false = true →
    f.src1.toNat < 8 → (∀ l, yes l = ((s.grp c g).takes f.pred f.pneg l && ((s.grp c g).th l).preg f.src1.toNat)) →
    (f.func = 0 → ∃ t b, exec (.tgVote (.group c g) f) s = .next t ∧ (∀ l, l < 32 → b.getLsbD l = yes l) ∧
      ThreadEffect s t c g f.pred f.pneg [] fun x => { x.setReg f.dst.toNat b with pc := x.pc + 8 }) ∧
    (f.func = 1 → f.dst.toNat < 8 → ∃ t, exec (.tgVote (.group c g) f) s = .next t ∧
      ThreadEffect s t c g f.pred f.pneg [] fun x => { x.setP f.dst.toNat ((List.range 32).any yes) with pc := x.pc + 8 }) ∧
    (f.func = 2 → f.dst.toNat < 8 → ∃ t, exec (.tgVote (.group c g) f) s = .next t ∧
      ThreadEffect s t c g f.pred f.pneg [] fun x =>
        { x.setP f.dst.toNat ((List.range 32).all fun l => !(s.grp c g).takes f.pred f.pneg l || yes l) with pc := x.pc + 8 })

/-- R242, R253: SS.START with room in the stream queue retires and, with nothing queued before it, becomes its slot's running start, else
its pending start, else waits in the queue. -/
def Claim.StreamStart : Prop :=
  ∀ (s : State) (c i : Nat) (f : FormA), ScalarReady s c f.pred f.pneg → usesA f false true true true true false true = true →
    f.src1.toNat < 32 → f.src2.toNat < 32 → f.src3.toNat < 32 → i = f.func.toNat → i < 4 → (s.core c).sq = [] →
    ∃ t st, exec (.ssStart (.core c) f) s = .next t ∧ OnlyCore s t c ∧ Retires (s.core c) (t.core c) ((s.core c).pc + 8) ∧
      st.prog = f.mod.toNat ∧ st.a0 = (s.core c).sreg f.src1.toNat ∧ st.a1 = (s.core c).sreg f.src2.toNat ∧
      st.a2 = (s.core c).sreg f.src3.toNat ∧ st.epoch = (s.core c).epoch ∧ st.pc = (s.core c).pc ∧ st.op = .start ∧
      (((s.core c).slot i).running = none →
        (t.core c).slot i = { (s.core c).slot i with running := some st, begun := false } ∧ (t.core c).sq = []) ∧
      (((s.core c).slot i).running ≠ none → ((s.core c).slot i).pending = none →
        (t.core c).slot i = { (s.core c).slot i with pending := some st } ∧ (t.core c).sq = []) ∧
      (((s.core c).slot i).running ≠ none → ((s.core c).slot i).pending ≠ none →
        (t.core c).slot i = (s.core c).slot i ∧ (t.core c).sq = [(i, st)]) ∧
      (∀ j, j ≠ i → (t.core c).slot j = (s.core c).slot j) ∧
      { t.core c with
        slots := (s.core c).slots, sq := (s.core c).sq, seq := (s.core c).seq, pc := (s.core c).pc
        csr := (s.core c).csr, stall := (s.core c).stall, icache := (s.core c).icache } = s.core c

/-- R73, R253, R256, R257: behind an empty queue, SS.WAIT retires once the slots it names have no start; SS.POLL tells whether they have;
SS.CANCEL advances their generations, which drops their starts, ports and gather buffers, and leaves the queue once their writes have
taken effect. Behind a start that still waits, SS.POLL and SS.CANCEL retire too and wait in the queue. -/
def Claim.StreamWaitPollCancel : Prop :=
  ∀ (s : State) (c : Nat) (f : FormA) (names : Nat → Bool), ScalarReady s c f.pred f.pneg → f.func.toNat < 4 →
    (f.mod = 0 ∨ f.mod = 1 ∧ f.func = 0) → (∀ i, names i = decide (i < 4 ∧ (f.mod = 1 ∨ i = f.func.toNat))) →
    ((s.core c).sq = [] → usesA f false false false false true false true = true →
      (∀ i, names i = true → ((s.core c).slot i).running = none ∧ ((s.core c).slot i).pending = none) →
      ∃ t, exec (.ssWait (.core c) f) s = .next t ∧ OnlyCore s t c ∧ Retires (s.core c) (t.core c) ((s.core c).pc + 8) ∧
        { t.core c with pc := (s.core c).pc, csr := (s.core c).csr, stall := (s.core c).stall, icache := (s.core c).icache } = s.core c) ∧
    ((s.core c).sq = [] → usesA f true false false false true false true = true → f.dst.toNat < 8 →
      ∃ t v, exec (.ssPoll (.core c) f) s = .next t ∧ OnlyCore s t c ∧ WritesP (s.core c) (t.core c) f.dst.toNat v ∧
        (v = true ↔ ∀ i, names i = true → ((s.core c).slot i).running = none ∧ ((s.core c).slot i).pending = none) ∧
        Retires (s.core c) (t.core c) ((s.core c).pc + 8)) ∧
    ((s.core c).sq = [] → usesA f false false false false true false true = true →
      (∀ w ∈ (s.core c).stores, ∀ i, names i = true → w.src ≠ i + 1) →
      ∃ t, exec (.ssCancel (.core c) f) s = .next t ∧ Retires (s.core c) (t.core c) ((s.core c).pc + 8) ∧
        (∀ i, (t.core c).slot i = if names i then { (s.core c).slot i with
            gen := ((s.core c).slot i).gen + 1, running := none, pending := none, begun := false, ended := false, moved := 0
            rowsLeft := 0, loops := [], gather := [], port := [] } else (s.core c).slot i) ∧
        { t.core c with
          slots := (s.core c).slots, sq := (s.core c).sq, seq := (s.core c).seq, pc := (s.core c).pc
          csr := (s.core c).csr, stall := (s.core c).stall, icache := (s.core c).icache } = s.core c ∧ (t.core c).sq = [] ∧
        (∀ x, x ≠ c → t.core x = s.core x) ∧ SameMemory s t ∧ { t with cores := s.cores, ctr := s.ctr } = s) ∧
    (∀ (j : Nat) (st : Start) (rest : List (Nat × Start)), (s.core c).sq = (j, st) :: rest → rest.length < 3 → st.op = .start →
      ((s.core c).slot j).running ≠ none → ((s.core c).slot j).pending ≠ none →
      (usesA f true false false false true false true = true → f.dst.toNat < 8 → f.dst.toNat ∉ (s.core c).pPending →
        ∃ t p, exec (.ssPoll (.core c) f) s = .next t ∧ OnlyCore s t c ∧ Retires (s.core c) (t.core c) ((s.core c).pc + 8) ∧
          (t.core c).sq = (s.core c).sq ++ [p] ∧ (∃ l, p.2.op = .poll l f.dst.toNat ∧ ∀ i, i ∈ l ↔ names i = true) ∧
          (t.core c).slots = (s.core c).slots ∧ (t.core c).p = (s.core c).p) ∧
      (usesA f false false false false true false true = true →
        ∃ t p, exec (.ssCancel (.core c) f) s = .next t ∧ OnlyCore s t c ∧ Retires (s.core c) (t.core c) ((s.core c).pc + 8) ∧
          (t.core c).sq = (s.core c).sq ++ [p] ∧ (∃ l, p.2.op = .cancel l false ∧ ∀ i, i ∈ l ↔ names i = true) ∧
          (t.core c).slots = (s.core c).slots))

/-- R242, R244, R253: a start begins with a0 to a2 set, the other address registers 0, no loop open and the gather buffer empty; when
END has run and its writes have landed, the pending start takes its place. -/
def Claim.StreamStartBeginEnd : Prop :=
  ∀ (s : State) (c i : Nat) (st : Start) (x : Slot), Unit.core c = true → Unit.slot i = true → x = (s.core c).slot i →
    x.running = some st → (s.core c).sq = [] →
    (∀ p, x.begun = false → s.epState st.epoch ≠ .aborting → s.streamProg st.prog = some p → s.startWaits c st = false →
      ∃ t y, exec (.streamStartBegin c i) s = .next t ∧ SlotEffect s t c i y ∧ y.areg 0 = st.a0 ∧ y.areg 1 = st.a1 ∧
        y.areg 2 = st.a2 ∧ (∀ n, 2 < n → y.areg n = 0) ∧ y.loops = [] ∧ y.ppc = 0 ∧ y.gather = [] ∧ y.begun = true ∧
        y.ended = false ∧ y.port = x.port ∧ y.gen = x.gen ∧ y.running = some st ∧ y.pending = x.pending) ∧
    (x.begun = true → x.ended = true → (∀ w ∈ (s.core c).stores, w.src ≠ i + 1) →
      ∃ t y, exec (.streamStartEnd c i) s = .next t ∧ SlotEffect s t c i y ∧ y.running = x.pending ∧ y.pending = none ∧
        y.begun = false ∧ y.port = x.port ∧ y.gen = x.gen ∧ y.gather = [])

/-- R245, R246: LOOP opens a level with its count, or skips to after its ENDL on a count of 0; ENDL adds its strides and goes back to
the head of the innermost level, or leaves it; ADDA adds to an address register; END ends the program. -/
def Claim.StreamLoopsAndAddresses : Prop :=
  ∀ (s : State) (c i : Nat) (st : Start) (p : StreamProg) (w : W64) (x : Slot), StreamReady s c i st p w → x = (s.core c).slot i →
    (∀ n, fld w 59 5 = 1 → n = (if fld w 58 1 = 1 then (x.areg (fld w 55 3)).toNat % 2 ^ 32 else fld w 0 32) →
      (0 < n → ∃ t, exec (.streamLoop c i) s = .next t ∧ SlotEffect s t c i
        { x with loops := { head := x.ppc + 1, count := n, left := n } :: x.loops, ppc := x.ppc + 1 }) ∧
      (∀ e, n = 0 → x.ppc < e → (∃ v, p.code[e]? = some v ∧ fld v 59 5 = 2) →
        (∀ j v, x.ppc < j → j < e → p.code[j]? = some v → fld v 59 5 ≠ 1 ∧ fld v 59 5 ≠ 2) →
        ∃ t, exec (.streamLoop c i) s = .next t ∧ SlotEffect s t c i { x with ppc := e + 1 })) ∧
    (∀ (l : LoopLevel) (rest : List LoopLevel) (d1 d2 : W64) (r1 r2 : Nat), fld w 59 5 = 2 → x.loops = l :: rest →
      r1 = fld w 55 3 → r2 = fld w 52 3 → r1 ≠ r2 →
      d1 = (if fld w 51 1 = 1 then x.areg (fld w 26 3) else BitVec.ofInt 64 (sextN 24 (fld w 26 24))) →
      d2 = (if fld w 50 1 = 1 then x.areg (fld w 2 3) else BitVec.ofInt 64 (sextN 24 (fld w 2 24))) →
      (1 < l.left → ∃ t y, exec (.streamEndl c i) s = .next t ∧ SlotEffect s t c i y ∧ y.ppc = l.head ∧
        y.loops = { l with left := l.left - 1 } :: rest ∧ y.areg r1 = x.areg r1 + d1 ∧ y.areg r2 = x.areg r2 + d2 ∧
        (∀ n, n ≠ r1 → n ≠ r2 → y.areg n = x.areg n)) ∧
      (l.left ≤ 1 → ∃ t y, exec (.streamEndl c i) s = .next t ∧ SlotEffect s t c i y ∧ y.ppc = x.ppc + 1 ∧ y.loops = rest ∧
        (fld w 58 1 = 0 → y.areg r1 = x.areg r1 + d1 ∧ y.areg r2 = x.areg r2 + d2) ∧
        (fld w 58 1 = 1 → y.areg r1 = x.areg r1 + d1 - BitVec.ofNat 64 l.count * d1 ∧
          y.areg r2 = x.areg r2 + d2 - BitVec.ofNat 64 l.count * d2) ∧
        (∀ n, n ≠ r1 → n ≠ r2 → y.areg n = x.areg n))) ∧
    (fld w 59 5 = 3 → ∃ t y, exec (.streamAdda c i) s = .next t ∧ SlotEffect s t c i y ∧ y.ppc = x.ppc + 1 ∧ y.loops = x.loops ∧
      y.areg (fld w 56 3) = x.areg (fld w 53 3) +
        (if fld w 52 1 = 1 then x.areg (fld w 49 3) else BitVec.ofInt 64 (sextN 32 (fld w 0 32))) ∧
      (∀ n, n ≠ fld w 56 3 → y.areg n = x.areg n)) ∧
    (fld w 59 5 = 0 → ∃ t, exec (.streamEnd c i) s = .next t ∧ SlotEffect s t c i { x with ended := true })

/-- R178, R247, R248, R251: a plain MOVE moves a piece of its bytes at a time: from the core's scratchpad into its slot's port, tagged
with its format and table set, while the port has room, or into the scratchpad; with the sill alone as its target it moves no data and
goes on. How a piece is cut is the model's choice (log entry 42): at 64 aligned bytes of the port's source or of the target, and
not at all where words of source and target lie askew. -/
def Claim.StreamMove : Prop :=
  ∀ (s : State) (c i : Nat) (st : Start) (p : StreamProg) (w : W64) (x : Slot) (addr rest n off : Nat) (m : MoveF),
    StreamReady s c i st p w → x = (s.core c).slot i → fld w 59 5 = 4 → m = moveOf w → m.mode = 0 →
    addr = (x.areg m.src + BitVec.ofNat 64 x.moved).toNat → rest = m.len - x.moved → 0 < rest →
    (m.tgt < 2 → (x.areg m.src).toNat / 2 ^ 60 = 1) →
    (m.tgt = 0 → ∀ set, moveTables (s.core c) m = some set → n = min (min rest (64 - addr % 64)) (4096 - x.port.length) → 0 < n →
      s.streamLoc c st addr n false [0, 1, 2] = some (.spad c off) → addr / 2 ^ 60 = 1 → s.localBad 1 c off n = false →
      ∃ t y, exec (.streamMove c i) s = .next t ∧ SlotEffect s t c i y ∧
        y.port = x.port ++ (s.localRead c 1 c off n).map (fun b => { byte := b, fmt := m.fmt, tableSet := set }) ∧
        (n < rest → y.moved = x.moved + n ∧ y.ppc = x.ppc ∧ y.a = x.a) ∧
        (n = rest → y.moved = 0 ∧ y.ppc = x.ppc + 1 ∧
          y.areg m.src = x.areg m.src + (if m.adv then BitVec.ofNat 64 m.len else 0))) ∧
    (m.tgt = 1 → ∀ dst doff, dst = (x.areg m.dst + BitVec.ofNat 64 x.moved).toNat → n = (if addr % 4 = dst % 4 then min rest (64 - dst % 64) else rest) →
      s.streamLoc c st addr n false [0, 1, 2] = some (.spad c off) → addr / 2 ^ 60 = 1 → s.localBad 1 c off n = false →
      s.streamLoc c st dst n true [0, 1, 2] = some (.spad c doff) → dst / 2 ^ 60 = 1 → (s.core c).epoch = 0 →
      ((x.areg m.src).toNat + m.len ≤ (x.areg m.dst).toNat ∨ (x.areg m.dst).toNat + m.len ≤ (x.areg m.src).toNat) →
      ∃ t, exec (.streamMove c i) s = .next t ∧ (∀ a, nget 0 (t.core c).spad a =
          laidOver (nget 0 (s.core c).spad) doff (s.localRead c 1 c off n) a) ∧
        (n < rest → ((t.core c).slot i).moved = x.moved + n ∧ ((t.core c).slot i).ppc = x.ppc) ∧
        (n = rest → ((t.core c).slot i).moved = 0 ∧ ((t.core c).slot i).ppc = x.ppc + 1) ∧
        (∀ y, y ≠ c → t.core y = s.core y) ∧ SameMemory s t ∧ { t with cores := s.cores, ctr := s.ctr } = s) ∧
    (m.tgt = 2 → ∀ loc, n = min rest (128 - addr % 128) → s.streamLoc c st addr n false [0] = some loc →
      ∃ t, exec (.streamMove c i) s = .next t ∧
        (n < rest → ((t.core c).slot i).moved = x.moved + n ∧ ((t.core c).slot i).ppc = x.ppc) ∧
        (n = rest → ((t.core c).slot i).moved = 0 ∧ ((t.core c).slot i).ppc = x.ppc + 1) ∧
        { t.core c with slots := (s.core c).slots } = s.core c ∧ (∀ y, y ≠ c → t.core y = s.core y) ∧ SameMemory s t ∧
        { t with cores := s.cores, bays := s.bays, ctr := s.ctr, free := s.free, mc := s.mc } = s)

/-- R203, R249: a row MOVE whose source and target pass leaves its rows outstanding; a row transfer of MODE 1 to the scratchpad whose
lines are present, or cannot be, brings the next 1,024 bytes of device memory to their place and, with the last one, ends the MOVE. -/
def Claim.StreamRows : Prop :=
  ∀ (s : State) (c i : Nat) (st : Start) (p : StreamProg) (w : W64) (x : Slot) (m : MoveF) (addr dst : Nat),
    StreamReady s c i st p w → x = (s.core c).slot i → fld w 59 5 = 4 → m = moveOf w → m.mode = 1 → m.tgt = 1 →
    addr = (x.areg m.src).toNat → dst = (x.areg m.dst).toNat → addr % 1024 = 0 → addr % 2 ^ 44 < hbmEnd →
    (s.streamLoc c st addr m.len false [0]).isSome = true → (s.streamLoc c st dst m.len true [1]).isSome = true →
    (x.rowsLeft = 0 → ∃ t, exec (.streamMove c i) s = .next t ∧ (t.core c).slot i = { x with rowsLeft := m.len / 1024 } ∧
      (∀ j, j ≠ i → (t.core c).slot j = (s.core c).slot j) ∧ { t.core c with slots := (s.core c).slots } = s.core c ∧
      (∀ y, y ≠ c → t.core y = s.core y) ∧ SameMemory s t ∧
      { t with cores := s.cores, bays := s.bays, ctr := s.ctr, free := s.free, mc := s.mc } = s) ∧
    (∀ row off, x.rowsLeft ≠ 0 → row = m.len / 1024 - x.rowsLeft → off = addr % 2 ^ 44 + 1024 * row → off < 2 ^ 44 →
      addr / 2 ^ 44 % 2 ^ 12 = s.moduleId → addr / 2 ^ 56 = 0 → s.doorAt off = false → s.asleep (partOfOff off) = false →
      s.devMay (s.core c) off 1024 false = true → (s.core c).epoch = 0 → (∀ w ∈ (s.core c).stores, w.src ≠ i + 1) → s.noLatent →
      (∀ j, j < 8 → s.rowAbsent c m.cls (off + 128 * j) = false) →
      ∃ t, exec (.rowTransfer c i) s = .next t ∧ SameMemory s t ∧
        (∀ a, nget 0 (t.core c).spad a = laidOver (nget 0 (s.core c).spad) ((dst + 1024 * row) % 2 ^ 32) (s.memRead off 1024) a) ∧
        (1 < x.rowsLeft → ((t.core c).slot i).rowsLeft = x.rowsLeft - 1 ∧ ((t.core c).slot i).ppc = x.ppc) ∧
        (x.rowsLeft = 1 → ((t.core c).slot i).rowsLeft = 0 ∧ ((t.core c).slot i).ppc = x.ppc + 1) ∧
        (t.core c).s = (s.core c).s ∧ (t.core c).p = (s.core c).p ∧ (t.core c).v = (s.core c).v ∧
        (∀ y, y ≠ c → t.core y = s.core y))

/-- R206, R250: XMOVE of a tile of 16-bit elements inside the scratchpad writes the 32 rows of its transpose and goes on. -/
def Claim.StreamTransposedMove : Prop :=
  ∀ (s : State) (c i : Nat) (st : Start) (p : StreamProg) (w : W64) (x : Slot) (base stride out off : Nat) (src : Nat → Nat),
    StreamReady s c i st p w → x = (s.core c).slot i → fld w 59 5 = 5 → (fld w 44 5 = 2 ∨ fld w 44 5 = 3 ∨ fld w 44 5 = 7) →
    base = (x.areg (fld w 56 3)).toNat → stride = (x.areg (fld w 50 3)).toNat → out = (x.areg (fld w 53 3)).toNat →
    base % 2 = 0 → stride % 2 = 0 → out % 2 = 0 → (s.core c).epoch = 0 → (s.core c).journal = [] →
    (∀ r, r < 32 → s.streamLoc c st ((base + r * stride) % 2 ^ 64) 64 false [0, 1, 2] = some (.spad c (src r)) ∧
      (base + r * stride) % 2 ^ 64 = 2 ^ 60 + src r ∧ src r + 64 ≤ (s.core c).spadSize ∧ src r + 64 ≤ 2 ^ 32 ∧ s.localBad 1 c (src r) 64 = false) →
    s.streamLoc c st out 2048 true [1, 2] = some (.spad c off) → out / 2 ^ 60 = 1 →
    ∃ t, exec (.streamXmove c i) s = .next t ∧ ((t.core c).slot i).ppc = x.ppc + 1 ∧
      (∀ r k b, r < 32 → k < 32 → b < 2 → nget 0 (t.core c).spad (off + 64 * r + 2 * k + b) =
        (s.localRead c 1 c (src k) 64).getD (2 * r + b) 0) ∧
      (∀ a, (a < off ∨ off + 2048 ≤ a) → nget 0 (t.core c).spad a = nget 0 (s.core c).spad a) ∧
      (∀ y, y ≠ c → t.core y = s.core y) ∧ SameMemory s t ∧ { t with cores := s.cores, ctr := s.ctr } = s

/-- R230 to R234, R237, R239: hints whose range is good retire. CH.PF changes no memory and no core, and for a line to be filled opens a
miss entry of its bay. CH.PIN, which waits for sleeping partitions and for fills under way, pins the lines it takes as the core's own
and writes to p[DST] whether it took every line but those it passes over. CH.UNPIN drops the core's own pins on the range. CH.DEAD
under an open epoch is held, and else changes no memory outside its lines. Addresses of a moved region are followed (R525). -/
def Claim.CacheHints : Prop :=
  ∀ (s : State) (c : Nat) (f : FormA) (addr len a : Nat) (home : Bool), ScalarReady s c f.pred f.pneg → f.src1.toNat < 32 →
    f.src2.toNat < 32 → usesA f true true true false false false true = true → f.mod.toNat / 2 % 128 = 0 → f.mod.toNat < 2 ^ 11 →
    addr = ((s.core c).sreg f.src1.toNat).toNat → len = ((s.core c).sreg f.src2.toNat).toNat → home = decide (f.mod.toNat % 2 = 1) →
    a = (if addr / 2 ^ 44 = s.moduleId then s.moduleId * 2 ^ 44 + s.fwd (s.core c) (addr % 2 ^ 44) len else addr) →
    (f.dst = 0 → 2 ^ 56 ≤ addr → exec (.chPf (.core c) f) s = .next (s.trap c 0x04 addr)) ∧
    (f.dst = 0 → addr < 2 ^ 56 → (len = 0 ∨ 2 ^ 22 < len) → exec (.chPf (.core c) f) s = .next (s.trap c 0x0B addr)) ∧
    (addr < 2 ^ 56 → 0 < len → len ≤ 2 ^ 22 →
      (f.dst = 0 → ∃ t, exec (.chPf (.core c) f) s = .next t ∧ SameMemory s t ∧ Retires (s.core c) (t.core c) ((s.core c).pc + 8) ∧
        { t.core c with pc := (s.core c).pc, csr := (s.core c).csr, stall := (s.core c).stall, icache := (s.core c).icache } = s.core c ∧
        (∀ x, x ≠ c → t.core x = s.core x) ∧ { t with cores := s.cores, bays := s.bays, ctr := s.ctr, mc := s.mc } = s ∧
        (∀ ln bay, s.hintLines a len = [ln] → s.hintBay (clusterOf c) ln home = some bay → (isRemoteLine ln || s.backed ln) = true →
          s.wantsFill c bay ln = true → (s.bay bay).miss.length < 64 →
          ∃ m ∈ (t.bay bay).miss, m.line = ln ∧ m.cls = f.mod.toNat / 2 ^ 8 ∧ m.prefetch = true)) ∧
      (f.dst.toNat < 8 → f.dst.toNat ∉ (s.core c).pPending → s.hintSleeper (s.hintLines a len) = none →
        (∀ ln ∈ s.hintLines a len, s.pinWaits c ln home = false) →
        ∃ t ok pins, exec (.chPin (.core c) f) s = .next t ∧ (s.noLatent → SameMemory s t) ∧ WritesP (s.core c) (t.core c) f.dst.toNat ok ∧
          (t.core c).chPins = (s.core c).chPins ++ pins ∧
          (∀ x ∈ pins, x.line ∈ s.hintLines a len ∧ x.bay = s.pinBay c x.line home ∧ s.pinPasses c x.line = false) ∧
          (ok = true ↔ ∀ ln ∈ s.hintLines a len, s.pinPasses c ln = false → ∃ x ∈ pins, x.line = ln) ∧
          (t.core c).pc = (s.core c).pc + 8 ∧ (t.core c).s = (s.core c).s ∧ (∀ x, x ≠ c → t.core x = s.core x)) ∧
      (f.dst = 0 → ∃ t, exec (.chUnpin (.core c) f) s = .next t ∧ OnlyCore s t c ∧
        (∀ x, x ∈ (t.core c).chPins ↔ x ∈ (s.core c).chPins ∧ x.line ∉ s.hintLines a len) ∧
        Retires (s.core c) (t.core c) ((s.core c).pc + 8) ∧
        { t.core c with
          chPins := (s.core c).chPins, pc := (s.core c).pc, csr := (s.core c).csr, stall := (s.core c).stall
          icache := (s.core c).icache } = s.core c) ∧
      (f.dst = 0 → (s.core c).storeIn (a / 128 * 128) (len + 256) = false →
        (s.epState (s.core c).epoch = .open_ → (s.core c).epoch ≠ 0 →
          ∃ t, exec (.chDead (.core c) f) s = .next t ∧ OnlyCore s t c ∧ Retires (s.core c) (t.core c) ((s.core c).pc + 8) ∧
            (t.core c).deads = (s.core c).deads ++ [(a, len, (s.core c).fnOf)] ∧
            { t.core c with
              deads := (s.core c).deads, pc := (s.core c).pc, csr := (s.core c).csr, stall := (s.core c).stall
              icache := (s.core c).icache } = s.core c) ∧
        ((s.core c).epoch = 0 → s.hintSleeper (s.hintLines a len) = none →
          ∃ t, exec (.chDead (.core c) f) s = .next t ∧ (t.core c).pc = (s.core c).pc + 8 ∧ (t.core c).s = (s.core c).s ∧
            (∀ x, x ≠ c → t.core x = s.core x) ∧ (a / 2 ^ 44 ≠ s.moduleId → SameMemory s t) ∧
            (s.noLatent → (∀ n l, l ∈ (s.bay n).lines → ∀ e ∈ l.stale, l.line ≤ e.1 ∧ e.1 < l.line + 128) →
              ∀ x, (x < lineOf (a % 2 ^ 44) ∨ lineOf (a % 2 ^ 44 + len - 1) + 128 ≤ x) → nget 0 t.mem x = nget 0 s.mem x))))

/-- R262 to R266: SPEC.OPEN whose descriptor is good, on a core without an epoch and with its speculation groups IDLE, opens the next
epoch of its group; the core joins it with its handler, and SPEC_EPOCH reads OPEN. With its group OPEN over the same range it joins
that epoch. -/
def Claim.EpochOpen : Prop :=
  ∀ (s : State) (c : Nat) (f : FormA) (desc handler first cm1 g : Nat), ScalarReady s c f.pred f.pneg →
    usesA f false true true false false false false = true → f.src1.toNat < 32 → f.src2.toNat < 32 →
    desc = ((s.core c).sreg f.src1.toNat).toNat → handler = ((s.core c).sreg f.src2.toNat).toNat → desc < 2 ^ 18 →
    first = desc % 256 → cm1 = desc / 256 % 256 → g = 4 * ((s.core c).vc / 2560) + desc / 2 ^ 16 → first + cm1 + 1 ≤ 160 →
    first ≤ (s.core c).vc / 16 % 160 → (s.core c).vc / 16 % 160 ≤ first + cm1 → (s.core c).epoch = 0 →
    (∀ r, s.run ((s.core c).run - 1) = some r → r.thin = false ∧ r.spec = false) → handler % 8 = 0 → handler < (s.core c).progLen →
    (∀ i, i < 4 → 4 * ((s.core c).vc / 2560) + i ≠ g → (s.group (4 * ((s.core c).vc / 2560) + i)).st = .idle) →
    ((s.group g).st = .idle →
      ∃ t, exec (.specOpen (.core c) f) s = .next t ∧ (t.core c).epoch = g * 2 ^ 16 + ((s.group g).epoch + 1).toNat + 1 ∧
        (t.core c).handler = handler ∧ (t.group g).st = .open_ ∧ (t.group g).epoch = (s.group g).epoch + 1 ∧
        (t.group g).first = first ∧ (t.group g).countM1 = cm1 ∧ (t.group g).run = 0 ∧ (∀ x, x ≠ g → t.group x = s.group x) ∧
        fld (t.specEpoch (t.core c)) 0 3 = 1 ∧ fld (t.specEpoch (t.core c)) 48 16 = ((s.group g).epoch + 1).toNat ∧
        Retires (s.core c) (t.core c) ((s.core c).pc + 8) ∧ (∀ x, x ≠ c → t.core x = s.core x) ∧ SameMemory s t) ∧
    ((s.group g).st = .open_ → (s.group g).first = first → (s.group g).countM1 = cm1 →
      ∃ t, exec (.specOpen (.core c) f) s = .next t ∧ OnlyCore s t c ∧ (t.core c).handler = handler ∧
        (t.core c).epoch = g * 2 ^ 16 + (s.group g).epoch.toNat + 1 ∧ Retires (s.core c) (t.core c) ((s.core c).pc + 8))

/-- R263, R264, R265: SPEC.CONFIRM and SPEC.ABORT of the current OPEN epoch of their group begin its confirmation or abort, and of any
other do nothing but count; SPEC.POLL tells whether the core's epoch is being confirmed or is; SPEC.CLOSE of a core without an epoch
retires, and of one whose epoch is CONFIRMED, with its writes landed, leaves it. -/
def Claim.EpochResolution : Prop :=
  ∀ (s : State) (c : Nat) (f : FormA), ScalarReady s c f.pred f.pneg →
    (∀ r, s.run ((s.core c).run - 1) = some r → r.spec = false) →
    (∀ (w g : Nat) (i : Instr) (st : EpochState), usesA f false true false false false false false = true → f.src1.toNat < 32 →
      w = ((s.core c).sreg f.src1.toNat).toNat → w < 2 ^ 18 → g = 4 * ((s.core c).vc / 2560) + w / 2 ^ 16 →
      (i = .specConfirm (.core c) f ∧ st = .confirming ∨ i = .specAbort (.core c) f ∧ st = .aborting) →
      ((s.group g).epoch.toNat = w % 2 ^ 16 → (s.group g).st = .open_ →
        ∃ t, exec i s = .next t ∧ (st = .confirming ∨ (s.group g).run = 0 →
          (t.group g).st = st ∧ (st = .aborting → (t.group g).cause = 1) ∧
          (t.group g).epoch = (s.group g).epoch ∧ (∀ x, x ≠ g → t.group x = s.group x) ∧ SameMemory s t ∧
          Retires (s.core c) (t.core c) ((s.core c).pc + 8) ∧ (∀ x, x ≠ c → t.core x = s.core x))) ∧
      ((s.group g).epoch.toNat ≠ w % 2 ^ 16 ∨ (s.group g).st ≠ .open_ →
        ∃ t, exec i s = .next t ∧ { t with cores := s.cores, ctr := s.ctr } = s ∧
          Retires (s.core c) (t.core c) ((s.core c).pc + 8) ∧ (∀ x, x ≠ c → t.core x = s.core x))) ∧
    (usesA f true false false false false false false = true → f.dst.toNat < 8 → f.dst.toNat ∉ (s.core c).pPending →
      ∃ t, exec (.specPoll (.core c) f) s = .next t ∧ OnlyCore s t c ∧ WritesP (s.core c) (t.core c) f.dst.toNat
          (decide (s.epState (s.core c).epoch = .confirming ∨ s.epState (s.core c).epoch = .confirmed)) ∧
        Retires (s.core c) (t.core c) ((s.core c).pc + 8)) ∧
    (usesA f false false false false false false false = true → (s.core c).epoch = 0 →
      ∃ t, exec (.specClose (.core c) f) s = .next t ∧ OnlyCore s t c ∧ Retires (s.core c) (t.core c) ((s.core c).pc + 8)) ∧
    (usesA f false false false false false false false = true → s.epState (s.core c).epoch = .confirmed →
      (∀ w ∈ (s.core c).stores, w.epoch ≠ (s.core c).epoch) →
      ∃ t, exec (.specClose (.core c) f) s = .next t ∧ (t.core c).epoch = 0 ∧ (t.core c).pc = (s.core c).pc + 8 ∧
        fld (t.specEpoch (t.core c)) 0 3 = (if (s.core c).joining then 6 else 3) ∧ SameMemory s t ∧
        (∀ x, x ≠ c → t.core x = s.core x))

/-- R227, R274, R267: the confirmation of an epoch, once no miss entry is open for one of its lines, makes every provisional byte of the
epoch device memory and takes the lines away; where no copy of a line is to be invalidated first, it drops the journals of the
joined cores and leaves the group CONFIRMED, or IDLE when no core is joined. Shown where the lines are this module's, nothing waits
for the confirmation, and no joined core held a CH.DEAD hint or a write to another core. -/
def Claim.EpochConfirmed : Prop :=
  ∀ (s : State) (lpart i g key : Nat) (lines : List ProvLine), lpart < 8 → i < 4 → g = 4 * lpart + i → (s.group g).st = .confirming →
    (s.group g).run = 0 → key = g * 2 ^ 16 + (s.group g).epoch.toNat + 1 → (s.cores.map (·.1)).Pairwise (· < ·) →
    lines = (s.bays.flatMap fun e => e.2.prov.filter fun l => l.epoch == key) → (∀ l ∈ lines, l.line < 2 ^ 56) →
    ((∃ l ∈ lines, s.fillPending l.line 128 = true) → s.dues = [] → exec (.specConfirmed lpart i) s = .next s) ∧
    ((∀ l ∈ lines, s.fillPending l.line 128 = false) → s.dues = [] → (∀ r ∈ s.runs, r.due = 0) →
      (∀ c, (s.core c).epoch = key → (s.core c).held = [] ∧ (s.core c).deads = []) →
      ∃ t, exec (.specConfirmed lpart i) s = .next t ∧
        (s.noLatent → ∀ a, nget 0 t.mem a = (lines.foldl (fun m l =>
          l.bytes.foldl (fun m b => match b.2 with
            | some v => laidOver m b.1 [v]
            | none => m) m) (nget 0 s.mem)) a) ∧
        (∀ n, ∀ l ∈ (t.bay n).prov, l.epoch ≠ key) ∧
        (∀ c, (s.core c).epoch = key → (t.core c).epoch = key ∧ (t.core c).s = (s.core c).s ∧ (t.core c).spad = (s.core c).spad) ∧
        (∀ x, x ≠ g → t.group x = s.group x) ∧
        (s.vis = [] → (∀ e ∈ s.bays, ∀ l ∈ e.2.lines, l.otherTower = false ∧ l.modules = []) →
          (∀ c, (s.core c).epoch = key → (t.core c).journal = [] ∧ (t.core c).retained = []) ∧
          (t.group g).st = (if s.cores.any (fun e => e.2.epoch == key) then .confirmed else .idle)))

/-- R275, R267: the end of an abort restores the scratchpads of the joined cores from their journals, drops the epoch's provisional
lines, messages and held outputs, takes the running cores to their handlers with SPEC_EPOCH at ABORTED and the cause, and frees the
group; device memory does not change. -/
def Claim.EpochAborted : Prop :=
  ∀ (s : State) (lpart i g key : Nat), lpart < 8 → i < 4 → g = 4 * lpart + i → (s.group g).st = .aborting → (s.group g).run = 0 →
    key = g * 2 ^ 16 + (s.group g).epoch.toNat + 1 → (s.cores.map (·.1)).Pairwise (· < ·) →
    ∃ t, exec (.specAborted lpart i) s = .next t ∧ SameMemory s t ∧ (∀ n, ∀ l ∈ (t.bay n).prov, l.epoch ≠ key) ∧
      (∀ m, m ∈ t.net ↔ m ∈ s.net ∧ m.prov ≠ key) ∧ (t.group g).st = .idle ∧ (∀ x, x ≠ g → t.group x = s.group x) ∧
      (∀ c, (s.core c).epoch = key →
        (t.core c).epoch = 0 ∧ (t.core c).journal = [] ∧ (t.core c).held = [] ∧ (t.core c).l1 = [] ∧
        (t.core c).pc = (if (s.core c).running then (s.core c).handler else (s.core c).pc) ∧ (t.core c).s = (s.core c).s ∧
        fld ((t.core c).csrReg 0x030) 0 3 = 5 ∧
        ((s.group g).cause < 256 → (s.group g).first < 256 → (s.group g).countM1 < 256 →
          fld ((t.core c).csrReg 0x030) 40 8 = (s.group g).cause) ∧
        ((∀ j ∈ (s.core c).journal, j.space = 1) → ∀ a, nget 0 (t.core c).spad a =
          ((s.core c).journal.foldl (fun m j => laidOver m (j.granule * 512) j.old) (nget 0 (s.core c).spad)) a)) ∧
      (∀ c, (s.core c).epoch ≠ key → (t.core c).s = (s.core c).s ∧ (t.core c).pc = (s.core c).pc ∧
        (t.core c).spad = (s.core c).spad)

/-- R73, R75, R76, R79, R93: an issue in scalar code raises PC_RANGE beyond the program, then FETCH_ECC for a poisoned word that the
instruction cache does not hold, then, whatever the predicate, ILLEGAL_INSTRUCTION for a reserved major opcode in the word or a field
that is not legal; with the predicate false the instruction only retires. Shown of ADD. -/
def Claim.IssueChecks : Prop :=
  ∀ (s : State) (c : Nat) (f : FormA) (a : Nat), Unit.core c = true → s.issues (s.core c) = true →
    a = (s.core c).codeBase + (s.core c).pc →
    ((s.core c).progLen ≤ (s.core c).pc → exec (.add (.core c) f) s = .next (s.trap c 0x06 0)) ∧
    ((s.core c).pc < (s.core c).progLen → s.wordPoison a = true → a ∉ (s.core c).icache →
      exec (.add (.core c) f) s = .next (s.drew.trap c 0x07 0)) ∧
    ((s.core c).pc < (s.core c).progLen → s.wordPoison a = false →
      (coreInstr (.core c) (w64 (leNat (s.memRead a 8))) = none ∨ f.src3 ≠ 0 ∨ f.func ≠ 0 ∨ f.type ≠ 0 ∨ f.mod ≠ 0 ∨
          32 ≤ f.dst.toNat ∨ 32 ≤ f.src1.toNat ∨ 32 ≤ f.src2.toNat →
        exec (.add (.core c) f) s = .next (s.trap c 0x01 0)) ∧
      (legal3 (.core c) f = true → s.reservedAt a = false → f.pred.toNat ∉ (s.core c).pPending →
        (s.core c).preg f.pred.toNat = f.pneg →
        ∃ t, exec (.add (.core c) f) s = .next t ∧ OnlyCore s t c ∧ Retires (s.core c) (t.core c) ((s.core c).pc + 8) ∧
          { t.core c with pc := (s.core c).pc, csr := (s.core c).csr, stall := (s.core c).stall, icache := (s.core c).icache } = s.core c))

/-- R93, R94, R96, R186, R504, R505: a trap outside every epoch is recorded by its partition controller, gives its run the trap and a
status, after which none of the run's cores issues, and resets the core that raised it to the values of a core reset, with a new
generation and its scratchpad kept; a further trap of the run raises its status to ECC_UNCORRECTABLE before TIMEOUT before what it
was. The watchdog and a group without progress raise WATCHDOG. That the run is stopped only as it completes is the model's choice
(log entry 154). -/
def Claim.Traps : Prop :=
  ∀ (s : State) (c cause addr : Nat), (∀ x, (s.core x).epoch = 0) → (∀ g, (s.group g).st ≠ .confirming) →
    (s.coreGen c + 1).toNat % 512 ≠ 0 →
    ((s.core c).running = true → Unit.core c = true → exec (.coreWatchdogExpiry c) s = .next (s.trap c 0x09 0)) ∧
    (∀ g pc, (s.core c).running = true → Unit.core c = true → g < 4 → (s.grp c g).used = true →
      (∃ l, (s.grp c g).live.contains l = true ∧ ((s.grp c g).th l).pc = pc) →
      (∀ l, (s.grp c g).live.contains l = true → pc ≤ ((s.grp c g).th l).pc) →
      exec (.groupProgressExpiry c g) s = .next (s.trapAt c pc 0x09 0 0x0D)) ∧
    ∀ t, t = s.trap c cause addr →
      SameMemory s t ∧ (t.core c).running = false ∧ (t.core c).pc = 0 ∧ (∀ n, (t.core c).sreg n = 0) ∧
      (∀ n, n ≠ 0 → (t.core c).preg n = false) ∧ (∀ n, (t.core c).vreg n = 0) ∧ (t.core c).csr = [] ∧ (t.core c).td = [] ∧
      (t.core c).send = [] ∧ (t.core c).mq = [] ∧ (t.core c).tgq = [] ∧ (t.core c).sq = [] ∧ (t.core c).groups = [] ∧
      (t.core c).l1 = [] ∧ (t.core c).icache = [] ∧ (t.core c).spad = (s.core c).spad ∧ (t.core c).gen = (s.core c).gen + 1 ∧
      (∀ x, x ≠ c → t.core x = s.core x) ∧
      (∃ r, (t.part (partOf c)).trapLog.getLast? = some r ∧ r.vcore = (s.core c).vc ∧ r.pcore = c ∧ r.cause = cause ∧
        r.pc = BitVec.ofNat 64 (s.core c).pc ∧ r.addr = BitVec.ofNat 64 addr ∧ r.fn = (s.core c).fnOf) ∧
      (∀ r due, (s.core c).run ≠ 0 → s.run ((s.core c).run - 1) = some r → r.st = .running →
        due = (if cause = 0x07 ∨ cause = 0x08 then 0x0C else if cause = 0x09 then 0x0D else 0x08) →
        (∀ x, (t.core x).run = (s.core c).run → t.issues (t.core x) = false) ∧
        ∃ r', t.run r.id = some r' ∧ r'.st = .running ∧
          (r.status = none → r'.trap = cause ∧ r'.trapVcore = (s.core c).vc ∧ r'.status = some due) ∧
          (∀ x, r.status = some x → r'.trap = r.trap ∧ r'.trapVcore = r.trapVcore ∧ r'.status = some (
            if due = 0x0C ∨ x = 0x0C then 0x0C else if due = 0x0D ∨ x = 0x0D then 0x0D else x)))

/-- R222, R225, R235, R240: a read request that finds its line in a bay is answered with the line's bytes, and a requester of the other
tower is recorded at a home line; one that misses joins the line's entry or opens one, and reserves a response buffer. A command that
is no request of its requester to that bay changes nothing. -/
def Claim.BayReads : Prop :=
  ∀ (s : State) (bay line cls : Nat) (w : Waiter), Unit.cluster bay = true → w.wf = true → cls < 8 → line < hbmEnd →
    s.doorAt (lineOf line) = false → s.backed (lineOf line) = true →
    (s.sendsTo bay (lineOf line) cls w = false → exec (.bayReadRequest bay line cls w) s = .next s) ∧
    (s.sendsTo bay (lineOf line) cls w = true → s.asleep (partOfOff (lineOf line)) = false →
    (∀ l, (s.bay bay).find (lineOf line) = some l →
      ∃ t b, exec (.bayReadRequest bay line cls w) s = .next t ∧ SameMemory s t ∧ t.cores = s.cores ∧
        t.waits = s.waits ++ [b] ∧ b.waiter = w ∧ b.addr = lineOf line ∧ b.isRead = true ∧
        b.back = some (s.memRead (lineOf line) 128, l.bad != 0) ∧ (t.bay bay).miss = (s.bay bay).miss ∧
        { t with bays := s.bays, waits := s.waits, ctr := s.ctr } = s ∧
        (l.kind = .home → waiterOther (bay / 672) w = true → ∀ l', (t.bay bay).find (lineOf line) = some l' → l'.otherTower = true)) ∧
    ((s.bay bay).find (lineOf line) = none → (s.bay bay).missOf (lineOf line) = none → (s.bay bay).miss.length < 64 →
      ∃ t b m, exec (.bayReadRequest bay line cls w) s = .next t ∧ SameMemory s t ∧ t.cores = s.cores ∧
        t.waits = s.waits ++ [b] ∧ b.waiter = w ∧ b.back = none ∧ (t.bay bay).miss = (s.bay bay).miss ++ [m] ∧
        m.line = lineOf line ∧ m.cls = cls ∧ m.prefetch = false ∧ m.joiners.map (·.waiter) = [w] ∧
        (t.bay bay).lines = (s.bay bay).lines))

/-- R226, R228: the fill of a home bay closes its miss entry and gives every buffer reserved for it by a joiner of the present
generation the line's bytes, poisoned where the line is (R499); memory does not change. -/
def Claim.BayFills : Prop :=
  ∀ (s : State) (bay line : Nat) (m : Miss), Unit.cluster bay = true → (s.bay bay).missOf (lineOf line) = some m →
    s.kindIn bay (lineOf line) = .home → isRemoteLine (lineOf line) = false →
    ∃ t, exec (.bayFillReturn bay line) s = .next t ∧ (s.noLatent → SameMemory s t) ∧ t.cores = s.cores ∧
      ((s.bay bay).reqs = [] → (t.bay bay).missOf (lineOf line) = none) ∧
      (∀ x ∈ t.waits, x.addr = lineOf line → (∃ j ∈ m.joiners, j.waiter = x.waiter ∧ j.gen = x.gen) → x.back ≠ none) ∧
      (∀ x ∈ s.waits, x.addr ≠ lineOf line → x ∈ t.waits) ∧
      (∀ x ∈ s.waits, x.addr = lineOf line → x.back = none → x.waiter ≠ .missEntry bay →
        (∃ j ∈ m.joiners, j.waiter = x.waiter ∧ j.gen = x.gen) →
        ∃ bad, (s.calm = true → bad = false ∧ { x with back := some (s.memRead (lineOf line) 128, bad) } ∈ t.waits) ∧
          ((s.bay bay).find (lineOf line) = none → s.noLatent → s.linePoison (lineOf line) = true →
            bad = true ∧ { x with back := some (s.memRead (lineOf line) 128, bad) } ∈ t.waits))

/-- R223, R84, R476, R499: the oldest store of a core outside an epoch reaches its home bay: every byte of device memory it covers takes
its value and no other changes. Before a sleeping partition, or with a fill of its line pending, it waits. -/
def Claim.HomeBayWrites : Prop :=
  ∀ (s : State) (w : Store) (r : List Store) (off : Nat), w.addr / 2 ^ 44 = s.moduleId → off = w.addr % 2 ^ 44 →
    s.doorAt off = false → s.backed off = true → s.backed (off + w.bytes.length - 1) = true →
    (∀ c, Unit.core c = true → (s.core c).stores = w :: r → w.core = c → w.epoch = 0 →
      (s.asleep (partOfOff off) = false → s.fillPending off w.bytes.length = false →
        ∃ t, exec (.homeBayWrite (.core c)) s = .next t ∧ (s.noLatent → ∀ a, nget 0 t.mem a = laidOver (nget 0 s.mem) off w.bytes a) ∧
          (t.core c).stores = r ∧ { t.core c with stores := (s.core c).stores } = s.core c ∧ (∀ x, x ≠ c → t.core x = s.core x)) ∧
      (s.fillPending off w.bytes.length = true → s.asleep (partOfOff off) = false → exec (.homeBayWrite (.core c)) s = .next s)) ∧
    (s.writes = w :: r → s.asleep (partOfOff off) = false → s.fillPending off w.bytes.length = false →
      ∃ t, exec (.homeBayWrite .queued) s = .next t ∧ (s.noLatent → ∀ a, nget 0 t.mem a = laidOver (nget 0 s.mem) off w.bytes a) ∧
        t.writes = r ∧ t.cores = s.cores)

/-- R223, R235: an invalidation drops a copy that is no home line; with all acknowledgements in and no copy left in the other tower but a
writer's own, the home line has none outstanding and the writes that waited for it are visible. -/
def Claim.Invalidations : Prop :=
  ∀ (s : State) (bay line : Nat) (l : Line), Unit.cluster bay = true → (s.bay bay).find (lineOf line) = some l →
    (l.kind ≠ .home → ∃ t, exec (.invalidationArrival bay line) s = .next t ∧ (t.bay bay).find (lineOf line) = none ∧
      (∀ n, n ≠ bay → t.bay n = s.bay n) ∧ { t with bays := s.bays, ctr := s.ctr } = s) ∧
    (l.kind = .home → exec (.invalidationArrival bay line) s = .next s) ∧
    (l.kind = .home → l.acks ≠ 0 → (∀ e ∈ s.bays, e.1 / 672 ≠ bay / 672 → e.1 ∉ l.spared → e.2.find (lineOf line) = none) →
      ∃ t, exec (.invalidationAcksComplete bay line) s = .next t ∧
        (∀ l', (t.bay bay).find (lineOf line) = some l' → l'.acks = 0) ∧
        (∀ v, v ∈ t.vis ↔ v ∈ s.vis ∧ ¬(v.bay = bay ∧ v.line = lineOf line)) ∧ { t with bays := s.bays, vis := s.vis } = s)

/-- R256, R499, R500, R502: an answered buffer is freed by its response, silently for a good one of the present generation, with a record
for a stale one, with a DATA_ECC trap of a running core for a poisoned one; a buffer whose time is over is freed with a record, and
its core traps as for poisoned data. -/
def Claim.Responses : Prop :=
  ∀ (s : State) (i : Nat) (x : Wait) (c : Nat), s.waits[i]? = some x → x.waiter = .core c →
    (∀ bs bad, x.back = some (bs, bad) →
      (x.gen = (s.core c).gen → bad = false → ∃ t, exec (.responseArrival i) s = .next t ∧
        t.waits = s.waits.take i ++ s.waits.drop (i + 1) ∧ { t with waits := s.waits } = s) ∧
      (x.gen ≠ (s.core c).gen → ∃ t, exec (.responseArrival i) s = .next t ∧
        t.waits = s.waits.take i ++ s.waits.drop (i + 1) ∧ t.mc.log.head? = some (502, x.addr) ∧ t.cores = s.cores ∧ SameMemory s t) ∧
      (x.gen = (s.core c).gen → bad = true → (s.core c).running = true → ∃ t, exec (.responseArrival i) s = .next t ∧
        (t.core c).running = false ∧ ((t.part (partOf c)).trapLog.getLast?.map (·.cause)) = some 0x08 ∧ SameMemory s t)) ∧
    (x.back = none → s.waking x.addr = false →
      (x.gen ≠ (s.core c).gen → ∃ t, exec (.responseTimeout i) s = .next t ∧
        t.waits = s.waits.take i ++ s.waits.drop (i + 1) ∧ t.mc.log.head? = some (500, x.addr) ∧ t.cores = s.cores ∧ SameMemory s t) ∧
      (x.gen = (s.core c).gen → x.isRead = true → (s.core c).running = true → ∃ t, exec (.responseTimeout i) s = .next t ∧
        (t.core c).running = false ∧ ((t.part (partOf c)).trapLog.getLast?.map (·.cause)) = some 0x08 ∧ SameMemory s t))

/-- R208, R218, R498: a patrol counts what it found; a bad word of a core's scratchpad stays poisoned until it is overwritten, and one
of its first-level cache empties the cache; a bad word of an own region stays poisoned. -/
def Claim.ArrayPatrols : Prop :=
  ∀ (s : State) (c bay corrected w : Nat),
    (Unit.core c = true →
      ∃ t, exec (.coreArrayPatrol c corrected [w]) s = .next t ∧ SameMemory s t ∧ (∀ x, x ≠ c → t.core x = s.core x) ∧
        (8 * w < (s.core c).spadSize → (∀ v, v ∈ (t.core c).spadBad ↔ v = w ∨ v ∈ (s.core c).spadBad) ∧
          { t.core c with spadBad := (s.core c).spadBad } = s.core c) ∧
        ((s.core c).spadSize ≤ 8 * w → (t.core c).l1 = [] ∧ { t.core c with l1 := (s.core c).l1 } = s.core c) ∧
        t.counter 0x10 (clusterOf c) 6 = sat64 ((s.counter 0x10 (clusterOf c) 6).toNat + corrected) ∧
        t.counter 0x10 (clusterOf c) 7 = sat64 ((s.counter 0x10 (clusterOf c) 7).toNat + 1)) ∧
    (Unit.cluster bay = true →
      ∃ t, exec (.bayPatrol bay corrected [2 * w]) s = .next t ∧ SameMemory s t ∧ t.cores = s.cores ∧
        (∀ v, v ∈ (t.bay bay).ownBad ↔ v = w ∨ v ∈ (s.bay bay).ownBad) ∧ (t.bay bay).lines = (s.bay bay).lines ∧
        t.counter 0x10 bay 6 = sat64 ((s.counter 0x10 bay 6).toNat + corrected) ∧
        t.counter 0x10 bay 7 = sat64 ((s.counter 0x10 bay 7).toNat + 1))

/-- R472: a cluster's clock stops when every core of it is idle; nothing else changes. -/
def Claim.ClusterClock : Prop :=
  ∀ (s : State) (n : Nat), Unit.cluster n = true → (∀ i, i < 17 → (s.core (n * 17 + i)).idle = true) →
    ∃ t, exec (.clusterClockGate n) s = .next t ∧ nget false t.mc.gated n = true ∧
      (∀ m, m ≠ n → nget false t.mc.gated m = nget false s.mc.gated m) ∧
      { t with mc := { t.mc with gated := s.mc.gated } } = s

/-- R294, R295, R296: a sector that its array gives back as written reads clean; one with one check symbol in error, or bit 0 of one
data byte, is corrected and rewritten; one that holds the poison marker is counted as a poison read. In each case device memory is as
before. A write of a whole sector of which no bay holds a byte stores its bytes, at the offsets of the sector (R312), and clears a
poison marker. -/
def Claim.HbmSectors : Prop :=
  ∀ (s : State) (sector off unit : Nat), off = sector * 64 → s.backed off = true → unit = s.hbmUnit off →
    (s.sectorChk off = 0 →
      (∃ t, exec (.hbmSectorRead sector []) s = .next t ∧ SameMemory s t ∧ (∀ o, t.sectorChk o = s.sectorChk o) ∧
        t.counter 0x18 unit 0 = sat64 ((s.counter 0x18 unit 0).toNat + 1) ∧ { t with chk := s.chk, ctr := s.ctr } = s) ∧
      (∀ sym v, v ≠ 0 → 64 ≤ sym ∧ sym < 68 ∨ sym < 64 ∧ v = 1 →
        ∃ t, exec (.hbmSectorRead sector [(sym, v)]) s = .next t ∧ SameMemory s t ∧ (∀ o, t.sectorChk o = s.sectorChk o) ∧
          t.counter 0x18 unit 3 = sat64 ((s.counter 0x18 unit 3).toNat + 1) ∧ t.cores = s.cores)) ∧
    (s.sectorChk off = poisonMarker → ∃ t, exec (.hbmSectorRead sector []) s = .next t ∧ SameMemory s t ∧
      (∀ o, t.sectorChk o = s.sectorChk o) ∧ t.counter 0x18 unit 5 = sat64 ((s.counter 0x18 unit 5).toNat + 1)) ∧
    (∀ bs : List Byte, bs.length = 64 → (∀ a ∈ s.sectorBytes off, (s.bay (s.homeBay a)).find (lineOf a) = none) →
      ∃ t, exec (.hbmSectorWrite sector 0 bs) s = .next t ∧
        (∀ i, i < 64 → nget 0 t.mem ((s.sectorBytes off).getD i 0) = bs.getD i 0) ∧
        (∀ a, a ∉ s.sectorBytes off → nget 0 t.mem a = nget 0 s.mem a) ∧ t.sectorChk off = 0 ∧
        (∀ o, s.sectorKey o ≠ s.sectorKey off → t.sectorChk o = s.sectorChk o) ∧ t.cores = s.cores ∧ t.bays = s.bays)

/-- R298, R299, R301, R305, R319, R326: a due refresh of an idle bank is issued with those it had postponed, one of a busy bank is
postponed up to four times, the fourth ending the step of an engine that runs in the channel; an on-die poll adds its counts; a periodic retraining that finds no lane below margin changes nothing but its count, one
that finds a first data lane moves it to the spare and records it; a base die fault disables near-bank units. -/
def Claim.HbmUpkeep : Prop :=
  ∀ (s : State) (st ch unit key : Nat), Unit.stack st = true → Unit.channel ch = true → unit = st * 32 + ch →
    (∀ pc bank busy n, pc < 2 → key = (unit * 2 + pc) * 65536 + bank → n = nget 0 s.refresh key →
      s.hottest (dramNodes st) ≤ 850 →
      (busy = false → ∃ t, exec (.hbmRefreshDue st ch pc bank busy) s = .next t ∧ nget 0 t.refresh key = 0 ∧
        (∀ k, k ≠ key → nget 0 t.refresh k = nget 0 s.refresh k) ∧
        t.counter 0x18 unit 8 = sat64 ((s.counter 0x18 unit 8).toNat + (n + 1)) ∧ { t with refresh := s.refresh, ctr := s.ctr } = s) ∧
      (busy = true → n < 4 → ∃ t, exec (.hbmRefreshDue st ch pc bank busy) s = .next t ∧ nget 0 t.refresh key = n + 1 ∧
        (∀ k, k ≠ key → nget 0 t.refresh k = nget 0 s.refresh k) ∧
        t.counter 0x18 unit 9 = sat64 ((s.counter 0x18 unit 9).toNat + 1) ∧
        (t.nb st).cuts = (if n = 3 ∧ (s.nb st).cur.isSome then (s.nb st).cuts ++ [ch] else (s.nb st).cuts) ∧
        { t with refresh := s.refresh, ctr := s.ctr, nbs := s.nbs } = s)) ∧
    (∀ counts : List Nat, ∃ t, exec (.hbmOdeccPoll st counts) s = .next t ∧ { t with ctr := s.ctr } = s ∧
      (∀ x, x < 32 → t.counter 0x18 (st * 32 + x) 7 = sat64 ((s.counter 0x18 (st * 32 + x) 7).toNat + counts.getD x 0))) ∧
    (s.cfld (offChan st ch) 0 2 = 1 →
      (∃ t, exec (.hbmPeriodicRetrain st ch 0 0 0) s = .next t ∧ t.counter 0x18 unit 12 = sat64 ((s.counter 0x18 unit 12).toNat + 1) ∧
        { t with ctr := s.ctr } = s) ∧
      (s.cfld (offChan st ch) 17 1 = 0 → ∃ t, exec (.hbmPeriodicRetrain st ch 1 0 0) s = .next t ∧
        t.cfld (offChan st ch) 17 1 = 1 ∧ t.mem = s.mem ∧ t.cores = s.cores)) ∧
    (s.nbStack st = true → s.cfld (offNb st) 0 3 = 1 → (s.nb st).cur = none →
      ∃ t, exec (.baseDieFault st) s = .next t ∧ t.cfld (offNb st) 0 3 = 4 ∧ t.mem = s.mem ∧ t.cores = s.cores)

/-- R316, R317, R321, R328: a stack that serves takes the oldest kick its proxy holds, becomes busy with it and cleans the sequence's
inputs; a kick that names no sequence is answered with status 3 at once. When every engine has finished, the stack is free, the outputs
are invalidated in the bays, and the completion goes to NOTIFY. -/
def Claim.NearBankSequences : Prop :=
  ∀ (s : State) (st : Nat), Unit.stack st = true →
    (∀ (lp : Nat) (r : Run) (ph : Phase) (proxy c : Nat) (m : Msg) (rest : List Msg) (k : Kick), s.lpartOn (st / 2) = some lp →
      s.thinRun lp = some r → s.phase r.phase = some ph → (ph.proxies[lp]?).join = some proxy → s.placed proxy = some c →
      (s.core c).rxq = m :: rest → (s.core c).overflow = [] → (s.core c).spill = [] → s.nbServes st = true → (s.nb st).cur = none →
      st % 2 = 0 → k = kickOf m r.id proxy →
      (s.kickBad k m lp = false → ∃ t, exec (.kickTaken st) s = .next t ∧ (t.nb st).cur = some k ∧ (t.nb st).at_ = [] ∧
        (t.core c).rxq = rest ∧ t.cfld (offNb st) 0 3 = 2 ∧ t.cfld (offNb st) 16 16 = k.seq % 65536 ∧
        (s.noLatent → SameMemory s t) ∧
        t.net = s.net) ∧
      (s.kickBad k m lp = true → ∃ t reply, exec (.kickTaken st) s = .next t ∧ t.net = s.net ++ [reply] ∧
        reply.dstVcore = k.notify ∧ reply.srcVcore = proxy ∧ reply.tag = k.tag ∧ reply.payload.head? = some 3 ∧
        (t.core c).rxq = rest ∧ SameMemory s t)) ∧
    (∀ (k : Kick) (q : NbSeq), (s.nb st).cur = some k → s.kickSeq k = some q → (s.nb st).finished q.ops.length = true →
      s.cfld (offNb st) 0 3 = 2 →
      ∃ t reply, exec (.nbSequenceDone st) s = .next t ∧ (s.noLatent → SameMemory s t) ∧ t.cores = s.cores ∧ (t.nb st).cur = none ∧
        t.cfld (offNb st) 0 3 = 1 ∧ t.net = s.net ++ [reply] ∧ reply.dstVcore = k.notify ∧ reply.tag = k.tag ∧
        reply.payload.head? = some 0 ∧ reply.payload.length = 16)

/-- R306, R307, R310, R317 to R319: with no error in HBM, a step of a channel engine that stands before an operation of its stack's sequence
gets further and is counted; the sequencer's read of a row of activations fills the buffers with its bytes, and the outputs of a row of
weights are the products with each selected token's activations, accumulated on the prior value where the operation says so. -/
def Claim.NearBankSteps : Prop :=
  ∀ (s : State) (st ch : Nat) (k : Kick) (q : NbSeq), Unit.stack st = true → Unit.channel ch = true → (s.nb st).cur = some k →
    s.kickSeq k = some q → s.cfld (offNb st) 0 3 = 2 → nget 0 (s.nb st).at_ ch / 2 ^ 32 < q.ops.length →
    (∀ i, i < 5 → (s.tnode (420 + st * 5 + i)).hard = false) → s.chk = [] →
    ((s.nb st).masksBad = false → (∀ x ∈ (s.nb st).acts, x.bad = false) →
      ∃ t, exec (.nbStepBoundary st ch []) s = .next t ∧ nget 0 (s.nb st).at_ ch < nget 0 (t.nb st).at_ ch ∧
      nget 0 (t.nb st).steps ch = nget 0 (s.nb st).steps ch + 1 ∧
      (∀ x, x ≠ ch → nget 0 (t.nb st).at_ x = nget 0 (s.nb st).at_ x) ∧ ch ∉ (t.nb st).cuts ∧
      t.counter 0x19 st 3 = sat64 ((s.counter 0x19 st 3).toNat + 1)) ∧
    (∀ (o : NbOp) (w act out : Tensor) (r b kk row at_ : Nat), kk = w.shape.getD 0 0 → 2 * kk ≤ 262144 → (s.nb st).acts = [] →
      row = act.base + (o.actFirst + b) * (2 * kk) → at_ = out.base + r * 32 + 4 * b →
      ((s.nbLoad st o act kk [b]).nb st).acts = [{ off := row, data := s.hbmRead row (2 * kk), bad := false }] ∧
      ∃ d v,
        v = sumOpen d ((if o.accumulate then [f32 (BitVec.ofNat 32 (leNat (s.hbmRead at_ 4)))] else []) ++
          List.zipWith Machine.Num.mul
            ((List.range kk).map (storedElem w.fmt (fun _ => s.tables w.tableSet)
              (s.hbmRead (w.base + r * rowBytes w.fmt kk) (rowBytes w.fmt kk))))
            ((List.range kk).map (storedElem 0x03 (fun _ => []) (s.hbmRead row (2 * kk))))) ∧
        ∀ i, i < 4 → ((s.nbLoad st o act kk [b]).nbRow st o w act out [b] r).hbmGet (at_ + i) = v.extractLsb' (8 * i) 8)

/-- R358, R359, R365, R367, R371: the completion of a command ends it. With Bus Master Enable set its 32-byte entry goes to the tail of
the completion ring, the tail and at a wrap the phase move on, and its result goes to its host buffer; otherwise both are held. A
command whose result goes to a slot leaves it READY there. -/
def Claim.CompletionEntry : Prop :=
  ∀ (s : State) (c : Cmd) (status : Nat) (detail : W64) (result : List Byte) (x : Fn) (t : State),
    s.cmd c.id = some c → c.mute = false → c.dead = false → x = s.fn c.fn → t = s.complete c.id status detail result →
    t.cmd c.id = none ∧ SameMemory s t ∧ t.cores = s.cores ∧ t.bays = s.bays ∧ t.runs = s.runs ∧
    (x.bme = true → x.held = false →
      (t.fn c.fn).cqTail = (x.cqTail + 1) % x.cqN ∧
      (t.fn c.fn).cqPhase = (if (x.cqTail + 1) % x.cqN = 0 then !x.cqPhase else x.cqPhase) ∧
      t.counter 0x30 c.fn 1 = sat64 ((s.counter 0x30 c.fn 1).toNat + 1) ∧
      (∀ v, fld x.ringCfg 24 6 = v → (x.vec v).masked = true ∨ fld x.ringCfg 48 8 ≠ 0 ∧ c.irqNow = false ∧
          x.unsignalled + 1 < max 1 (fld x.ringCfg 40 8) →
        c.tookSlot = true ∨ c.resultLen = 0 ∨ result = [] →
        ∀ a, nget 0 t.host a = laidOver (nget 0 s.host) (x.cqBase.toNat + 32 * x.cqTail)
          (leBytes 2 c.tag.toNat ++ leBytes 1 status ++ leBytes 1 c.opcode ++ leBytes 4 result.length ++ leBytes 8 detail.toNat ++
           leBytes 2 x.sqHead ++ List.replicate 10 0 ++ leBytes 4 ((if x.cqPhase then 2 ^ 31 else 0) +
             (if c.resultLen < result.length then 2 else 0) + (if c.tookSlot then 1 else 0))) a)) ∧
    (x.bme = false → (t.fn c.fn).held = true ∧ (t.fn c.fn).heldComps.length = x.heldComps.length + 1 ∧ t.host = s.host) ∧
    (c.tookSlot = true → ((t.fn c.fn).slot c.slotIx).st = 2 ∧ ((t.fn c.fn).slot c.slotIx).status = status ∧
      ((t.fn c.fn).slot c.slotIx).payload = result.take c.resultLen)

/-- R355, R361, R376: the letterbox whose turn it is takes the entry at its head: the head moves on, the entry becomes a command in
flight, or is completed at once with BAD_OPCODE for an opcode that R376 does not list and with NOT_PRIVILEGED for one of another
function than PF0 that only PF0 may send; a failed read of the ring stops the letterbox in ERROR. -/
def Claim.EntryTaken : Prop :=
  ∀ (s : State) (f : Nat) (x : Fn) (a : Nat), Unit.fn f = true → s.sqTurn = some f → x = s.fn f → a = x.sqBase.toNat + 64 * x.sqHead →
    (∀ (e : List Byte) (c : Cmd), s.hostRead a 64 = some e → c = { id := s.mc.nextCmd, fn := f, entry := e } →
      s.pcie.vestibule = false → s.conflicts c = false → s.standby = false → c.badCommon = none → c.wantsSlot = false →
      (∀ row, opRow c.opcode = some row → (row.2.1 = false ∨ f = 0) →
        ∃ t, exec (.sqEntryTaken f) s = .next t ∧ (t.fn f).sqHead = (x.sqHead + 1) % x.sqN ∧ t.cmds = s.cmds ++ [c] ∧
          t.mc.nextCmd = s.mc.nextCmd + 1 ∧ t.mc.turn = f ∧ SameMemory s t ∧ t.host = s.host ∧ t.cores = s.cores) ∧
      (∀ status, opRow c.opcode = none ∧ status = 0x02 ∨
          (∃ row, opRow c.opcode = some row ∧ row.2.1 = true ∧ f ≠ 0 ∧ status = 0x0E) →
        ∃ u, exec (.sqEntryTaken f) s = .next (u.complete c.id status 0 []) ∧ u.cmds = s.cmds ++ [c] ∧
          (u.fn f).sqHead = (x.sqHead + 1) % x.sqN ∧ u.host = s.host ∧ SameMemory s u)) ∧
    (s.hostRead a 64 = none → ∃ t, exec (.sqEntryTaken f) s = .next t ∧ (t.fn f).st = .error ∧ (t.fn f).fetchError = true ∧
      t.cmds = s.cmds ∧ SameMemory s t) ∧
    (s.sqReady f = true → ∃ t, exec (.sqFetchFailure f) s = .next t ∧ (t.fn f).st = .error ∧ (t.fn f).fetchError = true ∧
      t.cmds = s.cmds ∧ SameMemory s t)

/-- R354, R355, R360: ENABLE with a legal ring configuration starts a disabled letterbox with its indices at 0 and phase 1, and any other
sets CFG_ERROR; ENABLE written as 0 disables one with nothing in flight, and stops another; ENABLE reads back as written; a doorbell within the ring moves its index, a refused one
sets DB_ERROR; LB_STATUS bits are cleared by writing 1. -/
def Claim.LetterboxRegisters : Prop :=
  ∀ (s : State) (f : Nat) (x : Fn), Unit.fn f = true → s.hostReaches f = true → x = s.fn f →
    (∀ ok : Bool, x.st = .disabled → (f = 0 ∨ s.pcie.vestibule = false) →
      (ok = true ↔ x.sqBase.toNat % 4096 = 0 ∧ x.cqBase.toNat % 4096 = 0 ∧ 6 ≤ fld x.ringCfg 0 5 ∧ fld x.ringCfg 0 5 ≤ 16 ∧
        6 ≤ fld x.ringCfg 8 5 ∧ fld x.ringCfg 8 5 ≤ 16) →
      ∃ t, exec (.lbEnable f) s = .next t ∧ SameMemory s t ∧ t.cores = s.cores ∧
        (ok = true → (t.fn f).st = .running ∧ (t.fn f).sqHead = 0 ∧ (t.fn f).cqTail = 0 ∧ (t.fn f).dbTail = 0 ∧
          (t.fn f).dbHead = 0 ∧ (t.fn f).cqPhase = true ∧ t.host = s.host) ∧ (t.fn f).enable = true ∧
        (ok = false → (t.fn f).st = .disabled ∧ (t.fn f).cfgError = true)) ∧
    (x.st ≠ .disabled → ∃ t, exec (.lbEnable f) s = .next t ∧ t.fn f = { x with enable := true } ∧ { t with fns := s.fns } = s) ∧
    (∃ t, exec (.lbDisable f) s = .next t ∧ (t.fn f).enable = false ∧ (t.fn f).st = (if x.st = .disabled then .disabled
        else if s.inflight f = 0 then .disabled else .stopping) ∧ t.host = s.host ∧ (∀ g, g ≠ f → t.fn g = s.fn g) ∧
      { t with fns := s.fns } = s) ∧
    (∀ v : W32, v.toNat < x.sqN → x.sqHead < x.sqN → x.dbTail = x.sqHead →
      ∃ t, exec (.doorbellSqTail f v) s = .next t ∧ (t.fn f).dbTail = v.toNat ∧ { t with fns := s.fns } = s) ∧
    (∀ v : W32, x.sqN ≤ v.toNat → ∃ t, exec (.doorbellSqTail f v) s = .next t ∧ (t.fn f).dbTail = x.dbTail ∧ (t.fn f).dbError = true) ∧
    (∀ v : W32, v.toNat < x.cqN → v.toNat = x.cqTail →
      ∃ t, exec (.doorbellCqHead f v) s = .next t ∧ (t.fn f).dbHead = v.toNat ∧ { t with fns := s.fns } = s) ∧
    (∀ v : W32, x.cqN ≤ v.toNat → ∃ t, exec (.doorbellCqHead f v) s = .next t ∧ (t.fn f).dbHead = x.dbHead ∧ (t.fn f).dbError = true) ∧
    (∀ v : W64, bitsN v.toNat 8 8 = 0 → bitsN v.toNat 6 1 = 0 → ∃ t, exec (.lbStatusErrorClear f v) s = .next t ∧
      (t.fn f).fetchError = (x.fetchError && !v.getLsbD 3) ∧ (t.fn f).cfgError = (x.cfgError && !v.getLsbD 4) ∧
      (t.fn f).dbError = (x.dbError && !v.getLsbD 5) ∧ (t.fn f).st = x.st ∧ { t with fns := s.fns } = s)

/-- R364, R365, R372: the coalescing time sends the completion interrupt that covers the entries not signalled yet, or leaves it pending at
a masked vector; unmasking a vector sends its pending message; LB_IRQS counts completion interrupts as they are sent; a stepped command that asked for progress gets a progress entry while there is one to spare. -/
def Claim.LetterboxInterrupts : Prop :=
  ∀ (s : State) (f : Nat) (x : Fn) (m : Msix), Unit.fn f = true → x = s.fn f →
    (x.unsignalled ≠ 0 → fld x.ringCfg 48 8 ≠ 0 → m = x.vec (fld x.ringCfg 24 6) → m.masked = false → x.bme = true →
      ∃ t, exec (.coalesceTimeout f) s = .next t ∧ (t.fn f).unsignalled = 0 ∧
        t.counter 0x30 f 3 = sat64 ((s.counter 0x30 f 3).toNat + 1) ∧
        (∀ a, nget 0 t.host a = laidOver (nget 0 s.host) m.addr.toNat (leBytes 4 m.data.toNat) a) ∧ SameMemory s t ∧ t.cores = s.cores) ∧
    (∀ v, v < 64 → s.pcie.l0 = true → x.bme = true → m = x.vec v → m.pending = true →
      ∃ t, exec (.msixVectorUnmask f v) s = .next t ∧ ((t.fn f).vec v).masked = false ∧ ((t.fn f).vec v).pending = false ∧
        (∀ a, nget 0 t.host a = laidOver (nget 0 s.host) m.addr.toNat (leBytes 4 m.data.toNat) a) ∧
        t.counter 0x30 f 3 = (if m.owed then sat64 ((s.counter 0x30 f 3).toNat + 1) else s.counter 0x30 f 3) ∧
        (∀ u, u ≠ v → (t.fn f).vec u = x.vec u) ∧ SameMemory s t ∧ t.cores = s.cores) ∧
    (x.unsignalled ≠ 0 → fld x.ringCfg 48 8 ≠ 0 → m = x.vec (fld x.ringCfg 24 6) → m.masked = true →
      ∃ t, exec (.coalesceTimeout f) s = .next t ∧ (t.fn f).unsignalled = 0 ∧
        (t.fn f).vec (fld x.ringCfg 24 6) = { m with pending := true, owed := true } ∧ { t with fns := s.fns } = s) ∧
    (∀ (c : Cmd), s.cmd c.id = some c → c.fn = f → c.progress = true → opStepped c.opcode = true → c.mute = false → c.steps ≠ 0 →
      x.bme = true → x.held = false → s.inflight f < x.freeComps →
      ∃ t, exec (.progressCompletion c.id) s = .next t ∧ (t.fn f).cqTail = (x.cqTail + 1) % x.cqN ∧ t.cmds = s.cmds ∧
        SameMemory s t ∧ t.counter 0x30 f 1 = sat64 ((s.counter 0x30 f 1).toNat + 1))

/-- R13, R64, R65, R238: a write to REGION_ATTR does what the table of states says: an entry without a region stores the fields, and one of
size above 0 written VALID begins its allocation; an allocation under way is cancelled by VALID = 0, and a region released; a failed
entry tries again or returns to its reset values; any other write leaves the entry. Only PF0 writes, and only the entries of an
enabled function. The allocation ends READY, placed and zeroed, or with NO_SPACE; a release ends once nothing uses the region, a
cancelled allocation at once, and the entry then has its reset values. -/
def Claim.RegionTable : Prop :=
  ∀ (s : State) (f i : Nat) (r : Region), Unit.fn f = true → Unit.region i = true → r = s.region f i →
    (∀ v : W64, s.hostReaches 0 = true → s.pcie.vestibule = false → s.standby = false → (s.fn f).enabled = true →
      v &&& 0x1CFFFF0F00000000 = 0 →
      ∃ t, exec (.regionAttrWrite 0 f i v) s = .next t ∧ (∀ g j, (g ≠ f ∨ j ≠ i) → j < 64 → t.region g j = s.region g j) ∧
        SameMemory s t ∧ t.cores = s.cores ∧ t.bays = s.bays ∧ t.fns = s.fns ∧
        (s.mirrors = false → { t with regions := s.regions, mc := s.mc } = s) ∧
        (r.state = 0 ∨ r.state = 3 → v.getLsbD 63 = true → fld v 0 32 ≠ 0 →
          (t.region f i).attr = setFld (v &&& 0xE00000F0FFFFFFFF) 56 2 1 ∧ (t.region f i).base = r.base) ∧
        (r.state = 0 → v.getLsbD 63 = false → (t.region f i).attr = v &&& 0xE00000F0FFFFFFFF) ∧
        (r.state = 3 → v.getLsbD 63 = false → t.region f i = {}) ∧
        (r.state = 1 → v.getLsbD 63 = false → t.region f i = { r with attr := setFld r.attr 63 1 0 }) ∧
        (r.state = 2 → r.valid = true → v.getLsbD 63 = false →
          t.region f i = { r with attr := setFld r.attr 63 1 0, rel := s.mc.nextCmd }) ∧
        (v.getLsbD 63 = true ∧ (r.state = 1 ∨ r.state = 2 ∨ fld v 0 32 = 0) ∨ r.state = 2 ∧ r.valid = false → t.region f i = r)) ∧
    (∀ by_ v, Unit.fn by_ = true → by_ ≠ 0 → exec (.regionAttrWrite by_ f i v) s = .next s) ∧
    (r.state = 1 → r.valid = true → (s.mirrors && s.tablePending f i) = false →
      (∀ b, (s.mirrors && decide (s.pair.room < r.size)) = false → s.place (fld r.attr 36 4) r.size 65536 = some b →
        ∃ t, exec (.regionAllocationEnd f i) s = .next t ∧ (t.region f i).state = 2 ∧ (t.region f i).base = b ∧
        (∀ a, b ≤ a → a < b + r.size → nget 0 t.mem a = 0) ∧
        (∀ a, a < b ∨ b + r.size ≤ a → nget 0 t.mem a = nget 0 s.mem a) ∧ t.cores = s.cores) ∧
      ((s.mirrors && decide (s.pair.room < r.size)) = true ∨ s.place (fld r.attr 36 4) r.size 65536 = none →
        ∃ t, exec (.regionAllocationEnd f i) s = .next t ∧ (t.region f i).state = 3 ∧ { t with regions := s.regions } = s)) ∧
    (r.state = 1 → r.valid = false → ∃ t, exec (.allocationCancelEnd f i) s = .next t ∧ t.region f i = {} ∧
      { t with regions := s.regions } = s) ∧
    (r.state = 2 → r.valid = false → s.regionUsed f i r.rel = false →
      ∃ t, exec (.regionReleaseEnd f i) s = .next t ∧ t.region f i = {} ∧ (∀ a, r.base ≤ a → a < r.base + r.size → nget 0 t.mem a = 0) ∧
        (r.base % 128 = 0 → r.size % 128 = 0 → (∀ n, ∀ l ∈ (s.bay n).lines, l.line % 128 = 0 ∧ ∀ e ∈ l.stale, l.line ≤ e.1 ∧ e.1 < l.line + 128) →
          ∀ a, a < r.base ∨ r.base + r.size ≤ a → nget 0 t.mem a = nget 0 s.mem a))

/-- R61, R222, R356, R369: an aperture access within a READY region that admits it reads the region's bytes through their home bays, or queues
its bytes for their home bays in traffic class 7. -/
def Claim.Aperture : Prop :=
  ∀ (s : State) (f x n a : Nat), Unit.fn f = true → s.hostReaches f = true → x + n ≤ 0x1000000000 → 0 < n →
    (s.writes.any (fun w => w.fn == f) = false → (∀ i, i < n → s.apertureAt f (x + i) false = some (a + i) ∧ s.doorAt (a + i) = false ∧
        s.asleep (partOfOff (a + i)) = false ∧ s.backed (a + i) = true ∧ s.wordPoison (a + i) = false) →
      ∃ t, exec (.apertureRead f x n) s = .next t ∧ t.mc.lastRead = some (s.memRead a n, false) ∧ t.cores = s.cores ∧ t.fns = s.fns ∧
        (s.noLatent → SameMemory s t) ∧
        (s.calm = true → { t with mc := { t.mc with lastRead := s.mc.lastRead }, bays := s.bays, ctr := s.ctr } = s)) ∧
    (∀ bytes : List Byte, bytes.length = n →
      (∀ i, i < n → s.apertureAt f (x + i) true = some (a + i)) → s.asleep (partOfOff a) = false →
      ∃ t w, exec (.apertureWrite f x bytes) s = .next t ∧ t.writes = s.writes ++ [w] ∧ w.addr = s.moduleId * 2 ^ 44 + a ∧
        w.bytes = bytes ∧ w.cls = 7 ∧ w.fn = f ∧ w.epoch = 0 ∧ { t with writes := s.writes, pair := s.pair } = s ∧
        (s.mirrors = false → t.pair = s.pair))

/-- R17, R210: only partition controllers write bond repair positions, by the command or at the register's offset; the register takes a value that is legal against the
present one while the core's channel is idle and carries no virtual core, and keeps the present one else. -/
def Claim.BondRepair : Prop :=
  ∀ (s : State) (c g : Nat) (v : W64), Unit.core c = true → g < 32 →
    (∀ (p : Nat) (i : Instr), p < 8 → v &&& 0xFFFFFFFFFFFF4040 = 0 →
      (i = .transomRepairWrite (.partitionController p) c g v ∨ i = .registerWrite (.partitionController p) (offRepair c g) 8 v) →
      ((s.core c).channelFree = true → repairRefused (s.creg (offRepair c g)) v = false →
        ∃ t, exec i s = .next t ∧ t.creg (offRepair c g) = v ∧
          (∀ o, o ≠ offRepair c g → t.creg o = s.creg o) ∧ { t with ctl := s.ctl } = s) ∧
      ((s.core c).channelFree = false ∨ repairRefused (s.creg (offRepair c g)) v = true →
        ∃ t, exec i s = .next t ∧ { t with mc := s.mc } = s)) ∧
    (∀ by_, (∀ p, p < 8 → by_ ≠ .partitionController p) →
      ∃ t, exec (.transomRepairWrite by_ c g v) s = .next t ∧ { t with mc := s.mc } = s) ∧
    (repairRefused (s.creg (offRepair c g)) v = true ↔ 33 < fld v 0 6 ∨ 33 < fld v 8 6 ∨
      (v.getLsbD 15 = true ∧ (v.getLsbD 7 = false ∨ fld v 8 6 ≤ fld v 0 6)) ∨
      ∃ p, p ∈ repairMarks (s.creg (offRepair c g)) ∧ p ∉ repairMarks v)

/-- R12, R17, R229, R343, R351, R352, R354, R356: a host's register write goes to its function's control window, where an access of a
size or offset that is not allowed is only counted and the ring registers change in DISABLED alone; partition
controllers write the RW fields of the policy registers and no others, and no other requester writes any; in the sill windows only
controllers write, and the shared regions not at all (R198). -/
def Claim.RegisterWrites : Prop :=
  ∀ (s : State) (f : Nat) (x : Fn) (v : W64), Unit.fn f = true → s.hostReaches f = true → x = s.fn f →
    (x.st = .disabled →
      (∃ t, exec (.registerWrite (.host f) 0x1000 8 v) s = .next t ∧ t.fn f = { x with sqBase := v } ∧ { t with fns := s.fns } = s) ∧
      (∃ t, exec (.registerWrite (.host f) 0x1008 8 v) s = .next t ∧ t.fn f = { x with cqBase := v } ∧ { t with fns := s.fns } = s) ∧
      (v &&& ~~~ringRw = 0 →
        ∃ t, exec (.registerWrite (.host f) 0x1010 8 v) s = .next t ∧ t.fn f = { x with ringCfg := v } ∧ { t with fns := s.fns } = s)) ∧
    (v &&& ~~~apertureRw = 0 →
      ∃ t, exec (.registerWrite (.host f) 0x1028 8 v) s = .next t ∧ t.fn f = { x with aperture := v } ∧ { t with fns := s.fns } = s) ∧
    (∀ off size t, off + size ≤ 0x100000 →
      (x.st ≠ .disabled ∧ size = 8 ∧ (off = 0x1000 ∨ off = 0x1008) ∨ (off = 0x2000 ∨ off = 0x2004) ∧ size ≠ 4 ∨
        (off < 0x2000 ∨ 0x2004 < off) ∧ (off < 0x20000 ∨ 0x20400 ≤ off) ∧ (size ≠ 8 ∨ off % 8 ≠ 0) ∧
          ¬(size = 4 ∧ (off = 0x21000 ∨ off = 0x21004))) →
      t = s.bump 0x30 f 5 1 → exec (.registerWrite (.host f) off size v) s = .next t) ∧
    (∀ off size, size = 4 ∧ (off = 0x21000 ∨ off = 0x21004) ∨ size = 8 ∧ off = 0x21000 →
      exec (.registerWrite (.host f) off size v) s = .next s) ∧
    (∀ p q off rw, p < 8 → off < 2 ^ 32 → ctlRw off = some (q, rw) → v &&& ctlReserved off = 0 →
      ∃ t, exec (.registerWrite (.partitionController p) off 8 v) s = .next t ∧
        t.creg off = (s.creg off &&& ~~~rw) ||| (v &&& rw) ∧ (∀ o, o ≠ off → t.creg o = s.creg o) ∧ { t with ctl := s.ctl } = s) ∧
    (∀ by_ off size, (∀ g, by_ ≠ .host g) → off < sillWindow → (∀ p, p < 8 → by_ ≠ .partitionController p) ∨
        ctlRw off = none ∧ isReg off (offRepair 0 0) 8 (22848 * 32) = false →
      ∃ t, exec (.registerWrite by_ off size v) s = .next t ∧ { t with mc := s.mc } = s) ∧
    (∀ by_ off size, (∀ g, by_ ≠ .host g) → sillWindow ≤ off →
      (∀ p, p < 8 → by_ ≠ .partitionController p) ∧ by_ ≠ .moduleController ∨
        0x8000 * s.privSteps (clusterOf (s.windowOwner off).1) < (s.windowOwner off).2 + size →
      ∃ t, exec (.registerWrite by_ off size v) s = .next t ∧ { t with mc := s.mc } = s)

/-- R60, R388: a RUN or RUN_SPECULATIVE whose entry and bindings pass every check enters the order of starts as one run that waits;
with a door of its partitions closed it completes with DOOR_CLOSED, and a wrong number of bindings fails at 0x14. -/
def Claim.RunTaken : Prop :=
  ∀ (s : State) (id : Nat) (c : Cmd) (spec : Bool) (ph : Phase) (bs : List Byte) (n : Nat),
    s.cmdFor id (if spec then 0x21 else 0x20) = some c → c.started = false → s.runBad c spec = [] →
    s.phase (c.at_ 0x10 1) = some ph → n = c.at_ 0x14 2 → (n = 0 ∧ bs = [] ∨ n ≠ 0 ∧ s.hostRead (c.at_ 0x20 8) (16 * n) = some bs) →
    bindingsBad bs n ph.bound = [] →
    (n = ph.bound.length → (c.resultLen = 0 ∨ ∃ i, i < n ∧ (bindingAt bs i).result = true) →
      (s.shutAmong (s.pparts ph.partMask) = false →
        ∃ t r, exec (if spec then .runSpeculative id else .run id) s = .next t ∧ t.runs = s.runs ++ [r] ∧
          r = { id := s.mc.nextRun, cmd := c.id, fn := c.fn, tag := c.tag, phase := ph.id, batch := c.at_ 0x12 2,
                seed := w64 (c.at_ 0x18 8), bindings := (List.range n).map (bindingAt bs), timeoutMs := c.at_ 0x28 4,
                holdLimit := c.at_ 0x16 2, spec := spec, mask := ph.partMask } ∧
          t.mc.nextRun = s.mc.nextRun + 1 ∧ t.cmd id = some { c with started := true } ∧ SameMemory s t ∧ t.host = s.host ∧
          t.cores = s.cores ∧ t.fns = s.fns) ∧
      (s.shutAmong (s.pparts ph.partMask) = true →
        exec (if spec then .runSpeculative id else .run id) s = .next (s.complete id 0x0F 0 []))) ∧
    (n ≠ ph.bound.length → exec (if spec then .runSpeculative id else .run id) s = .next (s.complete id 0x03 0x14 []))

/-- R85, R86, R95, R117, R202: a run whose turn it is starts: each virtual core that the phase starts on the path chosen is running at its
entry with its registers, accumulators and thread groups cleared and its launch registers set; the run is running. -/
def Claim.RunStarts : Prop :=
  ∀ (s : State) (id : Nat) (r : Run) (im : Image) (ph : Phase) (thin onNb : Bool) (starts : List (VcEntry × Nat)),
    s.run id = some r → s.img.image = some im → r.st = .waiting → s.mayStart r = true → s.phase r.phase = some ph →
    s.shutAmong (s.pparts r.mask) = false → (s.pparts r.mask).any s.asleep = false →
    thin = (ph.hasThin && decide (r.batch ≤ ph.thinMax)) → onNb = (thin && !r.spec && s.thinOnNb im ph) →
    starts = ph.starts thin onNb →
    (∀ x, x ∈ ph.starts thin false → ∃ c, s.placed x.1.vcore = some c ∧ Unit.core c = true) →
    ((starts.map fun (x : VcEntry × Nat) => s.placed x.1.vcore) ++
      (if onNb then (ph.proxies.filterMap fun o => o).map s.placed else [])).Nodup →
    ∃ t r', exec (.runLaunch id) s = .next t ∧ r' = { r with st := .running, thin := onNb, confirmHeld := false } ∧
      t.run id = some r' ∧ (∀ j, j ≠ id → t.run j = s.run j) ∧ t.cmds = s.cmds ∧ t.host = s.host ∧ t.regions = s.regions ∧
      (∀ e entry c, (e, entry) ∈ starts → s.placed e.vcore = some c →
        (t.core c).running = true ∧ (t.core c).done = false ∧ (t.core c).pc = entry ∧ (t.core c).run = id + 1 ∧
        (∀ n, (t.core c).sreg n = 0) ∧ (∀ n, n ≠ 0 → (t.core c).preg n = false) ∧ (∀ n, (t.core c).vreg n = 0) ∧
        (t.core c).acc = [] ∧ (t.core c).groups = [] ∧ (t.core c).td.length = e.descs.length ∧
        (t.core c).csrReg 0x001 = w64 (s.moduleId * 2 ^ 16 + e.vcore) ∧ (t.core c).csrReg 0x002 = Run.info r' ∧
        (t.core c).csrReg 0x010 = w64 e.split ∧ (t.core c).csrReg 0x011 = w64 (98304 - 16384 * e.split) ∧
        (t.core c).csrReg 0x012 = w64 (im.steps * 32768) ∧ (t.core c).csrReg 0x018 = w64 e.cls ∧
        (t.core c).csrReg 0x019 = r.seed ^^^ (w64 (e.vcore + 1) * 0x9E3779B97F4A7C15))

/-- R466, R467: the stages of a power region's staging go up to 8; at the end of the last the shutters of the cores that staged are open. -/
def Claim.ShutterStages : Prop :=
  ∀ (s : State) (g n : Nat), Unit.powerRegion g = true → n = s.cfld (offRegionPwr g) 0 4 →
    (n = 0 → exec (.shutterStageEnd g) s = .next s) ∧
    (0 < n → n < 8 → ∃ t, exec (.shutterStageEnd g) s = .next t ∧ t.cfld (offRegionPwr g) 0 4 = n + 1 ∧
      t.cores = s.cores ∧ SameMemory s t ∧ t.host = s.host) ∧
    (n = 8 → (∀ e, e ∈ s.cores → powerRegionOf (clusterOf e.1) = g → e.2.running = true → e.2.staging = true ∨ e.2.shutterOpen = true) →
      ∃ t, exec (.shutterStageEnd g) s = .next t ∧ t.cfld (offRegionPwr g) 0 4 = 0 ∧ t.cfld (offRegionPwr g) 4 1 = 0 ∧
        (∀ c, powerRegionOf (clusterOf c) = g → (s.core c).staging = true →
          t.core c = { s.core c with staging := false, shutterOpen := true }) ∧
        (∀ c, powerRegionOf (clusterOf c) ≠ g ∨ (s.core c).staging = false → t.core c = s.core c) ∧ SameMemory s t ∧ t.host = s.host)

/-- R80, R277, R389: a run whose cores have all executed DONE, with every epoch resolved and every store done, completes with OK and the
bytes of its result, and its cores leave it, once the partitions of its result are awake (R476); one of whose cores trapped completes with the trap's status, and a stopped one completes with its status once its epochs are resolved; a HELD one
delivers its deferred result after the confirmation. -/
def Claim.RunCompletes : Prop :=
  ∀ (s : State) (id : Nat) (r : Run) (c : Cmd), s.run id = some r → s.cmd r.cmd = some c →
    (r.st = .running → r.status = none → s.allDone id = true → s.unresolved id = false → (s.coresOf id).all s.storesDone = true →
      (∀ st k, (s.nb st).cur = some k → k.run ≠ id) → (s.resultParts r).any s.asleep = false → ∀ bs, s.runResult r = .ok bs →
      ∃ u t, exec (.runCompletion id) s = .next t ∧ t = (State.complete u r.cmd 0x00 r.detail bs).purge ∧ u.cmds = s.cmds ∧ u.fns = s.fns ∧
        u.host = s.host ∧ (s.noLatent → SameMemory s u) ∧ u.run id = some { r with st := .ended } ∧
        (∀ x, x ∈ s.coresOf id → (u.core x).run = 0 ∧ (u.core x).running = false)) ∧
    (∀ status, r.st = .running → r.status = some status → s.unresolved id = false → s.resetHolds r = false →
      ∃ u t r', exec (.runCompletion id) s = .next t ∧ t = (State.complete u r.cmd status r.detail []).purge ∧ u.cmds = s.cmds ∧
        u.fns = s.fns ∧ u.host = s.host ∧ u.run id = some r' ∧ r'.st = .ended) ∧
    (r.st = .stopped → s.unresolved id = false → s.resetHolds r = false →
      ∃ u t, exec (.runCompletion id) s = .next t ∧
        t = (State.complete u r.cmd (r.status.getD 0x08) r.detail []).purge ∧ u.cmds = s.cmds ∧ u.fns = s.fns ∧ u.host = s.host ∧
        u.run id = some { r with st := .ended }) ∧
    (r.st = .held → s.confirmedAll id = true → (s.resultParts r).any s.asleep = true →
      ∃ t, exec (.runCompletion id) s = .next t ∧ t.runs = s.runs ∧ t.cmds = s.cmds ∧ t.host = s.host ∧
        ∀ p, p ∈ s.resultParts r → p < 8 → s.unusable p = false → s.pstate p = 2 → s.ptrans p = 0 → t.ptrans p = 3) ∧
    (r.st = .held → s.confirmedAll id = true → c.tookSlot = true → c.dead = false → (s.resultParts r).any s.asleep = false →
      ∀ bs, s.runResult r = .ok bs →
      ∃ t, exec (.runCompletion id) s = .next t ∧ t.cmd r.cmd = none ∧ t.host = s.host ∧ ((t.fn c.fn).slot c.slotIx).st = 2 ∧
        ((t.fn c.fn).slot c.slotIx).status = 0x00 ∧ ((t.fn c.fn).slot c.slotIx).payload = bs.take c.resultLen)

/-- R268, R277, R279, R389: a running run past its time limit stops with TIMEOUT, once no epoch of it is CONFIRMING, and a HELD run past its
hold limit aborts its HELD epochs with cause 0x0A. -/
def Claim.RunLimits : Prop :=
  ∀ (s : State) (id : Nat) (r : Run), s.run id = some r →
    (r.st = .running → s.confirmingOf id = true → ∃ t, exec (.runTimeLimit id) s = .next t ∧
      t.run id = some { r with due := if r.due = 0 then 0x0B else r.due } ∧ { t with runs := s.runs } = s) ∧
    (r.st = .running → s.confirmingOf id = false → s.unresolved id = false → r.status = none →
      ∃ t, exec (.runTimeLimit id) s = .next t ∧ t.run id = some { r with st := .stopped, status := some 0x0D } ∧
        (∀ c, c ∈ s.coresOf id → (t.core c).running = false ∧ (t.core c).mq = [] ∧ (t.core c).groups = [] ∧
          (t.core c).s = (s.core c).s) ∧ ((∀ st k, (s.nb st).cur = some k → k.run ≠ id) → SameMemory s t) ∧ t.cmds = s.cmds ∧
        t.host = s.host) ∧
    (∀ g, r.st = .held → s.groupsOf id = [g] → s.coresOf id = [] → (s.group g).st = .held →
      ∃ t, exec (.holdLimitExpiry id) s = .next t ∧ t.group g = { s.group g with st := .aborting, cause := 0x0A } ∧
        (∀ h, h ≠ g → t.group h = s.group h) ∧ t.cmds = s.cmds ∧ SameMemory s t ∧ t.host = s.host) ∧
    (r.st ≠ .running → exec (.runTimeLimit id) s = .next s) ∧ (r.st ≠ .held → exec (.holdLimitExpiry id) s = .next s)

/-- R278, R279, R390, R391: CONFIRM and ABORT_SPEC of a RUN_SPECULATIVE confirm or abort its epochs and wait for their end; CANCEL of a
command that can be cancelled stops it and completes after it; a tag that names no such command fails at 0x10. -/
def Claim.SpeculativeRequests : Prop :=
  ∀ (s : State) (id : Nat) (c : Cmd), c.started = false → c.unused [(0x10, 2)] = [] →
    (s.target c = none →
      (s.cmdFor id 0x22 = some c → exec (.confirm id) s = .next (s.complete id 0x03 0x10 [])) ∧
      (s.cmdFor id 0x23 = some c → exec (.abortSpec id) s = .next (s.complete id 0x03 0x10 [])) ∧
      (s.cmdFor id 0x24 = some c → exec (.cancel id) s = .next (s.complete id 0x03 0x10 []))) ∧
    (∀ x r, s.target c = some x → x.opcode = 0x21 → s.runOf x = some r → s.run r.id = some r → (r.st = .running ∨ r.st = .held) →
      r.abortCause = 0 →
      (s.cmdFor id 0x22 = some c → ∃ t, exec (.confirm id) s = .next t ∧ t.cmd id = some { c with started := true, amount := r.id + 1, steps := 0 } ∧
        (∀ g, g < 32 → t.group g = if g ∈ s.groupsOf r.id ∧ ((s.group g).st = .open_ ∨ (s.group g).st = .held)
          then { s.group g with st := .confirming } else s.group g) ∧
        t.cores = s.cores ∧ t.runs = s.runs ∧ SameMemory s t ∧ t.host = s.host) ∧
      (s.cmdFor id 0x23 = some c → r.st = .held → s.coresOf r.id = [] → s.liveGroups r.id ≠ [] →
        ∃ t, exec (.abortSpec id) s = .next t ∧ t.cmd id = some { c with started := true, amount := r.id + 1, steps := 1 } ∧
        (∀ g, g ∈ s.liveGroups r.id → t.group g = { s.group g with st := .aborting, cause := 2 }) ∧ SameMemory s t ∧ t.host = s.host)) ∧
    (∀ x, s.target c = some x → s.cmdFor id 0x24 = some c → opCancellable x.opcode = true → s.runOf x = none →
      ∃ u, exec (.cancel id) s = .next (State.complete (State.complete u x.id 0x08 0 []) id 0x00 1 []) ∧ u.cmds = s.cmds ∧ u.fns = s.fns) ∧
    (∀ x r, s.target c = some x → s.cmdFor id 0x24 = some c → opCancellable x.opcode = true → s.runOf x = some r →
      s.run r.id = some r → r.st = .running → s.confirmingOf r.id = false → s.unresolved r.id = false → r.status = none →
      (∀ st k, (s.nb st).cur = some k → k.run ≠ r.id) →
      ∃ t, exec (.cancel id) s = .next t ∧ t.cmd id = some { c with started := true, amount := r.id + 1, steps := 1 } ∧
        t.run r.id = some { r with st := .stopped, status := some 0x08 } ∧ (∀ k, k ∈ s.coresOf r.id → (t.core k).running = false) ∧
        SameMemory s t ∧ t.host = s.host)

/-- R364, R393, R394: COPY and FILL of which every byte left can be moved, where no line of a bay has copies elsewhere and none of the target
is being filled, give the target those bytes, of their source or of the pattern, change no other byte and complete with OK; one step of a command moves as many bytes as its amount says, short of the last. -/
def Claim.MemoryMoves : Prop :=
  ∀ (s : State) (id : Nat) (c : Cmd) (copy : Bool) (lo n : Nat) (bs : List Byte), s.cmdFor id (if copy then 0x30 else 0x31) = some c →
    (c.started = true ∨ (if copy then s.copyBad c else s.fillBad c) = []) → lo = c.amount → lo + n ≤ c.span →
    (s.moveParts c).any s.asleep = false → s.calm = true → s.moveWaits c lo n = false →
    (∀ e, e ∈ s.bays → ∀ l, l ∈ e.2.lines → l.otherTower = false ∧ l.modules = [] ∧ l.acks = 0) →
    (∀ i, lo ≤ i → i < c.span → s.moveStop c i = none ∧ ∀ a, a ∈ s.touches c i → s.backed a = true) →
    bs.length = n → (∀ i, i < n → bs.getD i 0 =
      if copy then (if c.at_ 0x10 1 = 1 then nget 0 s.mem (s.copySrc c 0 + lo + i) else nget 0 s.host (s.copySrc c 0 + lo + i))
      else BitVec.ofNat 8 (c.at_ 0x18 8 / 256 ^ ((c.at_ 0x20 8 + lo + i) % 8))) →
    ∀ (mem host : Nat → Byte),
      (mem = if copy = true ∧ c.at_ 0x11 1 ≠ 1 then nget 0 s.mem
             else laidOver (nget 0 s.mem) ((if copy then s.copyDst c 0 else s.fillDst c 0) + lo) bs) →
      (host = if copy = true ∧ c.at_ 0x11 1 ≠ 1 then laidOver (nget 0 s.host) (s.copyDst c 0 + lo) bs else nget 0 s.host) →
      (lo + n = c.span → ∃ u, exec (if copy then .copy id else .fill id) s = .next (State.complete u id 0x00 0 []) ∧
        (∀ a, nget 0 u.mem a = mem a) ∧ (∀ a, nget 0 u.host a = host a) ∧ u.cmds = s.cmds ∧ u.fns = s.fns ∧ u.cores = s.cores) ∧
      (lo + n < c.span → s.copyOverlaps c = false → c.opcode = (if copy then 0x30 else 0x31) →
        ∃ t, exec (.steppedCommandStep id n) s = .next t ∧ (∀ a, nget 0 t.mem a = mem a) ∧ (∀ a, nget 0 t.host a = host a) ∧
          t.cmd id = some { c with started := true, steps := c.steps + 1, amount := lo + n } ∧ t.fns = s.fns ∧ t.cores = s.cores)

/-- R395, R501: a SCRUB of backed sectors that are all clean finds none; of one sector with a correctable error it counts and names it. -/
def Claim.Scrubbing : Prop :=
  ∀ (s : State) (id : Nat) (c : Cmd) (a n : Nat), s.cmdFor id 0x32 = some c → a = c.at_ 0x18 8 → n = c.at_ 0x20 8 →
    c.unused [(0x18, 16)] = [] → a % 64 = 0 → n % 64 = 0 → n ≠ 0 → a + n ≤ hbmEnd → (partsOf [(a, n)]).any s.asleep = false →
    (∀ i, i < n / 64 → s.doorAt (a + 64 * i) = false ∧ s.backed (a + 64 * i) = true) →
    ((∀ i, i < n / 64 → rsDecode (chkErrors (s.sectorChk (a + 64 * i))) = .clean) →
      ∃ u, exec (.scrub id) s = .next (State.complete u id 0x00 0 (leBytes 8 0 ++ leBytes 8 0 ++ List.replicate 128 0xFF)) ∧
        u.cmds = s.cmds ∧ u.fns = s.fns ∧ u.host = s.host ∧ SameMemory s u) ∧
    (n = 64 → (∃ x y, rsDecode (chkErrors (s.sectorChk a)) = .corrected x y) →
      ∃ u, exec (.scrub id) s = .next (State.complete u id 0x00 0 (leBytes 8 1 ++ leBytes 8 0 ++ leBytes 8 a ++ List.replicate 120 0xFF)) ∧
        u.cmds = s.cmds ∧ u.fns = s.fns ∧ u.host = s.host)

/-- R231, R232, R396: a PIN whose lines are all present, backed, readable and within the cap pins every byte and is kept as a range of its function;
UNPIN removes the ranges of its function that lie within the range it names, and fails where there are none. -/
def Claim.Pins : Prop :=
  ∀ (s : State) (id : Nat) (c : Cmd) (kind obj off n : Nat), kind = c.at_ 0x10 1 → kind ≤ 1 → (kind = 1 → c.fn = 0) →
    s.pinRange c = ([], obj, off, n) →
    (s.cmdFor id 0x33 = some c → c.unused [(0x10, 3), (0x14, 20)] = [] → c.at_ 0x12 1 < 8 → (s.fn c.fn).pins.length < 64 →
      (partsOf [(off, n)]).any s.asleep = false → (kind = 1 ∨ s.regionMay c obj false = true) →
      (∀ ln, ln ∈ blocksOf 128 off n → s.doorAt ln = false ∧ ((s.bay (s.homeBay ln)).find ln).isSome = true ∧
        s.backed ln = true ∧ ((s.bay (s.homeBay ln)).lines.map fun l => l.line).Nodup ∧
        s.capUsed (s.homeBay ln) ln + (blocksOf 128 off n).length ≤ 12) →
      c.started = false → c.amount = 0 → (∀ p, p ∈ (s.fn c.fn).pins → p.cmd ≠ c.id + 1) →
      ∃ u r, exec (.pin id) s = .next (State.complete u id 0x00 (w64 n) []) ∧ (u.fn c.fn).pins = (s.fn c.fn).pins ++ [r] ∧
        r.kind = kind ∧ r.object = obj ∧ r.off = c.at_ 0x18 8 ∧ r.len = n ∧ r.lines.map (fun x => x.line) = blocksOf 128 off n ∧
        r.cmd = 0 ∧ (∀ g, g ≠ c.fn → u.fn g = s.fn g) ∧ { u with fns := s.fns, cmds := s.cmds } = s) ∧
    (s.cmdFor id 0x34 = some c → c.unused [(0x10, 2), (0x14, 20)] = [] →
      (∀ hit : PinRange → Bool, (∀ p, hit p = true ↔ p.kind = kind ∧ p.object = obj ∧ c.at_ 0x18 8 ≤ p.off ∧
          p.off + p.len ≤ c.at_ 0x18 8 + c.at_ 0x20 8) →
        ((s.fn c.fn).pins.any hit = true →
          ∃ u, exec (.unpin id) s = .next (State.complete u id 0x00 0 []) ∧
            (u.fn c.fn).pins = (s.fn c.fn).pins.filter (fun p => !hit p) ∧ (∀ g, g ≠ c.fn → u.fn g = s.fn g) ∧ { u with fns := s.fns } = s) ∧
        ((s.fn c.fn).pins.any hit = false → exec (.unpin id) s = .next (s.complete id 0x03 0x7FFFFFFFFFFFFFFF []))))

/-- R367, R392, R413: RESULT_RELEASE empties a READY slot, is BUSY for a FILLING one and fails at 0x10 for an EMPTY one; ECHO returns the 48
bytes of PARAMS. -/
def Claim.SlotsAndEcho : Prop :=
  ∀ (s : State) (id : Nat) (c : Cmd) (i : Nat),
    (s.cmdFor id 0x28 = some c → c.unused [(0x10, 1)] = [] → i = c.at_ 0x10 1 →
      (((s.fn c.fn).slot i).st = 2 → ∃ u, exec (.resultRelease id) s = .next (State.complete u id 0x00 0 []) ∧
        ((u.fn c.fn).slot i).st = 0 ∧ ((u.fn c.fn).slot i).payload = [] ∧ ((u.fn c.fn).slot i).seq = ((s.fn c.fn).slot i).seq ∧
        (∀ j, j ≠ i → (u.fn c.fn).slot j = (s.fn c.fn).slot j) ∧ { u with fns := s.fns } = s) ∧
      (((s.fn c.fn).slot i).st = 1 → exec (.resultRelease id) s = .next (s.complete id 0x04 0 [])) ∧
      (((s.fn c.fn).slot i).st = 0 → exec (.resultRelease id) s = .next (s.complete id 0x03 0x10 []))) ∧
    (s.cmdFor id 0xF0 = some c → exec (.echo id) s = .next (s.complete id 0x00 0 ((c.entry.drop 16).take 48)))

/-- R95, R401, R504, R505, R510: RESET_CORE, RESET_CLUSTER and the fabric monitor put the cores they name through a core reset; a run of one
of them stops with CANCELLED_BY_RESET. Behind closed doors the commands end with DOOR_CLOSED. -/
def Claim.CoreResets : Prop :=
  ∀ (s : State) (id : Nat) (c : Cmd) (im : Image) (k : Nat), (∀ g, (s.group g).st = .idle) → Unit.core k = true →
    (∀ cs r, (cs = [k] ∨ cs = (List.range 17).map fun i => 17 * clusterOf k + i) →
      (∀ x, x ∈ cs → (s.core x).run = 0 ∨ (s.core x).run = r + 1) → (∀ y, s.run r = some y → y.st = .running ∧ y.status = none) →
      (∀ st q, (s.nb st).cur = some q → q.run ≠ r) →
      (cs ≠ [k] → ∃ t, exec (.fabricMonitorExpiry (clusterOf k)) s = .next t ∧
        (∀ x, x ∈ cs → WasReset (s.core x) (t.core x)) ∧ SameMemory s t ∧ t.host = s.host ∧ t.cmds = s.cmds) ∧
      (s.img.image = some im → s.asleep (partOf k) = false → s.doorShut (partOf k) = false → c.unused [(0x10, 2)] = [] →
        (s.cmdFor id 0x50 = some c → cs = [k] → c.at_ 0x10 2 < im.vcores → s.placed (c.at_ 0x10 2) = some k →
          ∃ u, exec (.resetCore id) s = .next (State.complete u id 0x00 0 []) ∧ WasReset (s.core k) (u.core k) ∧
            (∀ y, s.run r = some y → (s.core k).run = r + 1 → (u.run r).map (fun z => (z.st, z.status)) = some (.stopped, some 0x09)) ∧
            SameMemory s u ∧ u.host = s.host ∧ u.cmds = s.cmds) ∧
        (s.cmdFor id 0x51 = some c → cs ≠ [k] → c.at_ 0x10 2 < 1280 → s.placed (16 * c.at_ 0x10 2) = some k →
          (∀ x, x ∈ cs → partOf x = partOf k) →
          ∃ u, exec (.resetCluster id) s = .next (State.complete u id 0x00 0 []) ∧ (∀ x, x ∈ cs → WasReset (s.core x) (u.core x)) ∧
            SameMemory s u ∧ u.host = s.host ∧ u.cmds = s.cmds))) ∧
    (s.img.image = some im → s.doorShut (partOf k) = true → c.unused [(0x10, 2)] = [] → s.cmdFor id 0x50 = some c →
      c.at_ 0x10 2 < im.vcores → s.placed (c.at_ 0x10 2) = some k → exec (.resetCore id) s = .next (s.complete id 0x0F 0 []))

/-- R340, R401, R506, R508, R509: RESET_PARTITION drains the partition's doors, which absorb once drained; a bay that will not drain is reset
with its cores' stores dropped; at the end the partition's cores are reset with what they held, its doors are open, and the command
completes. -/
def Claim.PartitionResets : Prop :=
  ∀ (s : State) (p : Nat) (x : Part), Unit.part p = true → x = s.part p →
    (∀ (id : Nat) (c : Cmd), s.cmdFor id 0x52 = some c → c.started = false → c.unused [(0x10, 2)] = [] → c.at_ 0x10 1 = p → c.at_ 0x11 1 ≤ 1 →
      (x.resetting = true → exec (.resetPartition id) s = .next (s.complete id 0x04 0 [])) ∧
      (x.resetting = false → s.unusable p = false → s.asleep p = false →
        ∃ t, exec (.resetPartition id) s = .next t ∧ (t.part p).door = .draining ∧ (t.part p).resetting = true ∧ (t.part p).reason = 1 ∧
          (t.part p).noDump = (c.at_ 0x11 1 == 1) ∧ (t.part p).resetCmd = id + 1 ∧ t.cfld (offRegMode p) 4 1 = 1 ∧
          t.cmd id = some { c with started := true } ∧ (∀ q, q ≠ p → t.part q = s.part q) ∧ t.host = s.host ∧
          ((∀ st, (s.nb st).cur = none) → SameMemory s t))) ∧
    (x.door = .draining → (∀ g, g ∈ s.groupsOn p → (s.group g).st ≠ .confirming) →
      ∃ t, exec (.doorDrainEnd p) s = .next t ∧ t.part p = { x with door := .absorbing } ∧ { t with parts := s.parts } = s) ∧
    (x.door ≠ .draining → exec (.doorDrainEnd p) s = .next s) ∧
    (∀ n, Unit.cluster n = true → partOfCluster n = p → x.resetting = true → x.door = .absorbing → n ∉ x.forced → (s.bay n).miss = [] →
      ∃ t, exec (.forcedBayReset n) s = .next t ∧ t.bay n = { gen := (s.bay n).gen + 1 } ∧ (t.part p).forced = x.forced ++ [n] ∧
        (∀ i, i < 17 → (t.core (17 * n + i)).stores = [] ∧ (t.core (17 * n + i)).s = (s.core (17 * n + i)).s) ∧ t.host = s.host) ∧
    (x.resetting = true → x.door = .absorbing →
      (x.resetCmd = 0 → ∃ t, exec (.partitionResetDone p []) s = .next t ∧ (t.part p).door = .open_ ∧ (t.part p).resetting = false ∧
        t.cfld (offRegMode p) 4 1 = 0 ∧
        (∀ c, c ∈ coresOfPart p → (t.core c).running = false ∧ (t.core c).pc = 0 ∧ (t.core c).s = [] ∧ (t.core c).spad = [] ∧
          (t.core c).epoch = 0)) ∧
      (∀ c : Cmd, s.cmd c.id = some c → x.resetCmd = c.id + 1 →
        ∃ u, exec (.partitionResetDone p []) s = .next (State.complete u c.id (if u.lcores p < s.lcores p then 0x0A else 0x00) 0 []) ∧
          (u.part p).door = .open_ ∧ (u.part p).resetting = false))

/-- R401, R510, R511, R512: a partition controller that misses its third heartbeat in a row, or does not serve its doors, has its partition
reset and the board alerted; a stepped command that makes no progress ends with TIMEOUT; the restart of the module controller ends the
stepped commands that had begun, but for shared-state commands, and drops the queue of attestations. -/
def Claim.ProgressMonitors : Prop :=
  ∀ (s : State) (p : Nat) (x : Part), Unit.part p = true → x = s.part p → s.unusable p = false → x.resetting = false →
    (x.misses < 2 → ∃ t, exec (.heartbeatMiss p) s = .next t ∧ t.part p = { x with misses := x.misses + 1 } ∧ { t with parts := s.parts } = s) ∧
    (2 ≤ x.misses → ∃ t, exec (.heartbeatMiss p) s = .next t ∧ (t.part p).door = .draining ∧ (t.part p).resetting = true ∧
      (t.part p).reason = 3 ∧ (t.part p).misses = 0 ∧ t.power.alertN = true ∧ ((∀ st, (s.nb st).cur = none) → SameMemory s t)) ∧
    (∀ ch inbound, ch < 4 → s.cfld (offPwr p) 8 4 ≠ 3 →
      (∃ t, exec (.doorProgressMonitor p ch inbound true) s = .next t ∧ (t.part p).door = .draining ∧ (t.part p).resetting = true ∧
        (t.part p).reason = 2 ∧ t.power.alertN = true ∧ ((∀ st, (s.nb st).cur = none) → SameMemory s t)) ∧
      (∃ t, exec (.doorProgressMonitor p ch inbound false) s = .next t ∧ t.mc.alerts = s.mc.alerts ||| 4 ∧ t.power.alertN = true ∧
        { t with mc := s.mc, power := s.power } = s)) ∧
    (∀ c : Cmd, s.cmd c.id = some c → c.began = true → s.mayBegin c = true →
      (c.opcode ≠ 0x52 → ∃ u, exec (.stepMonitorExpiry c.id) s = .next (State.complete u c.id 0x0D 0 []) ∧ u.cmds = s.cmds ∧ u.fns = s.fns) ∧
      (c.opcode = 0x52 → exec (.stepMonitorExpiry c.id) s = .next (s.complete c.id 0x0D 0 []))) ∧
    (∃ t, exec .mcWatchdogExpiry s = .next t ∧ t.sec.attq = [] ∧ t.sec.signing = none ∧ t.cores = s.cores ∧ t.runs = s.runs ∧
      ((s.cmds.map fun (c : Cmd) => c.id).Nodup → ∀ c : Cmd, s.cmd c.id = some c → (opShared c.opcode = true → t.cmd c.id = some c) ∧
        (opShared c.opcode = false → c.began = true → c.opcode ≠ 0x70 → t.cmd c.id = none)))

/-- R403: COLLECT_DUMP returns a partition's dump from the offset on, with its length; a partition that holds none fails. -/
def Claim.Dumps : Prop :=
  ∀ (s : State) (id : Nat) (c : Cmd), s.cmdFor id 0x54 = some c → c.unused [(0x10, 1), (0x18, 8)] = [] → c.at_ 0x10 1 < 8 →
    (∀ d, (s.part (c.at_ 0x10 1)).dump = some d →
      exec (.collectDump id) s = .next (s.complete id 0x00 (w64 d.length) (d.drop (c.at_ 0x18 8)))) ∧
    ((s.part (c.at_ 0x10 1)).dump = none → exec (.collectDump id) s = .next (s.complete id 0x03 0x7FFFFFFFFFFFFFFF []))

/-- R229, R340, R342, R343, R344, R397, R398: SET_CLASS_TABLE stores each class's minimum, target and cache policy and applies the minimums,
scaled where they ask for more than nine tenths of what the partition delivers; SET_REGULATION_MODE stores the mode; the quotas
follow the applied minimums, and a louvre takes mode and levels at the end of its window. -/
def Claim.Regulation : Prop :=
  ∀ (s : State) (id : Nat) (c : Cmd),
    (∀ bs, s.cmdFor id 0x40 = some c → c.unused [(0x10, 1), (0x18, 8)] = [] → c.at_ 0x10 1 ≠ 0 → s.hostRead (c.at_ 0x18 8) 80 = some bs →
      classTableBad bs = [] →
      ∃ u st detail, exec (.setClassTable id) s = .next (State.complete u id st detail []) ∧ (st = 0x00 ∨ st = 0x07) ∧
        { u with ctl := s.ctl } = s ∧
        ∀ p sum d, p < 8 → sum = ((List.range 8).map fun k => leAt bs (8 * k) 2).sum → d = s.cfld (offRegMode p) 32 16 →
          (detail.getLsbD p = true ↔ (c.at_ 0x10 1).testBit p = true ∧ 9 * d < 10 * sum) ∧
          ((c.at_ 0x10 1).testBit p = true → (9 * d < 10 * sum → st = 0x07) ∧ u.creg (offRemote p) = w64 (leAt bs 0x40 2) ∧
            ∀ k, k < 8 → u.cfld (offClass p k) 32 16 = leAt bs (8 * k) 2 ∧ u.cfld (offClass p k) 0 16 = leAt bs (8 * k + 2) 2 ∧
              u.creg (offCache p k) = w64 (leAt bs (8 * k + 4) 2) ∧
              u.cfld (offClass p k) 16 16 = (if 9 * d < 10 * sum then leAt bs (8 * k) 2 * 9 * d / (10 * sum) else leAt bs (8 * k) 2)) ∧
          ((c.at_ 0x10 1).testBit p = false → ∀ k, k < 8 → u.creg (offClass p k) = s.creg (offClass p k) ∧
            u.creg (offCache p k) = s.creg (offCache p k))) ∧
    (s.cmdFor id 0x41 = some c → c.unused [(0x10, 2)] = [] → c.at_ 0x11 1 ≤ 1 →
      ∃ u, exec (.setRegulationMode id) s = .next (State.complete u id 0x00 0 []) ∧ { u with ctl := s.ctl, ctr := s.ctr } = s ∧
        ∀ p, p < 8 → u.cfld (offRegMode p) 0 2 = if (c.at_ 0x10 1).testBit p then c.at_ 0x11 1 else s.cfld (offRegMode p) 0 2) ∧
    (∀ p, Unit.part p = true → (s.regMode p = 0 → exec (.quotaUpdate p) s = .next s) ∧
      (s.regMode p = 1 → ∃ t, exec (.quotaUpdate p) s = .next t ∧ { t with quotas := s.quotas, free := s.free } = s ∧
        ∀ k, k < 8 → ∃ n, 0 < n ∧ n ≤ s.louvresOf p ∧ ∀ dom, dom < 3 →
          nget 0 t.quotas (p * 64 + dom * 16 + k) = quotaOf (s.cfld (offClass p k) 16 16) dom n)) ∧
    (∀ l x, l < 45729 → x = s.louvre l → ∃ t, exec (.louvreWindowEnd l) s = .next t ∧ (t.louvre l).mode = s.regMode (louvrePart l) ∧
      (x.mode ≠ 0 → (t.louvre l).level = x.level) ∧ (∀ j, j ≠ l → t.louvre j = s.louvre j) ∧
      (x.mode = 0 → ∀ k, k < 8 → ∀ target, target = s.cfld (offClass (louvrePart l) k) 0 16 →
        (target = 0 → nget 0 (t.louvre l).level k = 0) ∧
        (target ≠ 0 → nget 0 (t.louvre l).level k = nget 0 x.level k ∨ ∃ lat, nget 0 (t.louvre l).level k = min 7 (8 * lat / target))) ∧
      { t with louvres := s.louvres, free := s.free, ctr := s.ctr } = s)

/-- R459, R460, R461: a telemetry sample turns off the cells of a region that it shows failed; the region's tier is their number, up to 3, and
its limit follows. Without a failed cell nothing changes, and a region of tier 3 is dark: its shutters are closed. -/
def Claim.RegulatorCells : Prop :=
  ∀ (s : State) (g : Nat) (cells : List CellReading) (o old new mask : Nat), Unit.powerRegion g = true → s.power.rails = true →
    o = offRegionPwr g → old = s.cfld o 16 4 → s.tier g = cellCount old → cellCount old < 3 →
    new = (((List.range 4).filter fun k => (cells[k]?).any fun r => r.low || r.broken || decide (r.efficiency < 85)).map fun k => 2 ^ k).sum →
    mask = old ||| new →
    (mask = old → exec (.cellTelemetrySample g cells) s = .next s) ∧
    (mask ≠ old → (cellCount mask < 3 ∨ s.lpartOn (partOfCluster ((clustersOfRegion g).headD 0)) = none ∧ s.resetWaits (coresOfRegion g) = false) →
      ∃ t, exec (.cellTelemetrySample g cells) s = .next t ∧ t.cfld o 16 4 = mask ∧ t.cfld o 8 2 = min (cellCount mask) 3 ∧
        t.cfld o 24 8 = min (min (if cellCount mask = 0 then 200 else if cellCount mask = 1 then 140 else if cellCount mask = 2 then 100 else 0)
          (s.share g)) (s.tnode g).limit % 256 ∧
        (cellCount mask < 2 → t.cores = s.cores ∧ SameMemory s t) ∧
        (2 ≤ cellCount mask → ∃ d, d ∈ t.mc.defects ∧ d.kind = 4 ∧ d.number = g) ∧
        (3 ≤ cellCount mask → ∀ c, c ∈ coresOfRegion g → (t.core c).shutterOpen = false ∧ (t.core c).running = false))

/-- R462: a limiter sample above 95% of the region's limit withholds the clock of one more running core, one below 90% gives one back, and
between them nothing changes but the current shown. -/
def Claim.RegionLimiter : Prop :=
  ∀ (s : State) (g cur : Nat) (may : Nat → Prop), Unit.powerRegion g = true → s.power.rails = true →
    (may = fun c => c ∈ coresOfRegion g ∧
      (95 * s.limitOf g < 100 * cur ∧ (s.core c).running = true ∧ (s.core c).withheld = false ∨
       100 * cur < 90 * s.limitOf g ∧ ¬ 95 * s.limitOf g < 100 * cur ∧ (s.core c).withheld = true)) →
    ∃ t, exec (.limiterSample g cur) s = .next t ∧ t.cfld (offRegionPwr g) 32 8 = min cur 255 ∧
      ((∃ c, may c) → ∃ c, may c ∧ t.core c = { s.core c with withheld := !(s.core c).withheld } ∧ ∀ x, x ≠ c → t.core x = s.core x) ∧
      ((∀ c, ¬ may c) → ∀ x, t.core x = s.core x) ∧ { t with cores := s.cores, ctl := s.ctl, free := s.free } = s

/-- R463, R464, R465, R468: a governor sample stores the power of its tower and lowers the shares of its regions when the tower is above its
cap, none below 8 A, and raises them when it is below; a boost in an open window raises the cap; the window's close ends the boosts;
the first bus converter to fail lowers both caps by 150, and a second takes the rails down. -/
def Claim.TowerGovernor : Prop :=
  ∀ (s : State) (tw pw input : Nat) (boost : Bool), Unit.tower tw = true → s.power.rails = true →
    (∃ t cap, exec (.governorSample tw pw input boost) s = .next t ∧
      cap = t.cfld (offTower tw) 24 12 + (if t.cfld (offTower tw) 1 1 = 1 then 250 else 0) ∧
      t.cfld (offTower tw) 36 12 = min pw 4095 ∧ t.cfld offSupply 16 16 = min input 65535 ∧
      t.cfld (offTower tw) 24 12 = s.cfld (offTower tw) 24 12 ∧ (boost = false → t.cfld (offTower tw) 1 1 = 0) ∧
      (boost = true → s.power.boostOpen = true → s.towerHot tw = false → t.cfld (offTower tw) 1 1 = 1) ∧
      (∀ g, g / 168 = tw → (cap < pw → t.share g ≤ s.share g ∧ min (s.share g) 80 ≤ t.share g) ∧
        (pw < cap → s.share g ≤ t.share g ∧ t.share g ≤ max (s.share g) 200) ∧ (pw = cap → t.share g = s.share g)) ∧
      (∀ g, g / 168 ≠ tw → t.share g = s.share g) ∧ { t with ctl := s.ctl, power := s.power, free := s.free } = s) ∧
    (s.power.boostOpen = true → ∃ t, exec .boostWindowClose s = .next t ∧ t.power.boostOpen = false ∧ t.power.sinceClose = 0 ∧
      (∀ x, x < 2 → t.cfld (offTower x) 1 1 = 0 ∧ t.cfld (offTower x) 24 12 = s.cfld (offTower x) 24 12) ∧
      { t with ctl := s.ctl, power := s.power } = s) ∧
    (s.power.boostOpen = false → exec .boostWindowClose s = .next s) ∧
    (∀ k, k < 4 → s.cfld offSupply (4 + k) 1 = 1 →
      (s.cfld offSupply 4 4 = 15 → ∃ t, exec (.busConverterFailure k) s = .next t ∧ t.cfld offSupply (4 + k) 1 = 0 ∧
        (∀ x, x < 2 → t.cfld (offTower x) 24 12 = s.cfld (offTower x) 24 12 - 150) ∧ t.mc.alerts = s.mc.alerts ||| 32 ∧
        t.power.alertN = true ∧ { t with ctl := s.ctl, mc := s.mc, power := s.power } = s) ∧
      (s.cfld offSupply 4 4 ≠ 15 → ∃ t, exec (.busConverterFailure k) s = .next t ∧ t.power.faultN = true ∧ t.power.epReady = false ∧
        t.power.descent = max 2 s.power.descent ∧ t.runs = [] ∧ t.cmds = [] ∧ t.host = s.host))

/-- R436, R437, R443, R490: with VSTBY up the module controller loads its firmware and asserts MAIN_EN at stage 1; without a good slot
bring-up halts with fault 1, and after a trip that is not cleared the module stays BOLTED. Timeouts halt it with fault 2. -/
def Claim.BringupStart : Prop :=
  ∀ (s : State) (slot : Nat) (pair a b : Bool),
    (s.power.vstby = false → s.power.descent = 0 → s.power.rails = false →
      (s.therm.tripped = true → ∃ t, exec (.vstbyUp slot pair a b) s = .next t ∧ t.power.bolted = true ∧ t.power.thermtripN = true ∧
        t.power.mainEn = false ∧ t.power.vstby = true ∧ { t with power := s.power } = s) ∧
      (s.therm.tripped = false → ∀ cur, cur = nget 0 s.sec.active 1 → cur < 2 →
        ((s.slotOk 1 cur = true ∧ (if cur = 0 then a else b) = true ∨ s.slotOk 1 (1 - cur) = true ∧ (if 1 - cur = 0 then a else b) = true) →
          ∃ t, exec (.vstbyUp slot pair a b) s = .next t ∧ t.stage = 1 ∧ t.power.mainEn = true ∧ t.power.bolted = false ∧
            t.power.vstby = true ∧ t.power.slotId = slot ∧ t.power.pairPresent = pair ∧ t.host = s.host) ∧
        (¬(s.slotOk 1 cur = true ∧ (if cur = 0 then a else b) = true ∨ s.slotOk 1 (1 - cur) = true ∧ (if 1 - cur = 0 then a else b) = true) →
          ∃ t, exec (.vstbyUp slot pair a b) s = .next t ∧ t.stage = 7 ∧ t.cfld offBringup 8 4 = 1 ∧ t.power.mainEn = false ∧
            t.power.faultN = true ∧ t.host = s.host))) ∧
    (s.stage = 1 → s.power.mainEn = true → s.power.descent = 0 → s.power.rails = false →
      (∃ t, exec .mainPgTimeout s = .next t ∧ t.stage = 7 ∧ t.cfld offBringup 8 4 = 2 ∧ t.power.mainEn = false ∧ t.power.faultN = true ∧
        t.cores = s.cores ∧ SameMemory s t) ∧
      (∃ t, exec .railStartTimeout s = .next t ∧ t.stage = 7 ∧ t.cfld offBringup 8 4 = 2 ∧ t.power.descent = 1 ∧ t.power.after = 3 ∧
        t.power.faultN = true))

/-- R421, R422, R436, R438 to R442, R450: the stages of bring-up follow one another: MAIN_PG brings the rails, the usable partitions and the
endpoint in vestibule mode; stage 3 leaves device memory zero and the channels of good stacks in service; stage 4 lets the ports train;
after stage 5 the usable partitions stand in AJAR and the module is in service. -/
def Claim.BringupStages : Prop :=
  ∀ (s : State),
    (∀ (bad : List Nat) (ringOk phyOk : Bool), s.stage = 1 → s.power.mainEn = true → s.power.descent = 0 → s.power.viob = true →
      (∀ k, k = 2 ∨ k = 4 → nget 0 s.sec.active k < 2 ∧ s.slotOk k (nget 0 s.sec.active k) = true) →
      (ringOk = true → phyOk = true → ∃ t, exec (.mainPgAssert bad ringOk phyOk []) s = .next t ∧ t.stage = 3 ∧ t.power.rails = true ∧ t.power.epReady = true ∧
        t.pcie.vestibule = true ∧ (∀ p, p < 8 → (t.unusable p = true ↔ p ∈ bad)) ∧ t.cfld offSupply 0 1 = 1 ∧
        4800 ≤ t.cfld offSupply 32 16 ∧ t.cfld offSupply 32 16 ≤ 5400) ∧
      (ringOk = false ∨ phyOk = false → ∃ t, exec (.mainPgAssert bad ringOk phyOk []) s = .next t ∧ t.stage = 7 ∧
        t.cfld offBringup 8 4 = (if ringOk = true then 4 else 3) ∧ t.power.faultN = true ∧
        t.power.descent = 1 ∧ t.power.after = 3)) ∧
    (∀ fs, s.stage = 3 → ∃ t, exec (.bringupStage3 fs) s = .next t ∧ t.stage = 4 ∧ t.mem = [] ∧ t.chk = [] ∧
      (fs = [] → s.mc.defects = [] → ∀ p ch, p < 8 → s.unusable p = false → ch < 32 →
        t.cfld (offChan (2 * p) ch) 0 2 = 1 ∧ t.cfld (offChan (2 * p + 1) ch) 0 2 = 1 ∧ t.unusable p = false)) ∧
    (∀ fs, s.stage = 4 → ∃ t, exec (.bringupStage4 fs) s = .next t ∧ t.stage = 5 ∧
      (fs = [] → s.mc.defects = [] → nget 0 s.sec.active 5 < 2 → s.slotOk 5 (nget 0 s.sec.active 5) = true →
        ∀ i, i < 16 → t.cfld (offPort i) 0 3 = 1 ∧ t.cfld (offPort i) 8 4 = 0)) ∧
    (s.stage = 5 → s.power.tested = false → ∃ t, exec (.bringupStage5 []) s = .next t ∧ t.power.tested = true ∧ { t with power := s.power } = s) ∧
    (s.stage = 5 → s.power.tested = true → ∃ t, exec .bringupComplete s = .next t ∧ t.stage = 6 ∧ t.pcie.vestibule = false ∧
      (∀ p, p < 8 → s.unusable p = false → t.pstate p = 1 ∧ ∀ n, n ∈ clustersOfPart p → nget false t.mc.gated n = true) ∧
      (s.usableParts ≠ [] → t.cfld offPwrModule 0 2 = 1) ∧ SameMemory s t ∧ t.cores = s.cores)

/-- R28, R454, R458: a supply fault takes the rails down fast, asserts FAULT_N and ends every command and run without a completion, and
halts a bring-up with fault 2; a dip and a VMAIN that is not removed are logged only; the loss of VSTBY takes the rails down, or with no
VMAIN everything that the module holds in volatile memory. What is lost with the rails leaves the cores a generation on (the
model's reading of R502, log entry 174). -/
def Claim.SupplyEvents : Prop :=
  ∀ (s : State) (down : State → Nat → Prop),
    (down = fun t n => t.power.descent = max n s.power.descent ∧ t.power.epReady = false ∧ t.cmds = [] ∧ t.runs = [] ∧ t.host = s.host ∧
      SameMemory s t ∧ (∀ c, (t.core c).running = false) ∧ ∀ f, (s.fn f).enabled = true → (t.fn f).st = .disabled) →
    (s.power.viob = true → s.power.mainPg = true → s.power.mainEn = true → ∃ t, exec .mainPgDeassert s = .next t ∧ down t 2 ∧
      t.power.mainPg = false ∧ t.power.faultN = true ∧ (s.stage < 6 → t.stage = 7 ∧ t.cfld offBringup 8 4 = 2) ∧ (6 ≤ s.stage → t.stage = s.stage)) ∧
    (s.power.vmain = true → s.power.mainEn = true → ∃ t, exec .vmainFault s = .next t ∧ down t 2 ∧ t.power.faultN = true ∧
      (s.stage < 6 → t.stage = 7 ∧ t.cfld offBringup 8 4 = 2)) ∧
    (s.power.vmain = true → ∃ t, exec .vmainDip s = .next t ∧ t.mc.eventSeq = s.mc.eventSeq + 1 ∧ { t with mc := s.mc } = s) ∧
    (s.power.mainEn = false → ∃ t, exec .vmainNotRemoved s = .next t ∧ t.mc.eventSeq = s.mc.eventSeq + 1 ∧ { t with mc := s.mc } = s) ∧
    (s.power.vstby = true → s.power.vmain = true → ∃ t, exec .vstbyLoss s = .next t ∧ down t 1 ∧ t.power.vstby = false ∧ t.mc.uptime = 0) ∧
    (s.power.vstby = true → s.power.vmain = false → ∃ t, exec .vstbyAbsent s = .next t ∧ t.power.vstby = false ∧ t.power.mainEn = false ∧
      t.power.rails = false ∧ t.mem = [] ∧ t.regions = [] ∧ t.mc.uptime = 0 ∧
      (∀ c, ∃ gen, t.core c = { gen := gen }) ∧ (∀ b, ∃ gen, t.bay b = { gen := gen }) ∧
      ((s.cores.map fun (e : Nat × Core) => e.1).Nodup → ∀ c, t.coreGen c = s.coreGen c + 1) ∧ t.host = s.host) ∧
    (∃ t, exec .viobLoss s = .next t ∧ t.power.viob = false ∧ t.mc.eventSeq = s.mc.eventSeq + 1 ∧ { t with power := s.power, mc := s.mc } = s) ∧
    (∃ t, exec .viobReturn s = .next t ∧ t.power.viob = true ∧ { t with power := s.power } = s)

/-- R402, R451, R458: RESET_MODULE completes and asks for a module reset; at its start every command and run ends and the rails go down; once
they are down everything volatile is lost and bring-up starts again at stage 1, or the module is BOLTED where no reset asked for it. The cores are then a generation on (the model's reading of R502, log entry 174). -/
def Claim.ModuleReset : Prop :=
  ∀ (s : State),
    (∀ (id : Nat) (c : Cmd) (u : State), s.cmdFor id 0x53 = some c → c.unused [(0x10, 1)] = [] → c.at_ 0x10 1 ≤ 1 → u = s.complete id 0x00 0 [] →
      exec (.resetModule id) s = .next { u with power := { u.power with resetPending := some (c.at_ 0x10 1 == 1) } }) ∧
    (∀ q, s.power.resetPending = some q → s.power.rails = true → ∃ t, exec .moduleResetStart s = .next t ∧ t.power.epReady = false ∧
      t.power.descent = max 1 s.power.descent ∧ t.power.after = 1 ∧ t.power.resetPending = some q ∧ t.cmds = [] ∧ t.runs = [] ∧
      t.host = s.host ∧ SameMemory s t) ∧
    (s.power.resetPending = none → exec .moduleResetStart s = .next s) ∧
    (s.power.descent = 0 → exec .railsDownDone s = .next s) ∧
    (s.power.descent ≠ 0 →
      (s.power.after = 1 → nget 0 s.sec.active 1 < 2 → s.slotOk 1 (nget 0 s.sec.active 1) = true →
        ∃ t, exec .railsDownDone s = .next t ∧ t.stage = 1 ∧ t.power.rails = false ∧ t.power.mainEn = true ∧ t.power.descent = 0 ∧
          t.mem = [] ∧ t.cmds = [] ∧ t.runs = [] ∧ t.regions = [] ∧ t.img.image = none ∧ t.host = s.host) ∧
      (s.power.after = 0 → s.power.vstby = true →
        ∃ t, exec .railsDownDone s = .next t ∧ t.power.bolted = true ∧ t.power.rails = false ∧ t.power.mainEn = false ∧ t.power.descent = 0 ∧
          t.mem = [] ∧ t.regions = [] ∧ t.img.image = none ∧ t.host = s.host ∧
          (∀ c, ∃ gen, t.core c = { gen := gen }) ∧ (∀ b, ∃ gen, t.bay b = { gen := gen }) ∧
          ((s.cores.map fun (e : Nat × Core) => e.1).Nodup → ∀ c, t.coreGen c = s.coreGen c + 1)))

/-- R469, R470, R473, R478, R479, R480: a partition whose entry to AJAR or SHUT ends is in that state with its clocks stopped, and wakes after it
where a wake had arrived; in SHUT its cores lose their registers and keep their scratchpads; a wake ends in the state it was for. The
idle limits begin entries where nothing refuses. -/
def Claim.PartitionPower : Prop :=
  ∀ (s : State) (p : Nat), Unit.part p = true →
    (s.ptrans p = 1 → ∃ t, exec (.ajarEntryDone p) s = .next t ∧ t.pstate p = 1 ∧ t.ptrans p = (if (s.part p).wakeAfter then 3 else 0) ∧
      (∀ n, n ∈ clustersOfPart p → nget false t.mc.gated n = true) ∧ t.cores = s.cores ∧ t.bays = s.bays ∧ SameMemory s t) ∧
    (s.ptrans p ≠ 1 → exec (.ajarEntryDone p) s = .next s) ∧
    (s.ptrans p = 2 → ∃ t, exec (.shutEntryDone p) s = .next t ∧ t.pstate p = 2 ∧ t.ptrans p = (if (s.part p).wakeAfter then 3 else 0) ∧
      (∀ n, n ∈ clustersOfPart p → nget false t.mc.gated n = true) ∧
      (∀ c, partOf c = p → (t.core c).s = [] ∧ (t.core c).v = [] ∧ (t.core c).acc = [] ∧ (t.core c).shutterOpen = false ∧
        (t.core c).spad = (s.core c).spad ∧ (t.core c).csr = (s.core c).csr) ∧
      (∀ c, partOf c ≠ p → t.core c = s.core c) ∧
      ((∀ e, e ∈ s.bays → ∀ l, l ∈ e.2.lines → l.kind ≠ .home → l.dirty = false) → SameMemory s t)) ∧
    (s.ptrans p ≠ 2 → exec (.shutEntryDone p) s = .next s) ∧
    (s.ptrans p = 3 → (s.part p).wakeTo < 3 → ∃ t, exec (.wakeDone p) s = .next t ∧ t.pstate p = (s.part p).wakeTo ∧ t.ptrans p = 0 ∧
      ((s.part p).wakeTo = 0 → ∀ n, n ∈ clustersOfPart p → nget false t.mc.gated n = false) ∧
      (∀ c, (t.core c).spad = (s.core c).spad ∧ (t.core c).s = (s.core c).s) ∧ SameMemory s t) ∧
    (s.ptrans p ≠ 3 → exec (.wakeDone p) s = .next s) ∧
    (s.idlePeriod p = true →
      (s.pstate p = 0 → (s.part p).ajarIdle ≠ 0 → ∃ t, exec (.ajarIdleExpiry p) s = .next t ∧ t.ptrans p = 1 ∧ t.pstate p = 0 ∧
        (∀ q, q < 8 → q ≠ p → t.ptrans q = s.ptrans q) ∧ { t with ctl := s.ctl, parts := s.parts } = s) ∧
      (s.pstate p ≠ 2 → (s.part p).shutIdle ≠ 0 →
        (s.refuser p 2 = none → ∃ t, exec (.shutIdleExpiry p) s = .next t ∧ t.ptrans p = 2 ∧ t.pstate p = s.pstate p ∧
          { t with ctl := s.ctl, parts := s.parts } = s) ∧
        (∀ code, s.refuser p 2 = some code → ∃ t, exec (.shutIdleExpiry p) s = .next t ∧ t.ptrans p = s.ptrans p ∧
          t.cfld (offPwr p) 16 8 = code ∧ { t with ctl := s.ctl } = s)))

/-- R399, R400, R471, R473 to R476: POWER_STATE begins the entries or wakes of its partitions and waits for them, refuses with BUSY and the
code of the first refuser, or leaves service for BOLTED; POWER_POLICY stores the idle limits; the link enters L1 once every partition
is SHUT, and a packet in L1 wakes the module. -/
def Claim.PowerCommands : Prop :=
  ∀ (s : State) (id : Nat) (c : Cmd) (ps : List Nat) (target : Nat),
    (s.cmdFor id 0x48 = some c → c.started = false → c.unused [(0x10, 3)] = [] → c.at_ 0x10 1 ≤ 1 → (c.at_ 0x10 1 = 0 → c.at_ 0x11 1 = 0) →
      target = c.at_ 0x12 1 → (target < 3 ∨ target = 3 ∧ c.at_ 0x10 1 = 0) →
      ps = (s.usableParts.filter fun p => decide (c.at_ 0x10 1 = 0) || (c.at_ 0x11 1).testBit p) → (∀ p, p ∈ ps → s.ptrans p = 0) →
      (target = 0 → (∃ p, p ∈ ps ∧ s.pstate p ≠ 0) →
        ∃ t, exec (.powerState id) s = .next t ∧ (t.cmd id).map (fun x => x.started) = some true ∧
          (∀ p, p ∈ ps → t.ptrans p = if s.pstate p = 0 then 0 else 3) ∧ (∀ p, p ∈ ps → s.pstate p ≠ 0 → (t.part p).wakeTo = 0) ∧
          { t with ctl := s.ctl, parts := s.parts, cmds := s.cmds, pcie := s.pcie } = s) ∧
      (target = 0 → (∀ p, p ∈ ps → s.pstate p = 0) → exec (.powerState id) s = .next (s.complete id 0x00 0 [])) ∧
      (0 < target → ∀ p code, p < 8 → s.firstRefusal (ps.filter fun p => decide (s.pstate p < target)) target
          (decide (c.at_ 0x10 1 = 0) && decide (2 ≤ target)) = some (p, code) →
        (target = 3 → ∀ q, q ∈ ps → s.pstate q < 3) →
        ∃ u, exec (.powerState id) s = .next (State.complete u id 0x04 (w64 (code * 256 + p)) []) ∧ u.cfld (offPwr p) 16 8 = code % 256 ∧
          { u with ctl := s.ctl } = s) ∧
      (target = 3 → s.firstRefusal ps 3 true = none → ∃ t, exec (.powerState id) s = .next t ∧ t.power.descent = 1 ∧ t.power.after = 0 ∧
        t.power.epReady = false ∧ t.cmd id = none ∧ t.cores = s.cores ∧ SameMemory s t) ∧
      (0 < target → target < 3 → (∀ p, p ∈ ps → s.pstate p < target) → ps ≠ [] →
        s.firstRefusal ps target (decide (c.at_ 0x10 1 = 0) && decide (target = 2)) = none →
        ∃ t, exec (.powerState id) s = .next t ∧ (∀ p, p ∈ ps → t.ptrans p = target ∧ t.pstate p = s.pstate p) ∧
          (t.cmd id).map (fun x => x.started) = some true ∧ { t with ctl := s.ctl, parts := s.parts, cmds := s.cmds, pcie := s.pcie } = s)) ∧
    (s.cmdFor id 0x49 = some c → c.unused [(0x10, 1), (0x14, 8)] = [] →
      ∃ u, exec (.powerPolicy id) s = .next (State.complete u id 0x00 0 []) ∧ { u with parts := s.parts } = s ∧
        ∀ p, u.part p = if p < 8 ∧ (c.at_ 0x10 1).testBit p = true
          then { s.part p with ajarIdle := c.at_ 0x14 4, shutIdle := c.at_ 0x18 4 } else s.part p) ∧
    (s.pcie.l0 = true → s.cfld offPwrModule 2 1 = 0 → s.usableParts ≠ [] → (∀ p, p ∈ s.usableParts → s.pstate p = 2 ∧ s.ptrans p = 0) →
      s.moduleRefuser 2 = none → ∃ t, exec .pcieLinkL1Entry s = .next t ∧ t.cfld offPwrModule 2 1 = 1 ∧ t.cfld offPwrModule 0 2 = 2 ∧
        t.pcie.l0 = false ∧ { t with ctl := s.ctl, pcie := s.pcie } = s) ∧
    (s.cfld offPwrModule 2 1 = 1 → ∃ t, exec .pcieTlpInL1 s = .next t ∧ t.cfld offPwrModule 2 1 = 0 ∧ t.pcie.l0 = true ∧
      fld t.pcie.knock 0 4 = 1 ∧ t.cores = s.cores ∧ SameMemory s t) ∧
    (s.cfld offPwrModule 2 1 ≠ 1 → exec .pcieTlpInL1 s = .next s)

/-- R65, R370, R417: an FLR resets the letterbox of its function, ends its commands without a completion entry and releases its regions; of
PF0 it disables every VF. VF_ENABLE enables the first n VFs within the limits, and VF_DISABLE resets and disables one. -/
def Claim.FunctionResets : Prop :=
  ∀ (s : State) (f : Nat), Unit.fn f = true →
    (f ≠ 0 → (s.hostReaches f = true ∨ (s.fn f).d3 = true) → ∃ t, exec (.flr f) s = .next t ∧
      t.fn f = { enabled := (s.fn f).enabled, refused := (s.fn f).refused } ∧ (∀ c, c ∈ t.cmds → c.fn = f → c.mute = true) ∧
      (∀ i, i < 64 → (t.region f i).valid = false)) ∧
    (f = 0 → (s.hostReaches f = true ∨ (s.fn f).d3 = true) → ∃ t, exec (.flr f) s = .next t ∧ (t.fn 0).st = .disabled ∧ t.pcie.vfs = 0 ∧
      (∀ g, 0 < g → g < 16 → (t.fn g).enabled = false) ∧ (∀ c, c ∈ t.cmds → c.fn = 0 → c.mute = true) ∧
      (∀ i, i < 64 → (t.region 0 i).valid = false)) ∧
    (f ≠ 0 → (s.fn f).enabled = true → ∃ t, exec (.vfDisable f) s = .next t ∧ (t.fn f).enabled = false ∧ (t.fn f).st = .disabled ∧
      (∀ c, c ∈ t.cmds → c.fn = f → c.mute = true) ∧ (∀ i, i < 64 → (t.region f i).valid = false)) ∧
    (∀ n, s.pcie.l0 = true → s.pcie.vfs = 0 →
      (n ≤ 15 → (s.pcie.ari = true ∨ n ≤ 7) → ∃ t, exec (.vfEnable n) s = .next t ∧ t.pcie.vfs = n ∧
        (∀ g, t.fn g = if 0 < g ∧ g ≤ n then { s.fn g with enabled := true } else s.fn g) ∧ { t with fns := s.fns, pcie := s.pcie } = s) ∧
      (15 < n ∨ s.pcie.ari = false ∧ 7 < n → exec (.vfEnable n) s = .next s))

/-- R371: clearing Bus Master Enable stops the function's commands, whose completions are held; setting it writes the held entries to the
completion ring in order and ends HELD. -/
def Claim.BusMasterEnable : Prop :=
  ∀ (s : State) (f : Nat) (x : Fn), Unit.fn f = true → x = s.fn f →
    (x.bme = true → ∃ t, exec (.busMasterEnableClear f) s = .next t ∧ (t.fn f).bme = false ∧
      (∀ c, c ∈ t.cmds → c.fn = f → c.mute = false → ∃ r, r ∈ t.runs ∧ r.cmd = c.id ∧ r.st ≠ .ended)) ∧
    (x.bme = false → exec (.busMasterEnableClear f) s = .next s) ∧
    (s.hostReaches f = true → x.bme = false → x.cqTail < x.cqN → ∃ t, exec (.busMasterEnableSet f) s = .next t ∧ (t.fn f).bme = true ∧
      (t.fn f).held = false ∧ (t.fn f).heldComps = [] ∧ (t.fn f).heldBytes = [] ∧
      (t.fn f).cqTail = (x.cqTail + x.heldComps.length) % x.cqN ∧ t.cmds = s.cmds ∧ t.cores = s.cores ∧ SameMemory s t ∧
      (∀ g, g ≠ f → t.fn g = s.fn g)) ∧
    (s.hostReaches f = true → x.bme = true → exec (.busMasterEnableSet f) s = .next s)

/-- R419, R420, R421: D3hot disables a letterbox with nothing in flight and is left by its exit; a fundamental reset takes the link down and
resets every function, and the endpoint trains at once or after PERST_N's release; the link comes to L0 with PF0 enabled. -/
def Claim.PcieLink : Prop :=
  ∀ (s : State),
    (∀ f, Unit.fn f = true → s.hostReaches f = true → (s.fn f).st = .running → s.inflight f = 0 →
      ∃ t, exec (.d3hotEntry f) s = .next t ∧ (t.fn f).d3 = true ∧ (t.fn f).st = .disabled ∧ (∀ g, g ≠ f → t.fn g = s.fn g)) ∧
    (∀ f, Unit.fn f = true → ∃ t, exec (.d3hotExit f) s = .next t ∧ t.fn f = { s.fn f with d3 := false } ∧ (∀ g, g ≠ f → t.fn g = s.fn g) ∧
      { t with fns := s.fns } = s) ∧
    (∃ t, exec .pcieFundamentalReset s = .next t ∧ t.pcie.l0 = false ∧ t.pcie.training = s.power.epReady ∧ t.power.perst = !s.power.epReady ∧
      t.pcie.vfs = 0 ∧ (t.fn 0).st = .disabled ∧ (∀ c, c ∈ t.cmds → c.fn = 0 → c.mute = true)) ∧
    (s.power.viob = true → s.power.epReady = true → s.power.perst = true → ∃ t, exec .perstNRelease s = .next t ∧ t.power.perst = false ∧
      t.pcie.training = true ∧ { t with power := s.power, pcie := s.pcie } = s) ∧
    (s.power.epReady = true → s.power.perst = false → s.pcie.training = true → ∃ t, exec .pcieLinkL0 s = .next t ∧ t.pcie.l0 = true ∧
      t.pcie.training = false ∧ t.fn 0 = { s.fn 0 with enabled := true } ∧ { t with pcie := s.pcie, fns := s.fns } = s) ∧
    (s.power.epReady = false ∨ s.power.perst = true ∨ s.pcie.training = false → exec .pcieLinkL0 s = .next s)

/-- R423, R432, R476: a knock of the module's vendor and code wakes the partitions it names, and a sleeping module with them; a port in
standby that hears its peer wakes the module and retrains. What is no such knock is discarded. -/
def Claim.Knocks : Prop :=
  ∀ (s : State) (hdr : W32) (vendor : Nat),
    (hdr.toNat / 256 = 0x4B4E00 → s.stage = 6 → s.pcie.l0 = true →
      ∃ t, exec (.pcieKnock Config.vendorId hdr) s = .next t ∧
        (∀ p, p < 8 → hdr.toNat.testBit p = true → s.unusable p = false → s.ptrans p = 0 → s.pstate p ≠ 0 →
          t.ptrans p = 3 ∧ (t.part p).wakeTo = 0) ∧
        (s.cfld offPwrModule 0 2 ≠ 0 → fld t.pcie.knock 0 4 = 2 ∧ fld t.pcie.knock 4 4 = s.cfld offPwrModule 0 2) ∧
        (s.cfld offPwrModule 0 2 = 0 → t.pcie = s.pcie) ∧ t.cores = s.cores ∧ t.cmds = s.cmds ∧ t.fns = s.fns ∧ t.host = s.host ∧ SameMemory s t) ∧
    (vendor ≠ Config.vendorId ∨ hdr.toNat / 256 ≠ 0x4B4E00 ∨ s.stage ≠ 6 → exec (.pcieKnock vendor hdr) s = .next s) ∧
    (∀ port, Unit.port port = true →
      (s.cfld (offPort port) 0 3 = 4 → ∃ t u, exec (.seunonKnock port) s = .next t ∧ exec (.seunonStandbyTraffic port) s = .next u ∧
        t.cfld (offPort port) 0 3 = 1 ∧ u.cfld (offPort port) 0 3 = 1 ∧ fld t.pcie.knock 0 4 = 3 ∧ fld u.pcie.knock 0 4 = 4 ∧
        t.cores = s.cores ∧ SameMemory s t ∧ u.cores = s.cores ∧ SameMemory s u) ∧
      (s.cfld (offPort port) 0 3 ≠ 4 → exec (.seunonKnock port) s = .next s ∧ exec (.seunonStandbyTraffic port) s = .next s))

/-- R214, R425, R426, R431, R433: a port that trains takes the width of its good lanes, or is down without a peer, or isolated by a peer of
another domain or of its own number; flit errors are counted as retries; a port that goes down carries nothing more, and no bay then
holds a line of another module (R236). -/
def Claim.SeunonPorts : Prop :=
  ∀ (s : State) (i : Nat), Unit.port i = true →
    (∀ (r : TrainResult) (good : BitVec 4), s.cfld (offPort i) 0 3 = 1 → good = r.lanes &&& ~~~(BitVec.ofNat 4 (s.cfld (offPort i) 8 4)) →
      ∃ t, exec (.seunonTrainingDone i r) s = .next t ∧
        ((r.peerPresent = false ∨ good &&& 3 ≠ 3 ∧ good &&& 0xC ≠ 0xC) → t.cfld (offPort i) 0 3 = 0) ∧
        (r.peerPresent = true → (good &&& 3 = 3 ∨ good &&& 0xC = 0xC) →
          (r.peerDomain ≠ s.cfld offSeunonId 16 32 ∨ r.peerId = s.moduleId → t.cfld (offPort i) 0 3 = 5) ∧
          (r.peerDomain = s.cfld offSeunonId 16 32 → r.peerId ≠ s.moduleId →
            t.cfld (offPort i) 0 3 = (if s.pair.joined = true ∧ 14 ≤ i then 7 else if good = 0xF then 2 else 3) ∧
            t.cfld (offPort i) 32 12 = r.peerId % 4096)) ∧
        (∀ j, j < 16 → j ≠ i → t.creg (offPort j) = s.creg (offPort j)) ∧ { t with ctl := s.ctl, mc := s.mc } = s) ∧
    (∀ r, s.cfld (offPort i) 0 3 ≠ 1 → exec (.seunonTrainingDone i r) s = .next s) ∧
    (s.portLive i = true → ∃ t, exec (.seunonPortDown i) s = .next t ∧ t.cfld (offPort i) 0 3 = 0 ∧ t.cores = s.cores ∧
      ((s.bays.map fun (e : Nat × Bay) => e.1).Nodup → ∀ b l, l ∈ (t.bay b).lines → l.kind ≠ .remote) ∧
      ((∀ e, e ∈ s.bays → ∀ l, l ∈ e.2.lines → l.kind = .remote → l.dirty = false) → SameMemory s t)) ∧
    (s.portLive i = false → exec (.seunonPortDown i) s = .next s) ∧
    (∀ trained, s.portLive i = true → (s.link (linkOfPort i)).retries < 16 → ∃ t n, exec (.seunonFlitError i trained) s = .next t ∧
      (n = 1 ∨ n = (s.link (linkOfPort i)).retries + 1) ∧ t.link (linkOfPort i) = { s.link (linkOfPort i) with retries := n } ∧
      t.creg (offPort i + 32) = sat64 ((s.creg (offPort i + 32)).toNat + 1) ∧ t.cfld (offPort i) 0 3 = s.cfld (offPort i) 0 3 ∧
      { t with ctl := s.ctl, links := s.links, free := s.free } = s) ∧
    (∀ k trained, k < 84 → (s.link k).retired = false → (s.link k).retries < 16 → ∃ t n, exec (.hingeBridgeFlitError k trained) s = .next t ∧
      (n = 1 ∨ n = (s.link k).retries + 1) ∧ t.link k = { s.link k with retries := n } ∧ (∀ j, j ≠ k → t.link j = s.link j) ∧
      { t with links := s.links, ctr := s.ctr, free := s.free } = s) ∧
    (∀ k trained, k < 84 → (s.link k).retired = true → exec (.hingeBridgeFlitError k trained) s = .next s)

/-- R17, R61, R428, R430: a remote request for another module is forwarded, which counts its flits, or refused, a read with zeros; one for this module that its regions admit is
served: a write is queued for its home bays, and a read is answered with the bytes; one they do not admit is refused. -/
def Claim.RemoteRequests : Prop :=
  ∀ (s : State) (i : Nat) (r : RemoteReq), Unit.port i = true → Unit.fn r.fn = true → r.cls < 8 →
    (s.cfld (offPort i) 0 3 = 2 ∨ s.cfld (offPort i) 0 3 = 3) →
    (r.target ≠ s.moduleId → s.reachable r.target = true → ∃ n, 0 < n ∧ exec (.seunonRemoteRequest i r) s = .next (s.drew.portCount i 5 n)) ∧
    (r.target ≠ s.moduleId → s.reachable r.target = false → ∃ t, exec (.seunonRemoteRequest i r) s = .next t ∧
      t.mc.lastRead = (if r.data = none then some (zeros r.len, false) else s.mc.lastRead) ∧ t.mc.eventSeq = s.mc.eventSeq + 1 ∧
      { t with mc := s.mc } = s) ∧
    (r.target = s.moduleId → r.len ≠ 0 → s.remoteMay r = true → s.doorAt r.off = false → s.asleep (partOfOff r.off) = false →
      (blocksOf 128 r.off r.len).any s.homeBusy = false →
      (∀ bs, r.data = some bs → ∃ t w, exec (.seunonRemoteRequest i r) s = .next t ∧ t.writes = s.writes ++ [w] ∧
        w.addr = s.moduleId * 2 ^ 44 + r.off ∧ w.bytes = padTo r.len bs ∧ w.cls = r.cls ∧ w.fn = r.fn ∧ { t with writes := s.writes } = s) ∧
      (r.data = none → ∃ t, exec (.seunonRemoteRequest i r) s = .next t ∧
        t.mc.lastRead = some (s.memRead r.off r.len, s.rangePoison r.off r.len) ∧ t.cores = s.cores ∧ t.host = s.host ∧
        (s.noLatent → SameMemory s t))) ∧
    (r.target = s.moduleId → r.len ≠ 0 → s.remoteMay r = false → ∃ t, exec (.seunonRemoteRequest i r) s = .next t ∧
      t.creg (offPort i + 48) = sat64 ((s.creg (offPort i + 48)).toNat + 1) ∧ t.writes = s.writes ∧ t.cores = s.cores ∧ SameMemory s t)

/-- R484, R486: at each update a node at or above a threshold takes its action, and keeps it; the thermal limit of a region goes to 8 A
while its pane or sill node is at a hard limit, 1 A below the present limit while one is throttled (log entry 172) and up else; a node at its trip threshold trips the module. An action is released 3 °C below. -/
def Claim.ThermalActions : Prop :=
  ∀ (s : State),
    (∀ sensors, (s.power.vmain = true ∨ s.power.vstby = true) → ∃ t, exec (.thermalModelUpdate sensors) s = .next t ∧
      (∀ n x, n < 500 → x = t.tnode n →
        x.hard = ((s.tnode n).hard || decide (hardAt n ≤ t.acting n)) ∧ x.throttle = ((s.tnode n).throttle || decide (throttleAt n ≤ t.acting n)) ∧
        (336 ≤ n → x.limit = (s.tnode n).limit)) ∧
      (∀ g, g < 336 → t.cfld (offRegionPwr g) 24 8 = t.limitOf g ∧
        (t.tnode g).limit = if (t.tnode g).hard || (t.tnode (sillNode g)).hard then 80
          else if (t.tnode g).throttle || (t.tnode (sillNode g)).throttle then max 80 (s.limitOf g - 10)
          else min 200 ((s.tnode g).limit + 10)) ∧
      (t.therm.tripped = true ↔ s.therm.tripped = true ∨ ∃ n, n < 500 ∧ tripAt n ≤ t.acting n)) ∧
    (∀ sensors, s.power.vmain = false → s.power.vstby = false → exec (.thermalModelUpdate sensors) s = .next s) ∧
    (∀ n, n < 500 → ∃ t, exec (.thermalActionRelease n) s = .next t ∧
      (t.tnode n).hard = ((s.tnode n).hard && decide (hardAt n - 30 < s.acting n)) ∧
      (t.tnode n).throttle = ((s.tnode n).throttle && decide (throttleAt n - 30 < s.acting n)) ∧
      (∀ k, k ≠ n → t.tnode k = s.tnode k) ∧ t.cores = s.cores ∧ SameMemory s t) ∧
    (∀ n, n < 600 →
      ((s.tnode n).disagree = true → (s.tnode n).gap ≤ 40 → ∃ t, exec (.disagreementEpisodeEnd n) s = .next t ∧
        t.tnode n = { s.tnode n with disagree := false } ∧ (∀ k, k ≠ n → t.tnode k = s.tnode k) ∧ { t with therm := s.therm } = s) ∧
      (∀ i v, (s.tnode n).sensor i = some v → v.failed = false → ∃ t r, exec (.sensorFailure n i) s = .next t ∧
        (t.tnode n).sensor i = some { v with failed := true } ∧ (∀ k, k ≠ i → (t.tnode n).sensor k = (s.tnode n).sensor k) ∧
        (t.tnode n).model = (s.tnode n).model ∧ r.sensor = some v.value ∧ t.therm.records.getLast? = some r ∧ r.type = 4 ∧ r.node = n ∧
        t.mc.alerts = s.mc.alerts ||| 64 ∧ t.power.alertN = true ∧ (∀ k, k ≠ n → t.tnode k = s.tnode k)) ∧
      (∀ i, (s.tnode n).sensorFailed i = true → exec (.sensorFailure n i) s = .next s))

/-- R411, R488, R489, R490, R491: a trip is recorded, asserts THERMTRIP_N and takes the rails down fast; it is cleared only while every node
reads below 70 °C; records are read from a sequence number on. -/
def Claim.ThermalTrip : Prop :=
  ∀ (s : State),
    (∀ n, n < 420 → s.therm.tripped = false → ∃ t r, exec (.diodeComparatorTrip n) s = .next t ∧ t.therm.tripped = true ∧
      t.power.thermtripN = true ∧ t.therm.records.getLast? = some r ∧ r.type = 1 ∧ r.source = 3 ∧ r.node = n ∧ r.seq = s.therm.nextSeq ∧
      t.cfld offTherm 3 1 = 1 ∧ t.cmds = [] ∧ t.runs = [] ∧ t.host = s.host ∧ (s.power.rails = true → t.power.descent = max 2 s.power.descent) ∧
      (s.stage < 6 → t.stage = 7 ∧ t.cfld offBringup 8 4 = 5)) ∧
    (∀ n, n < 420 → s.therm.tripped = true → exec (.diodeComparatorTrip n) s = .next s) ∧
    (∀ id c, s.cmdFor id 0x79 = some c → c.unused [] = [] →
      ((∃ n, n < 600 ∧ 700 ≤ s.acting n) → exec (.clearTrip id) s = .next (s.complete id 0x05 0 [])) ∧
      ((∀ n, n < 600 → s.acting n < 700) →
        (s.therm.tripped = false → exec (.clearTrip id) s = .next (s.complete id 0x00 0 [])) ∧
        (s.therm.tripped = true → ∃ u, exec (.clearTrip id) s = .next (State.complete u id 0x00 0 []) ∧ u.therm.tripped = false ∧
          u.power.thermtripN = false ∧ u.cfld offTherm 3 1 = 0 ∧ u.cmds = s.cmds ∧ u.cores = s.cores))) ∧
    (∀ id c, s.cmdFor id 0x78 = some c → c.unused [(0x10, 4)] = [] →
      exec (.thermalRecordRead id) s = .next (s.complete id 0x00 (w64 s.therm.records.length)
        ((s.therm.records.filter fun (r : ThermRec) => decide (c.at_ 0x10 4 ≤ r.seq)).flatMap ThermRec.bytes)))

/-- R494, R495, R496, R561, R564: a bond temperature sample extends its tower's turning points, counts the cycles that they close by range
and shows them in THERM_CYCLES; a coolant alert asserts ALERT_N until the condition ends. -/
def Claim.ThermalCycles : Prop :=
  ∀ (s : State),
    (∀ (tw : Nat) (r : List Int × List (Nat × Nat)), Unit.tower tw = true →
      (s.power.rails = false ∨ ∀ k, k < 4 → s.lpartOn (4 * tw + k) ≠ none) →
      r = rainflow 10000 (turnWith (s.bondTemp tw) (nget [] s.therm.turns tw)) [] →
      ∃ t, exec (.bondTempSample tw) s = .next t ∧ nget [] t.therm.turns tw = r.1 ∧
        (∀ b, 0 < b → b < 4 → t.halves tw b = s.halves tw b + ((r.2.filter fun e => cycleBin e.1 == b).map (fun e => e.2)).sum ∧
          t.cfld (offCycles tw) (16 * b) 16 = min 65535 (t.halves tw b / 2)) ∧
        t.cfld (offCycles tw) 0 16 = min 65535 ((t.halves tw 1 + 4 * t.halves tw 2 + 16 * t.halves tw 3) / 2) ∧
        t.mc.uptime = s.mc.uptime + (if tw = 0 then 1000 else 0) ∧ { t with therm := s.therm, mc := s.mc, ctl := s.ctl } = s) ∧
    (∃ t, exec .coolantAlert s = .next t ∧ t.therm.coolant = true ∧ t.mc.alerts = s.mc.alerts ||| 8 ∧ t.power.alertN = true ∧
      { t with therm := s.therm, mc := s.mc, power := s.power } = s) ∧
    (∃ t, exec .coolantAlertEnd s = .next t ∧ t.therm.coolant = false ∧ { t with therm := s.therm } = s)

/-- R353, R379, R380, R381: the queries answer with OK and their bytes: 64 of identity, 96 of summary or a map of placements, or the defect
records from one on; a virtual function reads no map. During bring-up FREE_HBM and LCORES read 0 until they are
known (when they are is the model's reading of R422, log entry 69). -/
def Claim.Queries : Prop :=
  ∀ (s : State) (id : Nat) (c : Cmd),
    (s.cmdFor id 0x01 = some c → c.unused [] = [] → ∃ bs, exec (.queryIdentity id) s = .next (s.complete id 0x00 0 bs) ∧ bs.length = 64 ∧
      (c.fn < 16 → leAt bs 0 8 = 2 ^ 48 + (if s.wca1608 then 0x1608 else 0x1604) * 2 ^ 32 + 0x0100 * 2 ^ 16 +
        (if s.power.pairPresent then 0x100 else 0) + c.fn) ∧
      (bs.drop 8).take 16 = padTo 16 s.mc.serial ∧ leAt bs 24 2 = s.moduleId ∧ leAt bs 26 1 = s.power.slotId % 16 ∧
      leAt bs 27 1 = (if s.sec.owner then 1 else 0) + (if s.sec.debug then 2 else 0) ∧ leAt bs 28 4 = 0 ∧ leAt bs 56 8 = 0) ∧
    (s.cmdFor id 0x02 = some c →
      (c.fn ≠ 0 → c.at_ 0x10 1 ≠ 0 → exec (.queryState id) s = .next (s.complete id 0x0E 0 [])) ∧
      (c.unused [(0x10, 1), (0x18, 8)] = [] →
        (c.at_ 0x10 1 = 0 → c.at_ 0x18 8 = 0 → ∃ bs, exec (.queryState id) s = .next (s.complete id 0x00 0 bs) ∧ bs.length = 96 ∧
          leAt bs 0 1 = s.cfld offPwrModule 0 2 ∧ leAt bs 1 1 = s.imageState ∧
          leAt bs 32 8 = (if s.stage < 4 then 0 else s.freeHbm % 2 ^ 64) ∧
          (∀ im, s.img.image = some im → (bs.drop 16).take 16 = padTo 16 im.buildId) ∧
          (c.fn = 0 → ∀ p, p < 8 → leAt bs (8 + p) 1 = s.partByte p % 256 ∧ leAt bs (40 + 2 * p) 2 =
            (if s.stage < 6 ∧ s.power.tested = false then 0 else s.lcores p % 65536)) ∧
          (c.fn ≠ 0 → leAt bs 2 14 = 0 ∧ leAt bs 40 56 = 0)) ∧
        (∀ im, c.fn = 0 → c.at_ 0x10 1 = 1 → s.img.image = some im → ∃ bs, exec (.queryState id) s = .next (s.complete id 0x00 0 bs) ∧
          bs.length = 2 * (im.vcores - c.at_ 0x18 8) ∧ (∀ i, c.at_ 0x18 8 + i < im.vcores →
            leAt bs (2 * i) 2 = match s.placed (c.at_ 0x18 8 + i) with
              | some k => (0x8000 + k) % 65536
              | none => 0)))) ∧
    (s.cmdFor id 0x03 = some c → c.unused [(0x10, 4)] = [] → ∃ bs,
      exec (.queryDefects id) s = .next (s.complete id 0x00 (w64 s.mc.defects.length) bs) ∧ leAt bs 0 4 = s.mc.defects.length % 2 ^ 32 ∧
      leAt bs 4 4 = (s.mc.defects.filter fun (d : Defect) => d.source &&& 1 != 0).length % 2 ^ 32 ∧
      bs.drop 16 = (s.mc.defects.drop (c.at_ 0x10 4)).flatMap Defect.bytes)

/-- R382: READ_COUNTERS of one unit returns its counters in the order of its family; a virtual function reads its own letterbox's alone. -/
def Claim.CounterReads : Prop :=
  ∀ (s : State) (id : Nat) (c : Cmd) (fam ix : Nat), s.cmdFor id 0x04 = some c → fam = c.at_ 0x10 1 → ix = c.at_ 0x14 4 →
    (c.fn ≠ 0 → (fam ≠ 0x30 ∨ c.at_ 0x11 1 ≠ 0 ∨ ix ≠ c.fn) → exec (.readCounters id) s = .next (s.complete id 0x0E 0 [])) ∧
    ((c.fn = 0 ∨ fam = 0x30 ∧ ix = c.fn) → c.unused [(0x10, 2), (0x14, 4)] = [] → c.at_ 0x11 1 = 0 → ix < famUnits fam →
      (s.ctr.map fun (e : Nat × W64) => e.1).Nodup → (s.cores.map fun (e : Nat × Core) => e.1).Nodup →
      ∃ u bs, exec (.readCounters id) s = .next (State.complete u id 0x00 0 bs) ∧ { u with free := s.free } = s ∧
        leAt bs 0 1 = fam ∧ leAt bs 4 4 = ix ∧ leAt bs 8 4 = (famSpan fam ix).2 ∧ bs.length = 16 + 8 * (famSpan fam ix).2 ∧
        ∀ k pos, k < (famSpan fam ix).2 → pos = (famSpan fam ix).1 + k → ctrOpen fam pos = false →
          (fam ≠ 0x05 → (fam ≠ 0x18 ∨ pos ≠ 13) → leAt bs (16 + 8 * k) 8 = (s.counter fam ix pos).toNat) ∧
          (fam = 0x05 → leAt bs (16 + 8 * k) 8 = ((s.core ix).csrReg (fam5Csr pos)).toNat))

/-- R383, R384: IMAGE_BEGIN takes zeroed staging memory for a new session, or fails for an image that is committed or does not fit;
IMAGE_CHUNK stores the bytes it reads from the host at their place in the session. -/
def Claim.ImageTransfer : Prop :=
  ∀ (s : State) (id : Nat) (c : Cmd),
    (s.cmdFor id 0x10 = some c → c.unused [(0x18, 8)] = [] → 256 ≤ c.at_ 0x18 8 →
      (s.img.image ≠ none → exec (.imageBegin id) s = .next (s.complete id 0x04 0 [])) ∧
      (s.img.image = none → ∀ s1 : State, s1 = { s with img := { s.img with session := none } } →
        (∀ ps, takeBytes (c.at_ 0x18 8) s1.freeRanges = some ps → ∃ u, exec (.imageBegin id) s = .next (State.complete u id 0x00 0 []) ∧
          u.img = { s.img with session := some (c.at_ 0x18 8, ps) } ∧
          (∀ x a, x ∈ ps → x.1 ≤ a → a < x.1 + x.2 → nget 0 u.mem a = 0) ∧ u.cores = s.cores ∧ u.cmds = s.cmds ∧ u.host = s.host) ∧
        (takeBytes (c.at_ 0x18 8) s1.freeRanges = none → exec (.imageBegin id) s = .next (s1.complete id 0x06 0 [])))) ∧
    (s.cmdFor id 0x11 = some c →
      (s.img.session = none → chunkBad c (2 ^ 65) = [] → exec (.imageChunk id) s = .next (s.complete id 0x03 0x7FFFFFFFFFFFFFFF [])) ∧
      (∀ n ps bs len, s.img.session = some (n, ps) → chunkBad c n = [] → c.amount = 0 → len = c.at_ 0x10 4 →
        s.hostRead (c.at_ 0x20 8) len = some bs →
        (∀ p, p ∈ partsOf (pieceRange ps (c.at_ 0x18 8) len) → (s.doorShut p = false ∨ s.unusable p = true) ∧ s.asleep p = false) →
        ps.Pairwise (fun x y => x.1 + x.2 ≤ y.1 ∨ y.1 + y.2 ≤ x.1) → (∀ x a, x ∈ ps → x.1 ≤ a → a < x.1 + x.2 → s.backed a = true) →
        ∃ u, exec (.imageChunk id) s = .next (State.complete u id 0x00 0 []) ∧ u.img = s.img ∧
          (∀ i a, i < len → pieceAddr ps (c.at_ 0x18 8 + i) = some a → nget 0 u.mem a = bs.getD i 0) ∧
          u.cores = s.cores ∧ u.cmds = s.cmds ∧ u.host = s.host))

/-- R385, R386: IMAGE_COMMIT puts a session's image in place when every check passes, and else names the first byte that fails, or the reason of
its signature's failure, and changes nothing; IMAGE_UNLOAD removes the image while no run needs it. -/
def Claim.ImageCommit : Prop :=
  ∀ (s : State) (id : Nat) (c : Cmd), c.unused [] = [] →
    (s.cmdFor id 0x12 = some c →
      (s.img.session = none → exec (.imageCommit id) s = .next (s.complete id 0x03 0x7FFFFFFFFFFFFFFF [])) ∧
      (∀ len ps g, s.img.session = some (len, ps) → (∀ p, p ∈ s.usableParts → s.doorShut p = false ∧ s.asleep p = false) →
        g = s.stagedImage ps →
        ((∃ x, x ∈ ps ∧ s.rangePoison x.1 x.2 = true) → exec (.imageCommit id) s = .next (s.complete id 0x0C 0 [])) ∧
        ((∀ x, x ∈ ps → s.rangePoison x.1 x.2 = false) →
          (∀ o, imageBad g len = some o → exec (.imageCommit id) s = .next (s.complete id 0x03 (w64 (2 ^ 63 + o)) [])) ∧
          (imageBad g len = none → s.sigReason g len ≠ 0 →
            exec (.imageCommit id) s = .next (s.complete id 0x0B (w64 (s.sigReason g len)) [])) ∧
          (imageBad g len = none → s.sigReason g len = 0 → ∀ s0, s0 = State.placeImage (s.rehome (fun _ => true) (fun x => x)) (readImage g len) →
            (s0 = none → exec (.imageCommit id) s = .next (s.complete id 0x06 0 [])) ∧
            (∀ im s1, s0 = some (im, s1) → ∃ u, exec (.imageCommit id) s =
                .next (State.complete u id (if u.anyDegraded then 0x0A else 0x00) (w64 (u.freeHbm / 2 ^ 20 * 2 ^ 32)) []) ∧
              u.img.image = some im ∧ u.img.session = none ∧ u.img.commits = s1.img.commits + 1 ∧ u.img.place = s1.img.place ∧ u.groups = [] ∧
              u.cmds = s1.cmds))))) ∧
    (s.cmdFor id 0x13 = some c →
      (s.img.image = none → exec (.imageUnload id) s = .next (s.complete id 0x03 0x7FFFFFFFFFFFFFFF [])) ∧
      (s.img.image ≠ none → (s.anyRun = true ∨ s.anyHeld = true) → exec (.imageUnload id) s = .next (s.complete id 0x04 0 [])) ∧
      (s.img.image ≠ none → s.anyRun = false → s.anyHeld = false → ∃ u, exec (.imageUnload id) s = .next (State.complete u id 0x00 0 []) ∧
        u.img.image = none ∧ (∀ k, (u.core k).launched = false ∧ (u.core k).rxq = []) ∧ (∀ f p, p ∈ (u.fn f).pins → p.kind ≠ 1)))

/-- R112, R387: PATCH_TABLES puts the tables of its records in place, in HBM and in every core's cache, which drops the set; all of them
or, where a record fails a check, none. -/
def Claim.TablePatches : Prop :=
  ∀ (s : State) (id : Nat) (c : Cmd) (im : Image) (n : Nat) (bs : List Byte), s.cmdFor id 0x14 = some c → n = c.at_ 0x10 4 →
    c.unused [(0x10, 4), (0x18, 8)] = [] → n % 16 = 0 → 16 ≤ n → s.hostRead (c.at_ 0x18 8) n = some bs → s.img.image = some im →
    (∀ o, patchRecs (fun i => bs.getD i 0) im.tables n (n / 16) 0 = .error o →
      exec (.patchTables id) s = .next (s.complete id 0x03 (w64 (2 ^ 63 + o)) [])) ∧
    (∀ rs, patchRecs (fun i => bs.getD i 0) im.tables n (n / 16) 0 = .ok rs →
      ∃ u, exec (.patchTables id) s = .next (State.complete u id 0x00 0 []) ∧
        u.img.image = some { im with tables := rs.foldl patchSets im.tables } ∧ { u.img with image := s.img.image } = s.img ∧
        u.fns = s.fns ∧ u.cmds = s.cmds ∧ u.runs = s.runs ∧ u.regions = s.regions ∧ u.host = s.host ∧
        (∀ k, { u.core k with tsets := (s.core k).tsets } = s.core k ∧ ∀ r, r ∈ rs → r.set ∉ (u.core k).tsets) ∧
        ∀ r t, rs = [r] → im.tables[r.set]? = some t → ∃ t', (rs.foldl patchSets im.tables)[r.set]? = some t' ∧
          t'.tables = t.tables.take r.first ++ r.tables ++ t.tables.drop (r.first + r.tables.length) ∧
          (∀ i, i < t'.bytes.length → nget 0 u.mem (im.tableBase + t'.off + i) = t'.bytes.getD i 0) ∧
          (s.noLatent → ∀ a, a < im.tableBase + t'.off ∨ im.tableBase + t'.off + t'.bytes.length ≤ a → nget 0 u.mem a = nget 0 s.mem a))

/-- R404, R405, R406, R407, R517, R518: RETIRE_UNIT records and takes out a unit, FIELD_TEST and RECALIBRATE answer as the test or the
training came out; what touches a running logical partition waits for its drain point, where it is done. -/
def Claim.UnitService : Prop :=
  ∀ (s : State) (id : Nat) (c : Cmd) (k n p : Nat), c.started = false → c.unused [(0x10, 1), (0x14, 4)] = [] → k = c.at_ 0x10 1 →
    n = c.at_ 0x14 4 → p = unitPart k n →
    (s.cmdFor id 0x60 = some c → mayRetire k = true → s.hasUnit k n = true →
      (s.isRetired k n = true → exec (.retireUnit id) s = .next (s.complete id 0x00 0 [])) ∧
      (s.isRetired k n = false →
        (k = 7 → s.stackRetired n = false → exec (.retireUnit id) s = .next (s.complete id 0x03 0x7FFFFFFFFFFFFFFF [])) ∧
        (7 < k ∨ k = 7 ∧ s.stackRetired n = true → ∃ u d, exec (.retireUnit id) s = .next (State.complete u id 0x00 0 []) ∧
          d ∈ u.mc.defects ∧ d.kind = k ∧ d.number = n ∧ d.source.getLsbD 3 = true) ∧
        (k ≤ 4 → s.unusable p = false → s.doorShut p = false → s.asleep p = false → s.drains p = true → ∃ t, exec (.retireUnit id) s = .next t ∧
          t.cmd id = some { c with started := true } ∧
          t.mc.jobs = s.mc.jobs ++ [{ kind := k, number := n, cmd := id + 1, act := 0, found := [] }] ∧
          { t with cmds := s.cmds, mc := s.mc } = s))) ∧
    (∀ fs, s.cmdFor id 0x61 = some c → mayTest k = true → s.hasUnit k n = true → (p < 8 → s.doorShut p = false ∧ s.asleep p = false) →
      (p < 8 → s.drains p = true → ∃ t, exec (.fieldTest id fs) s = .next t ∧ t.cmd id = some { c with started := true } ∧
        t.mc.jobs = s.mc.jobs ++ [{ kind := k, number := n, cmd := id + 1, act := 1, found := fs }] ∧ { t with cmds := s.cmds, mc := s.mc } = s) ∧
      (8 ≤ k → k ≤ 10 → (p < 8 → s.drains p = false) →
        (names fs k n = false → ∃ u, exec (.fieldTest id fs) s =
            .next (State.complete u id 0x00 0 (leBytes 1 k ++ leBytes 1 0 ++ zeros 2 ++ leBytes 4 n ++ zeros 8)) ∧
          { u with ctl := s.ctl, ctr := s.ctr } = s ∧ (∀ o, u.creg o = s.creg o) ∧ (8 < k → u = s)) ∧
        (names fs k n = true → ∃ u d, exec (.fieldTest id fs) s =
            .next (State.complete u id 0x0A 0 (leBytes 1 k ++ leBytes 1 2 ++ zeros 2 ++ leBytes 4 n ++ zeros 8)) ∧
          d ∈ u.mc.defects ∧ d.kind = k ∧ d.number = n ∧ d.source.getLsbD 2 = true))) ∧
    (∀ out, s.cmdFor id 0x62 = some c → mayCalibrate k = true → unitExists k n = true → (p < 8 → s.doorShut p = false ∧ s.asleep p = false) →
      (k ≠ 4 ∨ s.drains p = false) →
      (2 ≤ out → exec (.recalibrate id out) s = .next (s.complete id 0x0D 0 [])) ∧
      (k ≠ 7 → k ≠ 9 → out ≤ 1 → exec (.recalibrate id out) s = .next (s.complete id (if out = 0 then 0x00 else 0x0A) 0 [])) ∧
      (k = 7 → out = 0 → ∃ u, exec (.recalibrate id out) s = .next (State.complete u id 0x00 0 []) ∧ nget false u.mc.trained n = true ∧
        { u with ctr := s.ctr, refresh := s.refresh, mc := s.mc } = s ∧ ∀ x, u.counter 0x18 x 12 = s.counter 0x18 x 12)) ∧
    (∀ lp j rest k, Unit.part lp = true → nget 0 s.img.lpart lp = p + 1 → p < 8 → s.mc.jobs = j :: rest → unitPart j.kind j.number = p →
      (∀ x, x ∈ rest → unitPart x.kind x.number ≠ p) → s.lpartBusy p = false → (s.part p).resetting = false → s.asleep p = false →
      nget false s.therm.testDue (p / 4) = false → j.act = 2 → j.kind = 4 → j.cmd = id + 1 → k = (j.found.map fun (x : Finding) => x.detail).headD 0 →
      ∃ u, exec (.drainPoint lp) s =
          .next ((State.complete u id (if k = 0 then 0x00 else if k = 1 then 0x0A else 0x0D) 0 []).bump 0x31 p 3 1) ∧
        u.mc.jobs = rest ∧ { u with mc := s.mc } = s)

/-- R409, R524, R525, R528: MIGRATE reserves room and then moves what the stack's going leaves without a place, byte for byte, and the map of the
partition names the other stack; it refuses where the other stack is out already, and is done at once where this one is. -/
def Claim.Migration : Prop :=
  ∀ (s : State) (id : Nat) (c : Cmd) (st p : Nat), s.cmdFor id 0x65 = some c → st = c.at_ 0x10 1 → p = st / 2 → st < 16 → c.at_ 0x11 1 = 0 →
    c.unused [(0x10, 2)] = [] → s.asleep p = false →
    (c.started = false → s.doorShut p = false →
      (s.stackRetired st = true → exec (.migrate id) s = .next (s.complete id 0x00 0 [])) ∧
      (s.stackRetired st = false → s.hbmMode p ≠ 0 → exec (.migrate id) s = .next (s.complete id 0x03 0x7FFFFFFFFFFFFFFF [])) ∧
      (s.hbmMode p = 0 → (s.offRoom st = none → exec (.migrate id) s = .next (s.complete id 0x06 0 [])) ∧
        (∀ temp, s.offRoom st = some temp → ∃ t m, exec (.migrate id) s = .next t ∧ t.cmd id = some { c with started := true } ∧
          t.mc.mig = some m ∧ m.stack = st ∧ m.back = false ∧ m.cmd = id + 1 ∧ m.temp = temp ∧ { t with cmds := s.cmds, mc := s.mc } = s))) ∧
    (∀ m pl, c.started = true → s.mc.mig = some m → m.stack = st → m.back = false → (s.part p).resetting = false → s.fillsOn p = false →
      State.offPlan { s with mc := { s.mc with mig := none } } st = some pl → (s.nb st).cur = none → s.noLatent →
      ∃ u, exec (.migrate id) s = .next (State.complete u id 0x0A 0 []) ∧ u.hbmMode p = (if st % 2 = 1 then 1 else 2) ∧ u.mc.mig = none ∧
        u.host = s.host ∧ u.cmds = s.cmds ∧
        (memWf s.mem = true → pl.Pairwise (fun x y => (x.1.base + x.1.len ≤ y.1.base ∨ y.1.base + y.1.len ≤ x.1.base) ∧
            (x.2.1 + x.1.len ≤ y.2.1 ∨ y.2.1 + y.1.len ≤ x.2.1)) →
          ∀ x i, x ∈ pl → i < x.1.len → nget 0 u.mem (x.2.1 + i) = nget 0 s.mem (x.1.base + i)))

/-- R408, R537, R539, R542: FW_STAGE puts a package that passes verification into its component's inactive slot; one that fails names the byte or
the reason and leaves that slot empty. The board's transfer ends the same way. -/
def Claim.FirmwareStaging : Prop :=
  ∀ (s : State) (comp a : Nat) (bs : List Byte), 1 ≤ comp → comp ≤ 5 → a = nget 0 s.sec.active comp → a < 2 → s.activating comp = false →
    s.norWindow = true →
    ∀ (whole good : Prop) (slot : FwSlot), (whole = (pkgHead ≤ bs.length ∧ bs.length = pkgHead + leAt bs 0x14 4)) →
      (good = (pkgBad comp bs = [] ∧ sha256 ((bs.drop 0x40).take 48) = Config.vendorHash ∧
        Config.verify ((bs.drop 0x40).take 48) (bs.take 0x40) ((bs.drop 0x70).take 16224) = true ∧
        sha256 (bs.drop pkgHead) = (bs.drop 0x20).take 32 ∧ s.fuseCount comp ≤ leAt bs 9 1)) →
      slot = { full := true, svn := leAt bs 9 1, version := leAt bs 0x10 4, digest := (bs.drop 0x20).take 32 } →
      (∀ (id : Nat) (c : Cmd), s.cmdFor id 0x63 = some c → c.unused [(0x10, 1), (0x14, 4), (0x18, 8)] = [] → c.at_ 0x10 1 = comp →
        0 < c.at_ 0x14 4 → c.at_ 0x14 4 ≤ 0x1000000 → s.hostRead (c.at_ 0x18 8) (c.at_ 0x14 4) = some bs →
        (whole → good → ∃ u, exec (.fwStage id) s = .next (State.complete u id 0x00 0 []) ∧ nget {} u.sec.fw (2 * comp + (1 - a)) = slot ∧
          (∀ k, k ≠ 2 * comp + (1 - a) → nget {} u.sec.fw k = nget {} s.sec.fw k) ∧ u.sec.active = s.sec.active ∧ { u with sec := s.sec } = s) ∧
        (¬(whole ∧ good) → ∃ u st d, exec (.fwStage id) s = .next (State.complete u id st d []) ∧ (st = 0x03 ∨ st = 0x0B) ∧
          (nget {} u.sec.fw (2 * comp + (1 - a))).full = false ∧ u.sec.active = s.sec.active ∧ { u with sec := s.sec } = s)) ∧
      (∀ tag old data, s.power.vstby = true → s.power.viob = true → (8, old) ∈ s.sec.xfer →
        (s.sec.xfer.map fun (e : Nat × Xfer) => e.1).Nodup → old.component = comp → old.data ++ data = bs → data.length ≤ 1024 →
        bs.length ≤ 0x1000000 → whole → good →
        ∃ t, exec (.bmcFwStage tag comp 2 old.data.length data) s = .next t ∧ t.mc.answer = some (0x88, tag, 0x00, []) ∧
          nget {} t.sec.fw (2 * comp + (1 - a)) = slot ∧ { t with sec := s.sec, mc := s.mc } = s) ∧
      (∀ tag data, s.power.vstby = true → s.power.viob = true → data.length ≤ 1024 →
        ∃ t, exec (.bmcFwStage tag comp 1 0 data) s = .next t ∧ t.mc.answer = some (0x88, tag, 0x00, []) ∧ t.sec.fw = s.sec.fw ∧
          (∃ x, (8, x) ∈ t.sec.xfer ∧ x.component = comp ∧ x.data = data) ∧ { t with sec := s.sec, mc := s.mc } = s)

/-- R327, R408, R521, R539: FW_ACTIVATE fails without a staged package or with one below the anti-rollback counter. Components 4 and 5 switch to the
package they have staged, and under ADVANCE raise the counter; a failed instance leaves them on the old slot and empties the staged
one. The base dies, component 3, switch stack by stack. -/
def Claim.FirmwareActivation : Prop :=
  ∀ (s : State) (id : Nat) (c : Cmd) (comp a : Nat) (x : FwSlot), s.cmdFor id 0x64 = some c → c.started = false → c.unused [(0x10, 2)] = [] →
    comp = c.at_ 0x10 1 → 1 ≤ comp → comp ≤ 5 → c.at_ 0x11 1 ≤ 1 → a = nget 0 s.sec.active comp → a < 2 → x = s.fwStaged comp →
    (x.full = false → ∀ failed, exec (.fwActivate id failed) s = .next (s.complete id 0x0B 1 [])) ∧
    (x.full = true → x.svn < s.fuseCount comp → ∀ failed, exec (.fwActivate id failed) s = .next (s.complete id 0x0B 4 [])) ∧
    (x.full = true → s.fuseCount comp ≤ x.svn → (c.at_ 0x11 1 = 1 → s.fuseWindow = true) →
      (comp = 4 ∨ comp = 5 → ∃ u, exec (.fwActivate id []) s = .next (State.complete u id 0x00 0 []) ∧ nget 0 u.sec.active comp = 1 - a ∧
        (∀ k, k ≠ comp → nget 0 u.sec.active k = nget 0 s.sec.active k) ∧ u.power.noQuick = true ∧
        (c.at_ 0x11 1 = 0 → u.creg offRollback = s.creg offRollback ∧ u.sec.fw = s.sec.fw) ∧
        (c.at_ 0x11 1 = 1 → x.svn < 256 → u.fuseCount comp = x.svn ∧
          ((nget {} s.sec.fw (2 * comp + a)).svn < x.svn → (nget {} u.sec.fw (2 * comp + a)).full = false)) ∧
        u.cores = s.cores ∧ u.runs = s.runs ∧ SameMemory s u) ∧
      (comp = 4 ∨ comp = 5 → ∀ failed, failed ≠ [] →
        ∃ u, exec (.fwActivate id failed) s = .next (State.complete u id 0x0B (w64 (2 ^ 63 + 8)) []) ∧ u.sec.active = s.sec.active ∧
          (nget {} u.sec.fw (2 * comp + (1 - a))).full = false ∧ u.cores = s.cores) ∧
      (∀ k, comp = 3 → k < 16 → s.nbServes k = true → (∀ j, j < k → s.nbServes j = false) →
        ∃ t, exec (.fwActivate id []) s = .next t ∧ t.cfld (offNb k) 0 3 = 3 ∧
          t.cmd id = some { c with started := true, amount := (k + 1) * 2 ^ 32 } ∧ { t with ctl := s.ctl, cmds := s.cmds } = s))

/-- R327: a stack paused for activation whose engines pass resumes from the staged slot, and the next stack pauses, or after the last the
component switches. -/
def Claim.NearBankResume : Prop :=
  ∀ (s : State) (k : Nat) (c : Cmd), k < 16 → s.cmds = [c] → c.opcode = 0x64 → c.at_ 0x10 1 = 3 → c.started = true →
    c.amount = (k + 1) * 2 ^ 32 → s.cfld (offNb k) 0 3 = 3 → nget 0 s.sec.active 3 < 2 →
    (∀ j, k < j → j < 16 → s.nbServes j = false) → c.at_ 0x11 1 = 0 →
    ∃ u, exec (.nbFwResume k true) s = .next (State.complete u c.id 0x00 0 []) ∧ nget 0 u.sec.active 3 = 1 - nget 0 s.sec.active 3 ∧
      u.cfld (offNb k) 8 1 = 1 - nget 0 s.sec.active 3 ∧ u.cfld (offNb k) 0 3 = (if (s.nb k).cur.isSome then 2 else 1) ∧
      { u with ctl := s.ctl, sec := s.sec, power := s.power } = s

/-- R412, R433, R529, R532, R533: PAIR_JOIN joins twins that agree and have room and turns ports 14 and 15 into the pair link; PAIR_SYNC ends SYNCED
once everything is acknowledged; PAIR_TAKEOVER makes the standby the active one with the tags of the last steps it applied;
PAIR_RELEASE ends the pair. What does not fit the state fails. -/
def Claim.PairCommands : Prop :=
  ∀ (s : State) (id : Nat) (c : Cmd),
    (∀ r : PartnerReport, s.cmdFor id 0x80 = some c → c.unused [(0x10, 1), (0x12, 2)] = [] → s.power.pairPresent = true →
      c.at_ 0x10 1 = (if s.pair.roleStandby then 1 else 0) → c.at_ 0x12 2 < 4096 →
      (s.pair.joined = true → exec (.pairJoin id r) s = .next (s.complete id 0x03 0x7FFFFFFFFFFFFFFF [])) ∧
      (s.pair.joined = false → r.linkUp = false → exec (.pairJoin id r) s = .next (s.complete id 0x0D 0 [])) ∧
      (s.pair.joined = false → r.linkUp = true →
        (r.sameImage = false ∨ r.sameOrder = false ∨ r.standbyFree < r.activeBytes →
          exec (.pairJoin id r) s = .next (s.complete id 0x03 0x7FFFFFFFFFFFFFFF [])) ∧
        (r.sameImage = true → r.sameOrder = true → r.activeBytes ≤ r.standbyFree → ∃ u,
          exec (.pairJoin id r) s = .next (State.complete u id 0x00 0 []) ∧ u.pair.joined = true ∧ u.cfld offPair 0 3 = 1 ∧
          u.cfld offPair 8 1 = c.at_ 0x10 1 ∧ u.cfld offPair 20 12 = c.at_ 0x12 2 ∧ u.pair.rxSeq = 0 ∧ u.pair.txSeq = 0 ∧
          (∀ i, i = 14 ∨ i = 15 → s.cfld (offPort i) 0 3 ≠ 6 → u.cfld (offPort i) 0 3 = 7) ∧
          { u with pair := s.pair, ctl := s.ctl } = s))) ∧
    (∀ acked, s.cmdFor id 0x81 = some c → c.unused [] = [] → c.started = false →
      (s.pair.joined = false ∨ s.standby = true → exec (.pairSync id acked) s = .next (s.complete id 0x03 0x7FFFFFFFFFFFFFFF [])) ∧
      (s.pair.joined = true → s.standby = false → s.pairUp = false → exec (.pairSync id acked) s = .next (s.complete id 0x0D 0 [])) ∧
      (s.pair.joined = true → s.standby = false → s.pairUp = true →
        (acked = true → s.pair.sent = [] → ∃ u, exec (.pairSync id acked) s = .next (State.complete u id 0x00 0 []) ∧ u.cfld offPair 0 3 = 3 ∧
          { u with ctl := s.ctl, cmds := s.cmds } = s) ∧
        (acked = false → ∃ t, exec (.pairSync id acked) s = .next t ∧ t.cfld offPair 0 3 = 2 ∧ t.cmd id = some { c with started := true } ∧
          { t with ctl := s.ctl, cmds := s.cmds } = s))) ∧
    (s.cmdFor id 0x82 = some c → c.unused [] = [] →
      (s.pair.joined = false ∨ s.standby = false → exec (.pairTakeover id) s = .next (s.complete id 0x03 0x7FFFFFFFFFFFFFFF [])) ∧
      (s.pair.joined = true → s.standby = true →
        (s.pairUp = false → s.pair.roleStandby = true → exec (.pairTakeover id) s = .next (s.complete id 0x0D 0 [])) ∧
        (s.pairUp = true ∨ s.pair.roleStandby = false → s.pair.received = [] → s.pair.rxSeq ≠ 0 → ∃ u bs,
          exec (.pairTakeover id) s = .next (State.complete u id 0x00 (w64 (s.pair.rxSeq - 1).toNat) bs) ∧ u.standby = false ∧
          u.cfld offPair 8 1 = 0 ∧ u.cfld offPair 0 3 = (if s.pairUp then 1 else 4) ∧ u.pair.txSeq = s.pair.rxSeq ∧ bs.length = 64 ∧
          (∀ f n, f < 16 → nget 0 s.pair.last f = n + 1 → leAt bs (4 * f) 4 = n % 65536 + 65536) ∧
          (∀ f, f < 16 → nget 0 s.pair.last f = 0 → leAt bs (4 * f) 4 = 0) ∧ { u with ctl := s.ctl, pair := s.pair } = s))) ∧
    (s.cmdFor id 0x83 = some c → c.unused [] = [] →
      (s.pair.joined = false → exec (.pairRelease id) s = .next (s.complete id 0x03 0x7FFFFFFFFFFFFFFF [])) ∧
      (s.pair.joined = true → ∃ u, exec (.pairRelease id) s = .next (State.complete u id 0x00 0 []) ∧ u.pair.joined = false ∧
        u.creg offPair = 0 ∧ (∀ i, i = 14 ∨ i = 15 → s.cfld (offPort i) 0 3 = 7 → u.cfld (offPort i) 0 3 = 1) ∧
        { u with pair := s.pair, ctl := s.ctl } = s))

/-- R530, R534, R535: a standby applies the step that is next in sequence and ignores one that came before; an acknowledged step is no longer
outstanding; the active one sends the aperture writes of the last millisecond as one step; after the loss of the link it serves on
alone and keeps no steps. -/
def Claim.PairMirror : Prop :=
  ∀ (s : State), 
    (∀ (m : MirrorStep) (f i o : Nat) (bs : List Byte) (r : Region), s.pair.joined = true → s.standby = true → s.pairState ≠ 4 →
      s.pair.received = [] → m.seq = s.pair.rxSeq → m.writes = [(f, i, o, bs)] → m.table = none → m.fn < 16 → r = s.region f i →
      fld r.attr 56 2 = 2 → o + bs.length ≤ r.size → (∀ a, r.base ≤ a → a < r.base + r.size → s.backed a = true) → s.noLatent →
      ∃ t, exec (.mirrorStepReceived m) s = .next t ∧ (∀ a, nget 0 t.mem a = laidOver (nget 0 s.mem) (r.base + o) bs a) ∧
        t.pair.rxSeq = s.pair.rxSeq + 1 ∧ nget 0 t.pair.last m.fn = m.tag.toNat + 1 ∧ t.pair.received = [] ∧ t.cores = s.cores) ∧
    (∀ m : MirrorStep, 2 ^ 31 ≤ (m.seq - s.pair.rxSeq).toNat → exec (.mirrorStepReceived m) s = .next s) ∧
    (∀ seq : BitVec 32, ∃ t, exec (.mirrorStepAck seq) s = .next t ∧ (∀ x, x ∈ t.pair.sent ↔ x ∈ s.pair.sent ∧ x.seq ≠ seq) ∧
      ((∃ x, x ∈ s.pair.sent ∧ x.seq = seq) → t.cfld offPair 32 16 = min t.pair.sent.length 0xFFFF) ∧
      { t with pair := s.pair, ctl := s.ctl } = s) ∧
    (s.mirrors = true → s.pair.apWrites ≠ [] → ∃ t x, exec .apertureMirrorStep s = .next t ∧ t.pair.sent = s.pair.sent ++ [x] ∧
      x.seq = s.pair.txSeq ∧ x.writes = s.pair.apWrites ∧ t.pair.apWrites = [] ∧ t.pair.txSeq = s.pair.txSeq + 1 ∧
      { t with pair := s.pair, ctl := s.ctl } = s) ∧
    (s.mirrors = false → exec .apertureMirrorStep s = .next s) ∧
    (s.pair.joined = true → s.pairState ≠ 0 → s.pairState ≠ 4 → ∃ t, exec .pairLinkLoss s = .next t ∧ t.pairState = 4 ∧ t.pair.sent = [] ∧
      (∀ i, i = 14 ∨ i = 15 → s.cfld (offPort i) 0 3 = 7 → t.cfld (offPort i) 0 3 = 0) ∧ t.cores = s.cores ∧
      ((∀ e, e ∈ s.bays → ∀ l, l ∈ e.2.lines → l.kind = .remote → l.dirty = false) → SameMemory s t))

/-- R410, R544, R545, R547: ATTEST queues a nonce, at most 16 together; the signing engine captures one report at a time and answers it when its
signing ends; GET_CERT returns a certificate. -/
def Claim.Attestation : Prop :=
  ∀ (s : State) (id : Nat) (c : Cmd),
    (s.cmdFor id 0x70 = some c → c.unused [(0x10, 32)] = [] → c.started = false →
      (16 ≤ s.attesting → exec (.attest id) s = .next (s.complete id 0x04 0 [])) ∧
      (s.attesting < 16 → ∃ t, exec (.attest id) s = .next t ∧
        t.sec.attq = s.sec.attq ++ [{ cmd := id + 1, nonce := (c.entry.drop 0x10).take 32 }] ∧ t.cmd id = some { c with started := true } ∧
        { t with sec := s.sec, cmds := s.cmds, ctl := s.ctl } = s)) ∧
    (∀ a, s.cmdFor id 0x70 = some c → c.started = true → s.sec.signing = some a → a.cmd = id + 1 →
      ∃ u, exec (.attest id) s = .next (State.complete u id 0x00 17856 (s.sec.captured ++ padTo 17088 (Config.sign s.sec.captured))) ∧
        u.sec.signing = none ∧ u.sec.attq = s.sec.attq ∧ u.cmds = s.cmds) ∧
    (∀ a rest, s.sec.signing = none → s.sec.attq = a :: rest → ∃ t, exec .attestSigningStart s = .next t ∧ t.sec.signing = some a ∧
      t.sec.attq = rest ∧ t.sec.captured = s.reportBody a.nonce ∧ { t with sec := s.sec, ctl := s.ctl } = s) ∧
    (s.sec.signing = none → s.sec.attq = [] → exec .attestSigningStart s = .next s) ∧
    (s.cmdFor id 0x71 = some c → c.unused [(0x10, 1)] = [] →
      (c.at_ 0x10 1 ≤ 1 → exec (.getCert id) s = .next (s.complete id 0x00 0 (Config.cert (c.at_ 0x10 1)))) ∧
      (1 < c.at_ 0x10 1 → exec (.getCert id) s = .next (s.complete id 0x03 0x10 [])))

/-- R410, R548: DEBUG_UNLOCK hands out a challenge, and unlocks only with a valid response to it, which spends the challenge either way; JTAG's
boundary scan is open at all times, and a debug instruction before unlock has no effect. -/
def Claim.DebugUnlock : Prop :=
  ∀ (s : State) (id : Nat) (c : Cmd),
    (s.cmdFor id 0x72 = some c → c.unused [(0x10, 1), (0x14, 4), (0x18, 8)] = [] →
      (c.at_ 0x10 1 = 0 → ∃ u ch, exec (.debugUnlock id) s = .next (State.complete u id 0x00 0 ch) ∧ ch.length = 32 ∧
        u.sec.challenge = some ch ∧ u.sec.debug = s.sec.debug ∧ { u with sec := s.sec, ctl := s.ctl, free := s.free } = s) ∧
      (c.at_ 0x10 1 = 1 → c.at_ 0x14 4 = 16272 →
        (s.sec.challenge = none → exec (.debugUnlock id) s = .next (s.complete id 0x03 0x7FFFFFFFFFFFFFFF [])) ∧
        (∀ ch bs, s.sec.challenge = some ch → s.hostRead (c.at_ 0x18 8) 16272 = some bs →
          (s.unlocks ch bs = true → ∃ u, exec (.debugUnlock id) s = .next (State.complete u id 0x00 0 []) ∧ u.sec.debug = true ∧
            u.sec.challenge = none ∧ u.cmds = s.cmds ∧ u.cores = s.cores) ∧
          (s.unlocks ch bs = false → ∃ u, exec (.debugUnlock id) s = .next (State.complete u id 0x0B 6 []) ∧ u.sec.debug = s.sec.debug ∧
            u.sec.challenge = none ∧ u.cmds = s.cmds ∧ u.cores = s.cores)))) ∧
    (∀ code, s.power.viob = true →
      (∃ t, exec (.jtagInstruction code false) s = .next t ∧ t.mc.jtag = code ∧ { t with mc := s.mc } = s) ∧
      (s.sec.debug = false → exec (.jtagInstruction code true) s = .next s) ∧
      (s.sec.debug = true → exec (.jtagInstruction code true) s = .refused .debugInstruction))

/-- R427, R544, R547, R560, R561: while VSTBY and VIOB are present the board reads identity, registers, alert causes (which the read clears),
thermal records, certificates and its report; without VSTBY a message has no effect. -/
def Claim.BoardReads : Prop :=
  ∀ (s : State) (tag x y : Nat) (r : Nat → Nat → List Byte → State),
    (r = fun code st bs => { s with mc := { s.mc with answer := some (code + 0x80, tag, st, bs) } }) →
    (s.power.vstby = true → s.power.viob = true →
      exec (.identity tag) s = .next (r 1 0x00 (s.identity 0)) ∧
      (boardReadable x = true → flitCounter x = false → (x ≠ offBringup ∨ s.stage < 2 ∨ 5 < s.stage) →
        exec (.readReg tag x) s = .next (r 2 0x00 (leBytes 8 (s.creg x).toNat))) ∧
      (x = offBringup → ∃ t v, exec (.readReg tag x) s = .next t ∧ t.mc.answer = some (0x82, tag, 0x00, leBytes 8 v) ∧
        v % 2 ^ 16 = (s.creg x).toNat % 2 ^ 16 ∧ v / 2 ^ 32 = (s.creg x).toNat / 2 ^ 32 ∧ { t with mc := s.mc, free := s.free } = s) ∧
      (flitCounter x = true → ∃ t v, exec (.readReg tag x) s = .next t ∧ t.mc.answer = some (0x82, tag, 0x00, leBytes 8 v) ∧
        { t with mc := s.mc, free := s.free } = s) ∧
      (boardReadable x = false → exec (.readReg tag x) s = .next (r 2 0x03 [])) ∧
      (∃ t, exec (.alertStatus tag) s = .next t ∧ t.mc.answer = some (0x83, tag, 0x00, leBytes 8 s.mc.alerts.toNat) ∧ t.mc.alerts = 0 ∧
        t.power.alertN = false ∧ { t with mc := s.mc, power := s.power } = s) ∧
      exec (.bmcThermalRecordRead tag x) s = .next (r 6 0x00 ((s.thermFrom x).take 3968)) ∧
      (x ≤ 1 → exec (.bmcGetCert tag x y) s = .next (r 13 0x00 (((Config.cert x).drop y).take 1024))) ∧
      (s.boardSigning = true → exec (.attestRead tag x) s = .next (r 12 0x04 [])) ∧
      (s.boardSigning = false → exec (.attestRead tag x) s = .next (r 12 0x00 ((s.sec.report.drop x).take 1024)))) ∧
    (s.power.vstby = false → exec (.identity tag) s = .next s ∧ exec (.readReg tag x) s = .next s ∧ exec (.alertStatus tag) s = .next s)

/-- R402, R427, R475, R490, R493, R540, R547, R560, R561: the board wakes a BOLTED module, which starts its bring-up, asks for a module reset, clears
a trip that may be cleared, enrols an owner with a valid signature, writes the domain record, queues an attestation, and gives the
endpoint its id. -/
def Claim.BoardRequests : Prop :=
  ∀ (s : State) (tag : Nat), s.power.vstby = true → s.power.viob = true →
    (s.power.bolted = true → s.power.descent = 0 → s.therm.tripped = false → nget 0 s.sec.active 1 < 2 →
      s.slotOk 1 (nget 0 s.sec.active 1) = true →
      ∃ t, exec (.wake tag) s = .next t ∧ t.stage = 1 ∧ t.power.mainEn = true ∧ t.power.bolted = false ∧ fld t.pcie.knock 0 4 = 5 ∧
        t.mc.answer = some (0x84, tag, 0x00, [])) ∧
    (s.power.bolted = true → s.therm.tripped = true → ∃ t, exec (.wake tag) s = .next t ∧ t.mc.answer = some (0x84, tag, 0x05, []) ∧
      { t with mc := s.mc } = s) ∧
    (∀ flags, flags ≤ 1 → s.power.bolted = false → s.power.descent = 0 → ∃ t, exec (.bmcResetModule tag flags) s = .next t ∧
      t.power.resetPending = some (flags == 1) ∧ t.mc.answer = some (0x85, tag, 0x00, []) ∧ { t with power := s.power, mc := s.mc } = s) ∧
    ((∀ n, n < 600 → s.acting n < 700) → s.therm.tripped = true → ∃ t, exec (.bmcClearTrip tag) s = .next t ∧ t.therm.tripped = false ∧
      t.power.thermtripN = false ∧ t.mc.answer = some (0x87, tag, 0x00, [])) ∧
    ((∃ n, n < 600 ∧ 700 ≤ s.acting n) → ∃ t, exec (.bmcClearTrip tag) s = .next t ∧ t.mc.answer = some (0x87, tag, 0x05, []) ∧
      { t with mc := s.mc } = s) ∧
    (∀ old data, (9, old) ∈ s.sec.xfer → (s.sec.xfer.map fun (e : Nat × Xfer) => e.1).Nodup → old.component = 0 → data.length ≤ 1024 →
      (old.data ++ data).length = 16288 →
      s.sec.owner = false → s.img.session = none → s.img.image = none → s.fuseWindow = true →
      ((old.data ++ data).drop 48).take 16 = padTo 16 s.mc.serial →
      Config.verify ((old.data ++ data).take 48) (enrolMessage (padTo 16 s.mc.serial)) ((old.data ++ data).drop 64) = true →
      ∃ t, exec (.ownerEnroll tag 2 old.data.length data) s = .next t ∧ t.sec.owner = true ∧
        t.sec.ownerHash = sha256 ((old.data ++ data).take 48) ∧ t.mc.answer = some (0x89, tag, 0x00, []) ∧ t.cores = s.cores ∧ t.img = s.img) ∧
    (∀ data, data.length ≤ 1024 → ∃ t x, exec (.ownerEnroll tag 1 0 data) s = .next t ∧ (9, x) ∈ t.sec.xfer ∧ x.data = data ∧
      t.sec.owner = s.sec.owner ∧ t.mc.answer = some (0x89, tag, 0x00, []) ∧ { t with sec := s.sec, mc := s.mc } = s) ∧
    (∀ m d first routes, m ≤ 4095 → d < 2 ^ 32 → List.length routes ≤ 512 → first + List.length routes ≤ 4096 → s.norWindow = true →
      ∃ t, exec (.domainWrite tag m d first routes) s = .next t ∧ t.mc.record = some (m, d) ∧
        (∀ i, nget 0 t.mc.routes i = if first ≤ i ∧ i < first + List.length routes then routes.getD (i - first) 0 % 0x20000
          else nget 0 s.mc.routes i) ∧ t.mc.answer = some (0x8A, tag, 0x00, []) ∧ { t with mc := s.mc } = s) ∧
    (∀ nonce : List Byte, nonce.length = 32 → s.attesting < 16 → ∃ t, exec (.bmcAttest tag nonce) s = .next t ∧
      t.sec.attq = s.sec.attq ++ [{ cmd := 0, nonce := nonce }] ∧ t.mc.answer = some (0x8B, tag, 0x00, []) ∧
      { t with sec := s.sec, ctl := s.ctl, mc := s.mc } = s) ∧
    (∀ bytes, ∃ t, exec (.mctpControlMessage bytes) s = .next t ∧ t.mc.eid = (eidOf bytes).getD s.mc.eid ∧ t.mc.answer ≠ none ∧
      { t with mc := s.mc, free := s.free } = s)

/-- A step takes the command at the front of the queue and answers what exec answers on it with the queue's rest. -/
def Claim.StepTakesTheFront : Prop :=
  ∀ (s : State) (c : Instr) (rest : List Instr), s.pending = c :: rest → step s = exec c { s with pending := rest }

/-- The queue is first in, first out: a step that answers a next state has taken the front command and left the others as they were. The
ordering code of the module (R1) stays. -/
def Claim.QueueOrder : Prop :=
  ∀ (s t : State), step s = .next t → t.pending = s.pending.tail ∧ t.wca1608 = s.wca1608

/-- On an empty queue the block idles. The model's own choice (log entry 2): what happens with time happens in the rows of the table. -/
def Claim.IdleStep : Prop := ∀ s : State, s.pending = [] → step s = .next s

/-- A command of units that exist answers a next state, whatever the state and its data are: only a JTAG instruction that asks for the debug
unit may stop, by name. A command of a unit that does not exist is the fault noSuchUnit, which is the model's name (log entry 1). -/
def Claim.CommandsComplete : Prop :=
  ∀ (i : Instr) (s : State),
    (i.wf = true → (∃ t, exec i s = .next t) ∨ exec i s = .refused .debugInstruction) ∧
    (i.wf = true → (∀ code op, i ≠ .jtagInstruction code op) → ∃ t, exec i s = .next t) ∧
    (i.wf = false → exec i s = .fault .noSuchUnit)

/-- R75, R77, R78: a 64-bit word and an instruction of a core spell one another. A word decodes to an instruction exactly where it is a word
of that instruction, with every field of its form at any value; every other word decodes to none. -/
def Claim.InstructionWords : Prop :=
  ∀ (who : Agent) (w : W64) (i : Instr), coreInstr who w = some i ↔ Spells who i w

/-- The canonical form of device memory and of the host memory that the module reads and writes. -/
def Claim.Memories (s : State) : Prop := memWf s.mem = true ∧ memWf s.host = true

/-- Every step keeps both memories canonical, so that equal memories are equal data. -/
def Claim.MemoriesStayCanonical : Prop := ∀ (s t : State), Claim.Memories s → step s = .next t → Claim.Memories t

/-- R95, R216, R229, R343, R351, R436, R449, R468, R481: the state after module reset. No command waits; no core runs; every s register reads 0,
WDOG reads 0x0C35 and the other stored control and status registers 0; the registers of control space read their reset values; every
letterbox is disabled; no image is committed; bring-up stands at stage 1; both memories are canonical. That the memories read 0 is the
model's choice (log entry 3). -/
def Claim.ResetState : Prop :=
  State.reset.pending = [] ∧
  (∀ c, (State.reset.core c).running = false ∧ (State.reset.core c).csrReg 0x020 = 0x0C35 ∧
    (∀ n, n ≠ 0x020 → (State.reset.core c).csrReg n = 0) ∧ (State.reset.core c).preg 0 = true ∧ (∀ n, (State.reset.core c).sreg n = 0)) ∧
  (∀ n, n < 1344 → State.reset.creg (offBayCfg n) = 0x1000) ∧
  (∀ p, p < 8 → State.reset.creg (offRegMode p) = 0x0000199901000010 ∧ State.reset.creg (offRemote p) = 0x104 ∧
    State.reset.creg (offPwr p) = 2 ∧ (∀ c, c < 8 → State.reset.creg (offCache p c) = 0xE10 ∧ State.reset.creg (offClass p c) = 0)) ∧
  (∀ g, g < 336 → State.reset.creg (offRegionPwr g) = 0xC8000000) ∧
  State.reset.creg offSupply = 0xF0 ∧ State.reset.creg offPwrModule = 0 ∧ State.reset.creg offBringup = 1 ∧
  (∀ f, f < 16 → (State.reset.fn f).st = .disabled ∧ (State.reset.fn f).sqBase = 0 ∧ (State.reset.fn f).cqBase = 0 ∧
    (State.reset.fn f).ringCfg = 0 ∧ (State.reset.fn f).aperture = 0) ∧
  (∀ f i, f < 16 → i < 64 → State.reset.region f i = { attr := 0xF000000000, base := 0, rel := 0 }) ∧
  State.reset.img.image = none ∧ State.reset.img.session = none ∧ State.reset.runs = [] ∧ State.reset.cmds = [] ∧
  (∀ a, nget 0 State.reset.mem a = 0) ∧ Claim.Memories State.reset

/-- R22, R23, R24: the numbers of clusters and cores, and the partition and power region of a cluster at tower a, column c and row r. A
power region lies in one partition, and each partition holds 42. -/
def Claim.NumbersOfUnits : Prop :=
  (∀ a c r n, a < 2 → c < 24 → r < 28 → n = ((a * 28) + r) * 24 + c →
    Unit.cluster n = true ∧ partOfCluster n = 4 * a + 2 * (if 12 ≤ c then 1 else 0) + (if 14 ≤ r then 1 else 0) ∧
    powerRegionOf n = 168 * a + ((r / 2) * 12 + c / 2) ∧ n ∈ clustersOfPart (partOfCluster n) ∧ n ∈ clustersOfRegion (powerRegionOf n) ∧
    ∀ slot, slot < 17 → Unit.core (n * 17 + slot) = true ∧ clusterOf (n * 17 + slot) = n) ∧
  (∀ m n, m < 1344 → n < 1344 → powerRegionOf m = powerRegionOf n → partOfCluster m = partOfCluster n) ∧
  (∀ p, p < 8 → ((clustersOfPart p).map powerRegionOf).eraseDups.length = 42)

/-- R413: ECHO returns its 48 PARAMS bytes unchanged as a result of 48 bytes. -/
def Claim.EchoReturnsItsParameters : Prop :=
  ∀ (s : State) (id : Nat) (c : Cmd), s.cmdFor id 0xF0 = some c → c.entry.length = 64 →
    exec (.echo id) s = .next (s.complete id 0x00 0 ((c.entry.drop 16).take 48)) ∧
    (c.mute = false → c.dead = false → c.tookSlot = true → 48 ≤ c.resultLen →
      ∃ t, exec (.echo id) s = .next t ∧ t.cmd id = none ∧ ((t.fn c.fn).slot c.slotIx).st = 2 ∧
        ((t.fn c.fn).slot c.slotIx).status = 0 ∧ ((t.fn c.fn).slot c.slotIx).length = 48 ∧
        ((t.fn c.fn).slot c.slotIx).payload = (c.entry.drop 16).take 48 ∧
        (∀ i, i ≠ c.slotIx → (t.fn c.fn).slot i = (s.fn c.fn).slot i) ∧ SameMemory s t ∧ t.cores = s.cores)
end Sys2Proof

section

open Sys2Proof Sys2Proof.Machine

/-! ### The obligations -/

/-- Integer instructions in scalar code: results and frame. -/
def Obligations.ScalarIntegers : Prop :=
  Claim.ScalarIntegerResults ∧ Claim.ScalarImmediatesAndCompare

/-- Integer instructions in thread code: results and frame. -/
def Obligations.ThreadIntegers : Prop :=
  Claim.ThreadIntegerResults ∧ Claim.ThreadImmediatesAndCompare

/-- Branches, calls and returns; what an issue checks, in which order. -/
def Obligations.ControlFlow : Prop :=
  Claim.ControlTransfers ∧ Claim.IssueChecks

/-- Control and status registers and tensor descriptors (counters of time open: the model's choice, log entry 4). -/
def Obligations.CoreRegisters : Prop :=
  Claim.ControlAndStatusRegisters ∧ Claim.TensorDescriptors

/-- Scalar loads and stores: bytes, order of checks, frame. -/
def Obligations.ScalarMemory : Prop :=
  Claim.ScalarLoads ∧ Claim.LoadAnswers ∧ Claim.ScalarStores

/-- Fences and DONE. -/
def Obligations.Fences : Prop :=
  Claim.FencesAndDone

/-- Loads, stores, register reads and fences in thread code. -/
def Obligations.ThreadMemory : Prop :=
  Claim.ThreadReadsAndFences ∧ Claim.ThreadLoadsAndStores

/-- Messages from send buffer to receive queue. -/
def Obligations.Messages : Prop :=
  Claim.MessageSend ∧ Claim.MessageReceive ∧ Claim.MessageTransport

/-- Lane-wise vector instructions (approximate results open: the model's choice, log entry 5). -/
def Obligations.VectorArithmetic : Prop :=
  Claim.VectorLanes ∧ Claim.ThreadLanes ∧ Claim.ApproximateLanes ∧ Claim.VectorPermuteAndGet

/-- VRED.SUM and VRED.SEG. -/
def Obligations.VectorSums : Prop :=
  Claim.VectorReductions

/-- Vector loads and stores, plain and strided. -/
def Obligations.VectorMemory : Prop :=
  Claim.VectorLoadsAndStores ∧ Claim.VectorStridedAccess

/-- CVT, CVT.ENC and CVT.DEC. -/
def Obligations.Conversions : Prop :=
  Claim.ElementConversions ∧ Claim.BlockConversions

/-- MMA: issue, K = 0, and one step. -/
def Obligations.MatrixMultiply : Prop :=
  Claim.MatrixIssue ∧ Claim.MatrixStep

/-- Accumulator moves and their conversions. -/
def Obligations.Accumulators : Prop :=
  Claim.AccumulatorMoves ∧ Claim.AccumulatorQueue ∧ Claim.AccumulatorElements

/-- Thread blocks: launch, join, exit, barriers. -/
def Obligations.ThreadBlocks : Prop :=
  Claim.BlockLaunch ∧ Claim.ThreadExit ∧ Claim.ThreadBarriers

/-- Locks: try, free words, release. -/
def Obligations.Locks : Prop :=
  Claim.LockTry ∧ Claim.LockWordFree ∧ Claim.LockRelease

/-- YIELD, parking and votes. -/
def Obligations.YieldAndVote : Prop :=
  Claim.YieldAndParking ∧ Claim.ThreadVotes

/-- Stream slots: start, wait, poll, cancel. -/
def Obligations.StreamSlots : Prop :=
  Claim.StreamStart ∧ Claim.StreamWaitPollCancel ∧ Claim.StreamStartBeginEnd

/-- Stream programs: loops, addresses, moves. -/
def Obligations.StreamPrograms : Prop :=
  Claim.StreamLoopsAndAddresses ∧ Claim.StreamMove ∧ Claim.StreamRows ∧ Claim.StreamTransposedMove

/-- Cache hints: prefetch, pin, unpin, dead. -/
def Obligations.SillHints : Prop :=
  Claim.CacheHints

/-- Epochs: opening, joining, confirming, aborting, polling, closing. -/
def Obligations.Epochs : Prop :=
  Claim.EpochOpen ∧ Claim.EpochResolution

/-- What the end of a confirmation and of an abort leaves. -/
def Obligations.EpochEnds : Prop :=
  Claim.EpochConfirmed ∧ Claim.EpochAborted

/-- Traps, and the watchdogs that raise them. -/
def Obligations.CoreTraps : Prop :=
  Claim.Traps

/-- Read requests and fills of a bay. -/
def Obligations.BayTransfers : Prop :=
  Claim.BayReads ∧ Claim.BayFills

/-- Writes at their home bay, and invalidations. -/
def Obligations.HomeWrites : Prop :=
  Claim.HomeBayWrites ∧ Claim.Invalidations

/-- Response buffers, patrols and the cluster clock. -/
def Obligations.ResponsesAndPatrols : Prop :=
  Claim.Responses ∧ Claim.ArrayPatrols ∧ Claim.ClusterClock

/-- HBM sectors under correction and poison; refresh, polls and retraining. -/
def Obligations.DeviceMemory : Prop :=
  Claim.HbmSectors ∧ Claim.HbmUpkeep

/-- Near-bank sequences: kicks, steps, hand-back, activation pause. -/
def Obligations.NearBank : Prop :=
  Claim.NearBankSequences ∧ Claim.NearBankSteps ∧ Claim.NearBankResume

/-- Submission entries taken and completion entries written. -/
def Obligations.LetterboxEntries : Prop :=
  Claim.EntryTaken ∧ Claim.CompletionEntry

/-- Letterbox registers, doorbells and interrupts. -/
def Obligations.LetterboxControl : Prop :=
  Claim.LetterboxRegisters ∧ Claim.LetterboxInterrupts

/-- Region tables and the aperture. -/
def Obligations.Regions : Prop :=
  Claim.RegionTable ∧ Claim.Aperture

/-- Who writes which register, and what stays. -/
def Obligations.RegisterAccess : Prop :=
  Claim.BondRepair ∧ Claim.RegisterWrites

/-- Runs: taken, launched, shutters opened. -/
def Obligations.RunStarts : Prop :=
  Claim.RunTaken ∧ Claim.RunStarts ∧ Claim.ShutterStages

/-- Runs: completion, limits, CONFIRM, ABORT_SPEC and CANCEL. -/
def Obligations.RunEnds : Prop :=
  Claim.RunCompletes ∧ Claim.RunLimits ∧ Claim.SpeculativeRequests

/-- COPY, FILL, SCRUB, PIN, UNPIN, RESULT_RELEASE and stepping. -/
def Obligations.MemoryCommands : Prop :=
  Claim.MemoryMoves ∧ Claim.Scrubbing ∧ Claim.Pins ∧ Claim.SlotsAndEcho

/-- ECHO returns its parameters. -/
def Obligations.EchoReturnsItsParameters : Prop :=
  Claim.EchoReturnsItsParameters

/-- Core, cluster and partition resets. -/
def Obligations.Resets : Prop :=
  Claim.CoreResets ∧ Claim.PartitionResets

/-- Progress monitors, controller restarts and dumps. -/
def Obligations.Monitors : Prop :=
  Claim.ProgressMonitors ∧ Claim.Dumps

/-- Class tables, regulation mode, quotas and louvres. -/
def Obligations.TrafficRegulation : Prop :=
  Claim.Regulation

/-- Regulator cells, region limiters, tower governors and boost. -/
def Obligations.PowerRegions : Prop :=
  Claim.RegulatorCells ∧ Claim.RegionLimiter ∧ Claim.TowerGovernor

/-- Bring-up from VSTBY to service. -/
def Obligations.Bringup : Prop :=
  Claim.BringupStart ∧ Claim.BringupStages

/-- Supply events and module reset. -/
def Obligations.Supplies : Prop :=
  Claim.SupplyEvents ∧ Claim.ModuleReset

/-- Power states of partitions and module. -/
def Obligations.PowerStates : Prop :=
  Claim.PartitionPower ∧ Claim.PowerCommands

/-- Function resets, Bus Master Enable and the PCI Express link. -/
def Obligations.HostFunctions : Prop :=
  Claim.FunctionResets ∧ Claim.BusMasterEnable ∧ Claim.PcieLink

/-- Knocks, Seunon ports and remote requests. -/
def Obligations.ModuleLinks : Prop :=
  Claim.Knocks ∧ Claim.SeunonPorts ∧ Claim.RemoteRequests

/-- Thermal actions, trips, records and cycles. -/
def Obligations.Thermal : Prop :=
  Claim.ThermalActions ∧ Claim.ThermalTrip ∧ Claim.ThermalCycles

/-- Queries and counters. -/
def Obligations.QueryCommands : Prop :=
  Claim.Queries ∧ Claim.CounterReads

/-- Image staging, commit, unload and table patches. -/
def Obligations.Images : Prop :=
  Claim.ImageTransfer ∧ Claim.ImageCommit ∧ Claim.TablePatches

/-- Unit retirement, tests, recalibration and stack migration. -/
def Obligations.Service : Prop :=
  Claim.UnitService ∧ Claim.Migration

/-- Firmware staging and activation. -/
def Obligations.Firmware : Prop :=
  Claim.FirmwareStaging ∧ Claim.FirmwareActivation

/-- Pairs: join, sync, takeover, mirror steps. -/
def Obligations.Pairs : Prop :=
  Claim.PairCommands ∧ Claim.PairMirror

/-- Attestation, certificates and debug unlock. -/
def Obligations.Attestation : Prop :=
  Claim.Attestation ∧ Claim.DebugUnlock

/-- Board messages. -/
def Obligations.Board : Prop :=
  Claim.BoardReads ∧ Claim.BoardRequests

/-- A step runs the front command; an empty queue idles (the model's choice, log entry 2). -/
def Obligations.StepRunsTheFrontCommand : Prop :=
  Claim.StepTakesTheFront ∧ Claim.IdleStep

/-- No command changes the queue behind it. -/
def Obligations.QueueOrder : Prop :=
  Claim.QueueOrder

/-- Every command of units that exist completes; the fault is the model's (log entry 1). -/
def Obligations.CommandsComplete : Prop :=
  Claim.CommandsComplete

/-- Words and instructions of a core spell one another, every field at every value. -/
def Obligations.InstructionWords : Prop :=
  Claim.InstructionWords

/-- Every step keeps device and host memory in canonical form. -/
def Obligations.MemoriesStayCanonical : Prop :=
  Claim.MemoriesStayCanonical

/-- The state after module reset (zeros of memory: the model's choice, log entry 3). -/
def Obligations.ResetState : Prop :=
  Claim.ResetState

/-- Numbers of clusters, cores, partitions and power regions. -/
def Obligations.UnitNumbers : Prop :=
  Claim.NumbersOfUnits


end
end

