-- ==== Sys2Proof/Laws/Maps.lean ====
section
/-! SUPPORT. Sparse maps and memories: a read after a write, a write elsewhere, and the canonical form that every
memory operation keeps. -/

namespace Sys2Proof.Machine
open Sys2Proof

variable {α : Type}

theorem nget_ndel_same (d : α) (k : Nat) (m : NMap α) : nget d (ndel k m) k = d := by
  induction m with
  | nil => rfl
  | cons e r ih =>
    obtain ⟨k', v⟩ := e
    by_cases h : k = k' <;> simp [ndel, nget, h] <;> simpa [h] using ih

theorem nget_ndel_ne (d : α) {k j : Nat} (h : j ≠ k) (m : NMap α) : nget d (ndel k m) j = nget d m j := by
  induction m with
  | nil => rfl
  | cons e r ih =>
    obtain ⟨k', v⟩ := e
    by_cases hk : k = k'
    · subst hk; simp [ndel, nget, h, ih]
    · by_cases hj : j = k' <;> simp [ndel, nget, hk, hj] <;> simpa [hj] using ih

theorem nget_nins_same (d : α) (k : Nat) (v : α) (m : NMap α) (hm : ∀ e ∈ m, e.1 ≠ k) :
    nget d (nins k v m) k = v := by
  induction m with
  | nil => simp [nins, nget]
  | cons e r ih =>
    obtain ⟨k', w⟩ := e
    have h1 : k' ≠ k := hm (k', w) (by simp)
    by_cases h : k < k'
    · simp [nins, nget, h]
    · simp only [nins, h, if_false, nget, if_neg (Ne.symm h1)]
      exact ih (fun e he => hm e (by simp [he]))

theorem nget_nins_ne (d : α) {k j : Nat} (hj : j ≠ k) (v : α) (m : NMap α) : nget d (nins k v m) j = nget d m j := by
  induction m with
  | nil => simp [nins, nget, hj]
  | cons e r ih =>
    obtain ⟨k', w⟩ := e
    by_cases h : k < k'
    · simp [nins, nget, h, hj]
    · by_cases hk : j = k' <;> simp [nins, nget, h, hk] <;> simpa [hk] using ih

theorem ndel_ne (k : Nat) (m : NMap α) : ∀ e ∈ ndel k m, e.1 ≠ k := by
  induction m with
  | nil => simp [ndel]
  | cons e r ih =>
    obtain ⟨k', v⟩ := e
    by_cases h : k = k'
    · simp only [ndel, h, if_true]; simpa [h] using ih
    · intro x hx
      simp only [ndel, h, if_false, List.mem_cons] at hx
      rcases hx with rfl | hx
      · exact fun hc => h hc.symm
      · exact ih x hx

/-- A read of the key just written. -/
@[simp] theorem nget_nset_same [DecidableEq α] (d : α) (m : NMap α) (k : Nat) (v : α) :
    nget d (nset d m k v) k = v := by
  by_cases h : v = d
  · simp [nset, h, nget_ndel_same]
  · simp only [nset, h, if_false]
    exact nget_nins_same d k v _ (ndel_ne k m)

/-- A read of another key than the one written. -/
theorem nget_nset_ne [DecidableEq α] (d : α) (m : NMap α) {k j : Nat} (v : α) (h : j ≠ k) {e : α} :
    nget d (nset e m k v) j = nget d m j := by
  by_cases hv : v = e
  · simp [nset, hv, nget_ndel_ne d h]
  · simp [nset, hv, nget_nins_ne d h, nget_ndel_ne d h]

/-- A read after a write. -/
theorem nget_nset [DecidableEq α] (d : α) (m : NMap α) (k j : Nat) (v : α) :
    nget d (nset d m k v) j = if j = k then v else nget d m j := by
  by_cases h : j = k
  · subst h; simp
  · simp [h, nget_nset_ne]

theorem ndel_ndel (k : Nat) (m : NMap α) : ndel k (ndel k m) = ndel k m := by
  induction m with
  | nil => rfl
  | cons e r ih =>
    obtain ⟨k', v⟩ := e
    by_cases h : k = k'
    · simp only [ndel, h, if_true]; simpa [h] using ih
    · simp [ndel, h, ih]

theorem ndel_nins (k : Nat) (v : α) (m : NMap α) : ndel k (nins k v m) = ndel k m := by
  induction m with
  | nil => simp [nins, ndel]
  | cons e r ih =>
    obtain ⟨k', w⟩ := e
    by_cases h : k < k'
    · simp [nins, ndel, h]
    · by_cases hk : k = k' <;> simp [nins, ndel, h, hk] <;> simpa [hk] using ih

/-- The later of two writes to one key stands. -/
theorem nset_nset [DecidableEq α] (d : α) (m : NMap α) (k : Nat) (v w : α) :
    nset d (nset d m k v) k w = nset d m k w := by
  have h : ndel k (nset d m k v) = ndel k m := by
    by_cases hv : v = d
    · simp [nset, hv, ndel_ndel]
    · simp [nset, hv, ndel_nins, ndel_ndel]
  unfold nset at h ⊢
  rw [h]

/-! ### Memories -/

/-- A byte of a memory after bytes were stored at a. -/
theorem nget_wrBytes (m : NMap Byte) (a : Nat) (bs : List Byte) (x : Nat) :
    nget 0 (wrBytes m a bs) x = if a ≤ x ∧ x < a + bs.length then bs.getD (x - a) 0 else nget 0 m x := by
  induction bs generalizing m a with
  | nil => simp [wrBytes]
  | cons b r ih =>
    simp only [wrBytes, ih, nget_nset, List.length_cons]
    by_cases h1 : x = a
    · subst h1; simp
    · by_cases h2 : a ≤ x ∧ x < a + (r.length + 1)
      · have h3 : a + 1 ≤ x ∧ x < a + 1 + r.length := by omega
        have h4 : x - a = (x - (a + 1)) + 1 := by omega
        rw [if_pos h3, if_pos h2, h4, List.getD_cons_succ]
      · have h3 : ¬(a + 1 ≤ x ∧ x < a + 1 + r.length) := by omega
        rw [if_neg h3, if_neg h2, if_neg h1]

theorem rdBytes_length (m : NMap Byte) (a n : Nat) : (rdBytes m a n).length = n := by
  induction n generalizing a with
  | zero => rfl
  | succ n ih => simp [rdBytes, ih]

theorem rdBytes_getD (m : NMap Byte) (a n i : Nat) (h : i < n) : (rdBytes m a n).getD i 0 = nget 0 m (a + i) := by
  induction n generalizing a i with
  | zero => omega
  | succ n ih =>
    cases i with
    | zero => simp [rdBytes]
    | succ i =>
      simp only [rdBytes, List.getD_cons_succ]
      rw [ih (a + 1) i (by omega)]
      congr 1
      omega

/-- Bytes read where they were stored are the bytes stored. -/
theorem rdBytes_wrBytes (m : NMap Byte) (a : Nat) (bs : List Byte) : rdBytes (wrBytes m a bs) a bs.length = bs := by
  apply List.ext_getElem
  · simp [rdBytes_length]
  · intro i h1 h2
    have h := rdBytes_getD (wrBytes m a bs) a bs.length i h2
    rw [nget_wrBytes] at h
    rw [List.getD_eq_getElem _ _ h1] at h
    rw [h, if_pos (by omega)]
    simp [h2]

/-! ### The canonical form -/

/-- Every key of a memory is above a bound, and the memory is canonical. -/
def memFrom (lo : Nat) (m : NMap Byte) : Prop := memWf m = true ∧ ∀ e ∈ m, lo ≤ e.1

theorem memWf_cons (k : Nat) (v : Byte) (r : NMap Byte) :
    memWf ((k, v) :: r) = true ↔ v ≠ 0 ∧ memWf r = true ∧ ∀ e ∈ r, k < e.1 := by
  induction r generalizing k v with
  | nil => simp [memWf]
  | cons e r ih =>
    obtain ⟨k', v'⟩ := e
    simp only [memWf, Bool.and_eq_true, bne_iff_ne, ne_eq, decide_eq_true_eq, List.mem_cons, forall_eq_or_imp]
    constructor
    · rintro ⟨⟨h1, h2⟩, h3⟩
      refine ⟨h1, h3, h2, fun e he => ?_⟩
      exact Nat.lt_trans h2 (((ih k' v').1 h3).2.2 e he)
    · rintro ⟨h1, h3, h2, _⟩
      exact ⟨⟨h1, h2⟩, h3⟩

theorem memWf_ndel (k : Nat) {m : NMap Byte} (h : memWf m = true) : memWf (ndel k m) = true ∧ ∀ e ∈ ndel k m, e ∈ m := by
  induction m with
  | nil => simp [ndel, memWf]
  | cons e r ih =>
    obtain ⟨k', v⟩ := e
    obtain ⟨h1, h2, h3⟩ := (memWf_cons k' v r).1 h
    obtain ⟨i1, i2⟩ := ih h2
    by_cases hk : k = k'
    · simp only [ndel, hk, if_true] at *
      exact ⟨i1, fun e he => by simp [i2 e he]⟩
    · simp only [ndel, hk, if_false]
      refine ⟨(memWf_cons _ _ _).2 ⟨h1, i1, fun e he => h3 e (i2 e he)⟩, fun e he => ?_⟩
      rcases List.mem_cons.1 he with rfl | he
      · simp
      · simp [i2 e he]

theorem memWf_nins (k : Nat) (v : Byte) (hv : v ≠ 0) {m : NMap Byte} (h : memWf m = true) (hk : ∀ e ∈ m, e.1 ≠ k) :
    memWf (nins k v m) = true ∧ ∀ e ∈ nins k v m, e = (k, v) ∨ e ∈ m := by
  induction m with
  | nil => simpa [nins, memWf] using hv
  | cons e r ih =>
    obtain ⟨k', w⟩ := e
    obtain ⟨h1, h2, h3⟩ := (memWf_cons k' w r).1 h
    by_cases hlt : k < k'
    · simp only [nins, hlt, if_true]
      refine ⟨(memWf_cons _ _ _).2 ⟨hv, h, fun e he => ?_⟩, fun e he => by simpa using he⟩
      rcases List.mem_cons.1 he with rfl | he
      · exact hlt
      · exact Nat.lt_trans hlt (h3 e he)
    · simp only [nins, hlt, if_false]
      obtain ⟨i1, i2⟩ := ih h2 (fun e he => hk e (by simp [he]))
      have hne : k' ≠ k := hk (k', w) (by simp)
      refine ⟨(memWf_cons _ _ _).2 ⟨h1, i1, fun e he => ?_⟩, fun e he => ?_⟩
      · rcases i2 e he with rfl | he
        · show k' < k
          omega
        · exact h3 e he
      · rcases List.mem_cons.1 he with rfl | he
        · simp
        · rcases i2 e he with rfl | he
          · simp
          · simp [he]

/-- Storing one byte keeps the canonical form. -/
theorem memWf_nset {m : NMap Byte} (h : memWf m = true) (k : Nat) (v : Byte) : memWf (nset 0 m k v) = true := by
  by_cases hv : v = 0
  · simp [nset, hv, (memWf_ndel k h).1]
  · simp only [nset, hv, if_false]
    exact (memWf_nins k v hv (memWf_ndel k h).1 (ndel_ne k m)).1

/-- Storing bytes keeps the canonical form. -/
theorem memWf_wrBytes {m : NMap Byte} (h : memWf m = true) (a : Nat) (bs : List Byte) : memWf (wrBytes m a bs) = true := by
  induction bs generalizing m a with
  | nil => exact h
  | cons b r ih => exact ih (memWf_nset h a b) (a + 1)

/-- Dropping entries keeps the canonical form. -/
theorem memWf_filter {m : NMap Byte} (h : memWf m = true) (p : Nat × Byte → Bool) : memWf (m.filter p) = true := by
  induction m with
  | nil => rfl
  | cons e r ih =>
    obtain ⟨k, v⟩ := e
    obtain ⟨h1, h2, h3⟩ := (memWf_cons k v r).1 h
    by_cases hp : p (k, v) = true
    · simp only [List.filter_cons, hp, if_true]
      exact (memWf_cons _ _ _).2 ⟨h1, ih h2, fun e he => h3 e (List.mem_filter.1 he).1⟩
    · simp only [List.filter_cons, hp]
      exact ih h2

/-- Clearing a range keeps the canonical form. -/
theorem memWf_clrBytes {m : NMap Byte} (h : memWf m = true) (a n : Nat) : memWf (clrBytes m a n) = true :=
  memWf_filter h _

/-- Setting bytes one by one keeps the canonical form. -/
theorem memWf_foldl_nset {m : NMap Byte} (h : memWf m = true) (l : NMap Byte) :
    memWf (l.foldl (fun acc e => nset 0 acc e.1 e.2) m) = true := by
  induction l generalizing m with
  | nil => exact h
  | cons e r ih => exact ih (memWf_nset h e.1 e.2)

/-- Two canonical memories that read alike at every address are the same memory. -/
theorem memWf_ext {m m' : NMap Byte} (h : memWf m = true) (h' : memWf m' = true)
    (heq : ∀ a, nget 0 m a = nget 0 m' a) : m = m' := by
  have none_below : ∀ (k : Nat) (r : NMap Byte), (∀ e ∈ r, k < e.1) → nget 0 r k = 0 := by
    intro k r hr
    induction r with
    | nil => rfl
    | cons e r ih =>
      obtain ⟨k', v⟩ := e
      have h1 : k < k' := hr (k', v) (by simp)
      simp only [nget, if_neg (Nat.ne_of_lt h1)]
      exact ih (fun e he => hr e (by simp [he]))
  induction m generalizing m' with
  | nil =>
    cases m' with
    | nil => rfl
    | cons e r =>
      obtain ⟨k, v⟩ := e
      have := heq k
      simp [nget] at this
      exact absurd this.symm ((memWf_cons k v r).1 h').1
  | cons e r ih =>
    obtain ⟨k, v⟩ := e
    obtain ⟨h1, h2, h3⟩ := (memWf_cons k v r).1 h
    cases m' with
    | nil =>
      have := heq k
      simp [nget] at this
      exact absurd this h1
    | cons e' r' =>
      obtain ⟨k', v'⟩ := e'
      obtain ⟨g1, g2, g3⟩ := (memWf_cons k' v' r').1 h'
      have hk : k = k' := by
        by_contra hne
        rcases Nat.lt_or_gt_of_ne hne with hlt | hgt
        · have := heq k
          simp only [nget, if_true, if_neg hne] at this
          rw [none_below k r' (fun e he => Nat.lt_trans hlt (g3 e he))] at this
          exact h1 this
        · have := heq k'
          simp only [nget, if_true, if_neg (Ne.symm hne)] at this
          rw [none_below k' r (fun e he => Nat.lt_trans hgt (h3 e he))] at this
          exact g1 this.symm
      subst hk
      have hv : v = v' := by simpa [nget] using heq k
      subst hv
      have hr : r = r' := by
        apply ih h2 g2
        intro a
        by_cases ha : a = k
        · subst ha
          rw [none_below a r h3, none_below a r' g3]
        · simpa [nget, ha] using heq a
      rw [hr]

end Sys2Proof.Machine
end

