-- ==== Sys2Proof/Laws/State.lean ====
section
/-! SUPPORT. What each update of the state leaves alone, field by field, so that no proof unfolds a record update. -/

namespace Sys2Proof.Machine
open Sys2Proof

variable (s : State)

@[simp] theorem State.setCore_pending (c : Nat) (k : Core) : (s.setCore c k).pending = s.pending := rfl
@[simp] theorem State.setCore_wca1608 (c : Nat) (k : Core) : (s.setCore c k).wca1608 = s.wca1608 := rfl
@[simp] theorem State.setCore_bays (c : Nat) (k : Core) : (s.setCore c k).bays = s.bays := rfl
@[simp] theorem State.setCore_mem (c : Nat) (k : Core) : (s.setCore c k).mem = s.mem := rfl
@[simp] theorem State.setCore_chk (c : Nat) (k : Core) : (s.setCore c k).chk = s.chk := rfl
@[simp] theorem State.setCore_dues (c : Nat) (k : Core) : (s.setCore c k).dues = s.dues := rfl
@[simp] theorem State.setCore_rest (c : Nat) (k : Core) : (s.setCore c k).rest = s.rest := rfl
@[simp] theorem State.setCore_refresh (c : Nat) (k : Core) : (s.setCore c k).refresh = s.refresh := rfl
@[simp] theorem State.setCore_ctl (c : Nat) (k : Core) : (s.setCore c k).ctl = s.ctl := rfl
@[simp] theorem State.setCore_ctr (c : Nat) (k : Core) : (s.setCore c k).ctr = s.ctr := rfl
@[simp] theorem State.setCore_host (c : Nat) (k : Core) : (s.setCore c k).host = s.host := rfl
@[simp] theorem State.setCore_hostBad (c : Nat) (k : Core) : (s.setCore c k).hostBad = s.hostBad := rfl
@[simp] theorem State.setCore_fns (c : Nat) (k : Core) : (s.setCore c k).fns = s.fns := rfl
@[simp] theorem State.setCore_regions (c : Nat) (k : Core) : (s.setCore c k).regions = s.regions := rfl
@[simp] theorem State.setCore_cmds (c : Nat) (k : Core) : (s.setCore c k).cmds = s.cmds := rfl
@[simp] theorem State.setCore_runs (c : Nat) (k : Core) : (s.setCore c k).runs = s.runs := rfl
@[simp] theorem State.setCore_img (c : Nat) (k : Core) : (s.setCore c k).img = s.img := rfl
@[simp] theorem State.setCore_groups (c : Nat) (k : Core) : (s.setCore c k).groups = s.groups := rfl
@[simp] theorem State.setCore_parts (c : Nat) (k : Core) : (s.setCore c k).parts = s.parts := rfl
@[simp] theorem State.setCore_nbs (c : Nat) (k : Core) : (s.setCore c k).nbs = s.nbs := rfl
@[simp] theorem State.setCore_links (c : Nat) (k : Core) : (s.setCore c k).links = s.links := rfl
@[simp] theorem State.setCore_louvres (c : Nat) (k : Core) : (s.setCore c k).louvres = s.louvres := rfl
@[simp] theorem State.setCore_quotas (c : Nat) (k : Core) : (s.setCore c k).quotas = s.quotas := rfl
@[simp] theorem State.setCore_net (c : Nat) (k : Core) : (s.setCore c k).net = s.net := rfl
@[simp] theorem State.setCore_waits (c : Nat) (k : Core) : (s.setCore c k).waits = s.waits := rfl
@[simp] theorem State.setCore_vis (c : Nat) (k : Core) : (s.setCore c k).vis = s.vis := rfl
@[simp] theorem State.setCore_writes (c : Nat) (k : Core) : (s.setCore c k).writes = s.writes := rfl
@[simp] theorem State.setCore_power (c : Nat) (k : Core) : (s.setCore c k).power = s.power := rfl
@[simp] theorem State.setCore_therm (c : Nat) (k : Core) : (s.setCore c k).therm = s.therm := rfl
@[simp] theorem State.setCore_sec (c : Nat) (k : Core) : (s.setCore c k).sec = s.sec := rfl
@[simp] theorem State.setCore_pcie (c : Nat) (k : Core) : (s.setCore c k).pcie = s.pcie := rfl
@[simp] theorem State.setCore_pair (c : Nat) (k : Core) : (s.setCore c k).pair = s.pair := rfl
@[simp] theorem State.setCore_mc (c : Nat) (k : Core) : (s.setCore c k).mc = s.mc := rfl
@[simp] theorem State.setCore_free (c : Nat) (k : Core) : (s.setCore c k).free = s.free := rfl

@[simp] theorem State.modCore_pending (c : Nat) (f : Core → Core) : (s.modCore c f).pending = s.pending := rfl
@[simp] theorem State.modCore_wca1608 (c : Nat) (f : Core → Core) : (s.modCore c f).wca1608 = s.wca1608 := rfl
@[simp] theorem State.modCore_bays (c : Nat) (f : Core → Core) : (s.modCore c f).bays = s.bays := rfl
@[simp] theorem State.modCore_mem (c : Nat) (f : Core → Core) : (s.modCore c f).mem = s.mem := rfl
@[simp] theorem State.modCore_chk (c : Nat) (f : Core → Core) : (s.modCore c f).chk = s.chk := rfl
@[simp] theorem State.modCore_dues (c : Nat) (f : Core → Core) : (s.modCore c f).dues = s.dues := rfl
@[simp] theorem State.modCore_rest (c : Nat) (f : Core → Core) : (s.modCore c f).rest = s.rest := rfl
@[simp] theorem State.modCore_refresh (c : Nat) (f : Core → Core) : (s.modCore c f).refresh = s.refresh := rfl
@[simp] theorem State.modCore_ctl (c : Nat) (f : Core → Core) : (s.modCore c f).ctl = s.ctl := rfl
@[simp] theorem State.modCore_ctr (c : Nat) (f : Core → Core) : (s.modCore c f).ctr = s.ctr := rfl
@[simp] theorem State.modCore_host (c : Nat) (f : Core → Core) : (s.modCore c f).host = s.host := rfl
@[simp] theorem State.modCore_hostBad (c : Nat) (f : Core → Core) : (s.modCore c f).hostBad = s.hostBad := rfl
@[simp] theorem State.modCore_fns (c : Nat) (f : Core → Core) : (s.modCore c f).fns = s.fns := rfl
@[simp] theorem State.modCore_regions (c : Nat) (f : Core → Core) : (s.modCore c f).regions = s.regions := rfl
@[simp] theorem State.modCore_cmds (c : Nat) (f : Core → Core) : (s.modCore c f).cmds = s.cmds := rfl
@[simp] theorem State.modCore_runs (c : Nat) (f : Core → Core) : (s.modCore c f).runs = s.runs := rfl
@[simp] theorem State.modCore_img (c : Nat) (f : Core → Core) : (s.modCore c f).img = s.img := rfl
@[simp] theorem State.modCore_groups (c : Nat) (f : Core → Core) : (s.modCore c f).groups = s.groups := rfl
@[simp] theorem State.modCore_parts (c : Nat) (f : Core → Core) : (s.modCore c f).parts = s.parts := rfl
@[simp] theorem State.modCore_nbs (c : Nat) (f : Core → Core) : (s.modCore c f).nbs = s.nbs := rfl
@[simp] theorem State.modCore_links (c : Nat) (f : Core → Core) : (s.modCore c f).links = s.links := rfl
@[simp] theorem State.modCore_louvres (c : Nat) (f : Core → Core) : (s.modCore c f).louvres = s.louvres := rfl
@[simp] theorem State.modCore_quotas (c : Nat) (f : Core → Core) : (s.modCore c f).quotas = s.quotas := rfl
@[simp] theorem State.modCore_net (c : Nat) (f : Core → Core) : (s.modCore c f).net = s.net := rfl
@[simp] theorem State.modCore_waits (c : Nat) (f : Core → Core) : (s.modCore c f).waits = s.waits := rfl
@[simp] theorem State.modCore_vis (c : Nat) (f : Core → Core) : (s.modCore c f).vis = s.vis := rfl
@[simp] theorem State.modCore_writes (c : Nat) (f : Core → Core) : (s.modCore c f).writes = s.writes := rfl
@[simp] theorem State.modCore_power (c : Nat) (f : Core → Core) : (s.modCore c f).power = s.power := rfl
@[simp] theorem State.modCore_therm (c : Nat) (f : Core → Core) : (s.modCore c f).therm = s.therm := rfl
@[simp] theorem State.modCore_sec (c : Nat) (f : Core → Core) : (s.modCore c f).sec = s.sec := rfl
@[simp] theorem State.modCore_pcie (c : Nat) (f : Core → Core) : (s.modCore c f).pcie = s.pcie := rfl
@[simp] theorem State.modCore_pair (c : Nat) (f : Core → Core) : (s.modCore c f).pair = s.pair := rfl
@[simp] theorem State.modCore_mc (c : Nat) (f : Core → Core) : (s.modCore c f).mc = s.mc := rfl
@[simp] theorem State.modCore_free (c : Nat) (f : Core → Core) : (s.modCore c f).free = s.free := rfl

@[simp] theorem State.setBay_pending (n : Nat) (b : Bay) : (s.setBay n b).pending = s.pending := rfl
@[simp] theorem State.setBay_wca1608 (n : Nat) (b : Bay) : (s.setBay n b).wca1608 = s.wca1608 := rfl
@[simp] theorem State.setBay_cores (n : Nat) (b : Bay) : (s.setBay n b).cores = s.cores := rfl
@[simp] theorem State.setBay_mem (n : Nat) (b : Bay) : (s.setBay n b).mem = s.mem := rfl
@[simp] theorem State.setBay_chk (n : Nat) (b : Bay) : (s.setBay n b).chk = s.chk := rfl
@[simp] theorem State.setBay_dues (n : Nat) (b : Bay) : (s.setBay n b).dues = s.dues := rfl
@[simp] theorem State.setBay_rest (n : Nat) (b : Bay) : (s.setBay n b).rest = s.rest := rfl
@[simp] theorem State.setBay_refresh (n : Nat) (b : Bay) : (s.setBay n b).refresh = s.refresh := rfl
@[simp] theorem State.setBay_ctl (n : Nat) (b : Bay) : (s.setBay n b).ctl = s.ctl := rfl
@[simp] theorem State.setBay_ctr (n : Nat) (b : Bay) : (s.setBay n b).ctr = s.ctr := rfl
@[simp] theorem State.setBay_host (n : Nat) (b : Bay) : (s.setBay n b).host = s.host := rfl
@[simp] theorem State.setBay_hostBad (n : Nat) (b : Bay) : (s.setBay n b).hostBad = s.hostBad := rfl
@[simp] theorem State.setBay_fns (n : Nat) (b : Bay) : (s.setBay n b).fns = s.fns := rfl
@[simp] theorem State.setBay_regions (n : Nat) (b : Bay) : (s.setBay n b).regions = s.regions := rfl
@[simp] theorem State.setBay_cmds (n : Nat) (b : Bay) : (s.setBay n b).cmds = s.cmds := rfl
@[simp] theorem State.setBay_runs (n : Nat) (b : Bay) : (s.setBay n b).runs = s.runs := rfl
@[simp] theorem State.setBay_img (n : Nat) (b : Bay) : (s.setBay n b).img = s.img := rfl
@[simp] theorem State.setBay_groups (n : Nat) (b : Bay) : (s.setBay n b).groups = s.groups := rfl
@[simp] theorem State.setBay_parts (n : Nat) (b : Bay) : (s.setBay n b).parts = s.parts := rfl
@[simp] theorem State.setBay_nbs (n : Nat) (b : Bay) : (s.setBay n b).nbs = s.nbs := rfl
@[simp] theorem State.setBay_links (n : Nat) (b : Bay) : (s.setBay n b).links = s.links := rfl
@[simp] theorem State.setBay_louvres (n : Nat) (b : Bay) : (s.setBay n b).louvres = s.louvres := rfl
@[simp] theorem State.setBay_quotas (n : Nat) (b : Bay) : (s.setBay n b).quotas = s.quotas := rfl
@[simp] theorem State.setBay_net (n : Nat) (b : Bay) : (s.setBay n b).net = s.net := rfl
@[simp] theorem State.setBay_waits (n : Nat) (b : Bay) : (s.setBay n b).waits = s.waits := rfl
@[simp] theorem State.setBay_vis (n : Nat) (b : Bay) : (s.setBay n b).vis = s.vis := rfl
@[simp] theorem State.setBay_writes (n : Nat) (b : Bay) : (s.setBay n b).writes = s.writes := rfl
@[simp] theorem State.setBay_power (n : Nat) (b : Bay) : (s.setBay n b).power = s.power := rfl
@[simp] theorem State.setBay_therm (n : Nat) (b : Bay) : (s.setBay n b).therm = s.therm := rfl
@[simp] theorem State.setBay_sec (n : Nat) (b : Bay) : (s.setBay n b).sec = s.sec := rfl
@[simp] theorem State.setBay_pcie (n : Nat) (b : Bay) : (s.setBay n b).pcie = s.pcie := rfl
@[simp] theorem State.setBay_pair (n : Nat) (b : Bay) : (s.setBay n b).pair = s.pair := rfl
@[simp] theorem State.setBay_mc (n : Nat) (b : Bay) : (s.setBay n b).mc = s.mc := rfl
@[simp] theorem State.setBay_free (n : Nat) (b : Bay) : (s.setBay n b).free = s.free := rfl

@[simp] theorem State.setFn_pending (f : Nat) (x : Fn) : (s.setFn f x).pending = s.pending := rfl
@[simp] theorem State.setFn_wca1608 (f : Nat) (x : Fn) : (s.setFn f x).wca1608 = s.wca1608 := rfl
@[simp] theorem State.setFn_cores (f : Nat) (x : Fn) : (s.setFn f x).cores = s.cores := rfl
@[simp] theorem State.setFn_bays (f : Nat) (x : Fn) : (s.setFn f x).bays = s.bays := rfl
@[simp] theorem State.setFn_mem (f : Nat) (x : Fn) : (s.setFn f x).mem = s.mem := rfl
@[simp] theorem State.setFn_chk (f : Nat) (x : Fn) : (s.setFn f x).chk = s.chk := rfl
@[simp] theorem State.setFn_dues (f : Nat) (x : Fn) : (s.setFn f x).dues = s.dues := rfl
@[simp] theorem State.setFn_rest (f : Nat) (x : Fn) : (s.setFn f x).rest = s.rest := rfl
@[simp] theorem State.setFn_refresh (f : Nat) (x : Fn) : (s.setFn f x).refresh = s.refresh := rfl
@[simp] theorem State.setFn_ctl (f : Nat) (x : Fn) : (s.setFn f x).ctl = s.ctl := rfl
@[simp] theorem State.setFn_ctr (f : Nat) (x : Fn) : (s.setFn f x).ctr = s.ctr := rfl
@[simp] theorem State.setFn_host (f : Nat) (x : Fn) : (s.setFn f x).host = s.host := rfl
@[simp] theorem State.setFn_hostBad (f : Nat) (x : Fn) : (s.setFn f x).hostBad = s.hostBad := rfl
@[simp] theorem State.setFn_regions (f : Nat) (x : Fn) : (s.setFn f x).regions = s.regions := rfl
@[simp] theorem State.setFn_cmds (f : Nat) (x : Fn) : (s.setFn f x).cmds = s.cmds := rfl
@[simp] theorem State.setFn_runs (f : Nat) (x : Fn) : (s.setFn f x).runs = s.runs := rfl
@[simp] theorem State.setFn_img (f : Nat) (x : Fn) : (s.setFn f x).img = s.img := rfl
@[simp] theorem State.setFn_groups (f : Nat) (x : Fn) : (s.setFn f x).groups = s.groups := rfl
@[simp] theorem State.setFn_parts (f : Nat) (x : Fn) : (s.setFn f x).parts = s.parts := rfl
@[simp] theorem State.setFn_nbs (f : Nat) (x : Fn) : (s.setFn f x).nbs = s.nbs := rfl
@[simp] theorem State.setFn_links (f : Nat) (x : Fn) : (s.setFn f x).links = s.links := rfl
@[simp] theorem State.setFn_louvres (f : Nat) (x : Fn) : (s.setFn f x).louvres = s.louvres := rfl
@[simp] theorem State.setFn_quotas (f : Nat) (x : Fn) : (s.setFn f x).quotas = s.quotas := rfl
@[simp] theorem State.setFn_net (f : Nat) (x : Fn) : (s.setFn f x).net = s.net := rfl
@[simp] theorem State.setFn_waits (f : Nat) (x : Fn) : (s.setFn f x).waits = s.waits := rfl
@[simp] theorem State.setFn_vis (f : Nat) (x : Fn) : (s.setFn f x).vis = s.vis := rfl
@[simp] theorem State.setFn_writes (f : Nat) (x : Fn) : (s.setFn f x).writes = s.writes := rfl
@[simp] theorem State.setFn_power (f : Nat) (x : Fn) : (s.setFn f x).power = s.power := rfl
@[simp] theorem State.setFn_therm (f : Nat) (x : Fn) : (s.setFn f x).therm = s.therm := rfl
@[simp] theorem State.setFn_sec (f : Nat) (x : Fn) : (s.setFn f x).sec = s.sec := rfl
@[simp] theorem State.setFn_pcie (f : Nat) (x : Fn) : (s.setFn f x).pcie = s.pcie := rfl
@[simp] theorem State.setFn_pair (f : Nat) (x : Fn) : (s.setFn f x).pair = s.pair := rfl
@[simp] theorem State.setFn_mc (f : Nat) (x : Fn) : (s.setFn f x).mc = s.mc := rfl
@[simp] theorem State.setFn_free (f : Nat) (x : Fn) : (s.setFn f x).free = s.free := rfl

@[simp] theorem State.modFn_pending (f : Nat) (g : Fn → Fn) : (s.modFn f g).pending = s.pending := rfl
@[simp] theorem State.modFn_wca1608 (f : Nat) (g : Fn → Fn) : (s.modFn f g).wca1608 = s.wca1608 := rfl
@[simp] theorem State.modFn_cores (f : Nat) (g : Fn → Fn) : (s.modFn f g).cores = s.cores := rfl
@[simp] theorem State.modFn_bays (f : Nat) (g : Fn → Fn) : (s.modFn f g).bays = s.bays := rfl
@[simp] theorem State.modFn_mem (f : Nat) (g : Fn → Fn) : (s.modFn f g).mem = s.mem := rfl
@[simp] theorem State.modFn_chk (f : Nat) (g : Fn → Fn) : (s.modFn f g).chk = s.chk := rfl
@[simp] theorem State.modFn_dues (f : Nat) (g : Fn → Fn) : (s.modFn f g).dues = s.dues := rfl
@[simp] theorem State.modFn_rest (f : Nat) (g : Fn → Fn) : (s.modFn f g).rest = s.rest := rfl
@[simp] theorem State.modFn_refresh (f : Nat) (g : Fn → Fn) : (s.modFn f g).refresh = s.refresh := rfl
@[simp] theorem State.modFn_ctl (f : Nat) (g : Fn → Fn) : (s.modFn f g).ctl = s.ctl := rfl
@[simp] theorem State.modFn_ctr (f : Nat) (g : Fn → Fn) : (s.modFn f g).ctr = s.ctr := rfl
@[simp] theorem State.modFn_host (f : Nat) (g : Fn → Fn) : (s.modFn f g).host = s.host := rfl
@[simp] theorem State.modFn_hostBad (f : Nat) (g : Fn → Fn) : (s.modFn f g).hostBad = s.hostBad := rfl
@[simp] theorem State.modFn_regions (f : Nat) (g : Fn → Fn) : (s.modFn f g).regions = s.regions := rfl
@[simp] theorem State.modFn_cmds (f : Nat) (g : Fn → Fn) : (s.modFn f g).cmds = s.cmds := rfl
@[simp] theorem State.modFn_runs (f : Nat) (g : Fn → Fn) : (s.modFn f g).runs = s.runs := rfl
@[simp] theorem State.modFn_img (f : Nat) (g : Fn → Fn) : (s.modFn f g).img = s.img := rfl
@[simp] theorem State.modFn_groups (f : Nat) (g : Fn → Fn) : (s.modFn f g).groups = s.groups := rfl
@[simp] theorem State.modFn_parts (f : Nat) (g : Fn → Fn) : (s.modFn f g).parts = s.parts := rfl
@[simp] theorem State.modFn_nbs (f : Nat) (g : Fn → Fn) : (s.modFn f g).nbs = s.nbs := rfl
@[simp] theorem State.modFn_links (f : Nat) (g : Fn → Fn) : (s.modFn f g).links = s.links := rfl
@[simp] theorem State.modFn_louvres (f : Nat) (g : Fn → Fn) : (s.modFn f g).louvres = s.louvres := rfl
@[simp] theorem State.modFn_quotas (f : Nat) (g : Fn → Fn) : (s.modFn f g).quotas = s.quotas := rfl
@[simp] theorem State.modFn_net (f : Nat) (g : Fn → Fn) : (s.modFn f g).net = s.net := rfl
@[simp] theorem State.modFn_waits (f : Nat) (g : Fn → Fn) : (s.modFn f g).waits = s.waits := rfl
@[simp] theorem State.modFn_vis (f : Nat) (g : Fn → Fn) : (s.modFn f g).vis = s.vis := rfl
@[simp] theorem State.modFn_writes (f : Nat) (g : Fn → Fn) : (s.modFn f g).writes = s.writes := rfl
@[simp] theorem State.modFn_power (f : Nat) (g : Fn → Fn) : (s.modFn f g).power = s.power := rfl
@[simp] theorem State.modFn_therm (f : Nat) (g : Fn → Fn) : (s.modFn f g).therm = s.therm := rfl
@[simp] theorem State.modFn_sec (f : Nat) (g : Fn → Fn) : (s.modFn f g).sec = s.sec := rfl
@[simp] theorem State.modFn_pcie (f : Nat) (g : Fn → Fn) : (s.modFn f g).pcie = s.pcie := rfl
@[simp] theorem State.modFn_pair (f : Nat) (g : Fn → Fn) : (s.modFn f g).pair = s.pair := rfl
@[simp] theorem State.modFn_mc (f : Nat) (g : Fn → Fn) : (s.modFn f g).mc = s.mc := rfl
@[simp] theorem State.modFn_free (f : Nat) (g : Fn → Fn) : (s.modFn f g).free = s.free := rfl

@[simp] theorem State.setRegion_pending (f i : Nat) (r : Region) : (s.setRegion f i r).pending = s.pending := rfl
@[simp] theorem State.setRegion_wca1608 (f i : Nat) (r : Region) : (s.setRegion f i r).wca1608 = s.wca1608 := rfl
@[simp] theorem State.setRegion_cores (f i : Nat) (r : Region) : (s.setRegion f i r).cores = s.cores := rfl
@[simp] theorem State.setRegion_bays (f i : Nat) (r : Region) : (s.setRegion f i r).bays = s.bays := rfl
@[simp] theorem State.setRegion_mem (f i : Nat) (r : Region) : (s.setRegion f i r).mem = s.mem := rfl
@[simp] theorem State.setRegion_chk (f i : Nat) (r : Region) : (s.setRegion f i r).chk = s.chk := rfl
@[simp] theorem State.setRegion_dues (f i : Nat) (r : Region) : (s.setRegion f i r).dues = s.dues := rfl
@[simp] theorem State.setRegion_rest (f i : Nat) (r : Region) : (s.setRegion f i r).rest = s.rest := rfl
@[simp] theorem State.setRegion_refresh (f i : Nat) (r : Region) : (s.setRegion f i r).refresh = s.refresh := rfl
@[simp] theorem State.setRegion_ctl (f i : Nat) (r : Region) : (s.setRegion f i r).ctl = s.ctl := rfl
@[simp] theorem State.setRegion_ctr (f i : Nat) (r : Region) : (s.setRegion f i r).ctr = s.ctr := rfl
@[simp] theorem State.setRegion_host (f i : Nat) (r : Region) : (s.setRegion f i r).host = s.host := rfl
@[simp] theorem State.setRegion_hostBad (f i : Nat) (r : Region) : (s.setRegion f i r).hostBad = s.hostBad := rfl
@[simp] theorem State.setRegion_fns (f i : Nat) (r : Region) : (s.setRegion f i r).fns = s.fns := rfl
@[simp] theorem State.setRegion_cmds (f i : Nat) (r : Region) : (s.setRegion f i r).cmds = s.cmds := rfl
@[simp] theorem State.setRegion_runs (f i : Nat) (r : Region) : (s.setRegion f i r).runs = s.runs := rfl
@[simp] theorem State.setRegion_img (f i : Nat) (r : Region) : (s.setRegion f i r).img = s.img := rfl
@[simp] theorem State.setRegion_groups (f i : Nat) (r : Region) : (s.setRegion f i r).groups = s.groups := rfl
@[simp] theorem State.setRegion_parts (f i : Nat) (r : Region) : (s.setRegion f i r).parts = s.parts := rfl
@[simp] theorem State.setRegion_nbs (f i : Nat) (r : Region) : (s.setRegion f i r).nbs = s.nbs := rfl
@[simp] theorem State.setRegion_links (f i : Nat) (r : Region) : (s.setRegion f i r).links = s.links := rfl
@[simp] theorem State.setRegion_louvres (f i : Nat) (r : Region) : (s.setRegion f i r).louvres = s.louvres := rfl
@[simp] theorem State.setRegion_quotas (f i : Nat) (r : Region) : (s.setRegion f i r).quotas = s.quotas := rfl
@[simp] theorem State.setRegion_net (f i : Nat) (r : Region) : (s.setRegion f i r).net = s.net := rfl
@[simp] theorem State.setRegion_waits (f i : Nat) (r : Region) : (s.setRegion f i r).waits = s.waits := rfl
@[simp] theorem State.setRegion_vis (f i : Nat) (r : Region) : (s.setRegion f i r).vis = s.vis := rfl
@[simp] theorem State.setRegion_writes (f i : Nat) (r : Region) : (s.setRegion f i r).writes = s.writes := rfl
@[simp] theorem State.setRegion_power (f i : Nat) (r : Region) : (s.setRegion f i r).power = s.power := rfl
@[simp] theorem State.setRegion_therm (f i : Nat) (r : Region) : (s.setRegion f i r).therm = s.therm := rfl
@[simp] theorem State.setRegion_sec (f i : Nat) (r : Region) : (s.setRegion f i r).sec = s.sec := rfl
@[simp] theorem State.setRegion_pcie (f i : Nat) (r : Region) : (s.setRegion f i r).pcie = s.pcie := rfl
@[simp] theorem State.setRegion_pair (f i : Nat) (r : Region) : (s.setRegion f i r).pair = s.pair := rfl
@[simp] theorem State.setRegion_mc (f i : Nat) (r : Region) : (s.setRegion f i r).mc = s.mc := rfl
@[simp] theorem State.setRegion_free (f i : Nat) (r : Region) : (s.setRegion f i r).free = s.free := rfl

@[simp] theorem State.setPart_pending (p : Nat) (x : Part) : (s.setPart p x).pending = s.pending := rfl
@[simp] theorem State.setPart_wca1608 (p : Nat) (x : Part) : (s.setPart p x).wca1608 = s.wca1608 := rfl
@[simp] theorem State.setPart_cores (p : Nat) (x : Part) : (s.setPart p x).cores = s.cores := rfl
@[simp] theorem State.setPart_bays (p : Nat) (x : Part) : (s.setPart p x).bays = s.bays := rfl
@[simp] theorem State.setPart_mem (p : Nat) (x : Part) : (s.setPart p x).mem = s.mem := rfl
@[simp] theorem State.setPart_chk (p : Nat) (x : Part) : (s.setPart p x).chk = s.chk := rfl
@[simp] theorem State.setPart_dues (p : Nat) (x : Part) : (s.setPart p x).dues = s.dues := rfl
@[simp] theorem State.setPart_rest (p : Nat) (x : Part) : (s.setPart p x).rest = s.rest := rfl
@[simp] theorem State.setPart_refresh (p : Nat) (x : Part) : (s.setPart p x).refresh = s.refresh := rfl
@[simp] theorem State.setPart_ctl (p : Nat) (x : Part) : (s.setPart p x).ctl = s.ctl := rfl
@[simp] theorem State.setPart_ctr (p : Nat) (x : Part) : (s.setPart p x).ctr = s.ctr := rfl
@[simp] theorem State.setPart_host (p : Nat) (x : Part) : (s.setPart p x).host = s.host := rfl
@[simp] theorem State.setPart_hostBad (p : Nat) (x : Part) : (s.setPart p x).hostBad = s.hostBad := rfl
@[simp] theorem State.setPart_fns (p : Nat) (x : Part) : (s.setPart p x).fns = s.fns := rfl
@[simp] theorem State.setPart_regions (p : Nat) (x : Part) : (s.setPart p x).regions = s.regions := rfl
@[simp] theorem State.setPart_cmds (p : Nat) (x : Part) : (s.setPart p x).cmds = s.cmds := rfl
@[simp] theorem State.setPart_runs (p : Nat) (x : Part) : (s.setPart p x).runs = s.runs := rfl
@[simp] theorem State.setPart_img (p : Nat) (x : Part) : (s.setPart p x).img = s.img := rfl
@[simp] theorem State.setPart_groups (p : Nat) (x : Part) : (s.setPart p x).groups = s.groups := rfl
@[simp] theorem State.setPart_nbs (p : Nat) (x : Part) : (s.setPart p x).nbs = s.nbs := rfl
@[simp] theorem State.setPart_links (p : Nat) (x : Part) : (s.setPart p x).links = s.links := rfl
@[simp] theorem State.setPart_louvres (p : Nat) (x : Part) : (s.setPart p x).louvres = s.louvres := rfl
@[simp] theorem State.setPart_quotas (p : Nat) (x : Part) : (s.setPart p x).quotas = s.quotas := rfl
@[simp] theorem State.setPart_net (p : Nat) (x : Part) : (s.setPart p x).net = s.net := rfl
@[simp] theorem State.setPart_waits (p : Nat) (x : Part) : (s.setPart p x).waits = s.waits := rfl
@[simp] theorem State.setPart_vis (p : Nat) (x : Part) : (s.setPart p x).vis = s.vis := rfl
@[simp] theorem State.setPart_writes (p : Nat) (x : Part) : (s.setPart p x).writes = s.writes := rfl
@[simp] theorem State.setPart_power (p : Nat) (x : Part) : (s.setPart p x).power = s.power := rfl
@[simp] theorem State.setPart_therm (p : Nat) (x : Part) : (s.setPart p x).therm = s.therm := rfl
@[simp] theorem State.setPart_sec (p : Nat) (x : Part) : (s.setPart p x).sec = s.sec := rfl
@[simp] theorem State.setPart_pcie (p : Nat) (x : Part) : (s.setPart p x).pcie = s.pcie := rfl
@[simp] theorem State.setPart_pair (p : Nat) (x : Part) : (s.setPart p x).pair = s.pair := rfl
@[simp] theorem State.setPart_mc (p : Nat) (x : Part) : (s.setPart p x).mc = s.mc := rfl
@[simp] theorem State.setPart_free (p : Nat) (x : Part) : (s.setPart p x).free = s.free := rfl

@[simp] theorem State.setGroup_pending (g : Nat) (x : SpecGroup) : (s.setGroup g x).pending = s.pending := rfl
@[simp] theorem State.setGroup_wca1608 (g : Nat) (x : SpecGroup) : (s.setGroup g x).wca1608 = s.wca1608 := rfl
@[simp] theorem State.setGroup_cores (g : Nat) (x : SpecGroup) : (s.setGroup g x).cores = s.cores := rfl
@[simp] theorem State.setGroup_bays (g : Nat) (x : SpecGroup) : (s.setGroup g x).bays = s.bays := rfl
@[simp] theorem State.setGroup_mem (g : Nat) (x : SpecGroup) : (s.setGroup g x).mem = s.mem := rfl
@[simp] theorem State.setGroup_chk (g : Nat) (x : SpecGroup) : (s.setGroup g x).chk = s.chk := rfl
@[simp] theorem State.setGroup_dues (g : Nat) (x : SpecGroup) : (s.setGroup g x).dues = s.dues := rfl
@[simp] theorem State.setGroup_rest (g : Nat) (x : SpecGroup) : (s.setGroup g x).rest = s.rest := rfl
@[simp] theorem State.setGroup_refresh (g : Nat) (x : SpecGroup) : (s.setGroup g x).refresh = s.refresh := rfl
@[simp] theorem State.setGroup_ctl (g : Nat) (x : SpecGroup) : (s.setGroup g x).ctl = s.ctl := rfl
@[simp] theorem State.setGroup_ctr (g : Nat) (x : SpecGroup) : (s.setGroup g x).ctr = s.ctr := rfl
@[simp] theorem State.setGroup_host (g : Nat) (x : SpecGroup) : (s.setGroup g x).host = s.host := rfl
@[simp] theorem State.setGroup_hostBad (g : Nat) (x : SpecGroup) : (s.setGroup g x).hostBad = s.hostBad := rfl
@[simp] theorem State.setGroup_fns (g : Nat) (x : SpecGroup) : (s.setGroup g x).fns = s.fns := rfl
@[simp] theorem State.setGroup_regions (g : Nat) (x : SpecGroup) : (s.setGroup g x).regions = s.regions := rfl
@[simp] theorem State.setGroup_cmds (g : Nat) (x : SpecGroup) : (s.setGroup g x).cmds = s.cmds := rfl
@[simp] theorem State.setGroup_runs (g : Nat) (x : SpecGroup) : (s.setGroup g x).runs = s.runs := rfl
@[simp] theorem State.setGroup_img (g : Nat) (x : SpecGroup) : (s.setGroup g x).img = s.img := rfl
@[simp] theorem State.setGroup_parts (g : Nat) (x : SpecGroup) : (s.setGroup g x).parts = s.parts := rfl
@[simp] theorem State.setGroup_nbs (g : Nat) (x : SpecGroup) : (s.setGroup g x).nbs = s.nbs := rfl
@[simp] theorem State.setGroup_links (g : Nat) (x : SpecGroup) : (s.setGroup g x).links = s.links := rfl
@[simp] theorem State.setGroup_louvres (g : Nat) (x : SpecGroup) : (s.setGroup g x).louvres = s.louvres := rfl
@[simp] theorem State.setGroup_quotas (g : Nat) (x : SpecGroup) : (s.setGroup g x).quotas = s.quotas := rfl
@[simp] theorem State.setGroup_net (g : Nat) (x : SpecGroup) : (s.setGroup g x).net = s.net := rfl
@[simp] theorem State.setGroup_waits (g : Nat) (x : SpecGroup) : (s.setGroup g x).waits = s.waits := rfl
@[simp] theorem State.setGroup_vis (g : Nat) (x : SpecGroup) : (s.setGroup g x).vis = s.vis := rfl
@[simp] theorem State.setGroup_writes (g : Nat) (x : SpecGroup) : (s.setGroup g x).writes = s.writes := rfl
@[simp] theorem State.setGroup_power (g : Nat) (x : SpecGroup) : (s.setGroup g x).power = s.power := rfl
@[simp] theorem State.setGroup_therm (g : Nat) (x : SpecGroup) : (s.setGroup g x).therm = s.therm := rfl
@[simp] theorem State.setGroup_sec (g : Nat) (x : SpecGroup) : (s.setGroup g x).sec = s.sec := rfl
@[simp] theorem State.setGroup_pcie (g : Nat) (x : SpecGroup) : (s.setGroup g x).pcie = s.pcie := rfl
@[simp] theorem State.setGroup_pair (g : Nat) (x : SpecGroup) : (s.setGroup g x).pair = s.pair := rfl
@[simp] theorem State.setGroup_mc (g : Nat) (x : SpecGroup) : (s.setGroup g x).mc = s.mc := rfl
@[simp] theorem State.setGroup_free (g : Nat) (x : SpecGroup) : (s.setGroup g x).free = s.free := rfl

@[simp] theorem State.setNb_pending (st : Nat) (x : NbStack) : (s.setNb st x).pending = s.pending := rfl
@[simp] theorem State.setNb_wca1608 (st : Nat) (x : NbStack) : (s.setNb st x).wca1608 = s.wca1608 := rfl
@[simp] theorem State.setNb_cores (st : Nat) (x : NbStack) : (s.setNb st x).cores = s.cores := rfl
@[simp] theorem State.setNb_bays (st : Nat) (x : NbStack) : (s.setNb st x).bays = s.bays := rfl
@[simp] theorem State.setNb_mem (st : Nat) (x : NbStack) : (s.setNb st x).mem = s.mem := rfl
@[simp] theorem State.setNb_chk (st : Nat) (x : NbStack) : (s.setNb st x).chk = s.chk := rfl
@[simp] theorem State.setNb_dues (st : Nat) (x : NbStack) : (s.setNb st x).dues = s.dues := rfl
@[simp] theorem State.setNb_rest (st : Nat) (x : NbStack) : (s.setNb st x).rest = s.rest := rfl
@[simp] theorem State.setNb_refresh (st : Nat) (x : NbStack) : (s.setNb st x).refresh = s.refresh := rfl
@[simp] theorem State.setNb_ctl (st : Nat) (x : NbStack) : (s.setNb st x).ctl = s.ctl := rfl
@[simp] theorem State.setNb_ctr (st : Nat) (x : NbStack) : (s.setNb st x).ctr = s.ctr := rfl
@[simp] theorem State.setNb_host (st : Nat) (x : NbStack) : (s.setNb st x).host = s.host := rfl
@[simp] theorem State.setNb_hostBad (st : Nat) (x : NbStack) : (s.setNb st x).hostBad = s.hostBad := rfl
@[simp] theorem State.setNb_fns (st : Nat) (x : NbStack) : (s.setNb st x).fns = s.fns := rfl
@[simp] theorem State.setNb_regions (st : Nat) (x : NbStack) : (s.setNb st x).regions = s.regions := rfl
@[simp] theorem State.setNb_cmds (st : Nat) (x : NbStack) : (s.setNb st x).cmds = s.cmds := rfl
@[simp] theorem State.setNb_runs (st : Nat) (x : NbStack) : (s.setNb st x).runs = s.runs := rfl
@[simp] theorem State.setNb_img (st : Nat) (x : NbStack) : (s.setNb st x).img = s.img := rfl
@[simp] theorem State.setNb_groups (st : Nat) (x : NbStack) : (s.setNb st x).groups = s.groups := rfl
@[simp] theorem State.setNb_parts (st : Nat) (x : NbStack) : (s.setNb st x).parts = s.parts := rfl
@[simp] theorem State.setNb_links (st : Nat) (x : NbStack) : (s.setNb st x).links = s.links := rfl
@[simp] theorem State.setNb_louvres (st : Nat) (x : NbStack) : (s.setNb st x).louvres = s.louvres := rfl
@[simp] theorem State.setNb_quotas (st : Nat) (x : NbStack) : (s.setNb st x).quotas = s.quotas := rfl
@[simp] theorem State.setNb_net (st : Nat) (x : NbStack) : (s.setNb st x).net = s.net := rfl
@[simp] theorem State.setNb_waits (st : Nat) (x : NbStack) : (s.setNb st x).waits = s.waits := rfl
@[simp] theorem State.setNb_vis (st : Nat) (x : NbStack) : (s.setNb st x).vis = s.vis := rfl
@[simp] theorem State.setNb_writes (st : Nat) (x : NbStack) : (s.setNb st x).writes = s.writes := rfl
@[simp] theorem State.setNb_power (st : Nat) (x : NbStack) : (s.setNb st x).power = s.power := rfl
@[simp] theorem State.setNb_therm (st : Nat) (x : NbStack) : (s.setNb st x).therm = s.therm := rfl
@[simp] theorem State.setNb_sec (st : Nat) (x : NbStack) : (s.setNb st x).sec = s.sec := rfl
@[simp] theorem State.setNb_pcie (st : Nat) (x : NbStack) : (s.setNb st x).pcie = s.pcie := rfl
@[simp] theorem State.setNb_pair (st : Nat) (x : NbStack) : (s.setNb st x).pair = s.pair := rfl
@[simp] theorem State.setNb_mc (st : Nat) (x : NbStack) : (s.setNb st x).mc = s.mc := rfl
@[simp] theorem State.setNb_free (st : Nat) (x : NbStack) : (s.setNb st x).free = s.free := rfl

@[simp] theorem State.modRun_pending (id : Nat) (f : Run → Run) : (s.modRun id f).pending = s.pending := rfl
@[simp] theorem State.modRun_wca1608 (id : Nat) (f : Run → Run) : (s.modRun id f).wca1608 = s.wca1608 := rfl
@[simp] theorem State.modRun_cores (id : Nat) (f : Run → Run) : (s.modRun id f).cores = s.cores := rfl
@[simp] theorem State.modRun_bays (id : Nat) (f : Run → Run) : (s.modRun id f).bays = s.bays := rfl
@[simp] theorem State.modRun_mem (id : Nat) (f : Run → Run) : (s.modRun id f).mem = s.mem := rfl
@[simp] theorem State.modRun_chk (id : Nat) (f : Run → Run) : (s.modRun id f).chk = s.chk := rfl
@[simp] theorem State.modRun_dues (id : Nat) (f : Run → Run) : (s.modRun id f).dues = s.dues := rfl
@[simp] theorem State.modRun_rest (id : Nat) (f : Run → Run) : (s.modRun id f).rest = s.rest := rfl
@[simp] theorem State.modRun_refresh (id : Nat) (f : Run → Run) : (s.modRun id f).refresh = s.refresh := rfl
@[simp] theorem State.modRun_ctl (id : Nat) (f : Run → Run) : (s.modRun id f).ctl = s.ctl := rfl
@[simp] theorem State.modRun_ctr (id : Nat) (f : Run → Run) : (s.modRun id f).ctr = s.ctr := rfl
@[simp] theorem State.modRun_host (id : Nat) (f : Run → Run) : (s.modRun id f).host = s.host := rfl
@[simp] theorem State.modRun_hostBad (id : Nat) (f : Run → Run) : (s.modRun id f).hostBad = s.hostBad := rfl
@[simp] theorem State.modRun_fns (id : Nat) (f : Run → Run) : (s.modRun id f).fns = s.fns := rfl
@[simp] theorem State.modRun_regions (id : Nat) (f : Run → Run) : (s.modRun id f).regions = s.regions := rfl
@[simp] theorem State.modRun_cmds (id : Nat) (f : Run → Run) : (s.modRun id f).cmds = s.cmds := rfl
@[simp] theorem State.modRun_img (id : Nat) (f : Run → Run) : (s.modRun id f).img = s.img := rfl
@[simp] theorem State.modRun_groups (id : Nat) (f : Run → Run) : (s.modRun id f).groups = s.groups := rfl
@[simp] theorem State.modRun_parts (id : Nat) (f : Run → Run) : (s.modRun id f).parts = s.parts := rfl
@[simp] theorem State.modRun_nbs (id : Nat) (f : Run → Run) : (s.modRun id f).nbs = s.nbs := rfl
@[simp] theorem State.modRun_links (id : Nat) (f : Run → Run) : (s.modRun id f).links = s.links := rfl
@[simp] theorem State.modRun_louvres (id : Nat) (f : Run → Run) : (s.modRun id f).louvres = s.louvres := rfl
@[simp] theorem State.modRun_quotas (id : Nat) (f : Run → Run) : (s.modRun id f).quotas = s.quotas := rfl
@[simp] theorem State.modRun_net (id : Nat) (f : Run → Run) : (s.modRun id f).net = s.net := rfl
@[simp] theorem State.modRun_waits (id : Nat) (f : Run → Run) : (s.modRun id f).waits = s.waits := rfl
@[simp] theorem State.modRun_vis (id : Nat) (f : Run → Run) : (s.modRun id f).vis = s.vis := rfl
@[simp] theorem State.modRun_writes (id : Nat) (f : Run → Run) : (s.modRun id f).writes = s.writes := rfl
@[simp] theorem State.modRun_power (id : Nat) (f : Run → Run) : (s.modRun id f).power = s.power := rfl
@[simp] theorem State.modRun_therm (id : Nat) (f : Run → Run) : (s.modRun id f).therm = s.therm := rfl
@[simp] theorem State.modRun_sec (id : Nat) (f : Run → Run) : (s.modRun id f).sec = s.sec := rfl
@[simp] theorem State.modRun_pcie (id : Nat) (f : Run → Run) : (s.modRun id f).pcie = s.pcie := rfl
@[simp] theorem State.modRun_pair (id : Nat) (f : Run → Run) : (s.modRun id f).pair = s.pair := rfl
@[simp] theorem State.modRun_mc (id : Nat) (f : Run → Run) : (s.modRun id f).mc = s.mc := rfl
@[simp] theorem State.modRun_free (id : Nat) (f : Run → Run) : (s.modRun id f).free = s.free := rfl

@[simp] theorem State.modCmd_pending (id : Nat) (f : Cmd → Cmd) : (s.modCmd id f).pending = s.pending := rfl
@[simp] theorem State.modCmd_wca1608 (id : Nat) (f : Cmd → Cmd) : (s.modCmd id f).wca1608 = s.wca1608 := rfl
@[simp] theorem State.modCmd_cores (id : Nat) (f : Cmd → Cmd) : (s.modCmd id f).cores = s.cores := rfl
@[simp] theorem State.modCmd_bays (id : Nat) (f : Cmd → Cmd) : (s.modCmd id f).bays = s.bays := rfl
@[simp] theorem State.modCmd_mem (id : Nat) (f : Cmd → Cmd) : (s.modCmd id f).mem = s.mem := rfl
@[simp] theorem State.modCmd_chk (id : Nat) (f : Cmd → Cmd) : (s.modCmd id f).chk = s.chk := rfl
@[simp] theorem State.modCmd_dues (id : Nat) (f : Cmd → Cmd) : (s.modCmd id f).dues = s.dues := rfl
@[simp] theorem State.modCmd_rest (id : Nat) (f : Cmd → Cmd) : (s.modCmd id f).rest = s.rest := rfl
@[simp] theorem State.modCmd_refresh (id : Nat) (f : Cmd → Cmd) : (s.modCmd id f).refresh = s.refresh := rfl
@[simp] theorem State.modCmd_ctl (id : Nat) (f : Cmd → Cmd) : (s.modCmd id f).ctl = s.ctl := rfl
@[simp] theorem State.modCmd_ctr (id : Nat) (f : Cmd → Cmd) : (s.modCmd id f).ctr = s.ctr := rfl
@[simp] theorem State.modCmd_host (id : Nat) (f : Cmd → Cmd) : (s.modCmd id f).host = s.host := rfl
@[simp] theorem State.modCmd_hostBad (id : Nat) (f : Cmd → Cmd) : (s.modCmd id f).hostBad = s.hostBad := rfl
@[simp] theorem State.modCmd_fns (id : Nat) (f : Cmd → Cmd) : (s.modCmd id f).fns = s.fns := rfl
@[simp] theorem State.modCmd_regions (id : Nat) (f : Cmd → Cmd) : (s.modCmd id f).regions = s.regions := rfl
@[simp] theorem State.modCmd_runs (id : Nat) (f : Cmd → Cmd) : (s.modCmd id f).runs = s.runs := rfl
@[simp] theorem State.modCmd_img (id : Nat) (f : Cmd → Cmd) : (s.modCmd id f).img = s.img := rfl
@[simp] theorem State.modCmd_groups (id : Nat) (f : Cmd → Cmd) : (s.modCmd id f).groups = s.groups := rfl
@[simp] theorem State.modCmd_parts (id : Nat) (f : Cmd → Cmd) : (s.modCmd id f).parts = s.parts := rfl
@[simp] theorem State.modCmd_nbs (id : Nat) (f : Cmd → Cmd) : (s.modCmd id f).nbs = s.nbs := rfl
@[simp] theorem State.modCmd_links (id : Nat) (f : Cmd → Cmd) : (s.modCmd id f).links = s.links := rfl
@[simp] theorem State.modCmd_louvres (id : Nat) (f : Cmd → Cmd) : (s.modCmd id f).louvres = s.louvres := rfl
@[simp] theorem State.modCmd_quotas (id : Nat) (f : Cmd → Cmd) : (s.modCmd id f).quotas = s.quotas := rfl
@[simp] theorem State.modCmd_net (id : Nat) (f : Cmd → Cmd) : (s.modCmd id f).net = s.net := rfl
@[simp] theorem State.modCmd_waits (id : Nat) (f : Cmd → Cmd) : (s.modCmd id f).waits = s.waits := rfl
@[simp] theorem State.modCmd_vis (id : Nat) (f : Cmd → Cmd) : (s.modCmd id f).vis = s.vis := rfl
@[simp] theorem State.modCmd_writes (id : Nat) (f : Cmd → Cmd) : (s.modCmd id f).writes = s.writes := rfl
@[simp] theorem State.modCmd_power (id : Nat) (f : Cmd → Cmd) : (s.modCmd id f).power = s.power := rfl
@[simp] theorem State.modCmd_therm (id : Nat) (f : Cmd → Cmd) : (s.modCmd id f).therm = s.therm := rfl
@[simp] theorem State.modCmd_sec (id : Nat) (f : Cmd → Cmd) : (s.modCmd id f).sec = s.sec := rfl
@[simp] theorem State.modCmd_pcie (id : Nat) (f : Cmd → Cmd) : (s.modCmd id f).pcie = s.pcie := rfl
@[simp] theorem State.modCmd_pair (id : Nat) (f : Cmd → Cmd) : (s.modCmd id f).pair = s.pair := rfl
@[simp] theorem State.modCmd_mc (id : Nat) (f : Cmd → Cmd) : (s.modCmd id f).mc = s.mc := rfl
@[simp] theorem State.modCmd_free (id : Nat) (f : Cmd → Cmd) : (s.modCmd id f).free = s.free := rfl

@[simp] theorem State.setCreg_pending (off : Nat) (v : W64) : (s.setCreg off v).pending = s.pending := rfl
@[simp] theorem State.setCreg_wca1608 (off : Nat) (v : W64) : (s.setCreg off v).wca1608 = s.wca1608 := rfl
@[simp] theorem State.setCreg_cores (off : Nat) (v : W64) : (s.setCreg off v).cores = s.cores := rfl
@[simp] theorem State.setCreg_bays (off : Nat) (v : W64) : (s.setCreg off v).bays = s.bays := rfl
@[simp] theorem State.setCreg_mem (off : Nat) (v : W64) : (s.setCreg off v).mem = s.mem := rfl
@[simp] theorem State.setCreg_chk (off : Nat) (v : W64) : (s.setCreg off v).chk = s.chk := rfl
@[simp] theorem State.setCreg_dues (off : Nat) (v : W64) : (s.setCreg off v).dues = s.dues := rfl
@[simp] theorem State.setCreg_rest (off : Nat) (v : W64) : (s.setCreg off v).rest = s.rest := rfl
@[simp] theorem State.setCreg_refresh (off : Nat) (v : W64) : (s.setCreg off v).refresh = s.refresh := rfl
@[simp] theorem State.setCreg_ctr (off : Nat) (v : W64) : (s.setCreg off v).ctr = s.ctr := rfl
@[simp] theorem State.setCreg_host (off : Nat) (v : W64) : (s.setCreg off v).host = s.host := rfl
@[simp] theorem State.setCreg_hostBad (off : Nat) (v : W64) : (s.setCreg off v).hostBad = s.hostBad := rfl
@[simp] theorem State.setCreg_fns (off : Nat) (v : W64) : (s.setCreg off v).fns = s.fns := rfl
@[simp] theorem State.setCreg_regions (off : Nat) (v : W64) : (s.setCreg off v).regions = s.regions := rfl
@[simp] theorem State.setCreg_cmds (off : Nat) (v : W64) : (s.setCreg off v).cmds = s.cmds := rfl
@[simp] theorem State.setCreg_runs (off : Nat) (v : W64) : (s.setCreg off v).runs = s.runs := rfl
@[simp] theorem State.setCreg_img (off : Nat) (v : W64) : (s.setCreg off v).img = s.img := rfl
@[simp] theorem State.setCreg_groups (off : Nat) (v : W64) : (s.setCreg off v).groups = s.groups := rfl
@[simp] theorem State.setCreg_parts (off : Nat) (v : W64) : (s.setCreg off v).parts = s.parts := rfl
@[simp] theorem State.setCreg_nbs (off : Nat) (v : W64) : (s.setCreg off v).nbs = s.nbs := rfl
@[simp] theorem State.setCreg_links (off : Nat) (v : W64) : (s.setCreg off v).links = s.links := rfl
@[simp] theorem State.setCreg_louvres (off : Nat) (v : W64) : (s.setCreg off v).louvres = s.louvres := rfl
@[simp] theorem State.setCreg_quotas (off : Nat) (v : W64) : (s.setCreg off v).quotas = s.quotas := rfl
@[simp] theorem State.setCreg_net (off : Nat) (v : W64) : (s.setCreg off v).net = s.net := rfl
@[simp] theorem State.setCreg_waits (off : Nat) (v : W64) : (s.setCreg off v).waits = s.waits := rfl
@[simp] theorem State.setCreg_vis (off : Nat) (v : W64) : (s.setCreg off v).vis = s.vis := rfl
@[simp] theorem State.setCreg_writes (off : Nat) (v : W64) : (s.setCreg off v).writes = s.writes := rfl
@[simp] theorem State.setCreg_power (off : Nat) (v : W64) : (s.setCreg off v).power = s.power := rfl
@[simp] theorem State.setCreg_therm (off : Nat) (v : W64) : (s.setCreg off v).therm = s.therm := rfl
@[simp] theorem State.setCreg_sec (off : Nat) (v : W64) : (s.setCreg off v).sec = s.sec := rfl
@[simp] theorem State.setCreg_pcie (off : Nat) (v : W64) : (s.setCreg off v).pcie = s.pcie := rfl
@[simp] theorem State.setCreg_pair (off : Nat) (v : W64) : (s.setCreg off v).pair = s.pair := rfl
@[simp] theorem State.setCreg_mc (off : Nat) (v : W64) : (s.setCreg off v).mc = s.mc := rfl
@[simp] theorem State.setCreg_free (off : Nat) (v : W64) : (s.setCreg off v).free = s.free := rfl

@[simp] theorem State.setCfld_pending (off lo n x : Nat) : (s.setCfld off lo n x).pending = s.pending := rfl
@[simp] theorem State.setCfld_wca1608 (off lo n x : Nat) : (s.setCfld off lo n x).wca1608 = s.wca1608 := rfl
@[simp] theorem State.setCfld_cores (off lo n x : Nat) : (s.setCfld off lo n x).cores = s.cores := rfl
@[simp] theorem State.setCfld_bays (off lo n x : Nat) : (s.setCfld off lo n x).bays = s.bays := rfl
@[simp] theorem State.setCfld_mem (off lo n x : Nat) : (s.setCfld off lo n x).mem = s.mem := rfl
@[simp] theorem State.setCfld_chk (off lo n x : Nat) : (s.setCfld off lo n x).chk = s.chk := rfl
@[simp] theorem State.setCfld_dues (off lo n x : Nat) : (s.setCfld off lo n x).dues = s.dues := rfl
@[simp] theorem State.setCfld_rest (off lo n x : Nat) : (s.setCfld off lo n x).rest = s.rest := rfl
@[simp] theorem State.setCfld_refresh (off lo n x : Nat) : (s.setCfld off lo n x).refresh = s.refresh := rfl
@[simp] theorem State.setCfld_ctr (off lo n x : Nat) : (s.setCfld off lo n x).ctr = s.ctr := rfl
@[simp] theorem State.setCfld_host (off lo n x : Nat) : (s.setCfld off lo n x).host = s.host := rfl
@[simp] theorem State.setCfld_hostBad (off lo n x : Nat) : (s.setCfld off lo n x).hostBad = s.hostBad := rfl
@[simp] theorem State.setCfld_fns (off lo n x : Nat) : (s.setCfld off lo n x).fns = s.fns := rfl
@[simp] theorem State.setCfld_regions (off lo n x : Nat) : (s.setCfld off lo n x).regions = s.regions := rfl
@[simp] theorem State.setCfld_cmds (off lo n x : Nat) : (s.setCfld off lo n x).cmds = s.cmds := rfl
@[simp] theorem State.setCfld_runs (off lo n x : Nat) : (s.setCfld off lo n x).runs = s.runs := rfl
@[simp] theorem State.setCfld_img (off lo n x : Nat) : (s.setCfld off lo n x).img = s.img := rfl
@[simp] theorem State.setCfld_groups (off lo n x : Nat) : (s.setCfld off lo n x).groups = s.groups := rfl
@[simp] theorem State.setCfld_parts (off lo n x : Nat) : (s.setCfld off lo n x).parts = s.parts := rfl
@[simp] theorem State.setCfld_nbs (off lo n x : Nat) : (s.setCfld off lo n x).nbs = s.nbs := rfl
@[simp] theorem State.setCfld_links (off lo n x : Nat) : (s.setCfld off lo n x).links = s.links := rfl
@[simp] theorem State.setCfld_louvres (off lo n x : Nat) : (s.setCfld off lo n x).louvres = s.louvres := rfl
@[simp] theorem State.setCfld_quotas (off lo n x : Nat) : (s.setCfld off lo n x).quotas = s.quotas := rfl
@[simp] theorem State.setCfld_net (off lo n x : Nat) : (s.setCfld off lo n x).net = s.net := rfl
@[simp] theorem State.setCfld_waits (off lo n x : Nat) : (s.setCfld off lo n x).waits = s.waits := rfl
@[simp] theorem State.setCfld_vis (off lo n x : Nat) : (s.setCfld off lo n x).vis = s.vis := rfl
@[simp] theorem State.setCfld_writes (off lo n x : Nat) : (s.setCfld off lo n x).writes = s.writes := rfl
@[simp] theorem State.setCfld_power (off lo n x : Nat) : (s.setCfld off lo n x).power = s.power := rfl
@[simp] theorem State.setCfld_therm (off lo n x : Nat) : (s.setCfld off lo n x).therm = s.therm := rfl
@[simp] theorem State.setCfld_sec (off lo n x : Nat) : (s.setCfld off lo n x).sec = s.sec := rfl
@[simp] theorem State.setCfld_pcie (off lo n x : Nat) : (s.setCfld off lo n x).pcie = s.pcie := rfl
@[simp] theorem State.setCfld_pair (off lo n x : Nat) : (s.setCfld off lo n x).pair = s.pair := rfl
@[simp] theorem State.setCfld_mc (off lo n x : Nat) : (s.setCfld off lo n x).mc = s.mc := rfl
@[simp] theorem State.setCfld_free (off lo n x : Nat) : (s.setCfld off lo n x).free = s.free := rfl

@[simp] theorem State.bump_pending (fam unit pos n : Nat) : (s.bump fam unit pos n).pending = s.pending := rfl
@[simp] theorem State.bump_wca1608 (fam unit pos n : Nat) : (s.bump fam unit pos n).wca1608 = s.wca1608 := rfl
@[simp] theorem State.bump_cores (fam unit pos n : Nat) : (s.bump fam unit pos n).cores = s.cores := rfl
@[simp] theorem State.bump_bays (fam unit pos n : Nat) : (s.bump fam unit pos n).bays = s.bays := rfl
@[simp] theorem State.bump_mem (fam unit pos n : Nat) : (s.bump fam unit pos n).mem = s.mem := rfl
@[simp] theorem State.bump_chk (fam unit pos n : Nat) : (s.bump fam unit pos n).chk = s.chk := rfl
@[simp] theorem State.bump_dues (fam unit pos n : Nat) : (s.bump fam unit pos n).dues = s.dues := rfl
@[simp] theorem State.bump_rest (fam unit pos n : Nat) : (s.bump fam unit pos n).rest = s.rest := rfl
@[simp] theorem State.bump_refresh (fam unit pos n : Nat) : (s.bump fam unit pos n).refresh = s.refresh := rfl
@[simp] theorem State.bump_ctl (fam unit pos n : Nat) : (s.bump fam unit pos n).ctl = s.ctl := rfl
@[simp] theorem State.bump_host (fam unit pos n : Nat) : (s.bump fam unit pos n).host = s.host := rfl
@[simp] theorem State.bump_hostBad (fam unit pos n : Nat) : (s.bump fam unit pos n).hostBad = s.hostBad := rfl
@[simp] theorem State.bump_fns (fam unit pos n : Nat) : (s.bump fam unit pos n).fns = s.fns := rfl
@[simp] theorem State.bump_regions (fam unit pos n : Nat) : (s.bump fam unit pos n).regions = s.regions := rfl
@[simp] theorem State.bump_cmds (fam unit pos n : Nat) : (s.bump fam unit pos n).cmds = s.cmds := rfl
@[simp] theorem State.bump_runs (fam unit pos n : Nat) : (s.bump fam unit pos n).runs = s.runs := rfl
@[simp] theorem State.bump_img (fam unit pos n : Nat) : (s.bump fam unit pos n).img = s.img := rfl
@[simp] theorem State.bump_groups (fam unit pos n : Nat) : (s.bump fam unit pos n).groups = s.groups := rfl
@[simp] theorem State.bump_parts (fam unit pos n : Nat) : (s.bump fam unit pos n).parts = s.parts := rfl
@[simp] theorem State.bump_nbs (fam unit pos n : Nat) : (s.bump fam unit pos n).nbs = s.nbs := rfl
@[simp] theorem State.bump_links (fam unit pos n : Nat) : (s.bump fam unit pos n).links = s.links := rfl
@[simp] theorem State.bump_louvres (fam unit pos n : Nat) : (s.bump fam unit pos n).louvres = s.louvres := rfl
@[simp] theorem State.bump_quotas (fam unit pos n : Nat) : (s.bump fam unit pos n).quotas = s.quotas := rfl
@[simp] theorem State.bump_net (fam unit pos n : Nat) : (s.bump fam unit pos n).net = s.net := rfl
@[simp] theorem State.bump_waits (fam unit pos n : Nat) : (s.bump fam unit pos n).waits = s.waits := rfl
@[simp] theorem State.bump_vis (fam unit pos n : Nat) : (s.bump fam unit pos n).vis = s.vis := rfl
@[simp] theorem State.bump_writes (fam unit pos n : Nat) : (s.bump fam unit pos n).writes = s.writes := rfl
@[simp] theorem State.bump_power (fam unit pos n : Nat) : (s.bump fam unit pos n).power = s.power := rfl
@[simp] theorem State.bump_therm (fam unit pos n : Nat) : (s.bump fam unit pos n).therm = s.therm := rfl
@[simp] theorem State.bump_sec (fam unit pos n : Nat) : (s.bump fam unit pos n).sec = s.sec := rfl
@[simp] theorem State.bump_pcie (fam unit pos n : Nat) : (s.bump fam unit pos n).pcie = s.pcie := rfl
@[simp] theorem State.bump_pair (fam unit pos n : Nat) : (s.bump fam unit pos n).pair = s.pair := rfl
@[simp] theorem State.bump_mc (fam unit pos n : Nat) : (s.bump fam unit pos n).mc = s.mc := rfl
@[simp] theorem State.bump_free (fam unit pos n : Nat) : (s.bump fam unit pos n).free = s.free := rfl

@[simp] theorem State.setCounter_pending (fam unit pos : Nat) (v : W64) : (s.setCounter fam unit pos v).pending = s.pending := rfl
@[simp] theorem State.setCounter_wca1608 (fam unit pos : Nat) (v : W64) : (s.setCounter fam unit pos v).wca1608 = s.wca1608 := rfl
@[simp] theorem State.setCounter_cores (fam unit pos : Nat) (v : W64) : (s.setCounter fam unit pos v).cores = s.cores := rfl
@[simp] theorem State.setCounter_bays (fam unit pos : Nat) (v : W64) : (s.setCounter fam unit pos v).bays = s.bays := rfl
@[simp] theorem State.setCounter_mem (fam unit pos : Nat) (v : W64) : (s.setCounter fam unit pos v).mem = s.mem := rfl
@[simp] theorem State.setCounter_chk (fam unit pos : Nat) (v : W64) : (s.setCounter fam unit pos v).chk = s.chk := rfl
@[simp] theorem State.setCounter_dues (fam unit pos : Nat) (v : W64) : (s.setCounter fam unit pos v).dues = s.dues := rfl
@[simp] theorem State.setCounter_rest (fam unit pos : Nat) (v : W64) : (s.setCounter fam unit pos v).rest = s.rest := rfl
@[simp] theorem State.setCounter_refresh (fam unit pos : Nat) (v : W64) : (s.setCounter fam unit pos v).refresh = s.refresh := rfl
@[simp] theorem State.setCounter_ctl (fam unit pos : Nat) (v : W64) : (s.setCounter fam unit pos v).ctl = s.ctl := rfl
@[simp] theorem State.setCounter_host (fam unit pos : Nat) (v : W64) : (s.setCounter fam unit pos v).host = s.host := rfl
@[simp] theorem State.setCounter_hostBad (fam unit pos : Nat) (v : W64) : (s.setCounter fam unit pos v).hostBad = s.hostBad := rfl
@[simp] theorem State.setCounter_fns (fam unit pos : Nat) (v : W64) : (s.setCounter fam unit pos v).fns = s.fns := rfl
@[simp] theorem State.setCounter_regions (fam unit pos : Nat) (v : W64) : (s.setCounter fam unit pos v).regions = s.regions := rfl
@[simp] theorem State.setCounter_cmds (fam unit pos : Nat) (v : W64) : (s.setCounter fam unit pos v).cmds = s.cmds := rfl
@[simp] theorem State.setCounter_runs (fam unit pos : Nat) (v : W64) : (s.setCounter fam unit pos v).runs = s.runs := rfl
@[simp] theorem State.setCounter_img (fam unit pos : Nat) (v : W64) : (s.setCounter fam unit pos v).img = s.img := rfl
@[simp] theorem State.setCounter_groups (fam unit pos : Nat) (v : W64) : (s.setCounter fam unit pos v).groups = s.groups := rfl
@[simp] theorem State.setCounter_parts (fam unit pos : Nat) (v : W64) : (s.setCounter fam unit pos v).parts = s.parts := rfl
@[simp] theorem State.setCounter_nbs (fam unit pos : Nat) (v : W64) : (s.setCounter fam unit pos v).nbs = s.nbs := rfl
@[simp] theorem State.setCounter_links (fam unit pos : Nat) (v : W64) : (s.setCounter fam unit pos v).links = s.links := rfl
@[simp] theorem State.setCounter_louvres (fam unit pos : Nat) (v : W64) : (s.setCounter fam unit pos v).louvres = s.louvres := rfl
@[simp] theorem State.setCounter_quotas (fam unit pos : Nat) (v : W64) : (s.setCounter fam unit pos v).quotas = s.quotas := rfl
@[simp] theorem State.setCounter_net (fam unit pos : Nat) (v : W64) : (s.setCounter fam unit pos v).net = s.net := rfl
@[simp] theorem State.setCounter_waits (fam unit pos : Nat) (v : W64) : (s.setCounter fam unit pos v).waits = s.waits := rfl
@[simp] theorem State.setCounter_vis (fam unit pos : Nat) (v : W64) : (s.setCounter fam unit pos v).vis = s.vis := rfl
@[simp] theorem State.setCounter_writes (fam unit pos : Nat) (v : W64) : (s.setCounter fam unit pos v).writes = s.writes := rfl
@[simp] theorem State.setCounter_power (fam unit pos : Nat) (v : W64) : (s.setCounter fam unit pos v).power = s.power := rfl
@[simp] theorem State.setCounter_therm (fam unit pos : Nat) (v : W64) : (s.setCounter fam unit pos v).therm = s.therm := rfl
@[simp] theorem State.setCounter_sec (fam unit pos : Nat) (v : W64) : (s.setCounter fam unit pos v).sec = s.sec := rfl
@[simp] theorem State.setCounter_pcie (fam unit pos : Nat) (v : W64) : (s.setCounter fam unit pos v).pcie = s.pcie := rfl
@[simp] theorem State.setCounter_pair (fam unit pos : Nat) (v : W64) : (s.setCounter fam unit pos v).pair = s.pair := rfl
@[simp] theorem State.setCounter_mc (fam unit pos : Nat) (v : W64) : (s.setCounter fam unit pos v).mc = s.mc := rfl
@[simp] theorem State.setCounter_free (fam unit pos : Nat) (v : W64) : (s.setCounter fam unit pos v).free = s.free := rfl

@[simp] theorem State.drew_pending : (s.drew).pending = s.pending := rfl
@[simp] theorem State.drew_wca1608 : (s.drew).wca1608 = s.wca1608 := rfl
@[simp] theorem State.drew_cores : (s.drew).cores = s.cores := rfl
@[simp] theorem State.drew_bays : (s.drew).bays = s.bays := rfl
@[simp] theorem State.drew_mem : (s.drew).mem = s.mem := rfl
@[simp] theorem State.drew_chk : (s.drew).chk = s.chk := rfl
@[simp] theorem State.drew_dues : (s.drew).dues = s.dues := rfl
@[simp] theorem State.drew_rest : (s.drew).rest = s.rest := rfl
@[simp] theorem State.drew_refresh : (s.drew).refresh = s.refresh := rfl
@[simp] theorem State.drew_ctl : (s.drew).ctl = s.ctl := rfl
@[simp] theorem State.drew_ctr : (s.drew).ctr = s.ctr := rfl
@[simp] theorem State.drew_host : (s.drew).host = s.host := rfl
@[simp] theorem State.drew_hostBad : (s.drew).hostBad = s.hostBad := rfl
@[simp] theorem State.drew_fns : (s.drew).fns = s.fns := rfl
@[simp] theorem State.drew_regions : (s.drew).regions = s.regions := rfl
@[simp] theorem State.drew_cmds : (s.drew).cmds = s.cmds := rfl
@[simp] theorem State.drew_runs : (s.drew).runs = s.runs := rfl
@[simp] theorem State.drew_img : (s.drew).img = s.img := rfl
@[simp] theorem State.drew_groups : (s.drew).groups = s.groups := rfl
@[simp] theorem State.drew_parts : (s.drew).parts = s.parts := rfl
@[simp] theorem State.drew_nbs : (s.drew).nbs = s.nbs := rfl
@[simp] theorem State.drew_links : (s.drew).links = s.links := rfl
@[simp] theorem State.drew_louvres : (s.drew).louvres = s.louvres := rfl
@[simp] theorem State.drew_quotas : (s.drew).quotas = s.quotas := rfl
@[simp] theorem State.drew_net : (s.drew).net = s.net := rfl
@[simp] theorem State.drew_waits : (s.drew).waits = s.waits := rfl
@[simp] theorem State.drew_vis : (s.drew).vis = s.vis := rfl
@[simp] theorem State.drew_writes : (s.drew).writes = s.writes := rfl
@[simp] theorem State.drew_power : (s.drew).power = s.power := rfl
@[simp] theorem State.drew_therm : (s.drew).therm = s.therm := rfl
@[simp] theorem State.drew_sec : (s.drew).sec = s.sec := rfl
@[simp] theorem State.drew_pcie : (s.drew).pcie = s.pcie := rfl
@[simp] theorem State.drew_pair : (s.drew).pair = s.pair := rfl
@[simp] theorem State.drew_mc : (s.drew).mc = s.mc := rfl

@[simp] theorem State.logEv_pending (kind num : Nat) : (s.logEv kind num).pending = s.pending := rfl
@[simp] theorem State.logEv_wca1608 (kind num : Nat) : (s.logEv kind num).wca1608 = s.wca1608 := rfl
@[simp] theorem State.logEv_cores (kind num : Nat) : (s.logEv kind num).cores = s.cores := rfl
@[simp] theorem State.logEv_bays (kind num : Nat) : (s.logEv kind num).bays = s.bays := rfl
@[simp] theorem State.logEv_mem (kind num : Nat) : (s.logEv kind num).mem = s.mem := rfl
@[simp] theorem State.logEv_chk (kind num : Nat) : (s.logEv kind num).chk = s.chk := rfl
@[simp] theorem State.logEv_dues (kind num : Nat) : (s.logEv kind num).dues = s.dues := rfl
@[simp] theorem State.logEv_rest (kind num : Nat) : (s.logEv kind num).rest = s.rest := rfl
@[simp] theorem State.logEv_refresh (kind num : Nat) : (s.logEv kind num).refresh = s.refresh := rfl
@[simp] theorem State.logEv_ctl (kind num : Nat) : (s.logEv kind num).ctl = s.ctl := rfl
@[simp] theorem State.logEv_ctr (kind num : Nat) : (s.logEv kind num).ctr = s.ctr := rfl
@[simp] theorem State.logEv_host (kind num : Nat) : (s.logEv kind num).host = s.host := rfl
@[simp] theorem State.logEv_hostBad (kind num : Nat) : (s.logEv kind num).hostBad = s.hostBad := rfl
@[simp] theorem State.logEv_fns (kind num : Nat) : (s.logEv kind num).fns = s.fns := rfl
@[simp] theorem State.logEv_regions (kind num : Nat) : (s.logEv kind num).regions = s.regions := rfl
@[simp] theorem State.logEv_cmds (kind num : Nat) : (s.logEv kind num).cmds = s.cmds := rfl
@[simp] theorem State.logEv_runs (kind num : Nat) : (s.logEv kind num).runs = s.runs := rfl
@[simp] theorem State.logEv_img (kind num : Nat) : (s.logEv kind num).img = s.img := rfl
@[simp] theorem State.logEv_groups (kind num : Nat) : (s.logEv kind num).groups = s.groups := rfl
@[simp] theorem State.logEv_parts (kind num : Nat) : (s.logEv kind num).parts = s.parts := rfl
@[simp] theorem State.logEv_nbs (kind num : Nat) : (s.logEv kind num).nbs = s.nbs := rfl
@[simp] theorem State.logEv_links (kind num : Nat) : (s.logEv kind num).links = s.links := rfl
@[simp] theorem State.logEv_louvres (kind num : Nat) : (s.logEv kind num).louvres = s.louvres := rfl
@[simp] theorem State.logEv_quotas (kind num : Nat) : (s.logEv kind num).quotas = s.quotas := rfl
@[simp] theorem State.logEv_net (kind num : Nat) : (s.logEv kind num).net = s.net := rfl
@[simp] theorem State.logEv_waits (kind num : Nat) : (s.logEv kind num).waits = s.waits := rfl
@[simp] theorem State.logEv_vis (kind num : Nat) : (s.logEv kind num).vis = s.vis := rfl
@[simp] theorem State.logEv_writes (kind num : Nat) : (s.logEv kind num).writes = s.writes := rfl
@[simp] theorem State.logEv_power (kind num : Nat) : (s.logEv kind num).power = s.power := rfl
@[simp] theorem State.logEv_therm (kind num : Nat) : (s.logEv kind num).therm = s.therm := rfl
@[simp] theorem State.logEv_sec (kind num : Nat) : (s.logEv kind num).sec = s.sec := rfl
@[simp] theorem State.logEv_pcie (kind num : Nat) : (s.logEv kind num).pcie = s.pcie := rfl
@[simp] theorem State.logEv_pair (kind num : Nat) : (s.logEv kind num).pair = s.pair := rfl
@[simp] theorem State.logEv_free (kind num : Nat) : (s.logEv kind num).free = s.free := rfl

@[simp] theorem State.alert_pending (b : Nat) : (s.alert b).pending = s.pending := rfl
@[simp] theorem State.alert_wca1608 (b : Nat) : (s.alert b).wca1608 = s.wca1608 := rfl
@[simp] theorem State.alert_cores (b : Nat) : (s.alert b).cores = s.cores := rfl
@[simp] theorem State.alert_bays (b : Nat) : (s.alert b).bays = s.bays := rfl
@[simp] theorem State.alert_mem (b : Nat) : (s.alert b).mem = s.mem := rfl
@[simp] theorem State.alert_chk (b : Nat) : (s.alert b).chk = s.chk := rfl
@[simp] theorem State.alert_dues (b : Nat) : (s.alert b).dues = s.dues := rfl
@[simp] theorem State.alert_rest (b : Nat) : (s.alert b).rest = s.rest := rfl
@[simp] theorem State.alert_refresh (b : Nat) : (s.alert b).refresh = s.refresh := rfl
@[simp] theorem State.alert_ctl (b : Nat) : (s.alert b).ctl = s.ctl := rfl
@[simp] theorem State.alert_ctr (b : Nat) : (s.alert b).ctr = s.ctr := rfl
@[simp] theorem State.alert_host (b : Nat) : (s.alert b).host = s.host := rfl
@[simp] theorem State.alert_hostBad (b : Nat) : (s.alert b).hostBad = s.hostBad := rfl
@[simp] theorem State.alert_fns (b : Nat) : (s.alert b).fns = s.fns := rfl
@[simp] theorem State.alert_regions (b : Nat) : (s.alert b).regions = s.regions := rfl
@[simp] theorem State.alert_cmds (b : Nat) : (s.alert b).cmds = s.cmds := rfl
@[simp] theorem State.alert_runs (b : Nat) : (s.alert b).runs = s.runs := rfl
@[simp] theorem State.alert_img (b : Nat) : (s.alert b).img = s.img := rfl
@[simp] theorem State.alert_groups (b : Nat) : (s.alert b).groups = s.groups := rfl
@[simp] theorem State.alert_parts (b : Nat) : (s.alert b).parts = s.parts := rfl
@[simp] theorem State.alert_nbs (b : Nat) : (s.alert b).nbs = s.nbs := rfl
@[simp] theorem State.alert_links (b : Nat) : (s.alert b).links = s.links := rfl
@[simp] theorem State.alert_louvres (b : Nat) : (s.alert b).louvres = s.louvres := rfl
@[simp] theorem State.alert_quotas (b : Nat) : (s.alert b).quotas = s.quotas := rfl
@[simp] theorem State.alert_net (b : Nat) : (s.alert b).net = s.net := rfl
@[simp] theorem State.alert_waits (b : Nat) : (s.alert b).waits = s.waits := rfl
@[simp] theorem State.alert_vis (b : Nat) : (s.alert b).vis = s.vis := rfl
@[simp] theorem State.alert_writes (b : Nat) : (s.alert b).writes = s.writes := rfl
@[simp] theorem State.alert_therm (b : Nat) : (s.alert b).therm = s.therm := rfl
@[simp] theorem State.alert_sec (b : Nat) : (s.alert b).sec = s.sec := rfl
@[simp] theorem State.alert_pcie (b : Nat) : (s.alert b).pcie = s.pcie := rfl
@[simp] theorem State.alert_pair (b : Nat) : (s.alert b).pair = s.pair := rfl
@[simp] theorem State.alert_free (b : Nat) : (s.alert b).free = s.free := rfl

@[simp] theorem State.memWrite_pending (off : Nat) (bs : List Byte) : (s.memWrite off bs).pending = s.pending := rfl
@[simp] theorem State.memWrite_wca1608 (off : Nat) (bs : List Byte) : (s.memWrite off bs).wca1608 = s.wca1608 := rfl
@[simp] theorem State.memWrite_cores (off : Nat) (bs : List Byte) : (s.memWrite off bs).cores = s.cores := rfl
@[simp] theorem State.memWrite_bays (off : Nat) (bs : List Byte) : (s.memWrite off bs).bays = s.bays := rfl
@[simp] theorem State.memWrite_chk (off : Nat) (bs : List Byte) : (s.memWrite off bs).chk = s.chk := rfl
@[simp] theorem State.memWrite_dues (off : Nat) (bs : List Byte) : (s.memWrite off bs).dues = s.dues := rfl
@[simp] theorem State.memWrite_rest (off : Nat) (bs : List Byte) : (s.memWrite off bs).rest = s.rest := rfl
@[simp] theorem State.memWrite_refresh (off : Nat) (bs : List Byte) : (s.memWrite off bs).refresh = s.refresh := rfl
@[simp] theorem State.memWrite_ctl (off : Nat) (bs : List Byte) : (s.memWrite off bs).ctl = s.ctl := rfl
@[simp] theorem State.memWrite_ctr (off : Nat) (bs : List Byte) : (s.memWrite off bs).ctr = s.ctr := rfl
@[simp] theorem State.memWrite_host (off : Nat) (bs : List Byte) : (s.memWrite off bs).host = s.host := rfl
@[simp] theorem State.memWrite_hostBad (off : Nat) (bs : List Byte) : (s.memWrite off bs).hostBad = s.hostBad := rfl
@[simp] theorem State.memWrite_fns (off : Nat) (bs : List Byte) : (s.memWrite off bs).fns = s.fns := rfl
@[simp] theorem State.memWrite_regions (off : Nat) (bs : List Byte) : (s.memWrite off bs).regions = s.regions := rfl
@[simp] theorem State.memWrite_cmds (off : Nat) (bs : List Byte) : (s.memWrite off bs).cmds = s.cmds := rfl
@[simp] theorem State.memWrite_runs (off : Nat) (bs : List Byte) : (s.memWrite off bs).runs = s.runs := rfl
@[simp] theorem State.memWrite_img (off : Nat) (bs : List Byte) : (s.memWrite off bs).img = s.img := rfl
@[simp] theorem State.memWrite_groups (off : Nat) (bs : List Byte) : (s.memWrite off bs).groups = s.groups := rfl
@[simp] theorem State.memWrite_parts (off : Nat) (bs : List Byte) : (s.memWrite off bs).parts = s.parts := rfl
@[simp] theorem State.memWrite_nbs (off : Nat) (bs : List Byte) : (s.memWrite off bs).nbs = s.nbs := rfl
@[simp] theorem State.memWrite_links (off : Nat) (bs : List Byte) : (s.memWrite off bs).links = s.links := rfl
@[simp] theorem State.memWrite_louvres (off : Nat) (bs : List Byte) : (s.memWrite off bs).louvres = s.louvres := rfl
@[simp] theorem State.memWrite_quotas (off : Nat) (bs : List Byte) : (s.memWrite off bs).quotas = s.quotas := rfl
@[simp] theorem State.memWrite_net (off : Nat) (bs : List Byte) : (s.memWrite off bs).net = s.net := rfl
@[simp] theorem State.memWrite_waits (off : Nat) (bs : List Byte) : (s.memWrite off bs).waits = s.waits := rfl
@[simp] theorem State.memWrite_vis (off : Nat) (bs : List Byte) : (s.memWrite off bs).vis = s.vis := rfl
@[simp] theorem State.memWrite_writes (off : Nat) (bs : List Byte) : (s.memWrite off bs).writes = s.writes := rfl
@[simp] theorem State.memWrite_power (off : Nat) (bs : List Byte) : (s.memWrite off bs).power = s.power := rfl
@[simp] theorem State.memWrite_therm (off : Nat) (bs : List Byte) : (s.memWrite off bs).therm = s.therm := rfl
@[simp] theorem State.memWrite_sec (off : Nat) (bs : List Byte) : (s.memWrite off bs).sec = s.sec := rfl
@[simp] theorem State.memWrite_pcie (off : Nat) (bs : List Byte) : (s.memWrite off bs).pcie = s.pcie := rfl
@[simp] theorem State.memWrite_pair (off : Nat) (bs : List Byte) : (s.memWrite off bs).pair = s.pair := rfl
@[simp] theorem State.memWrite_mc (off : Nat) (bs : List Byte) : (s.memWrite off bs).mc = s.mc := rfl
@[simp] theorem State.memWrite_free (off : Nat) (bs : List Byte) : (s.memWrite off bs).free = s.free := rfl

@[simp] theorem State.hostWrite_pending (a : Nat) (bs : List Byte) : (s.hostWrite a bs).pending = s.pending := rfl
@[simp] theorem State.hostWrite_wca1608 (a : Nat) (bs : List Byte) : (s.hostWrite a bs).wca1608 = s.wca1608 := rfl
@[simp] theorem State.hostWrite_cores (a : Nat) (bs : List Byte) : (s.hostWrite a bs).cores = s.cores := rfl
@[simp] theorem State.hostWrite_bays (a : Nat) (bs : List Byte) : (s.hostWrite a bs).bays = s.bays := rfl
@[simp] theorem State.hostWrite_mem (a : Nat) (bs : List Byte) : (s.hostWrite a bs).mem = s.mem := rfl
@[simp] theorem State.hostWrite_chk (a : Nat) (bs : List Byte) : (s.hostWrite a bs).chk = s.chk := rfl
@[simp] theorem State.hostWrite_dues (a : Nat) (bs : List Byte) : (s.hostWrite a bs).dues = s.dues := rfl
@[simp] theorem State.hostWrite_rest (a : Nat) (bs : List Byte) : (s.hostWrite a bs).rest = s.rest := rfl
@[simp] theorem State.hostWrite_refresh (a : Nat) (bs : List Byte) : (s.hostWrite a bs).refresh = s.refresh := rfl
@[simp] theorem State.hostWrite_ctl (a : Nat) (bs : List Byte) : (s.hostWrite a bs).ctl = s.ctl := rfl
@[simp] theorem State.hostWrite_ctr (a : Nat) (bs : List Byte) : (s.hostWrite a bs).ctr = s.ctr := rfl
@[simp] theorem State.hostWrite_hostBad (a : Nat) (bs : List Byte) : (s.hostWrite a bs).hostBad = s.hostBad := rfl
@[simp] theorem State.hostWrite_fns (a : Nat) (bs : List Byte) : (s.hostWrite a bs).fns = s.fns := rfl
@[simp] theorem State.hostWrite_regions (a : Nat) (bs : List Byte) : (s.hostWrite a bs).regions = s.regions := rfl
@[simp] theorem State.hostWrite_cmds (a : Nat) (bs : List Byte) : (s.hostWrite a bs).cmds = s.cmds := rfl
@[simp] theorem State.hostWrite_runs (a : Nat) (bs : List Byte) : (s.hostWrite a bs).runs = s.runs := rfl
@[simp] theorem State.hostWrite_img (a : Nat) (bs : List Byte) : (s.hostWrite a bs).img = s.img := rfl
@[simp] theorem State.hostWrite_groups (a : Nat) (bs : List Byte) : (s.hostWrite a bs).groups = s.groups := rfl
@[simp] theorem State.hostWrite_parts (a : Nat) (bs : List Byte) : (s.hostWrite a bs).parts = s.parts := rfl
@[simp] theorem State.hostWrite_nbs (a : Nat) (bs : List Byte) : (s.hostWrite a bs).nbs = s.nbs := rfl
@[simp] theorem State.hostWrite_links (a : Nat) (bs : List Byte) : (s.hostWrite a bs).links = s.links := rfl
@[simp] theorem State.hostWrite_louvres (a : Nat) (bs : List Byte) : (s.hostWrite a bs).louvres = s.louvres := rfl
@[simp] theorem State.hostWrite_quotas (a : Nat) (bs : List Byte) : (s.hostWrite a bs).quotas = s.quotas := rfl
@[simp] theorem State.hostWrite_net (a : Nat) (bs : List Byte) : (s.hostWrite a bs).net = s.net := rfl
@[simp] theorem State.hostWrite_waits (a : Nat) (bs : List Byte) : (s.hostWrite a bs).waits = s.waits := rfl
@[simp] theorem State.hostWrite_vis (a : Nat) (bs : List Byte) : (s.hostWrite a bs).vis = s.vis := rfl
@[simp] theorem State.hostWrite_writes (a : Nat) (bs : List Byte) : (s.hostWrite a bs).writes = s.writes := rfl
@[simp] theorem State.hostWrite_power (a : Nat) (bs : List Byte) : (s.hostWrite a bs).power = s.power := rfl
@[simp] theorem State.hostWrite_therm (a : Nat) (bs : List Byte) : (s.hostWrite a bs).therm = s.therm := rfl
@[simp] theorem State.hostWrite_sec (a : Nat) (bs : List Byte) : (s.hostWrite a bs).sec = s.sec := rfl
@[simp] theorem State.hostWrite_pcie (a : Nat) (bs : List Byte) : (s.hostWrite a bs).pcie = s.pcie := rfl
@[simp] theorem State.hostWrite_pair (a : Nat) (bs : List Byte) : (s.hostWrite a bs).pair = s.pair := rfl
@[simp] theorem State.hostWrite_mc (a : Nat) (bs : List Byte) : (s.hostWrite a bs).mc = s.mc := rfl
@[simp] theorem State.hostWrite_free (a : Nat) (bs : List Byte) : (s.hostWrite a bs).free = s.free := rfl

@[simp] theorem State.setChk_pending (off : Nat) (v : W32) : (s.setChk off v).pending = s.pending := rfl
@[simp] theorem State.setChk_wca1608 (off : Nat) (v : W32) : (s.setChk off v).wca1608 = s.wca1608 := rfl
@[simp] theorem State.setChk_cores (off : Nat) (v : W32) : (s.setChk off v).cores = s.cores := rfl
@[simp] theorem State.setChk_bays (off : Nat) (v : W32) : (s.setChk off v).bays = s.bays := rfl
@[simp] theorem State.setChk_mem (off : Nat) (v : W32) : (s.setChk off v).mem = s.mem := rfl
@[simp] theorem State.setChk_dues (off : Nat) (v : W32) : (s.setChk off v).dues = s.dues := rfl
@[simp] theorem State.setChk_rest (off : Nat) (v : W32) : (s.setChk off v).rest = s.rest := rfl
@[simp] theorem State.setChk_refresh (off : Nat) (v : W32) : (s.setChk off v).refresh = s.refresh := rfl
@[simp] theorem State.setChk_ctl (off : Nat) (v : W32) : (s.setChk off v).ctl = s.ctl := rfl
@[simp] theorem State.setChk_ctr (off : Nat) (v : W32) : (s.setChk off v).ctr = s.ctr := rfl
@[simp] theorem State.setChk_host (off : Nat) (v : W32) : (s.setChk off v).host = s.host := rfl
@[simp] theorem State.setChk_hostBad (off : Nat) (v : W32) : (s.setChk off v).hostBad = s.hostBad := rfl
@[simp] theorem State.setChk_fns (off : Nat) (v : W32) : (s.setChk off v).fns = s.fns := rfl
@[simp] theorem State.setChk_regions (off : Nat) (v : W32) : (s.setChk off v).regions = s.regions := rfl
@[simp] theorem State.setChk_cmds (off : Nat) (v : W32) : (s.setChk off v).cmds = s.cmds := rfl
@[simp] theorem State.setChk_runs (off : Nat) (v : W32) : (s.setChk off v).runs = s.runs := rfl
@[simp] theorem State.setChk_img (off : Nat) (v : W32) : (s.setChk off v).img = s.img := rfl
@[simp] theorem State.setChk_groups (off : Nat) (v : W32) : (s.setChk off v).groups = s.groups := rfl
@[simp] theorem State.setChk_parts (off : Nat) (v : W32) : (s.setChk off v).parts = s.parts := rfl
@[simp] theorem State.setChk_nbs (off : Nat) (v : W32) : (s.setChk off v).nbs = s.nbs := rfl
@[simp] theorem State.setChk_links (off : Nat) (v : W32) : (s.setChk off v).links = s.links := rfl
@[simp] theorem State.setChk_louvres (off : Nat) (v : W32) : (s.setChk off v).louvres = s.louvres := rfl
@[simp] theorem State.setChk_quotas (off : Nat) (v : W32) : (s.setChk off v).quotas = s.quotas := rfl
@[simp] theorem State.setChk_net (off : Nat) (v : W32) : (s.setChk off v).net = s.net := rfl
@[simp] theorem State.setChk_waits (off : Nat) (v : W32) : (s.setChk off v).waits = s.waits := rfl
@[simp] theorem State.setChk_vis (off : Nat) (v : W32) : (s.setChk off v).vis = s.vis := rfl
@[simp] theorem State.setChk_writes (off : Nat) (v : W32) : (s.setChk off v).writes = s.writes := rfl
@[simp] theorem State.setChk_power (off : Nat) (v : W32) : (s.setChk off v).power = s.power := rfl
@[simp] theorem State.setChk_therm (off : Nat) (v : W32) : (s.setChk off v).therm = s.therm := rfl
@[simp] theorem State.setChk_sec (off : Nat) (v : W32) : (s.setChk off v).sec = s.sec := rfl
@[simp] theorem State.setChk_pcie (off : Nat) (v : W32) : (s.setChk off v).pcie = s.pcie := rfl
@[simp] theorem State.setChk_pair (off : Nat) (v : W32) : (s.setChk off v).pair = s.pair := rfl
@[simp] theorem State.setChk_mc (off : Nat) (v : W32) : (s.setChk off v).mc = s.mc := rfl
@[simp] theorem State.setChk_free (off : Nat) (v : W32) : (s.setChk off v).free = s.free := rfl

@[simp] theorem State.modGrp_pending (c i : Nat) (f : Group → Group) : (s.modGrp c i f).pending = s.pending := rfl
@[simp] theorem State.modGrp_wca1608 (c i : Nat) (f : Group → Group) : (s.modGrp c i f).wca1608 = s.wca1608 := rfl
@[simp] theorem State.modGrp_bays (c i : Nat) (f : Group → Group) : (s.modGrp c i f).bays = s.bays := rfl
@[simp] theorem State.modGrp_mem (c i : Nat) (f : Group → Group) : (s.modGrp c i f).mem = s.mem := rfl
@[simp] theorem State.modGrp_chk (c i : Nat) (f : Group → Group) : (s.modGrp c i f).chk = s.chk := rfl
@[simp] theorem State.modGrp_dues (c i : Nat) (f : Group → Group) : (s.modGrp c i f).dues = s.dues := rfl
@[simp] theorem State.modGrp_rest (c i : Nat) (f : Group → Group) : (s.modGrp c i f).rest = s.rest := rfl
@[simp] theorem State.modGrp_refresh (c i : Nat) (f : Group → Group) : (s.modGrp c i f).refresh = s.refresh := rfl
@[simp] theorem State.modGrp_ctl (c i : Nat) (f : Group → Group) : (s.modGrp c i f).ctl = s.ctl := rfl
@[simp] theorem State.modGrp_ctr (c i : Nat) (f : Group → Group) : (s.modGrp c i f).ctr = s.ctr := rfl
@[simp] theorem State.modGrp_host (c i : Nat) (f : Group → Group) : (s.modGrp c i f).host = s.host := rfl
@[simp] theorem State.modGrp_hostBad (c i : Nat) (f : Group → Group) : (s.modGrp c i f).hostBad = s.hostBad := rfl
@[simp] theorem State.modGrp_fns (c i : Nat) (f : Group → Group) : (s.modGrp c i f).fns = s.fns := rfl
@[simp] theorem State.modGrp_regions (c i : Nat) (f : Group → Group) : (s.modGrp c i f).regions = s.regions := rfl
@[simp] theorem State.modGrp_cmds (c i : Nat) (f : Group → Group) : (s.modGrp c i f).cmds = s.cmds := rfl
@[simp] theorem State.modGrp_runs (c i : Nat) (f : Group → Group) : (s.modGrp c i f).runs = s.runs := rfl
@[simp] theorem State.modGrp_img (c i : Nat) (f : Group → Group) : (s.modGrp c i f).img = s.img := rfl
@[simp] theorem State.modGrp_groups (c i : Nat) (f : Group → Group) : (s.modGrp c i f).groups = s.groups := rfl
@[simp] theorem State.modGrp_parts (c i : Nat) (f : Group → Group) : (s.modGrp c i f).parts = s.parts := rfl
@[simp] theorem State.modGrp_nbs (c i : Nat) (f : Group → Group) : (s.modGrp c i f).nbs = s.nbs := rfl
@[simp] theorem State.modGrp_links (c i : Nat) (f : Group → Group) : (s.modGrp c i f).links = s.links := rfl
@[simp] theorem State.modGrp_louvres (c i : Nat) (f : Group → Group) : (s.modGrp c i f).louvres = s.louvres := rfl
@[simp] theorem State.modGrp_quotas (c i : Nat) (f : Group → Group) : (s.modGrp c i f).quotas = s.quotas := rfl
@[simp] theorem State.modGrp_net (c i : Nat) (f : Group → Group) : (s.modGrp c i f).net = s.net := rfl
@[simp] theorem State.modGrp_waits (c i : Nat) (f : Group → Group) : (s.modGrp c i f).waits = s.waits := rfl
@[simp] theorem State.modGrp_vis (c i : Nat) (f : Group → Group) : (s.modGrp c i f).vis = s.vis := rfl
@[simp] theorem State.modGrp_writes (c i : Nat) (f : Group → Group) : (s.modGrp c i f).writes = s.writes := rfl
@[simp] theorem State.modGrp_power (c i : Nat) (f : Group → Group) : (s.modGrp c i f).power = s.power := rfl
@[simp] theorem State.modGrp_therm (c i : Nat) (f : Group → Group) : (s.modGrp c i f).therm = s.therm := rfl
@[simp] theorem State.modGrp_sec (c i : Nat) (f : Group → Group) : (s.modGrp c i f).sec = s.sec := rfl
@[simp] theorem State.modGrp_pcie (c i : Nat) (f : Group → Group) : (s.modGrp c i f).pcie = s.pcie := rfl
@[simp] theorem State.modGrp_pair (c i : Nat) (f : Group → Group) : (s.modGrp c i f).pair = s.pair := rfl
@[simp] theorem State.modGrp_mc (c i : Nat) (f : Group → Group) : (s.modGrp c i f).mc = s.mc := rfl
@[simp] theorem State.modGrp_free (c i : Nat) (f : Group → Group) : (s.modGrp c i f).free = s.free := rfl

@[simp] theorem State.stallAt_pending (c why : Nat) : (s.stallAt c why).pending = s.pending := rfl
@[simp] theorem State.stallAt_wca1608 (c why : Nat) : (s.stallAt c why).wca1608 = s.wca1608 := rfl
@[simp] theorem State.stallAt_bays (c why : Nat) : (s.stallAt c why).bays = s.bays := rfl
@[simp] theorem State.stallAt_mem (c why : Nat) : (s.stallAt c why).mem = s.mem := rfl
@[simp] theorem State.stallAt_chk (c why : Nat) : (s.stallAt c why).chk = s.chk := rfl
@[simp] theorem State.stallAt_dues (c why : Nat) : (s.stallAt c why).dues = s.dues := rfl
@[simp] theorem State.stallAt_rest (c why : Nat) : (s.stallAt c why).rest = s.rest := rfl
@[simp] theorem State.stallAt_refresh (c why : Nat) : (s.stallAt c why).refresh = s.refresh := rfl
@[simp] theorem State.stallAt_ctl (c why : Nat) : (s.stallAt c why).ctl = s.ctl := rfl
@[simp] theorem State.stallAt_ctr (c why : Nat) : (s.stallAt c why).ctr = s.ctr := rfl
@[simp] theorem State.stallAt_host (c why : Nat) : (s.stallAt c why).host = s.host := rfl
@[simp] theorem State.stallAt_hostBad (c why : Nat) : (s.stallAt c why).hostBad = s.hostBad := rfl
@[simp] theorem State.stallAt_fns (c why : Nat) : (s.stallAt c why).fns = s.fns := rfl
@[simp] theorem State.stallAt_regions (c why : Nat) : (s.stallAt c why).regions = s.regions := rfl
@[simp] theorem State.stallAt_cmds (c why : Nat) : (s.stallAt c why).cmds = s.cmds := rfl
@[simp] theorem State.stallAt_runs (c why : Nat) : (s.stallAt c why).runs = s.runs := rfl
@[simp] theorem State.stallAt_img (c why : Nat) : (s.stallAt c why).img = s.img := rfl
@[simp] theorem State.stallAt_groups (c why : Nat) : (s.stallAt c why).groups = s.groups := rfl
@[simp] theorem State.stallAt_parts (c why : Nat) : (s.stallAt c why).parts = s.parts := rfl
@[simp] theorem State.stallAt_nbs (c why : Nat) : (s.stallAt c why).nbs = s.nbs := rfl
@[simp] theorem State.stallAt_links (c why : Nat) : (s.stallAt c why).links = s.links := rfl
@[simp] theorem State.stallAt_louvres (c why : Nat) : (s.stallAt c why).louvres = s.louvres := rfl
@[simp] theorem State.stallAt_quotas (c why : Nat) : (s.stallAt c why).quotas = s.quotas := rfl
@[simp] theorem State.stallAt_net (c why : Nat) : (s.stallAt c why).net = s.net := rfl
@[simp] theorem State.stallAt_waits (c why : Nat) : (s.stallAt c why).waits = s.waits := rfl
@[simp] theorem State.stallAt_vis (c why : Nat) : (s.stallAt c why).vis = s.vis := rfl
@[simp] theorem State.stallAt_writes (c why : Nat) : (s.stallAt c why).writes = s.writes := rfl
@[simp] theorem State.stallAt_power (c why : Nat) : (s.stallAt c why).power = s.power := rfl
@[simp] theorem State.stallAt_therm (c why : Nat) : (s.stallAt c why).therm = s.therm := rfl
@[simp] theorem State.stallAt_sec (c why : Nat) : (s.stallAt c why).sec = s.sec := rfl
@[simp] theorem State.stallAt_pcie (c why : Nat) : (s.stallAt c why).pcie = s.pcie := rfl
@[simp] theorem State.stallAt_pair (c why : Nat) : (s.stallAt c why).pair = s.pair := rfl
@[simp] theorem State.stallAt_mc (c why : Nat) : (s.stallAt c why).mc = s.mc := rfl
@[simp] theorem State.stallAt_free (c why : Nat) : (s.stallAt c why).free = s.free := rfl

@[simp] theorem State.retireWith_pending (c : Nat) (f : Core → Core) : (s.retireWith c f).pending = s.pending := rfl
@[simp] theorem State.retireWith_wca1608 (c : Nat) (f : Core → Core) : (s.retireWith c f).wca1608 = s.wca1608 := rfl
@[simp] theorem State.retireWith_bays (c : Nat) (f : Core → Core) : (s.retireWith c f).bays = s.bays := rfl
@[simp] theorem State.retireWith_mem (c : Nat) (f : Core → Core) : (s.retireWith c f).mem = s.mem := rfl
@[simp] theorem State.retireWith_chk (c : Nat) (f : Core → Core) : (s.retireWith c f).chk = s.chk := rfl
@[simp] theorem State.retireWith_dues (c : Nat) (f : Core → Core) : (s.retireWith c f).dues = s.dues := rfl
@[simp] theorem State.retireWith_rest (c : Nat) (f : Core → Core) : (s.retireWith c f).rest = s.rest := rfl
@[simp] theorem State.retireWith_refresh (c : Nat) (f : Core → Core) : (s.retireWith c f).refresh = s.refresh := rfl
@[simp] theorem State.retireWith_ctl (c : Nat) (f : Core → Core) : (s.retireWith c f).ctl = s.ctl := rfl
@[simp] theorem State.retireWith_ctr (c : Nat) (f : Core → Core) : (s.retireWith c f).ctr = s.ctr := rfl
@[simp] theorem State.retireWith_host (c : Nat) (f : Core → Core) : (s.retireWith c f).host = s.host := rfl
@[simp] theorem State.retireWith_hostBad (c : Nat) (f : Core → Core) : (s.retireWith c f).hostBad = s.hostBad := rfl
@[simp] theorem State.retireWith_fns (c : Nat) (f : Core → Core) : (s.retireWith c f).fns = s.fns := rfl
@[simp] theorem State.retireWith_regions (c : Nat) (f : Core → Core) : (s.retireWith c f).regions = s.regions := rfl
@[simp] theorem State.retireWith_cmds (c : Nat) (f : Core → Core) : (s.retireWith c f).cmds = s.cmds := rfl
@[simp] theorem State.retireWith_runs (c : Nat) (f : Core → Core) : (s.retireWith c f).runs = s.runs := rfl
@[simp] theorem State.retireWith_img (c : Nat) (f : Core → Core) : (s.retireWith c f).img = s.img := rfl
@[simp] theorem State.retireWith_groups (c : Nat) (f : Core → Core) : (s.retireWith c f).groups = s.groups := rfl
@[simp] theorem State.retireWith_parts (c : Nat) (f : Core → Core) : (s.retireWith c f).parts = s.parts := rfl
@[simp] theorem State.retireWith_nbs (c : Nat) (f : Core → Core) : (s.retireWith c f).nbs = s.nbs := rfl
@[simp] theorem State.retireWith_links (c : Nat) (f : Core → Core) : (s.retireWith c f).links = s.links := rfl
@[simp] theorem State.retireWith_louvres (c : Nat) (f : Core → Core) : (s.retireWith c f).louvres = s.louvres := rfl
@[simp] theorem State.retireWith_quotas (c : Nat) (f : Core → Core) : (s.retireWith c f).quotas = s.quotas := rfl
@[simp] theorem State.retireWith_net (c : Nat) (f : Core → Core) : (s.retireWith c f).net = s.net := rfl
@[simp] theorem State.retireWith_waits (c : Nat) (f : Core → Core) : (s.retireWith c f).waits = s.waits := rfl
@[simp] theorem State.retireWith_vis (c : Nat) (f : Core → Core) : (s.retireWith c f).vis = s.vis := rfl
@[simp] theorem State.retireWith_writes (c : Nat) (f : Core → Core) : (s.retireWith c f).writes = s.writes := rfl
@[simp] theorem State.retireWith_power (c : Nat) (f : Core → Core) : (s.retireWith c f).power = s.power := rfl
@[simp] theorem State.retireWith_therm (c : Nat) (f : Core → Core) : (s.retireWith c f).therm = s.therm := rfl
@[simp] theorem State.retireWith_sec (c : Nat) (f : Core → Core) : (s.retireWith c f).sec = s.sec := rfl
@[simp] theorem State.retireWith_pcie (c : Nat) (f : Core → Core) : (s.retireWith c f).pcie = s.pcie := rfl
@[simp] theorem State.retireWith_pair (c : Nat) (f : Core → Core) : (s.retireWith c f).pair = s.pair := rfl
@[simp] theorem State.retireWith_mc (c : Nat) (f : Core → Core) : (s.retireWith c f).mc = s.mc := rfl
@[simp] theorem State.retireWith_free (c : Nat) (f : Core → Core) : (s.retireWith c f).free = s.free := rfl

/-! ### Reading a unit after an update -/

@[simp] theorem State.core_setCore_same (c : Nat) (k : Core) : (s.setCore c k).core c = k := by
  simp [State.core, State.setCore]
theorem State.core_setCore_ne {c x : Nat} (k : Core) (h : x ≠ c) : (s.setCore c k).core x = s.core x := by
  simp [State.core, State.setCore, nget_nset_ne _ _ _ h]
@[simp] theorem State.core_modCore_same (c : Nat) (f : Core → Core) : (s.modCore c f).core c = f (s.core c) := by
  simp [State.modCore]
theorem State.core_modCore_ne {c x : Nat} (f : Core → Core) (h : x ≠ c) : (s.modCore c f).core x = s.core x := by
  simp [State.modCore, State.core_setCore_ne s _ h]
@[simp] theorem State.bay_setBay_same (n : Nat) (b : Bay) : (s.setBay n b).bay n = b := by
  simp [State.bay, State.setBay]
theorem State.bay_setBay_ne {n x : Nat} (b : Bay) (h : x ≠ n) : (s.setBay n b).bay x = s.bay x := by
  simp [State.bay, State.setBay, nget_nset_ne _ _ _ h]
@[simp] theorem State.fn_setFn_same (f : Nat) (x : Fn) : (s.setFn f x).fn f = x := by
  simp [State.fn, State.setFn]
theorem State.fn_setFn_ne {f g : Nat} (x : Fn) (h : g ≠ f) : (s.setFn f x).fn g = s.fn g := by
  simp [State.fn, State.setFn, nget_nset_ne _ _ _ h]
@[simp] theorem State.fn_modFn_same (f : Nat) (g : Fn → Fn) : (s.modFn f g).fn f = g (s.fn f) := by
  simp [State.modFn]
theorem State.fn_modFn_ne {f x : Nat} (g : Fn → Fn) (h : x ≠ f) : (s.modFn f g).fn x = s.fn x := by
  simp [State.modFn, State.fn_setFn_ne s _ h]
@[simp] theorem State.part_setPart_same (p : Nat) (x : Part) : (s.setPart p x).part p = x := by
  simp [State.part, State.setPart]
theorem State.part_setPart_ne {p q : Nat} (x : Part) (h : q ≠ p) : (s.setPart p x).part q = s.part q := by
  simp [State.part, State.setPart, nget_nset_ne _ _ _ h]
@[simp] theorem State.group_setGroup_same (g : Nat) (x : SpecGroup) : (s.setGroup g x).group g = x := by
  simp [State.group, State.setGroup]
theorem State.group_setGroup_ne {g h : Nat} (x : SpecGroup) (hn : h ≠ g) : (s.setGroup g x).group h = s.group h := by
  simp [State.group, State.setGroup, nget_nset_ne _ _ _ hn]
@[simp] theorem State.nb_setNb_same (n : Nat) (x : NbStack) : (s.setNb n x).nb n = x := by
  simp [State.nb, State.setNb]
theorem State.nb_setNb_ne {n m : Nat} (x : NbStack) (h : m ≠ n) : (s.setNb n x).nb m = s.nb m := by
  simp [State.nb, State.setNb, nget_nset_ne _ _ _ h]
@[simp] theorem State.region_setRegion_same (f i : Nat) (r : Region) : (s.setRegion f i r).region f i = r := by
  simp [State.region, State.setRegion]
@[simp] theorem State.creg_setCreg_same (off : Nat) (v : W64) : (s.setCreg off v).creg off = v := by
  simp [State.creg, State.setCreg]
theorem State.creg_setCreg_ne {off x : Nat} (v : W64) (h : x ≠ off) : (s.setCreg off v).creg x = s.creg x := by
  simp [State.creg, State.setCreg, nget_nset_ne _ _ _ h]
theorem State.creg_setCfld_ne {off x : Nat} (lo n v : Nat) (h : x ≠ off) : (s.setCfld off lo n v).creg x = s.creg x := by
  simp [State.setCfld, State.creg_setCreg_ne s _ h]
@[simp] theorem State.counter_bump_same (fam unit pos n : Nat) :
    (s.bump fam unit pos n).counter fam unit pos = sat64 ((s.counter fam unit pos).toNat + n) := by
  simp [State.counter, State.bump]
theorem State.counter_bump_ne {fam unit pos fam' unit' pos' : Nat} (n : Nat)
    (h : ctrKey fam' unit' pos' ≠ ctrKey fam unit pos) :
    (s.bump fam unit pos n).counter fam' unit' pos' = s.counter fam' unit' pos' := by
  simp [State.counter, State.bump, nget_nset_ne _ _ _ h]

/-! ### Registers of a core -/

@[simp] theorem Core.setS_pc (k : Core) (n : Nat) (v : W64) : (k.setS n v).pc = k.pc := by unfold Core.setS; split <;> rfl
@[simp] theorem Core.setS_csr (k : Core) (n : Nat) (v : W64) : (k.setS n v).csr = k.csr := by unfold Core.setS; split <;> rfl
@[simp] theorem Core.setP_pc (k : Core) (n : Nat) (v : Bool) : (k.setP n v).pc = k.pc := by unfold Core.setP; split <;> rfl
@[simp] theorem Core.setP_csr (k : Core) (n : Nat) (v : Bool) : (k.setP n v).csr = k.csr := by unfold Core.setP; split <;> rfl

/-- An s register after a write: s0 reads 0 and keeps no write (R72). -/
theorem Core.sreg_setS (k : Core) (n m : Nat) (v : W64) :
    (k.setS n v).sreg m = if m = n ∧ n ≠ 0 then v else k.sreg m := by
  by_cases hn : n = 0
  · simp [Core.setS, hn]
  · by_cases hm : m = 0
    · simp [Core.setS, Core.sreg, hn, hm, Ne.symm hn]
    · simp [Core.setS, Core.sreg, hn, hm, nget_nset]

/-- A predicate after a write: p0 reads true and keeps no write (R72). -/
theorem Core.preg_setP (k : Core) (n m : Nat) (v : Bool) :
    (k.setP n v).preg m = if m = n ∧ n ≠ 0 then v else k.preg m := by
  by_cases hn : n = 0
  · simp [Core.setP, hn]
  · by_cases hm : m = 0
    · simp [Core.setP, Core.preg, hn, hm, Ne.symm hn]
    · simp [Core.setP, Core.preg, hn, hm, nget_nset]

theorem Core.csrReg_setCsr (k : Core) (n m : Nat) (v : W64) :
    (k.setCsr n v).csrReg m = if m = n then v else k.csrReg m := by
  by_cases h : m = n
  · subst h; simp [Core.setCsr, Core.csrReg]
  · simp [Core.setCsr, Core.csrReg, h, nget_nset_ne]

/-! ### A core after retirement -/

@[simp] theorem Core.setCsr_vcore (k : Core) (n : Nat) (v : W64) : (k.setCsr n v).vcore = k.vcore := by cases k; rfl
@[simp] theorem Core.setCsr_gen (k : Core) (n : Nat) (v : W64) : (k.setCsr n v).gen = k.gen := by cases k; rfl
@[simp] theorem Core.setCsr_running (k : Core) (n : Nat) (v : W64) : (k.setCsr n v).running = k.running := by cases k; rfl
@[simp] theorem Core.setCsr_done (k : Core) (n : Nat) (v : W64) : (k.setCsr n v).done = k.done := by cases k; rfl
@[simp] theorem Core.setCsr_run (k : Core) (n : Nat) (v : W64) : (k.setCsr n v).run = k.run := by cases k; rfl
@[simp] theorem Core.setCsr_pc (k : Core) (n : Nat) (v : W64) : (k.setCsr n v).pc = k.pc := by cases k; rfl
@[simp] theorem Core.setCsr_progLen (k : Core) (n : Nat) (v : W64) : (k.setCsr n v).progLen = k.progLen := by cases k; rfl
@[simp] theorem Core.setCsr_codeBase (k : Core) (n : Nat) (v : W64) : (k.setCsr n v).codeBase = k.codeBase := by cases k; rfl
@[simp] theorem Core.setCsr_s (k : Core) (n : Nat) (v : W64) : (k.setCsr n v).s = k.s := by cases k; rfl
@[simp] theorem Core.setCsr_p (k : Core) (n : Nat) (v : W64) : (k.setCsr n v).p = k.p := by cases k; rfl
@[simp] theorem Core.setCsr_v (k : Core) (n : Nat) (v : W64) : (k.setCsr n v).v = k.v := by cases k; rfl
@[simp] theorem Core.setCsr_acc (k : Core) (n : Nat) (v : W64) : (k.setCsr n v).acc = k.acc := by cases k; rfl
@[simp] theorem Core.setCsr_td (k : Core) (n : Nat) (v : W64) : (k.setCsr n v).td = k.td := by cases k; rfl
@[simp] theorem Core.setCsr_spad (k : Core) (n : Nat) (v : W64) : (k.setCsr n v).spad = k.spad := by cases k; rfl
@[simp] theorem Core.setCsr_spadBad (k : Core) (n : Nat) (v : W64) : (k.setCsr n v).spadBad = k.spadBad := by cases k; rfl
@[simp] theorem Core.setCsr_l1 (k : Core) (n : Nat) (v : W64) : (k.setCsr n v).l1 = k.l1 := by cases k; rfl
@[simp] theorem Core.setCsr_stores (k : Core) (n : Nat) (v : W64) : (k.setCsr n v).stores = k.stores := by cases k; rfl
@[simp] theorem Core.setCsr_seq (k : Core) (n : Nat) (v : W64) : (k.setCsr n v).seq = k.seq := by cases k; rfl
@[simp] theorem Core.setCsr_send (k : Core) (n : Nat) (v : W64) : (k.setCsr n v).send = k.send := by cases k; rfl
@[simp] theorem Core.setCsr_rxq (k : Core) (n : Nat) (v : W64) : (k.setCsr n v).rxq = k.rxq := by cases k; rfl
@[simp] theorem Core.setCsr_overflow (k : Core) (n : Nat) (v : W64) : (k.setCsr n v).overflow = k.overflow := by cases k; rfl
@[simp] theorem Core.setCsr_spill (k : Core) (n : Nat) (v : W64) : (k.setCsr n v).spill = k.spill := by cases k; rfl
@[simp] theorem Core.setCsr_lost (k : Core) (n : Nat) (v : W64) : (k.setCsr n v).lost = k.lost := by cases k; rfl
@[simp] theorem Core.setCsr_mq (k : Core) (n : Nat) (v : W64) : (k.setCsr n v).mq = k.mq := by cases k; rfl
@[simp] theorem Core.setCsr_tgq (k : Core) (n : Nat) (v : W64) : (k.setCsr n v).tgq = k.tgq := by cases k; rfl
@[simp] theorem Core.setCsr_groups (k : Core) (n : Nat) (v : W64) : (k.setCsr n v).groups = k.groups := by cases k; rfl
@[simp] theorem Core.setCsr_exited (k : Core) (n : Nat) (v : W64) : (k.setCsr n v).exited = k.exited := by cases k; rfl
@[simp] theorem Core.setCsr_slots (k : Core) (n : Nat) (v : W64) : (k.setCsr n v).slots = k.slots := by cases k; rfl
@[simp] theorem Core.setCsr_sq (k : Core) (n : Nat) (v : W64) : (k.setCsr n v).sq = k.sq := by cases k; rfl
@[simp] theorem Core.setCsr_epoch (k : Core) (n : Nat) (v : W64) : (k.setCsr n v).epoch = k.epoch := by cases k; rfl
@[simp] theorem Core.setCsr_handler (k : Core) (n : Nat) (v : W64) : (k.setCsr n v).handler = k.handler := by cases k; rfl
@[simp] theorem Core.setCsr_joining (k : Core) (n : Nat) (v : W64) : (k.setCsr n v).joining = k.joining := by cases k; rfl
@[simp] theorem Core.setCsr_journal (k : Core) (n : Nat) (v : W64) : (k.setCsr n v).journal = k.journal := by cases k; rfl
@[simp] theorem Core.setCsr_held (k : Core) (n : Nat) (v : W64) : (k.setCsr n v).held = k.held := by cases k; rfl
@[simp] theorem Core.setCsr_retained (k : Core) (n : Nat) (v : W64) : (k.setCsr n v).retained = k.retained := by cases k; rfl
@[simp] theorem Core.setCsr_chPins (k : Core) (n : Nat) (v : W64) : (k.setCsr n v).chPins = k.chPins := by cases k; rfl
@[simp] theorem Core.setCsr_stall (k : Core) (n : Nat) (v : W64) : (k.setCsr n v).stall = k.stall := by cases k; rfl
@[simp] theorem Core.setCsr_lastFn (k : Core) (n : Nat) (v : W64) : (k.setCsr n v).lastFn = k.lastFn := by cases k; rfl
@[simp] theorem Core.setCsr_lastCommit (k : Core) (n : Nat) (v : W64) : (k.setCsr n v).lastCommit = k.lastCommit := by cases k; rfl
@[simp] theorem Core.setCsr_lastSplit (k : Core) (n : Nat) (v : W64) : (k.setCsr n v).lastSplit = k.lastSplit := by cases k; rfl
@[simp] theorem Core.setCsr_launched (k : Core) (n : Nat) (v : W64) : (k.setCsr n v).launched = k.launched := by cases k; rfl
@[simp] theorem Core.setCsr_wipe (k : Core) (n : Nat) (v : W64) : (k.setCsr n v).wipe = k.wipe := by cases k; rfl
@[simp] theorem Core.setCsr_shutterOpen (k : Core) (n : Nat) (v : W64) : (k.setCsr n v).shutterOpen = k.shutterOpen := by cases k; rfl
@[simp] theorem Core.setCsr_staging (k : Core) (n : Nat) (v : W64) : (k.setCsr n v).staging = k.staging := by cases k; rfl
@[simp] theorem Core.setCsr_withheld (k : Core) (n : Nat) (v : W64) : (k.setCsr n v).withheld = k.withheld := by cases k; rfl
@[simp] theorem Core.bumpCsr_vcore (k : Core) (n x : Nat) : (k.bumpCsr n x).vcore = k.vcore := by cases k; rfl
@[simp] theorem Core.bumpCsr_gen (k : Core) (n x : Nat) : (k.bumpCsr n x).gen = k.gen := by cases k; rfl
@[simp] theorem Core.bumpCsr_running (k : Core) (n x : Nat) : (k.bumpCsr n x).running = k.running := by cases k; rfl
@[simp] theorem Core.bumpCsr_done (k : Core) (n x : Nat) : (k.bumpCsr n x).done = k.done := by cases k; rfl
@[simp] theorem Core.bumpCsr_run (k : Core) (n x : Nat) : (k.bumpCsr n x).run = k.run := by cases k; rfl
@[simp] theorem Core.bumpCsr_pc (k : Core) (n x : Nat) : (k.bumpCsr n x).pc = k.pc := by cases k; rfl
@[simp] theorem Core.bumpCsr_progLen (k : Core) (n x : Nat) : (k.bumpCsr n x).progLen = k.progLen := by cases k; rfl
@[simp] theorem Core.bumpCsr_codeBase (k : Core) (n x : Nat) : (k.bumpCsr n x).codeBase = k.codeBase := by cases k; rfl
@[simp] theorem Core.bumpCsr_s (k : Core) (n x : Nat) : (k.bumpCsr n x).s = k.s := by cases k; rfl
@[simp] theorem Core.bumpCsr_p (k : Core) (n x : Nat) : (k.bumpCsr n x).p = k.p := by cases k; rfl
@[simp] theorem Core.bumpCsr_v (k : Core) (n x : Nat) : (k.bumpCsr n x).v = k.v := by cases k; rfl
@[simp] theorem Core.bumpCsr_acc (k : Core) (n x : Nat) : (k.bumpCsr n x).acc = k.acc := by cases k; rfl
@[simp] theorem Core.bumpCsr_td (k : Core) (n x : Nat) : (k.bumpCsr n x).td = k.td := by cases k; rfl
@[simp] theorem Core.bumpCsr_spad (k : Core) (n x : Nat) : (k.bumpCsr n x).spad = k.spad := by cases k; rfl
@[simp] theorem Core.bumpCsr_spadBad (k : Core) (n x : Nat) : (k.bumpCsr n x).spadBad = k.spadBad := by cases k; rfl
@[simp] theorem Core.bumpCsr_l1 (k : Core) (n x : Nat) : (k.bumpCsr n x).l1 = k.l1 := by cases k; rfl
@[simp] theorem Core.bumpCsr_stores (k : Core) (n x : Nat) : (k.bumpCsr n x).stores = k.stores := by cases k; rfl
@[simp] theorem Core.bumpCsr_seq (k : Core) (n x : Nat) : (k.bumpCsr n x).seq = k.seq := by cases k; rfl
@[simp] theorem Core.bumpCsr_send (k : Core) (n x : Nat) : (k.bumpCsr n x).send = k.send := by cases k; rfl
@[simp] theorem Core.bumpCsr_rxq (k : Core) (n x : Nat) : (k.bumpCsr n x).rxq = k.rxq := by cases k; rfl
@[simp] theorem Core.bumpCsr_overflow (k : Core) (n x : Nat) : (k.bumpCsr n x).overflow = k.overflow := by cases k; rfl
@[simp] theorem Core.bumpCsr_spill (k : Core) (n x : Nat) : (k.bumpCsr n x).spill = k.spill := by cases k; rfl
@[simp] theorem Core.bumpCsr_lost (k : Core) (n x : Nat) : (k.bumpCsr n x).lost = k.lost := by cases k; rfl
@[simp] theorem Core.bumpCsr_mq (k : Core) (n x : Nat) : (k.bumpCsr n x).mq = k.mq := by cases k; rfl
@[simp] theorem Core.bumpCsr_tgq (k : Core) (n x : Nat) : (k.bumpCsr n x).tgq = k.tgq := by cases k; rfl
@[simp] theorem Core.bumpCsr_groups (k : Core) (n x : Nat) : (k.bumpCsr n x).groups = k.groups := by cases k; rfl
@[simp] theorem Core.bumpCsr_exited (k : Core) (n x : Nat) : (k.bumpCsr n x).exited = k.exited := by cases k; rfl
@[simp] theorem Core.bumpCsr_slots (k : Core) (n x : Nat) : (k.bumpCsr n x).slots = k.slots := by cases k; rfl
@[simp] theorem Core.bumpCsr_sq (k : Core) (n x : Nat) : (k.bumpCsr n x).sq = k.sq := by cases k; rfl
@[simp] theorem Core.bumpCsr_epoch (k : Core) (n x : Nat) : (k.bumpCsr n x).epoch = k.epoch := by cases k; rfl
@[simp] theorem Core.bumpCsr_handler (k : Core) (n x : Nat) : (k.bumpCsr n x).handler = k.handler := by cases k; rfl
@[simp] theorem Core.bumpCsr_joining (k : Core) (n x : Nat) : (k.bumpCsr n x).joining = k.joining := by cases k; rfl
@[simp] theorem Core.bumpCsr_journal (k : Core) (n x : Nat) : (k.bumpCsr n x).journal = k.journal := by cases k; rfl
@[simp] theorem Core.bumpCsr_held (k : Core) (n x : Nat) : (k.bumpCsr n x).held = k.held := by cases k; rfl
@[simp] theorem Core.bumpCsr_retained (k : Core) (n x : Nat) : (k.bumpCsr n x).retained = k.retained := by cases k; rfl
@[simp] theorem Core.bumpCsr_chPins (k : Core) (n x : Nat) : (k.bumpCsr n x).chPins = k.chPins := by cases k; rfl
@[simp] theorem Core.bumpCsr_stall (k : Core) (n x : Nat) : (k.bumpCsr n x).stall = k.stall := by cases k; rfl
@[simp] theorem Core.bumpCsr_lastFn (k : Core) (n x : Nat) : (k.bumpCsr n x).lastFn = k.lastFn := by cases k; rfl
@[simp] theorem Core.bumpCsr_lastCommit (k : Core) (n x : Nat) : (k.bumpCsr n x).lastCommit = k.lastCommit := by cases k; rfl
@[simp] theorem Core.bumpCsr_lastSplit (k : Core) (n x : Nat) : (k.bumpCsr n x).lastSplit = k.lastSplit := by cases k; rfl
@[simp] theorem Core.bumpCsr_launched (k : Core) (n x : Nat) : (k.bumpCsr n x).launched = k.launched := by cases k; rfl
@[simp] theorem Core.bumpCsr_wipe (k : Core) (n x : Nat) : (k.bumpCsr n x).wipe = k.wipe := by cases k; rfl
@[simp] theorem Core.bumpCsr_shutterOpen (k : Core) (n x : Nat) : (k.bumpCsr n x).shutterOpen = k.shutterOpen := by cases k; rfl
@[simp] theorem Core.bumpCsr_staging (k : Core) (n x : Nat) : (k.bumpCsr n x).staging = k.staging := by cases k; rfl
@[simp] theorem Core.bumpCsr_withheld (k : Core) (n x : Nat) : (k.bumpCsr n x).withheld = k.withheld := by cases k; rfl
@[simp] theorem Core.retired_vcore (k : Core) : (k.retired).vcore = k.vcore := by cases k; rfl
@[simp] theorem Core.retired_gen (k : Core) : (k.retired).gen = k.gen := by cases k; rfl
@[simp] theorem Core.retired_running (k : Core) : (k.retired).running = k.running := by cases k; rfl
@[simp] theorem Core.retired_done (k : Core) : (k.retired).done = k.done := by cases k; rfl
@[simp] theorem Core.retired_run (k : Core) : (k.retired).run = k.run := by cases k; rfl
@[simp] theorem Core.retired_pc (k : Core) : (k.retired).pc = k.pc := by cases k; rfl
@[simp] theorem Core.retired_progLen (k : Core) : (k.retired).progLen = k.progLen := by cases k; rfl
@[simp] theorem Core.retired_codeBase (k : Core) : (k.retired).codeBase = k.codeBase := by cases k; rfl
@[simp] theorem Core.retired_s (k : Core) : (k.retired).s = k.s := by cases k; rfl
@[simp] theorem Core.retired_p (k : Core) : (k.retired).p = k.p := by cases k; rfl
@[simp] theorem Core.retired_v (k : Core) : (k.retired).v = k.v := by cases k; rfl
@[simp] theorem Core.retired_acc (k : Core) : (k.retired).acc = k.acc := by cases k; rfl
@[simp] theorem Core.retired_td (k : Core) : (k.retired).td = k.td := by cases k; rfl
@[simp] theorem Core.retired_spad (k : Core) : (k.retired).spad = k.spad := by cases k; rfl
@[simp] theorem Core.retired_spadBad (k : Core) : (k.retired).spadBad = k.spadBad := by cases k; rfl
@[simp] theorem Core.retired_l1 (k : Core) : (k.retired).l1 = k.l1 := by cases k; rfl
@[simp] theorem Core.retired_stores (k : Core) : (k.retired).stores = k.stores := by cases k; rfl
@[simp] theorem Core.retired_seq (k : Core) : (k.retired).seq = k.seq := by cases k; rfl
@[simp] theorem Core.retired_send (k : Core) : (k.retired).send = k.send := by cases k; rfl
@[simp] theorem Core.retired_rxq (k : Core) : (k.retired).rxq = k.rxq := by cases k; rfl
@[simp] theorem Core.retired_overflow (k : Core) : (k.retired).overflow = k.overflow := by cases k; rfl
@[simp] theorem Core.retired_spill (k : Core) : (k.retired).spill = k.spill := by cases k; rfl
@[simp] theorem Core.retired_lost (k : Core) : (k.retired).lost = k.lost := by cases k; rfl
@[simp] theorem Core.retired_mq (k : Core) : (k.retired).mq = k.mq := by cases k; rfl
@[simp] theorem Core.retired_tgq (k : Core) : (k.retired).tgq = k.tgq := by cases k; rfl
@[simp] theorem Core.retired_groups (k : Core) : (k.retired).groups = k.groups := by cases k; rfl
@[simp] theorem Core.retired_exited (k : Core) : (k.retired).exited = k.exited := by cases k; rfl
@[simp] theorem Core.retired_slots (k : Core) : (k.retired).slots = k.slots := by cases k; rfl
@[simp] theorem Core.retired_sq (k : Core) : (k.retired).sq = k.sq := by cases k; rfl
@[simp] theorem Core.retired_epoch (k : Core) : (k.retired).epoch = k.epoch := by cases k; rfl
@[simp] theorem Core.retired_handler (k : Core) : (k.retired).handler = k.handler := by cases k; rfl
@[simp] theorem Core.retired_joining (k : Core) : (k.retired).joining = k.joining := by cases k; rfl
@[simp] theorem Core.retired_journal (k : Core) : (k.retired).journal = k.journal := by cases k; rfl
@[simp] theorem Core.retired_held (k : Core) : (k.retired).held = k.held := by cases k; rfl
@[simp] theorem Core.retired_retained (k : Core) : (k.retired).retained = k.retained := by cases k; rfl
@[simp] theorem Core.retired_chPins (k : Core) : (k.retired).chPins = k.chPins := by cases k; rfl
@[simp] theorem Core.retired_lastFn (k : Core) : (k.retired).lastFn = k.lastFn := by cases k; rfl
@[simp] theorem Core.retired_lastCommit (k : Core) : (k.retired).lastCommit = k.lastCommit := by cases k; rfl
@[simp] theorem Core.retired_lastSplit (k : Core) : (k.retired).lastSplit = k.lastSplit := by cases k; rfl
@[simp] theorem Core.retired_launched (k : Core) : (k.retired).launched = k.launched := by cases k; rfl
@[simp] theorem Core.retired_wipe (k : Core) : (k.retired).wipe = k.wipe := by cases k; rfl
@[simp] theorem Core.retired_shutterOpen (k : Core) : (k.retired).shutterOpen = k.shutterOpen := by cases k; rfl
@[simp] theorem Core.retired_staging (k : Core) : (k.retired).staging = k.staging := by cases k; rfl
@[simp] theorem Core.retired_withheld (k : Core) : (k.retired).withheld = k.withheld := by cases k; rfl
@[simp] theorem Core.retire_vcore (k : Core) : (k.retire).vcore = k.vcore := by cases k; rfl
@[simp] theorem Core.retire_gen (k : Core) : (k.retire).gen = k.gen := by cases k; rfl
@[simp] theorem Core.retire_running (k : Core) : (k.retire).running = k.running := by cases k; rfl
@[simp] theorem Core.retire_done (k : Core) : (k.retire).done = k.done := by cases k; rfl
@[simp] theorem Core.retire_run (k : Core) : (k.retire).run = k.run := by cases k; rfl
@[simp] theorem Core.retire_progLen (k : Core) : (k.retire).progLen = k.progLen := by cases k; rfl
@[simp] theorem Core.retire_codeBase (k : Core) : (k.retire).codeBase = k.codeBase := by cases k; rfl
@[simp] theorem Core.retire_s (k : Core) : (k.retire).s = k.s := by cases k; rfl
@[simp] theorem Core.retire_p (k : Core) : (k.retire).p = k.p := by cases k; rfl
@[simp] theorem Core.retire_v (k : Core) : (k.retire).v = k.v := by cases k; rfl
@[simp] theorem Core.retire_acc (k : Core) : (k.retire).acc = k.acc := by cases k; rfl
@[simp] theorem Core.retire_td (k : Core) : (k.retire).td = k.td := by cases k; rfl
@[simp] theorem Core.retire_spad (k : Core) : (k.retire).spad = k.spad := by cases k; rfl
@[simp] theorem Core.retire_spadBad (k : Core) : (k.retire).spadBad = k.spadBad := by cases k; rfl
@[simp] theorem Core.retire_l1 (k : Core) : (k.retire).l1 = k.l1 := by cases k; rfl
@[simp] theorem Core.retire_stores (k : Core) : (k.retire).stores = k.stores := by cases k; rfl
@[simp] theorem Core.retire_seq (k : Core) : (k.retire).seq = k.seq := by cases k; rfl
@[simp] theorem Core.retire_send (k : Core) : (k.retire).send = k.send := by cases k; rfl
@[simp] theorem Core.retire_rxq (k : Core) : (k.retire).rxq = k.rxq := by cases k; rfl
@[simp] theorem Core.retire_overflow (k : Core) : (k.retire).overflow = k.overflow := by cases k; rfl
@[simp] theorem Core.retire_spill (k : Core) : (k.retire).spill = k.spill := by cases k; rfl
@[simp] theorem Core.retire_lost (k : Core) : (k.retire).lost = k.lost := by cases k; rfl
@[simp] theorem Core.retire_mq (k : Core) : (k.retire).mq = k.mq := by cases k; rfl
@[simp] theorem Core.retire_tgq (k : Core) : (k.retire).tgq = k.tgq := by cases k; rfl
@[simp] theorem Core.retire_groups (k : Core) : (k.retire).groups = k.groups := by cases k; rfl
@[simp] theorem Core.retire_exited (k : Core) : (k.retire).exited = k.exited := by cases k; rfl
@[simp] theorem Core.retire_slots (k : Core) : (k.retire).slots = k.slots := by cases k; rfl
@[simp] theorem Core.retire_sq (k : Core) : (k.retire).sq = k.sq := by cases k; rfl
@[simp] theorem Core.retire_epoch (k : Core) : (k.retire).epoch = k.epoch := by cases k; rfl
@[simp] theorem Core.retire_handler (k : Core) : (k.retire).handler = k.handler := by cases k; rfl
@[simp] theorem Core.retire_joining (k : Core) : (k.retire).joining = k.joining := by cases k; rfl
@[simp] theorem Core.retire_journal (k : Core) : (k.retire).journal = k.journal := by cases k; rfl
@[simp] theorem Core.retire_held (k : Core) : (k.retire).held = k.held := by cases k; rfl
@[simp] theorem Core.retire_retained (k : Core) : (k.retire).retained = k.retained := by cases k; rfl
@[simp] theorem Core.retire_chPins (k : Core) : (k.retire).chPins = k.chPins := by cases k; rfl
@[simp] theorem Core.retire_lastFn (k : Core) : (k.retire).lastFn = k.lastFn := by cases k; rfl
@[simp] theorem Core.retire_lastCommit (k : Core) : (k.retire).lastCommit = k.lastCommit := by cases k; rfl
@[simp] theorem Core.retire_lastSplit (k : Core) : (k.retire).lastSplit = k.lastSplit := by cases k; rfl
@[simp] theorem Core.retire_launched (k : Core) : (k.retire).launched = k.launched := by cases k; rfl
@[simp] theorem Core.retire_wipe (k : Core) : (k.retire).wipe = k.wipe := by cases k; rfl
@[simp] theorem Core.retire_shutterOpen (k : Core) : (k.retire).shutterOpen = k.shutterOpen := by cases k; rfl
@[simp] theorem Core.retire_staging (k : Core) : (k.retire).staging = k.staging := by cases k; rfl
@[simp] theorem Core.retire_withheld (k : Core) : (k.retire).withheld = k.withheld := by cases k; rfl
@[simp] theorem Core.retire_pc (k : Core) : k.retire.pc = k.pc + 8 := by cases k; rfl

end Sys2Proof.Machine
end

