-- ==== Sys2Proof/Laws/Issue.lean ====
section
/-! SUPPORT. What issuing an instruction does, in scalar code and in thread code. -/

namespace Sys2Proof.Machine
open Sys2Proof

/-- An instruction that is ready and legal has its own effect. -/
theorem issueCore_ready {s : State} {c : Nat} {pred : BitVec 3} {pneg : Bool} (h : ScalarReady s c pred pneg)
    {legal : Bool} (hl : legal = true) (eff : State → State) : issueCore s c legal pred pneg eff = eff s := by
  have h1 := h.issues
  have h2 := Nat.not_le.2 h.inside
  have h3 : s.fetchBad (s.core c) = false := by simp [State.fetchBad, State.fetchBadAt, h.good]
  have h4 : s.fetched ((s.core c).codeBase + (s.core c).pc) = s := by simp [State.fetched, h.good]
  have h5 := h.holds
  simp [issueCore, h1, h2, h3, h4, h5, h.known, h.settled, hl]

@[simp] theorem onUnit_true (s : State) : onUnit true s = .next s := rfl
@[simp] theorem onUnit_false (s : State) : onUnit false s = .fault .noSuchUnit := rfl

/-- An instruction that waits for none of the predicates and vector registers it names has its effect. -/
theorem whenFree_free {s : State} {c : Nat} {ps vs : List Nat} (hp : ∀ p ∈ ps, p ∉ (s.core c).pPending)
    (hv : ∀ v ∈ vs, v ∉ (s.core c).vPending) (eff : State → State) : s.whenFree c ps vs eff = eff s := by
  have h1 : (ps.any (s.core c).pPending.contains) = false := by simpa [List.any_eq_false] using hp
  have h2 : (vs.any (s.core c).vPending.contains) = false := by simpa [List.any_eq_false] using hv
  simp only [State.whenFree, h1, h2, Bool.false_eq_true, if_false]

/-- A scalar instruction of either kind of code that only changes registers, whose predicates are not still to be written. -/
theorem issueRegs_core {s : State} {c : Nat} {pred : BitVec 3} {pneg : Bool} (h : ScalarReady s c pred pneg)
    {legal : Bool} (hl : legal = true) {ps : List Nat} (hp : ∀ p ∈ ps, p ∉ (s.core c).pPending) (srcs : List Nat)
    (f : Core → Core) (g : Thread → Thread) :
    issueRegs (.core c) legal pred pneg ps srcs f g s = .next (s.retireWith c f) := by
  simp [issueRegs, h.unit, issueCore_ready h hl, whenFree_free hp]

theorem issueScalar_core {s : State} {c : Nat} {pred : BitVec 3} {pneg : Bool} (h : ScalarReady s c pred pneg)
    {legal : Bool} (hl : legal = true) (eff : Nat → State → State) :
    issueScalar (.core c) legal pred pneg eff s = .next (eff c s) := by
  simp [issueScalar, h.unit, issueCore_ready h hl]

/-- A change of one core changes that core only. -/
theorem onlyCore_modCore (s : State) (c : Nat) (f : Core → Core) : OnlyCore s (s.modCore c f) c where
  others := fun _ hx => State.core_modCore_ne s f hx
  memory := fun _ => rfl
  rest := rfl

theorem Core.csrReg_of_csr {k k' : Core} (h : k'.csr = k.csr) (n : Nat) : k'.csrReg n = k.csrReg n := by simp only [Core.csrReg, h]

theorem Core.retire_csr (k : Core) : k.retire.csr = ((k.bumpCsr 0x009 1).setCsr 0x020 (setFld (k.csrReg 0x020) 32 16 0)).csr := rfl

theorem csrReg_retire (k : Core) (n : Nat) : k.retire.csrReg n =
    if n = 0x020 then setFld (k.csrReg 0x020) 32 16 0
    else if n = 0x009 then sat64 ((k.csrReg 0x009).toNat + 1) else k.csrReg n := by
  have h := Core.csrReg_of_csr k.retire_csr n
  rw [h, Core.csrReg_setCsr]
  unfold Core.bumpCsr
  split
  · rfl
  · rw [Core.csrReg_setCsr]

/-- Retirement of a core whose place, instruction cache and control and status registers its instruction left alone. -/
theorem retires_retire {k x : Core} (hc : x.csr = k.csr) (hi : x.icache = k.icache) (ha : x.codeBase + x.pc = k.codeBase + k.pc) :
    Retires k x.retire (x.pc + 8) := by
  have hr : ∀ n, x.csrReg n = k.csrReg n := fun n => by simp only [Core.csrReg, hc]
  have hx : x.retire.icache = holdWord x.icache (x.codeBase + x.pc) := rfl
  refine ⟨x.retire_pc, by rw [hx, hi, ha], ?_, ?_, fun n h1 h2 => ?_⟩
  · rw [csrReg_retire, if_neg (by decide), if_pos rfl, hr]
  · rw [csrReg_retire, if_pos rfl, hr]
  · rw [csrReg_retire, if_neg h2, if_neg h1, hr]

/-- A retired core differs from the core before in pc, csr, stall and instruction cache only. -/
theorem retire_rest (k : Core) : { k.retire with pc := k.pc, csr := k.csr, stall := k.stall, icache := k.icache } = k := by cases k; rfl

theorem retire_sreg (k : Core) (n : Nat) : k.retire.sreg n = k.sreg n := by simp [Core.sreg]
theorem retire_preg (k : Core) (n : Nat) : k.retire.preg n = k.preg n := by simp [Core.preg]

theorem writesS_setS (k : Core) (d : Nat) (v : W64) : WritesS k (k.setS d v).retire d v := by
  intro n
  rw [retire_sreg, Core.sreg_setS]

theorem writesP_setP (k : Core) (d : Nat) (v : Bool) : WritesP k (k.setP d v).retire d v := by
  intro n
  rw [retire_preg, Core.preg_setP]

theorem setS_rest (k : Core) (d : Nat) (v : W64) :
    { (k.setS d v).retire with s := k.s, pc := k.pc, csr := k.csr, stall := k.stall, icache := k.icache } = k := by
  cases k; unfold Core.setS; split <;> rfl

theorem setP_rest (k : Core) (d : Nat) (v : Bool) :
    { (k.setP d v).retire with p := k.p, pc := k.pc, csr := k.csr, stall := k.stall, icache := k.icache } = k := by
  cases k; unfold Core.setP; split <;> rfl

/-! ### Thread code -/

theorem th_setTh_same (g : Group) (l : Nat) (t : Thread) : (g.setTh l t).th l = t := by simp [Group.setTh, Group.th]
theorem th_setTh_ne (g : Group) {l m : Nat} (t : Thread) (h : m ≠ l) : (g.setTh l t).th m = g.th m := by
  simp [Group.setTh, Group.th, nget_nset_ne _ _ _ h]

/-- A change of some lanes changes each of them once. -/
theorem th_onLanes (g : Group) (lanes : List Nat) (hn : lanes.Nodup) (f : Nat → Thread → Thread) (l : Nat) :
    (g.onLanes lanes f).th l = if lanes.contains l then f l (g.th l) else g.th l := by
  induction lanes generalizing g with
  | nil => simp [Group.onLanes]
  | cons a r ih =>
    obtain ⟨ha, hr⟩ := List.nodup_cons.1 hn
    show (Group.onLanes (g.setTh a (f a (g.th a))) r f).th l = _
    rw [ih _ hr]
    by_cases hl : l = a
    · subst hl
      simp [ha, th_setTh_same]
    · simp [hl, th_setTh_ne g _ hl]

/-- A change of some lanes changes the group's threads only. -/
theorem onLanes_eq (g : Group) (lanes : List Nat) (f : Nat → Thread → Thread) :
    ∃ m, g.onLanes lanes f = { g with threads := m } := by
  induction lanes generalizing g with
  | nil => exact ⟨g.threads, rfl⟩
  | cons a r ih =>
    obtain ⟨m, hm⟩ := ih (g.setTh a (f a (g.th a)))
    exact ⟨m, hm⟩

theorem active_nodup (g : Group) : g.active.Nodup :=
  ((List.nodup_range).filter _).filter _

theorem grp_setGrp_same (k : Core) (i : Nat) (x : Group) : (k.setGrp i x).grp i = x := by simp [Core.setGrp, Core.grp]
theorem setGrp_setGrp (k : Core) (i : Nat) (x y : Group) : (k.setGrp i x).setGrp i y = k.setGrp i y := by
  simp [Core.setGrp, nset_nset]
theorem grp_setGrp_ne (k : Core) {i j : Nat} (x : Group) (h : j ≠ i) : (k.setGrp i x).grp j = k.grp j := by
  simp [Core.setGrp, Core.grp, nget_nset_ne _ _ _ h]

@[simp] theorem grp_modGrp_same (s : State) (c i : Nat) (f : Group → Group) : (s.modGrp c i f).grp c i = f (s.grp c i) := by
  simp [State.modGrp, State.grp, grp_setGrp_same]
theorem grp_modGrp_ne (s : State) (c : Nat) {i j : Nat} (f : Group → Group) (h : j ≠ i) :
    (s.modGrp c i f).grp c j = s.grp c j := by
  simp [State.modGrp, State.grp, grp_setGrp_ne _ _ h]

theorem State.core_congr {s t : State} (h : t.cores = s.cores) (c : Nat) : t.core c = s.core c := by
  simp only [State.core, h]

theorem State.grp_congr {s t : State} (h : t.cores = s.cores) (c i : Nat) : t.grp c i = s.grp c i := by
  simp only [State.grp, State.core, h]

theorem modCore_modCore (s : State) (c : Nat) (f g : Core → Core) :
    (s.modCore c f).modCore c g = s.modCore c fun k => g (f k) := by
  unfold State.modCore
  rw [State.core_setCore_same]
  unfold State.setCore
  simp only [nset_nset]

theorem modGrp_modGrp (s : State) (c i : Nat) (f g : Group → Group) :
    (s.modGrp c i f).modGrp c i g = s.modGrp c i fun x => g (f x) := by
  unfold State.modGrp
  rw [modCore_modCore]
  simp only [grp_setGrp_same, setGrp_setGrp]

/-- Two changes of the lanes one after the other are one. -/
theorem onLanes_onLanes (g : Group) (lanes : List Nat) (hn : lanes.Nodup) (f h : Nat → Thread → Thread) (l : Nat) :
    ((g.onLanes lanes f).onLanes lanes h).th l = if lanes.contains l then h l (f l (g.th l)) else g.th l := by
  rw [th_onLanes _ _ hn, th_onLanes _ _ hn]
  split <;> rfl

/-- A group after an instruction of its thread code: the lanes whose predicate is false go on, the others read the registers srcs
and take the effect, and the progress count is cleared. -/
def Group.after (g : Group) (pred : BitVec 3) (pneg : Bool) (srcs : List Nat) (f : Thread → Thread) : Group :=
  ({ (g.onLanes (g.active.filter fun l => (g.th l).preg pred.toNat == pneg) (fun _ t => t.next)).onLanes
      (g.active.filter fun l => (g.th l).preg pred.toNat != pneg) (fun _ t => t.reads srcs) with progress := 0 }).onLanes
    (g.active.filter fun l => (g.th l).preg pred.toNat != pneg) (fun _ t => f t)

theorem Group.after_th (g : Group) (pred : BitVec 3) (pneg : Bool) (srcs : List Nat) (f : Thread → Thread) (l : Nat) :
    (g.after pred pneg srcs f).th l = if g.takes pred pneg l then f ((g.th l).reads srcs)
      else if g.active.contains l then (g.th l).next else g.th l := by
  have hn1 : (g.active.filter fun l => (g.th l).preg pred.toNat == pneg).Nodup := (active_nodup _).filter _
  have hn2 : (g.active.filter fun l => (g.th l).preg pred.toNat != pneg).Nodup := (active_nodup _).filter _
  have h1 : ∀ (y : Group) (l : Nat), Group.th { y with progress := 0 } l = y.th l := fun _ _ => rfl
  unfold Group.after
  rw [th_onLanes _ _ hn2]
  simp only [h1, th_onLanes _ _ hn1, th_onLanes _ _ hn2, Group.takes, List.contains_iff_mem, List.mem_filter, Bool.and_eq_true,
    beq_iff_eq, bne_iff_ne, ne_eq]
  by_cases hm : l ∈ g.active <;> by_cases hp : (g.th l).preg pred.toNat = pneg <;> simp [hm, hp]

/-- Only the threads and the progress count of the group change. -/
theorem Group.after_eq (g : Group) (pred : BitVec 3) (pneg : Bool) (srcs : List Nat) (f : Thread → Thread) :
    ∃ m, g.after pred pneg srcs f = { g with threads := m, progress := 0 } := by
  obtain ⟨m1, h1⟩ := onLanes_eq g (g.active.filter fun l => (g.th l).preg pred.toNat == pneg) fun _ t => t.next
  obtain ⟨m2, h2⟩ := onLanes_eq { g with threads := m1 } (g.active.filter fun l => (g.th l).preg pred.toNat != pneg)
    fun _ t => t.reads srcs
  obtain ⟨m3, h3⟩ := onLanes_eq { g with threads := m2, progress := 0 } (g.active.filter fun l => (g.th l).preg pred.toNat != pneg)
    fun _ t => f t
  refine ⟨m3, ?_⟩
  unfold Group.after
  rw [h1, h2, h3]

/-- The core that a group's instruction leaves, beside its own effect. -/
def Core.fetched (k : Core) (a : Nat) : Core := { k with icache := holdWord k.icache a }

/-- A state whose cores are those of an instruction's effect has the effect. -/
theorem threadEffect_of {s t : State} {c i : Nat} {pred : BitVec 3} {pneg : Bool} {srcs : List Nat} {f : Thread → Thread}
    (hc : t.cores = ((s.modCore c fun k => k.fetched (k.codeBase + (s.grp c i).lowPc)).modGrp c i fun x =>
        x.after pred pneg srcs f).cores)
    (hm : t.mem = s.mem) (hr : { t with cores := s.cores, ctr := s.ctr } = s) : ThreadEffect s t c i pred pneg srcs f := by
  have hg0 : ∀ j, (s.modCore c fun k => k.fetched (k.codeBase + (s.grp c i).lowPc)).grp c j = s.grp c j := fun j => by
    simp only [State.grp, State.core_modCore_same]; rfl
  have hg := fun j => State.grp_congr hc c j
  have hk := fun x => State.core_congr hc x
  have hgi := hg i
  rw [grp_modGrp_same, hg0] at hgi
  obtain ⟨m, hm1⟩ := (s.grp c i).after_eq pred pneg srcs f
  refine ⟨fun l => ?_, ?_, ?_, fun j hj => ?_, ?_, ?_, fun x hx => ?_, fun a => ?_, hr⟩
  · rw [hgi, Group.after_th]; rfl
  · rw [hgi, hm1]
  · rw [hgi, hm1]
  · rw [hg j, grp_modGrp_ne _ c _ hj, hg0]
  · rw [hk c]
    unfold State.modGrp
    rw [State.core_modCore_same, State.core_modCore_same]
    rfl
  · rw [hk c]
    unfold State.modGrp
    rw [State.core_modCore_same, State.core_modCore_same]
    rfl
  · rw [hk x]
    unfold State.modGrp
    rw [State.core_modCore_ne _ _ hx, State.core_modCore_ne _ _ hx]
  · rw [hm]

/-- A count changes the counters only. -/
theorem bump_ctr (s : State) (fam unit pos n : Nat) : ∃ m : NMap W64, s.bump fam unit pos n = { s with ctr := m } := ⟨_, rfl⟩

theorem ctr_trans {s t u : State} (h : ∃ m : NMap W64, t = { s with ctr := m }) (g : ∃ m : NMap W64, u = { t with ctr := m }) :
    ∃ m : NMap W64, u = { s with ctr := m } := by
  obtain ⟨m, rfl⟩ := h
  obtain ⟨m', rfl⟩ := g
  exact ⟨m', rfl⟩

/-- The counts of a thread instruction change the counters only. -/
theorem bumps_group (s : State) (c n m : Nat) (p : Prop) [Decidable p] : ∃ ctr' : NMap W64,
    (if p then ((s.bump 0x03 c 0 1).bump 0x03 c 1 n).bump 0x03 c 2 1 else (s.bump 0x03 c 0 1).bump 0x03 c 1 n).bump 0x03 c 4 m =
      { s with ctr := ctr' } := by
  have h := ctr_trans (bump_ctr s 0x03 c 0 1) (bump_ctr _ 0x03 c 1 n)
  split
  · exact ctr_trans (ctr_trans h (bump_ctr _ 0x03 c 2 1)) (bump_ctr _ 0x03 c 4 m)
  · exact ctr_trans h (bump_ctr _ 0x03 c 4 m)

/-- An instruction of a group's thread code that is ready and legal: the lanes whose predicate is false go on, the counters
count the issue and the operands that miss the register caches, and the others read their operands and take the effect. -/
theorem issueGroup_ready {s : State} {c i : Nat} (h : ThreadReady s c i) (pred : BitVec 3) (pneg clears : Bool) (srcs : List Nat)
    {legal : Bool} (hl : legal = true) (eff : State → List Nat → Except (Option Nat) State) :
    ∃ ctr' : NMap W64, issueGroup s c i legal pred pneg clears srcs eff =
      (let s1 := { (s.modCore c fun k => k.fetched ((s.core c).codeBase + (s.grp c i).lowPc)).modGrp c i (fun x =>
          let y := (x.onLanes ((s.grp c i).active.filter fun l => ((s.grp c i).th l).preg pred.toNat == pneg) fun _ t => t.next).onLanes
            ((s.grp c i).active.filter fun l => ((s.grp c i).th l).preg pred.toNat != pneg) fun _ t => t.reads srcs
          if clears then { y with progress := 0 } else y) with ctr := ctr' }
       let on := (s.grp c i).active.filter fun l => ((s.grp c i).th l).preg pred.toNat != pneg
       if on.isEmpty then s1 else
       match eff s1 on with
       | .ok s2 => s2
       | .error w => s.wakeFor w) := by
  have h1 := h.issues
  have h2 := Nat.not_le.2 h.inside
  have h3 : s.fetchBadAt (s.core c) ((s.core c).codeBase + ((s.core c).grp i).lowPc) = false := by
    have := h.good
    simp only [State.grp] at this
    simp [State.fetchBadAt, this]
  have h4 : (s.grp c i).active.isEmpty = false := by simpa using h.active
  have h5 : s.fetched ((s.core c).codeBase + ((s.core c).grp i).lowPc) = s := by
    have := h.good
    simp only [State.grp] at this
    simp [State.fetched, this]
  have h6 := h.known
  unfold issueGroup
  simp only [State.grp] at h2 h4 h6
  simp only [h1, h2, h3, h4, h5, h6, hl, Bool.not_true, Bool.or_false, if_false, Bool.false_eq_true]
  obtain ⟨ctr', hctr⟩ := bumps_group ((s.modCore c fun k => k.fetched ((s.core c).codeBase + ((s.core c).grp i).lowPc)).modGrp c i fun x =>
      let y := (x.onLanes (((s.core c).grp i).active.filter fun l => (((s.core c).grp i).th l).preg pred.toNat == pneg) fun _ t => t.next).onLanes
        (((s.core c).grp i).active.filter fun l => (((s.core c).grp i).th l).preg pred.toNat != pneg) fun _ t => t.reads srcs
      if clears then { y with progress := 0 } else y) c ((s.core c).grp i).active.length
    ((((s.core c).grp i).active.filter fun l => (((s.core c).grp i).th l).preg pred.toNat != pneg).map fun l =>
      (srcs.filter fun n => !(((s.core c).grp i).th l).cache.contains n).length).sum
    (((s.core c).grp i).active.length < ((s.core c).grp i).live.length)
  refine ⟨ctr', ?_⟩
  simp only [State.grp]
  rw [← hctr]
  rfl

theorem modGrp_congr (s : State) (c i : Nat) {f g : Group → Group} (h : f (s.grp c i) = g (s.grp c i)) :
    s.modGrp c i f = s.modGrp c i g := by
  show s.setCore c ((s.core c).setGrp i (f (s.grp c i))) = s.setCore c ((s.core c).setGrp i (g (s.grp c i)))
  rw [h]

theorem modGrp_ctr (s : State) (c i : Nat) (f : Group → Group) (m : NMap W64) :
    (({ s with ctr := m } : State).modGrp c i f).cores = (s.modGrp c i f).cores := rfl

/-- A change of cores and counters only. -/
def CoresOnly (s t : State) : Prop := ∃ (k : NMap Core) (m : NMap W64), t = { s with cores := k, ctr := m }

theorem coresOnly_trans {s t u : State} (h : CoresOnly s t) (g : CoresOnly t u) : CoresOnly s u := by
  obtain ⟨_, _, rfl⟩ := h
  obtain ⟨k, m, rfl⟩ := g
  exact ⟨k, m, rfl⟩
theorem coresOnly_modCore (s : State) (c : Nat) (f : Core → Core) : CoresOnly s (s.modCore c f) := ⟨_, s.ctr, rfl⟩
theorem coresOnly_modGrp (s : State) (c i : Nat) (f : Group → Group) : CoresOnly s (s.modGrp c i f) := ⟨_, s.ctr, rfl⟩
theorem coresOnly_ctr (s : State) (m : NMap W64) : CoresOnly s { s with ctr := m } := ⟨s.cores, m, rfl⟩
theorem coresOnly_rest {s t : State} (h : CoresOnly s t) : t.mem = s.mem ∧ { t with cores := s.cores, ctr := s.ctr } = s := by
  obtain ⟨k, m, rfl⟩ := h
  exact ⟨rfl, rfl⟩

/-- A thread instruction that only changes its threads' registers. -/
theorem issueRegs_group {s : State} {c i : Nat} (h : ThreadReady s c i) {pred : BitVec 3} {pneg : Bool} {legal : Bool}
    (hl : legal = true) (ps srcs : List Nat) (g : Core → Core) (f : Thread → Thread) :
    ∃ t, issueRegs (.group c i) legal pred pneg ps srcs g f s = .next t ∧
      ThreadEffect s t c i pred pneg srcs fun x => { f x with pc := (f x).pc + 8 } := by
  obtain ⟨ctr', he⟩ := issueGroup_ready h pred pneg true srcs hl fun s1 lanes => threadRegs s1 c i (fun _ t => f t) lanes
  have hx : issueRegs (.group c i) legal pred pneg ps srcs g f s =
      .next (issueGroup s c i legal pred pneg true srcs fun s1 lanes => threadRegs s1 c i (fun _ t => f t) lanes) := by
    simp only [issueRegs, h.unit, h.slot, Bool.and_self, onUnit_true]
  have hg : (s.modCore c fun k => k.fetched ((s.core c).codeBase + (s.grp c i).lowPc)).grp c i = s.grp c i := by
    simp only [State.grp, State.core_modCore_same]; rfl
  have hb : (s.modCore c fun k => k.fetched (k.codeBase + (s.grp c i).lowPc)) =
      s.modCore c fun k => k.fetched ((s.core c).codeBase + (s.grp c i).lowPc) := rfl
  refine ⟨_, hx, ?_⟩
  rw [he]
  simp only [threadRegs, if_true]
  split
  · rename_i hon
    refine threadEffect_of ?_ rfl rfl
    rw [hb]
    dsimp only
    refine congrArg State.cores (modGrp_congr _ c i ?_)
    rw [List.isEmpty_iff] at hon
    unfold Group.after
    rw [hg]
    simp only [hon]
    rfl
  · obtain ⟨hm, hr⟩ := coresOnly_rest (coresOnly_trans (coresOnly_trans (coresOnly_trans (coresOnly_modCore s c fun k =>
        k.fetched ((s.core c).codeBase + (s.grp c i).lowPc)) (coresOnly_modGrp _ c i _)) (coresOnly_ctr _ ctr')) (coresOnly_modGrp _ c i _))
    refine threadEffect_of ?_ hm hr
    rw [hb]
    rw [modGrp_ctr, modGrp_modGrp]
    refine congrArg State.cores (modGrp_congr _ c i ?_)
    unfold Group.after
    rw [hg]
    rfl

end Sys2Proof.Machine
end

