-- ==== Sys2Proof/Laws/Touch.lean ====
section
/-! SUPPORT. What a read through the bays does where nothing holds an error: bays and counters change, what memory reads stays, and no
error appears. -/

namespace Sys2Proof.Machine
open Sys2Proof

/-- A bay without errors and with a free miss entry. -/
def Bay.Calm (b : Bay) : Prop := b.miss.length < 64 ∧ ∀ l ∈ b.lines, l.bad = 0

theorem calm_iff (s : State) : s.calm = true ↔ s.chk = [] ∧ ∀ e ∈ s.bays, e.2.Calm := by
  simp [State.calm, Bay.Calm, List.all_eq_true]

theorem mem_ndel {α : Type} {k : Nat} {m : NMap α} {e : Nat × α} (h : e ∈ ndel k m) : e ∈ m := by
  induction m with
  | nil => exact h
  | cons a r ih =>
    unfold ndel at h
    split at h
    · exact List.mem_cons_of_mem _ (ih h)
    · rcases List.mem_cons.1 h with rfl | h
      · exact List.mem_cons_self ..
      · exact List.mem_cons_of_mem _ (ih h)

theorem mem_nins {α : Type} {k : Nat} {v : α} {m : NMap α} {e : Nat × α} (h : e ∈ nins k v m) : e = (k, v) ∨ e ∈ m := by
  induction m with
  | nil => exact Or.inl (List.mem_singleton.1 h)
  | cons a r ih =>
    unfold nins at h
    split at h
    · exact List.mem_cons.1 h
    · rcases List.mem_cons.1 h with rfl | h
      · exact Or.inr (List.mem_cons_self ..)
      · rcases ih h with h | h
        · exact Or.inl h
        · exact Or.inr (List.mem_cons_of_mem _ h)

theorem mem_nset {α : Type} [DecidableEq α] {d : α} {k : Nat} {v : α} {m : NMap α} {e : Nat × α} (h : e ∈ nset d m k v) :
    e = (k, v) ∨ e ∈ m := by
  unfold nset at h
  split at h
  · exact Or.inr (mem_ndel h)
  · exact (mem_nins h).imp id mem_ndel

theorem nget_cases {α : Type} (d : α) (m : NMap α) (k : Nat) : nget d m k = d ∨ ∃ e ∈ m, nget d m k = e.2 := by
  induction m with
  | nil => exact Or.inl rfl
  | cons a r ih =>
    unfold nget
    split
    · exact Or.inr ⟨a, List.mem_cons_self .., rfl⟩
    · rcases ih with h | ⟨e, he, h⟩
      · exact Or.inl h
      · exact Or.inr ⟨e, List.mem_cons_of_mem _ he, h⟩

/-- t differs from s in bays and counters only, and is as free of errors. -/
structure Touched (s t : State) : Prop where
  only : ∃ (b : NMap Bay) (m : NMap W64), t = { s with bays := b, ctr := m }
  prov : ∀ n, (t.bay n).prov = (s.bay n).prov
  calm : t.calm = true

theorem Touched.refl {s : State} (h : s.calm = true) : Touched s s := ⟨⟨s.bays, s.ctr, rfl⟩, fun _ => rfl, h⟩

theorem Touched.trans {s t u : State} (h : Touched s t) (g : Touched t u) : Touched s u := by
  have hp := fun n => (g.prov n).trans (h.prov n)
  obtain ⟨_, _, rfl⟩ := h.only
  obtain ⟨b, m, rfl⟩ := g.only
  exact ⟨⟨b, m, rfl⟩, hp, g.calm⟩

theorem Touched.cores {s t : State} (h : Touched s t) : t.cores = s.cores := by
  obtain ⟨_, _, rfl⟩ := h.only; rfl
theorem Touched.mem {s t : State} (h : Touched s t) : t.mem = s.mem := by
  obtain ⟨_, _, rfl⟩ := h.only; rfl
theorem Touched.rest {s t : State} (h : Touched s t) : { t with bays := s.bays, ctr := s.ctr } = s := by
  obtain ⟨_, _, rfl⟩ := h.only; rfl

section
variable {s : State}

theorem calm_bay (h : s.calm = true) (n : Nat) : (s.bay n).Calm := by
  rcases nget_cases ({} : Bay) s.bays n with e | ⟨e, he, h'⟩
  · have : s.bay n = {} := e
    rw [this]
    exact ⟨by decide, by simp⟩
  · have : s.bay n = e.2 := h'
    rw [this]
    exact ((calm_iff s).1 h).2 e he

theorem touched_bump (h : s.calm = true) (fam unit pos n : Nat) : Touched s (s.bump fam unit pos n) := ⟨⟨s.bays, _, rfl⟩, fun _ => rfl, h⟩
theorem touched_sill (h : s.calm = true) (bay pos n : Nat) : Touched s (s.sill bay pos n) := touched_bump h ..
theorem touched_sillC (h : s.calm = true) (bay pos cls n : Nat) : Touched s (s.sillC bay pos cls n) := touched_bump h ..
theorem touched_farBeats (h : s.calm = true) (bay n : Nat) : Touched s (s.farBeats bay n) := touched_bump h ..

theorem touched_setBay (h : s.calm = true) (n : Nat) {b : Bay} (hb : b.Calm) (hp : b.prov = (s.bay n).prov) : Touched s (s.setBay n b) := by
  refine ⟨⟨_, s.ctr, rfl⟩, fun x => ?_, (calm_iff _).2 ⟨((calm_iff s).1 h).1, fun e he => ?_⟩⟩
  · simp only [State.setBay, State.bay, nget_nset]
    split
    · rename_i e
      subst e
      exact hp
    · rfl
  rcases mem_nset he with rfl | he
  · exact hb
  · exact ((calm_iff s).1 h).2 e he

theorem Bay.Calm.drop {b : Bay} (h : b.Calm) (ln : Nat) : (b.drop ln).Calm := ⟨h.1, fun l hl => h.2 l (List.mem_of_mem_filter hl)⟩

theorem mem_updFirst {α : Type} {p : α → Bool} {f : α → α} {l : List α} {x : α} (h : x ∈ updFirst p f l) :
    x ∈ l ∨ ∃ y ∈ l, x = f y := by
  induction l with
  | nil => exact Or.inl h
  | cons a r ih =>
    unfold updFirst at h
    split at h
    · rcases List.mem_cons.1 h with rfl | h
      · exact Or.inr ⟨a, List.mem_cons_self .., rfl⟩
      · exact Or.inl (List.mem_cons_of_mem _ h)
    · rcases List.mem_cons.1 h with rfl | h
      · exact Or.inl (List.mem_cons_self ..)
      · rcases ih h with h | ⟨y, hy, e⟩
        · exact Or.inl (List.mem_cons_of_mem _ h)
        · exact Or.inr ⟨y, List.mem_cons_of_mem _ hy, e⟩

theorem Bay.Calm.modLine {b : Bay} (h : b.Calm) (ln : Nat) {f : Line → Line} (hf : ∀ l, (f l).bad = l.bad) : (b.modLine ln f).Calm := by
  refine ⟨h.1, fun l hl => ?_⟩
  rcases mem_updFirst hl with hl | ⟨y, hy, rfl⟩
  · exact h.2 l hl
  · rw [hf]; exact h.2 y hy

theorem touched_fold {α : Type} (f : State → α → State) (hf : ∀ t a, t.calm = true → Touched t (f t a)) (l : List α)
    (h : s.calm = true) : Touched s (l.foldl f s) := by
  induction l generalizing s with
  | nil => exact Touched.refl h
  | cons a r ih => exact (hf s a h).trans (ih (hf s a h).calm)

/-- Like touched_fold, for steps that are calm on the list's own elements. -/
theorem touched_fold_mem {α : Type} (f : State → α → State) (l : List α) (hf : ∀ t, ∀ a ∈ l, t.calm = true → Touched t (f t a))
    (h : s.calm = true) : Touched s (l.foldl f s) := by
  induction l generalizing s with
  | nil => exact Touched.refl h
  | cons a r ih =>
    have h1 := hf s a (List.mem_cons_self ..) h
    exact h1.trans (ih (fun t b hb => hf t b (List.mem_cons_of_mem _ hb)) h1.calm)

theorem calm_chk (h : s.calm = true) (off : Nat) : s.sectorChk off = 0 := by
  simp [State.sectorChk, ((calm_iff s).1 h).1, nget]

theorem sectorRead_calm (h : s.calm = true) (off : Nat) : s.sectorRead off = (s.hbmCount off 0 1, false) := by
  simp [State.sectorRead, calm_chk h]

theorem touched_hbmCount (h : s.calm = true) (off pos n : Nat) : Touched s (s.hbmCount off pos n) := touched_bump h ..

theorem setChk_calm (h : s.calm = true) (off : Nat) : s.setChk off 0 = s := by
  have h1 := ((calm_iff s).1 h).1
  cases s
  simp only at h1
  subst h1
  simp [State.setChk, nset, ndel]

theorem touched_sectorPut (h : s.calm = true) (off n : Nat) : Touched s (s.sectorPut off n false) := by
  unfold State.sectorPut
  dsimp only
  split
  · rw [if_neg (by simp), setChk_calm (touched_hbmCount h off 1 1).calm]
    exact touched_hbmCount h off 1 1
  · rw [sectorRead_calm h]
    simp only [Bool.false_eq_true, if_false]
    have h1 := touched_hbmCount h off 0 1
    have h2 := h1.trans (touched_hbmCount h1.calm off 2 1)
    exact h2.trans (touched_hbmCount h2.calm off 1 1)

theorem hbmFetch_calm (h : s.calm = true) (off n : Nat) : Touched s (s.hbmFetch off n).1 ∧ (s.hbmFetch off n).2 = false := by
  unfold State.hbmFetch
  generalize s.sectorsIn off n = l
  have : ∀ (l : List (Nat × Nat)) (t : State), t.calm = true →
      Touched t (l.foldl (fun (acc : State × Bool) x => let r := acc.1.sectorRead x.1; (r.1, acc.2 || r.2)) (t, false)).1 ∧
      (l.foldl (fun (acc : State × Bool) x => let r := acc.1.sectorRead x.1; (r.1, acc.2 || r.2)) (t, false)).2 = false := by
    intro l
    induction l with
    | nil => exact fun t ht => ⟨Touched.refl ht, rfl⟩
    | cons a r ih =>
      intro t ht
      have h1 := touched_hbmCount ht a.1 0 1
      have e : (a :: r).foldl (fun (acc : State × Bool) x => let r := acc.1.sectorRead x.1; (r.1, acc.2 || r.2)) (t, false) =
          r.foldl (fun (acc : State × Bool) x => let r := acc.1.sectorRead x.1; (r.1, acc.2 || r.2)) (t.hbmCount a.1 0 1, false) := by
        simp only [List.foldl_cons, sectorRead_calm ht, Bool.or_false]
      rw [e]
      obtain ⟨i1, i2⟩ := ih _ h1.calm
      exact ⟨h1.trans i1, i2⟩
  exact this l s h

theorem touched_unmark (h : s.calm = true) (bay : Nat) (l : Line) : Touched s (s.unmark bay l) := by
  unfold State.unmark
  split
  · exact touched_sill h ..
  · exact Touched.refl h

theorem touched_writeBack (h : s.calm = true) (bay : Nat) {l : Line} (hl : l.bad = 0) : Touched s (s.writeBack bay l) := by
  unfold State.writeBack
  split
  · exact Touched.refl h
  · dsimp only
    rw [show (l.bad != 0) = false by simp [hl]]
    have h1 := touched_fold (fun (st : State) x => st.sectorPut x.1 x.2 false) (fun t a ht => touched_sectorPut ht a.1 a.2)
      (s.sectorsIn l.line 128) h
    have h2 := h1.trans (touched_setBay h1.calm bay ((calm_bay h1.calm bay).modLine l.line (f := fun x => { x with dirty := false, stale := [] })
      fun _ => rfl) rfl)
    have h3 := h2.trans (touched_sill h2.calm bay sillWriteback 1)
    exact h3.trans (touched_farBeats h3.calm bay 2)

theorem touched_flushLine (h : s.calm = true) (bay : Nat) {l : Line} (hl : l.bad = 0) : Touched s (s.flushLine bay l) := by
  have h1 := touched_writeBack h bay hl
  have h2 := h1.trans (touched_unmark h1.calm bay l)
  exact h2.trans (touched_setBay h2.calm bay ((calm_bay h2.calm bay).drop l.line) rfl)

theorem touched_dropCopiesOf (h : s.calm = true) (ln : Nat) (p : Nat → Bool) : Touched s (s.dropCopiesOf ln p) := by
  unfold State.dropCopiesOf
  refine touched_fold _ (fun t e ht => ?_) s.bays h
  split
  · rename_i l hl
    split
    · have h1 := touched_unmark ht e.1 l
      exact h1.trans (touched_setBay h1.calm e.1 ((calm_bay h1.calm e.1).drop ln) rfl)
    · exact Touched.refl ht
  · exact Touched.refl ht

theorem touched_evictLine (h : s.calm = true) (bay : Nat) {l : Line} (hl : l.bad = 0) : Touched s (s.evictLine bay l) := by
  unfold State.evictLine
  dsimp only
  have h1 : Touched s (if l.kind = .home ∧ l.copies bay none ≠ 0 then
      (s.dropCopiesOf l.line fun b => b / towerBays != bay / towerBays).sill bay sillInvalSent (l.copies bay none)
    else s) := by
    split
    · have h0 := touched_dropCopiesOf h l.line fun b => b / towerBays != bay / towerBays
      exact h0.trans (touched_sill h0.calm ..)
    · exact Touched.refl h
  have h2 := h1.trans (touched_flushLine h1.calm bay hl)
  exact h2.trans (touched_sill h2.calm ..)

/-- The line that gives way is one of its bay. -/
theorem victimIn_mem {bay st cls : Nat} {remote : Bool} {l : Line} (h : s.victimIn bay st cls remote = some (some l)) :
    l ∈ (s.bay bay).lines := by
  have pick : ∀ (r : List Line) (b : Line) (g : Line → Line → Line), (∀ x y, g x y = x ∨ g x y = y) → r.foldl g b = b ∨ r.foldl g b ∈ r := by
    intro r
    induction r with
    | nil => exact fun b g hg => Or.inl rfl
    | cons a r ih =>
      intro b g hg
      rcases ih (g b a) g hg with h | h
      · rcases hg b a with e | e
        · exact Or.inl (by rw [List.foldl_cons, h, e])
        · exact Or.inr (by rw [List.foldl_cons, h, e]; exact List.mem_cons_self ..)
      · exact Or.inr (List.mem_cons_of_mem _ h)
  unfold State.victimIn at h
  dsimp only at h
  split at h
  · cases h
  · split at h
    · cases h
    · rename_i c r hc
      have hl := Option.some.inj (Option.some.inj h)
      have hm : l ∈ c :: r := by
        rcases pick r c (fun best l =>
            if s.retain bay l < s.retain bay best || (s.retain bay l == s.retain bay best && l.stamp < best.stamp) then l else best)
          (fun x y => by split <;> simp) with e | e
        · rw [← hl, e]; exact List.mem_cons_self ..
        · rw [← hl]; exact List.mem_cons_of_mem _ e
      rw [← hc] at hm
      exact List.mem_of_mem_filter (List.mem_of_mem_filter hm)

theorem touched_allocLine (h : s.calm = true) (bay : Nat) {new : Line} (hn : new.bad = 0) : Touched s (s.allocLine bay new).1 := by
  unfold State.allocLine
  split
  · exact touched_sill h ..
  · rename_i v hv
    dsimp only
    have h1 : Touched s (s.makeRoom bay v) := by
      unfold State.makeRoom
      split
      · exact Touched.refl h
      · exact touched_evictLine h bay ((calm_bay h bay).2 _ (victimIn_mem hv))
    have hb : ({ (s.makeRoom bay v).bay bay with
        lines := ((s.makeRoom bay v).bay bay).lines ++ [{ new with stamp := ((s.makeRoom bay v).bay bay).clock + 1 }],
        clock := ((s.makeRoom bay v).bay bay).clock + 1 } : Bay).Calm := by
      refine ⟨(calm_bay h1.calm bay).1, fun l hl => ?_⟩
      rcases List.mem_append.1 hl with hl | hl
      · exact (calm_bay h1.calm bay).2 l hl
      · rw [List.mem_singleton.1 hl]; exact hn
    have h2 := h1.trans (touched_setBay h1.calm bay hb rfl)
    split
    · exact h2.trans (touched_sill h2.calm ..)
    · exact h2

theorem touched_fillLine (h : s.calm = true) (bay ln cls : Nat) (mark force : Bool) : Touched s (s.fillLine bay ln cls mark force).1 := by
  unfold State.fillLine
  dsimp only
  have h1 : Touched s (if s.kindIn bay ln = .home then (s.hbmFetch ln 128).1 else s) := by
    split
    · exact (hbmFetch_calm h ln 128).1
    · exact Touched.refl h
  revert h1
  generalize (if s.kindIn bay ln = .home then (s.hbmFetch ln 128).1 else s) = s1
  intro h1
  split
  · exact h1.trans (touched_sill h1.calm ..)
  · have h2 := h1.trans (touched_allocLine h1.calm bay (new := { line := ln, kind := s.kindIn bay ln, cls := cls, mark := mark }) rfl)
    split
    · exact h2.trans (touched_farBeats h2.calm ..)
    · exact h2

theorem touched_hitLine (h : s.calm = true) (bay : Nat) (l : Line) (cls : Nat) : Touched s (s.hitLine bay l cls) := by
  unfold State.hitLine
  dsimp only
  have hc := (calm_bay h bay).modLine l.line (f := fun x => { x with cls := cls, mark := false, stamp := (s.bay bay).clock + 1 }) fun _ => rfl
  have h1 := touched_setBay h bay (b := { ((s.bay bay).modLine l.line fun x =>
    { x with cls := cls, mark := false, stamp := (s.bay bay).clock + 1 }) with clock := (s.bay bay).clock + 1 }) ⟨hc.1, hc.2⟩ rfl
  split
  · exact h1
  · exact h1.trans (touched_sill h1.calm ..)

/-- A read at a bay, whose fill may ask another bay. -/
theorem touched_readAt (h : s.calm = true) (bay ln cls : Nat) {fill : State → State} (hf : ∀ t, t.calm = true → Touched t (fill t)) :
    Touched s (s.readAt bay ln cls fill) := by
  unfold State.readAt
  dsimp only
  have key : Touched s (match (s.bay bay).find ln with
      | some l =>
        let s0 := (s.sillC bay sillHit cls 1).hitLine bay l cls
        if l.kind = .remote then s0.sill bay sillRemoteHit 1 else s0
      | none =>
        if ((s.bay bay).missOf ln).isSome then s.sillC bay sillMerged cls 1
        else
          let s0 := s.sillC bay sillMiss cls 1
          let s0 := if s.kindIn bay ln = .remote then s0.sill bay sillRemoteMiss 1 else s0
          ((fill s0).fillLine bay ln cls false false).1) := by
    split
    · rename_i l hl
      dsimp only
      have h1 := touched_sillC h bay sillHit cls 1
      have h2 := h1.trans (touched_hitLine h1.calm bay l cls)
      split
      · exact h2.trans (touched_sill h2.calm ..)
      · exact h2
    · split
      · exact touched_sillC h ..
      · dsimp only
        have h1 := touched_sillC h bay sillMiss cls 1
        have h2 : Touched s (if s.kindIn bay ln = .remote then (s.sillC bay sillMiss cls 1).sill bay sillRemoteMiss 1
            else s.sillC bay sillMiss cls 1) := by
          split
          · exact h1.trans (touched_sill h1.calm ..)
          · exact h1
        have h3 := h2.trans (hf _ h2.calm)
        exact h3.trans (touched_fillLine h3.calm ..)
  exact key.trans (touched_farBeats key.calm ..)

theorem touched_recordTower (h : s.calm = true) (bay ln : Nat) : Touched s (s.recordTower bay ln) :=
  touched_setBay h bay ((calm_bay h bay).modLine ln fun _ => rfl) rfl

theorem touched_touchHome (h : s.calm = true) (ln cls : Nat) : Touched s (s.touchHome ln cls) := by
  unfold State.touchHome
  exact touched_readAt h (s.homeBay ln) ln cls (fill := id) fun _ ht => Touched.refl ht

/-- A read of a line by a member of a cluster. -/
theorem touched_touch (h : s.calm = true) (cluster ln cls : Nat) : Touched s (s.touch cluster ln cls) := by
  unfold State.touch
  dsimp only
  apply touched_readAt h
  intro t ht
  split
  · exact Touched.refl ht
  · have h1 := touched_touchHome ht ln cls
    unfold State.touchHome at h1
    split
    · exact h1
    · exact h1.trans (touched_recordTower h1.calm ..)

/-- The reads of the lines of a range. -/
theorem touched_touchRange (h : s.calm = true) (cluster off n cls : Nat) (p : Nat → Bool) :
    Touched s (s.touchRange cluster off n cls p) := by
  refine touched_fold _ (fun t ln ht => ?_) _ h
  split
  · exact touched_touch ht cluster ln cls
  · exact Touched.refl ht

theorem wordPoison_calm (h : s.calm = true) (off : Nat) : s.wordPoison off = false := by
  have hb : s.hbmBad (lineOf off) = 0 := by
    have : ∀ x, s.sectorBad x = false := fun x => by simp [State.sectorBad, calm_chk h]
    simp [State.hbmBad, this]
  unfold State.wordPoison State.poisonMask
  split
  · rename_i l hl
    have := (calm_bay h (s.homeBay off)).2 l (List.mem_of_find?_eq_some hl)
    split
    · simp [this]
    · simp [hb]
  · simp [hb]

theorem entriesBusy_calm (h : s.calm = true) (cluster ln cls : Nat) : s.entriesBusy cluster ln cls = false := by
  have := (calm_bay h (s.readBay cluster ln cls false)).1
  simp only [State.entriesBusy]
  have h2 : decide (64 ≤ (s.bay (s.readBay cluster ln cls false)).miss.length) = false := by simp; omega
  simp [h2]

end

end Sys2Proof.Machine
end

