-- ==== Sys2Proof/Laws/Access.lean ====
section
/-! SUPPORT. What a read that completes at once answers. -/

namespace Sys2Proof.Machine
open Sys2Proof

theorem overlay_length (a b) (x y : List Byte): (overlay a x b y).length = x.length := by simp [overlay]
theorem provOver_length (s : State) (c off : Nat) (bs : List Byte) : (s.provOver c off bs).length = bs.length := by
  simp only [State.provOver]; split
  · rfl
  · generalize List.filter _ _ = ls
    induction ls generalizing bs with
    | nil => rfl
    | cons a r ih => simp only [List.foldl_cons]; rw [ih]; simp
theorem ownStores_length (s : State) (c a : Nat) (bs : List Byte) : (s.ownStores c a bs).length = bs.length := by
  simp only [State.ownStores]
  generalize List.filter _ _ = ls
  induction ls generalizing bs with
  | nil => rfl
  | cons w r ih => simp only [List.foldl_cons]; rw [ih, overlay_length]
theorem devBytes_length (s : State) (c off n : Nat) : (s.devBytes c off n).length = n := by
  simp only [State.devBytes]
  rw [ownStores_length, provOver_length]; exact rdBytes_length _ _ _
theorem maskBytes_all (bs : List Byte) (n) (h : bs.length = n): maskBytes (List.replicate n true) bs = bs := by
  subst h; simp only [maskBytes]
  induction bs with
  | nil => rfl
  | cons a r ih => simpa [List.replicate_succ] using ih
/-- Outside the core's own use of space 0x2 the first-level cache holds nothing of a sill region. -/
theorem l1Holds_own {s : State} {c addr n o off : Nat} (h : (o == c && addr / 2 ^ 60 == 2) = false) :
    s.l1Holds c addr n (.own o off) = false := by
  simp only [State.l1Holds, h, Bool.false_and]

/-- The bytes that a reader sees stay when lines and counters change. -/
theorem devBytes_touched {s t : State} (h : Touched s t) (c off n : Nat) : t.devBytes c off n = s.devBytes c off n := by
  have hp := h.prov
  obtain ⟨b, m, rfl⟩ := h.only
  simp only [State.devBytes, State.provOver, hp]
  rfl

/-- A plain read loads its bytes and changes nothing but lines and counters. -/
theorem load_plain {s : State} {c addr n : Nat} {scalar} {bs} (ecc cls : Nat) (hr : s.plainRead c addr n scalar = some bs) :
    ∃ l t, s.resolve c addr n scalar = some l ∧ s.load c addr n l ecc cls = .ok bs t ∧
      ∃ (b : NMap Bay) (m : NMap W64), t = { s with bays := b, ctr := m } := by
  unfold State.plainRead at hr
  split at hr
  · rename_i o off he
    split at hr
    · cases hr
    · rename_i hc
      obtain rfl := Option.some.inj hr
      simp only [Bool.or_eq_true, not_or, Bool.not_eq_true] at hc
      exact ⟨_, s, he, by simp [State.load, State.loadNow, State.l1Holds, hc, State.readRaw, State.throughL1], s.bays, s.ctr, rfl⟩
  · rename_i o off he
    split at hr
    · cases hr
    · rename_i hc
      obtain rfl := Option.some.inj hr
      simp only [Bool.or_eq_true, not_or, Bool.not_eq_true] at hc
      obtain ⟨⟨h1, h2⟩, h3⟩ := hc
      have h4 : ¬(o = c ∧ addr / 2 ^ 60 = 2) := by simpa using h3
      have h5 : ∃ m, s.ownBeats c o off n = { s with bays := s.bays, ctr := m } := by
        unfold State.ownBeats
        split
        · exact ⟨_, rfl⟩
        · exact ⟨_, rfl⟩
      obtain ⟨m, hm⟩ := h5
      exact ⟨_, s.ownBeats c o off n, he,
        by simp [State.load, State.loadNow, l1Holds_own h3, h1, h2, State.readRaw, State.throughL1, -Nat.reducePow, h4], s.bays, m, hm⟩
  · rename_i off he
    split at hr
    · cases hr
    · rename_i hc
      obtain rfl := Option.some.inj hr
      simp only [Bool.or_eq_true, not_or, Bool.not_eq_true] at hc
      obtain ⟨⟨⟨⟨⟨h1, h2⟩, h3⟩, h4⟩, h5⟩, h6⟩ := hc
      simp only [Bool.not_eq_false'] at h4 h5
      have ht := touched_touchRange h5 (clusterOf c) off n cls (mayLine off (List.replicate n true))
      have hd := devBytes_length s c off n
      have hl : s.l1Holds c addr n (.dev off) = false := by simp only [State.l1Holds, h6, Bool.false_and]
      have hb : ((blocksOf 128 off n).any fun ln => mayLine off (List.replicate n true) ln && s.entriesBusy (clusterOf c) ln cls) = false := by
        simp [entriesBusy_calm h5]
      have hp : (s.touchRange (clusterOf c) off n cls (mayLine off (List.replicate n true))).readPoison c off n = false := by
        simp [State.readPoison, wordPoison_calm ht.calm]
      have hk : (s.touchRange (clusterOf c) off n cls (mayLine off (List.replicate n true))).core c = s.core c :=
        State.core_congr ht.cores c
      have hu : (s.touchRange (clusterOf c) off n cls (mayLine off (List.replicate n true))).unfwd (s.core c) off = s.unfwd (s.core c) off ∧
          (s.touchRange (clusterOf c) off n cls (mayLine off (List.replicate n true))).moduleId = s.moduleId := by
        obtain ⟨_, _, e⟩ := ht.only
        rw [e]
        exact ⟨rfl, rfl⟩
      refine ⟨_, _, he, ?_, ht.only⟩
      have hraw : s.readRaw c n (.dev off) ecc cls = .ok (s.devBytes c off n)
          (s.touchRange (clusterOf c) off n cls (mayLine off (List.replicate n true))) := by
        simp [State.readRaw, h2, h3, State.mayBytes, h4, hb, hp, devBytes_touched ht, maskBytes_all _ _ hd]
      simp only [State.load, h1, State.loadNow, hl, hraw, State.throughL1, hk, hu.1, hu.2, hd, h6, Bool.false_eq_true, if_false]
  · cases hr

end Sys2Proof.Machine
end

