-- ==== Sys2Proof/Laws/Letterbox.lean ====
section
/-! SUPPORT. What the completion of a command does, said once: it changes host memory, the function records, the commands in flight, the
counters and the controller's own record, and nothing else; and how the row of a command in flight begins. -/

namespace Sys2Proof.Machine
open Sys2Proof

variable (s : State)

/-- A change of the letterboxes' side of the state alone. -/
structure LetterboxOnly (s t : State) : Prop where
  rest : { t with host := s.host, fns := s.fns, cmds := s.cmds, ctr := s.ctr, mc := s.mc } = s

theorem LetterboxOnly.refl : LetterboxOnly s s := ⟨rfl⟩

theorem LetterboxOnly.trans {s t u : State} (h : LetterboxOnly s t) (g : LetterboxOnly t u) : LetterboxOnly s u := by
  obtain ⟨h⟩ := h
  obtain ⟨g⟩ := g
  refine ⟨?_⟩
  rw [← h, ← g]

theorem modFn_only (f : Nat) (g : Fn → Fn) : LetterboxOnly s (s.modFn f g) := ⟨rfl⟩
theorem modSlot_only (f i : Nat) (g : ResultSlot → ResultSlot) : LetterboxOnly s (s.modSlot f i g) := ⟨rfl⟩
theorem hostWrite_only (a : Nat) (bs : List Byte) : LetterboxOnly s (s.hostWrite a bs) := ⟨rfl⟩
theorem bump_only (fam unit pos n : Nat) : LetterboxOnly s (s.bump fam unit pos n) := ⟨rfl⟩
theorem dropCmd_only (id : Nat) : LetterboxOnly s (s.dropCmd id) := ⟨rfl⟩

theorem message_only (f : Nat) (m : Msix) (comp : Bool) : LetterboxOnly s (s.message f m comp) := by
  unfold State.message
  split
  · exact (bump_only s _ _ _ _).trans (hostWrite_only _ _ _)
  · exact hostWrite_only s _ _

theorem irq_only (f v : Nat) (comp : Bool) : LetterboxOnly s (s.irq f v comp) := by
  unfold State.irq
  dsimp only
  split
  · exact modFn_only s f _
  · exact message_only s f _ comp

theorem signal_only (f : Nat) : LetterboxOnly s (s.signal f) := (modFn_only s f _).trans (irq_only _ f _ true)

theorem writeComp_only (f : Nat) (c : Comp) : LetterboxOnly s (s.writeComp f c) := by
  have h := ((hostWrite_only s ((s.fn f).cqBase.toNat + 32 * (s.fn f).cqTail) (compBytes c (s.fn f).sqHead (s.fn f).cqPhase)).trans
    (modFn_only _ f fun y => { y with
      cqTail := ((s.fn f).cqTail + 1) % (s.fn f).cqN
      cqPhase := if ((s.fn f).cqTail + 1) % (s.fn f).cqN = 0 then !y.cqPhase else y.cqPhase
      unsignalled := y.unsignalled + 1 })).trans (bump_only _ 0x30 f lbCompletions 1)
  unfold State.writeComp
  dsimp only
  split
  · exact h.trans (signal_only _ f)
  · exact h

theorem postComp_only (f : Nat) (c : Comp) : LetterboxOnly s (s.postComp f c) := by
  unfold State.postComp
  split
  · exact writeComp_only s f c
  · exact modFn_only s f _

theorem settle_only (f : Nat) : LetterboxOnly s (s.settle f) := by
  unfold State.settle
  split
  · exact modFn_only s f _
  · exact LetterboxOnly.refl s

theorem deliver_only (c : Cmd) (status : Nat) (result : List Byte) : LetterboxOnly s (s.deliver c status result) := by
  unfold State.deliver
  dsimp only
  split
  · exact LetterboxOnly.refl s
  · split
    · exact modSlot_only s _ _ _
    · split
      · exact LetterboxOnly.refl s
      · split
        · exact hostWrite_only s _ _
        · exact modFn_only s _ _

/-- The completion of a command (R358, R369) leaves everything but the letterboxes' side alone. -/
theorem complete_only (id status : Nat) (detail : W64) (result : List Byte) : LetterboxOnly s (s.complete id status detail result) := by
  unfold State.complete
  split
  · exact LetterboxOnly.refl s
  · rename_i c hc
    split
    · split <;> exact ⟨rfl⟩
    · exact (((deliver_only s c status result).trans (postComp_only _ c.fn _)).trans (dropCmd_only _ id)).trans (settle_only _ c.fn)

theorem LetterboxOnly.pending {s t : State} (h : LetterboxOnly s t) : t.pending = s.pending := by
  have e := congrArg State.pending h.rest
  exact e
theorem LetterboxOnly.wca1608 {s t : State} (h : LetterboxOnly s t) : t.wca1608 = s.wca1608 := by
  have e := congrArg State.wca1608 h.rest
  exact e
theorem LetterboxOnly.cores {s t : State} (h : LetterboxOnly s t) : t.cores = s.cores := by
  have e := congrArg State.cores h.rest
  exact e
theorem LetterboxOnly.bays {s t : State} (h : LetterboxOnly s t) : t.bays = s.bays := by
  have e := congrArg State.bays h.rest
  exact e
theorem LetterboxOnly.mem {s t : State} (h : LetterboxOnly s t) : t.mem = s.mem := by
  have e := congrArg State.mem h.rest
  exact e
theorem LetterboxOnly.chk {s t : State} (h : LetterboxOnly s t) : t.chk = s.chk := by
  have e := congrArg State.chk h.rest
  exact e
theorem LetterboxOnly.ctl {s t : State} (h : LetterboxOnly s t) : t.ctl = s.ctl := by
  have e := congrArg State.ctl h.rest
  exact e
theorem LetterboxOnly.regions {s t : State} (h : LetterboxOnly s t) : t.regions = s.regions := by
  have e := congrArg State.regions h.rest
  exact e
theorem LetterboxOnly.runs {s t : State} (h : LetterboxOnly s t) : t.runs = s.runs := by
  have e := congrArg State.runs h.rest
  exact e
theorem LetterboxOnly.img {s t : State} (h : LetterboxOnly s t) : t.img = s.img := by
  have e := congrArg State.img h.rest
  exact e
theorem LetterboxOnly.groups {s t : State} (h : LetterboxOnly s t) : t.groups = s.groups := by
  have e := congrArg State.groups h.rest
  exact e
theorem LetterboxOnly.parts {s t : State} (h : LetterboxOnly s t) : t.parts = s.parts := by
  have e := congrArg State.parts h.rest
  exact e
theorem LetterboxOnly.nbs {s t : State} (h : LetterboxOnly s t) : t.nbs = s.nbs := by
  have e := congrArg State.nbs h.rest
  exact e
theorem LetterboxOnly.power {s t : State} (h : LetterboxOnly s t) : t.power = s.power := by
  have e := congrArg State.power h.rest
  exact e
theorem LetterboxOnly.therm {s t : State} (h : LetterboxOnly s t) : t.therm = s.therm := by
  have e := congrArg State.therm h.rest
  exact e
theorem LetterboxOnly.sec {s t : State} (h : LetterboxOnly s t) : t.sec = s.sec := by
  have e := congrArg State.sec h.rest
  exact e
theorem LetterboxOnly.pcie {s t : State} (h : LetterboxOnly s t) : t.pcie = s.pcie := by
  have e := congrArg State.pcie h.rest
  exact e
theorem LetterboxOnly.pair {s t : State} (h : LetterboxOnly s t) : t.pair = s.pair := by
  have e := congrArg State.pair h.rest
  exact e

section Fields
variable (id status : Nat) (detail : W64) (result : List Byte)

@[simp] theorem complete_pending : (s.complete id status detail result).pending = s.pending := (complete_only s id status detail result).pending
@[simp] theorem complete_wca1608 : (s.complete id status detail result).wca1608 = s.wca1608 := (complete_only s id status detail result).wca1608
@[simp] theorem complete_cores : (s.complete id status detail result).cores = s.cores := (complete_only s id status detail result).cores
@[simp] theorem complete_bays : (s.complete id status detail result).bays = s.bays := (complete_only s id status detail result).bays
@[simp] theorem complete_mem : (s.complete id status detail result).mem = s.mem := (complete_only s id status detail result).mem
@[simp] theorem complete_chk : (s.complete id status detail result).chk = s.chk := (complete_only s id status detail result).chk
@[simp] theorem complete_ctl : (s.complete id status detail result).ctl = s.ctl := (complete_only s id status detail result).ctl
@[simp] theorem complete_regions : (s.complete id status detail result).regions = s.regions := (complete_only s id status detail result).regions
@[simp] theorem complete_runs : (s.complete id status detail result).runs = s.runs := (complete_only s id status detail result).runs
@[simp] theorem complete_img : (s.complete id status detail result).img = s.img := (complete_only s id status detail result).img
@[simp] theorem complete_groups : (s.complete id status detail result).groups = s.groups := (complete_only s id status detail result).groups
@[simp] theorem complete_parts : (s.complete id status detail result).parts = s.parts := (complete_only s id status detail result).parts
@[simp] theorem complete_nbs : (s.complete id status detail result).nbs = s.nbs := (complete_only s id status detail result).nbs
@[simp] theorem complete_power : (s.complete id status detail result).power = s.power := (complete_only s id status detail result).power
@[simp] theorem complete_therm : (s.complete id status detail result).therm = s.therm := (complete_only s id status detail result).therm
@[simp] theorem complete_sec : (s.complete id status detail result).sec = s.sec := (complete_only s id status detail result).sec
@[simp] theorem complete_pcie : (s.complete id status detail result).pcie = s.pcie := (complete_only s id status detail result).pcie
@[simp] theorem complete_pair : (s.complete id status detail result).pair = s.pair := (complete_only s id status detail result).pair

end Fields

/-! ### The row of a command in flight -/

/-- The identifier of a command in flight is the one it was looked up by. -/
theorem cmdFor_some {s : State} {id op : Nat} {c : Cmd} (h : s.cmdFor id op = some c) :
    s.cmd id = some c ∧ c.opcode = op ∧ s.mayBegin c = true ∧ c.id = id := by
  unfold State.cmdFor at h
  split at h
  · rename_i x hx
    split at h
    · rename_i ho
      obtain rfl := Option.some.inj h
      exact ⟨hx, ho.1, ho.2, by simpa using List.find?_some hx⟩
    · cases h
  · cases h

/-- The row of a command in flight is its effect. -/
theorem onCmd_some {s : State} {id op : Nat} {c : Cmd} (h : s.cmdFor id op = some c) (eff : Cmd → State) : onCmd id op s eff = .next (eff c) := by
  simp [onCmd, h]

/-- The row of a command that is not in flight does nothing. -/
theorem onCmd_none {s : State} {id op : Nat} (h : s.cmdFor id op = none) (eff : Cmd → State) : onCmd id op s eff = .next s := by
  simp [onCmd, h]

/-- An entry without a bad field has its effect. -/
theorem checked_nil (c : Cmd) (eff : State) : s.checked c [] eff = eff := rfl

/-- A completed command is in flight no more. -/
theorem dropCmd_cmd (id : Nat) : (s.dropCmd id).cmd id = none := by
  simp [State.dropCmd, State.cmd]

end Sys2Proof.Machine
end

