-- ==== Sys2Proof/Laws/Memory.lean ====
section
/-! SUPPORT. The operations that change device memory, each said once: what it leaves alone, and that it keeps the canonical form. -/

namespace Sys2Proof.Machine
open Sys2Proof

variable (s : State)

/-- Both memories are canonical. -/
def Canon (s : State) : Prop := memWf s.mem = true ∧ memWf s.host = true

theorem Canon.of_eq {s t : State} (h : Canon s) (hm : t.mem = s.mem) (hh : t.host = s.host) : Canon t := ⟨hm ▸ h.1, hh ▸ h.2⟩

/-- A fold of steps that keep the canonical form keeps it. -/
theorem Canon.foldl {α : Type} (f : State → α → State) (hf : ∀ t a, Canon t → Canon (f t a)) (l : List α) {s : State} (h : Canon s) :
    Canon (l.foldl f s) := by
  induction l generalizing s with
  | nil => exact h
  | cons a r ih => exact ih (hf s a h)

theorem Canon.reset : Canon State.reset := ⟨rfl, rfl⟩

/-! ### Stores and clears -/

theorem Canon.memWrite {s : State} (h : Canon s) (off : Nat) (bs : List Byte) : Canon (s.memWrite off bs) := ⟨memWf_wrBytes h.1 off bs, h.2⟩

theorem Canon.hostWrite {s : State} (h : Canon s) (a : Nat) (bs : List Byte) : Canon (s.hostWrite a bs) := ⟨h.1, memWf_wrBytes h.2 a bs⟩

theorem Canon.zeroRange {s : State} (h : Canon s) (off n : Nat) : Canon (s.zeroRange off n) := ⟨memWf_clrBytes h.1 off n, h.2⟩

/-- A store of device memory reads back. -/
theorem State.memRead_memWrite (off : Nat) (bs : List Byte) : (s.memWrite off bs).memRead off bs.length = bs := rdBytes_wrBytes s.mem off bs

/-- A byte after a store of device memory. -/
theorem State.memWrite_get (off : Nat) (bs : List Byte) (a : Nat) :
    nget 0 (s.memWrite off bs).mem a = if off ≤ a ∧ a < off + bs.length then bs.getD (a - off) 0 else nget 0 s.mem a :=
  nget_wrBytes s.mem off bs a

/-! ### Lines -/

theorem State.sill_mem (bay pos n : Nat) : (s.sill bay pos n).mem = s.mem := rfl
theorem State.sill_host (bay pos n : Nat) : (s.sill bay pos n).host = s.host := rfl

@[simp] theorem State.unmark_mem (bay : Nat) (l : Line) : (s.unmark bay l).mem = s.mem := by unfold State.unmark; split <;> rfl
@[simp] theorem State.unmark_host (bay : Nat) (l : Line) : (s.unmark bay l).host = s.host := by unfold State.unmark; split <;> rfl

theorem Canon.unmark {s : State} (h : Canon s) (bay : Nat) (l : Line) : Canon (s.unmark bay l) := h.of_eq (by simp) (by simp)

/-! ### The HBM controller's sectors -/

theorem Canon.hbmPut {s : State} (h : Canon s) (off : Nat) (v : Byte) : Canon (s.hbmPut off v) := by
  unfold State.hbmPut
  dsimp only
  split
  · split
    · exact h.of_eq rfl rfl
    · exact h.memWrite off [v]
  · exact h.memWrite off [v]

theorem Canon.hbmFlip {s : State} (h : Canon s) (off : Nat) (x : Byte) : Canon (s.hbmFlip off x) := by
  unfold State.hbmFlip
  split
  · exact h
  · exact h.hbmPut off _

theorem Canon.hbmCount {s : State} (h : Canon s) (off pos n : Nat) : Canon (s.hbmCount off pos n) := ⟨h.1, h.2⟩
theorem Canon.setChk {s : State} (h : Canon s) (off : Nat) (v : W32) : Canon (s.setChk off v) := ⟨h.1, h.2⟩

theorem Canon.drew {s : State} (h : Canon s) : Canon s.drew := ⟨h.1, h.2⟩
theorem Canon.logEv {s : State} (h : Canon s) (kind num : Nat) : Canon (s.logEv kind num) := ⟨h.1, h.2⟩

theorem Canon.sectorRead {s : State} (h : Canon s) (off : Nat) : Canon (s.sectorRead off).1 := by
  have h1 := h.hbmCount off 0 1
  unfold State.sectorRead
  dsimp only
  split
  · exact h1
  · split
    · exact h1
    · refine ((Canon.setChk ?_ _ _).hbmCount _ _ _).hbmCount _ _ _
      split
      · exact h1.hbmFlip _ _
      · exact h1
    · exact h1.hbmCount _ _ _
    · exact (h1.hbmCount _ _ _).drew.logEv _ _

theorem Canon.sectorPut {s : State} (h : Canon s) (off n : Nat) (poison : Bool) : Canon (s.sectorPut off n poison) := by
  unfold State.sectorPut
  dsimp only
  split
  · split
    · exact ((h.hbmCount _ _ _).setChk _ _).hbmCount _ _ _
    · exact (h.hbmCount _ _ _).setChk _ _
  · have h1 := ((h.sectorRead off).hbmCount off 2 1).hbmCount off 1 1
    split
    · exact ((h1.setChk _ _).hbmCount _ _ _).logEv _ _
    · split
      · exact (h1.setChk _ _).hbmCount _ _ _
      · exact h1

theorem Canon.hbmWrite {s : State} (h : Canon s) (off : Nat) (bs : List Byte) : Canon (s.hbmWrite off bs) :=
  (Canon.foldl _ (fun _ _ ht => ht.sectorPut _ _ _) _ h).memWrite _ _

/-! ### Lines written back and dropped -/

theorem Canon.writeBack {s : State} (h : Canon s) (bay : Nat) (l : Line) : Canon (s.writeBack bay l) := by
  unfold State.writeBack
  split
  · exact h
  · exact (Canon.foldl _ (fun _ _ ht => ht.sectorPut _ _ _) _ h).of_eq rfl rfl

theorem Canon.flushLine {s : State} (h : Canon s) (bay : Nat) (l : Line) : Canon (s.flushLine bay l) :=
  ((h.writeBack bay l).unmark bay l).of_eq rfl rfl

theorem Canon.dropLine {s : State} (h : Canon s) (bay : Nat) (l : Line) : Canon (s.dropLine bay l) := by
  unfold State.dropLine
  dsimp only
  split
  · exact ⟨memWf_foldl_nset (by simpa using h.1) l.stale, by simpa using h.2⟩
  · exact h.of_eq (by simp) (by simp)

theorem Canon.invalRange {s : State} (h : Canon s) (off n : Nat) (drop : Bool) : Canon (s.invalRange off n drop) := by
  refine Canon.foldl _ (fun t e ht => Canon.foldl _ (fun u l hu => ?_) e.2.lines ht) s.bays h
  split
  · split
    · exact hu.dropLine e.1 l
    · exact hu.flushLine e.1 l
  · exact hu

theorem Canon.cleanRange {s : State} (h : Canon s) (off n : Nat) : Canon (s.cleanRange off n) := by
  refine Canon.foldl _ (fun t e ht => Canon.foldl _ (fun u l hu => ?_) e.2.lines ht) s.bays h
  split
  · exact hu.writeBack e.1 l
  · exact hu

/-! ### Ranges put and moved -/

theorem Canon.hbmPutRange {s : State} (h : Canon s) (off : Nat) (bs : List Byte) : Canon (s.hbmPutRange off bs) :=
  (h.invalRange off bs.length false).hbmWrite off bs


theorem memWf_moveMap {m : NMap Byte} (h : memWf m = true) (ms : List Forward) : memWf (moveMap 0 ms 1 m) = true := by
  have go : ∀ (l : NMap Byte) (acc : NMap Byte), memWf acc = true →
      memWf (l.foldl (fun (acc : NMap Byte) (e : Nat × Byte) => nset 0 acc (movedTo ms (1 * e.1) / 1) e.2) acc) = true := by
    intro l
    induction l with
    | nil => exact fun _ ha => ha
    | cons e r ih => exact fun acc ha => ih _ (memWf_nset ha _ e.2)
  exact go _ _ (memWf_filter h _)

theorem Canon.moveRanges {s : State} (h : Canon s) (ms : List Forward) : Canon (s.moveRanges ms) := by
  have h1 : Canon (ms.foldl (fun (st : State) (m : Forward) => (st.invalRange m.old m.len false).unpinRange m.old m.len) s) :=
    Canon.foldl _ (fun t m ht => (ht.invalRange m.old m.len false).of_eq rfl rfl) ms h
  exact ⟨memWf_moveMap h1.1 ms, h1.2⟩

end Sys2Proof.Machine
end

