-- ==== Sys2Proof/Tests/Slice0.lean ====
section
/-! SUPPORT. Tests: results worked out from the spec, one step on a small state each; a command of a missing unit for each check of
Instr.wf; and for the hypotheses of each statement a state that meets them together. -/

namespace Sys2Proof.Tests
open Sys2Proof Sys2Proof.Machine

set_option Elab.async false

/-! ### Helpers -/

def out (o : Out) : State :=
  match o with
  | .next t => t
  | _ => State.reset

def A (d a b : BitVec 6) : FormA :=
  { pred := 0, pneg := false, dst := d, src1 := a, src2 := b, src3 := 0, func := 0, type := 0, mod := 0 }

def B (d a : BitVec 6) (fu : BitVec 8) (imm : BitVec 32) : FormB :=
  { pred := 0, pneg := false, dst := d, src1 := a, func := fu, imm := imm }

def C (d : BitVec 6) (imm : BitVec 46) : FormC := { pred := 0, pneg := false, dst := d, imm := imm }

/-- A core inside a launch. -/
def k0 : Core := { vcore := 1, running := true, shutterOpen := true, progLen := 64, run := 1 }

/-- The module in service with core 0 as given. -/
def on (k : Core) : State := { State.reset with cores := [(0, k)] }

def readyB (s : State) (c : Nat) (p : BitVec 3) (n : Bool) : Bool :=
  Unit.core c && s.issues (s.core c) && decide ((s.core c).pc < (s.core c).progLen) && !s.wordPoison ((s.core c).codeBase + (s.core c).pc) &&
    !s.reservedAt ((s.core c).codeBase + (s.core c).pc) && !(s.core c).pPending.contains p.toNat && (s.core c).preg p.toNat != n

theorem ready {s : State} {c : Nat} {p : BitVec 3} {n : Bool} (h : readyB s c p n = true) : ScalarReady s c p n := by
  simp only [readyB, Bool.and_eq_true, decide_eq_true_eq, Bool.not_eq_true', bne_iff_ne] at h
  exact ⟨h.1.1.1.1.1.1, h.1.1.1.1.1.2, h.1.1.1.1.2, h.1.1.1.2, h.1.1.2, by simpa using h.1.2, h.2⟩

/-- A core with a group of threads 0 and 1 in slot 0. -/
def kg : Core :=
  { k0 with groups := [(0, { used := true, threads := [(0, { mode := .runnable, t := [(1, 8), (2, 3)] }), (1, { mode := .runnable })] })] }

def threadB (s : State) (c i : Nat) : Bool :=
  Unit.core c && Unit.slot i && s.issues (s.core c) && !(s.grp c i).active.isEmpty &&
    decide ((s.grp c i).lowPc < (s.core c).progLen) && !s.wordPoison ((s.core c).codeBase + (s.grp c i).lowPc) &&
    !s.reservedAt ((s.core c).codeBase + (s.grp c i).lowPc)

theorem threads {s : State} {c i : Nat} (h : threadB s c i = true) : ThreadReady s c i := by
  simp only [threadB, Bool.and_eq_true, decide_eq_true_eq, Bool.not_eq_true'] at h
  refine ⟨h.1.1.1.1.1.1, h.1.1.1.1.1.2, h.1.1.1.1.2, ?_, h.1.1.2, h.1.2, h.2⟩
  intro hn
  simp [hn] at h

/-- The module in service: stage 6, every partition OPEN, rails up, and a READY region of function 0: 1 MiB at 16 MiB. -/
def sv : State :=
  { State.reset with
    ctl := [(offBringup, 6), (offPwr 0, 0), (offPwr 1, 0), (offPwr 2, 0), (offPwr 3, 0), (offPwr 4, 0), (offPwr 5, 0),
            (offPwr 6, 0), (offPwr 7, 0)]
    regions := [(0, { attr := 0xE200000000000010, base := 0x1000000 })]
    power := { State.reset.power with vmain := true, mainPg := true, rails := true, mainEn := true, epReady := true, perst := false }
    pcie := { State.reset.pcie with l0 := true }
    fns := [(0, { enabled := true, bme := true })] }

def svOn (k : Core) : State := { sv with cores := [(0, k)] }

/-- What the default and every entry of a map meet, every key meets. -/
theorem nget_meets {α : Type} {P : α → Prop} {d : α} (h0 : P d) : ∀ {m : NMap α}, (∀ e ∈ m, P e.2) → ∀ n, P (nget d m n)
  | [], _, _ => h0
  | e :: r, h, n => by
    unfold nget
    split
    · exact h e (by simp)
    · exact nget_meets h0 (fun x hx => h x (by simp [hx])) n

/-- Without a difference of check bytes no read corrects anything. -/
theorem quiet {s : State} (h : s.chk = []) : s.noLatent := by
  intro off sym v
  have e : s.sectorChk off = 0 := by simp [State.sectorChk, h, nget]
  rw [e]
  rw [show rsDecode (chkErrors 0) = .clean by decide +kernel]
  exact nofun

theorem in_list {l : List Nat} {n : Nat} (h : l.contains n = true) : n ∈ l := by simpa using h

/-! ### Scalar and thread integers -/

theorem test_word_addi : coreInstr (.core 0) 0x0D014300FFFFFFC0 = some (.addi (.core 0) (B 5 3 0 0xFFFFFFC0)) := by decide

theorem test_word_mma : coreInstr (.core 0) 0x60004414680093E4 =
    some (.mma (.core 0) { A 1 4 5 with src3 := 6, func := 0x80, mod := 0x93E4 }) := by decide

theorem test_word_launch : coreInstr (.core 0) 0x7000072000000211 = some (.tgLaunch (.core 0) { A 0 7 8 with mod := 0x211 }) := by
  decide

theorem test_word_reserved : coreInstr (.core 0) 0x1400000000000000 = none := by decide

theorem test_add_wraps : ((out (exec (.add (.core 0) (A 5 3 4)) (on { k0 with s := [(3, 0xFFFFFFFFFFFFFFFF), (4, 2)] }))).core 0).sreg 5 = 1 := by
  decide

theorem test_mulhu : ((out (exec (.mulhu (.core 0) (A 5 3 4)) (on { k0 with s := [(3, 0xFFFFFFFFFFFFFFFF), (4, 2)] }))).core 0).sreg 5 = 1 := by
  decide

theorem test_sar_uses_six_bits :
    ((out (exec (.sar (.core 0) (A 5 3 4)) (on { k0 with s := [(3, 0x8000000000000000), (4, 65)] }))).core 0).sreg 5 = 0xC000000000000000 := by
  decide

theorem test_addi_negative :
    ((out (exec (.addi (.core 0) (B 5 3 0 0xFFFFFFC0)) (on { k0 with s := [(3, 0x40)] }))).core 0).sreg 5 = 0 := by
  decide

theorem test_s0_keeps_zero : ((out (exec (.li (.core 0) (C 0 7)) (on k0))).core 0).sreg 0 = 0 := by decide

theorem test_thread_sub :
    ((out (exec (.sub (.group 0 0) (A 5 2 1)) (on kg))).grp 0 0).th 0 =
      { mode := .runnable, pc := 8, t := [(1, 8), (2, 3), (5, 0xFFFFFFFB)], cache := [5] } := by
  decide

theorem test_hyp_ScalarIntegerResults :
    (∃ op, aluOf (.add (.core 0) (A 0 3 4)) = some (.core 0, A 0 3 4, op)) ∧ legal3 (.core 0) (A 0 3 4) = true ∧
    ScalarReady (on k0) 0 0 false := ⟨⟨_, rfl⟩, by decide, ready (by decide)⟩

theorem test_hyp_ThreadIntegerResults :
    (∃ op, aluOf (.sub (.group 0 0) (A 63 2 1)) = some (.group 0 0, A 63 2 1, op)) ∧ legal3 (.group 0 0) (A 63 2 1) = true ∧
    ThreadReady (on kg) 0 0 := ⟨⟨_, rfl⟩, by decide, threads (by decide)⟩

theorem test_hyp_ScalarImmediatesAndCompare :
    ScalarReady (on k0) 0 (A 0 0 0).pred (A 0 0 0).pneg ∧ (B 31 31 0 0).func = 0 ∧ (B 31 31 0 0).dst.toNat < 32 ∧
    (C 31 0).dst.toNat < 32 ∧
    (∀ fu ∈ [0x00, 0x01, 0x02, 0x03, 0x04, 0x05, 0x10, 0x11, 0x12], cmpLegal (.core 0) { A 7 1 2 with func := fu } = true) ∧
    cmpLegal (.core 0) { A 7 1 0 with func := 0x13 } = true ∧
    (∀ n, n ∉ ((on k0).core 0).pPending) := by
  refine ⟨ready (by decide), by decide, by decide, by decide, by decide, by decide, ?_⟩
  have h : ((on k0).core 0).pPending = [] := by decide
  simp [h]

theorem test_hyp_ControlTransfers :
    (C 0 0x3FFFFFFFFFFF).dst = 0 ∧ ScalarReady (on k0) 0 0 false ∧ ThreadReady (on kg) 0 0 ∧
    usesA (A 0 31 0) false true false false false false false = true ∧
    (((on { k0 with s := [(31, 16)] }).core 0).sreg 31).toNat % 8 = 0 ∧ ScalarReady (on { k0 with s := [(31, 16)] }) 0 0 false ∧
    (((on { k0 with s := [(31, 4)] }).core 0).sreg 31).toNat % 8 ≠ 0 ∧ ScalarReady (on { k0 with s := [(31, 4)] }) 0 0 false ∧
    (∀ l, ((on kg).grp 0 0).takes 0 false l = true → ((((on kg).grp 0 0).th l).reg 1).toNat % 8 = 0) := by
  refine ⟨by decide, ready (by decide), threads (by decide), by decide, by decide, ready (by decide), by decide, ready (by decide), ?_⟩
  intro l h
  have : l ∈ ((on kg).grp 0 0).active := by
    simp only [Group.takes, Bool.and_eq_true, List.contains_iff_mem] at h
    exact h.1
  have : l ∈ [0, 1] := by
    have e : ((on kg).grp 0 0).active = [0, 1] := by decide
    rwa [e] at this
  rcases List.mem_cons.1 this with rfl | h2
  · decide
  · rcases List.mem_singleton.1 h2; decide

theorem test_csr_wdog_reset : ((out (exec (.csrR (.core 0) (B 5 0 0 0x011)) (on { k0 with csr := [(0x011, 98304)] }))).core 0).sreg 5 = 98304 := by
  decide

theorem test_hyp_ControlAndStatusRegisters :
    ScalarReady (on k0) 0 0 false ∧ (B 5 0 0 0xFFF).imm.toNat < 4096 ∧ csrListed 0x000 = true ∧ csrListed 0x013 = true ∧
    csrListed 0x030 = true ∧ csrListed 0x038 = true ∧ csrListed 0x009 = true ∧
    ((0x777 : W64) &&& 0xFFFFFFFFFFFFF888 = 0) ∧ ((0x3C35 : W64) &&& 0x7FFF0000FFFF0000 = 0) ∧
    ((on k0).core 0).csrReg 0x020 ||| ((on { k0 with s := [(1, 0xFFFF)] }).core 0).sreg 1 = 0xFFFF := ⟨ready (by decide), by decide⟩

theorem test_hyp_FencesAndDone :
    ScalarReady (on k0) 0 0 false ∧ usesA (A 0 0 0) false false false false true false false = true ∧
    usesA { A 0 0 0 with func := 1 } false false false false true false false = true ∧ (on k0).storesDone 0 = true ∧
    ((on k0).core 0).mq = [] ∧ ((on k0).core 0).tgq = [] ∧ ((on k0).core 0).sq = [] ∧ (on k0).unitsIdle 0 = true ∧ ((on k0).core 0).epoch = 0 ∧
    (∀ r, (on k0).run (((on k0).core 0).run - 1) = some r → r.spec = false) := by
  refine ⟨ready (by decide), by decide, by decide, by decide, by decide, by decide, by decide, by decide, by decide, ?_⟩
  intro r h
  simp [on, State.run, State.reset] at h

theorem test_done_ends : (((out (exec (.done (.core 0) (A 0 0 0)) (on k0))).core 0).running, ((out (exec (.done (.core 0) (A 0 0 0)) (on k0))).core 0).done) =
    (false, true) := by decide

/-- Own scratchpad space at an offset. -/
def sp (o : Nat) : W64 := BitVec.ofNat 64 (2 ^ 60 + o)

def kspad : Core := { k0 with csr := [(0x011, 98304)], spad := [(16, 0x80), (17, 0xFF)], s := [(3, sp 16), (4, sp 98304), (6, 0x1234), (7, sp 17)] }

theorem test_ld_sign : ((out (exec (.ld (.core 0) (B 5 3 5 0)) (on kspad))).core 0).sreg 5 = 0xFFFFFFFFFFFFFF80 := by decide

theorem test_st_bytes : rdBytes ((out (exec (.st (.core 0) (B 6 3 1 0)) (on kspad))).core 0).spad 16 3 = [0x34, 0x12, 0] := by decide

theorem test_hyp_ScalarLoads :
    ScalarReady (on kspad) 0 0 false ∧ (on kspad).resolve 0 (2 ^ 60 + 98304) 2 true = none ∧
    (on kspad).resolve 0 (2 ^ 60 + 17) 2 true ≠ none ∧ (2 ^ 60 + 17) % 2 ≠ 0 ∧
    (on kspad).resolve 0 (2 ^ 60 + 16) 2 true = some (.spad 0 16) ∧ (2 ^ 60 + 16) % 2 = 0 ∧
    (∃ bs s2, (on kspad).load 0 (2 ^ 60 + 16) 2 (.spad 0 16) 0x08 (fld (((on kspad).core 0).csrReg 0x018) 0 3) = .ok bs s2) :=
  ⟨ready (by decide), by decide, by decide, by decide, by decide, by decide, ⟨_, _, rfl⟩⟩

/-- A core whose first-level cache holds line 0 of its own region. -/
def kl1 : Core := { k0 with csr := [(0x010, 1)], l1 := [{ space := 2, line := 0, data := [(0, 7)] }] }

theorem test_load_hits :
    (match (on kl1).load 0 (2 * 2 ^ 60) 2 (.own 0 0) 0x08 0 with
     | .ok bs _ => bs
     | _ => []) = [7, 0] := by decide +kernel

theorem test_hyp_LoadAnswers :
    (on kl1).mustWait 0 (.own 0 0) 2 false = false ∧ (on kl1).l1Holds 0 (2 * 2 ^ 60) 2 (.own 0 0) = true ∧
    (on kspad).mustWait 0 (.spad 0 16) 2 false = false ∧ (on kspad).localBad 1 0 16 2 = false ∧
    (on { kspad with spadBad := [2] }).localBad 1 0 16 2 = true ∧ (on { kspad with spadBad := [2] }).mustWait 0 (.spad 0 16) 2 false = false ∧
    (on k0).mustWait 0 (.own 1 0) 2 false = false ∧ (on k0).localBad 2 1 0 2 = false ∧
    (on k0).mustWait 0 (.dev 0x1000000) 8 false = false ∧ (on k0).l1Holds 0 0x1000000 8 (.dev 0x1000000) = false ∧
    ({ on k0 with parts := [(0, { door := .absorbing })] } : State).mustWait 0 (.dev 0) 8 false = false ∧
    (({ on k0 with parts := [(0, { door := .absorbing })] } : State).part 0).door ≠ .open_ ∧
    (on k0).doorAt 0x1000000 = false ∧ (on k0).asleep 0 = true ∧
    (svOn { k0 with run := 1 }).asleep 0 = false ∧ (svOn k0).calm = true ∧ l1Sets ((svOn k0).core 0) = 0 ∧
    (svOn k0).doorAt 0x1000000 = false ∧ (svOn k0).mustWait 0 (.dev 0x1000000) 8 false = false ∧
    (svOn k0).devMay ((svOn k0).core 0) 0x1000000 8 false = true := by decide +kernel
/-! ### Memory, descriptors, messages -/

theorem test_hyp_ScalarStores :
    ScalarReady (on kspad) 0 0 false ∧ (on kspad).resolve 0 (2 ^ 60 + 98303) 1 true = some (.spad 0 98303) ∧
    (on kspad).mustWait 0 (.spad 0 98303) 1 true = false ∧ ((on kspad).core 0).epoch = 0 ∧
    ScalarReady (svOn k0) 0 0 false ∧ (svOn k0).resolve 0 0x10FFFF8 8 true = some (.dev 0x10FFFF8) ∧
    (svOn k0).mustWait 0 (.dev 0x10FFFF8) 8 true = false ∧ (svOn k0).doorAt 0x10FFFF8 = false ∧
    (svOn k0).asleep (partOfOff 0x10FFFF8) = false ∧ (svOn k0).devMay ((svOn k0).core 0) 0x10FFFF8 8 true = true ∧
    0x10FFFF8 % 8 = 0 := by
  refine ⟨ready (by decide), by decide, by decide, by decide, ready (by decide), by decide, by decide, by decide, by decide, by decide, by decide⟩

def d0 : Desc := { base := 0x1000000, bytes := 65536, tensor := 0x200, format := 7, kind := 1, location := 0, flags := 1, tableSet := 0xFFFF }

theorem test_td_word_2 :
    ((out (exec (.tdLd (.core 0) (B 5 0 0 0x200)) (on { k0 with td := [d0] }))).core 0).sreg 5 = 0x0000020007010001 := by decide

theorem test_hyp_TensorDescriptors :
    ScalarReady (on { k0 with td := [d0] }) 0 0 false ∧ ((on { k0 with td := [d0] }).core 0).td[(B 5 0 0 0x300).imm.toNat % 256]? = some d0 ∧
    ((on { k0 with td := [d0] }).core 0).td.length ≤ (B 5 0 0 0x301).imm.toNat % 256 := ⟨ready (by decide), by decide, by decide⟩

/-! ### Thread code -/

theorem takes_kg {l : Nat} (h : ((on kg).grp 0 0).takes 0 false l = true) : l = 0 ∨ l = 1 := by
  have h1 : l ∈ ((on kg).grp 0 0).active := by
    simp only [Group.takes, Bool.and_eq_true, List.contains_iff_mem] at h
    exact h.1
  have e : ((on kg).grp 0 0).active = [0, 1] := by decide
  rw [e] at h1
  simpa using h1

theorem test_hyp_ThreadImmediatesAndCompare :
    ThreadReady (on kg) 0 0 ∧ usesA (A 0 0 0) false false false false false false false = true ∧ (B 63 62 0 0).func = 0 ∧
    cmpLegal (.group 0 0) { A 7 63 62 with func := 0x05 } = true ∧ cmpLegal (.group 0 0) { A 7 1 2 with func := 0x12 } = true ∧
    cmpLegal (.group 0 0) { A 7 1 0 with func := 0x13 } = true := ⟨threads (by decide), by decide, by decide, by decide, by decide, by decide⟩

theorem test_hyp_ThreadReadsAndFences :
    ThreadReady (on { kg with td := [d0] }) 0 0 ∧ (B 62 0 0 0x038).dst.toNat % 2 = 0 ∧ csrListed (B 62 0 0 0x038).imm.toNat = true ∧
    ((on { kg with td := [d0] }).core 0).td[(B 62 0 0 0x300).imm.toNat % 256]? = some d0 ∧
    usesA { A 0 0 0 with func := 2 } false false false false true false false = true ∧
    (on { kg with td := [d0] }).storesDone 0 = true := ⟨threads (by decide), by decide, by decide, by decide, by decide, by decide⟩

/-- A group whose threads 0 and 1 hold the scratchpad addresses 16 and 18 in t[3]:t[2]. -/
def kga : Core :=
  { kspad with groups := [(0, { used := true, threads := [(0, { mode := .runnable, t := [(2, 16), (3, 0x10000000), (4, 0x1234)] }),
    (1, { mode := .runnable, t := [(2, 18), (3, 0x10000000), (4, 0x5678)] })] })] }

theorem test_thread_stores_in_lane_order :
    rdBytes ((out (exec (.st (.group 0 0) (B 4 2 1 0)) (on kga))).core 0).spad 16 4 = [0x34, 0x12, 0x78, 0x56] := by decide

theorem test_hyp_ThreadLoadsAndStores :
    ThreadReady (on kga) 0 0 ∧ ∀ l, ((on kga).grp 0 0).takes 0 false l = true →
      ((((on kga).grp 0 0).th l).pair 2 + (0 : BitVec 32).signExtend 64).toNat % 2 = 0 ∧
      ((on kga).plainRead 0 ((((on kga).grp 0 0).th l).pair 2 + (0 : BitVec 32).signExtend 64).toNat 2 true).isSome = true ∧
      ((on kga).plainWrite 0 ((((on kga).grp 0 0).th l).pair 2 + (0 : BitVec 32).signExtend 64).toNat 2 true).isSome = true := by
  refine ⟨threads (by decide), ?_⟩
  intro l h
  have h1 : l ∈ ((on kga).grp 0 0).active := by
    simp only [Group.takes, Bool.and_eq_true, List.contains_iff_mem] at h
    exact h.1
  have e : ((on kga).grp 0 0).active = [0, 1] := by decide
  rw [e] at h1
  have h2 : l = 0 ∨ l = 1 := by simpa using h1
  rcases h2 with rfl | rfl <;> decide

/-! ### Messages -/

def m0 : Msg := { srcVcore := 0, srcModule := 0, dstVcore := 0, dstModule := 0, tag := 7, payload := List.replicate 16 0xAB }

def ksend : Core := { kspad with s := [(1, 0xFFF0000), (2, 98288), (3, 16), (4, 17)] }

theorem test_hyp_MessageSend :
    ScalarReady (on ksend) 0 0 false ∧ usesA { A 0 1 2 with src3 := 3 } false true true true false false true = true ∧
    (((on ksend).core 0).sreg 4).toNat % 16 ≠ 0 ∧
    0xFFF0000 / 2 ^ 28 = 0 ∧ 0xFFF0000 / 2 ^ 15 % 2 = 0 ∧ 98288 % 16 = 0 ∧ 98288 + 16 ≤ ((on ksend).core 0).spadSize ∧
    (on ksend).mustWait 0 (.spad 0 98288) 16 false = false ∧ ((on ksend).core 0).send.length < 4 ∧
    4 ≤ ((on { ksend with send := [m0, m0, m0, m0] }).core 0).send.length ∧ ScalarReady (on { ksend with send := [m0, m0, m0, m0] }) 0 0 false := by
  refine ⟨ready (by decide), by decide, by decide, by decide, by decide, by decide, by decide, by decide, by decide, by decide, ready (by decide)⟩

def krecv : Core := { kspad with s := [(1, 98272)], rxq := [m0] }

theorem test_hyp_MessageReceive :
    ScalarReady (on krecv) 0 0 false ∧ ((on krecv).core 0).lost = false ∧ usesA (A 5 1 0) true true false false false false false = true ∧
    98272 % 16 = 0 ∧ 98272 + 16 + m0.payload.length ≤ ((on krecv).core 0).spadSize ∧ m0.bad = false ∧ ((on krecv).core 0).epoch = 0 ∧
    (on krecv).mustWait 0 (.spad 0 98272) (16 + m0.payload.length) true = false ∧
    usesA (A 7 0 0) true false false false false false false = true ∧ (A 7 0 0).dst.toNat ∉ ((on krecv).core 0).pPending ∧
    ((on krecv).core 0).rxq = [m0] ∧ ((on krecv).core 0).overflow = [] ∧ ((on { krecv with overflow := [m0] }).core 0).overflow = [m0] ∧
    ((on { krecv with overflow := [m0] }).core 0).spill = [] := by
  refine ⟨ready (by decide), by decide, by decide, by decide, by decide, by decide, by decide, by decide, by decide, by decide, by decide,
    by decide, by decide, by decide⟩

theorem test_recv_header : ((out (exec (.msgRecv (.core 0) (A 5 1 0)) (on krecv))).core 0).sreg 5 = 0x0007001000000000 := by decide

theorem test_hyp_MessageTransport :
    (((on { k0 with send := [m0] }).core 0).send = [m0] ∧ (on { k0 with send := [m0] }).storesDone 0 = true ∧
      (on { k0 with send := [m0] }).releasing ((on { k0 with send := [m0] }).core 0) = false ∧
      ((on { k0 with send := [m0] }).part (partOf 0)).door = .open_ ∧ m0.dstModule = (on { k0 with send := [m0] }).moduleId) ∧
    ({ svOn k0 with net := [m0] }.net[0]? = some m0 ∧ { svOn k0 with net := [m0] }.epState m0.prov ≠ .aborting ∧
      { svOn k0 with net := [m0], img := { State.reset.img with place := [(0, 1)] } }.placed m0.dstVcore = some 0 ∧
      ((svOn k0).part (partOf 0)).hold = [] ∧ (svOn k0).asleep (partOf 0) = false ∧ ((svOn k0).core 0).rxq.length < 16 ∧ ((svOn k0).core 0).overflow = [] ∧
      ((svOn k0).core 0).spill = []) ∧
    (16 ≤ ((svOn { k0 with rxq := List.replicate 16 m0 }).core 0).rxq.length ∧ m0.payload.length ≤ 240 ∧
      ((svOn k0).bay (clusterOf 0)).lines = [] ∧ ((svOn k0).bay (clusterOf 0)).ways = [] ∧ ((svOn k0).bay (clusterOf 0)).prov = []) ∧
    ((svOn k0).placed m0.dstVcore = none ∧ m0.srcModule = (svOn k0).moduleId) := by
  refine ⟨by decide, by decide, by decide, by decide⟩
/-! ### Vector unit and conversions -/

def kv : Core := { kspad with v := [(1, 0x3F800000), (2, 0x40000000), (3, 0xC0400000)], s := [(3, sp 16), (4, 1), (5, sp 98048), (7, 0), (8, 4)] }

theorem test_vadd_fp32 : vlane ((out (exec (.vadd (.core 0) { A 4 1 2 with type := 1 }) (on kv))).core 0 |>.vreg 4) 0 = 0x40400000 := by decide +kernel

theorem test_vfma_rounds_once :
    vlane ((out (exec (.vfma (.core 0) { A 4 1 2 with src3 := 3, type := 1 }) (on kv))).core 0 |>.vreg 4) 0 = 0xBF800000 := by decide +kernel

theorem test_vmin_nan : vlane ((out (exec (.vmin (.core 0) { A 4 1 2 with type := 1 })
    (on { kv with v := [(1, 0x7F800001), (2, 0x40000000)] }))).core 0 |>.vreg 4) 0 = 0x7FC00000 := by decide +kernel

theorem test_vcmp_ne_nan : vlane ((out (exec (.vcmp (.core 0) { A 4 1 1 with type := 1, func := 1 })
    (on { kv with v := [(1, 0x7FC00000)] }))).core 0 |>.vreg 4) 0 = 0xFFFFFFFF := by decide +kernel

theorem test_vred_int_sum : vlane ((out (exec (.vredSum (.core 0) { A 4 1 0 with type := 6, mod := 1 })
    (on { kv with v := [(1, 0x00000003FFFFFFFE)] }))).core 0 |>.vreg 4) 0 = 1 := by decide +kernel

theorem test_cvt_saturates : encElem 4 true none (.fin false 1000 0) = 0x7E := by decide +kernel

theorem test_narrow_int : encElem 8 true none (.fin true 300 0) = 0x80 := by decide +kernel

theorem test_hyp_VectorLanes :
    ScalarReady (on kv) 0 0 false ∧
    (∃ op, laneOf (.vfma (.core 0) { A 31 1 2 with src3 := 3, type := 1, mod := 63 }) =
      some (.core 0, { A 31 1 2 with src3 := 3, type := 1, mod := 63 }, true, true, true, op)) ∧
    vecLegal (.core 0) { A 31 1 2 with src3 := 3, type := 1, mod := 63 } true true = true ∧
    (∃ op, laneOf (.vadd (.core 0) { A 31 1 2 with type := 6, mod := 127 }) =
      some (.core 0, { A 31 1 2 with type := 6, mod := 127 }, true, false, true, op)) ∧
    vecLegal (.core 0) { A 31 1 2 with type := 6, mod := 127 } true false = true ∧
    vecLegal (.core 0) { A 31 1 0 with func := 1, type := 1 } false false = true :=
  ⟨ready (by decide), ⟨_, rfl⟩, by decide +kernel, ⟨_, rfl⟩, by decide +kernel, by decide +kernel⟩

theorem test_hyp_ThreadLanes :
    (∃ op, laneOf (.vbit (.group 0 0) { A 63 1 2 with func := 5, type := 6 }) =
      some (.group 0 0, { A 63 1 2 with func := 5, type := 6 }, true, false, true, op)) ∧
    vecLegal (.group 0 0) { A 63 1 2 with func := 5, type := 6 } true false = true ∧ ThreadReady (on kg) 0 0 :=
  ⟨⟨_, rfl⟩, by decide +kernel, threads (by decide)⟩

theorem test_hyp_ApproximateLanes :
    ScalarReady (on kv) 0 0 false ∧
    (∀ fu ∈ [4, 5, 6], vecLegal (.core 0) { A 4 1 0 with func := fu, type := 1, mod := 63 } false false = true) ∧
    f32 (vlane (((on { kv with v := [(1, 0x7FC00000)] }).core 0).vreg 1) 0) = .nan ∧
    f32 (vlane (((on { kv with v := [(1, 0xBF800000)] }).core 0).vreg 1) 0) = .fin true 8388608 (-23) ∧
    f32 (vlane (((on kv).core 0).vreg 2) 0) = .fin false 8388608 (-22) ∧
    Num.lt (.fin false 8388608 (-22)) (.fin false 128 0) = true ∧ Num.lt (.fin true 300 0) (.fin false 8388608 (-22)) = true :=
  ⟨ready (by decide +kernel), by decide +kernel, by decide +kernel, by decide +kernel, by decide +kernel, by decide +kernel, by decide +kernel⟩

theorem test_hyp_VectorPermuteAndGet :
    ScalarReady (on kv) 0 0 false ∧ vecScalar (.core 0) { A 4 1 2 with mod := 63, type := 6 } true true = true ∧
    vecScalar (.core 0) { A 4 1 2 with type := 6 } true true = true := ⟨ready (by decide), by decide +kernel, by decide +kernel⟩

theorem test_hyp_VectorReductions :
    ScalarReady (on kv) 0 0 false ∧ vecScalar (.core 0) { A 4 1 0 with mod := 63, type := 6 } false true = true ∧
    vecScalar (.core 0) { A 4 1 0 with mod := 63, type := 1 } false true = true ∧
    vecScalar (.core 0) { A 4 1 0 with func := 1, mod := 0x63F, type := 1 } false true = true ∧
    vecScalar (.core 0) { A 4 1 0 with func := 1, mod := 0x100, type := 6 } false true = true :=
  ⟨ready (by decide), by decide +kernel, by decide +kernel, by decide +kernel, by decide +kernel⟩

theorem test_hyp_VectorLoadsAndStores :
    ScalarReady (on kv) 0 0 false ∧ (sp 98048).toNat % 4 = 0 ∧ ((on kv).plainRead 0 (sp 98048).toNat 256 false).isSome = true ∧
    (on kv).plainWrite 0 (sp 98048).toNat 256 false = some 98048 ∧ (on kv).resolve 0 (sp 98052).toNat 256 false = none ∧
    (sp 17).toNat % 4 ≠ 0 := ⟨ready (by decide), by decide +kernel, by decide +kernel, by decide +kernel, by decide +kernel, by decide +kernel⟩

theorem test_hyp_VectorStridedAccess :
    ScalarReady (on kv) 0 0 false ∧ vecScalar (.core 0) { A 4 3 8 with mod := 1, type := 6 } true true = true ∧
    typeOk { A 0 3 8 with src3 := 1, mod := 1, type := 6 } = true ∧ (((on kv).core 0).sreg 3).toNat % 4 = 0 ∧
    (∀ l, l ≤ 1 → ((on kv).plainRead 0 (((on kv).core 0).sreg 3 + BitVec.ofNat 64 l * ((on kv).core 0).sreg 8).toNat 4 false).isSome = true ∧
      ((on kv).plainWrite 0 (((on kv).core 0).sreg 3 + BitVec.ofNat 64 l * ((on kv).core 0).sreg 8).toNat 4 false).isSome = true) := by
  refine ⟨ready (by decide), by decide +kernel, by decide +kernel, by decide +kernel, ?_⟩
  intro l h
  have h2 : l = 0 ∨ l = 1 := by omega
  rcases h2 with rfl | rfl <;> decide

theorem test_hyp_ElementConversions :
    ScalarReady (on kv) 0 0 false ∧ cvtLegal (.core 0) { A 4 1 0 with type := 4, mod := 0x0430 } = true ∧
    cvtLegal (.core 0) { A 4 1 0 with type := 1, mod := 0x1000 } = true := ⟨ready (by decide), by decide +kernel, by decide +kernel⟩

theorem test_hyp_BlockConversions :
    ScalarReady (on kv) 0 0 false ∧ (sp 16).toNat / 2 ^ 60 = 1 ∧
    ((on kv).plainWrite 0 (sp 16).toNat 66 false).isSome = true ∧
    ((mxEncode 0x0A ((List.range 32).map fun l => f32 (vlane (((on kv).core 0).vreg 1) l)) (fun _ => none)).length = 33) ∧
    (blockElems 0x0A = 32 ∧ ((on kv).plainRead 0 (sp 16).toNat (2 * blockBytes 0x0A) false).isSome = true) ∧
    ((on kv).plainRead 0 (sp 16).toNat (((0 % blockElems 0x12 + 63) / blockElems 0x12 + 1) * blockBytes 0x12) false).isSome = true ∧
    (∃ d : Desc, ({ kv with td := [{ d0 with format := 0x10, kind := 0, tableSet := 0 }] } : Core).td[0]? = some d ∧ d.format = 0x10 ∧
      d.tableSet ≠ 0xFFFF) :=
  ⟨ready (by decide), by decide +kernel, by decide +kernel, by decide +kernel, by decide +kernel, by decide +kernel, ⟨_, rfl, by decide +kernel, by decide +kernel⟩⟩
/-! ### Matrix unit -/

def op0 : MmaOp :=
  { acc := 1, aAddr := 2 ^ 60 + 16, stride := 64, k := 1, k0 := 0, port := 2, overwrite := true, double := false, bFmt := 8, aFmt := 8,
    n := 1, m := 1, epoch := 0, pc := 0, seq := 0 }

def pb0 : PortByte := { byte := 0xFE, fmt := 8, tableSet := 0xFFFF }

def kmat : Core :=
  { kspad with mq := [op0], slots := [(2, { port := [pb0] })], s := [(4, sp 16), (5, 64), (6, 0), (7, 1)], acc := [(5, 9), (512, 3)] }

/-- -128 times -2. -/
theorem test_mma_step_int8 : ((out (exec (.mmaStepBegin 0) (on kmat))).core 0).accWord 1 0 = 256 := by decide +kernel

theorem test_mma_k0_overwrite :
    ((out (exec (.mma (.core 0) { A 0 4 5 with src3 := 6, func := 0xA0, type := 8, mod := 0x2000 }) (on { kmat with mq := [] }))).core 0).acc =
      [(512, 3)] := by decide +kernel

theorem test_hyp_MatrixIssue :
    ScalarReady (on kmat) 0 0 false ∧ mmaLegal (.core 0) { A 1 4 5 with src3 := 6, func := 0x80, mod := 0x93E4 } = true ∧
    mmaLegal (.core 0) { A 1 4 5 with src3 := 6, func := 0x90, type := 8, mod := 0x23EF } = true ∧
    (((on kmat).core 0).mq.length < 8 ∧ ((on kmat).core 0).mq = [op0] ∧ op0.k ≠ 0 ∧ op0.move = none) ∧
    (((on { kmat with mq := [] }).core 0).sreg 6).toNat = 0 ∧ ScalarReady (on { kmat with mq := [] }) 0 0 false ∧
    8 ≤ ((on { kmat with mq := List.replicate 8 op0 }).core 0).mq.length ∧ ScalarReady (on { kmat with mq := List.replicate 8 op0 }) 0 0 false :=
  ⟨ready (by decide +kernel), by decide +kernel, by decide +kernel, by decide +kernel, by decide +kernel, ready (by decide +kernel), by decide +kernel, ready (by decide +kernel)⟩

theorem test_hyp_MatrixStep :
    Unit.core 0 = true ∧ ((on kmat).core 0).mq = [op0] ∧ op0.move = none ∧ op0.k < 2 ^ 32 ∧ op0.double = false ∧ op0.acc < 2 ∧ op0.m ≤ 16 ∧ op0.n ≤ 32 ∧
    0 < op0.n ∧ op0.k0 < op0.k ∧ min (granule op0.bFmt) (op0.k - op0.k0) = 1 ∧ rowBytes op0.bFmt 1 = 1 ∧ op0.aFault (on kmat) 0 = none ∧
    (((on kmat).core 0).slot op0.port).port.take (op0.n * 1) = [pb0] ∧ pb0.fmt = op0.bFmt ∧ pb0.bad = false ∧
    pb0.tableSet = ([pb0].map (·.tableSet)).headD 0xFFFF ∧ ((on kmat).core 0).withheld = false ∧ op0.aWaits (on kmat) 0 = false ∧
    (on kmat).localBad 1 0 (op0.rowAddr 0 % 2 ^ 32) (rowBytes op0.aFmt 1) = false := by decide +kernel

theorem test_hyp_AccumulatorMoves :
    ScalarReady (on { kmat with mq := [] }) 0 0 false ∧ usesA { A 31 1 0 with mod := 7 } true true false false false false true = true ∧
    usesA { A 1 31 0 with mod := 7 } true true false false false false true = true ∧
    accLegal (.core 0) { A 1 4 5 with type := 1, mod := 0x0001 } = true ∧ accLegal (.core 0) { A 0 4 5 with type := 4, mod := 0x3000 } = true ∧
    (((on { kmat with mq := [] }).core 0).sreg 4).toNat % fmtAlign 1 = 0 ∧ (((on { kmat with mq := [] }).core 0).sreg 5).toNat % fmtAlign 1 = 0 ∧
    (∀ r, r < 2 → ((on { kmat with mq := [] }).plainWrite 0 ((2 ^ 60 + 16 + r * 64) % 2 ^ 64) 4 false).isSome = true ∧
      ((on { kmat with mq := [] }).plainRead 0 ((2 ^ 60 + 16 + r * 64) % 2 ^ 64) 4 false).isSome = true) := by
  refine ⟨ready (by decide +kernel), by decide +kernel, by decide +kernel, by decide +kernel, by decide +kernel, by decide +kernel, by decide +kernel, by decide +kernel⟩

/-- An accumulator move behind an MMA waits in the matrix queue. -/
theorem test_move_queues :
    ((out (exec (.accRv (.core 0) { A 31 1 0 with mod := 7 }) (on kmat))).core 0).mq.map (fun o => (o.move.map (·.kind), o.k)) =
      [(none, 1), (some 2, 1)] := by decide +kernel

theorem test_hyp_AccumulatorQueue :
    ScalarReady (on kmat) 0 0 false ∧ ((on kmat).core 0).mq ≠ [] ∧ ((on kmat).core 0).mq.length < 8 ∧
    accLegal (.core 0) { A 1 4 5 with type := 1, mod := 0x0001 } = true ∧
    accRvLegal (.core 0) { A 31 1 0 with mod := 7 } 1 31 = true ∧ 31 ∉ ((on kmat).core 0).vPending ∧
    accRvLegal (.core 0) { A 1 31 0 with mod := 7 } 1 31 = true ∧
    8 ≤ ((on { kmat with mq := List.replicate 8 op0 }).core 0).mq.length ∧ ScalarReady (on { kmat with mq := List.replicate 8 op0 }) 0 0 false :=
  ⟨ready (by decide +kernel), by decide +kernel, by decide +kernel, by decide +kernel, by decide +kernel, by decide +kernel, by decide +kernel,
    by decide +kernel, ready (by decide +kernel)⟩

theorem test_hyp_AccumulatorElements :
    accRound { A 1 4 5 with type := 4, mod := 0x1000 } = 0 ∧ matN { A 1 4 5 with type := 9, mod := 0x0020 } = 2 ∧ fmtWidth 9 = 4 ∧
    ([0x21] : List Byte).length = rowBytes 9 2 := by decide +kernel

/-! ### Thread groups -/

def req0 : LaunchReq := { entry := 8, arg := 0x0000000500000006, cls := 2, cbar := 1, block := 3, groups := 2, epoch := 0, pc := 0 }

theorem test_launch_registers :
    let g := (out (exec (.blockLaunchBegin 0) (on { k0 with tgq := [req0] }))).grp 0 1
    ((g.th 31).reg 0, (g.th 31).reg 1, (g.th 31).reg 2, (g.th 31).reg 3) = (63, 3, 6, 5) := by decide +kernel

theorem test_hyp_BlockLaunch :
    ScalarReady (on k0) 0 0 false ∧ usesA { A 0 7 8 with mod := 0x7FF } false true true false false false true = true ∧
    ((on k0).core 0).tgq.length < 4 ∧
    (((on { k0 with tgq := [req0] }).core 0).tgq = [req0] ∧ ((on { k0 with tgq := [req0] }).core 0).blockGroups req0.block = [] ∧
      req0.groups ≤ ((on { k0 with tgq := [req0] }).core 0).freeSlots.length ∧ req0.entry % 8 = 0) ∧
    usesA { A 0 0 0 with mod := 16 } false false false false false false true = true ∧
    (∀ e ∈ ((on kg).core 0).groups, e.2.used = true → (4 : BitVec 16) ≠ 16 ∧ e.2.block ≠ (4 : BitVec 16).toNat / 4) :=
  ⟨ready (by decide +kernel), by decide +kernel, by decide +kernel, by decide +kernel, by decide +kernel, by decide +kernel⟩

theorem test_exit_frees : ((out (exec (.tgExit (.group 0 0) (A 0 0 0)) (on kg))).core 0).groups = [] := by decide +kernel

theorem test_hyp_ThreadExit :
    ThreadReady (on kg) 0 0 ∧ usesA (A 0 0 0) false false false false false false false = true ∧ ((on kg).grp 0 0).used = true ∧
    (∃ x, ((on kg).core 0).groups = [(0, x)]) ∧
    (∀ l, l < 32 → ((on kg).grp 0 0).live.contains l = true → ((on kg).grp 0 0).takes 0 false l = true) :=
  ⟨threads (by decide +kernel), by decide +kernel, by decide +kernel, ⟨_, rfl⟩, by decide +kernel⟩

/-- Thread 1 stands behind thread 0. -/
def kg2 : Core :=
  { kg with groups := [(0, { used := true, cbar := 8, threads := [(0, { mode := .runnable }), (1, { mode := .runnable, pc := 16 })] })] }

theorem test_hyp_ThreadBarriers :
    ThreadReady (on kg) 0 0 ∧ usesA { A 0 0 0 with func := 0, mod := 7 } false false false false true false true = true ∧
    (∀ l, l < 32 → ((on kg).grp 0 0).live.contains l = true → ((on kg).grp 0 0).takes 0 false l = true) ∧
    ThreadReady (on kg2) 0 0 ∧
    (((on kg2).grp 0 0).live.contains 1 = true ∧ ((on kg2).grp 0 0).takes 0 false 1 = false ∧
      (((on kg2).grp 0 0).th 1).mode ≠ .waiting 0 7) ∧
    (((on kg2).grp 0 0).cbar.getLsbD 3 = true ∧ (on kg2).storesDone 0 = true ∧ (0x7E3 : BitVec 16).toNat % 32 = 3) :=
  ⟨threads (by decide +kernel), by decide +kernel, by decide +kernel, threads (by decide +kernel), by decide +kernel, by decide +kernel⟩

theorem test_bar_holds : ((((out (exec (.tgBar (.group 0 0) (A 0 0 0)) (on kg2))).grp 0 0).th 0).mode,
    (((out (exec (.tgBar (.group 0 0) (A 0 0 0)) (on kg))).grp 0 0).th 0).mode) = (.waiting 0 0, .runnable) := by decide +kernel

def klock : Core :=
  { kspad with csr := [(0x001, 5), (0x011, 98304)], gen := 3,
               groups := [(0, { used := true, threads := [(3, { mode := .runnable, t := [(2, 32), (3, 0x10000000)] }),
                 (9, { mode := .runnable, t := [(2, 32), (3, 0x10000000)] })] })] }

def slock : State := { on klock with img := { State.reset.img with place := [(5, 1)] } }

theorem takes_lock (l : Nat) (h : (slock.grp 0 0).takes 0 false l = true) : l = 3 ∨ l = 9 := by
  have h1 : l ∈ (slock.grp 0 0).active := by
    simp only [Group.takes, Bool.and_eq_true, List.contains_iff_mem] at h
    exact h.1
  have e : (slock.grp 0 0).active = [3, 9] := by decide +kernel
  rw [e] at h1
  simpa using h1

/-- HELD 1, GEN 3, VCORE 5, GROUP 0, LANE 3. -/
theorem test_lock_token :
    let t := out (exec (.lockTry (.group 0 0) (A 1 2 0)) slock)
    (leNat (rdBytes (t.core 0).spad 32 4), ((t.grp 0 0).th 3).preg 1, ((t.grp 0 0).th 9).preg 1) = (0x80C00283, true, false) := by
  decide +kernel

theorem test_hyp_LockTry :
    ThreadReady slock 0 0 ∧ usesA (A 7 2 0) true true false false false false false = true ∧
    (∀ l, (slock.grp 0 0).takes 0 false l = true → (((slock.grp 0 0).th l).pair 2).toNat = 2 ^ 60 + 32) ∧
    (slock.grp 0 0).takes 0 false 3 = true ∧ (∀ l, l < 3 → (slock.grp 0 0).takes 0 false l = false) ∧ (2 ^ 60 + 32) % 4 = 0 ∧
    slock.plainRead 0 (2 ^ 60 + 32) 4 true = some [0, 0, 0, 0] ∧ slock.plainWrite 0 (2 ^ 60 + 32) 4 true = some 32 ∧
    slock.placed (slock.core 0).vc = some 0 := by
  refine ⟨threads (by decide +kernel), by decide +kernel, ?_, by decide +kernel, by decide +kernel, by decide +kernel, by decide +kernel, by decide +kernel, by decide +kernel⟩
  intro l h
  rcases takes_lock l h with rfl | rfl <;> decide

theorem test_hyp_LockWordFree :
    (0x7FFFFFFF : W32).toNat < 2 ^ 31 ∧ slock.placed (slock.core 0).vc = some 0 ∧ (slock.core 0).vc / 16 = (slock.core 0).vc / 16 ∧
    slock.token 0 3 31 = 0x80C002FF ∧ 4 % 512 ≠ (slock.coreGen 0).toNat % 512 := by decide +kernel

def slockHeld : State :=
  { slock with cores := [(0, { klock with spad := [(32, 0x83), (33, 0x02), (34, 0xC0), (35, 0x80)]
                                          groups := [(0, { used := true, threads := [(3, { mode := .runnable, t := [(2, 32), (3, 0x10000000)] }),
                                            (9, { mode := .parked, failedOn := 33 })] })] })] }

theorem test_release_wakes :
    let t := out (exec (.lockRel (.group 0 0) (A 0 2 0)) slockHeld)
    (rdBytes (t.core 0).spad 32 4, ((t.grp 0 0).th 9).mode) = ([0, 0, 0, 0], .runnable) := by decide +kernel

theorem test_hyp_LockRelease :
    ThreadReady slockHeld 0 0 ∧ usesA (A 0 2 0) false true false false false false false = true ∧
    (∀ l, (slockHeld.grp 0 0).takes 0 false l = true ↔ l = 3) ∧ (((slockHeld.grp 0 0).th 3).pair 2).toNat = 2 ^ 60 + 32 ∧
    slockHeld.storesDone 0 = true ∧ slockHeld.plainRead 0 (2 ^ 60 + 32) 4 true = some [0x83, 0x02, 0xC0, 0x80] ∧
    slockHeld.plainWrite 0 (2 ^ 60 + 32) 4 true = some 32 ∧ BitVec.ofNat 32 (leNat [0x83, 0x02, 0xC0, 0x80]) = slockHeld.token 0 0 3 := by
  refine ⟨threads (by decide +kernel), by decide +kernel, ?_, by decide +kernel, by decide +kernel, by decide +kernel, by decide +kernel, by decide +kernel⟩
  intro l
  constructor
  · intro h
    have h1 : l ∈ (slockHeld.grp 0 0).active := by
      simp only [Group.takes, Bool.and_eq_true, List.contains_iff_mem] at h
      exact h.1
    have e : (slockHeld.grp 0 0).active = [3] := by decide +kernel
    rw [e] at h1
    simpa using h1
  · rintro rfl
    decide

theorem test_hyp_YieldAndParking :
    ThreadReady (on kg2) 0 0 ∧ (((on kg2).grp 0 0).runnable.contains 1 = true ∧ ((on kg2).grp 0 0).takes 0 false 1 = false) ∧
    ThreadReady (on kg) 0 0 ∧ ((slockHeld.grp 0 0).th 9).mode = .parked := ⟨threads (by decide +kernel), by decide +kernel, threads (by decide +kernel), by decide +kernel⟩

theorem test_vote_ballot :
    ((((out (exec (.tgVote (.group 0 0) (A 5 0 0)) (on kg))).grp 0 0).th 0).reg 5,
      (((out (exec (.tgVote (.group 0 0) { A 3 1 0 with func := 1 }) (on kg))).grp 0 0).th 0).preg 3) = (3, false) := by decide +kernel

theorem test_hyp_ThreadVotes :
    ThreadReady (on kg) 0 0 ∧ usesA { A 63 7 0 with func := 0 } true true false false true false false = true ∧
    usesA { A 7 7 0 with func := 2 } true true false false true false false = true := ⟨threads (by decide +kernel), by decide +kernel, by decide +kernel⟩
/-! ### Streams -/

def word_loop : W64 := 0x0800000000000003
def word_loop0 : W64 := 0x0800000000000000
def word_endl : W64 := 0x140000 * 2 ^ 40 + 0x5CD0000000
def word_adda : W64 := 0x1D600000FFFFFFFC
/-- MOVE a0 → port, LEN 33, FMT CB4, CLASS 2, DESC 3, LEAD 4 of the worked program of R243. -/
def word_move : W64 := 0x2001040304000021
/-- MOVE a0 → a1 in the scratchpad, LEN 4, FMT 8. -/
def word_copy : W64 := 0x2028800000000004
/-- MOVE a0 to neither, LEN 200. -/
def word_lead : W64 := 0x20108000000000C8
/-- A row MOVE a0 → a1, MODE 1, LEN 2,048. -/
def word_rows : W64 := 0x202A800000000800
/-- MOVE a0 → port, LEN 4, FMT INT8. -/
def word_port : W64 := 0x2000800000000004

def prog0 (w : W64) : StreamProg :=
  { code := [w, word_adda, word_endl, 0]
    windows := [{ valid := true, write := true, space := 1, base := 0, lo := 0, size := 4096 },
                { valid := true, write := true, space := 1, base := 1, lo := 0, size := 4096 },
                { valid := true, write := false, space := 0, base := 0, lo := 0, size := 4096 }] }

def im0 : Image :=
  { buildId := [], digest := [], vcores := 16, steps := 0, tensors := [], tables := [], tableBytes := [], streams := [], phases := []
    programs := [], codeBase := 0, codeLen := 0, thinRequired := false }

def st0 : Start := { prog := 0, a0 := sp 4096, a1 := sp 8192, a2 := 0, epoch := 0, pc := 0, seq := 0 }

/-- Slot 1 of core 0 at the first word of a program. -/
def strm (w : W64) (x : Slot) : State :=
  { svOn { kspad with slots := [(1, x)] } with img := { State.reset.img with image := some { im0 with streams := [prog0 w] } } }

def x0 : Slot := { running := some st0, begun := true, a := [(0, sp 4096), (1, sp 8192), (3, 5)] }

def streamB (s : State) (c i : Nat) (st : Start) (p : StreamProg) (w : W64) : Bool :=
  Unit.core c && Unit.slot i && decide (((s.core c).slot i).running = some st) && decide (s.streamProg st.prog = some p) &&
    decide (p.code[((s.core c).slot i).ppc]? = some w) && ((s.core c).slot i).begun && !((s.core c).slot i).ended &&
    decide (s.epState st.epoch ≠ .aborting)

theorem streams {s : State} {c i : Nat} {st : Start} {p : StreamProg} {w : W64} (h : streamB s c i st p w = true) :
    StreamReady s c i st p w := by
  simp only [streamB, Bool.and_eq_true, decide_eq_true_eq, Bool.not_eq_true'] at h
  exact ⟨h.1.1.1.1.1.1.1, h.1.1.1.1.1.1.2, h.1.1.1.1.1.2, h.1.1.1.1.2, h.1.1.1.2, h.1.1.2, h.1.2, h.2⟩

theorem test_hyp_StreamStart :
    ScalarReady (on k0) 0 0 false ∧ usesA { A 0 1 2 with src3 := 3, func := 3, mod := 0xFFFF } false true true true true false true = true ∧
    ((on k0).core 0).sq = [] ∧ (((on k0).core 0).slot 3).running = none ∧
    (((on { k0 with slots := [(3, { running := some st0 })] }).core 0).slot 3).running ≠ none ∧
    (((on { k0 with slots := [(3, { running := some st0 })] }).core 0).slot 3).pending = none ∧
    (((on { k0 with slots := [(3, { running := some st0, pending := some st0 })] }).core 0).slot 3).pending ≠ none :=
  ⟨ready (by decide), by decide, by decide, by decide, by decide, by decide, by decide⟩

theorem test_hyp_StreamWaitPollCancel :
    ScalarReady (on k0) 0 0 false ∧ ((on k0).core 0).sq = [] ∧
    usesA { A 0 0 0 with func := 0, mod := 1 } false false false false true false true = true ∧
    usesA { A 7 0 0 with func := 3 } true false false false true false true = true ∧ ((on k0).core 0).stall ≠ 13 ∧
    (∀ i, i < 4 → (((on k0).core 0).slot i).running = none ∧ (((on k0).core 0).slot i).pending = none) ∧
    (∀ w ∈ ((on k0).core 0).stores, ∀ i, i < 4 → w.src ≠ i + 1) :=
  ⟨ready (by decide), by decide, by decide, by decide, by decide, by decide, by decide⟩

/-- Slot 3 has a running and a pending start, and one waits in the queue. -/
def kfull : Core := { k0 with slots := [(3, { running := some st0, pending := some st0 })], sq := [(3, st0)] }

theorem test_poll_queues : ((out (exec (.ssPoll (.core 0) { A 7 0 0 with func := 3 }) (on kfull))).core 0).sq.map (fun x => decide (x.2.op = .start)) =
    [true, false] := by decide

theorem test_hyp_StreamQueue :
    ScalarReady (on kfull) 0 0 false ∧ ((on kfull).core 0).sq = [(3, st0)] ∧ st0.op = .start ∧ (((on kfull).core 0).slot 3).running ≠ none ∧
    (((on kfull).core 0).slot 3).pending ≠ none ∧ 7 ∉ ((on kfull).core 0).pPending :=
  ⟨ready (by decide), by decide, by decide, by decide, by decide, by decide⟩

theorem test_hyp_StreamStartBeginEnd :
    (((strm word_loop { running := some st0 }).core 0).slot 1).running = some st0 ∧
    (((strm word_loop { running := some st0 }).core 0).slot 1).begun = false ∧
    (strm word_loop { running := some st0 }).epState st0.epoch ≠ .aborting ∧
    (strm word_loop { running := some st0 }).streamProg st0.prog = some (prog0 word_loop) ∧
    (strm word_loop { running := some st0 }).startWaits 0 st0 = false ∧
    ((((strm word_loop { x0 with ended := true }).core 0).slot 1).ended = true ∧ ((strm word_loop { x0 with ended := true }).core 0).sq = [] ∧
      ∀ w ∈ ((strm word_loop { x0 with ended := true }).core 0).stores, w.src ≠ 1 + 1) := by decide +kernel

theorem test_adda : ((((out (exec (.streamAdda 0 1) (strm word_loop { x0 with ppc := 1 }))).core 0).slot 1).areg 5) = 1 := by decide +kernel

theorem test_endl_rewind :
    let y := ((out (exec (.streamEndl 0 1) (strm word_loop { x0 with ppc := 2, loops := [{ head := 1, count := 3, left := 1 }],
                                                                       a := [(0, 11880)] }))).core 0).slot 1
    (y.ppc, y.areg 0, y.loops) = (3, 0, []) := by decide +kernel

theorem test_hyp_StreamLoopsAndAddresses :
    StreamReady (strm word_loop x0) 0 1 st0 (prog0 word_loop) word_loop ∧ fld word_loop 59 5 = 1 ∧ 0 < fld word_loop 0 32 ∧
    StreamReady (strm word_loop0 x0) 0 1 st0 (prog0 word_loop0) word_loop0 ∧ fld word_loop0 0 32 = 0 ∧
    (∃ v, (prog0 word_loop0).code[2]? = some v ∧ fld v 59 5 = 2) ∧ fld word_adda 59 5 = 3 ∧
    StreamReady (strm word_loop { x0 with ppc := 2 }) 0 1 st0 (prog0 word_loop) word_endl ∧ fld word_endl 59 5 = 2 ∧
    fld word_endl 55 3 ≠ fld 0x1440000000000000 52 3 ∧ fld 0x1440000000000000 55 3 ≠ fld 0x1440000000000000 52 3 ∧
    StreamReady (strm word_loop { x0 with ppc := 1 }) 0 1 st0 (prog0 word_loop) word_adda ∧
    StreamReady (strm word_loop { x0 with ppc := 3 }) 0 1 st0 (prog0 word_loop) 0 :=
  ⟨streams (by decide), by decide, by decide, streams (by decide), by decide, ⟨_, rfl, by decide⟩, by decide, streams (by decide), by decide,
    by decide, by decide, streams (by decide), streams (by decide)⟩

theorem test_move_fields : moveOf word_move =
    { src := 0, dst := 0, tgt := 0, mode := 0, fmt := 0x10, cls := 2, adv := false, desc := 3, lead := 4, len := 33 } := by decide

theorem test_move_to_port :
    ((((out (exec (.streamMove 0 1) (strm word_port x0))).core 0).slot 1).port.map fun b => (b.fmt, b.tableSet)) =
      List.replicate 4 (8, 0xFFFF) := by decide +kernel

theorem test_hyp_StreamMove :
    (StreamReady (strm word_port x0) 0 1 st0 (prog0 word_port) word_port ∧ fld word_port 59 5 = 4 ∧ (moveOf word_port).mode = 0 ∧
      (moveOf word_port).tgt = 0 ∧ moveTables ((strm word_port x0).core 0) (moveOf word_port) = some 0xFFFF ∧
      (strm word_port x0).streamLoc 0 st0 (2 ^ 60 + 4096) 4 false [0, 1, 2] = some (.spad 0 4096) ∧
      (strm word_port x0).localBad 1 0 4096 4 = false) ∧
    (StreamReady (strm word_copy x0) 0 1 st0 (prog0 word_copy) word_copy ∧ (moveOf word_copy).tgt = 1 ∧
      (strm word_copy x0).streamLoc 0 st0 (2 ^ 60 + 4096) 4 false [0, 1, 2] = some (.spad 0 4096) ∧
      (strm word_copy x0).streamLoc 0 st0 (2 ^ 60 + 8192) 4 true [0, 1, 2] = some (.spad 0 8192) ∧ 4096 + 4 ≤ 8192) ∧
    (moveOf word_lead).tgt = 2 ∧
    ({ strm word_lead x0 with regions := [(0, { attr := 0xE200000000000010, base := 0x1000000 })] }.streamLoc 0
      { st0 with a0 := 0x1000000 } 0x1000000 128 false [0]).isSome = true :=
  ⟨⟨streams (by decide), by decide +kernel⟩, ⟨streams (by decide), by decide +kernel⟩, by decide, by decide +kernel⟩

def st1 : Start := { st0 with a0 := 0x1000000 }
def rows : State := strm word_rows { x0 with running := some st1, a := [(0, 0x1000000), (1, sp 8192)] }
def rows1 : State := strm word_rows { x0 with running := some st1, a := [(0, 0x1000000), (1, sp 8192)], rowsLeft := 1 }

/-- The row's eight lines are there. -/
def rows2 : State :=
  { rows1 with bays := [(rows1.readBay (clusterOf 0) 0x1000400 (moveOf word_rows).cls false,
      { lines := (List.range 8).map fun j => { line := 0x1000400 + 128 * j, kind := .home } })] }

theorem test_hyp_StreamRows :
    StreamReady rows 0 1 st1 (prog0 word_rows) word_rows ∧ (moveOf word_rows).mode = 1 ∧ (moveOf word_rows).tgt = 1 ∧ 0x1000000 % 1024 = 0 ∧
    0x1000000 % 2 ^ 44 < hbmEnd ∧ (rows.streamLoc 0 st1 0x1000000 (moveOf word_rows).len false [0]).isSome = true ∧
    (rows.streamLoc 0 st1 (2 ^ 60 + 8192) (moveOf word_rows).len true [1]).isSome = true ∧ ((rows.core 0).slot 1).rowsLeft = 0 ∧
    StreamReady rows1 0 1 st1 (prog0 word_rows) word_rows ∧ ((rows1.core 0).slot 1).rowsLeft = 1 ∧
    rows1.doorAt 0x1000400 = false ∧ rows1.asleep (partOfOff 0x1000400) = false ∧
    rows1.devMay (rows1.core 0) 0x1000400 1024 false = true ∧ (rows1.core 0).epoch = 0 ∧ (rows1.core 0).stores = [] ∧ rows1.noLatent ∧
    (∀ j, j < 8 → rows2.rowAbsent 0 (moveOf word_rows).cls (0x1000400 + 128 * j) = false) ∧ rows2.noLatent ∧
    StreamReady rows2 0 1 st1 (prog0 word_rows) word_rows ∧ ((rows2.core 0).slot 1).rowsLeft = 1 :=
  ⟨streams (by decide), by decide, by decide, by decide, by decide, by decide +kernel, by decide +kernel, by decide, streams (by decide),
    by decide, by decide, by decide +kernel, by decide +kernel, by decide, by decide, quiet rfl, by decide +kernel, quiet rfl,
    streams (by decide), by decide⟩

/-- XMOVE a0 to a1 with stride a2, FMT FP16. -/
def word_xmove : W64 := 0x2828200000000000
def xm : State := strm word_xmove { x0 with a := [(0, sp 4096), (1, sp 8192), (2, 64)] }

theorem test_hyp_StreamTransposedMove :
    StreamReady xm 0 1 st0 (prog0 word_xmove) word_xmove ∧ fld word_xmove 59 5 = 5 ∧ fld word_xmove 44 5 = 2 ∧
    (xm.core 0).epoch = 0 ∧ (xm.core 0).journal = [] ∧
    (∀ r, r < 32 → xm.streamLoc 0 st0 ((2 ^ 60 + 4096 + r * 64) % 2 ^ 64) 64 false [0, 1, 2] = some (.spad 0 (4096 + 64 * r)) ∧
      xm.localBad 1 0 (4096 + 64 * r) 64 = false) ∧
    xm.streamLoc 0 st0 (2 ^ 60 + 8192) 2048 true [1, 2] = some (.spad 0 8192) :=
  ⟨streams (by decide), by decide, by decide, by decide, by decide, by decide +kernel, by decide +kernel⟩

def khint : Core := { k0 with run := 0, s := [(1, 0x1000000), (2, 0x400000), (3, 0x100000000000000), (4, 0x400001), (5, 128)] }

theorem test_hyp_CacheHints :
    ScalarReady (svOn khint) 0 0 false ∧ usesA { A 0 1 2 with mod := 0x701 } true true true false false false true = true ∧
    2 ^ 56 ≤ (((svOn khint).core 0).sreg 3).toNat ∧ 2 ^ 22 < (((svOn khint).core 0).sreg 4).toNat ∧
    (((svOn khint).core 0).sreg 2).toNat ≤ 2 ^ 22 ∧ ((svOn khint).core 0).run = 0 ∧
    (svOn khint).hintSleeper ((svOn khint).hintLines 0x1000000 128) = none ∧ ((svOn khint).core 0).stores = [] ∧
    0x1000000 / 2 ^ 44 = (svOn khint).moduleId ∧
    ({ svOn { khint with epoch := 1 } with groups := [(0, { st := .open_ })] }.epState 1 = .open_) ∧
    ((svOn khint).hintLines 0x1000000 128 = [0x1000000] ∧
      ∃ bay, (svOn khint).hintBay (clusterOf 0) 0x1000000 true = some bay ∧ (svOn khint).backed 0x1000000 = true ∧
        (svOn khint).wantsFill 0 bay 0x1000000 = true ∧ ((svOn khint).bay bay).miss.length < 64) ∧
    ((∀ ln ∈ (svOn khint).hintLines 0x1000000 128, (svOn khint).pinWaits 0 ln true = false) ∧
      (svOn khint).pinPasses 0 0x1000000 = false ∧ ((svOn khint).core 0).pPending = []) ∧
    ((svOn khint).noLatent ∧ ((svOn khint).core 0).storeIn (0x1000000 / 128 * 128) (128 + 256) = false ∧ ((svOn khint).core 0).epoch = 0 ∧
      (svOn khint).bays = []) ∧
    (∃ s : State, ScalarReady s 0 0 false ∧ s.epState (s.core 0).epoch = .open_ ∧ (s.core 0).epoch ≠ 0) := by
  refine ⟨ready (by decide), by decide, by decide, by decide, by decide, by decide, by decide +kernel, by decide, by decide, by decide,
    ⟨by decide, ⟨_, rfl, by decide +kernel, by decide +kernel, by decide +kernel⟩⟩, ⟨by decide +kernel, by decide +kernel, by decide⟩,
    ⟨quiet rfl, by decide, by decide, rfl⟩,
    ⟨{ svOn { khint with epoch := 1 } with groups := [(0, { st := .open_ })] }, ready (by decide), by decide, by decide⟩⟩

/-- A dead range of an open epoch is kept for its confirmation. -/
theorem test_dead_held : ((out (exec (.chDead (.core 0) (A 0 1 5))
    { svOn { khint with epoch := 1 } with groups := [(0, { st := .open_ })] })).core 0).deads.map (fun x => (x.1, x.2.1)) = [(0x1000000, 128)] := by
  decide +kernel

/-! ### Epochs, issue, traps -/

def kspec : Core := { k0 with run := 0, s := [(1, 0x0100), (2, 8)] }

theorem test_open_sets_epoch : fld ((out (exec (.specOpen (.core 0) (A 0 1 2)) (svOn kspec))).specEpoch
    ((out (exec (.specOpen (.core 0) (A 0 1 2)) (svOn kspec))).core 0)) 0 3 = 1 := by decide +kernel

theorem test_hyp_EpochOpen :
    ScalarReady (svOn kspec) 0 0 false ∧ usesA (A 0 1 2) false true true false false false false = true ∧
    (((svOn kspec).core 0).sreg 1).toNat < 2 ^ 18 ∧ 0x100 % 256 + 0x100 / 256 % 256 + 1 ≤ 160 ∧ ((svOn kspec).core 0).epoch = 0 ∧
    (((svOn kspec).core 0).sreg 2).toNat % 8 = 0 ∧ (((svOn kspec).core 0).sreg 2).toNat < ((svOn kspec).core 0).progLen ∧
    (∀ i, i < 4 → ((svOn kspec).group (4 * (((svOn kspec).core 0).vc / 2560) + i)).st = .idle) ∧
    (({ svOn kspec with groups := [(0, { st := .open_, first := 0, countM1 := 1 })] }.group 0).st = .open_ ∧
      ∀ i, i < 4 → i ≠ 0 → ({ svOn kspec with groups := [(0, { st := .open_, first := 0, countM1 := 1 })] }.group i).st = .idle) :=
  ⟨ready (by decide), by decide, by decide, by decide, by decide, by decide, by decide, by decide, by decide⟩

def spo (e : EpochState) (k : Core) : State := { svOn k with groups := [(0, { st := e, epoch := 4, first := 0, countM1 := 1, cause := 1 })] }

theorem test_hyp_EpochResolution :
    ScalarReady (spo .open_ { kspec with s := [(1, 4)] }) 0 0 false ∧ usesA (A 0 1 0) false true false false false false false = true ∧
    ((spo .open_ kspec).group 0).epoch.toNat = 4 % 2 ^ 16 ∧ ((spo .open_ kspec).group 0).run = 0 ∧
    ((spo .open_ kspec).group 0).epoch.toNat ≠ 5 ∧ usesA (A 7 0 0) true false false false false false false = true ∧
    ((spo .confirmed { kspec with epoch := 5 }).epState 5 = .confirmed ∧ ScalarReady (spo .confirmed { kspec with epoch := 5 }) 0 0 false ∧
      ∀ w ∈ ((spo .confirmed { kspec with epoch := 5 }).core 0).stores, w.epoch ≠ 5) :=
  ⟨ready (by decide), by decide, by decide, by decide, by decide, by decide, by decide, ready (by decide), by decide⟩

def prov0 : ProvLine := { epoch := 5, line := 0x1000000, bytes := [(0x1000000, some 7)], cls := 0 }

def conf : State := { spo .confirming { kspec with epoch := 5 } with bays := [(0, { prov := [prov0] })] }

theorem test_confirm_applies : nget 0 (out (exec (.specConfirmed 0 0) conf)).mem 0x1000000 = 7 := by decide +kernel

/-- The epoch's line has a fill under way in its home bay. -/
def conf1 : State := { conf with bays := [(0, { prov := [prov0] }), (sv.homeBay 0x1000000, { miss := [{ line := 0x1000000, cls := 2, joiners := [], prefetch := false }] })] }

theorem test_hyp_EpochConfirmed :
    (conf.group 0).st = .confirming ∧ (conf.group 0).run = 0 ∧ 0 * 2 ^ 16 + (conf.group 0).epoch.toNat + 1 = 5 ∧
    (conf.cores.map (·.1)).Pairwise (· < ·) ∧ (∀ e ∈ conf.cores, e.2.held = [] ∧ e.2.deads = []) ∧ ({} : Core).epoch ≠ 5 ∧
    (conf.bays.flatMap fun e => e.2.prov.filter fun l => l.epoch == 5) = [prov0] ∧ prov0.line < 2 ^ 56 ∧
    conf.fillPending prov0.line 128 = false ∧ conf.dues = [] ∧ conf.runs = [] ∧ conf.chk = [] ∧ conf.vis = [] ∧
    (∀ e ∈ conf.bays, ∀ l ∈ e.2.lines, l.otherTower = false ∧ l.modules = []) ∧
    (conf1.group 0).st = .confirming ∧ (conf1.bays.flatMap fun e => e.2.prov.filter fun l => l.epoch == 5) = [prov0] ∧
    conf1.fillPending prov0.line 128 = true ∧ conf1.dues = [] := by decide +kernel

def abrt : State := { spo .aborting { kspec with epoch := 5, handler := 8, journal := [{ space := 1, granule := 0, old := [9] }] } with
                        bays := [(0, { prov := [prov0] })] }

theorem test_abort_restores :
    let k := (out (exec (.specAborted 0 0) abrt)).core 0
    (nget 0 k.spad 0, k.pc, k.epoch, (out (exec (.specAborted 0 0) abrt)).mem) = (9, 8, 0, []) := by decide +kernel

theorem test_hyp_EpochAborted :
    (abrt.group 0).st = .aborting ∧ (abrt.group 0).run = 0 ∧ (abrt.cores.map (·.1)).Pairwise (· < ·) ∧
    (∀ j ∈ (abrt.core 0).journal, j.space = 1) ∧ (abrt.group 0).cause < 256 := by decide

theorem test_hyp_IssueChecks :
    ((on k0).issues ((on k0).core 0) = true ∧ ((on { k0 with pc := 64 }).core 0).progLen ≤ ((on { k0 with pc := 64 }).core 0).pc ∧
      (on { k0 with pc := 64 }).issues ((on { k0 with pc := 64 }).core 0) = true) ∧
    ({ on k0 with chk := [(0, poisonMarker)] }.fetchBad ((on k0).core 0) = true ∧
      { on k0 with chk := [(0, poisonMarker)] }.issues ((on k0).core 0) = true) ∧
    ((on { k0 with pc := 56 }).core 0).pc < ((on { k0 with pc := 56 }).core 0).progLen ∧ (on { k0 with pc := 56 }).fetchBad ((on k0).core 0) = false ∧
    legal3 (.core 0) { A 31 31 31 with pred := 1 } = true ∧ ((on k0).core 0).preg 1 = false ∧ 0 ∉ ((on k0).core 0).icache ∧
    (on k0).wordPoison 0 = false ∧ (on k0).reservedAt 0 = false ∧ 1 ∉ ((on k0).core 0).pPending ∧
    { on k0 with mem := [(7, 0xFF)] }.wordPoison 0 = false ∧ { on k0 with mem := [(7, 0xFF)] }.issues ((on k0).core 0) = true ∧
    coreInstr (.core 0) (w64 (leNat ({ on k0 with mem := [(7, 0xFF)] }.memRead 0 8))) = none := by decide +kernel

/-- A word with a reserved major opcode raises ILLEGAL_INSTRUCTION. -/
theorem test_reserved_major : ((out (exec (.add (.core 0) (A 1 2 3)) { on k0 with mem := [(7, 0xFF)] })).part 0).trapLog.map (·.cause) = [0x01] := by
  decide +kernel

def trapRun : State := { on kg with runs := [{ id := 0, cmd := 0, fn := 0, tag := 0, phase := 0, batch := 1, seed := 0, bindings := [], timeoutMs := 0,
                                               holdLimit := 0, spec := false, st := .running, mask := 1 }] }

/-- The later watchdog raises the run's status, and its first trap stays. -/
theorem test_trap_priority :
    (out (exec (.coreWatchdogExpiry 0) { trapRun with runs := trapRun.runs.map fun r => { r with trap := 1, status := some 0x08 } })).runs.map
      (fun r => (r.trap, r.status)) = [(1, some 0x0D)] := by decide +kernel

theorem test_hyp_Traps :
    (∀ x, ((on kg).core x).epoch = 0) ∧ (∀ g, ((on kg).group g).st ≠ .confirming) ∧ Unit.core 0 = true ∧
    (((trapRun.core 0).run ≠ 0 ∧ trapRun.run ((trapRun.core 0).run - 1) = trapRun.runs.head?) ∧
      trapRun.runs.map (fun r => decide (r.st = .running ∧ r.status = none)) = [true] ∧ (∀ x, (trapRun.core x).epoch = 0)) ∧
    ((on kg).core 0).epoch = 0 ∧ ((on kg).coreGen 0 + 1).toNat % 512 ≠ 0 ∧ ((on kg).core 0).running = true ∧
    ((on kg).grp 0 0).used = true ∧ ((on kg).grp 0 0).live.contains 0 = true ∧
    (∀ l, l < 32 → ((on kg).grp 0 0).live.contains l = true → (((on kg).grp 0 0).th 0).pc ≤ (((on kg).grp 0 0).th l).pc) := by
  exact ⟨nget_meets (P := fun k : Core => k.epoch = 0) (by decide) (by decide), fun _ => by simp [State.group, on, State.reset, nget],
    by decide, ⟨by decide, by decide, nget_meets (P := fun k : Core => k.epoch = 0) (by decide) (by decide)⟩, by decide +kernel⟩
/-! ### Bays and HBM -/

def line0 : Line := { line := 0x1000000, kind := .home, acks := 1 }
def bay5 (b : Bay) : State := { sv with bays := [(5, b)] }
def miss0 : Miss := { line := 0x1000000, cls := 2, joiners := [{ waiter := .core 40, gen := 0 }], prefetch := false }

/-- The worked address of R202's chapter: 0x48_1234_5680 has its home line in bay 230. -/
theorem test_home_bay : State.reset.homeBay 0x4812345680 = 230 := by decide +kernel

/-- The home bay of the line. -/
def hb : Nat := sv.homeBay 0x1000000

/-- The home bay holding b. -/
def bayH (b : Bay) : State := { sv with bays := [(hb, b)] }

theorem test_bay_read_misses :
    ((out (exec (.bayReadRequest hb 0x1000000 2 .dma) sv)).bay hb).miss.map (·.line) = [0x1000000] := by decide +kernel

theorem test_hyp_BayReads :
    (Unit.cluster hb = true ∧ sv.sendsTo hb 0x1000000 2 .dma = true ∧ sv.sendsTo (hb + 1) 0x1000000 2 .dma = false ∧
      ((bayH { lines := [line0] }).bay hb).find 0x1000000 = some line0 ∧ (bayH { lines := [line0] }).sendsTo hb 0x1000000 2 .dma = true ∧
      (bayH { lines := [line0] }).asleep (partOfOff 0x1000000) = false ∧
      (sv.bay hb).find 0x1000000 = none ∧ (sv.bay hb).missOf 0x1000000 = none ∧ (sv.bay hb).miss.length < 64) ∧
    Unit.cluster 5 = true ∧ Waiter.wf (.core 22847) = true ∧ 0x1000000 < hbmEnd ∧ lineOf 0x1000000 = 0x1000000 ∧
    sv.doorAt 0x1000000 = false ∧ sv.backed 0x1000000 = true ∧ sv.asleep (partOfOff 0x1000000) = false ∧
    ((bay5 { lines := [line0] }).bay 5).find 0x1000000 = some line0 ∧ waiterOther (5 / 672) (.missEntry 700) = true ∧ Waiter.wf (.missEntry 700) = true ∧
    (sv.bay 5).find 0x1000000 = none ∧ (sv.bay 5).missOf 0x1000000 = none ∧ (sv.bay 5).miss.length < 64 := by decide +kernel

def wait0 : Wait := { waiter := .core 40, gen := 0, addr := 0x1000000, isRead := true, back := none }

theorem test_hyp_BayFills :
    ((bay5 { miss := [miss0] }).bay 5).missOf 0x1000000 = some miss0 ∧ isRemoteLine 0x1000000 = false ∧
    (∃ b, Unit.cluster b = true ∧ ({ sv with bays := [(b, { miss := [miss0] })] }).kindIn b 0x1000000 = .home ∧
      (({ sv with bays := [(b, { miss := [miss0] })] }).bay b).missOf 0x1000000 = some miss0) ∧
    (∃ j ∈ miss0.joiners, j.waiter = wait0.waiter ∧ j.gen = wait0.gen) ∧ wait0.back = none ∧ wait0.waiter ≠ .missEntry 5 :=
  ⟨by decide, by decide, ⟨sv.homeBay 0x1000000, by decide +kernel⟩, ⟨_, List.mem_singleton_self _, by decide⟩, by decide, by decide⟩

def w0 : Store := { addr := 0x1000000, bytes := [1, 2], cls := 0, fn := 0, epoch := 0, core := 0, seq := 1 }

theorem test_write_lands : nget 0 (out (exec (.homeBayWrite .queued) { sv with writes := [w0] })).mem 0x1000001 = 2 := by decide +kernel

theorem test_hyp_HomeBayWrites :
    w0.addr / 2 ^ 44 = sv.moduleId ∧ sv.doorAt 0x1000000 = false ∧ sv.backed 0x1000000 = true ∧ sv.backed 0x1000001 = true ∧
    ((svOn { k0 with stores := [w0] }).core 0).stores = [w0] ∧ w0.core = 0 ∧ w0.epoch = 0 ∧ sv.asleep (partOfOff 0x1000000) = false ∧
    sv.fillPending 0x1000000 2 = false ∧
    ({ sv with bays := [(sv.homeBay 0x1000000, { miss := [miss0] })] }).fillPending 0x1000000 2 = true := by decide +kernel

theorem test_hyp_Invalidations :
    ((bay5 { lines := [{ line0 with kind := .replica }] }).bay 5).find 0x1000000 = some { line0 with kind := .replica } ∧
    ((bay5 { lines := [line0] }).bay 5).find 0x1000000 = some line0 ∧ line0.acks ≠ 0 ∧
    (∀ e ∈ (bay5 { lines := [line0] }).bays, e.1 / 672 ≠ 5 / 672 → e.1 ∉ line0.spared → e.2.find 0x1000000 = none) := by decide +kernel

def waits (w : Wait) (k : Core) : State := { svOn k with waits := [w] }
def w4 : Wait := { wait0 with waiter := .core 0 }

theorem test_hyp_Responses :
    (waits w4 k0).waits[0]? = some w4 ∧ w4.gen = ((waits w4 k0).core 0).gen ∧ ((waits w4 k0).core 0).running = true ∧
    w4.gen ≠ ((waits w4 { k0 with gen := 3 }).core 0).gen ∧ w4.isRead = true ∧ (waits w4 k0).waking w4.addr = false ∧
    ({ w4 with back := some ([1], true) }).back = some ([1], true) := by decide +kernel

theorem test_hyp_ArrayPatrols : 8 * 12287 < kspad.spadSize ∧ kspad.spadSize ≤ 8 * 12288 := by decide

theorem test_hyp_ClusterClock : ∀ i, i < 17 → (State.reset.core (1343 * 17 + i)).idle = true := by decide

/-- The worked mapping: 0x48_1234_5680 lies in stack 4, channel 16. -/
theorem test_hbm_unit : State.reset.hbmUnit 0x4812345680 = 4 * 32 + 16 := by decide +kernel

theorem test_hyp_HbmSectors :
    sv.backed 0x1000000 = true ∧ sv.sectorChk 0x1000000 = 0 ∧ 0x1000000 = 0x40000 * 64 ∧
    ({ sv with chk := [(0x1000000, poisonMarker)] }).sectorChk 0x1000000 = poisonMarker ∧
    (∀ a ∈ sv.sectorBytes 0x1000000, (sv.bay (sv.homeBay a)).find (lineOf a) = none) := by decide +kernel

theorem test_postponed : nget 0 (out (exec (.hbmRefreshDue 15 31 1 3 true) sv)).refresh (((15 * 32 + 31) * 2 + 1) * 65536 + 3) = 1 := by
  decide +kernel

/-- The fourth postponed refresh ends the step of the engine of its channel. -/
theorem test_cut : ((out (exec (.hbmRefreshDue 15 31 1 3 true)
    { sv with refresh := [(((15 * 32 + 31) * 2 + 1) * 65536 + 3, 3)], nbs := [(15, { cur := some { run := 1, proxy := 0, seq := 0, notify := 0, tag := 0, tokenBase := 0 } })] })).nb 15).cuts =
      [31] := by decide +kernel

def chanOk : State := { sv with ctl := (offChan 3 7, 1) :: sv.ctl }
def dieOk : State := { sv with ctl := sv.ctl ++ [(offNb 0, 1)], wca1608 := true }

theorem test_hyp_HbmUpkeep :
    sv.hottest (dramNodes 15) ≤ 850 ∧ chanOk.cfld (offChan 3 7) 0 2 = 1 ∧ chanOk.cfld (offChan 3 7) 17 1 = 0 ∧
    (∃ st, Unit.stack st = true ∧ ({ sv with ctl := [(offNb st, 1)] }).nbStack st = true ∧
      ({ sv with ctl := [(offNb st, 1)] }).cfld (offNb st) 0 3 = 1 ∧ (sv.nb st).cur = none) :=
  ⟨by decide +kernel, by decide +kernel, by decide +kernel, ⟨0, by decide +kernel⟩⟩
/-! ### Near-bank units -/

/-- A kick for sequence 0 that names virtual core 7, tag 9 and token base 0. -/
def kickMsg : Msg := { srcVcore := 7, srcModule := 0, dstVcore := 5, dstModule := 0, tag := 9, payload := leBytes 2 0 ++ leBytes 2 7 ++ leBytes 2 9 ++ leBytes 10 0 }

def nbW : Tensor := { id := 1, kind := 0, fmt := 0x07, use := 0, shape := [32, 16], bytes := 1024, dataOff := 0, tableSet := 0xFFFF, base := 0x100000 }
def nbA : Tensor := { id := 2, kind := 1, fmt := 0x03, use := 0, shape := [32, 8], bytes := 512, dataOff := 0, tableSet := 0xFFFF, base := 0x200000 }
def nbO : Tensor := { id := 3, kind := 1, fmt := 0x04, use := 0, shape := [8, 16], bytes := 512, dataOff := 0, tableSet := 0xFFFF, base := 0x300000 }
def nbOp0 : NbOp := { w := 1, act := 2, out := 3, actFirst := 0, mask := 0xFF, accumulate := false }
def nbSeq0 : NbSeq := { lpart := 0, cls := 0, arg := none, ops := [nbOp0] }
def ph0 : Phase := { id := 0, partMask := 1, thinMax := 8, hasThin := true, bound := [], rowMode := [], vcs := [], seqs := [nbSeq0]
                     proxies := [some 5, none, none, none, none, none, none, none] }
def run0 : Run := { id := 1, cmd := 0, fn := 0, tag := 0, phase := 0, batch := 1, seed := 0, bindings := [], timeoutMs := 0, holdLimit := 0, spec := false
                    st := .running, thin := true, mask := 1 }
def kick0 : Kick := kickOf kickMsg 1 5

/-- Stack 0 with a thin-path run whose proxy, virtual core 5 on core 3, holds the message m. -/
def nbs (m : Msg) (x : NbStack) (st : Nat) : State :=
  { svOn k0 with
    cores := [(3, { vcore := 6, rxq := [m] })]
    img := { State.reset.img with image := some { im0 with phases := [ph0], tensors := [nbW, nbA, nbO] }, place := [(5, 4)], lpart := [(0, 1)] }
    runs := [run0]
    nbs := [(0, x)]
    ctl := (offNb 0, w64 st) :: sv.ctl }

def badKick : Msg := { kickMsg with payload := leBytes 2 1 ++ leBytes 14 0 }

theorem test_bad_kick_status :
    (out (exec (.kickTaken 0) (nbs badKick {} 1))).net.map (fun m => m.payload.head?) = [some 3] := by decide +kernel

theorem test_hyp_NearBankSequences :
    Unit.stack 0 = true ∧ (nbs kickMsg {} 1).lpartOn 0 = some 0 ∧ (nbs kickMsg {} 1).thinRun 0 = some run0 ∧
    (nbs kickMsg {} 1).phase 0 = some ph0 ∧ (ph0.proxies[0]?).join = some 5 ∧ (nbs kickMsg {} 1).placed 5 = some 3 ∧
    ((nbs kickMsg {} 1).core 3).rxq = [kickMsg] ∧ ((nbs kickMsg {} 1).core 3).overflow = [] ∧ ((nbs kickMsg {} 1).core 3).spill = [] ∧
    (nbs kickMsg {} 1).chk = [] ∧ (nbs kickMsg {} 1).nbServes 0 = true ∧ ((nbs kickMsg {} 1).nb 0).cur = none ∧
    (nbs kickMsg {} 1).kickBad kick0 kickMsg 0 = false ∧ (nbs badKick {} 1).kickBad (kickOf badKick 1 5) badKick 0 = true ∧
    ((nbs kickMsg { cur := some kick0 } 2).kickSeq kick0 = some nbSeq0 ∧
      ({ cur := some kick0, at_ := (List.range 32).map fun c => (c, 2 ^ 32) } : NbStack).finished 1 = true) := by decide +kernel

theorem test_hyp_NearBankSteps :
    let s := nbs kickMsg { cur := some kick0 } 2
    (s.nb 0).cur = some kick0 ∧ s.kickSeq kick0 = some nbSeq0 ∧ s.cfld (offNb 0) 0 3 = 2 ∧ nget 0 (s.nb 0).at_ 31 / 2 ^ 32 < nbSeq0.ops.length ∧
    (∀ i, i < 5 → (s.tnode (420 + 0 * 5 + i)).hard = false) ∧ nbOp0.accumulate = false ∧ s.chk = [] ∧ (s.nb 0).masksBad = false ∧
    (s.nb 0).acts = [] ∧ 2 * nbW.shape.getD 0 0 ≤ 262144 := by decide +kernel
/-! ### The letterbox -/

/-- A 64-byte entry: OPCODE, FLAGS, TAG, RESULT_LEN, RESULT_ADDR, then PARAMS. -/
def ent (op flags tag len addr : Nat) (ps : List Byte) : List Byte :=
  leBytes 1 op ++ leBytes 1 flags ++ leBytes 2 tag ++ leBytes 4 len ++ leBytes 8 addr ++ padTo 48 ps

def c0 (op : Nat) (ps : List Byte) : Cmd := { id := 7, fn := 0, entry := ent op 0 0x1234 64 0x20000 ps }

/-- The worked LB_RING_CFG of R354: rings of 256 entries, completions on vector 0, events on vector 1, four entries or 20 µs. -/
def fn0 : Fn := { enabled := true, bme := true, st := .running, ringCfg := 0x0014010400000808, sqBase := 0x100000, cqBase := 0x200000, cqPhase := true }

/-- The module in service with commands of function 0 in flight. -/
def lb (cs : List Cmd) : State := { sv with fns := [(0, fn0)], cmds := cs, mc := { State.reset.mc with nextCmd := 8 } }

def echo : Cmd := c0 0xF0 (leBytes 8 0x1122334455667788)

/-- R358: TAG 0x1234, status, opcode, length, then DETAIL, SQ_HEAD and the phase. -/
theorem test_completion_entry :
    rdBytes (out (exec (.echo 7) (lb [echo]))).host 0x200000 32 =
      leBytes 2 0x1234 ++ [0, 0xF0] ++ leBytes 4 48 ++ leBytes 8 0 ++ zeros 12 ++ leBytes 4 0x80000000 := by decide +kernel

theorem test_echo_bytes : rdBytes (out (exec (.echo 7) (lb [echo]))).host 0x20000 8 = leBytes 8 0x1122334455667788 := by decide +kernel

theorem test_hyp_CompletionEntry :
    (lb [echo]).cmd echo.id = some echo ∧ echo.mute = false ∧ echo.dead = false ∧ ((lb [echo]).fn 0).bme = true ∧ ((lb [echo]).fn 0).held = false ∧
    fld fn0.ringCfg 24 6 = 0 ∧ (fn0.vec 0).masked = true ∧ echo.tookSlot = false ∧ echo.resultLen = 64 ∧
    ({ fn0 with bme := false }).bme = false ∧ ({ echo with tookSlot := true }).tookSlot = true := by decide +kernel

def sq1 (e : List Byte) : State :=
  { lb [] with host := wrBytes [] 0x100000 e, fns := [(0, { fn0 with dbTail := 1 })] }

theorem test_unknown_opcode :
    ((rdBytes (out (exec (.sqEntryTaken 0) (sq1 (ent 0x99 0 5 0 0 [])))).host 0x200000 4)) = [5, 0, 2, 0x99] := by decide +kernel

theorem test_hyp_EntryTaken :
    (sq1 (ent 0x20 0 0 0 0 [])).sqTurn = some 0 ∧ (sq1 (ent 0x20 0 0 0 0 [])).hostRead 0x100000 64 = some (ent 0x20 0 0 0 0 []) ∧
    (sq1 (ent 0x20 0 0 0 0 [])).conflicts (c0 0x20 []) = false ∧ (lb []).standby = false ∧ (c0 0x20 []).badCommon = none ∧
    (c0 0x20 []).wantsSlot = false ∧ (lb []).pcie.vestibule = false ∧ (opRow 0x20).isSome = true ∧ opRow 0x99 = none ∧
    (opRow 0x40).map (·.2.1) = some true ∧
    ({ sq1 [] with hostBad := [(0x100000, 64)] }).hostRead 0x100000 64 = none ∧ (sq1 []).sqReady 0 = true := by decide +kernel

theorem test_hyp_LetterboxRegisters :
    (lb []).hostReaches 0 = true ∧ ((lb []).fn 0).st = .running ∧ (lb []).inflight 0 = 0 ∧ ((255 : W32)).toNat < fn0.sqN ∧ fn0.sqHead < fn0.sqN ∧
    fn0.dbTail = fn0.sqHead ∧ fn0.sqN ≤ (256 : W32).toNat ∧ (0 : W32).toNat < fn0.cqN ∧ (0 : W32).toNat = fn0.cqTail ∧
    bitsN (0x38 : W64).toNat 8 8 = 0 ∧ bitsN (0x38 : W64).toNat 6 1 = 0 ∧
    ({ lb [] with fns := [(0, { fn0 with st := .disabled })] }).hostReaches 0 = true := by decide +kernel

def fn1 : Fn := { fn0 with unsignalled := 3, msix := [(0, { masked := false, addr := 0x3000, data := 5 }), (1, { pending := true })] }

/-- A masked vector owes its completion interrupt, which is counted as it is sent (R365, R372). -/
theorem test_owed_interrupt :
    let s := { lb [] with fns := [(0, { fn1 with msix := [(0, { masked := true, addr := 0x3000, data := 5 })] })] }
    let t := s.signal 0
    (((t.fn 0).vec 0).owed, t.counter 0x30 0 3, (out (exec (.msixVectorUnmask 0 0) t)).counter 0x30 0 3) = (true, 0, 1) := by decide +kernel

theorem test_hyp_LetterboxInterrupts :
    fn1.unsignalled ≠ 0 ∧ fld fn1.ringCfg 48 8 ≠ 0 ∧ fld fn1.ringCfg 24 6 = 0 ∧ (fn1.vec 0).masked = false ∧ fn1.bme = true ∧
    (fn1.vec 1).pending = true ∧ (fn1.vec 1).masked = true ∧ fld ({ fn1 with ringCfg := 0x1000000 ||| fn1.ringCfg }).ringCfg 24 6 = 1 ∧ sv.pcie.l0 = true ∧
    (let c : Cmd := { c0 0x30 [] with entry := ent 0x30 4 0 0 0 [], steps := 1, started := true }
     (lb [c]).cmd c.id = some c ∧ c.progress = true ∧ opStepped c.opcode = true ∧ c.mute = false ∧ (lb [c]).inflight 0 < ((lb [c]).fn 0).freeComps) := by
  decide +kernel

theorem test_region_ready :
    let t := out (exec (.regionAllocationEnd 3 63) { sv with regions := [(3 * 64 + 63, { attr := 0x8100008000000001 })] })
    ((t.region 3 63).state, (t.region 3 63).valid) = (2, true) := by decide +kernel

theorem test_hyp_RegionTable :
    (lb []).mirrors = false ∧ (lb []).hostReaches 0 = true ∧ (lb []).standby = false ∧ ((lb []).fn 0).enabled = true ∧
    (0x8000008000000001 : W64) &&& 0x1CFFFF0F00000000 = 0 ∧ (lb []).pcie.vestibule = false ∧ (({} : Region)).state = 0 ∧ fld (0x8000008000000001 : W64) 0 32 ≠ 0 ∧
    (sv.region 0 0).state = 2 ∧ (sv.region 0 0).valid = true ∧
    (let r : Region := { attr := 0x8100008000000001 }
     r.state = 1 ∧ r.valid = true ∧ State.reset.place (fld r.attr 36 4) r.size 65536 = some 0x9000000 ∧
     ({ attr := 0x81000080FFFFFFFF } : Region).state = 1 ∧ State.reset.place 8 ({ attr := 0x81000080FFFFFFFF } : Region).size 65536 = none) ∧
    (({ attr := 0x0100008000000001 } : Region).state = 1 ∧ ({ attr := 0x0100008000000001 } : Region).valid = false) ∧
    (({ attr := 0x0200008000000001 } : Region).state = 2 ∧ ({ attr := 0x0200008000000001 } : Region).valid = false) ∧
    State.reset.regionUsed 0 0 0 = false ∧
    (let r : Region := { attr := 0x0200008000000001, base := 0x9000000 }
     r.base % 128 = 0 ∧ r.size % 128 = 0 ∧ ({ sv with regions := [(0, r)] }.region 0 0) = r ∧ sv.bays = []) := by decide +kernel

def ap : State := { sv with fns := [(0, { enabled := true, bme := true, aperture := 0x8000000000000000 })] }

theorem test_hyp_Aperture :
    ap.hostReaches 0 = true ∧ ap.writes.any (fun w => w.fn == 0) = false ∧ ap.mirrors = false ∧
    (∀ i, i < 4 → ap.apertureAt 0 (0xFFFFC + i) false = some (0x10FFFFC + i) ∧ ap.apertureAt 0 (0xFFFFC + i) true = some (0x10FFFFC + i) ∧
      ap.doorAt (0x10FFFFC + i) = false ∧ ap.asleep (partOfOff (0x10FFFFC + i)) = false ∧ ap.backed (0x10FFFFC + i) = true ∧
      ap.wordPoison (0x10FFFFC + i) = false) ∧ ap.chk = [] ∧ ap.calm = true := by decide +kernel
/-! ### Registers, runs -/

/-- A command of function 0 with this opcode and PARAMS is in flight, and no byte of PARAMS outside the listed fields is set. -/
def cf (op : Nat) (ps : List Byte) (fields : List (Nat × Nat)) : Bool :=
  decide ((lb [c0 op ps]).cmdFor 7 op = some (c0 op ps)) && decide ((c0 op ps).unused fields = [])

/-- R209: with positions 7 and 20 failed, bit 6 uses 6, bit 7 uses 8, bit 18 uses 19, bit 19 uses 21 and bit 31 uses 33. -/
theorem test_bond_of_bit :
    [6, 7, 18, 19, 31].map (bondOfBit 0x9487) = [6, 8, 19, 21, 33] ∧ bondOfBit 0 31 = 31 := by decide +kernel

theorem test_repair_write :
    (out (exec (.transomRepairWrite (.partitionController 0) 0 31 0xA1) sv)).creg (offRepair 0 31) = 0xA1 := by decide +kernel

theorem test_hyp_BondRepair :
    (0xA1 : W64) &&& 0xFFFFFFFFFFFF4040 = 0 ∧ (sv.core 0).channelFree = true ∧ repairRefused (sv.creg (offRepair 0 31)) 0xA1 = false ∧
    repairRefused (sv.creg (offRepair 0 31)) 0xA2 = true ∧ ((svOn k0).core 0).channelFree = false ∧
    (Requester.moduleController ≠ .partitionController 1) ∧ 7 < 8 := by decide +kernel

theorem test_hyp_RegisterWrites :
    (lb []).hostReaches 0 = true ∧ ({ lb [] with fns := [(0, { fn0 with st := .disabled })] }).hostReaches 0 = true ∧
    (0x0014010400000808 : W64) &&& ~~~ringRw = 0 ∧ (0x8000000000000001 : W64) &&& ~~~apertureRw = 0 ∧ ((lb []).fn 0).st ≠ .disabled ∧
    (∃ q rw, ctlRw (offRemote 7) = some (q, rw)) ∧ (0x104 : W64) &&& ctlReserved (offRemote 7) = 0 ∧ offRemote 7 < 2 ^ 32 ∧
    (ctlRw (offPwr 0) = none ∧ isReg (offPwr 0) (offRepair 0 0) 8 (22848 * 32) = false ∧ offPwr 0 < sillWindow) ∧
    (0x8000 * sv.privSteps (clusterOf (sv.windowOwner (sillWindow + 0x20000)).1) < (sv.windowOwner (sillWindow + 0x20000)).2 + 8) := by
  refine ⟨by decide, by decide, by decide, by decide, by decide, ?_, by decide +kernel, by decide +kernel, by decide +kernel, by decide +kernel⟩
  cases h : ctlRw (offRemote 7) with
  | none => exact absurd h (by decide +kernel)
  | some x => exact ⟨x.1, x.2, rfl⟩

def ph1 : Phase := { ph0 with hasThin := false, thinMax := 0, proxies := [], seqs := [], vcs := [{ vcore := 9, entry := some 16, thinEntry := none, split := 2, cls := 1, descs := [] }] }

/-- Function 0 with a command and a run of phase 0, whose virtual core 9 lies on core 2. -/
def withRun (cs : List Cmd) (rs : List Run) (k : Core) : State :=
  { lb cs with
    cores := [(2, k)], runs := rs,
    img := { State.reset.img with image := some { im0 with phases := [ph1] }, place := [(9, 3)], lpart := [(0, 1)] } }

def runCmd : Cmd := c0 0x20 (leBytes 2 0 ++ leBytes 2 1)
def run1 : Run := { id := 1, cmd := 7, fn := 0, tag := 0x1234, phase := 0, batch := 1, seed := 5, bindings := [], timeoutMs := 1, holdLimit := 0, spec := false, mask := 1 }

theorem test_hyp_RunTaken :
    let c := { runCmd with entry := ent 0x20 0 0x1234 0 0 (leBytes 2 0 ++ leBytes 2 1) }
    let s := withRun [c] [] {}
    s.cmdFor 7 0x20 = some c ∧ c.started = false ∧ s.runBad c false = [] ∧ s.phase (c.at_ 0x10 1) = some ph1 ∧ c.at_ 0x14 2 = 0 ∧
    bindingsBad [] 0 ph1.bound = [] ∧ c.resultLen = 0 ∧ ph1.bound.length = 0 ∧ s.shutAmong (s.pparts ph1.partMask) = false ∧
    ({ s with parts := [(0, { door := .absorbing })] }).shutAmong (s.pparts ph1.partMask) = true := by decide +kernel

theorem test_run_entry :
    let t := out (exec (.runLaunch 1) (withRun [{ runCmd with started := true }] [run1] {}))
    ((t.core 2).pc, (t.core 2).running, (t.core 2).csrReg 0x011) = (16, true, 65536) := by decide +kernel

theorem test_hyp_RunStarts :
    let s := withRun [{ runCmd with started := true }] [run1] {}
    s.run 1 = some run1 ∧ s.img.image = some { im0 with phases := [ph1] } ∧ run1.st = .waiting ∧ s.mayStart run1 = true ∧
    s.phase run1.phase = some ph1 ∧ s.shutAmong (s.pparts run1.mask) = false ∧ (s.pparts run1.mask).any s.asleep = false ∧
    (∀ x, x ∈ ph1.starts false false → ∃ c, s.placed x.1.vcore = some c ∧ Unit.core c = true) ∧
    ((ph1.starts false false).map fun (x : VcEntry × Nat) => s.placed x.1.vcore).Nodup ∧ (ph1.starts false false).length = 1 := by
  refine ⟨by decide +kernel, rfl, rfl, by decide +kernel, by decide +kernel, by decide +kernel, by decide +kernel, ?_, by decide +kernel, by decide +kernel⟩
  intro x hx
  have : ph1.starts false false = [({ vcore := 9, entry := some 16, thinEntry := none, split := 2, cls := 1, descs := [] }, 16)] := rfl
  rw [this, List.mem_singleton] at hx
  subst hx
  exact ⟨2, by decide +kernel, by decide +kernel⟩

theorem test_hyp_ShutterStages :
    ({ sv with ctl := (offRegionPwr 335, 7) :: sv.ctl }).cfld (offRegionPwr 335) 0 4 = 7 ∧
    ({ sv with ctl := (offRegionPwr 335, 8) :: sv.ctl }).cfld (offRegionPwr 335) 0 4 = 8 ∧ sv.cfld (offRegionPwr 335) 0 4 = 0 := by decide +kernel

theorem test_hyp_RunCompletes :
    let k : Core := { vcore := 10, run := 2, done := true }
    let c := { runCmd with started := true, tookSlot := true }
    let s := withRun [c] [{ run1 with st := .running }] k
    s.run 1 = some { run1 with st := .running } ∧ s.cmd 7 = some c ∧ s.mirrors = false ∧ s.allDone 1 = true ∧ s.unresolved 1 = false ∧
    (s.coresOf 1).all s.storesDone = true ∧ s.nbs = [] ∧ (s.resultParts run1).any s.asleep = false ∧ s.runResult run1 = .ok [] ∧
    ((withRun [c] [{ run1 with st := .stopped }] k).unresolved 1 = false ∧ s.resetHolds { run1 with st := .stopped } = false) ∧
    (withRun [c] [{ run1 with st := .held }] {}).confirmedAll 1 = true ∧ c.dead = false ∧
    (let r := { run1 with st := RunState.running, status := some 0x08, trap := 1 }
     (withRun [c] [r] k).run 1 = some r ∧ (withRun [c] [r] k).unresolved 1 = false ∧ (withRun [c] [r] k).resetHolds r = false) := by
  refine ⟨by decide +kernel, by decide +kernel, by decide +kernel, by decide +kernel, by decide +kernel, by decide +kernel, rfl,
    by decide +kernel, rfl, by decide +kernel, by decide +kernel, rfl, by decide +kernel⟩

def far0 : Tensor := { id := 0, kind := 1, fmt := 2, use := 0, shape := [8], bytes := 8, dataOff := 0, tableSet := 0xFFFF }

/-- A HELD run whose result lies in partition 7, which is SHUT. -/
def heldFar : State :=
  let r : Run := { run1 with st := .held, bindings := [{ tensor := 0, region := 0, result := true, offset := 0 }] }
  { withRun [{ runCmd with started := true }] [r] {} with
    img := { State.reset.img with image := some { im0 with tensors := [far0] } }
    regions := [(0, { attr := 0xE200000000000010, base := 7 * partBytes })], ctl := (offPwr 7, 2) :: sv.ctl }

theorem test_hyp_RunResultAsleep :
    (heldFar.run 1).map (fun r => (heldFar.resultParts r, (heldFar.resultParts r).any heldFar.asleep)) = some ([7], true) ∧
    heldFar.confirmedAll 1 = true ∧ heldFar.unusable 7 = false ∧ heldFar.pstate 7 = 2 ∧ heldFar.ptrans 7 = 0 := by decide +kernel

theorem test_run_result_wakes : (out (exec (.runCompletion 1) heldFar)).ptrans 7 = 3 := by decide +kernel

/-- A run with a trap completes with CORE_TRAP's status once its epochs are resolved. -/
theorem test_trap_completes :
    let r := { run1 with st := RunState.running, status := some 0x0C, trap := 8 }
    (rdBytes (out (exec (.runCompletion 1) (withRun [{ runCmd with started := true }] [r] { vcore := 10, run := 2 }))).host 0x200000 3) =
      [0x34, 0x12, 0x0C] := by decide +kernel

/-- A speculative run in state st with one epoch in state e. -/
def spec1 (st : RunState) (e : EpochState) : State :=
  { withRun [{ c0 0x21 [] with id := 3, started := true }, c0 0x22 (leBytes 2 0x1234)] [{ run1 with cmd := 3, st := st, spec := true }] {} with
    groups := [(0, { st := e, run := 2 })] }

theorem test_hyp_RunLimits :
    (withRun [] [{ run1 with st := .running }] { run := 2 }).run 1 = some { run1 with st := .running } ∧
    (withRun [] [{ run1 with st := .running }] { run := 2 }).confirmingOf 1 = false ∧
    (withRun [] [{ run1 with st := .running }] { run := 2 }).unresolved 1 = false ∧ (spec1 .running .confirming).confirmingOf 1 = true ∧ run1.status = none ∧ (withRun [] [] {}).nbs = [] ∧
    (spec1 .held .held).groupsOf 1 = [0] ∧ (spec1 .held .held).coresOf 1 = [] ∧ ((spec1 .held .held).group 0).st = .held := by decide +kernel

theorem test_hyp_SpeculativeRequests :
    let c := c0 0x22 (leBytes 2 0x1234)
    let x : Cmd := { c0 0x21 [] with id := 3, started := true }
    c.unused [(0x10, 2)] = [] ∧ (spec1 .held .held).cmdFor 7 0x22 = some c ∧ (spec1 .held .held).target c = some x ∧ x.opcode = 0x21 ∧
    (spec1 .held .held).runOf x = some { run1 with cmd := 3, st := .held, spec := true } ∧
    (spec1 .held .held).liveGroups 1 ≠ [] ∧ cf 0x23 (leBytes 2 0x1234) [(0x10, 2)] = true ∧ cf 0x24 (leBytes 2 0x1234) [(0x10, 2)] = true ∧
    (lb [c0 0x24 (leBytes 2 0x1234)]).target (c0 0x24 (leBytes 2 0x1234)) = none ∧
    opCancellable 0x21 = true ∧ opCancellable 0x30 = true ∧
    (lb [{ c0 0x30 [] with id := 3, started := true }, c0 0x24 (leBytes 2 0x1234)]).target (c0 0x24 (leBytes 2 0x1234)) =
      some { c0 0x30 [] with id := 3, started := true } ∧
    (lb [{ c0 0x30 [] with id := 3, started := true }]).runOf { c0 0x30 [] with id := 3 } = none := by decide +kernel
/-! ### Memory commands, resets, regulation -/

/-- COPY of 8 bytes from host address 0x40000 to offset 0xFFFF8 of region 0. -/
def copyCmd : Cmd := c0 0x30 ([0, 1, 0, 0] ++ zeros 4 ++ leBytes 8 8 ++ leBytes 8 0x40000 ++ leBytes 8 0xFFFF8)
/-- FILL of offset 0 to 16 of region 0 with a pattern. -/
def fillCmd : Cmd := c0 0x31 ([0] ++ zeros 7 ++ leBytes 8 0x8877665544332211 ++ leBytes 8 8 ++ leBytes 8 16)
def withHost : State := { lb [copyCmd] with host := wrBytes [] 0x40000 [1, 2, 3, 4, 5, 6, 7, 8] }

theorem test_copy_last_byte : nget 0 (out (exec (.copy 7) withHost)).mem 0x10FFFFF = 8 := by decide +kernel

theorem test_fill_pattern : nget 0 (out (exec (.fill 7) (lb [fillCmd]))).mem 0x1000009 = 0x22 := by decide +kernel

theorem test_hyp_MemoryMoves :
    withHost.cmdFor 7 0x30 = some copyCmd ∧ withHost.copyBad copyCmd = [] ∧ copyCmd.span = 8 ∧ (withHost.moveParts copyCmd).any withHost.asleep = false ∧
    withHost.mirrors = false ∧ withHost.copyOverlaps copyCmd = false ∧ withHost.calm = true ∧ withHost.bays = [] ∧ withHost.moveWaits copyCmd 0 8 = false ∧
    (lb [fillCmd]).moveWaits fillCmd 0 16 = false ∧ (lb [fillCmd]).calm = true ∧
    (∀ i, i < 8 → withHost.moveStop copyCmd i = none ∧ ∀ a, a ∈ withHost.touches copyCmd i → withHost.backed a = true) ∧
    (lb [fillCmd]).cmdFor 7 0x31 = some fillCmd ∧ (lb [fillCmd]).fillBad fillCmd = [] ∧ fillCmd.span = 16 ∧
    (∀ i, i < 16 → (lb [fillCmd]).moveStop fillCmd i = none) := by decide +kernel

def scrubPs (a n : Nat) : List Byte := zeros 8 ++ leBytes 8 a ++ leBytes 8 n

theorem test_hyp_Scrubbing :
    cf 0x32 (scrubPs 0x1000000 64) [(0x18, 16)] = true ∧ (c0 0x32 (scrubPs 0x1000000 64)).at_ 0x18 8 = 0x1000000 ∧
    (c0 0x32 (scrubPs 0x1000000 64)).at_ 0x20 8 = 64 ∧ 0x1000000 + 64 ≤ hbmEnd ∧ (partsOf [(0x1000000, 64)]).any sv.asleep = false ∧
    sv.doorAt 0x1000000 = false ∧ sv.backed 0x1000000 = true ∧ rsDecode (chkErrors (sv.sectorChk 0x1000000)) = .clean ∧
    (∃ x y, rsDecode (chkErrors 1) = .corrected x y) := by
  refine ⟨by decide +kernel, by decide +kernel, by decide +kernel, by decide, by decide +kernel, by decide, by decide +kernel, by decide +kernel, ?_⟩
  cases h : rsDecode (chkErrors 1) with
  | corrected x y => exact ⟨x, y, rfl⟩
  | clean => exact absurd h (by decide +kernel)
  | poison => exact absurd h (by decide +kernel)
  | uncorrectable => exact absurd h (by decide +kernel)

def pinPs : List Byte := [0, 0, 1, 0] ++ zeros 4 ++ leBytes 8 0 ++ leBytes 8 128
def pinned : State := { lb [c0 0x33 pinPs] with bays := [(sv.homeBay 0x1000000, { lines := [line0] })] }

theorem test_hyp_Pins :
    pinned.pinRange (c0 0x33 pinPs) = ([], 0, 0x1000000, 128) ∧ cf 0x33 pinPs [(0x10, 3), (0x14, 20)] = true ∧
    (pinned.fn 0).pins.length < 64 ∧ (partsOf [(0x1000000, 128)]).any pinned.asleep = false ∧ pinned.regionMay (c0 0x33 pinPs) 0 false = true ∧
    blocksOf 128 0x1000000 128 = [0x1000000] ∧ pinned.doorAt 0x1000000 = false ∧
    ((pinned.bay (pinned.homeBay 0x1000000)).find 0x1000000).isSome = true ∧ pinned.capUsed (pinned.homeBay 0x1000000) 0x1000000 + 1 ≤ 12 ∧
    pinned.backed 0x1000000 = true ∧ ((pinned.bay (pinned.homeBay 0x1000000)).lines.map fun l => l.line).Nodup ∧
    (c0 0x33 pinPs).started = false ∧ (c0 0x33 pinPs).amount = 0 ∧ (pinned.fn 0).pins = [] ∧
    (let ps : List Byte := [0, 0, 0, 0] ++ zeros 4 ++ leBytes 8 0 ++ leBytes 8 128
     cf 0x34 ps [(0x10, 2), (0x14, 20)] = true ∧ (lb [c0 0x34 ps]).pinRange (c0 0x34 ps) = ([], 0, 0x1000000, 128)) := by decide +kernel

theorem test_hyp_SlotsAndEcho :
    cf 0x28 [255] [(0x10, 1)] = true ∧ (c0 0x28 [255]).at_ 0x10 1 = 255 ∧ ((lb []).fn 0).slot 255 = {} ∧
    ({ fn0 with slots := [(255, { st := 2 })] }.slot 255).st = 2 ∧ ({ fn0 with slots := [(255, { st := 1 })] }.slot 255).st = 1 ∧
    cf 0xF0 [1] [(0x10, 48)] = true := by decide +kernel

/-- A reset command for virtual core n on core 5, or virtual cluster n. -/
def rst (op n : Nat) (d : DoorState) : State :=
  { lb [c0 op (leBytes 2 n)] with
    parts := [(0, { door := d })], cores := [(5, { vcore := 1, s := [(1, 9)], running := true })],
    img := { State.reset.img with image := some im0, place := [(0, 6)] } }

theorem test_reset_core : ((out (exec (.resetCore 7) (rst 0x50 0 .open_))).core 5).s = [] := by decide +kernel

theorem test_hyp_CoreResets :
    let s := rst 0x50 0 .open_
    (∀ g, (s.group g).st = .idle) ∧ Unit.core 5 = true ∧ (∀ x, x < 17 → (s.core x).run = 0) ∧ s.img.image = some im0 ∧ s.asleep (partOf 5) = false ∧
    s.doorShut (partOf 5) = false ∧ (c0 0x50 (leBytes 2 0)).unused [(0x10, 2)] = [] ∧ s.cmdFor 7 0x50 = some (c0 0x50 (leBytes 2 0)) ∧
    0 < im0.vcores ∧ s.placed 0 = some 5 ∧ (rst 0x51 0 .open_).cmdFor 7 0x51 = some (c0 0x51 (leBytes 2 0)) ∧
    (∀ x, x < 17 → partOf x = partOf 5) ∧ (rst 0x50 0 .absorbing).doorShut (partOf 5) = true ∧ s.runs = [] ∧ s.nbs = [] ∧
    (let s := { rst 0x50 0 .open_ with cores := [(5, { vcore := 1, running := true, run := 2 })], runs := [{ run1 with st := .running }] }
     (s.core 5).run = 1 + 1 ∧ s.run 1 = some { run1 with st := .running } ∧ run1.status = none ∧ s.nbs = [] ∧ s.asleep (partOf 5) = false ∧
       s.groups = []) :=
  ⟨fun _ => rfl, by decide +kernel⟩

theorem test_hyp_PartitionResets :
    cf 0x52 [7, 1] [(0x10, 2)] = true ∧ ((sv.part 7).resetting = false ∧ sv.unusable 7 = false ∧ sv.asleep 7 = false) ∧
    (∀ g, g ∈ sv.groupsOn 7 → (sv.group g).st ≠ .confirming) ∧ Unit.cluster 1343 = true ∧ partOfCluster 1343 = 7 ∧ (sv.bay 1343).miss = [] ∧
    ({ sv with parts := [(7, { door := .absorbing, resetting := true, resetCmd := 8 })] }.part 7).resetCmd = 7 + 1 ∧
    (lb [c0 0x52 [7, 1]]).cmd 7 = some (c0 0x52 [7, 1]) := by decide +kernel

theorem test_hyp_ProgressMonitors :
    sv.unusable 7 = false ∧ (sv.part 7).resetting = false ∧ (sv.part 7).misses < 2 ∧
    2 ≤ ({ sv with parts := [(7, { misses := 2 })] }.part 7).misses ∧ sv.cfld (offPwr 7) 8 4 ≠ 3 ∧
    (let c : Cmd := { copyCmd with started := true }
     (lb [c]).cmd c.id = some c ∧ c.began = true ∧ (lb [c]).mayBegin c = true ∧ c.opcode ≠ 0x52 ∧ opShared c.opcode = false ∧ c.opcode ≠ 0x70) ∧
    (let c : Cmd := { c0 0x52 [7] with started := true }
     c.began = true ∧ c.opcode = 0x52) ∧ opShared 0x12 = true := by decide +kernel

theorem test_hyp_Dumps :
    cf 0x54 ([7] ++ zeros 7 ++ leBytes 8 2) [(0x10, 1), (0x18, 8)] = true ∧ (c0 0x54 [7]).at_ 0x10 1 < 8 ∧ (sv.part 7).dump = none ∧
    ({ sv with parts := [(7, { dump := some [1, 2, 3] })] }.part 7).dump = some [1, 2, 3] := by decide +kernel

/-- The worked class table of R344: minimums 2,400, 2,000 and 1,600 GB/s of partition 3, which delivers 6,553. -/
def table344 : List Byte :=
  leBytes 2 2400 ++ zeros 6 ++ leBytes 2 2000 ++ zeros 6 ++ leBytes 2 1600 ++ zeros 46 ++ zeros 16
def setTable : State := { lb [c0 0x40 ([8] ++ zeros 7 ++ leBytes 8 0x40000)] with host := wrBytes [] 0x40000 table344 }

theorem test_applied_minimums :
    (List.range 3).map (fun k => (out (exec (.setClassTable 7) setTable)).cfld (offClass 3 k) 16 16) = [2359, 1965, 1572] := by decide +kernel

theorem test_scale : (out (exec (.setClassTable 7) setTable)).cfld (offRegMode 3) 16 9 = 0xFB := by decide +kernel

/-- The worked quota of R344: 14 lines of 64 bytes for each of 2,560 core louvres. -/
theorem test_quota : quotaOf 2359 0 2560 = 896 := by decide

theorem test_hyp_Regulation :
    cf 0x40 ([8] ++ zeros 7 ++ leBytes 8 0x40000) [(0x10, 1), (0x18, 8)] = true ∧ setTable.hostRead 0x40000 80 = some table344 ∧
    classTableBad table344 = [] ∧ cf 0x41 [0xFF, 1] [(0x10, 2)] = true ∧ ({ sv with ctl := (offRegMode 7, 0x0000199901000000) :: sv.ctl }).regMode 7 = 0 ∧
    ({ sv with ctl := (offRegMode 7, 0x0000199901000001) :: sv.ctl }).regMode 7 = 1 ∧ (sv.louvre 45728).mode = 2 ∧
    (({ mode := 0 } : Louvre).mode = 0) ∧ sv.cfld (offClass (louvrePart 45728) 0) 0 16 = 0 := by decide +kernel

theorem test_hyp_RegulatorCells :
    let s := { sv with power := { sv.power with rails := true } }
    s.power.rails = true ∧ s.tier 335 = cellCount (s.cfld (offRegionPwr 335) 16 4) ∧ cellCount (s.cfld (offRegionPwr 335) 16 4) < 3 ∧
    cellCount (0 ||| 8) < 3 ∧ s.lpartOn (partOfCluster ((clustersOfRegion 335).headD 0)) = none ∧
    s.resetWaits (coresOfRegion 335) = false := by decide +kernel
/-! ### Power and bring-up -/

/-- sv with register values in front of its own. -/
def reg (l : List (Nat × W64)) : State := { sv with ctl := l ++ sv.ctl }

/-- sv with its rails up and other supplies. -/
def pw (f : Power → Power) : State := { sv with power := f sv.power }

theorem test_hyp_RegionLimiter :
    let s := { sv with cores := [(22847, k0)] }
    s.power.rails = true ∧ 22847 ∈ coresOfRegion 335 ∧ s.limitOf 335 = 200 ∧ (s.core 22847).running = true ∧ (s.core 22847).withheld = false ∧
    95 * 200 < 100 * 191 ∧ 100 * 179 < 90 * 200 ∧ ¬ 95 * 200 < 100 * 190 := by decide +kernel

theorem test_bus_converter : (out (exec (.busConverterFailure 3) sv)).cfld offSupply 4 4 = 7 := by decide +kernel

theorem test_hyp_TowerGovernor :
    sv.power.rails = true ∧ (pw fun p => { p with boostOpen := true }).power.boostOpen = true ∧ sv.towerHot 1 = false ∧
    sv.cfld offSupply (4 + 3) 1 = 1 ∧ sv.cfld offSupply 4 4 = 15 ∧ (reg [(offSupply, 0x90)]).cfld offSupply (4 + 3) 1 = 1 ∧
    (reg [(offSupply, 0x90)]).cfld offSupply 4 4 ≠ 15 ∧ sv.power.boostOpen = false := by decide +kernel

def down0 : State := { State.reset with power := { State.reset.power with vstby := false } }

theorem test_hyp_BringupStart :
    down0.power.vstby = false ∧ down0.power.descent = 0 ∧ down0.power.rails = false ∧ down0.therm.tripped = false ∧
    nget 0 down0.sec.active 1 < 2 ∧ down0.slotOk 1 (nget 0 down0.sec.active 1) = true ∧
    ({ down0 with therm := { down0.therm with tripped := true } }).therm.tripped = true ∧
    (∃ m, ({ down0 with sec := { down0.sec with fw := [(2, { full := false }), (3, { full := false })] } }).slotOk 1 m = false ∧
      ({ down0 with sec := { down0.sec with fw := [(2, { full := false }), (3, { full := false })] } }).slotOk 1 (1 - m) = false) ∧
    (let s := { State.reset with power := { State.reset.power with mainEn := true } }
     s.stage = 1 ∧ s.power.mainEn = true ∧ s.power.descent = 0 ∧ s.power.rails = false) := by
  refine ⟨rfl, rfl, rfl, rfl, by decide +kernel, by decide +kernel, rfl, ⟨0, by decide +kernel, by decide +kernel⟩, by decide +kernel⟩

def stage (n : Nat) (p : Power → Power) : State :=
  { State.reset with ctl := [(offBringup, w64 n)], power := p { State.reset.power with mainEn := true } }

theorem test_hyp_BringupStages :
    (stage 1 id).stage = 1 ∧ (stage 1 id).power.mainEn = true ∧ (stage 1 id).power.viob = true ∧
    (∀ k, k = 2 ∨ k = 4 → nget 0 (stage 1 id).sec.active k < 2 ∧ (stage 1 id).slotOk k (nget 0 (stage 1 id).sec.active k) = true) ∧
    (stage 3 id).stage = 3 ∧ (stage 4 id).stage = 4 ∧ (stage 5 id).stage = 5 ∧ (stage 5 id).power.tested = false ∧ (stage 3 id).mc.defects = [] ∧
    (stage 4 id).slotOk 5 (nget 0 (stage 4 id).sec.active 5) = true ∧ (stage 5 id).usableParts ≠ [] := by
  refine ⟨by decide +kernel, rfl, rfl, ?_, by decide +kernel, by decide +kernel, by decide +kernel, rfl, rfl, by decide +kernel, by decide +kernel⟩
  rintro k (rfl | rfl) <;> exact by decide +kernel

/-- The rails' loss advances the generation of every core (R502). -/
theorem test_generations : (svOn { gen := 3 }).volatileLost.coreGen 0 = 4 ∧ (svOn { gen := 3 }).volatileLost.coreGen 7 = 1 := by decide +kernel

theorem test_hyp_SupplyEvents :
    (sv.cores.map fun (e : Nat × Core) => e.1).Nodup ∧
    sv.power.viob = true ∧ sv.power.mainPg = true ∧ sv.power.mainEn = true ∧ sv.power.vmain = true ∧ sv.power.vstby = true ∧ sv.stage = 6 ∧
    (stage 5 fun p => { p with mainPg := true }).stage < 6 ∧ State.reset.power.mainEn = false ∧ State.reset.power.vmain = false ∧
    (sv.fn 0).enabled = true := by decide +kernel

theorem test_hyp_ModuleReset :
    cf 0x53 [1] [(0x10, 1)] = true ∧ (pw fun p => { p with resetPending := some true }).power.resetPending = some true ∧
    sv.power.resetPending = none ∧ sv.power.descent = 0 ∧ (pw fun p => { p with descent := 1, after := 1 }).power.after = 1 ∧
    sv.slotOk 1 (nget 0 sv.sec.active 1) = true ∧ (pw fun p => { p with descent := 2 }).power.after = 0 := by decide +kernel

theorem test_shut_clears : ((out (exec (.shutEntryDone 0) { svOn { s := [(1, 9)] } with ctl := [(offPwr 0, 0x200)] })).core 0).s = [] := by decide +kernel

theorem test_hyp_PartitionPower :
    (reg [(offPwr 7, 0x100)]).ptrans 7 = 1 ∧ (reg [(offPwr 7, 0x200)]).ptrans 7 = 2 ∧ (reg [(offPwr 7, 0x302)]).ptrans 7 = 3 ∧
    ((reg [(offPwr 7, 0x302)]).part 7).wakeTo < 3 ∧ sv.ptrans 7 = 0 ∧ sv.idlePeriod 7 = true ∧ sv.pstate 7 = 0 ∧ (sv.part 7).ajarIdle ≠ 0 ∧
    ({ sv with parts := [(7, { shutIdle := 9 })] }.part 7).shutIdle ≠ 0 ∧ sv.refuser 7 2 = none ∧ (reg [(offPwr 7, 0x200)]).bays = [] ∧
    (let s := { sv with cores := [(22847, { k0 with vcore := 1 })], img := { State.reset.img with place := [(0, 22848)], lpart := [(0, 8)] }
                        runs := [{ run1 with st := .running }] }
     s.refuser 7 2 = some 1) := by decide +kernel

theorem test_hyp_PowerCommands :
    cf 0x48 [0, 0, 1] [(0x10, 3)] = true ∧ (∀ p, p ∈ sv.usableParts → sv.ptrans p = 0) ∧ sv.usableParts ≠ [] ∧
    (∃ p, p ∈ sv.usableParts ∧ (reg [(offPwr 7, 1)]).pstate p ≠ 0) ∧ (∀ p, p ∈ sv.usableParts → sv.pstate p = 0) ∧
    sv.firstRefusal sv.usableParts 1 false = none ∧ sv.firstRefusal sv.usableParts 3 true = none ∧ cf 0x48 [1, 0x80, 2] [(0x10, 3)] = true ∧
    ({ sv with runs := [{ run1 with st := .running }], img := { State.reset.img with lpart := [(0, 8)] } }).firstRefusal [7] 2 false = some (7, 1) ∧
    cf 0x49 ([255] ++ zeros 3 ++ leBytes 8 7) [(0x10, 1), (0x14, 8)] = true ∧
    (let s := reg ((List.range 8).map fun p => (offPwr p, 2))
     s.pcie.l0 = true ∧ s.cfld offPwrModule 2 1 = 0 ∧ (∀ p, p ∈ s.usableParts → s.pstate p = 2 ∧ s.ptrans p = 0) ∧ s.moduleRefuser 2 = none) ∧
    (reg [(offPwrModule, 6)]).cfld offPwrModule 2 1 = 1 := by
  refine ⟨by decide +kernel, by decide +kernel, by decide +kernel, ⟨7, by decide +kernel, by decide +kernel⟩, by decide +kernel, by decide +kernel,
    by decide +kernel, by decide +kernel, by decide +kernel, by decide +kernel, by decide +kernel, by decide +kernel⟩
/-! ### Links and temperatures -/

theorem test_hyp_FunctionResets :
    (lb []).hostReaches 0 = true ∧ ({ lb [] with fns := [(15, { fn0 with d3 := true })] }.fn 15).d3 = true ∧
    ({ lb [] with fns := [(15, fn0)] }.fn 15).enabled = true ∧ sv.pcie.l0 = true ∧ sv.pcie.vfs = 0 ∧ sv.pcie.ari = true := by decide +kernel

theorem test_hyp_BusMasterEnable :
    ((lb []).fn 0).bme = true ∧
    (let x : Fn := { fn0 with bme := false, held := true, heldComps := [echo.comp 0 0 0] }
     ({ lb [] with fns := [(0, x)] }).hostReaches 0 = true ∧ x.bme = false ∧ x.cqTail < x.cqN) := by decide +kernel

theorem test_hyp_PcieLink :
    (lb []).hostReaches 0 = true ∧ ((lb []).fn 0).st = .running ∧ (lb []).inflight 0 = 0 ∧
    (pw fun p => { p with perst := true }).power.epReady = true ∧ sv.power.viob = true ∧ sv.power.perst = false ∧
    ({ sv with pcie := { sv.pcie with training := true } }).pcie.training = true ∧ sv.pcie.training = false := by decide +kernel

theorem test_hyp_Knocks :
    (0x4B4E0080 : W32).toNat / 256 = 0x4B4E00 ∧ sv.stage = 6 ∧ sv.pcie.l0 = true ∧ (0x4B4E0080 : W32).toNat.testBit 7 = true ∧
    sv.unusable 7 = false ∧ (reg [(offPwr 7, 2)]).ptrans 7 = 0 ∧ (reg [(offPwr 7, 2)]).pstate 7 ≠ 0 ∧
    (reg [(offPwrModule, 2)]).cfld offPwrModule 0 2 ≠ 0 ∧ sv.cfld offPwrModule 0 2 = 0 ∧ (0x4B4F0080 : W32).toNat / 256 ≠ 0x4B4E00 ∧
    (reg [(offPort 15, 4)]).cfld (offPort 15) 0 3 = 4 ∧ sv.cfld (offPort 15) 0 3 ≠ 4 := by decide +kernel

/-- A peer of module 3 in the same domain, with the given lanes. -/
def peer (l : BitVec 4) : TrainResult := { peerPresent := true, lanes := l, peerDomain := 0, peerId := 3 }

theorem test_half_width : (out (exec (.seunonTrainingDone 15 (peer 0xC)) (reg [(offPort 15, 1)]))).cfld (offPort 15) 0 3 = 3 := by decide +kernel

/-- The port's loss takes the lines of other modules out of the bays (R236). -/
theorem test_port_down : ((out (exec (.seunonPortDown 15)
    { reg [(offPort 15, 2)] with bays := [(3, { lines := [{ line0 with kind := .remote }] })] })).bay 3).lines = [] := by decide +kernel

theorem test_hyp_SeunonPorts :
    (reg [(offPort 15, 1)]).cfld (offPort 15) 0 3 = 1 ∧
    (let good := (0xB : BitVec 4) &&& ~~~(BitVec.ofNat 4 ((reg [(offPort 15, 1)]).cfld (offPort 15) 8 4))
     good &&& 3 = 3 ∧ good ≠ 0xF) ∧
    (peer 0xF).peerDomain = (reg [(offPort 15, 1)]).cfld offSeunonId 16 32 ∧ (peer 0xF).peerId ≠ sv.moduleId ∧
    (reg [(offPort 15, 2)]).portLive 15 = true ∧ sv.portLive 15 = false ∧ (sv.link (linkOfPort 15)).retries < 16 ∧
    (let s := { reg [(offPort 15, 2)] with bays := [(3, { lines := [{ line0 with kind := .remote }] })] }
     s.portLive 15 = true ∧ (s.bays.map fun (e : Nat × Bay) => e.1).Nodup ∧ (∀ e, e ∈ s.bays → ∀ l, l ∈ e.2.lines → l.kind = .remote → l.dirty = false)) ∧
    (sv.link 83).retired = false ∧ ({ sv with links := [(83, { retired := true })] }.link 83).retired = true := by decide +kernel

def rreq (target off : Nat) (d : Option (List Byte)) : RemoteReq := { requester := 0, fn := 0, cls := 2, target := target, off := off, len := 8, data := d }

theorem test_hyp_RemoteRequests :
    let s := reg [(offPort 15, 2)]
    s.cfld (offPort 15) 0 3 = 2 ∧ s.moduleId = 0 ∧ s.remoteMay (rreq 0 0x10FFFF8 (some [1])) = true ∧ s.remoteMay (rreq 0 0x1000000 none) = true ∧
    s.doorAt 0x10FFFF8 = false ∧ (blocksOf 128 0x10FFFF8 8).any s.homeBusy = false ∧ s.chk = [] ∧ s.asleep (partOfOff 0x10FFFF8) = false ∧ s.remoteMay (rreq 0 0x10FFFFC none) = false ∧ s.reachable 4095 = false ∧
    (reg [(offPort 15, w64 (2 + 5 * 2 ^ 32))]).reachable 5 = true := by decide +kernel

theorem acting_sv (n : Nat) : sv.acting n = 250 := rfl

def hot (n : Nat) (x : ThermNode) : State := { sv with therm := { sv.therm with nodes := [(n, x)] } }

/-- A throttled sill node holds back each of the four regions above it (R486): node 419 lies below region 335. -/
theorem test_region_limit : (hot 419 { throttle := true }).nextLimit 335 = 190 ∧ (hot 419 { hard := true }).nextLimit 322 = 80 := by decide +kernel

theorem test_hyp_ThermalActions :
    sv.power.vmain = true ∧ State.reset.power.vmain = false ∧ ({ State.reset with power := { State.reset.power with vstby := false } }).power.vstby = false ∧
    ((hot 599 { disagree := true }).tnode 599).disagree = true ∧ ((hot 599 { disagree := true }).tnode 599).gap ≤ 40 ∧
    ((hot 599 { sensors := [(1, { value := 300 })] }).tnode 599).sensor 1 = some { value := 300 } ∧
    ((hot 599 { sensors := [(1, { value := 300, failed := true })] }).tnode 599).sensorFailed 1 = true := by decide +kernel

theorem test_trip_pin : (out (exec (.diodeComparatorTrip 419) sv)).power.thermtripN = true := by decide +kernel

theorem test_hyp_ThermalTrip :
    sv.therm.tripped = false ∧ sv.stage = 6 ∧ (stage 5 id).stage < 6 ∧ cf 0x79 [] [] = true ∧ (∃ n, n < 600 ∧ 700 ≤ (hot 599 { model := 700 }).acting n) ∧
    (∀ n, n < 600 → sv.acting n < 700) ∧ cf 0x78 [3] [(0x10, 4)] = true :=
  ⟨rfl, by decide +kernel, by decide +kernel, by decide +kernel, ⟨599, by decide +kernel, by decide +kernel⟩,
    fun n _ => by rw [acting_sv]; decide, by decide +kernel⟩

theorem test_hyp_ThermalCycles :
    let s := { sv with img := { sv.img with lpart := (List.range 8).map fun l => (l, l + 1) } }
    State.reset.power.rails = false ∧ s.power.rails = true ∧ (∀ k, k < 4 → s.lpartOn (4 * 1 + k) ≠ none) := by decide +kernel
/-! ### Images and service -/

/-- A small valid image as one little-endian number: one virtual core with one program word, one stream program, one tensor of 64 bytes,
one phase. Its digests were computed outside the model. -/
def imageNum : Nat :=
  0x01000000010000000100000006000000000000601000000001010000014d4941484f524843 <<< 0 +
  0x100f0e0d0c0b0a090807060504030201 <<< 384 +
  0x01 <<< 2048 +
  0xf8e1429f158ab2879398ad7140651e6b084f19a7eec370cd27e93ec4998acec2000000000000006800000000000010 <<< 2120 +
  0x02 <<< 2560 +
  0xb44c3ee84a2d67cf5fdfe41e066994fb31a079a019c102868ebb6ca9c89b6eef000000000000008800000000000020 <<< 2632 +
  0x03 <<< 3072 +
  0xcabd05baf8457caa44e5f0feaddddace7430f8784d21d3eb403c461f5b08a374000000000000004000000000000030 <<< 3144 +
  0x05 <<< 3584 +
  0x081115d9d17c448c3a601198cf7f759c8f9ea2c9cd5826bd620371f3acb9eafd000000000000004000000000000040 <<< 3656 +
  0x06 <<< 4096 +
  0x5d9efe5c338d3bffededdb5d51ece84b6c2815d3c8170cf00e70f764e466a4f9000000000000017000000000000050 <<< 4168 +
  0xff <<< 4608 +
  0xbb37ec28ab2a63253b7a31ecf73c6d6f28d26cd575c89e97d59d71f7ff084737000000000000001000000000000060 <<< 4680 +
  0x0100000001 <<< 32768 +
  0x010000000000000060 <<< 33408 +
  0x01 <<< 65536 +
  0x0100000080 <<< 66048 +
  0x400100080000000007 <<< 98304 +
  0x40 <<< 98560 +
  0xffff <<< 98688 +
  0x3f3e3d3c3b3a393837363534333231302f2e2d2c2b2a292827262524232221201f1e1d1c1b1a191817161514131211100f0e0d0c0b0a090807060504030201 <<< 131080 +
  0x01 <<< 163840 +
  0xf00000000000000080 <<< 164352 +
  0x5000000050000000000000004000000000000001 <<< 164872 +
  0x40 <<< 165472

def imageLen : Nat := 0x6010

/-- Byte o of it. -/
def imageRaw (o : Nat) : Byte := BitVec.ofNat 8 (imageNum >>> (8 * o))

def imageByte : Nat → Byte := fun o => if o < imageLen then imageRaw o else 0

def staged : State :=
  { lb [c0 0x12 []] with
    mem := wrBytes [] 0x9000000 ((List.range imageLen).map imageRaw)
    img := { State.reset.img with session := some (imageLen, [(0x9000000, imageLen)]) } }

theorem staged_bytes (s : State) (f : Nat → Byte) (b n : Nat) (h : s.mem = wrBytes [] b ((List.range n).map f)) :
    s.stagedImage [(b, n)] = fun o => if o < n then f o else 0 := by
  funext o
  unfold State.stagedImage pieceAddr
  by_cases ho : o < n
  · simp only [ho, if_true, h]
    rw [nget_wrBytes, if_pos ⟨by omega, by simpa using ho⟩, show b + o - b = o by omega]
    simp [ho]
  · simp [ho, pieceAddr]

theorem staged_reads : staged.stagedImage [(0x9000000, imageLen)] = imageByte :=
  staged_bytes staged imageRaw 0x9000000 imageLen (by simp only [staged])

theorem image_passes : imageBad imageByte imageLen = none := by decide +kernel

/-- The module has room for the image. -/
theorem image_fits : (State.placeImage (staged.rehome (fun _ => true) (fun x => x)) (readImage imageByte imageLen)).isSome = true := by
  decide +kernel

theorem test_hyp_ImageCommit :
    (c0 0x12 []).unused [] = [] ∧ staged.cmdFor 7 0x12 = some (c0 0x12 []) ∧ staged.img.session = some (imageLen, [(0x9000000, imageLen)]) ∧
    (∀ p, p ∈ staged.usableParts → staged.doorShut p = false ∧ staged.asleep p = false) ∧
    (∀ x, x ∈ [(0x9000000, imageLen)] → staged.rangePoison x.1 x.2 = false) ∧
    imageBad (staged.stagedImage [(0x9000000, imageLen)]) imageLen = none ∧
    staged.sigReason (staged.stagedImage [(0x9000000, imageLen)]) imageLen = 0 ∧
    (∃ x, State.placeImage (staged.rehome (fun _ => true) (fun x => x)) (readImage (staged.stagedImage [(0x9000000, imageLen)]) imageLen) = some x) ∧
    ({ staged with sec := { staged.sec with owner := true } }.sigReason imageByte imageLen ≠ 0) ∧
    imageBad (fun _ => 0) 256 = some 0 ∧ { staged with chk := [(0x9000000, poisonMarker)] }.rangePoison 0x9000000 64 = true ∧
    cf 0x13 [] [] = true ∧ (lb []).img.image = none ∧ (withRun [] [] {}).img.image ≠ none ∧ (withRun [] [run1] {}).anyRun = true ∧
    (withRun [] [] {}).anyRun = false ∧ (withRun [] [] {}).anyHeld = false := by
  rw [staged_reads]
  refine ⟨by decide +kernel, by decide +kernel, rfl, by decide +kernel, ?_, image_passes, by decide +kernel, Option.isSome_iff_exists.1 image_fits,
    by decide +kernel, by decide +kernel, by decide +kernel, by decide +kernel, by decide +kernel, by decide +kernel, by decide +kernel,
    by decide +kernel, by decide +kernel⟩
  intro x hx
  rw [List.mem_singleton.1 hx]
  decide +kernel

theorem test_hyp_Queries :
    cf 1 [] [] = true ∧ (c0 1 []).fn < 16 ∧ cf 2 [] [(0x10, 1), (0x18, 8)] = true ∧ cf 2 [1] [(0x10, 1), (0x18, 8)] = true ∧
    ({ c0 2 [1] with fn := 15 }).fn ≠ 0 ∧ ({ c0 2 [1] with fn := 15 }).at_ 0x10 1 ≠ 0 ∧ cf 3 [1] [(0x10, 4)] = true ∧
    (withRun [] [] {}).img.image = some { im0 with phases := [ph1] } ∧ 0 + 15 < im0.vcores := by decide +kernel

theorem test_hyp_CounterReads :
    cf 4 [0x01, 0, 0, 0, 0x3F, 0x59, 0, 0] [(0x10, 2), (0x14, 4)] = true ∧ (c0 4 [0x01, 0, 0, 0, 0x3F, 0x59, 0, 0]).at_ 0x14 4 = 22847 ∧
    22847 < famUnits 0x01 ∧ (sv.ctr.map fun (e : Nat × W64) => e.1).Nodup ∧ (sv.cores.map fun (e : Nat × Core) => e.1).Nodup ∧
    ctrOpen 0x01 7 = false ∧ 7 < (famSpan 0x01 22847).2 ∧ ctrOpen 0x05 5 = false ∧ (0x18 ≠ 0x30 ∨ 0 ≠ 0 ∨ 0 ≠ 15) := by decide +kernel

def begin_ (n : Nat) : List Byte := zeros 8 ++ leBytes 8 n
def chunk : List Byte := leBytes 4 8 ++ zeros 4 ++ leBytes 8 (imageLen - 8) ++ leBytes 8 0x40000

theorem test_hyp_ImageTransfer :
    cf 0x10 (begin_ 256) [(0x18, 8)] = true ∧ 256 ≤ (c0 0x10 (begin_ 256)).at_ 0x18 8 ∧ (lb []).img.image = none ∧
    (takeBytes 256 (lb []).freeRanges).isSome = true ∧ takeBytes (2 ^ 41) (lb []).freeRanges = none ∧
    cf 0x11 chunk [(0x10, 4), (0x18, 8), (0x20, 8)] = true ∧ chunkBad (c0 0x11 chunk) (2 ^ 65) = [] ∧ chunkBad (c0 0x11 chunk) imageLen = [] ∧
    (c0 0x11 chunk).amount = 0 ∧ (lb []).hostRead 0x40000 8 = some (zeros 8) ∧
    (∀ p, p ∈ partsOf (pieceRange [(0x9000000, imageLen)] (imageLen - 8) 8) → sv.doorShut p = false ∧ sv.asleep p = false) ∧
    sv.backed 0x9000000 = true := by decide +kernel

/-- A patch of table 1 of table set 0, whose entries become 1.0. -/
def patch : List Byte := leBytes 2 0 ++ [1, 0] ++ zeros 12 ++ (List.replicate 16 (leBytes 2 0x3F80)).flatten
def set0 : TableSet := { kind := 0x10, off := 0, tables := [List.replicate 16 0, List.replicate 16 0] }
def patchCmd : Cmd := c0 0x14 (leBytes 4 48 ++ zeros 4 ++ leBytes 8 0x40000)
def patchable : State :=
  { lb [patchCmd] with host := wrBytes [] 0x40000 patch, img := { State.reset.img with image := some { im0 with tables := [set0] } } }

theorem test_patched : ((out (exec (.patchTables 7) patchable)).img.image.map fun i => i.tables.map fun t => t.tables) =
    some [[List.replicate 16 0, List.replicate 16 0x3F80]] := by decide +kernel

theorem test_hyp_TablePatches :
    patchable.cmdFor 7 0x14 = some patchCmd ∧ patchCmd.unused [(0x10, 4), (0x18, 8)] = [] ∧ patchCmd.at_ 0x10 4 = 48 ∧
    patchable.hostRead 0x40000 48 = some patch ∧ (patchRecs (fun i => patch.getD i 0) [set0] 48 3 0).toOption.map List.length = some 1 ∧
    (patchRecs (fun i => patch.getD i 0) [] 48 3 0).toOption = none ∧
    patchable.chk = [] ∧ (({ im0 with tables := [set0] } : Image).tables[0]?).isSome = true := by decide +kernel

def unit (k n : Nat) : List Byte := leBytes 4 k ++ leBytes 4 n

/-- A logical partition on physical partition 7, and a job for its drain point. -/
def drains7 (js : List Job) (cs : List Cmd) : State :=
  { lb cs with img := { State.reset.img with lpart := [(0, 8)] }, mc := { State.reset.mc with jobs := js } }

def recal : Job := { kind := 4, number := 335, cmd := 8, act := 2, found := [] }

theorem test_hyp_UnitService :
    cf 0x60 (unit 2 1343) [(0x10, 1), (0x14, 4)] = true ∧ mayRetire 2 = true ∧ sv.hasUnit 2 1343 = true ∧ sv.isRetired 2 1343 = false ∧
    unitPart 2 1343 = 7 ∧ sv.unusable 7 = false ∧ sv.doorShut 7 = false ∧ sv.asleep 7 = false ∧ (drains7 [] []).drains 7 = true ∧
    (sv.hasUnit 7 15 = true ∧ sv.isRetired 7 15 = false ∧ sv.stackRetired 15 = false ∧ sv.hasUnit 9 63 = true ∧ sv.isRetired 9 63 = false ∧ 8 ≤ unitPart 9 63) ∧
    ({ sv with ctl := (offHbmMap 7, 0x4000000) :: sv.ctl }).stackRetired 15 = true ∧ cf 0x61 (unit 9 63) [(0x10, 1), (0x14, 4)] = true ∧
    mayTest 9 = true ∧ names [] 9 63 = false ∧ cf 0x62 (unit 11 0) [(0x10, 1), (0x14, 4)] = true ∧ mayCalibrate 11 = true ∧ unitExists 11 0 = true ∧
    mayCalibrate 7 = true ∧ unitExists 7 15 = true ∧
    (let s := drains7 [recal] [c0 0x62 (unit 4 335)]
     nget 0 s.img.lpart 0 = 7 + 1 ∧ s.mc.jobs = [recal] ∧ unitPart 4 335 = 7 ∧ s.lpartBusy 7 = false ∧ (s.part 7).resetting = false ∧
     nget false s.therm.testDue (7 / 4) = false) := by decide +kernel

theorem test_hyp_Migration :
    cf 0x65 [15, 0] [(0x10, 2)] = true ∧ sv.asleep 7 = false ∧ sv.doorShut 7 = false ∧ sv.stackRetired 15 = false ∧ sv.hbmMode 7 = 0 ∧
    (lb []).offRoom 15 = some [] ∧ ({ sv with ctl := (offHbmMap 7, 0x8000000) :: sv.ctl }).hbmMode 7 ≠ 0 ∧
    ({ sv with ctl := (offHbmMap 7, 0x8000000) :: sv.ctl }).stackRetired 15 = false ∧
    sv.fillsOn 7 = false ∧ (sv.nb 15).cur = none ∧ sv.chk = [] ∧ memWf sv.mem = true ∧ (State.offPlan { sv with mc := { sv.mc with mig := none } } 15).isSome = true := by decide +kernel
/-! ### Firmware, pair, security, board

What Config.verify answers is open, so no test can meet a premise that a signature is good: those premises stand alone in the statements. -/

theorem nor_open (cs : List Cmd) : (lb cs).norWindow = true ∧ (lb cs).fuseWindow = true := by
  have e : ∀ n, (lb cs).acting n = 250 := fun _ => rfl
  simp only [State.norWindow, State.fuseWindow, e]
  exact ⟨by decide, rfl⟩

theorem test_hyp_FirmwareStaging :
    nget 0 sv.sec.active 5 < 2 ∧ sv.activating 5 = false ∧ (lb []).norWindow = true ∧ pkgHead ≤ (List.replicate 16337 (0 : Byte)).length ∧
    ¬([1] : List Byte).length = pkgHead + leAt [1] 0x14 4 ∧
    cf 0x63 ([5] ++ zeros 3 ++ leBytes 4 1 ++ leBytes 8 0x40000) [(0x10, 1), (0x14, 4), (0x18, 8)] = true ∧ (lb []).hostRead 0x40000 1 = some [0] ∧
    (let x : Xfer := { component := 5, data := [1] }
     (8, x) ∈ [(8, x)] ∧ (([(8, x)] : NMap Xfer).map fun (e : Nat × Xfer) => e.1).Nodup) ∧ sv.power.vstby = true ∧ sv.power.viob = true := by
  refine ⟨by decide, by decide, (nor_open []).1, by rw [List.length_replicate]; decide, by decide, by decide +kernel, by decide +kernel, by decide,
    by decide, by decide⟩

/-- FW_ACTIVATE of a component with these flags, with its inactive slot as given. -/
def act (comp fl : Nat) (x : FwSlot) : State :=
  { lb [c0 0x64 [BitVec.ofNat 8 comp, BitVec.ofNat 8 fl]] with sec := { State.reset.sec with fw := [(2 * comp + 1, x)] } }

theorem test_switch : nget 0 (out (exec (.fwActivate 7 []) (act 5 0 { svn := 3 }))).sec.active 5 = 1 := by decide +kernel

theorem test_hyp_FirmwareActivation :
    cf 0x64 [5, 1] [(0x10, 2)] = true ∧ ((act 5 0 { full := false }).fwStaged 5).full = false ∧ ((act 5 0 { svn := 3 }).fwStaged 5).full = true ∧
    (act 5 0 { svn := 3 }).fuseCount 5 ≤ 3 ∧ ({ act 5 0 { svn := 3 } with ctl := [(offRollback, 0x0000000400000000)] }).fuseCount 5 = 4 ∧
    (lb []).fuseWindow = true ∧ nget 0 (act 5 0 {}).sec.active 5 < 2 ∧
    (let s := { act 3 0 { svn := 3 } with ctl := (offNb 15, 1) :: ((List.range 15).map fun j => (offNb j, 4)) ++ sv.ctl }
     s.nbServes 15 = true ∧ ∀ j, j < 15 → s.nbServes j = false) := by
  refine ⟨by decide +kernel, by decide, by decide, by decide +kernel, by decide +kernel, (nor_open []).2, by decide, by decide +kernel⟩

theorem test_hyp_NearBankResume :
    let c : Cmd := { c0 0x64 [3, 0] with started := true, amount := 16 * 2 ^ 32 }
    let s := { lb [c] with ctl := (offNb 15, 3) :: sv.ctl }
    s.cmds = [c] ∧ c.opcode = 0x64 ∧ c.at_ 0x10 1 = 3 ∧ c.amount = (15 + 1) * 2 ^ 32 ∧ s.cfld (offNb 15) 0 3 = 3 ∧ nget 0 s.sec.active 3 < 2 ∧
    c.at_ 0x11 1 = 0 ∧ (∀ j, 15 < j → j < 16 → s.nbServes j = false) := by
  refine ⟨by decide, by decide, by decide, by decide, by decide +kernel, by decide, by decide, fun j h1 h2 => by omega⟩

/-- A pair: role and state of PAIR_STATUS, link ports, and the bookkeeping. -/
def pr (st role : Nat) (cs : List Cmd) (x : Pair) : State :=
  { lb cs with ctl := (offPair, w64 (st + role * 256)) :: (offPort 14, 7) :: (offPort 15, 7) :: sv.ctl, pair := x }

theorem test_hyp_PairCommands :
    cf 0x80 [1, 0, 0xFF, 0x0F] [(0x10, 1), (0x12, 2)] = true ∧ ({ sv with power := { sv.power with pairPresent := true } }).power.pairPresent = true ∧
    sv.pair.roleStandby = true ∧ (c0 0x80 [1, 0, 0xFF, 0x0F]).at_ 0x10 1 = 1 ∧ (c0 0x80 [1, 0, 0xFF, 0x0F]).at_ 0x12 2 < 4096 ∧
    sv.pair.joined = false ∧ cf 0x81 [] [] = true ∧ cf 0x82 [] [] = true ∧ cf 0x83 [] [] = true ∧
    (pr 1 0 [] { joined := true }).pair.joined = true ∧ (pr 1 0 [] { joined := true }).standby = false ∧ (pr 1 0 [] { joined := true }).pairUp = true ∧
    ({ pr 1 0 [] { joined := true } with ctl := [(offPair, 1)] }).pairUp = false ∧ (pr 1 0 [] { joined := true }).pair.sent = [] ∧
    (pr 3 1 [] { joined := true, rxSeq := 4 }).standby = true ∧ (pr 3 1 [] { joined := true, rxSeq := 4 }).pairUp = true ∧
    (pr 3 1 [] { joined := true, rxSeq := 4 }).pair.received = [] ∧ (pr 3 1 [] { joined := true, rxSeq := 4 }).pair.rxSeq ≠ 0 := by decide +kernel

def step0 : MirrorStep := { seq := 4, fn := 0, tag := 9, writes := [(0, 0, 0xFFFFF, [0x5A])], table := none }

theorem test_mirror_applies :
    nget 0 (out (exec (.mirrorStepReceived step0) (pr 3 1 [] { joined := true, rxSeq := 4 }))).mem 0x10FFFFF = 0x5A := by decide +kernel

/-- A region takes 1 MiB, so that no table of its bytes is made: its bytes lie in partition 0, which is backed. -/
theorem test_hyp_PairMirror :
    (pr 3 1 [] { joined := true, rxSeq := 4 }).pairState ≠ 4 ∧ step0.seq = (4 : BitVec 32) ∧
    fld ((pr 3 1 [] {}).region 0 0).attr 56 2 = 2 ∧ 0xFFFFF + 1 ≤ ((pr 3 1 [] {}).region 0 0).size ∧
    ((pr 3 1 [] {}).backed 0x1000000 = true ∧ (pr 3 1 [] {}).backed 0x10FFFFF = true) ∧
    2 ^ 31 ≤ ((3 : BitVec 32) - 4).toNat ∧ (pr 1 0 [] { joined := true, apWrites := [(0, 0, 0, [1])] }).mirrors = true ∧
    (pr 1 0 [] { joined := true, apWrites := [(0, 0, 0, [1])] }).pair.apWrites ≠ [] ∧ sv.mirrors = false ∧
    (pr 1 0 [] { joined := true }).pairState ≠ 0 ∧ (pr 1 0 [] { joined := true }).cfld (offPort 15) 0 3 = 7 ∧
    (∃ x, x ∈ [step0] ∧ x.seq = 4) ∧ (pr 3 1 [] { joined := true, rxSeq := 4 }).noLatent ∧
    (pr 1 0 [] { joined := true }).bays = [] := by
  refine ⟨by decide +kernel, rfl, by decide +kernel, by decide +kernel, by decide +kernel, by decide, by decide +kernel, by decide, by decide +kernel,
    by decide +kernel, by decide +kernel, ⟨step0, by simp, rfl⟩, quiet rfl, rfl⟩

def att0 : AttReq := { cmd := 8, nonce := zeros 32 }

theorem test_hyp_Attestation :
    cf 0x70 [1, 2] [(0x10, 32)] = true ∧ sv.attesting < 16 ∧
    16 ≤ ({ sv with sec := { sv.sec with attq := List.replicate 15 att0, signing := some att0 } }).attesting ∧ att0.cmd = 7 + 1 ∧
    sv.sec.signing = none ∧ sv.sec.attq = [] ∧ cf 0x71 [1] [(0x10, 1)] = true ∧ cf 0x71 [2] [(0x10, 1)] = true := by decide +kernel

def unlock : List Byte := [1] ++ zeros 3 ++ leBytes 4 16272 ++ leBytes 8 0x40000

theorem test_hyp_DebugUnlock :
    cf 0x72 [0] [(0x10, 1), (0x14, 4), (0x18, 8)] = true ∧ cf 0x72 unlock [(0x10, 1), (0x14, 4), (0x18, 8)] = true ∧
    (c0 0x72 unlock).at_ 0x14 4 = 16272 ∧ sv.sec.challenge = none ∧ sv.sec.debug = false ∧ (lb []).hostRead 0x40000 16272 ≠ none ∧
    ({ sv with sec := { sv.sec with owner := true } }).unlocks (zeros 32) [] = false ∧ sv.power.viob = true := by decide +kernel

theorem test_hyp_BoardReads :
    sv.power.vstby = true ∧ sv.power.viob = true ∧ boardReadable offBringup = true ∧ flitCounter offBringup = false ∧ flitCounter (offPort 15 + 24) = true ∧
    5 < sv.stage ∧ boardReadable (offBringup + 4) = false ∧
    sv.boardSigning = false ∧ ({ sv with sec := { sv.sec with attq := [{ cmd := 0, nonce := [] }] } }).boardSigning = true := by decide +kernel

def asleep0 : State := { State.reset with power := { State.reset.power with bolted := true } }
def owner0 : Xfer := { component := 0, data := zeros 48 ++ padTo 16 State.reset.mc.serial }

theorem test_hyp_BoardRequests :
    asleep0.power.bolted = true ∧ asleep0.power.descent = 0 ∧ asleep0.therm.tripped = false ∧ nget 0 asleep0.sec.active 1 < 2 ∧
    asleep0.slotOk 1 (nget 0 asleep0.sec.active 1) = true ∧ sv.power.bolted = false ∧ (∀ n, n < 600 → sv.acting n < 700) ∧
    ((9, owner0) ∈ ({ sv.sec with xfer := [(9, owner0)] } : Sec).xfer ∧ owner0.component = 0 ∧ owner0.data.length = 64 ∧
      (owner0.data.drop 48).take 16 = padTo 16 sv.mc.serial) ∧
    sv.sec.owner = false ∧ sv.img.session = none ∧ sv.img.image = none ∧ (lb []).fuseWindow = true ∧ (lb []).norWindow = true ∧
    List.length (List.replicate 512 0) ≤ 512 ∧ 3584 + List.length (List.replicate 512 0) ≤ 4096 ∧ (zeros 32).length = 32 ∧ sv.attesting < 16 := by
  refine ⟨rfl, rfl, rfl, by decide, by decide +kernel, rfl, fun n _ => by rw [acting_sv]; decide, ⟨List.mem_singleton_self _, rfl, by decide, by decide⟩,
    rfl, rfl, rfl, (nor_open []).2, (nor_open []).1, by rw [List.length_replicate], by rw [List.length_replicate], by decide, by decide⟩
/-! ### The queue, and commands of units that do not exist -/

def queued (c : Instr) : State := { sv with pending := [c] }

theorem test_hyp_StepTakesTheFront : step (queued (.streamAdda 0 1)) = exec (.streamAdda 0 1) sv := rfl

theorem test_hyp_IdleStep : step State.reset = .next State.reset := rfl

theorem test_hyp_QueueOrder : ∃ t, step (queued .boostWindowClose) = .next t := ⟨_, rfl⟩

theorem test_hyp_MemoriesStayCanonical : Claim.Memories State.reset ∧ ∃ t, step { State.reset with pending := [.boostWindowClose] } = .next t :=
  ⟨⟨rfl, rfl⟩, ⟨_, rfl⟩⟩

theorem test_hyp_CommandsComplete :
    Instr.wf (.clusterClockGate 1343) = true ∧ Instr.wf (.clusterClockGate 1344) = false ∧
    ∀ code op, Instr.clusterClockGate 1343 ≠ .jtagInstruction code op := ⟨by decide, by decide, fun _ _ h => by cases h⟩

theorem test_hyp_EchoReturnsItsParameters :
    cf 0xF0 [1] [(0x10, 48)] = true ∧ echo.entry.length = 64 ∧ echo.mute = false ∧ echo.dead = false ∧ ({ echo with tookSlot := true }).tookSlot = true ∧
    48 ≤ echo.resultLen := by decide +kernel

theorem test_debug_refused :
    exec (.jtagInstruction 3 true) { sv with sec := { sv.sec with debug := true } } = .refused .debugInstruction := rfl

/-- Each check of Instr.wf refuses a command of a missing unit. -/
theorem test_ill_formed :
    Instr.wf (.msgInject 22848) = false ∧ Instr.wf (.clusterClockGate 1344) = false ∧ Instr.wf (.streamAdda 0 4) = false ∧
    Instr.wf (.parkTimeout 0 0 32) = false ∧ Instr.wf (.lbEnable 16) = false ∧ Instr.wf (.ajarEntryDone 8) = false ∧ Instr.wf (.specConfirmed 0 4) = false ∧
    Instr.wf (.regionAllocationEnd 0 64) = false ∧ Instr.wf (.baseDieFault 16) = false ∧ Instr.wf (.hbmPeriodicRetrain 0 32 0 0 0) = false ∧
    Instr.wf (.hbmRefreshDue 0 0 2 0 false) = false ∧ Instr.wf (.seunonPortDown 16) = false ∧ Instr.wf (.shutterStageEnd 336) = false ∧
    Instr.wf (.bondTempSample 2) = false ∧ Instr.wf (.bayReadRequest 5 0 0 (.core 22848)) = false ∧ Instr.wf (.homeBayWrite (.core 22848)) = false ∧
    Instr.wf (.registerWrite (.host 16) 0 8 0) = false ∧ Instr.wf (.transomRepairWrite (.partitionController 0) 0 32 0) = false := by
  decide +kernel

theorem test_missing_unit : exec (.clusterClockGate 1344) sv = .fault .noSuchUnit := rfl

end Sys2Proof.Tests
end

section
namespace Sys2Proof.Machine
open Sys2Proof

/-! ### Bond repair (R210) -/

theorem isPartController_of_lt {p : Nat} (h : p < 8) : isPartController (.partitionController p) = true := by
  simp [isPartController, h]

theorem isPartController_false {by_ : Requester} (h : ∀ p, p < 8 → by_ ≠ .partitionController p) :
    isPartController by_ = false := by
  cases by_ with
  | partitionController p => simpa [isPartController] using fun hp => h p hp rfl
  | _ => rfl

theorem isController_false {by_ : Requester} (h : ∀ p, p < 8 → by_ ≠ .partitionController p) (hm : by_ ≠ .moduleController) :
    isController by_ = false := by simp [isController, isPartController_false h, hm]

theorem repairRefused_iff (old v : W64) : repairRefused old v = true ↔
    33 < fld v 0 6 ∨ 33 < fld v 8 6 ∨ (v.getLsbD 15 = true ∧ (v.getLsbD 7 = false ∨ fld v 8 6 ≤ fld v 0 6)) ∨
      ∃ p, p ∈ repairMarks old ∧ p ∉ repairMarks v := by
  simp [repairRefused, or_assoc]

/-- A legal write of bond repair positions takes its value. -/
theorem repairWrite_legal {s : State} {c g : Nat} {v : W64} (hv : v &&& 0xFFFFFFFFFFFF4040 = 0)
    (hk : (s.core c).channelFree = true) (hr : repairRefused (s.creg (offRepair c g)) v = false) :
    s.repairWrite c g v = s.setCreg (offRepair c g) v := by
  rw [State.repairWrite, if_neg (not_not.2 hv)]
  simp [hk, hr]

/-- A write of bond repair positions that is not legal is only logged. -/
theorem repairWrite_refused {s : State} {c g : Nat} {v : W64} (hv : v &&& 0xFFFFFFFFFFFF4040 = 0)
    (h : (s.core c).channelFree = false ∨ repairRefused (s.creg (offRepair c g)) v = true) :
    s.repairWrite c g v = s.logEv 210 (c * 32 + g) := by
  rw [State.repairWrite, if_neg (not_not.2 hv), if_pos]
  rcases h with h | h <;> simp [h]

/-- Below the sill windows a controlWrite at the offset of a bond repair register is the repair write (R210). -/
theorem controlWrite_offRepair {s : State} {p c g : Nat} {v : W64} (hp : p < 8) (hc : Unit.core c = true) (hg : g < 32) :
    s.controlWrite (.partitionController p) (offRepair c g) 8 v = s.repairWrite c g v := by
  have hc' : c < 22848 := by simpa [Unit.core] using hc
  have hw : ¬ sillWindow ≤ offRepair c g := by unfold sillWindow offRepair; omega
  have hrw : ctlRw (offRepair c g) = none := by
    have h1 : ¬ offRepair c g < 0x68000800 := by unfold offRepair; omega
    have h2 : ¬ offRepair c g < 0x69000800 := by unfold offRepair; omega
    simp [ctlRw, h1, h2]
  have hb : offRepair c g - repairBase = (c * 32 + g) * 8 := by unfold repairBase offRepair; omega
  have hreg : isReg (offRepair c g) repairBase 8 (22848 * 32) = true := by
    have h1 : repairBase ≤ offRepair c g := by unfold repairBase offRepair; omega
    simp only [isReg, hb, h1, Nat.mul_mod_left, Nat.mul_div_cancel _ (by decide : 0 < 8)]
    simp; omega
  have h1 : (c * 32 + g) * 8 / 0x100 = c := by omega
  have h2 : g % 32 = g := Nat.mod_eq_of_lt hg
  simp [State.controlWrite, hw, hrw, hreg, isPartController_of_lt hp, hb, h1, h2]

/-- A partition controller's write of bond repair positions, by the command or at the register's offset (R210). -/
theorem exec_repair {s : State} {p c g : Nat} {v : W64} {i : Instr} (hp : p < 8) (hc : Unit.core c = true) (hg : g < 32)
    (hi : i = .transomRepairWrite (.partitionController p) c g v ∨ i = .registerWrite (.partitionController p) (offRepair c g) 8 v) :
    exec i s = .next (s.repairWrite c g v) := by
  rcases hi with rfl | rfl
  · simp [exec, execTransomRepairWrite, hc, hg, isPartController_of_lt hp]
  · simp [exec, execRegisterWrite, controlWrite_offRepair hp hc hg]

theorem bondRepair_claim : Claim.BondRepair := by
  intro s c g v hc hg
  refine ⟨fun p i hp hv hi => ⟨fun hk hr => ?_, fun h => ?_⟩, fun by_ hby => ?_, repairRefused_iff _ v⟩
  · exact ⟨_, exec_repair hp hc hg hi, by simp [repairWrite_legal hv hk hr],
      fun o ho => by simp [repairWrite_legal hv hk hr, State.creg_setCreg_ne _ _ ho], by rw [repairWrite_legal hv hk hr]; rfl⟩
  · exact ⟨_, exec_repair hp hc hg hi, by rw [repairWrite_refused hv h]; rfl⟩
  · exact ⟨s.logEv 17 (offRepair c g), by simp [exec, execTransomRepairWrite, hc, hg, isPartController_false hby], rfl⟩

/-! ### Control windows and the control and status space (R12, R17, R198, R229, R343, R351, R352, R354, R356) -/

/-- RW fields of a value whose reserved bits are clear are the value's own. -/
theorem rwValue_legal (s : State) {v rw reserved : W64} (h : v &&& reserved = 0) : s.rwValue v rw reserved = (v &&& rw, s) := by
  simp [State.rwValue, h]

theorem and_of_and_not {v rw : W64} (h : v &&& ~~~rw = 0) : v &&& rw = v := by
  calc v &&& rw = v &&& rw ||| v &&& ~~~rw := by rw [h]; simp
    _ = v &&& (rw ||| ~~~rw) := BitVec.and_or_distrib_left.symm
    _ = v := by rw [BitVec.or_not_self, BitVec.and_allOnes]

/-- A host whose function is reached writes in its function's control window. -/
theorem exec_hostWrite {s : State} {f off size : Nat} {v : W64} (hf : Unit.fn f = true) (hr : s.hostReaches f = true)
    (h : off + size ≤ 0x100000) : exec (.registerWrite (.host f) off size v) s = .next (s.windowWrite f off size v) := by
  simp [exec, execRegisterWrite, hf, hr, State.hostRegister, h]

theorem windowWrite_sqBase (s : State) (f : Nat) (v : W64) :
    s.windowWrite f 0x1000 8 v = s.ringWrite f fun x => { x with sqBase := v } := rfl

theorem windowWrite_cqBase (s : State) (f : Nat) (v : W64) :
    s.windowWrite f 0x1008 8 v = s.ringWrite f fun x => { x with cqBase := v } := rfl

theorem windowWrite_ringCfg {s : State} {f : Nat} {v : W64} (hd : (s.fn f).st = .disabled) (hv : v &&& ~~~ringRw = 0) :
    s.windowWrite f 0x1010 8 v = s.modFn f fun x => { x with ringCfg := v } := by
  simp [State.windowWrite, rwValue_legal s hv, hd, and_of_and_not hv]

theorem windowWrite_aperture {s : State} {f : Nat} {v : W64} (hv : v &&& ~~~apertureRw = 0) :
    s.windowWrite f 0x1028 8 v = s.modFn f fun x => { x with aperture := v } := by
  simp [State.windowWrite, rwValue_legal s hv, and_of_and_not hv]

theorem ringWrite_disabled {s : State} {f : Nat} (g : Fn → Fn) (h : (s.fn f).st = .disabled) : s.ringWrite f g = s.modFn f g := by
  simp [State.ringWrite, h]

theorem ringWrite_enabled {s : State} {f : Nat} (g : Fn → Fn) (h : (s.fn f).st ≠ .disabled) : s.ringWrite f g = s.badWindow f := by
  simp [State.ringWrite, h]

/-- Doorbells take accesses of 4 bytes alone (R352). -/
theorem windowWrite_doorbell_size {s : State} {f off size : Nat} {v : W64} (ho : off = 0x2000 ∨ off = 0x2004) (hs : size ≠ 4) :
    s.windowWrite f off size v = s.badWindow f := by simp [State.windowWrite, ho, hs]

/-- Outside the doorbells, the MSI-X table and the pending bits an access is of 8 bytes and aligned (R352). -/
theorem windowWrite_misaligned {s : State} {f off size : Nat} {v : W64} (h1 : off < 0x2000 ∨ 0x2004 < off)
    (h2 : off < 0x20000 ∨ 0x20400 ≤ off) (h3 : size ≠ 8 ∨ off % 8 ≠ 0) (h4 : ¬(size = 4 ∧ (off = 0x21000 ∨ off = 0x21004))) :
    s.windowWrite f off size v = s.badWindow f := by
  have g1 : ¬(off = 0x2000 ∨ off = 0x2004) := by omega
  have g2 : ¬(0x20000 ≤ off ∧ off < 0x20400) := by omega
  have g3 : ¬(0x21000 ≤ off ∧ off < 0x21008 ∧ size = 4 ∧ off % 4 = 0) := by omega
  simp only [State.windowWrite, g1, g2, g3, h3, if_true, if_false]

/-- The MSI-X pending bits ignore writes (R352). -/
theorem windowWrite_pendingBits {s : State} {f off size : Nat} {v : W64}
    (h : size = 4 ∧ (off = 0x21000 ∨ off = 0x21004) ∨ size = 8 ∧ off = 0x21000) : s.windowWrite f off size v = s := by
  rcases h with ⟨rfl, rfl | rfl⟩ | ⟨rfl, rfl⟩ <;> rfl

/-- An access of a size or offset that is not allowed, or to a ring register outside DISABLED, is only counted (R352, R354). -/
theorem windowWrite_bad {s : State} {f off size : Nat} {v : W64}
    (h : (s.fn f).st ≠ .disabled ∧ size = 8 ∧ (off = 0x1000 ∨ off = 0x1008) ∨ (off = 0x2000 ∨ off = 0x2004) ∧ size ≠ 4 ∨
        (off < 0x2000 ∨ 0x2004 < off) ∧ (off < 0x20000 ∨ 0x20400 ≤ off) ∧ (size ≠ 8 ∨ off % 8 ≠ 0) ∧
          ¬(size = 4 ∧ (off = 0x21000 ∨ off = 0x21004))) : s.windowWrite f off size v = s.badWindow f := by
  rcases h with ⟨hd, rfl, rfl | rfl⟩ | ⟨ho, hs⟩ | ⟨h1, h2, h3, h4⟩
  · rw [windowWrite_sqBase, ringWrite_enabled _ hd]
  · rw [windowWrite_cqBase, ringWrite_enabled _ hd]
  · exact windowWrite_doorbell_size ho hs
  · exact windowWrite_misaligned h1 h2 h3 h4

theorem exec_controlWrite {s : State} {by_ : Requester} (h : ∀ g, by_ ≠ .host g) (off size : Nat) (v : W64) :
    exec (.registerWrite by_ off size v) s = .next (s.controlWrite by_ off size v) := by
  cases by_ with
  | host g => exact absurd rfl (h g)
  | _ => rfl

/-- A partition controller's write of a policy register with its reserved bits clear takes the RW fields (R229, R343). -/
theorem controlWrite_policy {s : State} {p q off : Nat} {rw v : W64} (hp : p < 8) (ho : off < 2 ^ 32)
    (hq : ctlRw off = some (q, rw)) (hv : v &&& ctlReserved off = 0) :
    s.controlWrite (.partitionController p) off 8 v = s.setCreg off ((s.creg off &&& ~~~rw) ||| (v &&& rw)) := by
  have hw : ¬ sillWindow ≤ off := by unfold sillWindow; omega
  simp [State.controlWrite, hw, hq, isPartController_of_lt hp, rwValue_legal s hv]

/-- A write of the control and status space by another requester than a partition controller, or at an offset without RW fields,
changes no register. -/
theorem controlWrite_ignored {s : State} {by_ : Requester} {off size : Nat} {v : W64} (ho : off < sillWindow)
    (h : (∀ p, p < 8 → by_ ≠ .partitionController p) ∨ ctlRw off = none ∧ isReg off (offRepair 0 0) 8 (22848 * 32) = false) :
    s.controlWrite by_ off size v = s.logEv 17 off ∨ s.controlWrite by_ off size v = s := by
  have hw : ¬ sillWindow ≤ off := Nat.not_le.2 ho
  rcases h with h | ⟨hrw, hreg⟩
  · cases hrw : ctlRw off with
    | some r => simp [State.controlWrite, hw, hrw, isPartController_false h]
    | none =>
      simp only [State.controlWrite, hw, hrw, isPartController_false h, if_false, Bool.false_and, Bool.false_eq_true]
      split_ifs <;> simp
  · have hreg' : isReg off repairBase 8 (22848 * 32) = false := hreg
    simp only [State.controlWrite, hw, hrw, hreg', if_false, Bool.false_eq_true]
    split_ifs <;> simp

theorem leBytes_length (n v : Nat) : (leBytes n v).length = n := by
  induction n generalizing v with
  | zero => rfl
  | succ n ih => simp [leBytes, ih]

/-- In the sill windows only controllers write, and the shared regions not at all (R198). -/
theorem controlWrite_window_refused {s : State} {by_ : Requester} {off size : Nat} {v : W64} (ho : sillWindow ≤ off)
    (h : (∀ p, p < 8 → by_ ≠ .partitionController p) ∧ by_ ≠ .moduleController ∨
        0x8000 * s.privSteps (clusterOf (s.windowOwner off).1) < (s.windowOwner off).2 + size) :
    s.controlWrite by_ off size v = s.logEv 17 off := by
  rcases h with ⟨hp, hm⟩ | h
  · simp [State.controlWrite, ho, State.sillWrite, isController_false hp hm]
  · simp only [State.controlWrite, ho, if_true, State.sillWrite, leBytes_length, Nat.not_le.2 h]
    simp

theorem registerWrites_claim : Claim.RegisterWrites := by
  intro s f x v hf hr hx
  subst hx
  refine ⟨fun hd => ⟨?_, ?_, fun hv => ?_⟩, fun hv => ?_, ?_, ?_, ?_, ?_, ?_⟩
  · exact ⟨_, exec_hostWrite hf hr (by decide), by simp [windowWrite_sqBase, ringWrite_disabled _ hd],
      by rw [windowWrite_sqBase, ringWrite_disabled _ hd]; rfl⟩
  · exact ⟨_, exec_hostWrite hf hr (by decide), by simp [windowWrite_cqBase, ringWrite_disabled _ hd],
      by rw [windowWrite_cqBase, ringWrite_disabled _ hd]; rfl⟩
  · exact ⟨_, exec_hostWrite hf hr (by decide), by simp [windowWrite_ringCfg hd hv], by rw [windowWrite_ringCfg hd hv]; rfl⟩
  · exact ⟨_, exec_hostWrite hf hr (by decide), by simp [windowWrite_aperture hv], by rw [windowWrite_aperture hv]; rfl⟩
  · rintro off size t ho h rfl
    rw [exec_hostWrite hf hr ho, windowWrite_bad h]
    rfl
  · intro off size h
    rw [exec_hostWrite hf hr (by omega), windowWrite_pendingBits h]
  · intro p q off rw hp ho hq hv
    exact ⟨_, exec_controlWrite (by simp) off 8 v, by simp [controlWrite_policy hp ho hq hv],
      fun o hne => by simp [controlWrite_policy hp ho hq hv, State.creg_setCreg_ne _ _ hne],
      by rw [controlWrite_policy hp ho hq hv]; rfl⟩
  · intro by_ off size hb ho h
    refine ⟨_, exec_controlWrite hb off size v, ?_⟩
    rcases controlWrite_ignored (s := s) (size := size) (v := v) ho h with e | e <;> rw [e]
    rfl
  · intro by_ off size hb ho h
    exact ⟨_, exec_controlWrite hb off size v, by rw [controlWrite_window_refused ho h]; rfl⟩

/-- Settles O32: a write is its window's or register's own effect, or is only counted or logged. -/
theorem registerAccess : Obligations.RegisterAccess := ⟨bondRepair_claim, registerWrites_claim⟩

end Sys2Proof.Machine
end

section
namespace Sys2Proof.Machine
open Sys2Proof

/-! SUPPORT. What a read through the bays leaves alone in any state, also in one with errors: it fills, moves and evicts lines
and reads sectors, but no core, function record or host byte changes; and where no sector holds an error that the controller
would still correct, device memory stays and no such error appears. -/

/-- t is s after reads through the bays. -/
structure ReadOnly (s t : State) : Prop where
  cores : t.cores = s.cores
  fns : t.fns = s.fns
  host : t.host = s.host
  latent : s.noLatent → t.noLatent ∧ t.mem = s.mem

theorem State.noLatent_of_setChk {s : State} (h : s.noLatent) (off : Nat) {v : W32}
    (hv : ∀ sym x, rsDecode (chkErrors v) ≠ .corrected sym x) : (s.setChk off v).noLatent := by
  intro a sym x
  have e : (s.setChk off v).sectorChk a = if s.sectorKey a = s.sectorKey off then v else s.sectorChk a := nget_nset ..
  rw [e]
  split
  · exact hv sym x
  · exact h a sym x

theorem chkErrors_zero_clean : rsDecode (chkErrors 0) = .clean := by decide +kernel

theorem chkErrors_poisonMarker : rsDecode (chkErrors poisonMarker) = .poison := by decide +kernel

namespace ReadOnly
variable {s t u : State}

theorem refl (s : State) : ReadOnly s s := ⟨rfl, rfl, rfl, fun h => ⟨h, rfl⟩⟩

theorem trans (h : ReadOnly s t) (g : ReadOnly t u) : ReadOnly s u :=
  ⟨g.cores.trans h.cores, g.fns.trans h.fns, g.host.trans h.host, fun hn =>
    let ⟨ht, hm⟩ := h.latent hn
    let ⟨hu, hm'⟩ := g.latent ht
    ⟨hu, hm'.trans hm⟩⟩

theorem sameMemory (h : ReadOnly s t) (hn : s.noLatent) : SameMemory s t := fun a => by rw [(h.latent hn).2]

theorem bump (h : ReadOnly s t) (fam unit pos n : Nat) : ReadOnly s (t.bump fam unit pos n) :=
  h.trans ⟨rfl, rfl, rfl, fun hn => ⟨hn, rfl⟩⟩

theorem sill (h : ReadOnly s t) (bay pos n : Nat) : ReadOnly s (t.sill bay pos n) := h.bump ..

theorem setBay (h : ReadOnly s t) (n : Nat) (b : Bay) : ReadOnly s (t.setBay n b) :=
  h.trans ⟨rfl, rfl, rfl, fun hn => ⟨hn, rfl⟩⟩

theorem drew_logEv (h : ReadOnly s t) (kind num : Nat) : ReadOnly s (t.drew.logEv kind num) :=
  h.trans ⟨rfl, rfl, rfl, fun hn => ⟨hn, rfl⟩⟩

theorem logEv (h : ReadOnly s t) (kind num : Nat) : ReadOnly s (t.logEv kind num) :=
  h.trans ⟨rfl, rfl, rfl, fun hn => ⟨hn, rfl⟩⟩

theorem setChk (h : ReadOnly s t) (off : Nat) {v : W32} (hv : ∀ sym x, rsDecode (chkErrors v) ≠ .corrected sym x) :
    ReadOnly s (t.setChk off v) :=
  h.trans ⟨rfl, rfl, rfl, fun hn => ⟨State.noLatent_of_setChk hn off hv, rfl⟩⟩

theorem foldl {α : Type} (f : State → α → State) (hf : ∀ t a, ReadOnly t (f t a)) (l : List α) (s : State) :
    ReadOnly s (l.foldl f s) :=
  List.foldlRecOn l f (refl s) fun _ h a _ => h.trans (hf _ a)

theorem ite {c : Prop} [Decidable c] (h : ReadOnly s t) (g : ReadOnly s u) : ReadOnly s (if c then t else u) := by
  split
  · exact h
  · exact g

end ReadOnly

variable (s : State)

theorem readOnly_hbmPut_frame (off : Nat) (v : Byte) :
    (s.hbmPut off v).cores = s.cores ∧ (s.hbmPut off v).fns = s.fns ∧ (s.hbmPut off v).host = s.host := by
  unfold State.hbmPut
  dsimp only
  split
  · split <;> exact ⟨rfl, rfl, rfl⟩
  · exact ⟨rfl, rfl, rfl⟩

theorem hbmFlip_frame (off : Nat) (x : Byte) :
    (s.hbmFlip off x).cores = s.cores ∧ (s.hbmFlip off x).fns = s.fns ∧ (s.hbmFlip off x).host = s.host := by
  unfold State.hbmFlip
  split
  · exact ⟨rfl, rfl, rfl⟩
  · exact readOnly_hbmPut_frame ..

theorem readOnly_sectorRead (off : Nat) : ReadOnly s (s.sectorRead off).1 := by
  have h1 : ReadOnly s (s.hbmCount off 0 1) := (ReadOnly.refl s).bump ..
  unfold State.sectorRead
  dsimp only
  split
  · exact h1
  · split
    · exact h1
    · next sym v he =>
      have hf : ∀ t : State, t = (if sym < 64 then (s.hbmCount off 0 1).hbmFlip ((s.sectorBytes off).getD sym 0) v else s.hbmCount off 0 1) →
          t.cores = s.cores ∧ t.fns = s.fns ∧ t.host = s.host := by
        rintro t rfl
        split
        · exact hbmFlip_frame ..
        · exact ⟨rfl, rfl, rfl⟩
      obtain ⟨hc, hfn, hh⟩ := hf _ rfl
      exact ⟨hc, hfn, hh, fun hn => absurd he (hn off sym v)⟩
    · exact h1.bump ..
    · exact (h1.bump ..).drew_logEv ..

theorem readOnly_sectorPut (off n : Nat) (poison : Bool) : ReadOnly s (s.sectorPut off n poison) := by
  have clean : ∀ sym x, rsDecode (chkErrors 0) ≠ .corrected sym x := fun _ _ e => by
    rw [chkErrors_zero_clean] at e
    cases e
  have marked : ∀ sym x, rsDecode (chkErrors poisonMarker) ≠ .corrected sym x := fun _ _ e => by
    rw [chkErrors_poisonMarker] at e
    cases e
  unfold State.sectorPut
  dsimp only
  split
  · have h1 : ReadOnly s (s.hbmCount off 1 1) := (ReadOnly.refl s).bump ..
    exact .ite ((h1.setChk off marked).bump ..) (h1.setChk off clean)
  · have h1 : ReadOnly s (((s.sectorRead off).1.hbmCount off 2 1).hbmCount off 1 1) :=
      ((readOnly_sectorRead s off).bump ..).bump ..
    exact .ite (((h1.setChk off marked).bump ..).logEv ..) (.ite ((h1.setChk off marked).bump ..) h1)

theorem readOnly_hbmFetch (off n : Nat) : ReadOnly s (s.hbmFetch off n).1 :=
  List.foldlRecOn (motive := fun acc : State × Bool => ReadOnly s acc.1) _ _ (ReadOnly.refl s) fun _ h _ _ =>
    h.trans (readOnly_sectorRead ..)

theorem readOnly_unmark (bay : Nat) (l : Line) : ReadOnly s (s.unmark bay l) :=
  .ite ((ReadOnly.refl s).sill ..) (.refl s)

theorem readOnly_writeBack (bay : Nat) (l : Line) : ReadOnly s (s.writeBack bay l) := by
  have h1 := ReadOnly.foldl (fun (st : State) (x : Nat × Nat) => st.sectorPut x.1 x.2 (l.bad != 0))
    (fun t x => readOnly_sectorPut t x.1 x.2 _) (s.sectorsIn l.line 128) s
  exact .ite (.refl s) (((h1.setBay ..).sill ..).bump ..)

theorem readOnly_flushLine (bay : Nat) (l : Line) : ReadOnly s (s.flushLine bay l) :=
  ((readOnly_writeBack s bay l).trans (readOnly_unmark _ bay l)).setBay ..

theorem readOnly_dropCopiesOf (ln : Nat) (p : Nat → Bool) : ReadOnly s (s.dropCopiesOf ln p) := by
  refine ReadOnly.foldl _ (fun t e => ?_) s.bays s
  split
  · exact .ite ((readOnly_unmark t ..).setBay ..) (.refl t)
  · exact .refl t

theorem readOnly_evictLine (bay : Nat) (l : Line) : ReadOnly s (s.evictLine bay l) := by
  have h1 : ReadOnly s (if l.kind = .home ∧ l.copies bay none ≠ 0 then
      (s.dropCopiesOf l.line fun b => b / towerBays != bay / towerBays).sill bay sillInvalSent (l.copies bay none) else s) :=
    .ite ((readOnly_dropCopiesOf s ..).sill ..) (.refl s)
  exact (h1.trans (readOnly_flushLine _ bay l)).sill ..

theorem readOnly_makeRoom (bay : Nat) (v : Option Line) : ReadOnly s (s.makeRoom bay v) := by
  cases v with
  | none => exact .refl s
  | some l => exact readOnly_evictLine s bay l

theorem readOnly_allocLine (bay : Nat) (new : Line) : ReadOnly s (s.allocLine bay new).1 := by
  unfold State.allocLine
  split
  · exact (ReadOnly.refl s).sill ..
  · next v _ =>
    have h1 := (readOnly_makeRoom s bay v).setBay bay
      { (s.makeRoom bay v).bay bay with
        lines := ((s.makeRoom bay v).bay bay).lines ++ [{ new with stamp := ((s.makeRoom bay v).bay bay).clock + 1 }],
        clock := ((s.makeRoom bay v).bay bay).clock + 1 }
    exact .ite (h1.sill ..) h1

theorem readOnly_fillLine (bay ln cls : Nat) (mark force : Bool) : ReadOnly s (s.fillLine bay ln cls mark force).1 := by
  have h1 : ReadOnly s (if s.kindIn bay ln = .home then (s.hbmFetch ln 128).1 else s) := .ite (readOnly_hbmFetch s ln 128) (.refl s)
  unfold State.fillLine
  extract_lets kind s1 r
  split
  · exact h1.sill ..
  · have h2 : ReadOnly s r.1 := h1.trans (readOnly_allocLine ..)
    exact .ite (h2.bump ..) h2

theorem readOnly_hitLine (bay : Nat) (l : Line) (cls : Nat) : ReadOnly s (s.hitLine bay l cls) := by
  have h1 := (ReadOnly.refl s).setBay bay
    { ((s.bay bay).modLine l.line fun x => { x with cls := cls, mark := false, stamp := (s.bay bay).clock + 1 }) with
      clock := (s.bay bay).clock + 1 }
  exact .ite h1 (h1.sill ..)

/-- A read at a bay, whose fill may ask another bay. -/
theorem readOnly_readAt (bay ln cls : Nat) {fill : State → State} (hf : ∀ t, ReadOnly t (fill t)) :
    ReadOnly s (s.readAt bay ln cls fill) := by
  unfold State.readAt
  extract_lets b s1 s2 out
  have h1 : ReadOnly s s1 := (ReadOnly.refl s).bump ..
  have h2 : ReadOnly s s2 := .ite (h1.sill ..) h1
  suffices h : ReadOnly s out from h.bump ..
  unfold out
  split
  · next l _ =>
    have h3 : ReadOnly s ((s.sillC bay sillHit cls 1).hitLine bay l cls) :=
      ((ReadOnly.refl s).bump ..).trans (readOnly_hitLine ..)
    exact .ite (h3.sill ..) h3
  · exact .ite ((ReadOnly.refl s).bump ..) ((h2.trans (hf _)).trans (readOnly_fillLine ..))

theorem readOnly_touchHome (ln cls : Nat) : ReadOnly s (s.touchHome ln cls) :=
  readOnly_readAt s _ ln cls fun t => .refl t

theorem readOnly_recordCopy (bay ln m : Nat) : ReadOnly s (s.recordCopy bay ln m) := by
  unfold State.recordCopy
  split
  · exact .refl s
  · exact .ite (.refl s) (.ite ((ReadOnly.refl s).sill ..) ((ReadOnly.refl s).setBay ..))

theorem readOnly_passedLine (off n : Nat) : ReadOnly s (s.passedLine off n) := by
  refine ReadOnly.foldl _ (fun t a => ?_) _ s
  dsimp only
  split
  · exact .ite ((ReadOnly.refl t).bump ..) (.refl t)
  · exact .refl t

theorem readOnly_answerRead (bs : List Byte) (bad : Bool) : ReadOnly s (s.answerRead bs bad) :=
  ⟨rfl, rfl, rfl, fun hn => ⟨hn, rfl⟩⟩

theorem readOnly_remoteRead (r : RemoteReq) : ReadOnly s (s.remoteRead r) :=
  ((ReadOnly.foldl _ (fun t ln => (readOnly_touchHome t ln r.cls).trans (readOnly_recordCopy ..)) _ s).trans
    (readOnly_passedLine ..)).trans (readOnly_answerRead ..)

end Sys2Proof.Machine
end

section
namespace Sys2Proof.Machine
open Sys2Proof

/-! SUPPORT. A field of a register after a field is written. -/

theorem testBit_bitsN (v lo n i : Nat) : (bitsN v lo n).testBit i = (decide (i < n) && v.testBit (lo + i)) := by
  rw [bitsN, Nat.testBit_mod_two_pow, Nat.testBit_div_two_pow, Nat.add_comm]

theorem putN_eq (v lo n x : Nat) : putN v lo n x = 2 ^ lo * (2 ^ n * (v / 2 ^ (lo + n)) + x % 2 ^ n) + v % 2 ^ lo := by
  have hv : 2 ^ lo * (v / 2 ^ lo) + v % 2 ^ lo = v := Nat.div_add_mod ..
  have hw : 2 ^ n * (v / 2 ^ (lo + n)) + bitsN v lo n = v / 2 ^ lo := by
    rw [bitsN, Nat.pow_add, ← Nat.div_div_eq_div_mul]
    exact Nat.div_add_mod ..
  rw [← hw, Nat.mul_add] at hv
  rw [putN, Nat.mul_add, Nat.mul_comm (x % 2 ^ n), Nat.mul_comm (bitsN v lo n)]
  omega

theorem testBit_putN (v lo n x i : Nat) :
    (putN v lo n x).testBit i = if lo ≤ i ∧ i < lo + n then x.testBit (i - lo) else v.testBit i := by
  rw [putN_eq, Nat.testBit_two_pow_mul_add _ (Nat.mod_lt _ (Nat.two_pow_pos lo)),
    Nat.testBit_two_pow_mul_add _ (Nat.mod_lt _ (Nat.two_pow_pos n)), Nat.testBit_mod_two_pow, Nat.testBit_mod_two_pow,
    Nat.testBit_div_two_pow]
  split
  · next h =>
    rw [if_neg (by omega)]
    simp [h]
  · next h =>
    split
    · next g =>
      rw [if_pos (by omega)]
      simp [g]
    · rw [if_neg (by omega)]
      congr 1
      omega

theorem testBit_fld (v : W64) (lo n i : Nat) : (fld v lo n).testBit i = (decide (i < n) && v.getLsbD (lo + i)) := testBit_bitsN ..

theorem getLsbD_setFld (v : W64) (lo n x i : Nat) (hi : i < 64) :
    (setFld v lo n x).getLsbD i = if lo ≤ i ∧ i < lo + n then x.testBit (i - lo) else v.getLsbD i := by
  rw [setFld, BitVec.getLsbD_ofNat, testBit_putN, decide_eq_true hi, Bool.true_and]
  rfl

/-- A field reads back what is written to it. -/
theorem fld_setFld_same (v : W64) {lo n : Nat} (x : Nat) (h : lo + n ≤ 64) : fld (setFld v lo n x) lo n = x % 2 ^ n := by
  refine Nat.eq_of_testBit_eq fun i => ?_
  rw [testBit_fld, Nat.testBit_mod_two_pow]
  by_cases hi : i < n
  · rw [getLsbD_setFld _ _ _ _ _ (by omega), if_pos (by omega), Nat.add_sub_cancel_left]
  · simp [hi]

/-- A field elsewhere keeps its value. -/
theorem fld_setFld_other (v : W64) {lo n lo' n' : Nat} (x : Nat) (h' : lo' + n' ≤ 64) (hd : lo' + n' ≤ lo ∨ lo + n ≤ lo') :
    fld (setFld v lo n x) lo' n' = fld v lo' n' := by
  refine Nat.eq_of_testBit_eq fun i => ?_
  rw [testBit_fld, testBit_fld]
  by_cases hi : i < n'
  · rw [getLsbD_setFld _ _ _ _ _ (by omega), if_neg (by omega)]
  · simp [hi]

variable (s : State)

theorem State.cfld_setCfld_same (off : Nat) {lo n : Nat} (x : Nat) (h : lo + n ≤ 64) :
    (s.setCfld off lo n x).cfld off lo n = x % 2 ^ n := by
  rw [State.cfld, State.setCfld, State.creg_setCreg_same, fld_setFld_same _ _ h]

theorem State.cfld_setCfld_other (off : Nat) {lo n lo' n' : Nat} (x : Nat) (h' : lo' + n' ≤ 64)
    (hd : lo' + n' ≤ lo ∨ lo + n ≤ lo') : (s.setCfld off lo n x).cfld off lo' n' = s.cfld off lo' n' := by
  rw [State.cfld, State.setCfld, State.creg_setCreg_same, fld_setFld_other _ _ h' hd, State.cfld]

theorem State.cfld_setCfld_ne {off off' : Nat} (lo n x lo' n' : Nat) (h : off' ≠ off) :
    (s.setCfld off lo n x).cfld off' lo' n' = s.cfld off' lo' n' := by
  rw [State.cfld, State.creg_setCfld_ne _ _ _ _ h, State.cfld]

theorem State.cfld_congr {s t : State} {off : Nat} (h : t.creg off = s.creg off) (lo n : Nat) : t.cfld off lo n = s.cfld off lo n := by
  rw [State.cfld, h, State.cfld]

end Sys2Proof.Machine
end

section
namespace Sys2Proof.Machine
open Sys2Proof

/-! ### Partitions that wake -/

/-- What a wake of partitions leaves alone. -/
structure PartsOnly (s t : State) : Prop where
  cores : t.cores = s.cores
  cmds : t.cmds = s.cmds
  fns : t.fns = s.fns
  host : t.host = s.host
  mem : t.mem = s.mem
  pcie : t.pcie = s.pcie

namespace PartsOnly
variable {s t u : State}

theorem refl (s : State) : PartsOnly s s := ⟨rfl, rfl, rfl, rfl, rfl, rfl⟩

theorem trans (h : PartsOnly s t) (g : PartsOnly t u) : PartsOnly s u :=
  ⟨g.cores.trans h.cores, g.cmds.trans h.cmds, g.fns.trans h.fns, g.host.trans h.host, g.mem.trans h.mem, g.pcie.trans h.pcie⟩

theorem setPart (h : PartsOnly s t) (p : Nat) (x : Part) : PartsOnly s (t.setPart p x) := ⟨h.cores, h.cmds, h.fns, h.host, h.mem, h.pcie⟩

theorem setCreg (h : PartsOnly s t) (off : Nat) (v : W64) : PartsOnly s (t.setCreg off v) :=
  ⟨h.cores, h.cmds, h.fns, h.host, h.mem, h.pcie⟩

theorem setCfld (h : PartsOnly s t) (off lo n x : Nat) : PartsOnly s (t.setCfld off lo n x) := h.setCreg ..

theorem pwrCount (h : PartsOnly s t) (p k : Nat) : PartsOnly s (t.pwrCount p k) := h.setCreg ..

theorem ite {c : Prop} [Decidable c] (h : PartsOnly s t) (g : PartsOnly s u) : PartsOnly s (if c then t else u) := by
  split
  · exact h
  · exact g

theorem foldl {f : State → Nat → State} (hf : ∀ t p, PartsOnly t (f t p)) (l : List Nat) (s : State) :
    PartsOnly s (l.foldl f s) := List.foldlRecOn l f (refl s) fun _ h p _ => h.trans (hf _ p)

end PartsOnly

section
variable (s : State) (p : Nat)

theorem partsOnly_openPart : PartsOnly s (s.openPart p) := by
  have h := PartsOnly.refl s
  unfold State.openPart
  refine .ite h ?_
  split
  · exact .ite h ((h.setCfld ..).setPart ..)
  · exact h.setPart ..
  · exact .ite (h.setPart ..) ((h.pwrCount ..).setPart ..)

theorem partsOnly_wakeAjar : PartsOnly s (s.wakeAjar p) := by
  have h := PartsOnly.refl s
  exact .ite h (.ite ((h.setCfld ..).setPart ..) (.ite ((h.pwrCount ..).setPart ..) h))

theorem pwrCount_creg {off : Nat} (k : Nat) (h : off ≠ offPwr p + 8 + 8 * k) : (s.pwrCount p k).creg off = s.creg off :=
  State.creg_setCreg_ne _ _ h

@[simp] theorem setPart_creg (x : Part) (off : Nat) : (s.setPart p x).creg off = s.creg off := rfl
@[simp] theorem setCfld_part (off lo n x : Nat) : (s.setCfld off lo n x).part p = s.part p := rfl
@[simp] theorem pwrCount_part (q k : Nat) : (s.pwrCount q k).part p = s.part p := rfl

theorem openPart_creg {off : Nat} (h : off ≠ offPwr p) (h' : off ≠ offPwr p + 32) : (s.openPart p).creg off = s.creg off := by
  unfold State.openPart
  split
  · rfl
  · split
    · split
      · rfl
      · rw [setPart_creg, State.creg_setCfld_ne _ _ _ _ h]
    · rfl
    · split
      · rfl
      · rw [setPart_creg, pwrCount_creg s p 3 h']

theorem wakeAjar_creg {off : Nat} (h : off ≠ offPwr p) (h' : off ≠ offPwr p + 32) : (s.wakeAjar p).creg off = s.creg off := by
  unfold State.wakeAjar
  split
  · rfl
  · split
    · rw [setPart_creg, State.creg_setCfld_ne _ _ _ _ h]
    · split
      · rw [setPart_creg, pwrCount_creg s p 3 h']
      · rfl

theorem openPart_part_ne {q : Nat} (h : q ≠ p) : (s.openPart p).part q = s.part q := by
  unfold State.openPart
  split
  · rfl
  · split
    · split
      · rfl
      · rw [State.part_setPart_ne _ _ h, setCfld_part]
    · rw [State.part_setPart_ne _ _ h]
    · split
      · rw [State.part_setPart_ne _ _ h]
      · rw [State.part_setPart_ne _ _ h, pwrCount_part]

theorem wakeAjar_part_ne {q : Nat} (h : q ≠ p) : (s.wakeAjar p).part q = s.part q := by
  unfold State.wakeAjar
  split
  · rfl
  · split
    · rw [State.part_setPart_ne _ _ h, setCfld_part]
    · split
      · rw [State.part_setPart_ne _ _ h, pwrCount_part]
      · rfl

/-- A partition that a knock opens: usable, between no two states, and not open. -/
def State.Closed (s : State) (p : Nat) : Prop := s.unusable p = false ∧ s.ptrans p = 0 ∧ s.pstate p ≠ 0

/-- A partition on its way to open. -/
def State.Opening (s : State) (p : Nat) : Prop := s.unusable p = false ∧ s.ptrans p = 3 ∧ (s.part p).wakeTo = 0

theorem closed_of_eq {s t : State} {p : Nat} (h : s.Closed p) (hb : t.creg offBringup = s.creg offBringup)
    (hp : t.creg (offPwr p) = s.creg (offPwr p)) : t.Closed p := by
  simpa only [State.Closed, State.unusable, State.ptrans, State.pstate, State.cfld, hb, hp] using h

theorem opening_of_eq {s t : State} {p : Nat} (h : s.Opening p) (hb : t.creg offBringup = s.creg offBringup)
    (hp : t.creg (offPwr p) = s.creg (offPwr p)) (hq : t.part p = s.part p) : t.Opening p := by
  simpa only [State.Opening, State.unusable, State.ptrans, State.pstate, State.cfld, hb, hp, hq] using h

theorem offPwr_ne {p q : Nat} (h : q ≠ p) : offPwr q ≠ offPwr p := by unfold offPwr; omega

theorem offPwr_ne_count (p q : Nat) : offPwr q ≠ offPwr p + 32 := by unfold offPwr; omega

theorem offBringup_ne_offPwr (p : Nat) : offBringup ≠ offPwr p := by unfold offPwr offBringup; omega

theorem offBringup_ne_count (p : Nat) : offBringup ≠ offPwr p + 32 := by unfold offPwr offBringup; omega

theorem openPart_bringup : (s.openPart p).creg offBringup = s.creg offBringup :=
  openPart_creg s p (offBringup_ne_offPwr p) (offBringup_ne_count p)

theorem openPart_closed_ne {q : Nat} (hq : q ≠ p) (h : s.Closed q) : (s.openPart p).Closed q :=
  closed_of_eq h (openPart_bringup s p) (openPart_creg s p (offPwr_ne hq) (offPwr_ne_count p q))

theorem openPart_of_closed (h : s.Closed p) : (s.openPart p).Opening p := by
  obtain ⟨hu, ht, hs⟩ := h
  have e : s.openPart p = (s.setCfld (offPwr p) 8 4 3).setPart p { s.part p with wakeTo := 0 } := by
    unfold State.openPart
    rw [if_neg (by simp [hu]), show s.cfld (offPwr p) 8 4 = 0 from ht]
    exact if_neg hs
  have hb : (s.openPart p).creg offBringup = s.creg offBringup := openPart_bringup s p
  refine ⟨?_, ?_, ?_⟩
  · rw [State.unusable, State.cfld, hb]
    exact hu
  · rw [State.ptrans, e]
    exact (State.cfld_congr (setPart_creg ..) 8 4).trans (State.cfld_setCfld_same s (offPwr p) 3 (by omega))
  · rw [e, State.part_setPart_same]

theorem openPart_opening (q : Nat) (h : s.Opening q) : (s.openPart p).Opening q := by
  by_cases hq : q = p
  · subst hq
    obtain ⟨hu, ht, hw⟩ := h
    have e : s.openPart q = s.setPart q { s.part q with wakeTo := 0 } := by
      unfold State.openPart
      rw [if_neg (by simp [hu]), show s.cfld (offPwr q) 8 4 = 3 from ht]
      rfl
    rw [e]
    exact ⟨hu, ht, by rw [State.part_setPart_same]⟩
  · exact opening_of_eq h (openPart_bringup s p) (openPart_creg s p (offPwr_ne hq) (offPwr_ne_count p q))
      (openPart_part_ne s p hq)

theorem wakeAjar_opening (q : Nat) (h : s.Opening q) : (s.wakeAjar p).Opening q := by
  by_cases hq : q = p
  · subst hq
    obtain ⟨hu, ht, hw⟩ := h
    have e : s.wakeAjar q = s := by simp [State.wakeAjar, hu, ht]
    rw [e]
    exact ⟨hu, ht, hw⟩
  · exact opening_of_eq h (wakeAjar_creg s p (offBringup_ne_offPwr p) (offBringup_ne_count p))
      (wakeAjar_creg s p (offPwr_ne hq) (offPwr_ne_count p q)) (wakeAjar_part_ne s p hq)

end

theorem foldl_opening {f : State → Nat → State} {q : Nat} (hf : ∀ t p, t.Opening q → (f t p).Opening q) (l : List Nat) {s : State}
    (h : s.Opening q) : (l.foldl f s).Opening q :=
  List.foldlRecOn (motive := fun t : State => t.Opening q) l f h fun _ ht p _ => hf _ p ht

/-- The named partitions open, one after the other. -/
theorem openParts_opening {l : List Nat} {p : Nat} (hp : p ∈ l) {s : State} (h : s.Closed p) :
    (l.foldl (fun (st : State) (q : Nat) => st.openPart q) s).Opening p := by
  induction l generalizing s with
  | nil => cases hp
  | cons q l ih =>
    by_cases e : p = q
    · subst e
      exact foldl_opening (fun t q => openPart_opening t q p) l (openPart_of_closed s p h)
    · exact ih ((List.mem_cons.1 hp).resolve_left e) (openPart_closed_ne s q e h)

/-! ### Ports that train again -/

theorem portTrain_creg_ne (s : State) (i : Nat) {off : Nat} (h : off ≠ offPort i) : (s.portTrain i).creg off = s.creg off := by
  rw [State.portTrain, State.retrained, State.creg_setCfld_ne _ _ _ _ h, State.creg_setCfld_ne _ _ _ _ h]

theorem portTrain_state (s : State) (i : Nat) : (s.portTrain i).cfld (offPort i) 0 3 = 1 := by
  rw [State.portTrain, State.retrained, State.cfld_setCfld_other _ _ _ (by omega) (by omega)]
  exact State.cfld_setCfld_same _ _ _ (by omega)

theorem offPort_ne {i j : Nat} (h : j ≠ i) : offPort j ≠ offPort i := by unfold offPort; omega

theorem partsOnly_portTrain (s : State) (i : Nat) : PartsOnly s (s.portTrain i) :=
  ((PartsOnly.refl s).setCfld ..).setCfld ..

theorem partsOnly_portsRetrain (s : State) : PartsOnly s s.portsRetrain :=
  PartsOnly.foldl (fun t i => by split; exacts [partsOnly_portTrain t i, .refl t]) _ s

theorem portsRetrain_creg (s : State) {off : Nat} (h : ∀ i, off ≠ offPort i) : s.portsRetrain.creg off = s.creg off := by
  refine List.foldlRecOn (motive := fun t : State => t.creg off = s.creg off) _ _ rfl fun t ht i _ => ?_
  split
  · rw [portTrain_creg_ne t i (h i), ht]
  · exact ht

theorem portsRetrain_state {s : State} {i : Nat} (hi : i < 16) (h : s.cfld (offPort i) 0 3 = 4) :
    s.portsRetrain.cfld (offPort i) 0 3 = 1 := by
  have stays : ∀ (l : List Nat) (t : State), t.cfld (offPort i) 0 3 = 1 →
      (l.foldl (fun (st : State) (j : Nat) => if st.cfld (offPort j) 0 3 = 4 then st.portTrain j else st) t).cfld (offPort i) 0 3 = 1 := by
    intro l t ht
    refine List.foldlRecOn (motive := fun u : State => u.cfld (offPort i) 0 3 = 1) _ _ ht fun u hu j _ => ?_
    split
    · by_cases e : i = j
      · subst e
        exact portTrain_state u i
      · rw [State.cfld_congr (portTrain_creg_ne u j (offPort_ne e)), hu]
    · exact hu
  have trains : ∀ (l : List Nat) (t : State), i ∈ l → t.cfld (offPort i) 0 3 = 4 →
      (l.foldl (fun (st : State) (j : Nat) => if st.cfld (offPort j) 0 3 = 4 then st.portTrain j else st) t).cfld (offPort i) 0 3 = 1 := by
    intro l
    induction l with
    | nil => exact fun _ hm => by cases hm
    | cons j l ih =>
      intro t hm ht
      rw [List.foldl_cons]
      by_cases e : i = j
      · subst e
        rw [if_pos ht]
        exact stays l _ (portTrain_state t i)
      · refine ih _ ((List.mem_cons.1 hm).resolve_left e) ?_
        split
        · rw [State.cfld_congr (portTrain_creg_ne t j (offPort_ne e)), ht]
        · exact ht
  exact trains _ s (List.mem_range.2 hi) h

/-! ### The module wakes -/

/-- What a wake of the module leaves alone. -/
structure WakeOnly (s t : State) : Prop where
  cores : t.cores = s.cores
  cmds : t.cmds = s.cmds
  fns : t.fns = s.fns
  host : t.host = s.host
  mem : t.mem = s.mem

theorem WakeOnly.trans {s t u : State} (h : WakeOnly s t) (g : WakeOnly t u) : WakeOnly s u :=
  ⟨g.cores.trans h.cores, g.cmds.trans h.cmds, g.fns.trans h.fns, g.host.trans h.host, g.mem.trans h.mem⟩

theorem WakeOnly.parts {s t u : State} (h : WakeOnly s t) (g : PartsOnly t u) : WakeOnly s u :=
  ⟨g.cores.trans h.cores, g.cmds.trans h.cmds, g.fns.trans h.fns, g.host.trans h.host, g.mem.trans h.mem⟩

theorem unitsUp_creg (s : State) {off : Nat} (h : ∀ i, off ≠ offPort i) (hm : off ≠ offPwrModule) : s.unitsUp.creg off = s.creg off := by
  show ((s.portsRetrain.setCfld offPwrModule 2 1 0).setCfld offPwrModule 0 2 1).creg off = s.creg off
  rw [State.creg_setCfld_ne _ _ _ _ hm, State.creg_setCfld_ne _ _ _ _ hm, portsRetrain_creg s h]

theorem offPort_ne_offPwrModule (i : Nat) : offPort i ≠ offPwrModule := by unfold offPort offPwrModule; omega

theorem unitsUp_port {s : State} {i : Nat} (hi : i < 16) (h : s.cfld (offPort i) 0 3 = 4) : s.unitsUp.cfld (offPort i) 0 3 = 1 := by
  show ((s.portsRetrain.setCfld offPwrModule 2 1 0).setCfld offPwrModule 0 2 1).cfld (offPort i) 0 3 = 1
  have hm := offPort_ne_offPwrModule i
  rw [State.cfld_setCfld_ne _ _ _ _ _ _ hm, State.cfld_setCfld_ne _ _ _ _ _ _ hm, portsRetrain_state hi h]

theorem wakeOnly_unitsUp (s : State) : WakeOnly s s.unitsUp ∧ s.unitsUp.pcie.knock = s.pcie.knock := by
  unfold State.unitsUp
  extract_lets l1 s1
  have h : PartsOnly s s1 := ((partsOnly_portsRetrain s).setCfld ..).setCfld ..
  clear_value s1
  refine ⟨⟨h.cores, h.cmds, h.fns, h.host, h.mem⟩, ?_⟩
  show s1.pcie.knock = s.pcie.knock
  rw [h.pcie]

theorem recordWake_knock (s : State) {source from_ : Nat} (hs : source < 16) (hf : from_ < 16) :
    fld (s.recordWake source from_).pcie.knock 0 4 = source ∧ fld (s.recordWake source from_).pcie.knock 4 4 = from_ := by
  have e : (s.recordWake source from_).pcie.knock.toNat =
      (fld s.pcie.knock 32 32 + 1) % 2 ^ 32 * 2 ^ 32 + from_ * 16 + source := by
    show (w64 _).toNat = _
    rw [w64, BitVec.toNat_ofNat, Nat.mod_eq_of_lt]
    omega
  unfold fld bitsN
  rw [e]
  omega

theorem wakeOnly_pcie (s : State) (x : Pcie) : WakeOnly s { s with pcie := x } := ⟨rfl, rfl, rfl, rfl, rfl⟩

theorem pcie_creg (s : State) (x : Pcie) (off : Nat) : ({ s with pcie := x } : State).creg off = s.creg off := rfl

theorem wakeOnly_recordWake (s : State) (source from_ : Nat) : WakeOnly s (s.recordWake source from_) := wakeOnly_pcie s _

theorem recordWake_creg (s : State) (source from_ off : Nat) : (s.recordWake source from_).creg off = s.creg off := pcie_creg s _ off

section
variable (s : State) (source : Nat) (named : List Nat)

/-- The module with its units up, before any partition wakes. -/
def State.woken : State := (s.recordWake source (s.cfld offPwrModule 0 2)).unitsUp

theorem woken_creg {off : Nat} (h : ∀ i, off ≠ offPort i) (hm : off ≠ offPwrModule) : (s.woken source).creg off = s.creg off := by
  rw [State.woken, unitsUp_creg _ h hm, recordWake_creg]

theorem woken_port {i : Nat} (hi : i < 16) (h : s.cfld (offPort i) 0 3 = 4) : (s.woken source).cfld (offPort i) 0 3 = 1 := by
  unfold State.woken
  refine unitsUp_port hi ?_
  rw [State.cfld_congr (recordWake_creg ..), h]

theorem woken_only : WakeOnly s (s.woken source) := by
  unfold State.woken
  exact (wakeOnly_recordWake ..).trans (wakeOnly_unitsUp _).1

theorem woken_knock (hs : source < 16) :
    fld (s.woken source).pcie.knock 0 4 = source ∧ fld (s.woken source).pcie.knock 4 4 = s.cfld offPwrModule 0 2 := by
  have hf : s.cfld offPwrModule 0 2 < 2 ^ 2 := Nat.mod_lt _ (by decide)
  rw [State.woken, (wakeOnly_unitsUp _).2]
  exact recordWake_knock s hs (by omega)

/-- The partitions a wake of the module touches: first the named ones open, then, from the sleeping state, the others wake ajar. -/
theorem wakeModule_eq : ∃ others : List Nat, (∀ p ∈ others, p < 8) ∧ s.wakeModule source named =
    others.foldl (fun (st : State) (p : Nat) => st.wakeAjar p)
      (named.foldl (fun (st : State) (p : Nat) => st.openPart p) (s.woken source)) := by
  by_cases h : s.cfld offPwrModule 0 2 = 2
  · refine ⟨s.usableParts.filter fun p => !named.contains p, fun p hp => ?_, if_pos h⟩
    exact List.mem_range.1 (List.mem_of_mem_filter (List.mem_of_mem_filter hp))
  · exact ⟨[], by simp, if_neg h⟩

theorem wakeModule_parts : PartsOnly (s.woken source) (s.wakeModule source named) := by
  obtain ⟨others, -, e⟩ := wakeModule_eq s source named
  rw [e]
  exact (PartsOnly.foldl partsOnly_openPart named _).trans (PartsOnly.foldl partsOnly_wakeAjar others _)

theorem wakeModule_only : WakeOnly s (s.wakeModule source named) := (woken_only s source).parts (wakeModule_parts ..)

theorem wakeModule_knock (hs : source < 16) : fld (s.wakeModule source named).pcie.knock 0 4 = source ∧
    fld (s.wakeModule source named).pcie.knock 4 4 = s.cfld offPwrModule 0 2 := by
  rw [(wakeModule_parts s source named).pcie]
  exact woken_knock s source hs

theorem wakeModule_opening {p : Nat} (h8 : p < 8) (hp : p ∈ named) (h : s.Closed p) : (s.wakeModule source named).Opening p := by
  obtain ⟨others, -, e⟩ := wakeModule_eq s source named
  have hb := woken_creg s source (off := offBringup) (fun i => by unfold offBringup offPort; omega) (by decide)
  have hq := woken_creg s source (off := offPwr p) (fun i => by unfold offPwr offPort; omega) (by unfold offPwr offPwrModule; omega)
  rw [e]
  exact foldl_opening (fun t q => wakeAjar_opening t q p) others (openParts_opening hp (closed_of_eq h hb hq))

theorem wakeModule_port {i : Nat} (hi : i < 16) (h : s.cfld (offPort i) 0 3 = 4) :
    (s.wakeModule source []).cfld (offPort i) 0 3 = 1 := by
  obtain ⟨others, ho, e⟩ := wakeModule_eq s source []
  have hw := woken_port s source hi h
  rw [e]
  refine List.foldlRecOn (motive := fun t : State => t.cfld (offPort i) 0 3 = 1) _ _ hw fun t ht p hp => ?_
  have := ho p hp
  rw [State.cfld_congr (wakeAjar_creg t p (by unfold offPort offPwr; omega) (by unfold offPort offPwr; omega)), ht]

end

end Sys2Proof.Machine
end

section
namespace Sys2Proof.Machine
open Sys2Proof

/-! ### Knocks (R423, R432, R476) -/

section
variable {s : State} {hdr : W32}

/-- The partitions a knock names. -/
def knocked (s : State) (hdr : W32) : List Nat := (maskParts (hdr.toNat % 256)).filter fun p => !s.unusable p

theorem mem_knocked {p : Nat} (h8 : p < 8) (hb : hdr.toNat.testBit p = true) (hu : s.unusable p = false) : p ∈ knocked s hdr := by
  have hm : (hdr.toNat % 2 ^ 8).testBit p = true := by
    rw [Nat.testBit_mod_two_pow]
    simp [h8, hb]
  simpa [knocked, maskParts, hu] using ⟨h8, hm⟩

theorem execPcieKnock_ajar (hh : hdr.toNat / 256 = 0x4B4E00) (hs : s.stage = 6) (hl : s.pcie.l0 = true) :
    execPcieKnock Config.vendorId hdr s = .next (if s.cfld offPwrModule 0 2 = 0
      then (knocked s hdr).foldl (fun (st : State) (p : Nat) => st.openPart p) s else s.wakeModule 2 (knocked s hdr)) := by
  unfold execPcieKnock knocked
  have h1 : hdr.toNat / 65536 = 0x4B4E := by omega
  have h2 : hdr.toNat / 256 % 256 = 0 := by omega
  rw [if_neg (by simp [h1, h2, hs, hl])]

theorem execPcieKnock_discarded {vendor : Nat} (h : vendor ≠ Config.vendorId ∨ hdr.toNat / 256 ≠ 0x4B4E00 ∨ s.stage ≠ 6) :
    execPcieKnock vendor hdr s = .next s := by
  unfold execPcieKnock
  rw [if_pos]
  omega

end

theorem knocks_claim : Claim.Knocks := by
  intro s hdr vendor
  refine ⟨fun hh hs hl => ?_, fun h => execPcieKnock_discarded h, fun port hp => ?_⟩
  · refine ⟨_, execPcieKnock_ajar hh hs hl, ?_⟩
    split
    · next h0 =>
      obtain ⟨hc, hk, hf, hho, hm, hpc⟩ := PartsOnly.foldl partsOnly_openPart (knocked s hdr) s
      refine ⟨fun p h8 hb hu ht hst => ?_, fun h => absurd h0 h, fun _ => hpc, hc, hk, hf, hho, fun a => by rw [hm]⟩
      exact (openParts_opening (mem_knocked h8 hb hu) ⟨hu, ht, hst⟩).2
    · next h0 =>
      obtain ⟨hc, hk, hf, hho, hm⟩ := wakeModule_only s 2 (knocked s hdr)
      refine ⟨fun p h8 hb hu ht hst => ?_, fun _ => wakeModule_knock s 2 _ (by omega), fun h => absurd h h0, hc, hk, hf, hho,
        fun a => by rw [hm]⟩
      exact (wakeModule_opening s 2 _ h8 (mem_knocked h8 hb hu) ⟨hu, ht, hst⟩).2
  · have ports : ∀ src, src < 16 → s.cfld (offPort port) 0 3 = 4 → ∃ t, onUnit (Unit.port port) (s.standbyWake port src) = .next t ∧
        t.cfld (offPort port) 0 3 = 1 ∧ fld t.pcie.knock 0 4 = src ∧ t.cores = s.cores ∧ SameMemory s t := by
      intro src hsrc h4
      have ho := wakeModule_only s src []
      refine ⟨s.wakeModule src [], ?_, wakeModule_port s src (by simpa [Unit.port] using hp) h4, (wakeModule_knock s src [] hsrc).1,
        ho.cores, fun a => by rw [ho.mem]⟩
      rw [hp, State.standbyWake, if_pos h4]
      rfl
    refine ⟨fun h4 => ?_, fun h4 => ?_⟩
    · obtain ⟨t, et, ht, htk, htc, htm⟩ := ports 3 (by omega) h4
      obtain ⟨u, eu, hu, huk, huc, hum⟩ := ports 4 (by omega) h4
      exact ⟨t, u, et, eu, ht, hu, htk, huk, htc, htm, huc, hum⟩
    · have stays : ∀ src, onUnit (Unit.port port) (s.standbyWake port src) = .next s := by
        intro src
        rw [hp, State.standbyWake, if_neg h4]
        rfl
      exact ⟨stays 3, stays 4⟩

end Sys2Proof.Machine
end

section
namespace Sys2Proof.Machine
open Sys2Proof

/-! ### Ports that train (R214, R425, R426) -/

theorem portWidth_down : ∀ g : BitVec 4, g &&& 3 ≠ 3 → g &&& 0xC ≠ 0xC → (portWidth g).1 = 0 := by decide

theorem portWidth_up : ∀ g : BitVec 4, (g &&& 3 = 3 ∨ g &&& 0xC = 0xC) → (portWidth g).1 = if g = 0xF then 2 else 3 := by decide

/-- t differs from s in the register `off` and the module's log only. -/
structure RegisterOnly (off : Nat) (s t : State) : Prop where
  others : ∀ x, x ≠ off → t.creg x = s.creg x
  rest : { t with ctl := s.ctl, mc := s.mc } = s

namespace RegisterOnly
variable {off : Nat} {s t : State}

theorem refl (off : Nat) (s : State) : RegisterOnly off s s := ⟨fun _ _ => rfl, rfl⟩

theorem setCfld (h : RegisterOnly off s t) (lo n x : Nat) : RegisterOnly off s (t.setCfld off lo n x) :=
  ⟨fun y hy => (State.creg_setCfld_ne _ _ _ _ hy).trans (h.others y hy), h.rest⟩

theorem logEv (h : RegisterOnly off s t) (kind num : Nat) : RegisterOnly off s (t.logEv kind num) := ⟨h.others, h.rest⟩

end RegisterOnly

section
variable {s : State} {i : Nat} {r : TrainResult}

/-- The lanes of a port that train and may be used. -/
def goodLanes (s : State) (i : Nat) (r : TrainResult) : BitVec 4 := r.lanes &&& ~~~(BitVec.ofNat 4 (s.cfld (offPort i) 8 4))

theorem seunonTrainingDone_idle (h : s.cfld (offPort i) 0 3 ≠ 1) : seunonTrainingDone i r s = s := if_pos h

theorem seunonTrainingDone_down (h : s.cfld (offPort i) 0 3 = 1)
    (hd : r.peerPresent = false ∨ (portWidth (goodLanes s i r)).1 = 0) :
    seunonTrainingDone i r s = (s.setCfld (offPort i) 0 3 0).logEv 441 i := by
  unfold seunonTrainingDone
  rw [if_neg (not_not.2 h)]
  exact if_pos (by simpa [goodLanes] using hd)

/-- A port with a peer and a width: it records the peer and its orientation and takes its state. -/
theorem seunonTrainingDone_up (h : s.cfld (offPort i) 0 3 = 1) (hp : r.peerPresent = true)
    (hw : (portWidth (goodLanes s i r)).1 ≠ 0) : ∃ s1, RegisterOnly (offPort i) s s1 ∧
      s1.cfld (offPort i) 32 12 = r.peerId % 4096 ∧
      seunonTrainingDone i r s = s1.setCfld (offPort i) 0 3
        (if r.peerDomain ≠ s.cfld offSeunonId 16 32 ∨ r.peerId = s.moduleId then 5
         else if s.pair.joined ∧ 14 ≤ i then 7 else (portWidth (goodLanes s i r)).1) := by
  unfold seunonTrainingDone
  rw [if_neg (not_not.2 h)]
  extract_lets usable good w s0 s1
  have h0 : RegisterOnly (offPort i) s s0 := by
    unfold s0
    split
    · exact .refl _ s
    · exact (RegisterOnly.refl _ s).logEv ..
  refine ⟨s1, (h0.setCfld ..).setCfld .., ?_, ?_⟩
  · rw [State.cfld_setCfld_other _ _ _ (by omega) (by omega), State.cfld_setCfld_same _ _ _ (by omega)]
    rfl
  · have hg : w = portWidth (goodLanes s i r) := rfl
    rw [if_neg (by simpa [hp, hg] using hw)]
    split
    · rfl
    · rw [hg]

end

theorem training_claim (s : State) (i : Nat) (hi : Unit.port i = true) (r : TrainResult) (good : BitVec 4)
    (h1 : s.cfld (offPort i) 0 3 = 1) (hg : good = r.lanes &&& ~~~(BitVec.ofNat 4 (s.cfld (offPort i) 8 4))) :
    ∃ t, exec (.seunonTrainingDone i r) s = .next t ∧
        ((r.peerPresent = false ∨ good &&& 3 ≠ 3 ∧ good &&& 0xC ≠ 0xC) → t.cfld (offPort i) 0 3 = 0) ∧
        (r.peerPresent = true → (good &&& 3 = 3 ∨ good &&& 0xC = 0xC) →
          (r.peerDomain ≠ s.cfld offSeunonId 16 32 ∨ r.peerId = s.moduleId → t.cfld (offPort i) 0 3 = 5) ∧
          (r.peerDomain = s.cfld offSeunonId 16 32 → r.peerId ≠ s.moduleId →
            t.cfld (offPort i) 0 3 = (if s.pair.joined = true ∧ 14 ≤ i then 7 else if good = 0xF then 2 else 3) ∧
            t.cfld (offPort i) 32 12 = r.peerId % 4096)) ∧
        (∀ j, j < 16 → j ≠ i → t.creg (offPort j) = s.creg (offPort j)) ∧ { t with ctl := s.ctl, mc := s.mc } = s := by
  have he : exec (.seunonTrainingDone i r) s = .next (seunonTrainingDone i r s) := by
    show onUnit (Unit.port i) _ = _
    rw [hi]
    rfl
  have hgood : goodLanes s i r = good := hg.symm
  refine ⟨_, he, ?_⟩
  by_cases hup : r.peerPresent = true ∧ (good &&& 3 = 3 ∨ good &&& 0xC = 0xC)
  · obtain ⟨hp, hl⟩ := hup
    have hw := portWidth_up good hl
    have hw0 : (portWidth (goodLanes s i r)).1 ≠ 0 := by
      rw [hgood, hw]
      split <;> omega
    obtain ⟨s1, h0, hid, e⟩ := seunonTrainingDone_up h1 hp hw0
    have ht := h0.setCfld 0 3 (if r.peerDomain ≠ s.cfld offSeunonId 16 32 ∨ r.peerId = s.moduleId then 5
      else if s.pair.joined ∧ 14 ≤ i then 7 else (portWidth (goodLanes s i r)).1)
    rw [e]
    refine ⟨fun hd => ?_, fun _ _ => ⟨fun hiso => ?_, fun hdom hne => ⟨?_, ?_⟩⟩, fun j _ hj => ht.others _ (offPort_ne hj), ht.rest⟩
    · rcases hd with hd | ⟨hd, hd'⟩
      · rw [hp] at hd
        cases hd
      · exact absurd hl (not_or.2 ⟨hd, hd'⟩)
    · rw [State.cfld_setCfld_same _ _ _ (by omega), if_pos hiso]
      rfl
    · rw [State.cfld_setCfld_same _ _ _ (by omega), if_neg (not_or.2 ⟨not_not.2 hdom, hne⟩), hgood, hw]
      split
      · rfl
      · split <;> rfl
    · rw [State.cfld_setCfld_other _ _ _ (by omega) (by omega), hid]
  · have hd : r.peerPresent = false ∨ (portWidth (goodLanes s i r)).1 = 0 := by
      rw [hgood]
      by_cases hp : r.peerPresent = true
      · have hl := not_or.1 fun hl => hup ⟨hp, hl⟩
        exact .inr (portWidth_down good hl.1 hl.2)
      · exact .inl (by simpa using hp)
    have ht := ((RegisterOnly.refl (offPort i) s).setCfld 0 3 0).logEv 441 i
    rw [seunonTrainingDone_down h1 hd]
    refine ⟨fun _ => ?_, fun hp hl => absurd ⟨hp, hl⟩ hup, fun j _ hj => ht.others _ (offPort_ne hj), ht.rest⟩
    exact State.cfld_setCfld_same s (offPort i) 0 (by omega)

/-! ### Ports that go down (R236, R433) -/

theorem nget_mem {α : Type} (d : α) (m : NMap α) (k : Nat) : nget d m k = d ∨ (k, nget d m k) ∈ m := by
  induction m with
  | nil => exact .inl rfl
  | cons a r ih =>
    obtain ⟨k', v⟩ := a
    unfold nget
    split
    · next e => exact .inr (e ▸ List.mem_cons_self ..)
    · exact ih.imp_right (List.mem_cons_of_mem _)

/-- A map that keeps the keys and the default maps what is read. -/
theorem nget_map {α : Type} {d : α} {g : α → α} (hd : g d = d) (m : NMap α) (k : Nat) :
    nget d (m.map fun e => (e.1, g e.2)) k = g (nget d m k) := by
  induction m with
  | nil => exact hd.symm
  | cons a r ih =>
    rw [List.map_cons, nget, nget]
    split
    · rfl
    · exact ih

section
variable (s : State)

theorem unmark_bays (bay : Nat) (l : Line) : (s.unmark bay l).bays = s.bays := by
  unfold State.unmark
  split <;> rfl

theorem unmark_ctl (bay : Nat) (l : Line) : (s.unmark bay l).ctl = s.ctl := by
  unfold State.unmark
  split <;> rfl

theorem unmark_wca1608 (bay : Nat) (l : Line) : (s.unmark bay l).wca1608 = s.wca1608 := by
  unfold State.unmark
  split <;> rfl

theorem unmark_cores (bay : Nat) (l : Line) : (s.unmark bay l).cores = s.cores := by
  unfold State.unmark
  split <;> rfl

theorem dropLine_frame (bay : Nat) (l : Line) : (s.dropLine bay l).ctl = s.ctl ∧ (s.dropLine bay l).wca1608 = s.wca1608 ∧
    (s.dropLine bay l).cores = s.cores ∧ (l.dirty = false → (s.dropLine bay l).mem = s.mem) := by
  unfold State.dropLine
  split
  · next hd => exact ⟨unmark_ctl s bay l, unmark_wca1608 s bay l, unmark_cores s bay l, fun h => by simp [h] at hd⟩
  · exact ⟨unmark_ctl s bay l, unmark_wca1608 s bay l, unmark_cores s bay l, fun _ => s.unmark_mem bay l⟩

theorem dropLine_bay (bay : Nat) (l : Line) (n : Nat) :
    (s.dropLine bay l).bay n = if n = bay then (s.bay bay).drop l.line else s.bay n := by
  have hb : ∀ t : State, t.bays = s.bays → (t.setBay bay ((t.bay bay).drop l.line)).bay n =
      if n = bay then (s.bay bay).drop l.line else s.bay n := by
    intro t ht
    simp only [State.setBay, State.bay, nget_nset, ht]
  unfold State.dropLine
  split
  · exact hb _ (unmark_bays s bay l)
  · exact hb _ (unmark_bays s bay l)

end

/-- The remote lines of a bay, as a lost link drops them. -/
def dropRemote (st : State) (e : Nat × Bay) : State :=
  (e.2.lines.filter fun l => decide (l.kind = .remote)).foldl (fun (a : State) (l : Line) => a.dropLine e.1 l) st

theorem mem_dropLines {n bay : Nat} {ls : List Line} {st : State} {l : Line}
    (h : l ∈ ((ls.foldl (fun (a : State) (x : Line) => a.dropLine bay x) st).bay n).lines) :
    l ∈ (st.bay n).lines ∧ (n = bay → ∀ x ∈ ls, l.line ≠ x.line) := by
  induction ls generalizing st with
  | nil => exact ⟨h, fun _ x hx => by cases hx⟩
  | cons x ls ih =>
    obtain ⟨hm, hn⟩ := ih h
    rw [dropLine_bay] at hm
    split at hm
    · next e =>
      subst e
      obtain ⟨hl, hx⟩ := List.mem_filter.1 hm
      refine ⟨hl, fun _ y hy => ?_⟩
      rcases List.mem_cons.1 hy with rfl | hy
      · simpa using hx
      · exact hn rfl y hy
    · next e => exact ⟨hm, fun he => absurd he e⟩

theorem mem_dropRemotes {n : Nat} {es : NMap Bay} {st : State} {l : Line} (h : l ∈ ((es.foldl dropRemote st).bay n).lines) :
    l ∈ (st.bay n).lines ∧ ∀ e ∈ es, e.1 = n → ∀ x ∈ e.2.lines, x.kind = .remote → l.line ≠ x.line := by
  induction es generalizing st with
  | nil => exact ⟨h, fun e he => by cases he⟩
  | cons e es ih =>
    obtain ⟨hm, hn⟩ := ih h
    obtain ⟨hl, hx⟩ := mem_dropLines hm
    refine ⟨hl, fun e' he' => ?_⟩
    rcases List.mem_cons.1 he' with rfl | he'
    · exact fun hen x hxm hk => hx hen.symm x (List.mem_filter.2 ⟨hxm, by simpa using hk⟩)
    · exact hn e' he'

/-- What the drop of remote lines leaves alone. -/
structure DropsOnly (s t : State) : Prop where
  ctl : t.ctl = s.ctl
  wca1608 : t.wca1608 = s.wca1608
  cores : t.cores = s.cores

theorem dropRemote_only (st : State) (e : Nat × Bay) : DropsOnly st (dropRemote st e) := by
  refine List.foldlRecOn (motive := fun t : State => DropsOnly st t) _ _ ⟨rfl, rfl, rfl⟩ fun t ht l _ => ?_
  obtain ⟨h1, h2, h3, -⟩ := dropLine_frame t e.1 l
  exact ⟨h1.trans ht.ctl, h2.trans ht.wca1608, h3.trans ht.cores⟩

theorem dropRemotes_only (es : NMap Bay) (st : State) : DropsOnly st (es.foldl dropRemote st) := by
  refine List.foldlRecOn (motive := fun t : State => DropsOnly st t) _ _ ⟨rfl, rfl, rfl⟩ fun t ht e _ => ?_
  obtain ⟨h1, h2, h3⟩ := dropRemote_only t e
  exact ⟨h1.trans ht.ctl, h2.trans ht.wca1608, h3.trans ht.cores⟩

theorem dropRemotes_mem {es : NMap Bay} (h : ∀ e ∈ es, ∀ l ∈ e.2.lines, l.kind = .remote → l.dirty = false) (st : State) :
    (es.foldl dropRemote st).mem = st.mem := by
  refine List.foldlRecOn (motive := fun t : State => t.mem = st.mem) _ _ rfl fun t ht e he => ?_
  refine List.foldlRecOn (motive := fun u : State => u.mem = st.mem) _ _ ht fun u hu l hl => ?_
  obtain ⟨hm, hk⟩ := List.mem_filter.1 hl
  obtain ⟨-, -, -, hd⟩ := dropLine_frame u e.1 l
  rw [hd (h e he l hm (by simpa using hk)), hu]

/-- A bay that forgets the copies in the modules beyond a port. -/
def Bay.forget (b : Bay) (gone : Nat → Bool) : Bay :=
  { b with lines := b.lines.map fun l => { l with modules := l.modules.filter fun m => !gone m } }

section
variable (s : State) (i : Nat)

theorem linkLost_eq : s.linkLost i = (let s1 := s.bays.foldl dropRemote s
    { s1 with bays := s1.bays.map fun e => (e.1, e.2.forget (s.beyond i)) } : State).flowsMove := rfl

theorem linkLost_bay (n : Nat) : (s.linkLost i).bay n = ((s.bays.foldl dropRemote s).bay n).forget (s.beyond i) := by
  rw [linkLost_eq]
  exact nget_map (g := fun b : Bay => b.forget (s.beyond i)) rfl _ n

theorem linkLost_noRemote (n : Nat) {l : Line} (h : l ∈ ((s.linkLost i).bay n).lines) : l.kind ≠ .remote := by
  rw [linkLost_bay] at h
  obtain ⟨l', hl', rfl⟩ := List.mem_map.1 h
  obtain ⟨hm, hx⟩ := mem_dropRemotes hl'
  intro hk
  rcases nget_mem ({} : Bay) s.bays n with e | e
  · rw [State.bay, e] at hm
    cases hm
  · exact hx _ e rfl l' hm hk rfl

theorem linkLost_cores : (s.linkLost i).cores = s.cores := by
  rw [linkLost_eq]
  exact (dropRemotes_only s.bays s).cores

theorem linkLost_creg (off : Nat) : (s.linkLost i).creg off = s.creg off := by
  have h := dropRemotes_only s.bays s
  rw [linkLost_eq]
  show nget (ctlReset (s.bays.foldl dropRemote s).wca1608 off) (s.bays.foldl dropRemote s).ctl off = s.creg off
  rw [h.ctl, h.wca1608, State.creg]

theorem linkLost_mem (h : ∀ e ∈ s.bays, ∀ l ∈ e.2.lines, l.kind = .remote → l.dirty = false) : (s.linkLost i).mem = s.mem := by
  rw [linkLost_eq]
  exact dropRemotes_mem h s

end

theorem portDown_claim (s : State) (i : Nat) : (s.portDown i).cfld (offPort i) 0 3 = 0 ∧ (s.portDown i).cores = s.cores ∧
    (∀ b l, l ∈ ((s.portDown i).bay b).lines → l.kind ≠ .remote) ∧
    ((∀ e, e ∈ s.bays → ∀ l, l ∈ e.2.lines → l.kind = .remote → l.dirty = false) → SameMemory s (s.portDown i)) := by
  unfold State.portDown
  refine ⟨?_, (linkLost_cores ..).trans rfl, fun b l h => linkLost_noRemote _ i b h, fun h a => ?_⟩
  · rw [State.cfld_congr (linkLost_creg ..)]
    exact State.cfld_setCfld_same s (offPort i) 0 (by omega)
  · rw [linkLost_mem ((s.setCfld (offPort i) 0 3 0).logEv 431 i) i h]
    rfl

/-! ### Flit errors (R431) -/

theorem retry_of_lt {x : Link} (h : x.retries < 16) (d : Nat) (trained : Bool) :
    ∃ n, (n = 1 ∨ n = x.retries + 1) ∧ x.retry d trained = ({ x with retries := n }, false, false) := by
  refine ⟨(if d % 2 = 0 then x.retries else 0) + 1, ?_, ?_⟩
  · split
    · exact .inr rfl
    · exact .inl rfl
  · refine if_pos ?_
    split <;> omega

section
variable (s : State)

theorem link_setLink_same (i : Nat) (x : Link) : (s.setLink i x).link i = x := by simp [State.link, State.setLink]

theorem link_setLink_ne {i j : Nat} (x : Link) (h : j ≠ i) : (s.setLink i x).link j = s.link j := by
  simp [State.link, State.setLink, nget_nset_ne _ _ _ h]

theorem setLink_creg (i : Nat) (x : Link) (off : Nat) : (s.setLink i x).creg off = s.creg off := rfl

theorem drew_setCreg_setLink_rest (off : Nat) (v : W64) (i : Nat) (x : Link) :
    { (s.drew.setCreg off v).setLink i x with ctl := s.ctl, links := s.links, free := s.free } = s := by
  cases s
  rfl

theorem drew_bump_setLink_rest (fam unit pos n i : Nat) (x : Link) :
    { (s.drew.bump fam unit pos n).setLink i x with links := s.links, ctr := s.ctr, free := s.free } = s := by
  cases s
  rfl

theorem link_drew_bump (fam unit pos n j : Nat) : (s.drew.bump fam unit pos n).link j = s.link j := rfl

theorem portCount_creg_same {off i k : Nat} (n : Nat) (h : off = offPort i + 8 * k) :
    (s.portCount i k n).creg off = sat64 ((s.creg off).toNat + n) := by
  rw [h, State.portCount, State.creg_setCreg_same]

theorem portCount_creg_ne {off i k : Nat} (n : Nat) (h : off ≠ offPort i + 8 * k) : (s.portCount i k n).creg off = s.creg off := by
  rw [State.portCount, State.creg_setCreg_ne _ _ h]

/-- A port's flit error that stays below the limit counts as a retry of its link. -/
theorem seunonFlitError_retry {i : Nat} (hl : s.portLive i = true) (hr : (s.link (linkOfPort i)).retries < 16) (trained : Bool) :
    ∃ n, (n = 1 ∨ n = (s.link (linkOfPort i)).retries + 1) ∧ seunonFlitError i trained s =
      (s.drew.portCount i 4 1).setLink (linkOfPort i) { s.link (linkOfPort i) with retries := n } := by
  obtain ⟨n, hn, e⟩ := retry_of_lt hr s.draw trained
  refine ⟨n, hn, ?_⟩
  unfold seunonFlitError
  rw [if_neg (by simp [hl]), e]
  rfl

/-- A hinge bridge's flit error that stays below the limit counts as a retry of the link. -/
theorem hingeBridgeFlitError_retry {k : Nat} (hl : (s.link k).retired = false) (hr : (s.link k).retries < 16) (trained : Bool) :
    ∃ n unit pos, (n = 1 ∨ n = (s.link k).retries + 1) ∧ hingeBridgeFlitError k trained s =
      (s.drew.bump 0x10 unit pos 1).setLink k { s.link k with retries := n } := by
  obtain ⟨n, hn, e⟩ := retry_of_lt hr s.draw trained
  refine ⟨n, 1344 + (if k < 56 then k / 28 else 0), 14 + (if k < 56 then 0 else 1), hn, ?_⟩
  unfold hingeBridgeFlitError
  rw [if_neg (by simp [hl]), e]
  rfl

end

theorem seunonPorts_claim : Claim.SeunonPorts := by
  intro s i hi
  have onPort : ∀ t, onUnit (Unit.port i) t = .next t := fun t => by
    rw [hi]
    rfl
  have onLink : ∀ k t, k < 84 → onUnit (decide (k < 84)) t = .next t := fun k t hk => by
    rw [decide_eq_true hk]
    rfl
  refine ⟨training_claim s i hi, fun r h => ?_, fun hl => ?_, fun hl => ?_, fun trained hl hr => ?_, fun k trained hk hl hr => ?_,
    fun k trained hk hl => ?_⟩
  · exact (onPort _).trans (by rw [seunonTrainingDone_idle h])
  · obtain ⟨h1, h2, h3, h4⟩ := portDown_claim s i
    exact ⟨s.portDown i, (onPort _).trans (by rw [if_pos hl]), h1, h2, fun _ => h3, h4⟩
  · exact (onPort _).trans (by simp [hl])
  · obtain ⟨n, hn, e⟩ := seunonFlitError_retry s hl hr trained
    refine ⟨_, n, onPort _, hn, ?_⟩
    rw [e]
    refine ⟨link_setLink_same .., ?_, State.cfld_congr ?_ 0 3, drew_setCreg_setLink_rest ..⟩
    · rw [setLink_creg]
      exact portCount_creg_same s.drew 1 (by omega)
    · rw [setLink_creg]
      exact portCount_creg_ne s.drew 1 (by omega)
  · obtain ⟨n, unit, pos, hn, e⟩ := hingeBridgeFlitError_retry s hl hr trained
    refine ⟨_, n, onLink k _ hk, hn, ?_⟩
    rw [e]
    exact ⟨link_setLink_same .., fun j hj => (link_setLink_ne _ _ hj).trans (link_drew_bump ..), drew_bump_setLink_rest ..⟩
  · exact (onLink k _ hk).trans (by rw [hingeBridgeFlitError, if_pos hl])

/-! ### Remote requests (R17, R61, R428, R430) -/

section
variable {s : State} {i : Nat} {r : RemoteReq}

theorem exec_seunonRemoteRequest (hi : Unit.port i = true) (hf : Unit.fn r.fn = true) (hc : r.cls < 8) :
    exec (.seunonRemoteRequest i r) s = .next (seunonRemoteRequest i r s) := by
  show onUnit (Unit.port i && Unit.fn r.fn) (if 8 ≤ r.cls then s else seunonRemoteRequest i r s) = _
  rw [hi, hf, if_neg (by omega)]
  rfl

theorem seunonRemoteRequest_forward (hp : s.cfld (offPort i) 0 3 = 2 ∨ s.cfld (offPort i) 0 3 = 3) (ht : r.target ≠ s.moduleId) :
    seunonRemoteRequest i r s = s.forward i r := by
  unfold seunonRemoteRequest
  rw [if_neg (by omega), if_pos ht]

/-- A request that the regions refuse counts at its port; only the function's count, the events and a read's answer change else. -/
theorem seunonRemoteRequest_refused (hp : s.cfld (offPort i) 0 3 = 2 ∨ s.cfld (offPort i) 0 3 = 3) (ht : r.target = s.moduleId)
    (hl : r.len ≠ 0) (hm : s.remoteMay r = false) :
    ∃ x y, seunonRemoteRequest i r s = { s.portCount i 6 1 with fns := x, mc := y } := by
  unfold seunonRemoteRequest
  rw [if_neg (by omega), if_neg (not_not.2 ht), if_neg hl, if_pos (by simp [hm])]
  generalize s.portCount i 6 1 = w
  extract_lets s0 s1
  have h1 : ∃ x y, s1 = { w with fns := x, mc := y } := by
    unfold s1
    split
    · exact ⟨_, _, rfl⟩
    · exact ⟨_, _, rfl⟩
  clear_value s1
  obtain ⟨x, y, rfl⟩ := h1
  split
  · exact ⟨x, _, rfl⟩
  · exact ⟨x, _, rfl⟩

/-- The store that a write for this module queues. -/
def remoteStore (s : State) (r : RemoteReq) (bs : List Byte) : Store :=
  { addr := s.moduleId * 2 ^ 44 + r.off, bytes := padTo r.len bs, cls := r.cls, fn := r.fn, epoch := 0, core := 0 }

/-- A request within the regions, at open memory: a write is queued, and a read that no full miss list holds up is served. -/
theorem seunonRemoteRequest_served (hp : s.cfld (offPort i) 0 3 = 2 ∨ s.cfld (offPort i) 0 3 = 3) (ht : r.target = s.moduleId)
    (hl : r.len ≠ 0) (hm : s.remoteMay r = true) (hd : s.doorAt r.off = false) (ha : s.asleep (partOfOff r.off) = false) :
    seunonRemoteRequest i r s = match r.data with
      | none => if (blocksOf 128 r.off r.len).any s.homeBusy then s else s.remoteRead r
      | some bs => { s with writes := s.writes ++ [remoteStore s r bs] } := by
  unfold seunonRemoteRequest
  rw [if_neg (by omega), if_neg (not_not.2 ht), if_neg hl, if_neg (by simp [hm]), if_neg (by simp [hd]), if_neg (by simp [ha])]
  cases r.data <;> rfl

theorem remoteRead_lastRead : (s.remoteRead r).mc.lastRead = some (s.memRead r.off r.len, s.rangePoison r.off r.len) := rfl

end

theorem logEv_rest (s : State) (kind num : Nat) : { s.logEv kind num with mc := s.mc } = s := by
  cases s
  rfl

theorem logEv_answerRead_rest (s : State) (kind num : Nat) (bs : List Byte) (bad : Bool) :
    { (s.logEv kind num).answerRead bs bad with mc := s.mc } = s := by
  cases s
  rfl

theorem remoteRequests_claim : Claim.RemoteRequests := by
  intro s i r hi hf hc hp
  have he := exec_seunonRemoteRequest (s := s) hi hf hc
  refine ⟨fun ht hr => ?_, fun ht hr => ?_, fun ht hl hm hd ha hb => ⟨fun bs hbs => ?_, fun hn => ?_⟩, fun ht hl hm => ?_⟩
  · refine ⟨1 + s.draw % (r.len + 1), by omega, ?_⟩
    rw [he, seunonRemoteRequest_forward hp ht, State.forward, if_pos hr]
  · refine ⟨_, he, ?_⟩
    rw [seunonRemoteRequest_forward hp ht, State.forward, if_neg (by simp [hr])]
    cases hd : r.data with
    | none => exact ⟨rfl, rfl, logEv_answerRead_rest ..⟩
    | some bs => exact ⟨rfl, rfl, logEv_rest ..⟩
  · refine ⟨_, remoteStore s r bs, he, ?_⟩
    rw [seunonRemoteRequest_served hp ht hl hm hd ha, hbs]
    exact ⟨rfl, rfl, rfl, rfl, rfl, rfl⟩
  · have hro := readOnly_remoteRead s r
    refine ⟨_, he, ?_⟩
    rw [seunonRemoteRequest_served hp ht hl hm hd ha, hn]
    dsimp only
    rw [hb]
    exact ⟨remoteRead_lastRead, hro.cores, hro.host, hro.sameMemory⟩
  · obtain ⟨x, y, e⟩ := seunonRemoteRequest_refused hp ht hl hm
    have hcnt := portCount_creg_same (off := offPort i + 48) s (i := i) (k := 6) 1 (by omega)
    refine ⟨_, he, ?_⟩
    rw [e]
    exact ⟨hcnt, rfl, rfl, fun _ => rfl⟩

/-- Settles O45, claim by claim: knocks, ports and remote requests. -/
theorem moduleLinks : Obligations.ModuleLinks := ⟨knocks_claim, seunonPorts_claim, remoteRequests_claim⟩

end Sys2Proof.Machine
end

section
namespace Sys2Proof.Machine
open Sys2Proof

/-! SUPPORT. No operation of the model touches the queue or the ordering code: one rule for each operation that the commands
use, in the order of the files that define them. An operation that answers a memory access keeps them in the state it answers
with. -/

/-- What every command leaves as it is: the commands that wait behind it and the ordering code of the module (R1). -/
def State.fixed (s : State) : List Instr × Bool := (s.pending, s.wca1608)

/-- An answered memory access of s, where it carries a state, keeps the fixed part. -/
def MemAns.Keeps (s : State) : MemAns → Prop
  | .ok _ t => t.fixed = s.fixed
  | .trap _ _ t => t.fixed = s.fixed
  | .wait _ => True

/-- The same for the accesses of a group's lanes. -/
def LaneAns.Keeps (s : State) : LaneAns → Prop
  | .ok t => t.fixed = s.fixed
  | .trap _ _ _ t => t.fixed = s.fixed
  | .wait _ => True

/-! ### Branches, folds and record updates -/

@[simp] theorem fixed_ite (c : Prop) [Decidable c] (a b : State) :
    (if c then a else b).fixed = if c then a.fixed else b.fixed := apply_ite ..

@[simp] theorem fst_ite {α β} (c : Prop) [Decidable c] (a b : α × β) :
    (if c then a else b).1 = if c then a.1 else b.1 := apply_ite ..

@[simp] theorem snd_ite {α β} (c : Prop) [Decidable c] (a b : α × β) :
    (if c then a else b).2 = if c then a.2 else b.2 := apply_ite ..

@[simp] theorem foldl_fixed {α} (f : State → α → State) (h : ∀ t a, (f t a).fixed = t.fixed) (l : List α) (s : State) :
    (l.foldl f s).fixed = s.fixed := by
  induction l generalizing s with
  | nil => rfl
  | cons a l ih => exact (ih _).trans (h s a)

/-- A record update of the other fields keeps the fixed part. -/
@[simp] theorem State.fixed_with (s : State) (a b c d e f g h i j k l m n o p q r t u v w x y z aa bb cc dd ee ff gg hh) :
    State.fixed ⟨s.pending, s.wca1608, a, b, c, d, e, f, g, h, i, j, k, l, m, n, o, p, q, r, t, u, v, w, x, y, z, aa, bb, cc, dd,
      ee, ff, gg, hh⟩ = s.fixed :=
  Prod.ext rfl rfl

@[simp] theorem foldl_fst_fixed {α β} (f : State × β → α → State × β) (h : ∀ x a, (f x a).1.fixed = x.1.fixed) (l : List α)
    (x : State × β) : (l.foldl f x).1.fixed = x.1.fixed := by
  induction l generalizing x with
  | nil => rfl
  | cons a l ih => exact (ih _).trans (h x a)

@[simp] theorem foldl_snd_fixed {α β} (f : β × State → α → β × State) (h : ∀ x a, (f x a).2.fixed = x.2.fixed) (l : List α)
    (x : β × State) : (l.foldl f x).2.fixed = x.2.fixed := by
  induction l generalizing x with
  | nil => rfl
  | cons a l ih => exact (ih _).trans (h x a)

@[simp] theorem MemAns.keeps_ok (s t : State) (bs : List Byte) : (MemAns.ok bs t).Keeps s ↔ t.fixed = s.fixed := Iff.rfl
@[simp] theorem MemAns.keeps_trap (s t : State) (a b : Nat) : (MemAns.trap a b t).Keeps s ↔ t.fixed = s.fixed := Iff.rfl
@[simp] theorem MemAns.keeps_wait (s : State) (w : Option Nat) : (MemAns.wait w).Keeps s := trivial
@[simp] theorem LaneAns.keeps_ok (s t : State) : (LaneAns.ok t).Keeps s ↔ t.fixed = s.fixed := Iff.rfl
@[simp] theorem LaneAns.keeps_trap (s t : State) (a b c : Nat) : (LaneAns.trap a b c t).Keeps s ↔ t.fixed = s.fixed := Iff.rfl

theorem MemAns.Keeps.trans {s u : State} {r : MemAns} (hr : r.Keeps s) (h : s.fixed = u.fixed) : r.Keeps u := by
  cases r with
  | wait w => trivial
  | _ => exact Eq.trans hr h

theorem LaneAns.Keeps.trans {s u : State} {r : LaneAns} (hr : r.Keeps s) (h : s.fixed = u.fixed) : r.Keeps u := by
  cases r with
  | wait w => trivial
  | _ => exact Eq.trans hr h

/-! ### Ops -/

@[simp] theorem State.setCreg_fixed (s : State) (off : Nat) (v : W64) : (s.setCreg off v).fixed = s.fixed := by
  simp [State.setCreg]

@[simp] theorem State.setCfld_fixed (s : State) (off lo n x : Nat) : (s.setCfld off lo n x).fixed = s.fixed := by
  simp [State.setCfld]

@[simp] theorem State.bump_fixed (s : State) (fam unit pos n : Nat) : (s.bump fam unit pos n).fixed = s.fixed := by
  simp [State.bump]

@[simp] theorem State.setCounter_fixed (s : State) (fam unit pos : Nat) (v : W64) :
    (s.setCounter fam unit pos v).fixed = s.fixed := by
  simp [State.setCounter]

@[simp] theorem State.drew_fixed (s : State) : (s.drew).fixed = s.fixed := by simp [State.drew]
@[simp] theorem State.logEv_fixed (s : State) (kind num : Nat) : (s.logEv kind num).fixed = s.fixed := by simp [State.logEv]
@[simp] theorem State.alert_fixed (s : State) (b : Nat) : (s.alert b).fixed = s.fixed := by simp [State.alert]
@[simp] theorem State.setCore_fixed (s : State) (c : Nat) (k : Core) : (s.setCore c k).fixed = s.fixed := by simp [State.setCore]
@[simp] theorem State.setBay_fixed (s : State) (n : Nat) (b : Bay) : (s.setBay n b).fixed = s.fixed := by simp [State.setBay]
@[simp] theorem State.setFn_fixed (s : State) (f : Nat) (x : Fn) : (s.setFn f x).fixed = s.fixed := by simp [State.setFn]

@[simp] theorem State.setRegion_fixed (s : State) (f i : Nat) (r : Region) : (s.setRegion f i r).fixed = s.fixed := by
  simp [State.setRegion]

@[simp] theorem State.setPart_fixed (s : State) (p : Nat) (x : Part) : (s.setPart p x).fixed = s.fixed := by simp [State.setPart]

@[simp] theorem State.setGroup_fixed (s : State) (g : Nat) (x : SpecGroup) : (s.setGroup g x).fixed = s.fixed := by
  simp [State.setGroup]

@[simp] theorem State.setNb_fixed (s : State) (st : Nat) (x : NbStack) : (s.setNb st x).fixed = s.fixed := by simp [State.setNb]

@[simp] theorem State.modRun_fixed (s : State) (id : Nat) (f : Run → Run) : (s.modRun id f).fixed = s.fixed := by
  simp [State.modRun]

@[simp] theorem State.modCmd_fixed (s : State) (id : Nat) (f : Cmd → Cmd) : (s.modCmd id f).fixed = s.fixed := by
  simp [State.modCmd]

@[simp] theorem State.pwrCount_fixed (s : State) (p k : Nat) : (s.pwrCount p k).fixed = s.fixed := by simp [State.pwrCount]
@[simp] theorem State.countWake_fixed (s : State) : (s.countWake).fixed = s.fixed := by simp [State.countWake]

@[simp] theorem State.openPart_fixed (s : State) (p : Nat) : (s.openPart p).fixed = s.fixed := by
  unfold State.openPart
  (repeat' split) <;> simp

@[simp] theorem State.demandWake_fixed (s : State) (p : Nat) : (s.demandWake p).fixed = s.fixed := by simp [State.demandWake]

@[simp] theorem State.wakeFor_fixed (s : State) (w : Option Nat) : (s.wakeFor w).fixed = s.fixed := by
  unfold State.wakeFor
  split <;> simp

@[simp] theorem State.keyhole_fixed (s : State) : (s.keyhole).fixed = s.fixed := by simp [State.keyhole]

/-! ### LetterOps -/

@[simp] theorem State.hostWrite_fixed (s : State) (a : Nat) (bs : List Byte) : (s.hostWrite a bs).fixed = s.fixed := by
  simp [State.hostWrite]

@[simp] theorem State.modFn_fixed (s : State) (f : Nat) (g : Fn → Fn) : (s.modFn f g).fixed = s.fixed := by simp [State.modFn]

@[simp] theorem State.message_fixed (s : State) (f : Nat) (m : Msix) (comp : Bool) : (s.message f m comp).fixed = s.fixed := by
  simp [State.message]

@[simp] theorem State.irq_fixed (s : State) (f v : Nat) (comp : Bool) : (s.irq f v comp).fixed = s.fixed := by simp [State.irq]
@[simp] theorem State.event_fixed (s : State) (f : Nat) : (s.event f).fixed = s.fixed := by simp [State.event]
@[simp] theorem State.signal_fixed (s : State) (f : Nat) : (s.signal f).fixed = s.fixed := by simp [State.signal]

@[simp] theorem State.writeComp_fixed (s : State) (f : Nat) (c : Comp) : (s.writeComp f c).fixed = s.fixed := by
  simp [State.writeComp]

@[simp] theorem State.postComp_fixed (s : State) (f : Nat) (c : Comp) : (s.postComp f c).fixed = s.fixed := by
  simp [State.postComp]

@[simp] theorem State.modSlot_fixed (s : State) (f i : Nat) (g : ResultSlot → ResultSlot) :
    (s.modSlot f i g).fixed = s.fixed := by
  simp [State.modSlot]

@[simp] theorem State.slotFilling_fixed (s : State) (f i : Nat) (tag : BitVec 16) : (s.slotFilling f i tag).fixed = s.fixed := by
  simp [State.slotFilling]

@[simp] theorem State.slotReady_fixed (s : State) (f i status : Nat) (payload : List Byte) :
    (s.slotReady f i status payload).fixed = s.fixed := by
  simp [State.slotReady]

@[simp] theorem State.settle_fixed (s : State) (f : Nat) : (s.settle f).fixed = s.fixed := by simp [State.settle]

@[simp] theorem State.deliver_fixed (s : State) (c : Cmd) (status : Nat) (result : List Byte) :
    (s.deliver c status result).fixed = s.fixed := by
  simp [State.deliver]

@[simp] theorem State.dropCmd_fixed (s : State) (id : Nat) : (s.dropCmd id).fixed = s.fixed := by simp [State.dropCmd]

@[simp] theorem State.complete_fixed (s : State) (id status : Nat) (detail : W64) (result : List Byte) :
    (s.complete id status detail result).fixed = s.fixed := by
  unfold State.complete
  split <;> simp

@[simp] theorem State.finish_fixed (s : State) (id status : Nat) : (s.finish id status).fixed = s.fixed := by simp [State.finish]
@[simp] theorem State.badField_fixed (s : State) (id off : Nat) : (s.badField id off).fixed = s.fixed := by simp [State.badField]
@[simp] theorem State.badData_fixed (s : State) (id off : Nat) : (s.badData id off).fixed = s.fixed := by simp [State.badData]
@[simp] theorem State.badState_fixed (s : State) (id : Nat) : (s.badState id).fixed = s.fixed := by simp [State.badState]

/-! ### MirrorOps -/

@[simp] theorem State.noteWrite_fixed (s : State) (owner off : Nat) (bs : List Byte) :
    (s.noteWrite owner off bs).fixed = s.fixed := by
  unfold State.noteWrite
  (repeat' split) <;> simp

@[simp] theorem State.setLag_fixed (s : State) : (s.setLag).fixed = s.fixed := by simp [State.setLag]

@[simp] theorem State.sendStep_fixed (s : State) (fn : Nat) (tag : BitVec 16) (writes : List (Nat × Nat × Nat × List Byte))
    (table : Option (Nat × Nat × BitVec 64)) :
    (s.sendStep fn tag writes table).fixed = s.fixed := by
  simp [State.sendStep]

@[simp] theorem State.mirrorEnd_fixed (s : State) (owner fn : Nat) (tag : BitVec 16) :
    (s.mirrorEnd owner fn tag).fixed = s.fixed := by
  simp [State.mirrorEnd]

/-! ### HbmOps -/

@[simp] theorem State.hbmCount_fixed (s : State) (off pos n : Nat) : (s.hbmCount off pos n).fixed = s.fixed := by
  simp [State.hbmCount]

@[simp] theorem State.setChk_fixed (s : State) (off : Nat) (v : W32) : (s.setChk off v).fixed = s.fixed := by simp [State.setChk]

@[simp] theorem State.memWrite_fixed (s : State) (off : Nat) (bs : List Byte) : (s.memWrite off bs).fixed = s.fixed := by
  simp [State.memWrite]

/-! ### BayOps -/

@[simp] theorem State.sill_fixed (s : State) (bay pos n : Nat) : (s.sill bay pos n).fixed = s.fixed := by simp [State.sill]

@[simp] theorem State.sillC_fixed (s : State) (bay pos cls n : Nat) : (s.sillC bay pos cls n).fixed = s.fixed := by
  simp [State.sillC]

@[simp] theorem State.hbmPut_fixed (s : State) (off : Nat) (v : Byte) : (s.hbmPut off v).fixed = s.fixed := by
  unfold State.hbmPut
  dsimp only
  split <;> simp

@[simp] theorem State.hbmFlip_fixed (s : State) (off : Nat) (x : Byte) : (s.hbmFlip off x).fixed = s.fixed := by
  simp [State.hbmFlip]

@[simp] theorem State.sectorRead_fixed (s : State) (off : Nat) : (s.sectorRead off).1.fixed = s.fixed := by
  unfold State.sectorRead
  dsimp only
  (repeat' split) <;> simp

@[simp] theorem State.sectorPut_fixed (s : State) (off n : Nat) (poison : Bool) : (s.sectorPut off n poison).fixed = s.fixed := by
  simp [State.sectorPut]

@[simp] theorem State.hbmWrite_fixed (s : State) (off : Nat) (bs : List Byte) : (s.hbmWrite off bs).fixed = s.fixed := by
  simp [State.hbmWrite]

@[simp] theorem State.hbmFetch_fixed (s : State) (off n : Nat) : (s.hbmFetch off n).1.fixed = s.fixed := by simp [State.hbmFetch]
@[simp] theorem State.farBeats_fixed (s : State) (bay n : Nat) : (s.farBeats bay n).fixed = s.fixed := by simp [State.farBeats]
@[simp] theorem State.unmark_fixed (s : State) (bay : Nat) (l : Line) : (s.unmark bay l).fixed = s.fixed := by simp [State.unmark]

@[simp] theorem State.writeBack_fixed (s : State) (bay : Nat) (l : Line) : (s.writeBack bay l).fixed = s.fixed := by
  simp [State.writeBack]

@[simp] theorem State.dropLine_fixed (s : State) (bay : Nat) (l : Line) : (s.dropLine bay l).fixed = s.fixed := by
  simp [State.dropLine]

@[simp] theorem State.flushLine_fixed (s : State) (bay : Nat) (l : Line) : (s.flushLine bay l).fixed = s.fixed := by
  simp [State.flushLine]

@[simp] theorem State.dropCopiesOf_fixed (s : State) (ln : Nat) (p : Nat → Bool) : (s.dropCopiesOf ln p).fixed = s.fixed := by
  unfold State.dropCopiesOf
  refine foldl_fixed _ (fun _ _ => ?_) _ _
  split <;> simp

@[simp] theorem State.evictLine_fixed (s : State) (bay : Nat) (l : Line) : (s.evictLine bay l).fixed = s.fixed := by
  simp [State.evictLine]

@[simp] theorem State.makeRoom_fixed (s : State) (bay : Nat) (v : Option Line) : (s.makeRoom bay v).fixed = s.fixed := by
  unfold State.makeRoom
  split <;> simp

@[simp] theorem State.allocLine_fixed (s : State) (bay : Nat) (new : Line) : (s.allocLine bay new).1.fixed = s.fixed := by
  unfold State.allocLine
  split <;> simp

@[simp] theorem State.takeWay_fixed (s : State) (bay core kind idx cls : Nat) :
    (s.takeWay bay core kind idx cls).1.fixed = s.fixed := by
  unfold State.takeWay
  dsimp only
  (repeat' split) <;> simp

@[simp] theorem State.takeWays_fixed (s : State) (bay core kind cls : Nat) (idxs : List Nat) :
    (s.takeWays bay core kind cls idxs).1.fixed = s.fixed := by
  simp [State.takeWays]

@[simp] theorem State.giveWays_fixed (s : State) (core kind : Nat) (p : Nat → Bool) :
    (s.giveWays core kind p).fixed = s.fixed := by
  simp [State.giveWays]

@[simp] theorem State.hitLine_fixed (s : State) (bay : Nat) (l : Line) (cls : Nat) : (s.hitLine bay l cls).fixed = s.fixed := by
  simp [State.hitLine]

@[simp] theorem State.putRuns_fixed (s : State) (h : Nat) (l : Line) (runs : List (Nat × List Byte)) (writer : Option Nat) :
    (s.putRuns h l runs writer).1.fixed = s.fixed := by
  simp [State.putRuns]

theorem fixed_of_alloc {s t : State} {bay : Nat} {new : Line} {ok : Bool} (h : s.allocLine bay new = (t, ok)) :
    t.fixed = s.fixed := by
  simpa [h] using State.allocLine_fixed s bay new

@[simp] theorem State.lineRuns_fixed (s : State) (ln : Nat) (runs : List (Nat × List Byte)) (cls : Nat) (writer : Option Nat) :
    (s.lineRuns ln runs cls writer).1.fixed = s.fixed := by
  unfold State.lineRuns
  dsimp only
  split
  · simp
  · split_ifs
    · split <;> next e => simp [fixed_of_alloc e]
    · split <;> next e => simp [fixed_of_alloc e]
    · simp

@[simp] theorem State.lineWrite_fixed (s : State) (off : Nat) (bs : List Byte) (cls : Nat) (writer : Option Nat) :
    (s.lineWrite off bs cls writer).1.fixed = s.fixed := by
  simp [State.lineWrite]

@[simp] theorem State.homeWriteBy_fixed (s : State) (off : Nat) (bs : List Byte) (cls : Nat) (writer : Option Nat) :
    (s.homeWriteBy off bs cls writer).1.fixed = s.fixed := by
  simp [State.homeWriteBy]

@[simp] theorem State.homeWrite_fixed (s : State) (off : Nat) (bs : List Byte) (cls : Nat) :
    (s.homeWrite off bs cls).1.fixed = s.fixed := by
  simp [State.homeWrite]

@[simp] theorem State.invalRange_fixed (s : State) (off n : Nat) (dropDirty : Bool) :
    (s.invalRange off n dropDirty).fixed = s.fixed := by
  simp [State.invalRange]

@[simp] theorem State.cleanRange_fixed (s : State) (off n : Nat) : (s.cleanRange off n).fixed = s.fixed := by
  simp [State.cleanRange]

/-! ### NbEngine -/

@[simp] theorem State.nbCount_fixed (s : State) (st pos n : Nat) : (s.nbCount st pos n).fixed = s.fixed := by simp [State.nbCount]

@[simp] theorem State.fetchSectors_fixed (s : State) (offs : List Nat) : (s.fetchSectors offs).1.fixed = s.fixed := by
  simp [State.fetchSectors]

@[simp] theorem State.upset_fixed (s : State) (off : Nat) (flips : List (Nat × Byte)) : (s.upset off flips).fixed = s.fixed := by
  simp [State.upset]

@[simp] theorem State.nbLoadRow_fixed (s : State) (st off n : Nat) : (s.nbLoadRow st off n).fixed = s.fixed := by
  simp [State.nbLoadRow]

@[simp] theorem State.nbLoad_fixed (s : State) (st : Nat) (o : NbOp) (act : Tensor) (kk : Nat) (toks : List Nat) :
    (s.nbLoad st o act kk toks).fixed = s.fixed := by
  simp [State.nbLoad]

@[simp] theorem State.nbRow_fixed (s : State) (st : Nat) (o : NbOp) (w act out : Tensor) (toks : List Nat) (r : Nat) :
    (s.nbRow st o w act out toks r).fixed = s.fixed := by
  simp [State.nbRow]

@[simp] theorem State.nbSector_fixed (s : State) (st : Nat) (o : NbOp) (w act out : Tensor) (toks rows : List Nat)
    (dirty : Bool) :
    (s.nbSector st o w act out toks rows dirty).1.fixed = s.fixed := by
  simp [State.nbSector]

@[simp] theorem State.nbRun_fixed (s : State) (st : Nat) (o : NbOp) (w act out : Tensor) (toks rows : List Nat) (dirty : Bool) :
    (s.nbRun st o w act out toks rows dirty).1.fixed = s.fixed := by
  simp [State.nbRun]

@[simp] theorem nbStep_fixed (st ch : Nat) (k : Kick) (q : NbSeq) (limit fuel op row used : Nat) (s : State) (bad : Bool) :
    (nbStep st ch k q limit fuel op row used s bad).1.fixed = s.fixed := by
  induction fuel generalizing op row used s bad with
  | zero => rfl
  | succ fuel ih =>
    rw [nbStep]
    split
    · rfl
    · split
      · rfl
      · split
        · extract_lets toks rows kk wb cost fits upTo todo x r
          split
          · exact ih ..
          · have hr : r.1.fixed = s.fixed := by simp only [r]; split <;> simp [x]
            clear_value r
            split
            · exact hr
            · exact (ih ..).trans hr
        · exact ih ..

@[simp] theorem State.refreshAll_fixed (s : State) (unit : Nat) : (s.refreshAll unit).fixed = s.fixed := by
  simp [State.refreshAll]

@[simp] theorem State.nbEndStep_fixed (s : State) (st ch : Nat) : (s.nbEndStep st ch).1.fixed = s.fixed := by
  unfold State.nbEndStep
  (repeat' split) <;> simp

@[simp] theorem State.nbFinish_fixed (s : State) (st : Nat) : (s.nbFinish st).1.fixed = s.fixed := by simp [State.nbFinish]

/-! ### SillReads -/

@[simp] theorem State.openMiss_fixed (s : State) (bay ln cls : Nat) (j : List Joiner) (prefetch : Bool) :
    (s.openMiss bay ln cls j prefetch).fixed = s.fixed := by
  unfold State.openMiss
  dsimp only
  split <;> simp

@[simp] theorem State.fillLine_fixed (s : State) (bay ln cls : Nat) (mark : Bool) (force : Bool) :
    (s.fillLine bay ln cls mark force).1.fixed = s.fixed := by
  simp [State.fillLine]

@[simp] theorem State.recordTower_fixed (s : State) (bay ln : Nat) : (s.recordTower bay ln).fixed = s.fixed := by
  simp [State.recordTower]

@[simp] theorem State.readAt_fixed (s : State) (bay ln cls : Nat) {fill : State → State} (h : ∀ t, (fill t).fixed = t.fixed) :
    (s.readAt bay ln cls fill).fixed = s.fixed := by
  unfold State.readAt
  dsimp only
  rw [State.farBeats_fixed]
  split <;> simp [h]

@[simp] theorem State.touch_fixed (s : State) (cluster ln cls : Nat) : (s.touch cluster ln cls).fixed = s.fixed := by
  simp [State.touch]

@[simp] theorem State.touchHome_fixed (s : State) (ln cls : Nat) : (s.touchHome ln cls).fixed = s.fixed := by
  simp [State.touchHome]

@[simp] theorem State.touchRange_fixed (s : State) (cluster off n cls : Nat) (p : Nat → Bool) :
    (s.touchRange cluster off n cls p).fixed = s.fixed := by
  simp [State.touchRange]

/-! ### RunOps -/

@[simp] theorem State.spec_fixed (s : State) (lp pos n : Nat) : (s.spec lp pos n).fixed = s.fixed := by simp [State.spec]

@[simp] theorem State.advanceSlots_fixed (s : State) (c : Nat) (p : Slot → Bool) : (s.advanceSlots c p).fixed = s.fixed := by
  simp [State.advanceSlots]

@[simp] theorem State.modCore_fixed (s : State) (c : Nat) (f : Core → Core) : (s.modCore c f).fixed = s.fixed := by
  simp [State.modCore]

@[simp] theorem State.stopCore_fixed (s : State) (c : Nat) : (s.stopCore c).fixed = s.fixed := by simp [State.stopCore]

@[simp] theorem State.dropSeq_fixed (s : State) (run st : Nat) : (s.dropSeq run st).fixed = s.fixed := by
  unfold State.dropSeq
  split <;> simp

@[simp] theorem State.stopNb_fixed (s : State) (run : Nat) : (s.stopNb run).fixed = s.fixed := by
  unfold State.stopNb
  split <;> simp

@[simp] theorem State.nbIdle_fixed (s : State) (st : Nat) : (s.nbIdle st).fixed = s.fixed := by simp [State.nbIdle]

@[simp] theorem State.stopRun_fixed (s : State) (run status : Nat) : (s.stopRun run status).fixed = s.fixed := by
  simp [State.stopRun]

@[simp] theorem State.abortOne_fixed (s : State) (g cause : Nat) : (s.abortOne g cause).fixed = s.fixed := by
  simp [State.abortOne]

@[simp] theorem State.abortGroup_fixed (s : State) (g cause : Nat) : (s.abortGroup g cause).fixed = s.fixed := by
  unfold State.abortGroup
  dsimp only
  (repeat' split) <;> simp

@[simp] theorem State.abortEpochs_fixed (s : State) (run cause : Nat) : (s.abortEpochs run cause).fixed = s.fixed := by
  simp [State.abortEpochs]

@[simp] theorem State.localStore_fixed (s : State) (space c off : Nat) (bs : List Byte) :
    (s.localStore space c off bs).fixed = s.fixed := by
  simp [State.localStore]

@[simp] theorem State.holdOut_fixed (s : State) (c : Nat) (o : HeldOut) : (s.holdOut c o).fixed = s.fixed := by
  simp [State.holdOut]

@[simp] theorem State.journalTake_fixed (s : State) (c space : Nat) (granules : List Nat) :
    (s.journalTake c space granules).1.fixed = s.fixed := by
  simp [State.journalTake]

@[simp] theorem State.journalBack_fixed (s : State) (c : Nat) (j : Journal) : (s.journalBack c j).fixed = s.fixed := by
  simp [State.journalBack]

@[simp] theorem State.localWrite_fixed (s : State) (writer key space c off : Nat) (bs : List Byte) :
    (s.localWrite writer key space c off bs).fixed = s.fixed := by
  simp [State.localWrite]

@[simp] theorem State.provLine_fixed (s : State) (c key off : Nat) (bs : List Byte) (cls : Nat) :
    (s.provLine c key off bs cls).fixed = s.fixed := by
  unfold State.provLine
  dsimp only
  (repeat' split) <;> simp

@[simp] theorem State.provWrite_fixed (s : State) (c key off : Nat) (bs : List Byte) (cls : Nat) :
    (s.provWrite c key off bs cls).fixed = s.fixed := by
  simp [State.provWrite]

@[simp] theorem State.syncRing_fixed (s : State) (c : Nat) : (s.syncRing c).fixed = s.fixed := by simp [State.syncRing]
@[simp] theorem State.syncRings_fixed (s : State) : (s.syncRings).fixed = s.fixed := by simp [State.syncRings]

@[simp] theorem State.dropProvMsgs_fixed (s : State) (key : Nat) : (s.dropProvMsgs key).fixed = s.fixed := by
  simp [State.dropProvMsgs]

@[simp] theorem State.abortCore_fixed (s : State) (g key c : Nat) : (s.abortCore g key c).fixed = s.fixed := by
  simp [State.abortCore]

@[simp] theorem State.confirmCore_fixed (s : State) (c : Nat) : (s.confirmCore c).fixed = s.fixed := by
  unfold State.confirmCore
  dsimp only
  rw [foldl_fixed _ (fun t o => by cases o <;> simp)]
  simp

@[simp] theorem State.groupSettle_fixed (s : State) (g : Nat) : (s.groupSettle g).fixed = s.fixed := by simp [State.groupSettle]

@[simp] theorem State.endHeld_fixed (s : State) (run cause : Nat) : (s.endHeld run cause).fixed = s.fixed := by
  unfold State.endHeld
  dsimp only
  (repeat' split) <;> simp

@[simp] theorem State.abortDone_fixed (s : State) (g : Nat) : (s.abortDone g).fixed = s.fixed := by simp [State.abortDone]

@[simp] theorem State.deadLines_fixed (s : State) (off len : Nat) (mayWrite : Nat → Bool) :
    (s.deadLines off len mayWrite).fixed = s.fixed := by
  unfold State.deadLines
  refine foldl_fixed _ (fun t ln => ?_) _ _
  dsimp only
  split_ifs
  · simp
  · split <;> simp

@[simp] theorem State.runEpochEnd_fixed (s : State) (g key : Nat) : (s.runEpochEnd g key).fixed = s.fixed := by
  simp [State.runEpochEnd]

@[simp] theorem State.applyProv_fixed (s : State) (g owner bay : Nat) (cs : List Nat) (l : ProvLine) :
    (s.applyProv g owner bay cs l).fixed = s.fixed := by
  simp [State.applyProv]

@[simp] theorem State.abortRun_fixed (s : State) (run cause : Nat) : (s.abortRun run cause).fixed = s.fixed := by
  simp [State.abortRun]

@[simp] theorem State.stopDue_fixed (s : State) : (s.stopDue).fixed = s.fixed := by simp [State.stopDue]

@[simp] theorem State.confirmDone_fixed (s : State) (g : Nat) (mayWrite : Nat → Nat → Bool) :
    (s.confirmDone g mayWrite).fixed = s.fixed := by
  simp [State.confirmDone]

@[simp] theorem State.wipeDue_fixed (s : State) (c : Nat) : (s.wipeDue c).fixed = s.fixed := by simp [State.wipeDue]
@[simp] theorem State.coreReset_fixed (s : State) (c : Nat) : (s.coreReset c).fixed = s.fixed := by simp [State.coreReset]
@[simp] theorem State.resetSoon_fixed (s : State) (c : Nat) : (s.resetSoon c).fixed = s.fixed := by simp [State.resetSoon]

@[simp] theorem State.trapAt_fixed (s : State) (c pc cause addr status : Nat) :
    (s.trapAt c pc cause addr status).fixed = s.fixed := by
  simp [State.trapAt]

@[simp] theorem State.trap_fixed (s : State) (c cause addr : Nat) : (s.trap c cause addr).fixed = s.fixed := by simp [State.trap]

@[simp] theorem State.trapAs_fixed (s : State) (c cause addr status : Nat) : (s.trapAs c cause addr status).fixed = s.fixed := by
  simp [State.trapAs]

@[simp] theorem State.ungate_fixed (s : State) (c : Nat) : (s.ungate c).fixed = s.fixed := by simp [State.ungate]

/-! ### MemOps -/

@[simp] theorem State.noteRefused_fixed (s : State) (addr : Nat) : (s.noteRefused addr).fixed = s.fixed := by
  simp [State.noteRefused]

@[simp] theorem State.refuse_fixed (s : State) (f : Nat) : (s.refuse f).fixed = s.fixed := by simp [State.refuse]

@[simp] theorem State.ownBeats_fixed (s : State) (c o off n : Nat) : (s.ownBeats c o off n).fixed = s.fixed := by
  simp [State.ownBeats]

@[simp] theorem State.passedOwn_fixed (s : State) (o off n : Nat) : (s.passedOwn o off n).fixed = s.fixed := by
  simp [State.passedOwn]

@[simp] theorem State.passedLine_fixed (s : State) (off n : Nat) : (s.passedLine off n).fixed = s.fixed := by
  unfold State.passedLine
  refine foldl_fixed _ (fun t a => ?_) _ _
  dsimp only
  split <;> simp

theorem State.readRaw_keeps (s : State) (c n : Nat) (l : Loc) (ecc cls : Nat) : (s.readRaw c n l ecc cls).Keeps s := by
  unfold State.readRaw
  extract_lets k cl
  cases l with
  | nowhere => simp
  | remote a =>
    dsimp only
    split <;> simp
  | spad o off =>
    dsimp only
    split <;> simp
  | own o off =>
    dsimp only
    split <;> simp
  | dev off =>
    dsimp only
    split_ifs <;> simp

@[simp] theorem State.throughL1_fixed (s : State) (c addr : Nat) (l : Loc) (bs : List Byte) :
    (s.throughL1 c addr l bs).2.fixed = s.fixed := by
  unfold State.throughL1
  split <;> simp

theorem State.loadNow_keeps (s : State) (c addr n : Nat) (l : Loc) (ecc cls : Nat) : (s.loadNow c addr n l ecc cls).Keeps s := by
  have hr : (if s.l1Holds c addr n l then MemAns.ok (zeros n) s else s.readRaw c n l ecc cls).Keeps s := by
    split
    · rfl
    · exact s.readRaw_keeps c n l ecc cls
  unfold State.loadNow
  generalize (if s.l1Holds c addr n l then MemAns.ok (zeros n) s else s.readRaw c n l ecc cls) = r at hr
  cases r with
  | ok bs t => simpa using hr
  | _ => exact hr

theorem State.load_keeps (s : State) (c addr n : Nat) (l : Loc) (ecc cls : Nat) : (s.load c addr n l ecc cls).Keeps s := by
  unfold State.load
  split
  · trivial
  · exact s.loadNow_keeps c addr n l ecc cls

@[simp] theorem State.sendStore_fixed (s : State) (c addr cls src : Nat) (bs : List Byte) :
    (s.sendStore c addr cls src bs).fixed = s.fixed := by
  simp [State.sendStore]

theorem State.writeRaw_keeps (s : State) (c : Nat) (l : Loc) (bs : List Byte) (cls src : Nat) :
    (s.writeRaw c l bs cls src).Keeps s := by
  unfold State.writeRaw
  extract_lets k n
  cases l with
  | dev off =>
    dsimp only
    split_ifs <;> simp
  | spad o off =>
    dsimp only
    split <;> simp
  | own o off =>
    dsimp only
    split <;> simp
  | _ => simp

theorem State.store_keeps (s : State) (c : Nat) (l : Loc) (bs : List Byte) (cls : Nat) : (s.store c l bs cls).Keeps s := by
  unfold State.store
  split
  · trivial
  · exact s.writeRaw_keeps c l bs cls 0

/-! ### Operands -/

@[simp] theorem State.fetched_fixed (s : State) (a : Nat) : (s.fetched a).fixed = s.fixed := by simp [State.fetched]
@[simp] theorem State.stallAt_fixed (s : State) (c why : Nat) : (s.stallAt c why).fixed = s.fixed := by simp [State.stallAt]

@[simp] theorem issueCore_fixed (s : State) (c : Nat) (legal : Bool) (pred : BitVec 3) (pneg : Bool) (eff : State → State)
    (h : ∀ t, (eff t).fixed = t.fixed) :
    (issueCore s c legal pred pneg eff).fixed = s.fixed := by
  unfold issueCore
  simp [*]

@[simp] theorem State.whenFree_fixed (s : State) (c : Nat) (ps vs : List Nat) (eff : State → State)
    (h : ∀ t, (eff t).fixed = t.fixed) :
    (s.whenFree c ps vs eff).fixed = s.fixed := by
  unfold State.whenFree
  simp [*]

@[simp] theorem State.retireWith_fixed (s : State) (c : Nat) (f : Core → Core) : (s.retireWith c f).fixed = s.fixed := by
  simp [State.retireWith]

@[simp] theorem State.modGrp_fixed (s : State) (c i : Nat) (f : Group → Group) : (s.modGrp c i f).fixed = s.fixed := by
  simp [State.modGrp]

@[simp] theorem issueGroup_fixed (s : State) (c i : Nat) (legal : Bool) (pred : BitVec 3) (pneg clears : Bool) (srcs : List Nat)
    {eff : State → List Nat → Except (Option Nat) State} (h : ∀ t l u, eff t l = .ok u → u.fixed = t.fixed) :
    (issueGroup s c i legal pred pneg clears srcs eff).fixed = s.fixed := by
  unfold issueGroup
  extract_lets k g act a s0 on off s1 missed s2 s3
  have h0 : s0.fixed = s.fixed := by simp [s0]
  have h3 : s3.fixed = s.fixed := by simp [s3, s2, s1, h0]
  clear_value s0 s3
  split
  · rfl
  · split
    · simp
    · split
      · simp [h0]
      · split
        · simp [h0]
        · split
          · exact h3
          · split
            · next e => exact (h _ _ _ e).trans h3
            · simp

theorem threadRegs_fixed {s t : State} {c i : Nat} {f : Nat → Thread → Thread} {lanes : List Nat}
    (ht : threadRegs s c i f lanes = .ok t) : t.fixed = s.fixed := by
  cases ht
  simp

/-! ### Csr -/

@[simp] theorem State.csrRead_fixed (s : State) (c n : Nat) : (s.csrRead c n).2.fixed = s.fixed := by simp [State.csrRead]

@[simp] theorem State.csrWrite_fixed (s : State) (c n : Nat) (v : W64) : (s.csrWrite c n v).fixed = s.fixed := by
  simp [State.csrWrite]

/-! ### SillOps -/

@[simp] theorem State.sillFill_fixed (s : State) (c ln cls : Nat) (home : Bool) :
    (s.sillFill c ln cls home).1.fixed = s.fixed := by
  unfold State.sillFill
  split <;> simp

/-! ### BayEvents -/

@[simp] theorem State.waiterFails_fixed (s : State) (w : Waiter) (addr : Nat) (coreCause status : Nat) :
    (s.waiterFails w addr coreCause status).fixed = s.fixed := by
  unfold State.waiterFails
  (repeat' split) <;> simp

@[simp] theorem bayReadRequest_fixed (bay line cls : Nat) (w : Waiter) (s : State) :
    (bayReadRequest bay line cls w s).fixed = s.fixed := by
  unfold bayReadRequest
  dsimp only
  (repeat' split) <;> simp

@[simp] theorem State.answerJoiners_fixed (s : State) (js : List Joiner) (ln : Nat) (d : List Byte × Bool) :
    (s.answerJoiners js ln d).fixed = s.fixed := by
  simp [State.answerJoiners]

@[simp] theorem State.nextReq_fixed (s : State) (bay : Nat) : (s.nextReq bay).fixed = s.fixed := by
  unfold State.nextReq
  dsimp only
  split <;> simp

@[simp] theorem bayFillReturn_fixed (bay line : Nat) (s : State) : (bayFillReturn bay line s).fixed = s.fixed := by
  unfold bayFillReturn
  dsimp only
  (repeat' split) <;> simp

@[simp] theorem State.remoteHits_fixed (s : State) (c ln n cls : Nat) : (s.remoteHits c ln n cls).fixed = s.fixed := by
  unfold State.remoteHits
  refine foldl_fixed _ (fun _ _ => ?_) _ _
  split <;> simp

theorem State.landOrdinary_fixed {s t : State} {w : Store} {core : Bool} (h : s.landOrdinary w core = some t) :
    t.fixed = s.fixed := by
  unfold State.landOrdinary at h
  dsimp only at h
  split_ifs at h <;> simp at h <;> simp [← h]

@[simp] theorem State.writeWake_fixed (s : State) (w : Store) : (s.writeWake w).fixed = s.fixed := by simp [State.writeWake]

theorem State.landStore_fixed {s t : State} {w : Store} (h : s.landStore w = some t) : t.fixed = s.fixed := by
  unfold State.landStore at h
  dsimp only at h
  split_ifs at h
  · simp [← Option.some.inj h]
  · simp [← Option.some.inj h]
  · exact State.landOrdinary_fixed h
  · simp [← Option.some.inj h]

@[simp] theorem homeBayWrite_fixed (w : Writer) (s : State) : (homeBayWrite w s).fixed = s.fixed := by
  unfold homeBayWrite
  cases w with
  | core c =>
    dsimp only
    split
    · rfl
    · split
      · next h => simp [State.landStore_fixed h]
      · simp
  | queued =>
    dsimp only
    split
    · rfl
    · split
      · next h => simp [State.landOrdinary_fixed h]
      · simp

@[simp] theorem State.dropWait_fixed (s : State) (i : Nat) : (s.dropWait i).fixed = s.fixed := by simp [State.dropWait]

@[simp] theorem State.droppedBytes_fixed (s : State) (w : Waiter) (n : Nat) : (s.droppedBytes w n).fixed = s.fixed := by
  unfold State.droppedBytes
  split <;> simp

@[simp] theorem State.patrolCount_fixed (s : State) (bay corrected bad : Nat) :
    (s.patrolCount bay corrected bad).fixed = s.fixed := by
  simp [State.patrolCount]

@[simp] theorem State.bayBadWord_fixed (s : State) (bay e : Nat) : (s.bayBadWord bay e).fixed = s.fixed := by
  unfold State.bayBadWord
  dsimp only
  (repeat' split) <;> simp

/-! ### HbmEvents -/

@[simp] theorem State.modNode_fixed (s : State) (n : Nat) (f : ThermNode → ThermNode) : (s.modNode n f).fixed = s.fixed := by
  simp [State.modNode]

@[simp] theorem State.chanFld_fixed (s : State) (st lo n x : Nat) : (s.chanFld st lo n x).fixed = s.fixed := by
  simp [State.chanFld]

@[simp] theorem State.trefiHalve_fixed (s : State) (st : Nat) : (s.trefiHalve st).fixed = s.fixed := by simp [State.trefiHalve]

@[simp] theorem State.trefiRestore_fixed (s : State) (st : Nat) : (s.trefiRestore st).fixed = s.fixed := by
  simp [State.trefiRestore]

@[simp] theorem State.refreshBanks_fixed (s : State) (st : Nat) : (s.refreshBanks st).fixed = s.fixed := by
  simp [State.refreshBanks]

@[simp] theorem State.setRest_fixed (s : State) (st m : Nat) : (s.setRest st m).fixed = s.fixed := by simp [State.setRest]
@[simp] theorem State.restPart_fixed (s : State) (p m : Nat) : (s.restPart p m).fixed = s.fixed := by simp [State.restPart]
@[simp] theorem State.trained_fixed (s : State) (st : Nat) : (s.trained st).fixed = s.fixed := by simp [State.trained]

@[simp] theorem hbmSectorRead_fixed (sector : Nat) (flips : List (Nat × Byte)) (s : State) :
    (hbmSectorRead sector flips s).fixed = s.fixed := by
  simp [hbmSectorRead]

/-! ### Hints -/

@[simp] theorem State.pinFill_fixed (s : State) (bay ln cls : Nat) : (s.pinFill bay ln cls).1.fixed = s.fixed := by
  simp [State.pinFill]

/-! ### Alloc -/

@[simp] theorem State.zeroRange_fixed (s : State) (off n : Nat) : (s.zeroRange off n).fixed = s.fixed := by simp [State.zeroRange]

@[simp] theorem State.unpinRange_fixed (s : State) (off n : Nat) : (s.unpinRange off n).fixed = s.fixed := by
  simp [State.unpinRange]

/-! ### Letterbox -/

@[simp] theorem State.takeEntry_fixed (s : State) (f : Nat) (entry : List Byte) : (s.takeEntry f entry).fixed = s.fixed := by
  unfold State.takeEntry
  dsimp only
  (repeat' split) <;> simp

@[simp] theorem State.fetchFails_fixed (s : State) (f : Nat) : (s.fetchFails f).fixed = s.fixed := by simp [State.fetchFails]

@[simp] theorem State.sendPending_fixed (s : State) (f v : Nat) : (s.sendPending f v).fixed = s.fixed := by
  simp [State.sendPending]

@[simp] theorem State.maskVector_fixed (s : State) (f v : Nat) (masked : Bool) : (s.maskVector f v masked).fixed = s.fixed := by
  simp [State.maskVector]

@[simp] theorem State.lbEnable_fixed (s : State) (f : Nat) : (s.lbEnable f).fixed = s.fixed := by simp [State.lbEnable]
@[simp] theorem State.lbDisable_fixed (s : State) (f : Nat) : (s.lbDisable f).fixed = s.fixed := by simp [State.lbDisable]
@[simp] theorem State.dbRefused_fixed (s : State) (f : Nat) : (s.dbRefused f).fixed = s.fixed := by simp [State.dbRefused]
@[simp] theorem State.sqTail_fixed (s : State) (f : Nat) (v : W32) : (s.sqTail f v).fixed = s.fixed := by simp [State.sqTail]
@[simp] theorem State.cqHead_fixed (s : State) (f : Nat) (v : W32) : (s.cqHead f v).fixed = s.fixed := by simp [State.cqHead]

@[simp] theorem State.lbStatusWrite_fixed (s : State) (f : Nat) (v : W64) : (s.lbStatusWrite f v).fixed = s.fixed := by
  simp [State.lbStatusWrite]

@[simp] theorem State.regionWrite_fixed (s : State) (by_ f i : Nat) (v : W64) : (s.regionWrite by_ f i v).fixed = s.fixed := by
  simp [State.regionWrite]

@[simp] theorem State.twinRoom_fixed (s : State) (taken given : Nat) : (s.twinRoom taken given).fixed = s.fixed := by
  simp [State.twinRoom]

@[simp] theorem State.regionEnd_fixed (s : State) (f i : Nat) : (s.regionEnd f i).fixed = s.fixed := by simp [State.regionEnd]

@[simp] theorem State.answerRead_fixed (s : State) (bs : List Byte) (bad : Bool) : (s.answerRead bs bad).fixed = s.fixed := by
  simp [State.answerRead]

@[simp] theorem apertureRead_fixed (f x n : Nat) (s : State) : (apertureRead f x n s).fixed = s.fixed := by
  unfold apertureRead
  dsimp only
  (repeat' split) <;> simp

@[simp] theorem apertureWrite_fixed (f x : Nat) (bytes : List Byte) (s : State) :
    (apertureWrite f x bytes s).fixed = s.fixed := by
  unfold apertureWrite
  dsimp only
  (repeat' split) <;> simp

/-! ### CmdOps -/

@[simp] theorem State.checked_fixed (s : State) (c : Cmd) (bad : List Nat) {eff : State} (h : eff.fixed = s.fixed) :
    (s.checked c bad eff).fixed = s.fixed := by
  unfold State.checked
  split <;> simp [h]

@[simp] theorem State.hostFails_fixed (s : State) (c : Cmd) (field : Nat) : (s.hostFails c field).fixed = s.fixed := by
  simp [State.hostFails]

@[simp] theorem State.hbmPutRange_fixed (s : State) (off : Nat) (bs : List Byte) : (s.hbmPutRange off bs).fixed = s.fixed := by
  simp [State.hbmPutRange]

/-! ### ScalarMem -/

@[simp] theorem State.noteFail_fixed (s : State) (cause addr : Nat) : (s.noteFail cause addr).fixed = s.fixed := by
  simp [State.noteFail]

theorem laneFold_keeps (s : State) (xs : List (Nat × Nat)) {one : State → Nat → Nat → MemAns} (h : ∀ t l a, (one t l a).Keeps t) :
    (laneFold s xs one).Keeps s :=
  List.foldlRecOn _ _ rfl fun r hr x _ => by
    cases r with
    | ok t =>
      have ho := (h t x.1 x.2).trans hr
      dsimp only
      cases ht : one t x.1 x.2 with
      | wait w => trivial
      | _ => rw [ht] at ho; exact ho
    | _ => exact hr

theorem laneLoad_keeps (s : State) (c i lane addr n : Nat) (f : FormB) : (laneLoad s c i lane addr n f).Keeps s := by
  unfold laneLoad
  split
  · simp
  · next l _ =>
    have hl := s.load_keeps c addr n l tDataEcc (s.grp c i).cls
    cases h : s.load c addr n l tDataEcc (s.grp c i).cls with
    | wait w => trivial
    | _ => rw [h] at hl; simpa using hl

theorem laneStore_keeps (s : State) (c i lane addr n : Nat) (f : FormB) : (laneStore s c i lane addr n f).Keeps s := by
  unfold laneStore
  split
  · simp
  · next l _ =>
    have hl := s.store_keeps c l (leBytes n (((s.grp c i).th lane).reg f.dst.toNat).toNat) (s.grp c i).cls
    cases h : s.store c l (leBytes n (((s.grp c i).th lane).reg f.dst.toNat).toNat) (s.grp c i).cls with
    | wait w => trivial
    | _ => rw [h] at hl; simpa using hl

theorem lanesAccess_fixed {s t : State} {c i n : Nat} {f : FormB} {one : State → Nat → Nat → Nat → Nat → Nat → FormB → LaneAns}
    {lanes : List Nat} (h : ∀ t l a, (one t c i l a n f).Keeps t) (ht : lanesAccess s c i n f one lanes = .ok t) : t.fixed = s.fixed := by
  unfold lanesAccess at ht
  extract_lets pc addrs r at ht
  have hr : r.Keeps s := List.foldlRecOn _ _ (by simp) fun r hr la _ => by
    cases r with
    | ok t => exact (h ..).trans hr
    | _ => exact hr
  clear_value r
  cases r with
  | ok u => cases ht; exact hr
  | trap a b d u => cases ht; simpa using hr
  | wait w => cases ht

/-! ### Vector -/

@[simp] theorem State.drewN_fixed (s : State) (n : Nat) : (s.drewN n).fixed = s.fixed := by simp [State.drewN]

@[simp] theorem State.vecCount_fixed (s : State) (c flops trans : Nat) : (s.vecCount c flops trans).fixed = s.fixed := by
  simp [State.vecCount]

theorem State.vecStops_fixed (s : State) (c addr : Nat) {r : MemAns} (h : r.Keeps s) : (s.vecStops c addr r).fixed = s.fixed := by
  cases r with
  | wait w => simp [State.vecStops]
  | _ => simpa [State.vecStops] using h

@[simp] theorem State.vecTrap_fixed (s : State) (c addr : Nat) : (s.vecTrap c addr).fixed = s.fixed := by simp [State.vecTrap]

@[simp] theorem State.vecRefused_fixed (s : State) (c addr : Nat) : (s.vecRefused c addr).fixed = s.fixed := by
  simp [State.vecRefused]

theorem vldsLane_keeps (c dst : Nat) (s : State) (l addr : Nat) : (vldsLane c dst s l addr).Keeps s := by
  unfold vldsLane
  split
  · simp
  · next loc _ =>
    have hl := s.load_keeps c addr 4 loc tDataEcc (s.core c).loadClass
    cases h : s.load c addr 4 loc tDataEcc (s.core c).loadClass with
    | wait w => trivial
    | _ => rw [h] at hl; simpa using hl

theorem vstsLane_keeps (c : Nat) (v : BitVec 2048) (cls : Nat) (s : State) (l addr : Nat) :
    (vstsLane c v cls s l addr).Keeps s := by
  unfold vstsLane
  split
  · simp
  · exact s.store_keeps ..

@[simp] theorem vecStrided_fixed (c : Nat) (f : FormA)
    (s : State) {one : State → Nat → Nat → MemAns} (h : ∀ t l a, (one t l a).Keeps t) :
    (vecStrided c f s one).fixed = s.fixed := by
  unfold vecStrided
  dsimp only
  split
  · simp
  · have hl := laneFold_keeps s ((List.range (lastOf f + 1)).zip (strided ((s.core c).sreg f.src1.toNat) ((s.core c).sreg f.src2.toNat) (lastOf f))) h
    split
    · exact s.vecStops_fixed c 0 trivial
    · next e => rw [e] at hl; exact (State.vecStops_fixed _ c _ (by rfl)).trans hl
    · next e => rw [e] at hl; simpa using hl

/-! ### Convert -/

@[simp] theorem State.decodeInvalid_fixed (s : State) (c n : Nat) : (s.decodeInvalid c n).fixed = s.fixed := by
  simp [State.decodeInvalid]

@[simp] theorem State.useSet_fixed (s : State) (c id : Nat) : (s.useSet c id).fixed = s.fixed := by
  unfold State.useSet
  (repeat' split) <;> simp

@[simp] theorem State.useDesc_fixed (s : State) (c code slot : Nat) : (s.useDesc c code slot).fixed = s.fixed := by
  unfold State.useDesc
  (repeat' split) <;> simp

/-! ### Matrix -/

theorem AccMove.storeRow_keeps (m : AccMove) (c : Nat) (s : State) (r addr : Nat) : (m.storeRow c s r addr).Keeps s := by
  unfold AccMove.storeRow
  split
  · simp
  · exact s.writeRaw_keeps ..

theorem AccMove.loadRow_keeps (m : AccMove) (c : Nat) (s : State) (r addr : Nat) : (m.loadRow c s r addr).Keeps s := by
  unfold AccMove.loadRow
  split
  · simp
  · next l _ =>
    have hl := s.loadNow_keeps c addr m.rowLen l tUnit m.cls
    cases h : s.loadNow c addr m.rowLen l tUnit m.cls with
    | wait w => trivial
    | _ => rw [h] at hl; simpa using hl

theorem AccMove.run_keeps (m : AccMove) (s : State) (c seq : Nat) : (m.run s c seq).Keeps s := by
  unfold AccMove.run
  split
  · simp
  · simp
  · split
    · simp
    · split
      · trivial
      · refine laneFold_keeps _ _ ?_
        split
        · exact fun t l a => m.storeRow_keeps c t l a
        · exact fun t l a => m.loadRow_keeps c t l a

@[simp] theorem State.unitTrap_fixed (s : State) (c pc cause addr status : Nat) :
    (s.unitTrap c pc cause addr status).fixed = s.fixed := by
  simp [State.unitTrap]

@[simp] theorem Core.settleMq_fixed (c : Nat) (s : State) (ops : List MmaOp) : (Core.settleMq c s ops).fixed = s.fixed := by
  induction ops generalizing s with
  | nil => simp [Core.settleMq]
  | cons o ops ih =>
    rw [Core.settleMq]
    split
    · next m _ =>
      have hm := m.run_keeps (s.modCore c fun k => { k with mq := o :: ops }) c o.seq
      split
      · next e => rw [e] at hm; exact (ih _).trans hm
      · simp
      · next e => rw [e] at hm; exact (State.unitTrap_fixed ..).trans hm
    · split
      · simp [ih]
      · simp

@[simp] theorem MmaOp.applyStep_fixed (o : MmaOp) (s : State) (c : Nat) (aRows bCols : List (List Num)) :
    (o.applyStep s c aRows bCols).fixed = s.fixed := by
  simp [MmaOp.applyStep]

@[simp] theorem mmaStep_fixed (s : State) (c : Nat) (o : MmaOp) (rest : List MmaOp) : (mmaStep s c o rest).fixed = s.fixed := by
  unfold mmaStep
  extract_lets k sl n slice per col bCols aRows sets s1 s2 d s3 o1
  have h3 : s3.fixed = s.fixed := by simp [s3, s2, s1]
  clear_value s3
  split
  · simp
  · split
    · simp
    · split_ifs <;> simp [h3]

/-! ### Stream -/

@[simp] theorem State.pump_fixed (c : Nat) (s : State) (q : List (Nat × Start)) : (State.pump c s q).fixed = s.fixed := by
  induction q generalizing s with
  | nil => simp [State.pump]
  | cons x q ih =>
    obtain ⟨i, st⟩ := x
    rw [State.pump]
    split
    · extract_lets k
      split_ifs <;> simp [ih]
    · simp [ih]
    · extract_lets s1
      have h1 : s1.fixed = s.fixed := by simp [s1]
      clear_value s1
      split <;> simp [ih, h1]

@[simp] theorem State.pumped_fixed (s : State) (c : Nat) : (s.pumped c).fixed = s.fixed := by simp [State.pumped]

@[simp] theorem State.streamEnter_fixed (s : State) (c slot : Nat) (st : Start) : (s.streamEnter c slot st).fixed = s.fixed := by
  simp [State.streamEnter]

@[simp] theorem State.setSlot_fixed (s : State) (c i : Nat) (x : Slot) : (s.setSlot c i x).fixed = s.fixed := by
  simp [State.setSlot]

theorem State.lineRead_keeps (s : State) (c n cls : Nat) (l : Loc) : (s.lineRead c n cls l).Keeps s := by
  unfold State.lineRead
  cases l with
  | dev off =>
    dsimp only
    have hl := s.readRaw_keeps c n (.dev off) tUnit cls
    cases h : s.readRaw c n (.dev off) tUnit cls with
    | ok bs t =>
      rw [h] at hl
      dsimp only
      split <;> simpa using hl
    | _ => rw [h] at hl; exact hl
  | _ => exact s.readRaw_keeps ..

theorem State.gatherRead_keeps (s : State) (c slot addr n cls : Nat) (l : Loc) : (s.gatherRead c slot addr n cls l).Keeps s := by
  unfold State.gatherRead
  extract_lets x sp ln x1
  split
  · exact s.readRaw_keeps ..
  · split
    · simp
    · have hl := s.lineRead_keeps c n cls l
      cases h : s.lineRead c n cls l with
      | ok bs t => rw [h] at hl; simpa using hl
      | _ => rw [h] at hl; exact hl

theorem State.gatherBytes_keeps (s : State) (c slot addr n cls : Nat) : (s.gatherBytes c slot addr n cls).Keeps s := by
  refine List.foldlRecOn _ _ rfl fun r h0 b _ => ?_
  · cases r with
    | ok got t =>
      dsimp only
      split
      · exact h0
      · next l _ =>
        have hg := (t.gatherRead_keeps c slot (max addr b) (min (addr + n) (b + 128) - max addr b) cls l).trans h0
        cases h : t.gatherRead c slot (max addr b) (min (addr + n) (b + 128) - max addr b) cls l with
        | wait w => trivial
        | _ => rw [h] at hg; exact hg
    | _ => exact h0

theorem State.slotWrite_keeps (s : State) (c slot addr cls : Nat) (l : Loc) (bs : List Byte) :
    (s.slotWrite c slot addr cls l bs).Keeps s := by
  have hw := s.writeRaw_keeps c l bs cls (slot + 1)
  unfold State.slotWrite
  cases h : s.writeRaw c l bs cls (slot + 1) with
  | ok b t => rw [h] at hw; simpa using hw
  | _ => rw [h] at hw; exact hw

@[simp] theorem State.leadFill_fixed (s : State) (c : Nat) (p : StreamProg) (x : Slot) (m : MoveF) :
    (s.leadFill c p x m).fixed = s.fixed := by
  unfold State.leadFill
  split
  · rfl
  · extract_lets d s1
    split
    · simp [s1]
    · extract_lets ln
      split
      · simp [s1]
      · split
        all_goals
          next e =>
            have h := congrArg (·.1.fixed) e
            simpa [s1] using h.symm

theorem State.slotFault_fixed (s : State) (c : Nat) (st : Start) (addr : Nat) {r : MemAns} (h : r.Keeps s) :
    (s.slotFault c st addr r).fixed = s.fixed := by
  unfold State.slotFault
  cases r with
  | ok bs t => rfl
  | trap a b t => simpa using h
  | wait w => simp

@[simp] theorem sillMove_fixed (s : State) (c slot : Nat) (x : Slot) (st : Start) (m : MoveF) :
    (sillMove s c slot x st m).fixed = s.fixed := by
  unfold sillMove
  dsimp only
  split <;> simp

@[simp] theorem plainMove_fixed (s0 : State) (c slot : Nat) (x : Slot) (st : Start) (p : StreamProg) (m : MoveF) :
    (plainMove s0 c slot x st p m).fixed = s0.fixed := by
  unfold plainMove
  extract_lets addr n s daddr a0 b0 clash
  have hs : s.fixed = s0.fixed := State.leadFill_fixed ..
  clear_value s
  split
  · simp [hs]
  · split
    · simp
    · split
      · rfl
      · split
        · simp
        · have hg := (s.gatherBytes_keeps c slot addr n m.cls).trans hs
          split
          · next s1 e =>
            rw [e] at hg
            replace hg := (MemAns.keeps_ok ..).1 hg
            split
            · simp [hg]
            · split
              · simp
              · next dl _ =>
                extract_lets out
                generalize hd : (if clash = true then s1.drew else s1) = s2
                have h2 : s2.fixed = s0.fixed := by subst hd; split <;> simp [hg]
                have hw := (s2.slotWrite_keeps c slot daddr m.cls dl out).trans h2
                split
                · next e => rw [e] at hw; simpa using hw
                · exact State.slotFault_fixed _ _ _ _ hw
          · exact State.slotFault_fixed _ _ _ _ hg

@[simp] theorem rowMove_fixed (s : State) (c slot : Nat) (x : Slot) (st : Start) (m : MoveF) :
    (rowMove s c slot x st m).fixed = s.fixed := by
  unfold rowMove
  (repeat' split) <;> simp

@[simp] theorem State.rowInto_fixed (s : State) (sender slot row : Nat) (m : MoveF) (daddr : Nat) (bytes : List (Byte × Bool))
    (t : Nat) :
    (s.rowInto sender slot row m daddr bytes t).fixed = s.fixed := by
  unfold State.rowInto
  split <;> simp

@[simp] theorem State.rowFill_fixed (s : State) (c cls : Nat) (lines : List Nat) : (s.rowFill c cls lines).1.fixed = s.fixed := by
  simp [State.rowFill]

@[simp] theorem rowTransfer_fixed (c slot : Nat) (s0 : State) : (rowTransfer c slot s0).fixed = s0.fixed := by
  unfold rowTransfer
  split
  · rfl
  · split
    · rfl
    · extract_lets row s addr off targets here n r bytes s1 s2 s3
      have hs : s.fixed = s0.fixed := by
        simp only [s]
        split
        · exact State.leadFill_fixed ..
        · rfl
      split
      · rfl
      · split
        · simp
        · split
          · simp
          · have hr : r.1.fixed = s0.fixed := by simp [r, hs]
            clear_value r
            have h3 : s3.fixed = s0.fixed := by simp [s3, s2, s1, hr]
            clear_value s3
            split <;> simp [hr, h3]

/-! ### Message -/

@[simp] theorem State.msgError_fixed (s : State) (m : Msg) : (s.msgError m).fixed = s.fixed := by
  unfold State.msgError
  (repeat' split) <;> simp

@[simp] theorem State.intoRing_fixed (s : State) (c : Nat) (m : Msg) : (s.intoRing c m).1.fixed = s.fixed := by
  simp [State.intoRing]

@[simp] theorem State.takeHead_fixed (s : State) (c : Nat) : (s.takeHead c).fixed = s.fixed := by
  unfold State.takeHead
  dsimp only
  (repeat' split) <;> simp

@[simp] theorem State.lostTrap_fixed (s : State) (c : Nat) : (s.lostTrap c).fixed = s.fixed := by simp [State.lostTrap]

@[simp] theorem msgInject_fixed (c : Nat) (s : State) : (msgInject c s).fixed = s.fixed := by
  unfold msgInject
  dsimp only
  split <;> simp

@[simp] theorem State.receive_fixed (s0 : State) (c : Nat) (m : Msg) : (s0.receive c m).fixed = s0.fixed := by
  simp [State.receive]

@[simp] theorem State.holdAtDoor_fixed (s : State) (p : Nat) (m : Msg) : (s.holdAtDoor p m).fixed = s.fixed := by
  simp [State.holdAtDoor]

theorem State.deliverMsg_fixed {s t : State} {m : Msg} (h : s.deliverMsg m = some t) : t.fixed = s.fixed := by
  unfold State.deliverMsg at h
  split at h
  · simp [← Option.some.inj h]
  · split_ifs at h <;> simp [← Option.some.inj h]

@[simp] theorem State.msgWake_fixed (s : State) (m : Msg) : (s.msgWake m).fixed = s.fixed := by
  unfold State.msgWake
  split <;> simp

@[simp] theorem msgArrival_fixed (a : Arrival) (s : State) : (msgArrival a s).fixed = s.fixed := by
  unfold msgArrival
  cases a with
  | remote m =>
    dsimp only
    split_ifs
    · rfl
    · cases h : s.deliverMsg { m with prov := 0, bad := m.bad } with
      | none => simp
      | some t => simp [State.deliverMsg_fixed h]
  | net i =>
    dsimp only
    split
    · rfl
    · split_ifs
      · rfl
      · split
        · next h => simp [State.deliverMsg_fixed h]
        · simp

/-! ### RunEnd -/

@[simp] theorem State.specHeld_fixed (s : State) (run : Nat) : (s.specHeld run).fixed = s.fixed := by
  unfold State.specHeld
  dsimp only
  (repeat' split) <;> simp

/-! ### NearBank -/

@[simp] theorem State.nbReply_fixed (s : State) (k : Kick) (status executed skipped steps : Nat) :
    (s.nbReply k status executed skipped steps).fixed = s.fixed := by
  simp [State.nbReply]

@[simp] theorem State.nbPrepare_fixed (s : State) (st : Nat) (k : Kick) (q : NbSeq) : (s.nbPrepare st k q).fixed = s.fixed := by
  unfold State.nbPrepare
  dsimp only
  (repeat' split) <;> simp

@[simp] theorem kickTaken_fixed (st : Nat) (s : State) : (kickTaken st s).fixed = s.fixed := by
  unfold kickTaken
  dsimp only
  (repeat' split) <;> simp

@[simp] theorem nbStepBoundary_fixed (st ch : Nat) (flips : List (Nat × Nat × Byte)) (s : State) :
    (nbStepBoundary st ch flips s).fixed = s.fixed := by
  unfold nbStepBoundary
  split <;> simp

@[simp] theorem nbSequenceDone_fixed (st : Nat) (s : State) : (nbSequenceDone st s).fixed = s.fixed := by
  unfold nbSequenceDone
  (repeat' split) <;> simp

/-! ### Placement -/

@[simp] theorem State.refreshDegraded_fixed (s : State) : (s.refreshDegraded).fixed = s.fixed := by simp [State.refreshDegraded]
@[simp] theorem State.carry_fixed (s : State) (c v : Nat) : (s.carry c v).fixed = s.fixed := by simp [State.carry]

@[simp] theorem State.carryCluster_fixed (s : State) (n excl : Nat) : (s.carryCluster n excl).fixed = s.fixed := by
  simp [State.carryCluster]

@[simp] theorem State.leave_fixed (s : State) (c : Nat) : (s.leave c).fixed = s.fixed := by simp [State.leave]
@[simp] theorem State.vacate_fixed (s : State) (j : Nat) : (s.vacate j).fixed = s.fixed := by simp [State.vacate]

@[simp] theorem State.settleOn_fixed (s : State) (im : Image) (j p : Nat) (a : List (Nat × Nat × Nat)) :
    (s.settleOn im j p a).fixed = s.fixed := by
  simp [State.settleOn]

@[simp] theorem State.refillRing_fixed (s : State) (c : Nat) (ms : List Msg) : (s.refillRing c ms).fixed = s.fixed := by
  simp [State.refillRing]

@[simp] theorem State.strip_fixed (s : State) (x : Carried) (c : Nat) : (s.strip x c).fixed = s.fixed := by simp [State.strip]
@[simp] theorem State.drop_fixed (s : State) (x : Carried) (c : Nat) : (s.drop x c).fixed = s.fixed := by simp [State.drop]

@[simp] theorem State.rehome_fixed (s : State) (mine : Nat → Bool) (change : State → State)
    (h : ∀ t, (change t).fixed = t.fixed) :
    (s.rehome mine change).fixed = s.fixed := by
  unfold State.rehome
  simp [*]

theorem State.replace_fixed {s t : State} {j : Nat} {change : State → State} (h : ∀ t, (change t).fixed = t.fixed)
    (ht : s.replace j change = some t) : t.fixed = s.fixed := by
  unfold State.replace at ht
  split at ht
  · simp [← Option.some.inj ht, h]
  · split at ht
    · simp at ht
    · dsimp only at ht
      split at ht
      · simp at ht
      · rw [← Option.some.inj ht, foldl_fixed _ (fun t x => by split <;> simp)]
        simp [h]

@[simp] theorem State.setSteps_fixed (s : State) (p : Nat) (st : Steps) : (s.setSteps p st).fixed = s.fixed := by
  simp [State.setSteps]

@[simp] theorem State.placeThin_fixed (s : State) (im : Image) : (s.placeThin im).2.fixed = s.fixed := by
  unfold State.placeThin
  rw [foldl_snd_fixed _ (fun x a => by split; · rfl
                                       · dsimp only; split_ifs <;> simp)]
  simp

theorem State.placeImage_fixed {s : State} {im : Image} {x : Image × State} (hx : s.placeImage im = some x) :
    x.2.fixed = s.fixed := by
  unfold State.placeImage at hx
  dsimp only at hx
  split at hx
  · simp at hx
  · repeat' split at hx
    all_goals first | (simp at hx; done) | (rw [← Option.some.inj hx]; simp)

/-! ### ImageCmds -/

@[simp] theorem State.needs_fixed (s : State) (c : Cmd) (ps : List Nat) {eff : State} (h : eff.fixed = s.fixed) :
    (s.needs c ps eff).fixed = s.fixed := by
  simp [State.needs, h]

@[simp] theorem State.putPieces_fixed (s : State) (us : List (Nat × Nat)) (bs : List Byte) :
    (s.putPieces us bs).fixed = s.fixed := by
  induction us generalizing s bs with
  | nil => rfl
  | cons u us ih => simp [State.putPieces, ih]

@[simp] theorem imageBegin_fixed (s : State) (c : Cmd) : (imageBegin s c).fixed = s.fixed := by
  unfold imageBegin
  dsimp only
  (repeat' split) <;> simp

theorem State.chunkBytes_fixed {s t : State} {c : Cmd} {ps : List (Nat × Nat)} {n : Nat} (h : s.chunkBytes c ps n = some t) :
    t.fixed = s.fixed := by
  unfold State.chunkBytes at h
  split at h
  · simp at h
  · simp [← Option.some.inj h]

@[simp] theorem State.chunkOpen_fixed (s : State) (c : Cmd) : (s.chunkOpen c).fixed = s.fixed := by
  unfold State.chunkOpen
  split <;> simp

@[simp] theorem imageChunk_fixed (s : State) (c : Cmd) : (imageChunk s c).fixed = s.fixed := by
  unfold imageChunk
  split
  · simp
  · refine State.checked_fixed _ _ _ (State.needs_fixed _ _ _ ?_)
    split
    · next h => simp [State.chunkBytes_fixed h]
    · simp

@[simp] theorem State.loadImage_fixed (s : State) (g : Bytes) (im : Image) : (s.loadImage g im).fixed = s.fixed := by
  unfold State.loadImage
  dsimp only
  rw [foldl_fixed _ (fun t x => by split <;> simp)]
  simp

@[simp] theorem State.splitBays_fixed (s : State) (steps : Nat) : (s.splitBays steps).fixed = s.fixed := by simp [State.splitBays]
@[simp] theorem State.freshCores_fixed (s : State) : (s.freshCores).fixed = s.fixed := by simp [State.freshCores]

@[simp] theorem State.commitImage_fixed (s : State) (c : Cmd) (g : Bytes) (len : Nat) :
    (s.commitImage c g len).fixed = s.fixed := by
  unfold State.commitImage
  split
  · simp
  · next im s1 h =>
    have := State.placeImage_fixed h
    simp at this
    simp [this]

@[simp] theorem imageCommit_fixed (s : State) (c : Cmd) : (imageCommit s c).fixed = s.fixed := by
  unfold imageCommit
  dsimp only
  (repeat' split) <;> simp

@[simp] theorem State.discardMsgs_fixed (s : State) : (s.discardMsgs).fixed = s.fixed := by simp [State.discardMsgs]

@[simp] theorem imageUnload_fixed (s : State) (c : Cmd) : (imageUnload s c).fixed = s.fixed := by
  unfold imageUnload
  split <;> simp

@[simp] theorem State.patchImage_fixed (s : State) (im : Image) (sets : List Nat) : (s.patchImage im sets).fixed = s.fixed := by
  unfold State.patchImage
  refine foldl_fixed _ (fun _ _ => ?_) _ _
  split <;> simp

@[simp] theorem patchTables_fixed (s : State) (c : Cmd) : (patchTables s c).fixed = s.fixed := by
  unfold patchTables
  dsimp only
  (repeat' split) <;> simp

/-! ### MemCmds -/

@[simp] theorem State.movePut_fixed (s : State) (c : Cmd) (lo : Nat) (bs : List Byte) : (s.movePut c lo bs).fixed = s.fixed := by
  simp [State.movePut]

@[simp] theorem State.moveMix_fixed (s0 : State) (c : Cmd) (lo n : Nat) (s : State) : (s0.moveMix c lo n s).fixed = s.fixed := by
  simp [State.moveMix]

@[simp] theorem State.moveScatter_fixed (s0 : State) (c : Cmd) (fuel lo : Nat) (s : State) :
    (s0.moveScatter c fuel lo s).fixed = s.fixed := by
  induction fuel generalizing lo s with
  | zero => rfl
  | succ n ih => simp [State.moveScatter, ih]

@[simp] theorem State.moveOpen_fixed (s : State) (c : Cmd) : (s.moveOpen c).fixed = s.fixed := by simp [State.moveOpen]

@[simp] theorem State.awakeFor_fixed (s : State) (ps : List Nat) {eff : State} (h : eff.fixed = s.fixed) :
    (s.awakeFor ps eff).fixed = s.fixed := by
  simp [State.awakeFor, h]

@[simp] theorem State.moveTouch_fixed (s : State) (c : Cmd) (lo n : Nat) : (s.moveTouch c lo n).fixed = s.fixed := by
  simp [State.moveTouch]

@[simp] theorem State.moveRest_fixed (s0 : State) (c : Cmd) : (s0.moveRest c).fixed = s0.fixed := by
  unfold State.moveRest
  dsimp only
  (repeat' split) <;> simp

@[simp] theorem State.scrubSector_fixed (s : State) (x : Scrubbed) (sector : Nat) :
    (s.scrubSector x sector).1.fixed = s.fixed := by
  unfold State.scrubSector
  dsimp only
  (repeat' split) <;> simp

@[simp] theorem scrubSectors_fixed (os : List Nat) (s : State) (x : Scrubbed) : (scrubSectors os s x).1.fixed = s.fixed := by
  induction os generalizing s x with
  | nil => rfl
  | cons o os ih => simp [scrubSectors, ih]

@[simp] theorem State.pinGot_fixed (s : State) (c : Cmd) (x : ChPinned) (part : Nat) : (s.pinGot c x part).fixed = s.fixed := by
  simp [State.pinGot]

@[simp] theorem pinLine_fixed (c : Cmd) (cls off n : Nat) (may : Bool) (acc : State × Option Nat) (ln : Nat) :
    (pinLine c cls off n may acc ln).1.fixed = acc.1.fixed := by
  unfold pinLine
  extract_lets s bay b seen got
  have hseen : ∀ t, (seen t).1.fixed = t.fixed := fun t => by simp [seen]
  have hgot : ∀ t, (got t).1.fixed = t.fixed := fun t => by simp [got, hseen]
  clear_value seen got
  split
  · rfl
  · split_ifs
    all_goals try simp [hseen, hgot, s]
    split <;> next e =>
      have := congrArg (·.1.fixed) e
      simp [hgot] at this ⊢
      exact this.symm

@[simp] theorem State.pinSome_fixed (s : State) (c : Cmd) (n : Nat) : (s.pinSome c n).1.fixed = s.fixed := by simp [State.pinSome]

@[simp] theorem State.pinRest_fixed (s : State) (c : Cmd) : (s.pinRest c).fixed = s.fixed := by
  unfold State.pinRest
  dsimp only
  split <;> simp

@[simp] theorem pinCmd_fixed (s : State) (c : Cmd) : (pinCmd s c).fixed = s.fixed := by simp [pinCmd]
@[simp] theorem unpinCmd_fixed (s : State) (c : Cmd) : (unpinCmd s c).fixed = s.fixed := by simp [unpinCmd]
@[simp] theorem State.stepped_fixed (s : State) (id n : Nat) : (s.stepped id n).fixed = s.fixed := by simp [State.stepped]

@[simp] theorem State.moveStep_fixed (s0 : State) (c : Cmd) (n : Nat) : (s0.moveStep c n).fixed = s0.fixed := by
  simp [State.moveStep]

@[simp] theorem State.pinStep_fixed (s : State) (c : Cmd) (n : Nat) : (s.pinStep c n).fixed = s.fixed := by simp [State.pinStep]

@[simp] theorem State.chunkStep_fixed (s : State) (c : Cmd) (n : Nat) : (s.chunkStep c n).fixed = s.fixed := by
  unfold State.chunkStep
  dsimp only
  split
  · rfl
  · split_ifs
    · rfl
    · split
      · next h => simp [State.chunkBytes_fixed h]
      · rfl

/-! ### Regulation -/

@[simp] theorem State.modeChanged_fixed (s : State) (p old : Nat) : (s.modeChanged p old).fixed = s.fixed := by
  simp [State.modeChanged]

@[simp] theorem State.setAuto_fixed (s : State) (p v : Nat) : (s.setAuto p v).fixed = s.fixed := by simp [State.setAuto]
@[simp] theorem State.setRegMode_fixed (s : State) (p v : Nat) : (s.setRegMode p v).fixed = s.fixed := by simp [State.setRegMode]
@[simp] theorem State.applyMin_fixed (s : State) (p : Nat) : (s.applyMin p).fixed = s.fixed := by simp [State.applyMin]

@[simp] theorem State.setDeliverable_fixed (s : State) (p d : Nat) : (s.setDeliverable p d).fixed = s.fixed := by
  simp [State.setDeliverable]

@[simp] theorem State.refreshDeliverable_fixed (s : State) (p : Nat) : (s.refreshDeliverable p).fixed = s.fixed := by
  simp [State.refreshDeliverable]

@[simp] theorem State.setQuotas_fixed (s : State) (p : Nat) : (s.setQuotas p).fixed = s.fixed := by simp [State.setQuotas]

@[simp] theorem State.nextLevel_fixed (s : State) (l p c old : Nat) : (s.nextLevel l p c old).2.fixed = s.fixed := by
  simp [State.nextLevel]

@[simp] theorem State.levelSeven_fixed (s : State) (l : Nat) (x : Louvre) : (s.levelSeven l x).fixed = s.fixed := by
  simp [State.levelSeven]

@[simp] theorem louvreWindowEnd_fixed (l : Nat) (s0 : State) : (louvreWindowEnd l s0).fixed = s0.fixed := by
  simp [louvreWindowEnd]

@[simp] theorem State.levelsReset_fixed (s : State) (c : Nat) : (s.levelsReset c).fixed = s.fixed := by simp [State.levelsReset]

@[simp] theorem State.takeTable_fixed (s : State) (bs : List Byte) (p : Nat) : (s.takeTable bs p).fixed = s.fixed := by
  simp [State.takeTable]

@[simp] theorem setClassTable_fixed (s : State) (c : Cmd) : (setClassTable s c).fixed = s.fixed := by
  unfold setClassTable
  (repeat' split) <;> simp

/-! ### Control -/

theorem threadJump_fixed {s t : State} {c i : Nat} {f : Thread → Thread} {lanes : List Nat}
    (ht : threadJump s c i f lanes = .ok t) : t.fixed = s.fixed := by
  cases ht
  simp

@[simp] theorem State.leaveEpoch_fixed (s : State) (c : Nat) : (s.leaveEpoch c).fixed = s.fixed := by simp [State.leaveEpoch]

/-! ### Spec -/

@[simp] theorem State.join_fixed (s : State) (c g handler : Nat) : (s.join c g handler).fixed = s.fixed := by simp [State.join]

/-! ### Runs -/

@[simp] theorem State.takeRun_fixed (s : State) (c : Cmd) (ph : Phase) (bs : List Binding) (spec : Bool) :
    (s.takeRun c ph bs spec).fixed = s.fixed := by
  simp [State.takeRun]

@[simp] theorem runCmd_fixed (spec : Bool) (s : State) (c : Cmd) : (runCmd spec s c).fixed = s.fixed := by
  unfold runCmd
  dsimp only
  (repeat' split) <;> simp

@[simp] theorem State.freeCores_fixed (s : State) (run : Nat) : (s.freeCores run).fixed = s.fixed := by simp [State.freeCores]
@[simp] theorem State.purge_fixed (s : State) : (s.purge).fixed = s.fixed := by simp [State.purge]

@[simp] theorem State.endRun_fixed (s : State) (r : Run) (status : Nat) (result : List Byte) :
    (s.endRun r status result).fixed = s.fixed := by
  simp [State.endRun]

@[simp] theorem State.resultTouch_fixed (s : State) (r : Run) : (s.resultTouch r).fixed = s.fixed := by
  unfold State.resultTouch
  split <;> simp

@[simp] theorem runCompletion_fixed (id : Nat) (s : State) : (runCompletion id s).fixed = s.fixed := by
  unfold runCompletion
  dsimp only
  (repeat' split) <;> simp

@[simp] theorem State.pwrRegCount_fixed (s : State) (g k n : Nat) : (s.pwrRegCount g k n).fixed = s.fixed := by
  simp [State.pwrRegCount]

@[simp] theorem State.beginStage_fixed (s : State) (g n : Nat) : (s.beginStage g n).fixed = s.fixed := by simp [State.beginStage]

@[simp] theorem State.startStaging_fixed (s : State) (g : Nat) (cs : List Nat) : (s.startStaging g cs).fixed = s.fixed := by
  simp [State.startStaging]

@[simp] theorem State.openShutters_fixed (s : State) (cs : List Nat) : (s.openShutters cs).fixed = s.fixed := by
  simp [State.openShutters]

@[simp] theorem State.closeShutter_fixed (s : State) (c : Nat) : (s.closeShutter c).fixed = s.fixed := by
  simp [State.closeShutter]

@[simp] theorem shutterStageEnd_fixed (g : Nat) (s : State) : (shutterStageEnd g s).fixed = s.fixed := by simp [shutterStageEnd]

@[simp] theorem State.clearFor_fixed (s : State) (r : Run) (c split : Nat) : (s.clearFor r c split).fixed = s.fixed := by
  simp [State.clearFor]

@[simp] theorem State.launchCore_fixed (s : State) (r : Run) (im : Image) (e : VcEntry) (entry : Nat) :
    (s.launchCore r im e entry).fixed = s.fixed := by
  unfold State.launchCore
  split <;> simp

@[simp] theorem State.launchProxy_fixed (s : State) (r : Run) (v : Nat) : (s.launchProxy r v).fixed = s.fixed := by
  unfold State.launchProxy
  split <;> simp

@[simp] theorem State.workingTo_fixed (s : State) (fn : Nat) (t : Tensor) : (s.workingTo fn t).fixed = s.fixed := by
  simp [State.workingTo]

@[simp] theorem State.stackTo_fixed (s : State) (im : Image) (fn p : Nat) : (s.stackTo im fn p).fixed = s.fixed := by
  simp [State.stackTo]

@[simp] theorem State.openRunEpochs_fixed (s : State) (r : Run) : (s.openRunEpochs r).fixed = s.fixed := by
  simp [State.openRunEpochs]

@[simp] theorem State.setRowModes_fixed (s : State) (r : Run) (im : Image) (ph : Phase) :
    (s.setRowModes r im ph).fixed = s.fixed := by
  unfold State.setRowModes
  refine foldl_fixed _ (fun _ _ => ?_) _ _
  split <;> simp

@[simp] theorem State.startRun_fixed (s : State) (r0 : Run) (im : Image) (ph : Phase) :
    (s.startRun r0 im ph).fixed = s.fixed := by
  simp [State.startRun]

@[simp] theorem runLaunch_fixed (id : Nat) (s : State) : (runLaunch id s).fixed = s.fixed := by
  unfold runLaunch
  (repeat' split) <;> simp

@[simp] theorem runTimeLimit_fixed (id : Nat) (s : State) : (runTimeLimit id s).fixed = s.fixed := by
  unfold runTimeLimit
  split <;> simp

@[simp] theorem holdLimitExpiry_fixed (id : Nat) (s : State) : (holdLimitExpiry id s).fixed = s.fixed := by
  unfold holdLimitExpiry
  split <;> simp

@[simp] theorem State.emptyStaged_fixed (s : State) (comp : Nat) : (s.emptyStaged comp).fixed = s.fixed := by
  simp [State.emptyStaged]

@[simp] theorem State.partialEffect_fixed (s : State) (c : Cmd) : (s.partialEffect c).fixed = s.fixed := by
  unfold State.partialEffect
  split <;> simp

@[simp] theorem State.stopCmd_fixed (s : State) (c : Cmd) (status : Nat) : (s.stopCmd c status).fixed = s.fixed := by
  simp [State.stopCmd]

@[simp] theorem State.stopRunAs_fixed (s : State) (r : Run) (cause status : Nat) :
    (s.stopRunAs r cause status).fixed = s.fixed := by
  unfold State.stopRunAs
  split <;> simp

@[simp] theorem State.awaitRun_fixed (s : State) (c : Cmd) (run : Nat) (did : Bool) : (s.awaitRun c run did).fixed = s.fixed := by
  simp [State.awaitRun]

@[simp] theorem State.confirmEnd_fixed (s : State) (c : Cmd) : (s.confirmEnd c).fixed = s.fixed := by
  unfold State.confirmEnd
  split <;> simp

@[simp] theorem confirmCmd_fixed (s : State) (c : Cmd) : (confirmCmd s c).fixed = s.fixed := by
  unfold confirmCmd
  (repeat' split) <;> simp

@[simp] theorem abortSpecCmd_fixed (s : State) (c : Cmd) : (abortSpecCmd s c).fixed = s.fixed := by
  unfold abortSpecCmd
  (repeat' split) <;> simp

@[simp] theorem State.cancelRun_fixed (s : State) (c : Cmd) (r : Run) : (s.cancelRun c r).fixed = s.fixed := by
  unfold State.cancelRun
  (repeat' split) <;> simp

@[simp] theorem cancelCmd_fixed (s : State) (c : Cmd) : (cancelCmd s c).fixed = s.fixed := by
  unfold cancelCmd
  (repeat' split) <;> simp

/-! ### Queries -/

@[simp] theorem queryState_fixed (s : State) (c : Cmd) : (queryState s c).fixed = s.fixed := by simp [queryState]

@[simp] theorem State.addDefect_fixed (s : State) (kind number detail : Nat) (src : Nat) :
    (s.addDefect kind number detail src).fixed = s.fixed := by
  simp [State.addDefect]

@[simp] theorem queryDefects_fixed (s : State) (c : Cmd) : (queryDefects s c).fixed = s.fixed := by simp [queryDefects]
@[simp] theorem readCounters_fixed (s : State) (c : Cmd) : (readCounters s c).fixed = s.fixed := by simp [readCounters]

/-! ### Registers -/

@[simp] theorem State.repairWrite_fixed (s : State) (c g : Nat) (v : W64) : (s.repairWrite c g v).fixed = s.fixed := by
  simp [State.repairWrite]

@[simp] theorem State.badWindow_fixed (s : State) (f : Nat) : (s.badWindow f).fixed = s.fixed := by simp [State.badWindow]

@[simp] theorem State.rwValue_fixed (s : State) (v rw reserved : W64) : (s.rwValue v rw reserved).2.fixed = s.fixed := by
  simp [State.rwValue]

@[simp] theorem State.ringWrite_fixed (s : State) (f : Nat) (g : Fn → Fn) : (s.ringWrite f g).fixed = s.fixed := by
  simp [State.ringWrite]

@[simp] theorem State.msixWrite_fixed (s : State) (f off : Nat) (v : W32) : (s.msixWrite f off v).fixed = s.fixed := by
  unfold State.msixWrite
  split <;> simp

@[simp] theorem State.windowWrite_fixed (s : State) (f off size : Nat) (v : W64) :
    (s.windowWrite f off size v).fixed = s.fixed := by
  simp [State.windowWrite]

@[simp] theorem State.sillWrite_fixed (s : State) (by_ : Requester) (off : Nat) (bs : List Byte) :
    (s.sillWrite by_ off bs).fixed = s.fixed := by
  simp [State.sillWrite]

@[simp] theorem State.controlWrite_fixed (s : State) (by_ : Requester) (off size : Nat) (v : W64) :
    (s.controlWrite by_ off size v).fixed = s.fixed := by
  unfold State.controlWrite
  (repeat' split) <;> simp

@[simp] theorem State.hostRegister_fixed (s : State) (f off size : Nat) (v : W64) :
    (s.hostRegister f off size v).fixed = s.fixed := by
  simp [State.hostRegister]

/-! ### Retire -/

@[simp] theorem State.bayOut_fixed (s : State) (n : Nat) : (s.bayOut n).fixed = s.fixed := by simp [State.bayOut]

@[simp] theorem State.takeOut_fixed (s : State) (kind number : Nat) : (s.takeOut kind number).fixed = s.fixed := by
  simp [State.takeOut]

@[simp] theorem State.rework_fixed (s : State) (p : Nat) (change : State → State) (h : ∀ t, (change t).fixed = t.fixed) :
    (s.rework p change).1.fixed = s.fixed := by
  unfold State.rework
  split
  · simp [h]
  · split
    · next e => exact State.replace_fixed h e
    · simp [h]

@[simp] theorem State.retireUnits_fixed (s : State) (p : Nat) (fs : List Finding) (src : Nat) :
    (s.retireUnits p fs src).1.fixed = s.fixed := by
  simp [State.retireUnits]

@[simp] theorem State.bondMark_fixed (s : State) (c d : Nat) : (s.bondMark c d).1.fixed = s.fixed := by
  unfold State.bondMark
  extract_lets lost g pos s1 pair bond s2 mc
  have hl : ∀ t, (lost t).1.fixed = t.fixed := fun t => by simp [lost]
  clear_value lost
  split
  · split
    · simp [s1]
    · split <;> simp [s1]
    · split <;> simp [hl, s1]
  · split
    · split <;> simp [hl]
    · have h2 : s2.fixed = s.fixed := by simp [s2]
      clear_value s2
      simp [h2]

@[simp] theorem State.bondFail_fixed (s : State) (c d src : Nat) : (s.bondFail c d src).1.fixed = s.fixed := by
  simp [State.bondFail]

@[simp] theorem State.bondTest_fixed (s : State) (c : Nat) (ds : List Nat) (src : Nat) :
    (s.bondTest c ds src).1.fixed = s.fixed := by
  simp [State.bondTest]

@[simp] theorem State.bondTests_fixed (s : State) (cores : List Nat) (fs : List Finding) (src : Nat) :
    (s.bondTests cores fs src).1.fixed = s.fixed := by
  simp [State.bondTests]

theorem State.drainCluster_fixed {s t : State} {n : Nat} (h : s.drainCluster n = some t) : t.fixed = s.fixed := by
  unfold State.drainCluster at h
  dsimp only at h
  split_ifs at h
  · exact Option.some.inj h ▸ rfl
  · split at h
    · exact State.replace_fixed (by simp) h
    · simp [← Option.some.inj h]
  · simp [← Option.some.inj h]

@[simp] theorem State.testOver_fixed (s : State) (n : Nat) : (s.testOver n).fixed = s.fixed := by simp [State.testOver]

@[simp] theorem State.laneRepair_fixed (s : State) (st ch which n : Nat) : (s.laneRepair st ch which n).1.fixed = s.fixed := by
  simp [State.laneRepair]

@[simp] theorem State.handback_fixed (s : State) (st : Nat) (k : Kick) : (s.handback st k).fixed = s.fixed := by
  unfold State.handback
  (repeat' split) <;> simp

@[simp] theorem State.nbDisable_fixed (s : State) (st : Nat) : (s.nbDisable st).fixed = s.fixed := by
  unfold State.nbDisable
  (repeat' split) <;> simp

/-! ### Resets -/

@[simp] theorem State.endUsers_fixed (s : State) (p : Nat) : (s.endUsers p).fixed = s.fixed := by
  unfold State.endUsers
  dsimp only
  rw [foldl_fixed _ (by simp), foldl_fixed _ (fun t r => by split <;> simp)]

@[simp] theorem State.beginReset_fixed (s : State) (p reason : Nat) (noDump : Bool) (cmd : Nat) :
    (s.beginReset p reason noDump cmd).fixed = s.fixed := by
  simp [State.beginReset]

@[simp] theorem State.cutConfirm_fixed (s : State) (g : Nat) : (s.cutConfirm g).fixed = s.fixed := by simp [State.cutConfirm]
@[simp] theorem doorDrainEnd_fixed (p : Nat) (s : State) : (doorDrainEnd p s).fixed = s.fixed := by simp [doorDrainEnd]

@[simp] theorem State.entryFails_fixed (s : State) (bay ln : Nat) : (s.entryFails bay ln).fixed = s.fixed := by
  unfold State.entryFails
  dsimp only
  split <;> simp

@[simp] theorem State.releaseBay_fixed (s : State) (n : Nat) : (s.releaseBay n).fixed = s.fixed := by
  unfold State.releaseBay
  refine foldl_fixed _ (fun _ _ => ?_) _ _
  (repeat' split) <;> simp

@[simp] theorem State.clearBay_fixed (s : State) (n : Nat) : (s.clearBay n).fixed = s.fixed := by simp [State.clearBay]

@[simp] theorem State.markLine_fixed (s : State) (bay : Nat) (l : Line) : (s.markLine bay l).fixed = s.fixed := by
  simp [State.markLine]

@[simp] theorem State.flushPart_fixed (s : State) (p : Nat) : (s.flushPart p).fixed = s.fixed := by simp [State.flushPart]
@[simp] theorem forcedBayReset_fixed (n : Nat) (s : State) : (forcedBayReset n s).fixed = s.fixed := by simp [forcedBayReset]

@[simp] theorem State.coreEntry_fixed (s : State) (c : Nat) (forced : List Nat) : (s.coreEntry c forced).2.fixed = s.fixed := by
  simp [State.coreEntry]

@[simp] theorem State.dumpPart_fixed (s : State) (p : Nat) : (s.dumpPart p).fixed = s.fixed := by simp [State.dumpPart]

@[simp] theorem State.drainStores_fixed (s : State) (c : Nat) : (s.drainStores c).fixed = s.fixed := by
  unfold State.drainStores
  dsimp only
  rw [foldl_fixed _ (fun t w => ?_)]
  · simp
  · split_ifs
    · simp
    · split
      · next h => simp [State.landStore_fixed h]
      · simp

@[simp] theorem State.loseCore_fixed (s : State) (c : Nat) : (s.loseCore c).fixed = s.fixed := by simp [State.loseCore]
@[simp] theorem State.dropCopies_fixed (s : State) (p : Nat) : (s.dropCopies p).fixed = s.fixed := by simp [State.dropCopies]
@[simp] theorem State.losePart_fixed (s : State) (p : Nat) : (s.losePart p).fixed = s.fixed := by simp [State.losePart]

@[simp] theorem State.endCancelled_fixed (s : State) (p : Nat) : (s.endCancelled p).fixed = s.fixed := by
  unfold State.endCancelled
  refine foldl_fixed _ (fun _ _ => ?_) _ _
  split <;> simp

@[simp] theorem State.refillPins_fixed (s : State) (p : Nat) : (s.refillPins p).fixed = s.fixed := by simp [State.refillPins]

@[simp] theorem State.releaseHolds_fixed (s : State) : (s.releaseHolds).fixed = s.fixed := by
  unfold State.releaseHolds
  refine foldl_fixed _ (fun t q => ?_) _ _
  dsimp only
  split_ifs
  · rfl
  · rw [foldl_fixed _ (fun a m => by split <;> simp)]
    simp

@[simp] theorem State.resetFindings_fixed (s : State) (p : Nat) (fs : List Finding) : (s.resetFindings p fs).fixed = s.fixed := by
  simp [State.resetFindings]

@[simp] theorem partitionResetDone_fixed (p : Nat) (failures : List Finding) (s : State) :
    (partitionResetDone p failures s).fixed = s.fixed := by
  simp [partitionResetDone]

@[simp] theorem State.resetCores_fixed (s : State) (cs : List Nat) : (s.resetCores cs).fixed = s.fixed := by
  unfold State.resetCores
  dsimp only
  rw [foldl_fixed _ (by simp), foldl_fixed _ (by simp), foldl_fixed _ (fun t r => by split <;> simp), foldl_fixed _ (by simp)]

@[simp] theorem State.unitReset_fixed (s : State) (c : Cmd) (cs : List Nat) (after : State → State)
    (h : ∀ t, (after t).fixed = t.fixed) :
    (s.unitReset c cs after).fixed = s.fixed := by
  unfold State.unitReset
  (repeat' split) <;> simp [*]

@[simp] theorem State.restage_fixed (s : State) (n : Nat) : (s.restage n).fixed = s.fixed := by simp [State.restage]

@[simp] theorem State.clusterReset_fixed (s : State) (n : Nat) : (s.clusterReset n).fixed = s.fixed := by
  simp [State.clusterReset]

@[simp] theorem State.mcRestart_fixed (s : State) : (s.mcRestart).fixed = s.fixed := by
  unfold State.mcRestart
  refine foldl_fixed _ (fun _ _ => ?_) _ _
  split <;> simp

/-! ### PowerStates -/

@[simp] theorem State.sideband_fixed (s : State) {eff : State} (h : eff.fixed = s.fixed) : (s.sideband eff).fixed = s.fixed := by
  simp [State.sideband, h]

@[simp] theorem State.refused_fixed (s : State) (p code : Nat) : (s.refused p code).fixed = s.fixed := by simp [State.refused]

@[simp] theorem State.moduleRefused_fixed (s : State) (code : Nat) : (s.moduleRefused code).fixed = s.fixed := by
  simp [State.moduleRefused]

@[simp] theorem State.refreshModule_fixed (s : State) : (s.refreshModule).fixed = s.fixed := by simp [State.refreshModule]

@[simp] theorem State.recordWake_fixed (s : State) (source from_ : Nat) : (s.recordWake source from_).fixed = s.fixed := by
  simp [State.recordWake]

@[simp] theorem State.retrained_fixed (s : State) (i : Nat) : (s.retrained i).fixed = s.fixed := by simp [State.retrained]
@[simp] theorem State.portTrain_fixed (s : State) (i : Nat) : (s.portTrain i).fixed = s.fixed := by simp [State.portTrain]
@[simp] theorem State.portsRetrain_fixed (s : State) : (s.portsRetrain).fixed = s.fixed := by simp [State.portsRetrain]
@[simp] theorem State.unitsUp_fixed (s : State) : (s.unitsUp).fixed = s.fixed := by simp [State.unitsUp]

@[simp] theorem State.unitsDown_fixed (s : State) : (s.unitsDown).fixed = s.fixed := by
  unfold State.unitsDown
  (repeat' split) <;> simp

@[simp] theorem State.wakeAjar_fixed (s : State) (p : Nat) : (s.wakeAjar p).fixed = s.fixed := by simp [State.wakeAjar]

@[simp] theorem State.wakeModule_fixed (s : State) (source : Nat) (named : List Nat) :
    (s.wakeModule source named).fixed = s.fixed := by
  simp [State.wakeModule]

@[simp] theorem State.hotWake_fixed (s : State) (p : Nat) : (s.hotWake p).fixed = s.fixed := by simp [State.hotWake]

@[simp] theorem State.powerProgress_fixed (s : State) (p : Nat) : (s.powerProgress p).fixed = s.fixed := by
  simp [State.powerProgress]

@[simp] theorem State.wakeFollows_fixed (s : State) (p : Nat) : (s.wakeFollows p).fixed = s.fixed := by simp [State.wakeFollows]

@[simp] theorem State.gatePart_fixed (s : State) (p : Nat) (v : Bool) : (s.gatePart p v).fixed = s.fixed := by
  simp [State.gatePart]

@[simp] theorem State.entryEnd_fixed (s : State) (p st count : Nat) : (s.entryEnd p st count).fixed = s.fixed := by
  simp [State.entryEnd]

@[simp] theorem ajarEntryDone_fixed (p : Nat) (s : State) : (ajarEntryDone p s).fixed = s.fixed := by simp [ajarEntryDone]
@[simp] theorem State.coreShut_fixed (s : State) (c : Nat) : (s.coreShut c).fixed = s.fixed := by simp [State.coreShut]
@[simp] theorem State.coreReload_fixed (s : State) (c : Nat) : (s.coreReload c).fixed = s.fixed := by simp [State.coreReload]
@[simp] theorem shutEntryDone_fixed (p : Nat) (s : State) : (shutEntryDone p s).fixed = s.fixed := by simp [shutEntryDone]
@[simp] theorem wakeDone_fixed (p : Nat) (s : State) : (wakeDone p s).fixed = s.fixed := by simp [wakeDone]

@[simp] theorem State.beginEntry_fixed (s : State) (p target : Nat) : (s.beginEntry p target).fixed = s.fixed := by
  simp [State.beginEntry]

@[simp] theorem State.toBolted_fixed (s : State) : (s.toBolted).fixed = s.fixed := by simp [State.toBolted]

@[simp] theorem State.powerRefused_fixed (s : State) (c : Cmd) (p code : Nat) : (s.powerRefused c p code).fixed = s.fixed := by
  simp [State.powerRefused]

@[simp] theorem State.awaitPower_fixed (s : State) (c : Cmd) (ps : List Nat) : (s.awaitPower c ps).fixed = s.fixed := by
  simp [State.awaitPower]

@[simp] theorem powerState_fixed (s : State) (c : Cmd) : (powerState s c).fixed = s.fixed := by
  unfold powerState
  dsimp only
  (repeat' split) <;> simp

/-! ### Links -/

@[simp] theorem State.releaseRegions_fixed (s : State) (f : Nat) : (s.releaseRegions f).fixed = s.fixed := by
  unfold State.releaseRegions
  refine foldl_fixed _ (fun t i => ?_) _ _
  dsimp only
  split <;> simp

@[simp] theorem State.cancelRuns_fixed (s : State) (f : Nat) : (s.cancelRuns f).fixed = s.fixed := by
  unfold State.cancelRuns
  refine foldl_fixed _ (fun _ _ => ?_) _ _
  split <;> simp

@[simp] theorem State.flr_fixed (s : State) (f : Nat) : (s.flr f).fixed = s.fixed := by simp [State.flr]
@[simp] theorem State.flrAll_fixed (s : State) : (s.flrAll).fixed = s.fixed := by simp [State.flrAll]
@[simp] theorem busMasterClear_fixed (f : Nat) (s : State) : (busMasterClear f s).fixed = s.fixed := by simp [busMasterClear]
@[simp] theorem busMasterSet_fixed (f : Nat) (s : State) : (busMasterSet f s).fixed = s.fixed := by simp [busMasterSet]

@[simp] theorem State.standbyWake_fixed (s : State) (port source : Nat) : (s.standbyWake port source).fixed = s.fixed := by
  simp [State.standbyWake]

@[simp] theorem State.portCount_fixed (s : State) (i k n : Nat) : (s.portCount i k n).fixed = s.fixed := by simp [State.portCount]
@[simp] theorem State.setLink_fixed (s : State) (i : Nat) (x : Link) : (s.setLink i x).fixed = s.fixed := by simp [State.setLink]

@[simp] theorem seunonTrainingDone_fixed (i : Nat) (r : TrainResult) (s : State) :
    (seunonTrainingDone i r s).fixed = s.fixed := by
  simp [seunonTrainingDone]

@[simp] theorem State.flowsMove_fixed (s : State) : (s.flowsMove).fixed = s.fixed := by simp [State.flowsMove]
@[simp] theorem State.linkLost_fixed (s : State) (i : Nat) : (s.linkLost i).fixed = s.fixed := by simp [State.linkLost]
@[simp] theorem State.portDown_fixed (s : State) (i : Nat) : (s.portDown i).fixed = s.fixed := by simp [State.portDown]

@[simp] theorem seunonFlitError_fixed (i : Nat) (trained : Bool) (s : State) : (seunonFlitError i trained s).fixed = s.fixed := by
  simp [seunonFlitError]

@[simp] theorem hingeBridgeFlitError_fixed (i : Nat) (trained : Bool) (s : State) :
    (hingeBridgeFlitError i trained s).fixed = s.fixed := by
  simp [hingeBridgeFlitError]

@[simp] theorem State.recordCopy_fixed (s : State) (bay ln m : Nat) : (s.recordCopy bay ln m).fixed = s.fixed := by
  unfold State.recordCopy
  split <;> simp

@[simp] theorem State.remoteRead_fixed (s : State) (r : RemoteReq) : (s.remoteRead r).fixed = s.fixed := by
  simp [State.remoteRead]

@[simp] theorem State.forward_fixed (s : State) (i : Nat) (r : RemoteReq) : (s.forward i r).fixed = s.fixed := by
  unfold State.forward
  (repeat' split) <;> simp

@[simp] theorem seunonRemoteRequest_fixed (i : Nat) (r : RemoteReq) (s : State) :
    (seunonRemoteRequest i r s).fixed = s.fixed := by
  unfold seunonRemoteRequest
  (repeat' split) <;> simp

/-! ### Power -/

@[simp] theorem State.refreshLimit_fixed (s : State) (g : Nat) : (s.refreshLimit g).fixed = s.fixed := by
  simp [State.refreshLimit]

@[simp] theorem State.addJob_fixed (s : State) (j : Job) : (s.addJob j).fixed = s.fixed := by simp [State.addJob]
@[simp] theorem State.darken_fixed (s : State) (g src : Nat) : (s.darken g src).fixed = s.fixed := by simp [State.darken]

@[simp] theorem State.darkenSoon_fixed (s : State) (g src : Nat) : (s.darkenSoon g src).fixed = s.fixed := by
  simp [State.darkenSoon]

@[simp] theorem State.doDue_fixed (s : State) (d : Due) : (s.doDue d).fixed = s.fixed := by
  cases d <;> simp [State.doDue]

@[simp] theorem State.runDues_fixed (s : State) : (s.runDues).fixed = s.fixed := by simp [State.runDues]

@[simp] theorem State.tierActs_fixed (s : State) (g old src : Nat) : (s.tierActs g old src).fixed = s.fixed := by
  simp [State.tierActs]

@[simp] theorem State.cellsFail_fixed (s : State) (g new src : Nat) : (s.cellsFail g new src).fixed = s.fixed := by
  simp [State.cellsFail]

@[simp] theorem cellTelemetrySample_fixed (g : Nat) (cells : List CellReading) (s : State) :
    (cellTelemetrySample g cells s).fixed = s.fixed := by
  simp [cellTelemetrySample]

@[simp] theorem limiterSample_fixed (g current : Nat) (s : State) : (limiterSample g current s).fixed = s.fixed := by
  unfold limiterSample
  dsimp only
  (repeat' split) <;> simp

@[simp] theorem State.setShare_fixed (s : State) (g x : Nat) : (s.setShare g x).fixed = s.fixed := by simp [State.setShare]
@[simp] theorem State.sharesFall_fixed (s : State) (t : Nat) : (s.sharesFall t).fixed = s.fixed := by simp [State.sharesFall]
@[simp] theorem State.sharesRise_fixed (s : State) (t : Nat) : (s.sharesRise t).fixed = s.fixed := by simp [State.sharesRise]
@[simp] theorem State.towerBoosts_fixed (s : State) (t : Nat) : (s.towerBoosts t).fixed = s.fixed := by simp [State.towerBoosts]
@[simp] theorem State.boostAsked_fixed (s : State) (t : Nat) : (s.boostAsked t).fixed = s.fixed := by simp [State.boostAsked]

@[simp] theorem governorSample_fixed (t power input : Nat) (boost : Bool) (s : State) :
    (governorSample t power input boost s).fixed = s.fixed := by
  unfold governorSample
  split
  · rfl
  · extract_lets s1 tick pw s2 s3 cap
    have h1 : s1.fixed = s.fixed := by simp [s1]
    have h2 : s2.fixed = s.fixed := by simp [s2, h1]
    have h3 : s3.fixed = s.fixed := by simp [s3, h2]
    split_ifs <;> simp [h3]

@[simp] theorem State.endAll_fixed (s : State) : (s.endAll).fixed = s.fixed := by simp [State.endAll]
@[simp] theorem State.halt_fixed (s : State) (fault : Nat) : (s.halt fault).fixed = s.fixed := by simp [State.halt]

@[simp] theorem State.descend_fixed (s : State) (profile after : Nat) : (s.descend profile after).fixed = s.fixed := by
  simp [State.descend]

@[simp] theorem State.supplyFault_fixed (s : State) (num : Nat) : (s.supplyFault num).fixed = s.fixed := by
  simp [State.supplyFault]

@[simp] theorem busConverterFailure_fixed (k : Nat) (s : State) : (busConverterFailure k s).fixed = s.fixed := by
  simp [busConverterFailure]

/-! ### Thermal -/

@[simp] theorem State.thermRecordOf_fixed (s : State) (type source n : Nat) (sensor : Option Int) :
    (s.thermRecordOf type source n sensor).fixed = s.fixed := by
  simp [State.thermRecordOf]

@[simp] theorem State.thermRecord_fixed (s : State) (type source n : Nat) : (s.thermRecord type source n).fixed = s.fixed := by
  simp [State.thermRecord]

@[simp] theorem State.trip_fixed (s : State) (source n : Nat) : (s.trip source n).fixed = s.fixed := by simp [State.trip]

theorem State.tripCleared_fixed {s t : State} (h : s.tripCleared = some t) : t.fixed = s.fixed := by
  unfold State.tripCleared at h
  dsimp only at h
  split_ifs at h
  · exact Option.some.inj h ▸ rfl
  · simp [← Option.some.inj h]

@[simp] theorem State.sensorFails_fixed (s : State) (n i : Nat) : (s.sensorFails n i).fixed = s.fixed := by
  unfold State.sensorFails
  split <;> simp

@[simp] theorem State.reading_fixed (s : State) (n i : Nat) (v : Int) : (s.reading n i v).fixed = s.fixed := by
  simp [State.reading]

@[simp] theorem State.calibrate_fixed (s : State) (n : Nat) : (s.calibrate n).fixed = s.fixed := by simp [State.calibrate]
@[simp] theorem State.modelStep_fixed (s : State) (n : Nat) : (s.modelStep n).fixed = s.fixed := by simp [State.modelStep]

@[simp] theorem State.regionUpdate_fixed (s : State) (g : Nat) : (s.regionUpdate g).fixed = s.fixed := by
  simp [State.regionUpdate]

@[simp] theorem State.thermAct_fixed (s : State) (n : Nat) : (s.thermAct n).fixed = s.fixed := by simp [State.thermAct]
@[simp] theorem State.thermStatus_fixed (s : State) : (s.thermStatus).fixed = s.fixed := by simp [State.thermStatus]
@[simp] theorem State.thermPart_fixed (s : State) (p : Nat) : (s.thermPart p).fixed = s.fixed := by simp [State.thermPart]

@[simp] theorem thermalModelUpdate_fixed (sensors : List (Nat × Nat × Int)) (s : State) :
    (thermalModelUpdate sensors s).fixed = s.fixed := by
  unfold thermalModelUpdate
  dsimp only
  (repeat' split) <;> simp

@[simp] theorem thermalActionRelease_fixed (n : Nat) (s : State) : (thermalActionRelease n s).fixed = s.fixed := by
  simp [thermalActionRelease]

@[simp] theorem State.cyclesReg_fixed (s : State) (t : Nat) : (s.cyclesReg t).fixed = s.fixed := by simp [State.cyclesReg]

@[simp] theorem State.testCluster_fixed (s : State) (n : Nat) : (s.testCluster n).fixed = s.fixed := by
  unfold State.testCluster
  split
  · rfl
  · next h =>
    simp [State.drainCluster_fixed h]

@[simp] theorem State.testEnd_fixed (s : State) (t : Nat) : (s.testEnd t).fixed = s.fixed := by simp [State.testEnd]
@[simp] theorem State.testSome_fixed (s : State) (p : Nat) : (s.testSome p).fixed = s.fixed := by simp [State.testSome]
@[simp] theorem State.secondTick_fixed (s : State) : (s.secondTick).fixed = s.fixed := by simp [State.secondTick]
@[simp] theorem bondTempSample_fixed (t : Nat) (s : State) : (bondTempSample t s).fixed = s.fixed := by simp [bondTempSample]

/-! ### Bringup -/

@[simp] theorem State.volatileLost_fixed (s : State) : (s.volatileLost).fixed = s.fixed := by simp [State.volatileLost]

@[simp] theorem State.loadFw_fixed (s : State) (comp : Nat) (good : Nat → Bool) : (s.loadFw comp good).1.fixed = s.fixed := by
  simp [State.loadFw]

@[simp] theorem State.haltAll_fixed (s : State) (fault : Nat) : (s.haltAll fault).fixed = s.fixed := by
  unfold State.haltAll
  dsimp only
  split <;> simp

@[simp] theorem State.domainRegs_fixed (s : State) : (s.domainRegs).fixed = s.fixed := by unfold State.domainRegs; split <;> simp
@[simp] theorem State.applyRepairs_fixed (s : State) : (s.applyRepairs).1.fixed = s.fixed := by simp [State.applyRepairs]
@[simp] theorem State.applyRetired_fixed (s : State) : (s.applyRetired).fixed = s.fixed := by simp [State.applyRetired]

@[simp] theorem State.stage1_fixed (s : State) (flag : Bool) (good : Nat → Bool) : (s.stage1 flag good).fixed = s.fixed := by
  simp [State.stage1]

@[simp] theorem State.powerOn_fixed (s : State) (good : Nat → Bool) : (s.powerOn good).fixed = s.fixed := by simp [State.powerOn]

@[simp] theorem mainPgAssert_fixed (unusable : List Nat) (ringOk phyOk : Bool) (cells : List Finding) (s : State) :
    (mainPgAssert unusable ringOk phyOk cells s).fixed = s.fixed := by
  unfold mainPgAssert
  split
  · rfl
  · extract_lets pw s1 s2 r mask s3 s4 e s5 pw' pc
    have h1 : s1.fixed = s.fixed := by simp [s1]
    have h2 : s2.fixed = s.fixed := by clear_value s1; simp [s2, h1]
    have h3 : s3.fixed = s.fixed := by clear_value s2; simp [s3, r, h2]
    have h4 : s4.fixed = s.fixed := by clear_value s3; simp [s4, h3]
    have h5 : s5.fixed = s.fixed := by clear_value s4; simp [s5, e, h4]
    clear_value s2 s4 s5
    split
    · simp [h2]
    · split <;> simp [e, h4, h5]

@[simp] theorem State.lanes_fixed (s : State) (fs : List Finding) : (s.lanes fs).1.fixed = s.fixed := by simp [State.lanes]

@[simp] theorem State.stacksUp_fixed (s : State) (bad : List Nat) (p : Nat) : (s.stacksUp bad p).fixed = s.fixed := by
  simp [State.stacksUp]

@[simp] theorem State.nbUp_fixed (s : State) : (s.nbUp).fixed = s.fixed := by simp [State.nbUp]

@[simp] theorem State.stageRetire_fixed (s : State) (fs : List Finding) : (s.stageRetire fs).fixed = s.fixed := by
  simp [State.stageRetire]

@[simp] theorem State.vminSearch_fixed (s : State) (p : Nat) : (s.vminSearch p).fixed = s.fixed := by simp [State.vminSearch]

@[simp] theorem State.checkFails_fixed (s : State) (fs : List Finding) : (s.checkFails fs).fixed = s.fixed := by
  simp [State.checkFails]

@[simp] theorem bringupStage3_fixed (fs : List Finding) (s : State) : (bringupStage3 fs s).fixed = s.fixed := by
  simp [bringupStage3]

@[simp] theorem State.portLanes_fixed (s : State) (i : Nat) (train : Bool) : (s.portLanes i train).fixed = s.fixed := by
  simp [State.portLanes]

@[simp] theorem bringupStage4_fixed (fs : List Finding) (s0 : State) : (bringupStage4 fs s0).fixed = s0.fixed := by
  simp [bringupStage4]

@[simp] theorem bringupStage5_fixed (fs : List Finding) (s : State) : (bringupStage5 fs s).fixed = s.fixed := by
  simp [bringupStage5]

@[simp] theorem bringupComplete_fixed (s : State) : (bringupComplete s).fixed = s.fixed := by simp [bringupComplete]
@[simp] theorem State.unpowered_fixed (s : State) : (s.unpowered).fixed = s.fixed := by simp [State.unpowered]

@[simp] theorem railsDownDone_fixed (s : State) : (railsDownDone s).fixed = s.fixed := by
  unfold railsDownDone
  (repeat' split) <;> simp

@[simp] theorem State.askReset_fixed (s : State) (quick : Bool) : (s.askReset quick).fixed = s.fixed := by simp [State.askReset]

@[simp] theorem moduleResetStart_fixed (s : State) : (moduleResetStart s).fixed = s.fixed := by
  unfold moduleResetStart
  split <;> simp

/-! ### Migrate -/

@[simp] theorem State.moveRanges_fixed (s : State) (ms : List Forward) : (s.moveRanges ms).fixed = s.fixed := by
  simp [State.moveRanges]

@[simp] theorem State.dropForwards_fixed (s : State) : (s.dropForwards).fixed = s.fixed := by simp [State.dropForwards]

@[simp] theorem State.setBase_fixed (s : State) (o : Placed) (b loc : Nat) : (s.setBase o b loc).fixed = s.fixed := by
  unfold State.setBase
  split <;> simp

@[simp] theorem State.carryOut_fixed (s : State) (pl : Plan) : (s.carryOut pl).fixed = s.fixed := by simp [State.carryOut]
@[simp] theorem State.mapOff_fixed (s : State) (st : Nat) : (s.mapOff st).fixed = s.fixed := by simp [State.mapOff]

@[simp] theorem State.stacksChanged_fixed (s : State) (p : Nat) : (s.stacksChanged p).fixed = s.fixed := by
  simp [State.stacksChanged]

@[simp] theorem State.stackOff_fixed (s : State) (st : Nat) (pl : Plan) : (s.stackOff st pl).fixed = s.fixed := by
  simp [State.stackOff]

@[simp] theorem State.stackBack_fixed (s : State) (st : Nat) : (s.stackBack st).fixed = s.fixed := by simp [State.stackBack]

@[simp] theorem State.migrateBegin_fixed (s : State) (c : Cmd) (st : Nat) (back : Bool) (temp : List (Nat × Nat)) :
    (s.migrateBegin c st back temp).fixed = s.fixed := by
  simp [State.migrateBegin]

@[simp] theorem State.migrateEnd_fixed (s : State) (c : Cmd) (m : Mig) : (s.migrateEnd c m).fixed = s.fixed := by
  unfold State.migrateEnd
  dsimp only
  (repeat' split) <;> simp

@[simp] theorem migrate_fixed (s : State) (c : Cmd) : (migrate s c).fixed = s.fixed := by
  unfold migrate
  dsimp only
  (repeat' split) <;> simp

@[simp] theorem State.ownShared_fixed (s : State) (status : Nat) : (s.ownShared status).fixed = s.fixed := by
  simp [State.ownShared]

@[simp] theorem State.stackFails_fixed (s : State) (st : Nat) : (s.stackFails st).fixed = s.fixed := by
  unfold State.stackFails
  extract_lets p s1 s2 mc
  have h1 : s1.fixed = s.fixed := by simp [s1]
  have h2 : s2.fixed = s.fixed := by clear_value s1; simp [s2, h1]
  clear_value s1 s2
  split
  · rfl
  · split
    · simp [h1]
    · split
      · simp [h2]
      · split <;> simp [h1]

@[simp] theorem hbmPeriodicRetrain_fixed (st ch a b ca : Nat) (s : State) :
    (hbmPeriodicRetrain st ch a b ca s).fixed = s.fixed := by
  simp [hbmPeriodicRetrain]

/-! ### Firmware -/

@[simp] theorem State.stageSlot_fixed (s : State) (comp : Nat) (bs : List Byte) : (s.stageSlot comp bs).fixed = s.fixed := by
  simp [State.stageSlot]

@[simp] theorem State.stagePackage_fixed (s : State) (comp : Nat) (bs : List Byte) :
    (s.stagePackage comp bs).1.fixed = s.fixed := by
  unfold State.stagePackage
  (repeat' split) <;> simp

@[simp] theorem fwStage_fixed (s : State) (c : Cmd) : (fwStage s c).fixed = s.fixed := by
  unfold fwStage
  dsimp only
  (repeat' split) <;> simp

@[simp] theorem State.switchSlot_fixed (s : State) (comp : Nat) : (s.switchSlot comp).fixed = s.fixed := by
  simp [State.switchSlot]

@[simp] theorem State.advanceFuse_fixed (s : State) (comp : Nat) : (s.advanceFuse comp).fixed = s.fixed := by
  simp [State.advanceFuse]

@[simp] theorem State.activated_fixed (s : State) (c : Cmd) : (s.activated c).fixed = s.fixed := by simp [State.activated]

@[simp] theorem State.activateFails_fixed (s : State) (c : Cmd) : (s.activateFails c).fixed = s.fixed := by
  simp [State.activateFails]

@[simp] theorem State.activateEnd_fixed (s : State) (c : Cmd) (bad : Bool) : (s.activateEnd c bad).fixed = s.fixed := by
  simp [State.activateEnd]

@[simp] theorem State.fwPartDone_fixed (s : State) (id p : Nat) (bad : Bool) : (s.fwPartDone id p bad).fixed = s.fixed := by
  unfold State.fwPartDone
  split <;> simp

@[simp] theorem State.activateParts_fixed (s : State) (c : Cmd) (failed : List Nat) :
    (s.activateParts c failed).fixed = s.fixed := by
  simp [State.activateParts]

@[simp] theorem State.activateNbEnd_fixed (s : State) (c : Cmd) (bad good : Nat) :
    (s.activateNbEnd c bad good).fixed = s.fixed := by
  simp [State.activateNbEnd]

@[simp] theorem State.activateNext_fixed (s : State) (c : Cmd) (from_ bad good : Nat) :
    (s.activateNext c from_ bad good).fixed = s.fixed := by
  unfold State.activateNext
  split <;> simp

@[simp] theorem State.activatePorts_fixed (s : State) : (s.activatePorts).fixed = s.fixed := by simp [State.activatePorts]

@[simp] theorem fwActivate_fixed (s : State) (c : Cmd) (failed : List Nat) : (fwActivate s c failed).fixed = s.fixed := by
  unfold fwActivate
  dsimp only
  (repeat' split) <;> simp

@[simp] theorem State.nbResumes_fixed (s : State) (st : Nat) : (s.nbResumes st).fixed = s.fixed := by simp [State.nbResumes]

@[simp] theorem nbFwResume_fixed (st : Nat) (passed : Bool) (s : State) : (nbFwResume st passed s).fixed = s.fixed := by
  unfold nbFwResume
  split <;> simp

/-! ### Security -/

@[simp] theorem State.queueAttest_fixed (s : State) (a : AttReq) : (s.queueAttest a).fixed = s.fixed := by
  simp [State.queueAttest]

@[simp] theorem State.signingEnd_fixed (s : State) : (s.signingEnd).fixed = s.fixed := by unfold State.signingEnd; split <;> simp

@[simp] theorem State.signingBegin_fixed (s : State) : (s.signingBegin).fixed = s.fixed := by
  unfold State.signingBegin
  split <;> simp

@[simp] theorem attest_fixed (s : State) (c : Cmd) : (attest s c).fixed = s.fixed := by simp [attest]

@[simp] theorem debugUnlock_fixed (s : State) (c : Cmd) : (debugUnlock s c).fixed = s.fixed := by
  unfold debugUnlock
  (repeat' split) <;> simp

/-! ### Board -/

@[simp] theorem State.reply_fixed (s : State) (code tag status : Nat) (payload : List Byte) :
    (s.reply code tag status payload).fixed = s.fixed := by
  simp [State.reply]

@[simp] theorem State.readReg_fixed (s : State) (off : Nat) : (s.readReg off).2.fixed = s.fixed := by simp [State.readReg]
@[simp] theorem State.boardWake_fixed (s : State) : (s.boardWake).1.fixed = s.fixed := by simp [State.boardWake]

@[simp] theorem State.chunk_fixed (s : State) (code component cflags off : Nat) (data : List Byte) :
    (s.chunk code component cflags off data).1.fixed = s.fixed := by
  unfold State.chunk
  dsimp only
  split <;> simp

@[simp] theorem State.boardStage_fixed (s : State) (comp : Nat) (bs : List Byte) : (s.boardStage comp bs).1.fixed = s.fixed := by
  simp [State.boardStage]

@[simp] theorem State.enrol_fixed (s : State) (key : List Byte) : (s.enrol key).fixed = s.fixed := by simp [State.enrol]

@[simp] theorem State.enrolment_fixed (s : State) (bs : List Byte) : (s.enrolment bs).1.fixed = s.fixed := by
  simp [State.enrolment]

@[simp] theorem State.domainWrite_fixed (s : State) (moduleId domain first : Nat) (routes : List Nat) :
    (s.domainWrite moduleId domain first routes).1.fixed = s.fixed := by
  simp [State.domainWrite]

@[simp] theorem mctpControl_fixed (bytes : List Byte) (s : State) : (mctpControl bytes s).fixed = s.fixed := by
  unfold mctpControl
  split <;> simp

/-! ### LiveService -/

@[simp] theorem State.retireLane_fixed (s : State) (n src : Nat) : (s.retireLane n src).fixed = s.fixed := by
  simp [State.retireLane]

@[simp] theorem State.retireLink_fixed (s : State) (n src : Nat) : (s.retireLink n src).fixed = s.fixed := by
  simp [State.retireLink]

@[simp] theorem State.retireNow_fixed (s : State) (kind number src : Nat) : (s.retireNow kind number src).fixed = s.fixed := by
  unfold State.retireNow
  split <;> simp

@[simp] theorem State.atDrain_fixed (s : State) (c : Cmd) (j : Job) : (s.atDrain c j).fixed = s.fixed := by simp [State.atDrain]
@[simp] theorem retireUnit_fixed (s : State) (c : Cmd) : (retireUnit s c).fixed = s.fixed := by simp [retireUnit]

@[simp] theorem State.testCores_fixed (s : State) (kind n : Nat) (fs : List Finding) :
    (s.testCores kind n fs).1.fixed = s.fixed := by
  unfold State.testCores
  split <;> simp

@[simp] theorem State.fieldTest_fixed (s : State) (kind n : Nat) (fs : List Finding) :
    (s.fieldTest kind n fs).1.fixed = s.fixed := by
  unfold State.fieldTest
  dsimp only
  split
  · simp
  · split_ifs <;> simp
  · split_ifs <;> simp
  · split_ifs <;> simp
  · split_ifs <;> simp
  · split
    · rfl
    · next h => simp [State.drainCluster_fixed h]
  · simp

@[simp] theorem State.testDone_fixed (s : State) (id kind n : Nat) (fs : List Finding) :
    (s.testDone id kind n fs).fixed = s.fixed := by
  simp [State.testDone]

@[simp] theorem fieldTestCmd_fixed (s : State) (c : Cmd) (fs : List Finding) : (fieldTestCmd s c fs).fixed = s.fixed := by
  simp [fieldTestCmd]

@[simp] theorem State.trainStack_fixed (s : State) (st outcome : Nat) : (s.trainStack st outcome).fixed = s.fixed := by
  unfold State.trainStack
  dsimp only
  (repeat' split) <;> simp

@[simp] theorem State.calibrateLane_fixed (s : State) (n : Nat) : (s.calibrateLane n).fixed = s.fixed := by
  simp [State.calibrateLane]

@[simp] theorem State.recalibrate_fixed (s : State) (kind n outcome : Nat) : (s.recalibrate kind n outcome).fixed = s.fixed := by
  unfold State.recalibrate
  (repeat' split) <;> simp

@[simp] theorem recalibrateCmd_fixed (s : State) (c : Cmd) (outcome : Nat) : (recalibrateCmd s c outcome).fixed = s.fixed := by
  simp [recalibrateCmd]

@[simp] theorem State.doJob_fixed (s : State) (p : Nat) (j : Job) : (s.doJob p j).fixed = s.fixed := by
  unfold State.doJob
  split <;> simp

@[simp] theorem drainPoint_fixed (lp : Nat) (s : State) : (drainPoint lp s).fixed = s.fixed := by
  unfold drainPoint
  split <;> simp

/-! ### Pair -/

@[simp] theorem State.pairPorts_fixed (s : State) : (s.pairPorts).fixed = s.fixed := by simp [State.pairPorts]
@[simp] theorem pairJoin_fixed (s : State) (c : Cmd) (r : PartnerReport) : (pairJoin s c r).fixed = s.fixed := by simp [pairJoin]
@[simp] theorem pairSync_fixed (s : State) (c : Cmd) (acked : Bool) : (pairSync s c acked).fixed = s.fixed := by simp [pairSync]
@[simp] theorem State.pairEnd_fixed (s : State) : (s.pairEnd).fixed = s.fixed := by simp [State.pairEnd]

@[simp] theorem State.mirrorWrite_fixed (s : State) (w : Nat × Nat × Nat × List Byte) : (s.mirrorWrite w).fixed = s.fixed := by
  simp [State.mirrorWrite]

@[simp] theorem State.mirrorTable_fixed (s : State) (t : Nat × Nat × W64) : (s.mirrorTable t).fixed = s.fixed := by
  unfold State.mirrorTable
  dsimp only
  (repeat' split) <;> simp

@[simp] theorem State.applyMirror_fixed (s : State) (m : MirrorStep) : (s.applyMirror m).fixed = s.fixed := by
  unfold State.applyMirror
  split <;> simp

@[simp] theorem State.applyNext_fixed (n : Nat) (s : State) : (State.applyNext n s).fixed = s.fixed := by
  induction n generalizing s with
  | zero => rfl
  | succ n ih =>
    unfold State.applyNext
    split
    · exact (ih _).trans ((State.applyMirror_fixed _ _).trans rfl)
    · rfl

@[simp] theorem mirrorStepReceived_fixed (m : MirrorStep) (s : State) : (mirrorStepReceived m s).fixed = s.fixed := by
  simp [mirrorStepReceived]

@[simp] theorem pairTakeover_fixed (s : State) (c : Cmd) : (pairTakeover s c).fixed = s.fixed := by simp [pairTakeover]
@[simp] theorem pairLinkLoss_fixed (s : State) : (pairLinkLoss s).fixed = s.fixed := by simp [pairLinkLoss]

/-! ### ThreadGroup -/

@[simp] theorem State.clusterBarrier_fixed (s : State) (c n : Nat) : (s.clusterBarrier c n).fixed = s.fixed := by
  simp [State.clusterBarrier]

@[simp] theorem State.judge_fixed (s : State) (c : Nat) : (s.judge c).fixed = s.fixed := by simp [State.judge]

@[simp] theorem blockLaunch_fixed (c : Nat) (s : State) : (blockLaunch c s).fixed = s.fixed := by
  unfold blockLaunch
  dsimp only
  split <;> simp

theorem lockTryLane_keeps (c i dst : Nat) (s : State) (lane addr : Nat) : (lockTryLane c i dst s lane addr).Keeps s := by
  unfold lockTryLane
  split
  · simp
  · split
    · trivial
    · next l _ _ =>
      have hl := s.load_keeps c addr 4 l tDataEcc 0
      cases h : s.load c addr 4 l tDataEcc 0 with
      | ok bs t =>
        rw [h] at hl
        replace hl := (MemAns.keeps_ok ..).1 hl
        dsimp only
        split
        · have hs := (t.store_keeps c l (leBytes 4 (t.token c i lane).toNat) 0).trans hl
          cases h : t.store c l (leBytes 4 (t.token c i lane).toNat) 0 with
          | ok b u => rw [h] at hs; simpa using hs
          | _ => rw [h] at hs; exact hs
        · simp [hl]
      | _ => rw [h] at hl; exact hl

theorem lockRelLane_keeps (c i : Nat) (s : State) (lane addr : Nat) : (lockRelLane c i s lane addr).Keeps s := by
  unfold lockRelLane
  split
  · simp
  · split
    · trivial
    · next l _ _ =>
      have hl := s.load_keeps c addr 4 l tDataEcc 0
      cases h : s.load c addr 4 l tDataEcc 0 with
      | ok bs t =>
        rw [h] at hl
        replace hl := (MemAns.keeps_ok ..).1 hl
        dsimp only
        split
        · have hs := (t.store_keeps c l [0, 0, 0, 0] 0).trans hl
          cases h : t.store c l [0, 0, 0, 0] 0 with
          | ok b u => rw [h] at hs; simpa using hs
          | _ => rw [h] at hs; exact hs
        · simp [hl]
      | _ => rw [h] at hl; exact hl

end Sys2Proof.Machine
end

section
namespace Sys2Proof.Machine
open Sys2Proof

/-! SUPPORT. The answer of a command whose state keeps the fixed part, for each of the ways the commands are written. -/

/-- A command of units that exist answers a next state that keeps the fixed part of s; one of a unit that does not exist is the
model's fault (log entry 1). -/
def Answers (ok : Bool) (s : State) (o : Out) : Prop :=
  if ok then ∃ t, o = .next t ∧ t.fixed = s.fixed else o = .fault .noSuchUnit

theorem answers_onUnit {ok : Bool} {s t : State} (h : t.fixed = s.fixed) : Answers ok s (onUnit ok t) := by
  cases ok with
  | true => exact ⟨t, rfl, h⟩
  | false => rfl

theorem answers_next {s t : State} (h : t.fixed = s.fixed) : Answers true s (.next t) := ⟨t, rfl, h⟩

theorem answers_onCmd {s : State} {id op : Nat} {eff : Cmd → State} (h : ∀ c, (eff c).fixed = s.fixed) : Answers true s (onCmd id op s eff) := by
  refine answers_next ?_
  split
  · exact h _
  · rfl

theorem answers_board {s : State} {code tag : Nat} {eff : State → State × Nat × List Byte} (h : ∀ t, (eff t).1.fixed = t.fixed) :
    Answers true s (board code tag s eff) := by
  refine answers_next ?_
  simp [h]

theorem answers_issueScalar {who : Agent} {legal : Bool} {pred : BitVec 3} {pneg : Bool} {eff : Nat → State → State} {s : State}
    (h : ∀ c t, (eff c t).fixed = t.fixed) : Answers who.wf s (issueScalar who legal pred pneg eff s) := by
  cases who with
  | core c => exact answers_onUnit (issueCore_fixed _ _ _ _ _ _ (h c))
  | group c i => exact answers_onUnit (issueGroup_fixed _ _ _ _ _ _ _ _ fun _ _ _ e => by cases e; rfl)

theorem answers_issueThread {who : Agent} {legal : Bool} {pred : BitVec 3} {pneg clears : Bool} {srcs : List Nat}
    {eff : Nat → Nat → State → List Nat → Except (Option Nat) State} {s : State}
    (h : ∀ c i t l u, eff c i t l = .ok u → u.fixed = t.fixed) : Answers who.wf s (issueThread who legal pred pneg clears srcs eff s) := by
  cases who with
  | core c => exact answers_onUnit (issueCore_fixed _ _ _ _ _ _ fun _ => rfl)
  | group c i => exact answers_onUnit (issueGroup_fixed _ _ _ _ _ _ _ _ (h c i))

theorem answers_issueRegs (who : Agent) (legal : Bool) (pred : BitVec 3) (pneg : Bool) (ps srcs : List Nat) (onCore : Core → Core)
    (onThread : Thread → Thread) (s : State) : Answers who.wf s (issueRegs who legal pred pneg ps srcs onCore onThread s) := by
  cases who with
  | core c => exact answers_onUnit (by simp)
  | group c i => exact answers_onUnit (issueGroup_fixed _ _ _ _ _ _ _ _ fun _ _ _ e => threadRegs_fixed e)

theorem answers_issueJump (who : Agent) (legal : Bool) (pred : BitVec 3) (pneg : Bool) (onCore : Core → Core)
    (onThread : Thread → Thread) (s : State) : Answers who.wf s (issueJump who legal pred pneg onCore onThread s) := by
  cases who with
  | core c => exact answers_onUnit (by simp)
  | group c i => exact answers_onUnit (issueGroup_fixed _ _ _ _ _ _ _ _ fun _ _ _ e => threadJump_fixed e)

theorem answers_csrUpdate (who : Agent) (f : FormB) (op : W64 → W64 → W64) (s : State) : Answers who.wf s (csrUpdate who f op s) :=
  answers_issueScalar fun c t => by simp

theorem answers_fence (who : Agent) (f : FormA) (code : BitVec 8) (stores inv queues : Bool) (s : State) :
    Answers who.wf s (fence who f code stores inv queues s) := by
  cases who with
  | core c => exact answers_onUnit (by simp)
  | group c i =>
    refine answers_onUnit (issueGroup_fixed _ _ _ _ _ _ _ _ fun t l u e => ?_)
    split at e
    · refine (threadRegs_fixed e).trans ?_
      simp
    · cases e

theorem answers_hint {who : Agent} {f : FormA} {dst : Bool} {eff : Nat → Nat → Nat → State → State} {s : State}
    (h : ∀ c a n t, (eff c a n t).fixed = t.fixed) : Answers who.wf s (hint who f dst eff s) :=
  answers_issueScalar fun c t => by simp [h]

theorem answers_vecOp (who : Agent) (f : FormA) (b3 c3 legal : Bool) (flops : Nat) (trans : Bool) (op : LaneOp) (s : State) :
    Answers who.wf s (vecOp who f b3 c3 legal flops trans op s) := by
  cases who with
  | core c => exact answers_onUnit (by simp)
  | group c i =>
    refine answers_onUnit (issueGroup_fixed _ _ _ _ _ _ _ _ fun t l u e => ?_)
    refine (threadRegs_fixed e).trans ?_
    simp

theorem answers_accIssue (who : Agent) (legal : Bool) (f : FormA) (kind : Nat) (reads : List Nat) (rngN : Nat) (s : State) :
    Answers who.wf s (accIssue who legal f kind reads rngN s) := by
  refine answers_issueScalar fun c s0 => State.whenFree_fixed _ _ _ _ _ fun s1 => ?_
  extract_lets k m o queued
  have hq : queued.fixed = s1.fixed := by simp [queued]
  have hm := m.run_keeps s1 c k.seq
  clear_value queued
  split
  · split
    · exact hq
    · next e => rw [e] at hm; simpa using hm
    · next e => rw [e] at hm; simpa using hm
  · split
    · simp
    · exact hq

theorem answers_streamStep {c slot op : Nat} {s : State} {eff : Slot → Start → StreamProg → W64 → State}
    (h : ∀ x st p w, (eff x st p w).fixed = s.fixed) : Answers (Unit.core c && Unit.slot slot) s (streamStep c slot op s eff) := by
  refine answers_onUnit ?_
  dsimp only
  split
  · rfl
  · split
    · rfl
    · split
      · rfl
      · simp [h]

theorem answers_resolve {who : Agent} {f : FormA} {act : State → Nat → State} {s : State} (h : ∀ t g, (act t g).fixed = t.fixed) :
    Answers who.wf s (resolve who f act s) :=
  answers_issueScalar fun c t => by simp [h]
end Sys2Proof.Machine
end

section
namespace Sys2Proof.Machine
open Sys2Proof

/-! SUPPORT. The commands whose effect turns on the answer of a memory access, or that thread code issues in a way of its own. -/

/-- Rows read for a transposing move keep the fixed part, also where a read of them stops. -/
def RowsKeep (s : State) : Except (Nat × MemAns) (List (List Byte) × State) → Prop
  | .ok x => x.2.fixed = s.fixed
  | .error e => e.2.Keeps s

theorem State.readRows_keeps (s : State) (c slot n : Nat) (st : Start) (cls : Nat) (addrs : List Nat) :
    RowsKeep s (s.readRows c slot n st cls addrs) :=
  List.foldlRecOn _ _ rfl fun acc hacc a _ => by
    cases acc with
    | error e => exact hacc
    | ok x =>
      obtain ⟨rows, t⟩ := x
      dsimp only
      split
      · exact hacc
      · have hg := (t.gatherBytes_keeps c slot a n cls).trans hacc
        cases h : t.gatherBytes c slot a n cls <;> (rw [h] at hg; exact hg)

theorem laneEnd_fixed {s t : State} {c pc : Nat} {r : LaneAns} (hr : r.Keeps s) (ht : laneEnd c pc r = .ok t) : t.fixed = s.fixed := by
  cases r with
  | ok u => cases ht; exact hr
  | trap a b d u => cases ht; simpa using hr
  | wait w => cases ht

theorem chPinLine_fixed (c cls : Nat) (home : Bool) (acc : PinAcc) (ln : Nat) : (chPinLine c cls home acc ln).1.fixed = acc.1.fixed := by
  obtain ⟨s, stopped⟩ := acc
  unfold chPinLine
  dsimp only
  split
  · rfl
  · split
    · simp
    · split
      · simp
      · split
        · simp
        · split
          · simp
          · split <;> next e =>
              have h := congrArg (·.1.fixed) e
              simpa using h.symm

theorem execCsrR_answers (who : Agent) (f : FormB) (s : State) : Answers who.wf s (execCsrR who f s) := by
  cases who with
  | core c => exact answers_onUnit (by simp)
  | group c i =>
    refine answers_onUnit (issueGroup_fixed _ _ _ _ _ _ _ _ fun t l u e => ?_)
    split at e
    · cases e; simp
    · exact (threadRegs_fixed e).trans (by simp)

theorem execRet_answers (who : Agent) (f : FormA) (s : State) : Answers who.wf s (execRet who f s) := by
  cases who with
  | core c => exact answers_onUnit (by simp)
  | group c i =>
    refine answers_onUnit (issueGroup_fixed _ _ _ _ _ _ _ _ fun t l u e => ?_)
    dsimp only at e
    split at e
    · cases e; simp
    · exact threadJump_fixed e

theorem execTdLd_answers (who : Agent) (f : FormB) (s : State) : Answers who.wf s (execTdLd who f s) := by
  cases who with
  | core c =>
    refine answers_onUnit (issueCore_fixed _ _ _ _ _ _ fun t => ?_)
    split <;> simp
  | group c i =>
    refine answers_onUnit (issueGroup_fixed _ _ _ _ _ _ _ _ fun t l u e => ?_)
    split at e
    · cases e; simp
    · exact threadRegs_fixed e

theorem execLd_answers (who : Agent) (f : FormB) (s : State) : Answers who.wf s (execLd who f s) := by
  cases who with
  | core c =>
    refine answers_onUnit (issueCore_fixed _ _ _ _ _ _ fun t => ?_)
    dsimp only
    split
    · simp
    · next l _ =>
      have hl := t.load_keeps c (addrB ((t.core c).sreg f.src1.toNat) f) (sizeB f) l tDataEcc (t.core c).loadClass
      split
      · simp
      · next e => rw [e] at hl; simpa using hl
      · next e => rw [e] at hl; simpa using hl
  | group c i =>
    exact answers_onUnit (issueGroup_fixed _ _ _ _ _ _ _ _ fun t l u e =>
      lanesAccess_fixed (fun t l a => laneLoad_keeps t c i l a _ f) e)

theorem execSt_answers (who : Agent) (f : FormB) (s : State) : Answers who.wf s (execSt who f s) := by
  cases who with
  | core c =>
    refine answers_onUnit (issueCore_fixed _ _ _ _ _ _ fun t => ?_)
    dsimp only
    split
    · simp
    · next l _ =>
      have hl := t.store_keeps c l (leBytes (sizeB f) ((t.core c).sreg f.dst.toNat).toNat) (t.core c).storeClass
      split
      · simp
      · next e => rw [e] at hl; simpa using hl
      · next e => rw [e] at hl; simpa using hl
  | group c i =>
    exact answers_onUnit (issueGroup_fixed _ _ _ _ _ _ _ _ fun t l u e =>
      lanesAccess_fixed (fun t l a => laneStore_keeps t c i l a _ f) e)

theorem execVmov_answers (who : Agent) (f : FormA) (s : State) : Answers who.wf s (execVmov who f s) := by
  unfold execVmov
  extract_lets legal
  cases who with
  | core c =>
    dsimp only
    exact answers_vecOp (.core c) f false false legal 0 false _ s
  | group c i =>
    dsimp only
    exact answers_vecOp (.group c i) f false false legal 0 false _ s

theorem execVld_answers (who : Agent) (f : FormB) (s : State) : Answers who.wf s (execVld who f s) := by
  refine answers_issueScalar fun c s0 => State.whenFree_fixed _ _ _ _ _ fun s1 => ?_
  dsimp only
  split
  · simp
  · next l _ =>
    have hl := s1.load_keeps c (addrB ((s1.core c).sreg f.src1.toNat) f) (4 * (f.func.toNat + 1)) l tDataEcc (s1.core c).loadClass
    split
    · next e => rw [e] at hl; simpa using hl
    · exact State.vecStops_fixed _ _ _ hl

theorem execVst_answers (who : Agent) (f : FormB) (s : State) : Answers who.wf s (execVst who f s) := by
  refine answers_issueScalar fun c s0 => State.whenFree_fixed _ _ _ _ _ fun s1 => ?_
  dsimp only
  split
  · simp
  · next l _ =>
    have hl := s1.store_keeps c l (leBytes (4 * (f.func.toNat + 1)) ((s1.core c).vreg f.dst.toNat).toNat) (s1.core c).storeClass
    split
    · next e => rw [e] at hl; simpa using hl
    · exact State.vecStops_fixed _ _ _ hl

theorem execVlds_answers (who : Agent) (f : FormA) (s : State) : Answers who.wf s (execVlds who f s) :=
  answers_issueScalar fun c _ => State.whenFree_fixed _ _ _ _ _ fun _ =>
    vecStrided_fixed _ _ _ fun t l a => vldsLane_keeps c f.dst.toNat t l a

theorem execVsts_answers (who : Agent) (f : FormA) (s : State) : Answers who.wf s (execVsts who f s) :=
  answers_issueScalar fun c _ => State.whenFree_fixed _ _ _ _ _ fun _ =>
    vecStrided_fixed _ _ _ fun t l a => vstsLane_keeps c _ _ t l a

theorem execCvtEnc_answers (who : Agent) (f : FormA) (s : State) : Answers who.wf s (execCvtEnc who f s) := by
  refine answers_issueScalar fun c s0 => State.whenFree_fixed _ _ _ _ _ fun s1 => ?_
  extract_lets k addr v xs u bs
  split
  · simp
  · next l _ =>
    have hl := s1.store_keeps c l bs k.storeClass
    split
    · next e => rw [e] at hl; simpa using hl
    · exact State.vecStops_fixed _ _ _ hl

theorem execCvtDec_answers (who : Agent) (f : FormA) (s : State) : Answers who.wf s (execCvtDec who f s) := by
  refine answers_issueScalar fun c s0 => State.whenFree_fixed _ _ _ _ _ fun s1 => ?_
  extract_lets k base e per n off addr
  split
  · simp
  · split
    · simp
    · split
      · simp
      · split
        · simp
        · next l _ =>
          have hl := s1.load_keeps c addr n l tUnit k.loadClass
          split
          · next h => rw [h] at hl; simpa using hl
          · exact State.vecStops_fixed _ _ _ hl

theorem execTgExit_answers (who : Agent) (f : FormA) (s : State) : Answers who.wf s (execTgExit who f s) := by
  refine answers_issueThread fun c i t l u e => ?_
  dsimp only at e
  split at e
  · cases e
  · rw [← Except.ok.inj e]; simp

theorem execTgBar_answers (who : Agent) (f : FormA) (s : State) : Answers who.wf s (execTgBar who f s) := by
  refine answers_issueThread fun c i t l u e => ?_
  dsimp only at e
  split at e
  · rw [← Except.ok.inj e]; simp
  · split at e
    · cases e
    · rw [← Except.ok.inj e]; simp

theorem execLockTry_answers (who : Agent) (f : FormA) (s : State) : Answers who.wf s (execLockTry who f s) :=
  answers_issueThread fun c i t _ _ e => laneEnd_fixed (laneFold_keeps t _ fun t l a => lockTryLane_keeps c i _ t l a) e

theorem execLockRel_answers (who : Agent) (f : FormA) (s : State) : Answers who.wf s (execLockRel who f s) := by
  refine answers_issueThread fun c i t l u e => ?_
  dsimp only at e
  split at e
  · cases e
  · exact laneEnd_fixed (laneFold_keeps t _ fun t l a => lockRelLane_keeps c i t l a) e

theorem execYield_answers (who : Agent) (f : FormA) (s : State) : Answers who.wf s (execYield who f s) :=
  answers_issueThread fun _ _ _ _ _ e => by rw [← Except.ok.inj e]; simp

theorem execTgVote_answers (who : Agent) (f : FormA) (s : State) : Answers who.wf s (execTgVote who f s) :=
  answers_issueThread fun _ _ _ _ _ e => threadRegs_fixed e

theorem execStreamStartBegin_answers (c slot : Nat) (s0 : State) :
    Answers (Unit.core c && Unit.slot slot) s0 (execStreamStartBegin c slot s0) := by
  refine answers_onUnit ?_
  extract_lets s k x
  have hs : s.fixed = s0.fixed := by simp [s]
  clear_value s
  split
  · exact hs
  · split
    · exact hs
    · split
      · simp [hs]
      · split <;> simp [hs]

theorem execStreamStartEnd_answers (c slot : Nat) (s0 : State) :
    Answers (Unit.core c && Unit.slot slot) s0 (execStreamStartEnd c slot s0) := by
  refine answers_onUnit ?_
  extract_lets s k x
  have hs : s.fixed = s0.fixed := by simp [s]
  clear_value s
  split <;> simp [hs]

theorem execStreamXmove_answers (c slot : Nat) (s : State) :
    Answers (Unit.core c && Unit.slot slot) s (execStreamXmove c slot s) := by
  refine answers_streamStep fun x st p w => ?_
  extract_lets fmt e n base stride out addrs al
  split
  · simp
  · split
    · simp
    · split
      · simp
      · next l _ =>
        have hr := s.readRows_keeps c slot n st (fld w 41 3) addrs
        split
        · next h => rw [h] at hr; exact State.slotFault_fixed _ _ _ _ hr
        · next rows s1 h =>
          rw [h] at hr
          have hw := (s1.slotWrite_keeps c slot out.toNat (fld w 41 3) l (transposeTile fmt rows).flatten).trans hr
          split
          · next g =>
            rw [g] at hw
            replace hw := (MemAns.keeps_ok ..).1 hw
            split <;> simp [hw]
          · exact State.slotFault_fixed _ _ _ _ hw

theorem execChPin_answers (who : Agent) (f : FormA) (s : State) : Answers who.wf s (execChPin who f s) := by
  refine answers_hint fun c a n t => State.whenFree_fixed _ _ _ _ _ fun s1 => ?_
  dsimp only
  split
  · simp
  · split
    · simp
    · simp [foldl_fst_fixed _ (chPinLine_fixed c (hintClass f) (hintHome f))]

theorem execRegisterWrite_answers (by_ : Requester) (off size : Nat) (v : W64) (s : State) :
    Answers by_.wf s (execRegisterWrite by_ off size v s) := by
  cases by_ with
  | host f => exact answers_onUnit (by simp)
  | _ => exact answers_next (by simp)

theorem execClearTrip_answers (cmd : Nat) (s : State) : Answers true s (execClearTrip cmd s) := by
  refine answers_onCmd fun c => State.checked_fixed _ _ _ ?_
  split
  · next h => simp [State.tripCleared_fixed h]
  · simp

theorem execBmcClearTrip_answers (tag : Nat) (s : State) : Answers true s (execBmcClearTrip tag s) := by
  refine answers_board fun t => ?_
  split
  · next h => exact State.tripCleared_fixed h
  · rfl
end Sys2Proof.Machine
end

section
namespace Sys2Proof.Machine
open Sys2Proof

/-! SUPPORT. The other commands: each answers, as `Answers` says. Grouped by the files that define them. -/

/-! ### Csr -/

theorem execCsrW_answers (who : Agent) (f : FormB) (s : State) : Answers who.wf s (execCsrW who f s) :=
  answers_csrUpdate ..

theorem execCsrS_answers (who : Agent) (f : FormB) (s : State) : Answers who.wf s (execCsrS who f s) :=
  answers_csrUpdate ..

theorem execCsrC_answers (who : Agent) (f : FormB) (s : State) : Answers who.wf s (execCsrC who f s) :=
  answers_csrUpdate ..

theorem execFenceStore_answers (who : Agent) (f : FormA) (s : State) : Answers who.wf s (execFenceStore who f s) :=
  answers_fence ..

theorem execFenceInv_answers (who : Agent) (f : FormA) (s : State) : Answers who.wf s (execFenceInv who f s) :=
  answers_fence ..

theorem execFenceAll_answers (who : Agent) (f : FormA) (s : State) : Answers who.wf s (execFenceAll who f s) :=
  answers_fence ..

/-! ### BayEvents -/

theorem execCoreWatchdogExpiry_answers (c : Nat) (s : State) : Answers (Unit.core c) s (execCoreWatchdogExpiry c s) :=
  answers_onUnit (by simp)

theorem execGroupProgressExpiry_answers (c slot : Nat) (s : State) :
    Answers (Unit.core c && Unit.slot slot) s (execGroupProgressExpiry c slot s) :=
  answers_onUnit (by simp)

theorem execClusterClockGate_answers (cluster : Nat) (s : State) :
    Answers (Unit.cluster cluster) s (execClusterClockGate cluster s) :=
  answers_onUnit (by simp)

theorem execBayReadRequest_answers (bay line cls : Nat) (w : Waiter) (s : State) :
    Answers (Unit.cluster bay && w.wf) s (execBayReadRequest bay line cls w s) :=
  answers_onUnit (by simp)

theorem execBayFillReturn_answers (bay line : Nat) (s : State) :
    Answers (Unit.cluster bay) s (execBayFillReturn bay line s) :=
  answers_onUnit (by simp)

theorem execHomeBayWrite_answers (w : Writer) (s : State) : Answers w.wf s (execHomeBayWrite w s) :=
  answers_onUnit (by simp)

theorem execInvalidationArrival_answers (bay line : Nat) (s : State) :
    Answers (Unit.cluster bay) s (execInvalidationArrival bay line s) := by
  refine answers_onUnit ?_
  dsimp only
  split <;> simp

theorem execInvalidationAcksComplete_answers (bay line : Nat) (s : State) :
    Answers (Unit.cluster bay) s (execInvalidationAcksComplete bay line s) := by
  refine answers_onUnit ?_
  dsimp only
  split <;> simp

theorem execResponseArrival_answers (i : Nat) (s : State) : Answers true s (execResponseArrival i s) := by
  refine answers_next ?_
  repeat' split
  all_goals simp

theorem execResponseTimeout_answers (i : Nat) (s : State) : Answers true s (execResponseTimeout i s) := by
  refine answers_next ?_
  dsimp only
  repeat' split
  all_goals simp

theorem execBayPatrol_answers (bay corrected : Nat) (bad : List Nat) (s : State) :
    Answers (Unit.cluster bay) s (execBayPatrol bay corrected bad s) :=
  answers_onUnit (by simp)

theorem execCoreArrayPatrol_answers (c corrected : Nat) (bad : List Nat) (s : State) :
    Answers (Unit.core c) s (execCoreArrayPatrol c corrected bad s) :=
  answers_onUnit (by simp)

/-! ### HbmEvents -/

theorem execHbmSectorRead_answers (sector : Nat) (flips : List (Nat × Byte)) (s : State) :
    Answers true s (execHbmSectorRead sector flips s) :=
  answers_next (by simp)

theorem execHbmSectorWrite_answers (sector start : Nat) (bytes : List Byte) (s : State) :
    Answers true s (execHbmSectorWrite sector start bytes s) :=
  answers_next (by simp)

theorem execHbmRefreshDue_answers (stack channel pc bank : Nat) (busy : Bool) (s : State) :
    Answers (Unit.stack stack && Unit.channel channel && decide (pc < 2)) s (execHbmRefreshDue stack channel pc bank busy s) :=
  answers_onUnit (by simp)

theorem execHbmOdeccPoll_answers (stack : Nat) (counts : List Nat) (s : State) :
    Answers (Unit.stack stack) s (execHbmOdeccPoll stack counts s) :=
  answers_onUnit (by simp)

/-! ### Hints -/

theorem execChPf_answers (who : Agent) (f : FormA) (s : State) : Answers who.wf s (execChPf who f s) :=
  answers_hint fun c a n t => by simp

theorem execChUnpin_answers (who : Agent) (f : FormA) (s : State) : Answers who.wf s (execChUnpin who f s) :=
  answers_hint fun c a n t => by simp

theorem execChDead_answers (who : Agent) (f : FormA) (s : State) : Answers who.wf s (execChDead who f s) := by
  refine answers_hint fun c a n t => ?_
  split <;> simp

/-! ### Letterbox -/

theorem execSqEntryTaken_answers (f : Nat) (s : State) : Answers (Unit.fn f) s (execSqEntryTaken f s) := by
  refine answers_onUnit ?_
  dsimp only
  repeat' split
  all_goals simp

theorem execSqFetchFailure_answers (f : Nat) (s : State) : Answers (Unit.fn f) s (execSqFetchFailure f s) :=
  answers_onUnit (by simp)

theorem execCoalesceTimeout_answers (f : Nat) (s : State) : Answers (Unit.fn f) s (execCoalesceTimeout f s) :=
  answers_onUnit (by simp)

theorem execProgressCompletion_answers (cmd : Nat) (s : State) : Answers true s (execProgressCompletion cmd s) := by
  refine answers_next ?_
  split <;> simp

theorem execMsixVectorUnmask_answers (f v : Nat) (s : State) : Answers (Unit.fn f) s (execMsixVectorUnmask f v s) :=
  answers_onUnit (by simp)

theorem execRegionAttrWrite_answers (by_ f i : Nat) (v : W64) (s : State) :
    Answers (Unit.fn by_ && Unit.fn f && Unit.region i) s (execRegionAttrWrite by_ f i v s) :=
  answers_onUnit (by simp)

theorem execRegionAllocationEnd_answers (f i : Nat) (s : State) :
    Answers (Unit.fn f && Unit.region i) s (execRegionAllocationEnd f i s) := by
  refine answers_onUnit ?_
  dsimp only
  repeat' split
  all_goals simp

theorem execRegionReleaseEnd_answers (f i : Nat) (s : State) :
    Answers (Unit.fn f && Unit.region i) s (execRegionReleaseEnd f i s) :=
  answers_onUnit (by simp)

theorem execAllocationCancelEnd_answers (f i : Nat) (s : State) :
    Answers (Unit.fn f && Unit.region i) s (execAllocationCancelEnd f i s) :=
  answers_onUnit (by simp)

theorem execLbEnable_answers (f : Nat) (s : State) : Answers (Unit.fn f) s (execLbEnable f s) :=
  answers_onUnit (by simp)

theorem execLbDisable_answers (f : Nat) (s : State) : Answers (Unit.fn f) s (execLbDisable f s) :=
  answers_onUnit (by simp)

theorem execDoorbellSqTail_answers (f : Nat) (v : W32) (s : State) : Answers (Unit.fn f) s (execDoorbellSqTail f v s) :=
  answers_onUnit (by simp)

theorem execDoorbellCqHead_answers (f : Nat) (v : W32) (s : State) : Answers (Unit.fn f) s (execDoorbellCqHead f v s) :=
  answers_onUnit (by simp)

theorem execLbStatusErrorClear_answers (f : Nat) (v : W64) (s : State) :
    Answers (Unit.fn f) s (execLbStatusErrorClear f v s) :=
  answers_onUnit (by simp)

theorem execApertureRead_answers (f x n : Nat) (s : State) : Answers (Unit.fn f) s (execApertureRead f x n s) :=
  answers_onUnit (by simp)

theorem execApertureWrite_answers (f x : Nat) (bytes : List Byte) (s : State) :
    Answers (Unit.fn f) s (execApertureWrite f x bytes s) :=
  answers_onUnit (by simp)

/-! ### Vector -/

theorem execVadd_answers (who : Agent) (f : FormA) (s : State) : Answers who.wf s (execVadd who f s) :=
  answers_vecOp ..

theorem execVsub_answers (who : Agent) (f : FormA) (s : State) : Answers who.wf s (execVsub who f s) :=
  answers_vecOp ..

theorem execVmul_answers (who : Agent) (f : FormA) (s : State) : Answers who.wf s (execVmul who f s) :=
  answers_vecOp ..

theorem execVfma_answers (who : Agent) (f : FormA) (s : State) : Answers who.wf s (execVfma who f s) :=
  answers_vecOp ..

theorem execVmin_answers (who : Agent) (f : FormA) (s : State) : Answers who.wf s (execVmin who f s) :=
  answers_vecOp ..

theorem execVmax_answers (who : Agent) (f : FormA) (s : State) : Answers who.wf s (execVmax who f s) :=
  answers_vecOp ..

theorem execVun_answers (who : Agent) (f : FormA) (s : State) : Answers who.wf s (execVun who f s) :=
  answers_vecOp ..

theorem execVcmp_answers (who : Agent) (f : FormA) (s : State) : Answers who.wf s (execVcmp who f s) :=
  answers_vecOp ..

theorem execVsel_answers (who : Agent) (f : FormA) (s : State) : Answers who.wf s (execVsel who f s) :=
  answers_vecOp ..

theorem execVbit_answers (who : Agent) (f : FormA) (s : State) : Answers who.wf s (execVbit who f s) :=
  answers_vecOp ..

theorem execVperm_answers (who : Agent) (f : FormA) (s : State) : Answers who.wf s (execVperm who f s) :=
  answers_issueScalar fun c t => by simp

theorem execVget_answers (who : Agent) (f : FormA) (s : State) : Answers who.wf s (execVget who f s) :=
  answers_issueScalar fun c t => by simp

theorem execVredSum_answers (who : Agent) (f : FormA) (s : State) : Answers who.wf s (execVredSum who f s) :=
  answers_issueScalar fun c t => by simp

theorem execVredSeg_answers (who : Agent) (f : FormA) (s : State) : Answers who.wf s (execVredSeg who f s) :=
  answers_issueScalar fun c t => by simp

/-! ### Convert -/

theorem execCvt_answers (who : Agent) (f : FormA) (s : State) : Answers who.wf s (execCvt who f s) :=
  answers_issueScalar fun c t => by simp

/-! ### Matrix -/

theorem execMma_answers (who : Agent) (f : FormA) (s : State) : Answers who.wf s (execMma who f s) :=
  answers_issueScalar fun c t => by simp

theorem execMmaStepBegin_answers (c : Nat) (s : State) : Answers (Unit.core c) s (execMmaStepBegin c s) := by
  refine answers_onUnit ?_
  split <;> simp

theorem execAccSt_answers (who : Agent) (f : FormA) (s : State) : Answers who.wf s (execAccSt who f s) :=
  answers_accIssue ..

theorem execAccLd_answers (who : Agent) (f : FormA) (s : State) : Answers who.wf s (execAccLd who f s) :=
  answers_accIssue ..

theorem execAccRv_answers (who : Agent) (f : FormA) (s : State) : Answers who.wf s (execAccRv who f s) :=
  answers_accIssue ..

theorem execAccWv_answers (who : Agent) (f : FormA) (s : State) : Answers who.wf s (execAccWv who f s) :=
  answers_accIssue ..

/-! ### Stream -/

theorem execSsStart_answers (who : Agent) (f : FormA) (s : State) : Answers who.wf s (execSsStart who f s) :=
  answers_issueScalar fun c t => by simp

theorem execSsWait_answers (who : Agent) (f : FormA) (s : State) : Answers who.wf s (execSsWait who f s) :=
  answers_issueScalar fun c t => by simp

theorem execSsCancel_answers (who : Agent) (f : FormA) (s : State) : Answers who.wf s (execSsCancel who f s) :=
  answers_issueScalar fun c t => by simp

theorem execSsPoll_answers (who : Agent) (f : FormA) (s : State) : Answers who.wf s (execSsPoll who f s) :=
  answers_issueScalar fun c t => by simp

theorem execStreamLoop_answers (c slot : Nat) (s : State) :
    Answers (Unit.core c && Unit.slot slot) s (execStreamLoop c slot s) :=
  answers_streamStep fun x st p w => by simp

theorem execStreamEndl_answers (c slot : Nat) (s : State) :
    Answers (Unit.core c && Unit.slot slot) s (execStreamEndl c slot s) :=
  answers_streamStep fun x st p w => by simp

theorem execStreamAdda_answers (c slot : Nat) (s : State) :
    Answers (Unit.core c && Unit.slot slot) s (execStreamAdda c slot s) :=
  answers_streamStep fun x st p w => by simp

theorem execStreamMove_answers (c slot : Nat) (s : State) :
    Answers (Unit.core c && Unit.slot slot) s (execStreamMove c slot s) :=
  answers_streamStep fun x st p w => by simp

theorem execStreamEnd_answers (c slot : Nat) (s : State) :
    Answers (Unit.core c && Unit.slot slot) s (execStreamEnd c slot s) :=
  answers_streamStep fun x st p w => by simp

theorem execRowTransfer_answers (c slot : Nat) (s : State) :
    Answers (Unit.core c && Unit.slot slot) s (execRowTransfer c slot s) :=
  answers_onUnit (by simp)

/-! ### Message -/

theorem execMsgSend_answers (who : Agent) (f : FormA) (s : State) : Answers who.wf s (execMsgSend who f s) := by
  refine answers_issueScalar fun c t => ?_
  dsimp only
  split <;> simp

theorem execMsgRecv_answers (who : Agent) (f : FormA) (s : State) : Answers who.wf s (execMsgRecv who f s) := by
  refine answers_issueScalar fun c t => ?_
  dsimp only
  repeat' split
  all_goals simp

theorem execMsgPoll_answers (who : Agent) (f : FormA) (s : State) : Answers who.wf s (execMsgPoll who f s) :=
  answers_issueScalar fun c t => by simp

theorem execMsgInject_answers (c : Nat) (s : State) : Answers (Unit.core c) s (execMsgInject c s) :=
  answers_onUnit (by simp)

theorem execMsgArrival_answers (a : Arrival) (s : State) : Answers true s (execMsgArrival a s) :=
  answers_next (by simp)

/-! ### NearBank -/

theorem execKickTaken_answers (stack : Nat) (s : State) : Answers (Unit.stack stack) s (execKickTaken stack s) :=
  answers_onUnit (by simp)

theorem execNbStepBoundary_answers (stack channel : Nat) (flips : List (Nat × Nat × Byte)) (s : State) :
    Answers (Unit.stack stack && Unit.channel channel) s (execNbStepBoundary stack channel flips s) :=
  answers_onUnit (by simp)

theorem execNbSequenceDone_answers (stack : Nat) (s : State) :
    Answers (Unit.stack stack) s (execNbSequenceDone stack s) :=
  answers_onUnit (by simp)

/-! ### ImageCmds -/

theorem execImageBegin_answers (cmd : Nat) (s : State) : Answers true s (execImageBegin cmd s) :=
  answers_onCmd fun c => by simp

theorem execImageChunk_answers (cmd : Nat) (s : State) : Answers true s (execImageChunk cmd s) :=
  answers_onCmd fun c => by simp

theorem execImageCommit_answers (cmd : Nat) (s : State) : Answers true s (execImageCommit cmd s) :=
  answers_onCmd fun c => by simp

theorem execImageUnload_answers (cmd : Nat) (s : State) : Answers true s (execImageUnload cmd s) :=
  answers_onCmd fun c => by simp

theorem execPatchTables_answers (cmd : Nat) (s : State) : Answers true s (execPatchTables cmd s) :=
  answers_onCmd fun c => by simp

/-! ### MemCmds -/

theorem execResultRelease_answers (cmd : Nat) (s : State) : Answers true s (execResultRelease cmd s) := by
  refine answers_onCmd fun c => ?_
  dsimp only
  split <;> simp

theorem execCopy_answers (cmd : Nat) (s : State) : Answers true s (execCopy cmd s) :=
  answers_onCmd fun c => by simp

theorem execFill_answers (cmd : Nat) (s : State) : Answers true s (execFill cmd s) :=
  answers_onCmd fun c => by simp

theorem execScrub_answers (cmd : Nat) (s : State) : Answers true s (execScrub cmd s) :=
  answers_onCmd fun c => by simp

theorem execPin_answers (cmd : Nat) (s : State) : Answers true s (execPin cmd s) :=
  answers_onCmd fun c => by simp

theorem execUnpin_answers (cmd : Nat) (s : State) : Answers true s (execUnpin cmd s) :=
  answers_onCmd fun c => by simp

theorem execEcho_answers (cmd : Nat) (s : State) : Answers true s (execEcho cmd s) :=
  answers_onCmd fun c => by simp

theorem execSteppedCommandStep_answers (cmd amount : Nat) (s : State) :
    Answers true s (execSteppedCommandStep cmd amount s) := by
  refine answers_next ?_
  repeat' split
  all_goals simp

/-! ### Regulation -/

theorem execLouvreWindowEnd_answers (louvre : Nat) (s : State) :
    Answers (decide (louvre < 45729)) s (execLouvreWindowEnd louvre s) :=
  answers_onUnit (by simp)

theorem execQuotaUpdate_answers (p : Nat) (s : State) : Answers (Unit.part p) s (execQuotaUpdate p s) :=
  answers_onUnit (by simp)

theorem execSetClassTable_answers (cmd : Nat) (s : State) : Answers true s (execSetClassTable cmd s) :=
  answers_onCmd fun c => by simp

theorem execSetRegulationMode_answers (cmd : Nat) (s : State) : Answers true s (execSetRegulationMode cmd s) :=
  answers_onCmd fun c => by simp

/-! ### Control -/

theorem execBr_answers (who : Agent) (f : FormC) (s : State) : Answers who.wf s (execBr who f s) :=
  answers_issueJump ..

theorem execCall_answers (who : Agent) (f : FormC) (s : State) : Answers who.wf s (execCall who f s) :=
  answers_issueJump ..

theorem execDone_answers (who : Agent) (f : FormA) (s : State) : Answers who.wf s (execDone who f s) :=
  answers_issueScalar fun c t => by simp

/-! ### Spec -/

theorem execSpecOpen_answers (who : Agent) (f : FormA) (s : State) : Answers who.wf s (execSpecOpen who f s) := by
  refine answers_issueScalar fun c t => ?_
  dsimp only
  repeat' split
  all_goals simp

theorem execSpecClose_answers (who : Agent) (f : FormA) (s : State) : Answers who.wf s (execSpecClose who f s) :=
  answers_issueScalar fun c t => by simp

theorem execSpecConfirm_answers (who : Agent) (f : FormA) (s : State) : Answers who.wf s (execSpecConfirm who f s) :=
  answers_resolve fun t g => by simp

theorem execSpecAbort_answers (who : Agent) (f : FormA) (s : State) : Answers who.wf s (execSpecAbort who f s) :=
  answers_resolve fun t g => by simp

theorem execSpecPoll_answers (who : Agent) (f : FormA) (s : State) : Answers who.wf s (execSpecPoll who f s) :=
  answers_issueScalar fun c t => by simp

theorem execSpecAborted_answers (lpart group : Nat) (s : State) :
    Answers (Unit.part lpart && Unit.specGroup group) s (execSpecAborted lpart group s) :=
  answers_onUnit (by simp)

/-! ### Runs -/

theorem execRunLaunch_answers (run : Nat) (s : State) : Answers true s (execRunLaunch run s) :=
  answers_next (by simp)

theorem execShutterStageEnd_answers (region : Nat) (s : State) :
    Answers (Unit.powerRegion region) s (execShutterStageEnd region s) :=
  answers_onUnit (by simp)

theorem execRunCompletion_answers (run : Nat) (s : State) : Answers true s (execRunCompletion run s) :=
  answers_next (by simp)

theorem execRunTimeLimit_answers (run : Nat) (s : State) : Answers true s (execRunTimeLimit run s) :=
  answers_next (by simp)

theorem execHoldLimitExpiry_answers (run : Nat) (s : State) : Answers true s (execHoldLimitExpiry run s) :=
  answers_next (by simp)

theorem execRun_answers (cmd : Nat) (s : State) : Answers true s (execRun cmd s) :=
  answers_onCmd fun c => by simp

theorem execRunSpeculative_answers (cmd : Nat) (s : State) : Answers true s (execRunSpeculative cmd s) :=
  answers_onCmd fun c => by simp

theorem execConfirm_answers (cmd : Nat) (s : State) : Answers true s (execConfirm cmd s) :=
  answers_onCmd fun c => by simp

theorem execAbortSpec_answers (cmd : Nat) (s : State) : Answers true s (execAbortSpec cmd s) :=
  answers_onCmd fun c => by simp

theorem execCancel_answers (cmd : Nat) (s : State) : Answers true s (execCancel cmd s) :=
  answers_onCmd fun c => by simp

/-! ### Queries -/

theorem execQueryIdentity_answers (cmd : Nat) (s : State) : Answers true s (execQueryIdentity cmd s) :=
  answers_onCmd fun c => by simp

theorem execQueryState_answers (cmd : Nat) (s : State) : Answers true s (execQueryState cmd s) :=
  answers_onCmd fun c => by simp

theorem execQueryDefects_answers (cmd : Nat) (s : State) : Answers true s (execQueryDefects cmd s) :=
  answers_onCmd fun c => by simp

theorem execReadCounters_answers (cmd : Nat) (s : State) : Answers true s (execReadCounters cmd s) :=
  answers_onCmd fun c => by simp

/-! ### Registers -/

theorem execTransomRepairWrite_answers (by_ : Requester) (pcore g : Nat) (v : W64) (s : State) :
    Answers (Unit.core pcore && decide (g < 32)) s (execTransomRepairWrite by_ pcore g v s) :=
  answers_onUnit (by simp)

/-! ### Resets -/

theorem execStepMonitorExpiry_answers (cmd : Nat) (s : State) : Answers true s (execStepMonitorExpiry cmd s) := by
  refine answers_next ?_
  split <;> simp

theorem execFabricMonitorExpiry_answers (cluster : Nat) (s : State) :
    Answers (Unit.cluster cluster) s (execFabricMonitorExpiry cluster s) :=
  answers_onUnit (by simp)

theorem execDoorProgressMonitor_answers (p channel : Nat) (inbound partitionHolds : Bool) (s : State) :
    Answers (Unit.part p && decide (channel < 4)) s (execDoorProgressMonitor p channel inbound partitionHolds s) :=
  answers_onUnit (by simp)

theorem execHeartbeatMiss_answers (p : Nat) (s : State) : Answers (Unit.part p) s (execHeartbeatMiss p s) :=
  answers_onUnit (by simp)

theorem execMcWatchdogExpiry_answers (s : State) : Answers true s (execMcWatchdogExpiry s) :=
  answers_next (by simp)

theorem execDoorDrainEnd_answers (p : Nat) (s : State) : Answers (Unit.part p) s (execDoorDrainEnd p s) :=
  answers_onUnit (by simp)

theorem execForcedBayReset_answers (bay : Nat) (s : State) : Answers (Unit.cluster bay) s (execForcedBayReset bay s) :=
  answers_onUnit (by simp)

theorem execPartitionResetDone_answers (p : Nat) (failures : List Finding) (s : State) :
    Answers (Unit.part p) s (execPartitionResetDone p failures s) :=
  answers_onUnit (by simp)

theorem execResetCore_answers (cmd : Nat) (s : State) : Answers true s (execResetCore cmd s) := by
  refine answers_onCmd fun c => ?_
  dsimp only
  repeat' split
  all_goals simp

theorem execResetCluster_answers (cmd : Nat) (s : State) : Answers true s (execResetCluster cmd s) := by
  refine answers_onCmd fun c => ?_
  dsimp only
  repeat' split
  all_goals simp

theorem execResetPartition_answers (cmd : Nat) (s : State) : Answers true s (execResetPartition cmd s) :=
  answers_onCmd fun c => by simp

theorem execCollectDump_answers (cmd : Nat) (s : State) : Answers true s (execCollectDump cmd s) := by
  refine answers_onCmd fun c => ?_
  split <;> simp

/-! ### PowerStates -/

theorem execAjarEntryDone_answers (p : Nat) (s : State) : Answers (Unit.part p) s (execAjarEntryDone p s) :=
  answers_onUnit (by simp)

theorem execShutEntryDone_answers (p : Nat) (s : State) : Answers (Unit.part p) s (execShutEntryDone p s) :=
  answers_onUnit (by simp)

theorem execAjarIdleExpiry_answers (p : Nat) (s : State) : Answers (Unit.part p) s (execAjarIdleExpiry p s) :=
  answers_onUnit (by simp)

theorem execShutIdleExpiry_answers (p : Nat) (s : State) : Answers (Unit.part p) s (execShutIdleExpiry p s) := by
  refine answers_onUnit ?_
  repeat' split
  all_goals simp

theorem execWakeDone_answers (p : Nat) (s : State) : Answers (Unit.part p) s (execWakeDone p s) :=
  answers_onUnit (by simp)

theorem execPcieTlpInL1_answers (s : State) : Answers true s (execPcieTlpInL1 s) :=
  answers_next (by simp)

theorem execPowerState_answers (cmd : Nat) (s : State) : Answers true s (execPowerState cmd s) :=
  answers_onCmd fun c => by simp

theorem execPowerPolicy_answers (cmd : Nat) (s : State) : Answers true s (execPowerPolicy cmd s) :=
  answers_onCmd fun c => by simp

theorem execPcieLinkL1Entry_answers (s : State) : Answers true s (execPcieLinkL1Entry s) :=
  answers_next (by simp)

/-! ### Links -/

theorem execPcieKnock_answers (vendor : Nat) (hdr : W32) (s : State) : Answers true s (execPcieKnock vendor hdr s) :=
  answers_next (by simp)

theorem execSeunonKnock_answers (port : Nat) (s : State) : Answers (Unit.port port) s (execSeunonKnock port s) :=
  answers_onUnit (by simp)

theorem execSeunonStandbyTraffic_answers (port : Nat) (s : State) :
    Answers (Unit.port port) s (execSeunonStandbyTraffic port s) :=
  answers_onUnit (by simp)

theorem execSeunonTrainingDone_answers (port : Nat) (r : TrainResult) (s : State) :
    Answers (Unit.port port) s (execSeunonTrainingDone port r s) :=
  answers_onUnit (by simp)

theorem execSeunonFlitError_answers (port : Nat) (trained : Bool) (s : State) :
    Answers (Unit.port port) s (execSeunonFlitError port trained s) :=
  answers_onUnit (by simp)

theorem execSeunonPortDown_answers (port : Nat) (s : State) : Answers (Unit.port port) s (execSeunonPortDown port s) :=
  answers_onUnit (by simp)

theorem execSeunonRemoteRequest_answers (port : Nat) (r : RemoteReq) (s : State) :
    Answers (Unit.port port && Unit.fn r.fn) s (execSeunonRemoteRequest port r s) :=
  answers_onUnit (by simp)

theorem execHingeBridgeFlitError_answers (link : Nat) (trained : Bool) (s : State) :
    Answers (decide (link < 84)) s (execHingeBridgeFlitError link trained s) :=
  answers_onUnit (by simp)

theorem execFlr_answers (f : Nat) (s : State) : Answers (Unit.fn f) s (execFlr f s) :=
  answers_onUnit (by simp)

theorem execVfEnable_answers (n : Nat) (s : State) : Answers true s (execVfEnable n s) :=
  answers_next (by simp)

theorem execVfDisable_answers (f : Nat) (s : State) : Answers (Unit.fn f) s (execVfDisable f s) :=
  answers_onUnit (by simp)

theorem execBusMasterEnableClear_answers (f : Nat) (s : State) : Answers (Unit.fn f) s (execBusMasterEnableClear f s) :=
  answers_onUnit (by simp)

theorem execBusMasterEnableSet_answers (f : Nat) (s : State) : Answers (Unit.fn f) s (execBusMasterEnableSet f s) :=
  answers_onUnit (by simp)

theorem execD3hotEntry_answers (f : Nat) (s : State) : Answers (Unit.fn f) s (execD3hotEntry f s) :=
  answers_onUnit (by simp)

theorem execPcieFundamentalReset_answers (s : State) : Answers true s (execPcieFundamentalReset s) :=
  answers_next (by simp)

theorem execPerstNRelease_answers (s : State) : Answers true s (execPerstNRelease s) :=
  answers_next (by simp)

theorem execD3hotExit_answers (f : Nat) (s : State) : Answers (Unit.fn f) s (execD3hotExit f s) :=
  answers_onUnit (by simp)

theorem execPcieLinkL0_answers (s : State) : Answers true s (execPcieLinkL0 s) :=
  answers_next (by simp)

/-! ### Power -/

theorem execSpecConfirmed_answers (lpart group : Nat) (s : State) :
    Answers (Unit.part lpart && Unit.specGroup group) s (execSpecConfirmed lpart group s) :=
  answers_onUnit (by simp)

theorem execCellTelemetrySample_answers (region : Nat) (cells : List CellReading) (s : State) :
    Answers (Unit.powerRegion region) s (execCellTelemetrySample region cells s) :=
  answers_onUnit (by simp)

theorem execLimiterSample_answers (region current : Nat) (s : State) :
    Answers (Unit.powerRegion region) s (execLimiterSample region current s) :=
  answers_onUnit (by simp)

theorem execGovernorSample_answers (tower power input : Nat) (boost : Bool) (s : State) :
    Answers (Unit.tower tower) s (execGovernorSample tower power input boost s) :=
  answers_onUnit (by simp)

theorem execBoostWindowClose_answers (s : State) : Answers true s (execBoostWindowClose s) :=
  answers_next (by simp)

theorem execBusConverterFailure_answers (k : Nat) (s : State) :
    Answers (decide (k < 4)) s (execBusConverterFailure k s) :=
  answers_onUnit (by simp)

/-! ### Thermal -/

theorem execThermalModelUpdate_answers (sensors : List (Nat × Nat × Int)) (s : State) :
    Answers true s (execThermalModelUpdate sensors s) :=
  answers_next (by simp)

theorem execDiodeComparatorTrip_answers (node : Nat) (s : State) :
    Answers (decide (node < 420)) s (execDiodeComparatorTrip node s) :=
  answers_onUnit (by simp)

theorem execThermalActionRelease_answers (node : Nat) (s : State) :
    Answers (decide (node < 500)) s (execThermalActionRelease node s) :=
  answers_onUnit (by simp)

theorem execDisagreementEpisodeEnd_answers (node : Nat) (s : State) :
    Answers (decide (node < 600)) s (execDisagreementEpisodeEnd node s) :=
  answers_onUnit (by simp)

theorem execSensorFailure_answers (node sensor : Nat) (s : State) :
    Answers (decide (node < 600)) s (execSensorFailure node sensor s) :=
  answers_onUnit (by simp)

theorem execBondTempSample_answers (tower : Nat) (s : State) :
    Answers (Unit.tower tower) s (execBondTempSample tower s) :=
  answers_onUnit (by simp)

theorem execCoolantAlert_answers (s : State) : Answers true s (execCoolantAlert s) :=
  answers_next (by simp)

theorem execCoolantAlertEnd_answers (s : State) : Answers true s (execCoolantAlertEnd s) :=
  answers_next (by simp)

theorem execThermalRecordRead_answers (cmd : Nat) (s : State) : Answers true s (execThermalRecordRead cmd s) :=
  answers_onCmd fun c => by simp

/-! ### Bringup -/

theorem execVstbyUp_answers (slotId : Nat) (pairPresent goodA goodB : Bool) (s : State) :
    Answers true s (execVstbyUp slotId pairPresent goodA goodB s) :=
  answers_next (by simp)

theorem execMainPgAssert_answers (unusable : List Nat) (ringOk phyOk : Bool) (cells : List Finding) (s : State) :
    Answers true s (execMainPgAssert unusable ringOk phyOk cells s) :=
  answers_next (by simp)

theorem execBringupStage3_answers (findings : List Finding) (s : State) :
    Answers true s (execBringupStage3 findings s) :=
  answers_next (by simp)

theorem execBringupStage4_answers (findings : List Finding) (s : State) :
    Answers true s (execBringupStage4 findings s) :=
  answers_next (by simp)

theorem execBringupStage5_answers (findings : List Finding) (s : State) :
    Answers true s (execBringupStage5 findings s) :=
  answers_next (by simp)

theorem execBringupComplete_answers (s : State) : Answers true s (execBringupComplete s) :=
  answers_next (by simp)

theorem execMainPgTimeout_answers (s : State) : Answers true s (execMainPgTimeout s) :=
  answers_next (by simp)

theorem execRailStartTimeout_answers (s : State) : Answers true s (execRailStartTimeout s) :=
  answers_next (by simp)

theorem execMainPgDeassert_answers (s : State) : Answers true s (execMainPgDeassert s) :=
  answers_next (by simp)

theorem execVmainFault_answers (s : State) : Answers true s (execVmainFault s) :=
  answers_next (by simp)

theorem execVmainDip_answers (s : State) : Answers true s (execVmainDip s) :=
  answers_next (by simp)

theorem execVstbyLoss_answers (s : State) : Answers true s (execVstbyLoss s) :=
  answers_next (by simp)

theorem execViobLoss_answers (s : State) : Answers true s (execViobLoss s) :=
  answers_next (by simp)

theorem execVmainNotRemoved_answers (s : State) : Answers true s (execVmainNotRemoved s) :=
  answers_next (by simp)

theorem execRailsDownDone_answers (s : State) : Answers true s (execRailsDownDone s) :=
  answers_next (by simp)

theorem execModuleResetStart_answers (s : State) : Answers true s (execModuleResetStart s) :=
  answers_next (by simp)

theorem execResetModule_answers (cmd : Nat) (s : State) : Answers true s (execResetModule cmd s) :=
  answers_onCmd fun c => by simp

theorem execVstbyAbsent_answers (s : State) : Answers true s (execVstbyAbsent s) :=
  answers_next (by simp)

theorem execViobReturn_answers (s : State) : Answers true s (execViobReturn s) :=
  answers_next (by simp)

/-! ### Migrate -/

theorem execHbmPeriodicRetrain_answers (stack channel pc0Fails pc1Fails caFails : Nat) (s : State) :
    Answers (Unit.stack stack && Unit.channel channel) s (execHbmPeriodicRetrain stack channel pc0Fails pc1Fails caFails s) :=
  answers_onUnit (by simp)

theorem execMigrate_answers (cmd : Nat) (s : State) : Answers true s (execMigrate cmd s) :=
  answers_onCmd fun c => by simp

theorem execBaseDieFault_answers (stack : Nat) (s : State) : Answers (Unit.stack stack) s (execBaseDieFault stack s) :=
  answers_onUnit (by simp)

/-! ### Firmware -/

theorem execNbFwResume_answers (stack : Nat) (passed : Bool) (s : State) :
    Answers (Unit.stack stack) s (execNbFwResume stack passed s) :=
  answers_onUnit (by simp)

theorem execFwStage_answers (cmd : Nat) (s : State) : Answers true s (execFwStage cmd s) :=
  answers_onCmd fun c => by simp

theorem execFwActivate_answers (cmd : Nat) (failed : List Nat) (s : State) :
    Answers true s (execFwActivate cmd failed s) :=
  answers_onCmd fun c => by simp

/-! ### Security -/

theorem execAttestSigningStart_answers (s : State) : Answers true s (execAttestSigningStart s) :=
  answers_next (by simp)

theorem execAttest_answers (cmd : Nat) (s : State) : Answers true s (execAttest cmd s) :=
  answers_onCmd fun c => by simp

theorem execGetCert_answers (cmd : Nat) (s : State) : Answers true s (execGetCert cmd s) :=
  answers_onCmd fun c => by simp

theorem execDebugUnlock_answers (cmd : Nat) (s : State) : Answers true s (execDebugUnlock cmd s) :=
  answers_onCmd fun c => by simp

/-! ### Board -/

theorem execIdentity_answers (tag : Nat) (s : State) : Answers true s (execIdentity tag s) :=
  answers_board fun t => by simp

theorem execReadReg_answers (tag off : Nat) (s : State) : Answers true s (execReadReg tag off s) :=
  answers_board fun t => by simp

theorem execAlertStatus_answers (tag : Nat) (s : State) : Answers true s (execAlertStatus tag s) :=
  answers_board fun t => by simp

theorem execWake_answers (tag : Nat) (s : State) : Answers true s (execWake tag s) :=
  answers_board fun t => by simp

theorem execBmcResetModule_answers (tag mflags : Nat) (s : State) : Answers true s (execBmcResetModule tag mflags s) :=
  answers_board fun t => by simp

theorem execBmcThermalRecordRead_answers (tag first : Nat) (s : State) :
    Answers true s (execBmcThermalRecordRead tag first s) :=
  answers_board fun t => by simp

theorem execBmcFwStage_answers (tag component cflags off : Nat) (data : List Byte) (s : State) :
    Answers true s (execBmcFwStage tag component cflags off data s) := by
  refine answers_board fun t => ?_
  dsimp only
  repeat' split
  all_goals simp

theorem execOwnerEnroll_answers (tag cflags off : Nat) (data : List Byte) (s : State) :
    Answers true s (execOwnerEnroll tag cflags off data s) := by
  refine answers_board fun t => ?_
  dsimp only
  split <;> simp

theorem execDomainWrite_answers (tag moduleId domain first : Nat) (routes : List Nat) (s : State) :
    Answers true s (execDomainWrite tag moduleId domain first routes s) :=
  answers_board fun t => by simp

theorem execBmcAttest_answers (tag : Nat) (nonce : List Byte) (s : State) : Answers true s (execBmcAttest tag nonce s) :=
  answers_board fun t => by simp

theorem execAttestRead_answers (tag off : Nat) (s : State) : Answers true s (execAttestRead tag off s) :=
  answers_board fun t => by simp

theorem execBmcGetCert_answers (tag index off : Nat) (s : State) : Answers true s (execBmcGetCert tag index off s) :=
  answers_board fun t => by simp

theorem execMctpControlMessage_answers (bytes : List Byte) (s : State) :
    Answers true s (execMctpControlMessage bytes s) :=
  answers_next (by simp)

/-! ### LiveService -/

theorem execDrainPoint_answers (lpart : Nat) (s : State) : Answers (Unit.part lpart) s (execDrainPoint lpart s) :=
  answers_onUnit (by simp)

theorem execRetireUnit_answers (cmd : Nat) (s : State) : Answers true s (execRetireUnit cmd s) :=
  answers_onCmd fun c => by simp

theorem execFieldTest_answers (cmd : Nat) (findings : List Finding) (s : State) :
    Answers true s (execFieldTest cmd findings s) :=
  answers_onCmd fun c => by simp

theorem execRecalibrate_answers (cmd outcome : Nat) (s : State) : Answers true s (execRecalibrate cmd outcome s) :=
  answers_onCmd fun c => by simp

/-! ### Pair -/

theorem execMirrorStepReceived_answers (m : MirrorStep) (s : State) : Answers true s (execMirrorStepReceived m s) :=
  answers_next (by simp)

theorem execMirrorStepAck_answers (seq : BitVec 32) (s : State) : Answers true s (execMirrorStepAck seq s) :=
  answers_next (by simp)

theorem execPairLinkLoss_answers (s : State) : Answers true s (execPairLinkLoss s) :=
  answers_next (by simp)

theorem execPairJoin_answers (cmd : Nat) (r : PartnerReport) (s : State) : Answers true s (execPairJoin cmd r s) :=
  answers_onCmd fun c => by simp

theorem execPairSync_answers (cmd : Nat) (acked : Bool) (s : State) : Answers true s (execPairSync cmd acked s) :=
  answers_onCmd fun c => by simp

theorem execPairTakeover_answers (cmd : Nat) (s : State) : Answers true s (execPairTakeover cmd s) :=
  answers_onCmd fun c => by simp

theorem execPairRelease_answers (cmd : Nat) (s : State) : Answers true s (execPairRelease cmd s) :=
  answers_onCmd fun c => by simp

theorem execApertureMirrorStep_answers (s : State) : Answers true s (execApertureMirrorStep s) :=
  answers_next (by simp)

/-! ### Scalar -/

theorem execNop_answers (who : Agent) (f : FormA) (s : State) : Answers who.wf s (execNop who f s) :=
  answers_issueRegs ..

theorem execAdd_answers (who : Agent) (f : FormA) (s : State) : Answers who.wf s (execAdd who f s) :=
  answers_issueRegs ..

theorem execSub_answers (who : Agent) (f : FormA) (s : State) : Answers who.wf s (execSub who f s) :=
  answers_issueRegs ..

theorem execMul_answers (who : Agent) (f : FormA) (s : State) : Answers who.wf s (execMul who f s) :=
  answers_issueRegs ..

theorem execMulhu_answers (who : Agent) (f : FormA) (s : State) : Answers who.wf s (execMulhu who f s) :=
  answers_issueRegs ..

theorem execAnd_answers (who : Agent) (f : FormA) (s : State) : Answers who.wf s (execAnd who f s) :=
  answers_issueRegs ..

theorem execOr_answers (who : Agent) (f : FormA) (s : State) : Answers who.wf s (execOr who f s) :=
  answers_issueRegs ..

theorem execXor_answers (who : Agent) (f : FormA) (s : State) : Answers who.wf s (execXor who f s) :=
  answers_issueRegs ..

theorem execShl_answers (who : Agent) (f : FormA) (s : State) : Answers who.wf s (execShl who f s) :=
  answers_issueRegs ..

theorem execShr_answers (who : Agent) (f : FormA) (s : State) : Answers who.wf s (execShr who f s) :=
  answers_issueRegs ..

theorem execSar_answers (who : Agent) (f : FormA) (s : State) : Answers who.wf s (execSar who f s) :=
  answers_issueRegs ..

theorem execMin_answers (who : Agent) (f : FormA) (s : State) : Answers who.wf s (execMin who f s) :=
  answers_issueRegs ..

theorem execMax_answers (who : Agent) (f : FormA) (s : State) : Answers who.wf s (execMax who f s) :=
  answers_issueRegs ..

theorem execAddi_answers (who : Agent) (f : FormB) (s : State) : Answers who.wf s (execAddi who f s) :=
  answers_issueRegs ..

theorem execLi_answers (who : Agent) (f : FormC) (s : State) : Answers who.wf s (execLi who f s) :=
  answers_issueRegs ..

theorem execCmp_answers (who : Agent) (f : FormA) (s : State) : Answers who.wf s (execCmp who f s) :=
  answers_issueRegs ..

/-! ### ThreadGroup -/

theorem execTgLaunch_answers (who : Agent) (f : FormA) (s : State) : Answers who.wf s (execTgLaunch who f s) :=
  answers_issueScalar fun c t => by simp

theorem execBlockLaunchBegin_answers (c : Nat) (s : State) : Answers (Unit.core c) s (execBlockLaunchBegin c s) :=
  answers_onUnit (by simp)

theorem execTgJoin_answers (who : Agent) (f : FormA) (s : State) : Answers who.wf s (execTgJoin who f s) :=
  answers_issueScalar fun c t => by simp

theorem execParkTimeout_answers (c slot lane : Nat) (s : State) :
    Answers (Unit.core c && Unit.slot slot && Unit.lane lane) s (execParkTimeout c slot lane s) :=
  answers_onUnit (by simp)

end Sys2Proof.Machine
end

section
namespace Sys2Proof.Machine
open Sys2Proof

/-! The queue stays in order, and every command completes (O55, O56). -/

/-- Every command but a JTAG instruction: it answers a next state with the fixed part of the present one when its units
exist, and the model's fault when they do not. -/
theorem exec_answers (i : Instr) (s : State) (hj : ∀ code op, i ≠ .jtagInstruction code op) : Answers i.wf s (exec i s) := by
  cases i with
  | nop who f => exact execNop_answers _ _ s
  | add who f => exact execAdd_answers _ _ s
  | sub who f => exact execSub_answers _ _ s
  | mul who f => exact execMul_answers _ _ s
  | mulhu who f => exact execMulhu_answers _ _ s
  | and who f => exact execAnd_answers _ _ s
  | or who f => exact execOr_answers _ _ s
  | xor who f => exact execXor_answers _ _ s
  | shl who f => exact execShl_answers _ _ s
  | shr who f => exact execShr_answers _ _ s
  | sar who f => exact execSar_answers _ _ s
  | min who f => exact execMin_answers _ _ s
  | max who f => exact execMax_answers _ _ s
  | addi who f => exact execAddi_answers _ _ s
  | li who f => exact execLi_answers _ _ s
  | cmp who f => exact execCmp_answers _ _ s
  | br who f => exact execBr_answers _ _ s
  | call who f => exact execCall_answers _ _ s
  | ret who f => exact execRet_answers _ _ s
  | done who f => exact execDone_answers _ _ s
  | csrR who f => exact execCsrR_answers _ _ s
  | csrW who f => exact execCsrW_answers _ _ s
  | csrS who f => exact execCsrS_answers _ _ s
  | csrC who f => exact execCsrC_answers _ _ s
  | fenceStore who f => exact execFenceStore_answers _ _ s
  | fenceInv who f => exact execFenceInv_answers _ _ s
  | fenceAll who f => exact execFenceAll_answers _ _ s
  | ld who f => exact execLd_answers _ _ s
  | st who f => exact execSt_answers _ _ s
  | tdLd who f => exact execTdLd_answers _ _ s
  | msgSend who f => exact execMsgSend_answers _ _ s
  | msgRecv who f => exact execMsgRecv_answers _ _ s
  | msgPoll who f => exact execMsgPoll_answers _ _ s
  | msgInject c => exact execMsgInject_answers _ s
  | vadd who f => exact execVadd_answers _ _ s
  | vsub who f => exact execVsub_answers _ _ s
  | vmul who f => exact execVmul_answers _ _ s
  | vfma who f => exact execVfma_answers _ _ s
  | vmin who f => exact execVmin_answers _ _ s
  | vmax who f => exact execVmax_answers _ _ s
  | vun who f => exact execVun_answers _ _ s
  | vcmp who f => exact execVcmp_answers _ _ s
  | vsel who f => exact execVsel_answers _ _ s
  | vbit who f => exact execVbit_answers _ _ s
  | vmov who f => exact execVmov_answers _ _ s
  | vperm who f => exact execVperm_answers _ _ s
  | vget who f => exact execVget_answers _ _ s
  | vld who f => exact execVld_answers _ _ s
  | vst who f => exact execVst_answers _ _ s
  | vlds who f => exact execVlds_answers _ _ s
  | vsts who f => exact execVsts_answers _ _ s
  | vredSum who f => exact execVredSum_answers _ _ s
  | vredSeg who f => exact execVredSeg_answers _ _ s
  | cvt who f => exact execCvt_answers _ _ s
  | cvtEnc who f => exact execCvtEnc_answers _ _ s
  | cvtDec who f => exact execCvtDec_answers _ _ s
  | mma who f => exact execMma_answers _ _ s
  | mmaStepBegin c => exact execMmaStepBegin_answers _ s
  | accSt who f => exact execAccSt_answers _ _ s
  | accLd who f => exact execAccLd_answers _ _ s
  | accRv who f => exact execAccRv_answers _ _ s
  | accWv who f => exact execAccWv_answers _ _ s
  | tgLaunch who f => exact execTgLaunch_answers _ _ s
  | blockLaunchBegin c => exact execBlockLaunchBegin_answers _ s
  | tgJoin who f => exact execTgJoin_answers _ _ s
  | tgExit who f => exact execTgExit_answers _ _ s
  | tgBar who f => exact execTgBar_answers _ _ s
  | lockTry who f => exact execLockTry_answers _ _ s
  | lockRel who f => exact execLockRel_answers _ _ s
  | yield who f => exact execYield_answers _ _ s
  | parkTimeout c slot lane => exact execParkTimeout_answers _ _ _ s
  | tgVote who f => exact execTgVote_answers _ _ s
  | ssStart who f => exact execSsStart_answers _ _ s
  | streamStartBegin c slot => exact execStreamStartBegin_answers _ _ s
  | streamStartEnd c slot => exact execStreamStartEnd_answers _ _ s
  | ssWait who f => exact execSsWait_answers _ _ s
  | ssCancel who f => exact execSsCancel_answers _ _ s
  | ssPoll who f => exact execSsPoll_answers _ _ s
  | streamLoop c slot => exact execStreamLoop_answers _ _ s
  | streamEndl c slot => exact execStreamEndl_answers _ _ s
  | streamAdda c slot => exact execStreamAdda_answers _ _ s
  | streamMove c slot => exact execStreamMove_answers _ _ s
  | streamXmove c slot => exact execStreamXmove_answers _ _ s
  | streamEnd c slot => exact execStreamEnd_answers _ _ s
  | rowTransfer c slot => exact execRowTransfer_answers _ _ s
  | chPf who f => exact execChPf_answers _ _ s
  | chPin who f => exact execChPin_answers _ _ s
  | chUnpin who f => exact execChUnpin_answers _ _ s
  | chDead who f => exact execChDead_answers _ _ s
  | specOpen who f => exact execSpecOpen_answers _ _ s
  | specClose who f => exact execSpecClose_answers _ _ s
  | specConfirm who f => exact execSpecConfirm_answers _ _ s
  | specAbort who f => exact execSpecAbort_answers _ _ s
  | specPoll who f => exact execSpecPoll_answers _ _ s
  | specConfirmed lpart group => exact execSpecConfirmed_answers _ _ s
  | specAborted lpart group => exact execSpecAborted_answers _ _ s
  | coreWatchdogExpiry c => exact execCoreWatchdogExpiry_answers _ s
  | groupProgressExpiry c slot => exact execGroupProgressExpiry_answers _ _ s
  | msgArrival a => exact execMsgArrival_answers _ s
  | clusterClockGate cluster => exact execClusterClockGate_answers _ s
  | bayReadRequest bay line cls w => exact execBayReadRequest_answers _ _ _ _ s
  | bayFillReturn bay line => exact execBayFillReturn_answers _ _ s
  | homeBayWrite w => exact execHomeBayWrite_answers _ s
  | invalidationArrival bay line => exact execInvalidationArrival_answers _ _ s
  | invalidationAcksComplete bay line => exact execInvalidationAcksComplete_answers _ _ s
  | responseArrival ix => exact execResponseArrival_answers _ s
  | responseTimeout ix => exact execResponseTimeout_answers _ s
  | bayPatrol bay corrected bad => exact execBayPatrol_answers _ _ _ s
  | coreArrayPatrol c corrected bad => exact execCoreArrayPatrol_answers _ _ _ s
  | hbmSectorRead sector flips => exact execHbmSectorRead_answers _ _ s
  | hbmSectorWrite sector start bytes => exact execHbmSectorWrite_answers _ _ _ s
  | hbmRefreshDue stack channel pc bank busy => exact execHbmRefreshDue_answers _ _ _ _ _ s
  | hbmPeriodicRetrain stack channel pc0Fails pc1Fails caFails => exact execHbmPeriodicRetrain_answers _ _ _ _ _ s
  | hbmOdeccPoll stack counts => exact execHbmOdeccPoll_answers _ _ s
  | kickTaken stack => exact execKickTaken_answers _ s
  | nbStepBoundary stack channel flips => exact execNbStepBoundary_answers _ _ _ s
  | nbSequenceDone stack => exact execNbSequenceDone_answers _ s
  | nbFwResume stack passed => exact execNbFwResume_answers _ _ s
  | sqEntryTaken f => exact execSqEntryTaken_answers _ s
  | sqFetchFailure f => exact execSqFetchFailure_answers _ s
  | coalesceTimeout f => exact execCoalesceTimeout_answers _ s
  | progressCompletion cmd => exact execProgressCompletion_answers _ s
  | msixVectorUnmask f v => exact execMsixVectorUnmask_answers _ _ s
  | regionAttrWrite by_ f ix v => exact execRegionAttrWrite_answers _ _ _ _ s
  | regionAllocationEnd f ix => exact execRegionAllocationEnd_answers _ _ s
  | regionReleaseEnd f ix => exact execRegionReleaseEnd_answers _ _ s
  | allocationCancelEnd f ix => exact execAllocationCancelEnd_answers _ _ s
  | lbEnable f => exact execLbEnable_answers _ s
  | lbDisable f => exact execLbDisable_answers _ s
  | doorbellSqTail f v => exact execDoorbellSqTail_answers _ _ s
  | doorbellCqHead f v => exact execDoorbellCqHead_answers _ _ s
  | lbStatusErrorClear f v => exact execLbStatusErrorClear_answers _ _ s
  | transomRepairWrite by_ pcore g v => exact execTransomRepairWrite_answers _ _ _ _ s
  | registerWrite by_ off size v => exact execRegisterWrite_answers _ _ _ _ s
  | apertureRead f x n => exact execApertureRead_answers _ _ _ s
  | apertureWrite f x bytes => exact execApertureWrite_answers _ _ _ s
  | runLaunch run => exact execRunLaunch_answers _ s
  | shutterStageEnd region => exact execShutterStageEnd_answers _ s
  | runCompletion run => exact execRunCompletion_answers _ s
  | runTimeLimit run => exact execRunTimeLimit_answers _ s
  | holdLimitExpiry run => exact execHoldLimitExpiry_answers _ s
  | stepMonitorExpiry cmd => exact execStepMonitorExpiry_answers _ s
  | fabricMonitorExpiry cluster => exact execFabricMonitorExpiry_answers _ s
  | doorProgressMonitor p channel inbound partitionHolds => exact execDoorProgressMonitor_answers _ _ _ _ s
  | heartbeatMiss p => exact execHeartbeatMiss_answers _ s
  | mcWatchdogExpiry => exact execMcWatchdogExpiry_answers s
  | doorDrainEnd p => exact execDoorDrainEnd_answers _ s
  | forcedBayReset bay => exact execForcedBayReset_answers _ s
  | partitionResetDone p failures => exact execPartitionResetDone_answers _ _ s
  | drainPoint lpart => exact execDrainPoint_answers _ s
  | mirrorStepReceived m => exact execMirrorStepReceived_answers _ s
  | mirrorStepAck seq => exact execMirrorStepAck_answers _ s
  | pairLinkLoss => exact execPairLinkLoss_answers s
  | louvreWindowEnd louvre => exact execLouvreWindowEnd_answers _ s
  | quotaUpdate p => exact execQuotaUpdate_answers _ s
  | cellTelemetrySample region cells => exact execCellTelemetrySample_answers _ _ s
  | limiterSample region current => exact execLimiterSample_answers _ _ s
  | governorSample tower power input boost => exact execGovernorSample_answers _ _ _ _ s
  | boostWindowClose => exact execBoostWindowClose_answers s
  | busConverterFailure k => exact execBusConverterFailure_answers _ s
  | vstbyUp slotId pairPresent goodA goodB => exact execVstbyUp_answers _ _ _ _ s
  | mainPgAssert unusable ringOk phyOk cells => exact execMainPgAssert_answers _ _ _ _ s
  | bringupStage3 findings => exact execBringupStage3_answers _ s
  | bringupStage4 findings => exact execBringupStage4_answers _ s
  | bringupStage5 findings => exact execBringupStage5_answers _ s
  | bringupComplete => exact execBringupComplete_answers s
  | mainPgTimeout => exact execMainPgTimeout_answers s
  | railStartTimeout => exact execRailStartTimeout_answers s
  | mainPgDeassert => exact execMainPgDeassert_answers s
  | vmainFault => exact execVmainFault_answers s
  | vmainDip => exact execVmainDip_answers s
  | vstbyLoss => exact execVstbyLoss_answers s
  | viobLoss => exact execViobLoss_answers s
  | vmainNotRemoved => exact execVmainNotRemoved_answers s
  | railsDownDone => exact execRailsDownDone_answers s
  | moduleResetStart => exact execModuleResetStart_answers s
  | ajarEntryDone p => exact execAjarEntryDone_answers _ s
  | shutEntryDone p => exact execShutEntryDone_answers _ s
  | ajarIdleExpiry p => exact execAjarIdleExpiry_answers _ s
  | shutIdleExpiry p => exact execShutIdleExpiry_answers _ s
  | wakeDone p => exact execWakeDone_answers _ s
  | pcieTlpInL1 => exact execPcieTlpInL1_answers s
  | pcieKnock vendor hdr => exact execPcieKnock_answers _ _ s
  | seunonKnock port => exact execSeunonKnock_answers _ s
  | seunonStandbyTraffic port => exact execSeunonStandbyTraffic_answers _ s
  | seunonTrainingDone port r => exact execSeunonTrainingDone_answers _ _ s
  | seunonFlitError port trained => exact execSeunonFlitError_answers _ _ s
  | seunonPortDown port => exact execSeunonPortDown_answers _ s
  | seunonRemoteRequest port r => exact execSeunonRemoteRequest_answers _ _ s
  | hingeBridgeFlitError link trained => exact execHingeBridgeFlitError_answers _ _ s
  | flr f => exact execFlr_answers _ s
  | vfEnable n => exact execVfEnable_answers _ s
  | vfDisable f => exact execVfDisable_answers _ s
  | busMasterEnableClear f => exact execBusMasterEnableClear_answers _ s
  | busMasterEnableSet f => exact execBusMasterEnableSet_answers _ s
  | d3hotEntry f => exact execD3hotEntry_answers _ s
  | pcieFundamentalReset => exact execPcieFundamentalReset_answers s
  | perstNRelease => exact execPerstNRelease_answers s
  | thermalModelUpdate sensors => exact execThermalModelUpdate_answers _ s
  | diodeComparatorTrip node => exact execDiodeComparatorTrip_answers _ s
  | thermalActionRelease node => exact execThermalActionRelease_answers _ s
  | disagreementEpisodeEnd node => exact execDisagreementEpisodeEnd_answers _ s
  | sensorFailure node sensor => exact execSensorFailure_answers _ _ s
  | bondTempSample tower => exact execBondTempSample_answers _ s
  | coolantAlert => exact execCoolantAlert_answers s
  | coolantAlertEnd => exact execCoolantAlertEnd_answers s
  | attestSigningStart => exact execAttestSigningStart_answers s
  | queryIdentity cmd => exact execQueryIdentity_answers _ s
  | queryState cmd => exact execQueryState_answers _ s
  | queryDefects cmd => exact execQueryDefects_answers _ s
  | readCounters cmd => exact execReadCounters_answers _ s
  | imageBegin cmd => exact execImageBegin_answers _ s
  | imageChunk cmd => exact execImageChunk_answers _ s
  | imageCommit cmd => exact execImageCommit_answers _ s
  | imageUnload cmd => exact execImageUnload_answers _ s
  | patchTables cmd => exact execPatchTables_answers _ s
  | run cmd => exact execRun_answers _ s
  | runSpeculative cmd => exact execRunSpeculative_answers _ s
  | confirm cmd => exact execConfirm_answers _ s
  | abortSpec cmd => exact execAbortSpec_answers _ s
  | cancel cmd => exact execCancel_answers _ s
  | resultRelease cmd => exact execResultRelease_answers _ s
  | copy cmd => exact execCopy_answers _ s
  | fill cmd => exact execFill_answers _ s
  | scrub cmd => exact execScrub_answers _ s
  | pin cmd => exact execPin_answers _ s
  | unpin cmd => exact execUnpin_answers _ s
  | setClassTable cmd => exact execSetClassTable_answers _ s
  | setRegulationMode cmd => exact execSetRegulationMode_answers _ s
  | powerState cmd => exact execPowerState_answers _ s
  | powerPolicy cmd => exact execPowerPolicy_answers _ s
  | resetCore cmd => exact execResetCore_answers _ s
  | resetCluster cmd => exact execResetCluster_answers _ s
  | resetPartition cmd => exact execResetPartition_answers _ s
  | resetModule cmd => exact execResetModule_answers _ s
  | collectDump cmd => exact execCollectDump_answers _ s
  | retireUnit cmd => exact execRetireUnit_answers _ s
  | fieldTest cmd findings => exact execFieldTest_answers _ _ s
  | recalibrate cmd outcome => exact execRecalibrate_answers _ _ s
  | fwStage cmd => exact execFwStage_answers _ s
  | fwActivate cmd failed => exact execFwActivate_answers _ _ s
  | migrate cmd => exact execMigrate_answers _ s
  | attest cmd => exact execAttest_answers _ s
  | getCert cmd => exact execGetCert_answers _ s
  | debugUnlock cmd => exact execDebugUnlock_answers _ s
  | thermalRecordRead cmd => exact execThermalRecordRead_answers _ s
  | clearTrip cmd => exact execClearTrip_answers _ s
  | pairJoin cmd r => exact execPairJoin_answers _ _ s
  | pairSync cmd acked => exact execPairSync_answers _ _ s
  | pairTakeover cmd => exact execPairTakeover_answers _ s
  | pairRelease cmd => exact execPairRelease_answers _ s
  | echo cmd => exact execEcho_answers _ s
  | identity tag => exact execIdentity_answers _ s
  | readReg tag off => exact execReadReg_answers _ _ s
  | alertStatus tag => exact execAlertStatus_answers _ s
  | wake tag => exact execWake_answers _ s
  | bmcResetModule tag mflags => exact execBmcResetModule_answers _ _ s
  | bmcThermalRecordRead tag first => exact execBmcThermalRecordRead_answers _ _ s
  | bmcClearTrip tag => exact execBmcClearTrip_answers _ s
  | bmcFwStage tag component cflags off data => exact execBmcFwStage_answers _ _ _ _ _ s
  | ownerEnroll tag cflags off data => exact execOwnerEnroll_answers _ _ _ _ s
  | domainWrite tag moduleId domain first routes => exact execDomainWrite_answers _ _ _ _ _ s
  | bmcAttest tag nonce => exact execBmcAttest_answers _ _ s
  | attestRead tag off => exact execAttestRead_answers _ _ s
  | bmcGetCert tag index off => exact execBmcGetCert_answers _ _ _ s
  | mctpControlMessage bytes => exact execMctpControlMessage_answers _ s
  | jtagInstruction code op => exact absurd rfl (hj code op)
  | steppedCommandStep cmd amount => exact execSteppedCommandStep_answers _ _ s
  | d3hotExit f => exact execD3hotExit_answers _ s
  | vstbyAbsent => exact execVstbyAbsent_answers s
  | viobReturn => exact execViobReturn_answers s
  | baseDieFault stack => exact execBaseDieFault_answers _ s
  | pcieLinkL0 => exact execPcieLinkL0_answers s
  | pcieLinkL1Entry => exact execPcieLinkL1Entry_answers s
  | apertureMirrorStep => exact execApertureMirrorStep_answers s

/-- A JTAG instruction may stop by name; otherwise it leaves the fixed part. -/
theorem execJtagInstruction_next_or_refused (code : Nat) (op : Bool) (s : State) :
    (∃ t, execJtagInstruction code op s = .next t ∧ t.fixed = s.fixed) ∨
      execJtagInstruction code op s = .refused .debugInstruction := by
  unfold execJtagInstruction
  split
  · exact .inr rfl
  · exact .inl ⟨_, rfl, by simp⟩

/-- A command whose units exist answers a next state with the same fixed part, or it is a JTAG instruction that stops. -/
theorem exec_of_wf {i : Instr} (hw : i.wf = true) (s : State) :
    (∃ t, exec i s = .next t ∧ t.fixed = s.fixed) ∨ exec i s = .refused .debugInstruction := by
  by_cases hj : ∃ code op, i = .jtagInstruction code op
  · obtain ⟨code, op, rfl⟩ := hj
    exact execJtagInstruction_next_or_refused code op s
  · have ha := exec_answers i s fun code op e => hj ⟨code, op, e⟩
    rw [hw] at ha
    exact .inl ha

theorem exec_of_not_wf {i : Instr} (hw : i.wf = false) (s : State) : exec i s = .fault .noSuchUnit := by
  have hj : ∀ code op, i ≠ .jtagInstruction code op := by
    rintro code op rfl
    cases hw
  have ha := exec_answers i s hj
  rw [hw] at ha
  exact ha

theorem exec_next_fixed {i : Instr} {s t : State} (h : exec i s = .next t) : t.fixed = s.fixed := by
  cases hw : i.wf with
  | true =>
    obtain ⟨u, hu, hf⟩ | hr := exec_of_wf hw s
    · rw [hu] at h
      cases h
      exact hf
    · rw [hr] at h
      cases h
  | false =>
    rw [exec_of_not_wf hw] at h
    cases h

/-- Settles O55: a step leaves the fixed part of the state that holds the rest of the queue. -/
theorem queueOrder : Obligations.QueueOrder := by
  unfold Obligations.QueueOrder Claim.QueueOrder
  intro s t h
  unfold step at h
  split at h
  · next hp =>
    cases h
    simp [hp]
  · next c rest hp =>
    have hf := exec_next_fixed h
    rw [hp]
    exact ⟨congrArg (·.1) hf, congrArg (·.2) hf⟩

/-- Settles O56: every command answers as `Answers` says, and only a JTAG instruction may stop. -/
theorem commandsComplete : Obligations.CommandsComplete := by
  unfold Obligations.CommandsComplete Claim.CommandsComplete
  refine fun i s => ⟨fun hw => ?_, fun hw hj => ?_, fun hw => exec_of_not_wf hw s⟩
  · exact (exec_of_wf hw s).imp_left fun ⟨t, ht, _⟩ => ⟨t, ht⟩
  · have ha := exec_answers i s hj
    rw [hw] at ha
    obtain ⟨t, ht, _⟩ := ha
    exact ⟨t, ht⟩
end Sys2Proof.Machine
end

section
namespace Sys2Proof.Machine
open Sys2Proof

/-! ### A release with a hidden row of a bay (O31)

The clause on the release of a region bounds the lines that `State.bay` reads, but `State.invalRange` drops the lines of every
row of `State.bays`. Two rows of one bay, of which only the first is read, let a line outside the bound write back its bytes. -/

/-- A dirty line of the region whose saved byte lies outside of it. -/
def strayLine : Line := { line := 0, kind := .home, cls := 0, dirty := true, stale := [(0x1000000, 7)] }

/-- A region of 64 KiB at offset 0 that is being released. -/
def releasing : Region := { attr := 0x0200000000000001, base := 0 }

/-- Bay 0 reads as empty, and a second row of it holds the stray line. -/
def hiddenRow : State := { State.reset with bays := [(0, {}), (0, { lines := [strayLine] })], regions := [(0, releasing)] }

theorem hiddenRow_region : hiddenRow.region 0 0 = releasing := rfl

theorem hiddenRow_bay (n : Nat) : hiddenRow.bay n = {} := by
  by_cases h : n = 0
  · subst h
    rfl
  · simp [State.bay, hiddenRow, nget, h]

theorem exec_regionReleaseEnd {s : State} {f i : Nat} (hf : Unit.fn f = true) (hi : Unit.region i = true)
    (hs : (s.region f i).state = 2) (hv : (s.region f i).valid = false) (hu : s.regionUsed f i (s.region f i).rel = false) :
    exec (.regionReleaseEnd f i) s = .next (s.regionEnd f i) := by
  show onUnit (Unit.fn f && Unit.region i) (if (s.region f i).state ≠ 2 ∨ (s.region f i).valid ∨
    s.regionUsed f i (s.region f i).rel then s else s.regionEnd f i) = _
  rw [hf, hi, if_neg (by simp [hs, hv, hu])]
  rfl

theorem hiddenRow_byte : nget 0 (hiddenRow.regionEnd 0 0).mem 0x1000000 = 7 := by decide +kernel

theorem not_regionTable : ¬ Claim.RegionTable := by
  intro h
  obtain ⟨-, -, -, -, hrel⟩ := h hiddenRow 0 0 releasing rfl rfl rfl
  obtain ⟨t, he, -, -, hout⟩ := hrel (by decide) (by decide) (by decide +kernel)
  have hb := hout (by decide) (by decide) (by simp [hiddenRow_bay]) 0x1000000 (.inr (by decide))
  rw [exec_regionReleaseEnd rfl rfl (by decide +kernel) (by decide +kernel) (by decide +kernel)] at he
  cases he
  rw [hiddenRow_byte] at hb
  exact absurd hb (by decide)

/-- Refutes O31: a region release writes outside the region when a bay has a second row, which the clause's bound does not see. -/
theorem not_regions : ¬ Obligations.Regions := fun h => not_regionTable h.1
end Sys2Proof.Machine
end

section
namespace Sys2Proof.Machine
open Sys2Proof

/-! ### Numbers of units (R21 to R24) -/

/-- The partition of a cluster read off its power region: the region's tower, column pair and row pair decide it (R22, R24). -/
theorem partOfCluster_eq_of_region (n : Nat) :
    partOfCluster n = 4 * (powerRegionOf n / 168) + (if 6 ≤ powerRegionOf n % 12 then 2 else 0) +
      (if 7 ≤ powerRegionOf n % 168 / 12 then 1 else 0) := by
  have ht : powerRegionOf n / 168 = n / 672 := by unfold powerRegionOf; omega
  have hr : powerRegionOf n % 168 / 12 = n % 672 / 24 / 2 := by unfold powerRegionOf; omega
  have hc : powerRegionOf n % 12 = n % 24 / 2 := by unfold powerRegionOf; omega
  rw [ht, hr, hc, partOfCluster]
  have h14 : 14 ≤ n % 672 / 24 ↔ 7 ≤ n % 672 / 24 / 2 := by omega
  have h12 : 12 ≤ n % 24 ↔ 6 ≤ n % 24 / 2 := by omega
  simp only [h14, h12]

section
variable {a c r n : Nat}

/-- A cluster's number gives back its tower, column and row (R21). -/
theorem cluster_coordinates (hc : c < 24) (hr : r < 28) (hn : n = ((a * 28) + r) * 24 + c) :
    n / 672 = a ∧ n % 24 = c ∧ n % 672 / 24 = r := by omega

theorem partOfCluster_at (hc : c < 24) (hr : r < 28) (hn : n = ((a * 28) + r) * 24 + c) :
    partOfCluster n = 4 * a + 2 * (if 12 ≤ c then 1 else 0) + (if 14 ≤ r then 1 else 0) := by
  obtain ⟨ha, hc', hr'⟩ := cluster_coordinates hc hr hn
  rw [partOfCluster, ha, hc', hr', mul_ite, mul_one, mul_zero]

theorem powerRegionOf_at (hc : c < 24) (hr : r < 28) (hn : n = ((a * 28) + r) * 24 + c) :
    powerRegionOf n = 168 * a + ((r / 2) * 12 + c / 2) := by
  obtain ⟨ha, hc', hr'⟩ := cluster_coordinates hc hr hn
  rw [powerRegionOf, ha, hc', hr', Nat.add_assoc]

/-- The tower, the upper rows and the right columns, read off the partition's number (R22). -/
theorem part_coordinates (hc : c < 24) (hr : r < 28) (hn : n = ((a * 28) + r) * 24 + c) :
    partOfCluster n / 4 = a ∧ (partOfCluster n % 2 = 1 ↔ 14 ≤ r) ∧ (partOfCluster n % 4 / 2 = 1 ↔ 12 ≤ c) := by
  rw [partOfCluster_at hc hr hn]
  split <;> split <;> omega

/-- A cluster lies in its partition, at its row and column within the half rows and half columns that the partition takes (R22). -/
theorem mem_clustersOfPart_at (hc : c < 24) (hr : r < 28) (hn : n = ((a * 28) + r) * 24 + c) :
    n ∈ clustersOfPart (partOfCluster n) := by
  obtain ⟨ht, hrow, hcol⟩ := part_coordinates hc hr hn
  have hr14 : (if 14 ≤ r then 14 else 0) + r % 14 = r := by split <;> omega
  have hc12 : (if 12 ≤ c then 12 else 0) + c % 12 = c := by split <;> omega
  rw [clustersOfPart, List.mem_flatMap]
  refine ⟨r % 14, List.mem_range.2 (by omega), List.mem_map.2 ⟨c % 12, List.mem_range.2 (by omega), ?_⟩⟩
  simp only [ht, hrow, hcol, hr14]
  omega

/-- A power region is a square of two rows and two columns (R24). -/
theorem mem_clustersOfRegion_at (hc : c < 24) (hr : r < 28) (hn : n = ((a * 28) + r) * 24 + c) :
    n ∈ clustersOfRegion (powerRegionOf n) := by
  rw [powerRegionOf_at hc hr hn]
  have hb : 672 * ((168 * a + (r / 2 * 12 + c / 2)) / 168) + (168 * a + (r / 2 * 12 + c / 2)) % 168 / 12 * 48 +
      (168 * a + (r / 2 * 12 + c / 2)) % 12 * 2 = (a * 28 + (r - r % 2)) * 24 + (c - c % 2) := by omega
  simp only [clustersOfRegion, hb, List.mem_cons, List.not_mem_nil, or_false]
  omega
end

/-- Each partition holds 42 power regions (R24). -/
theorem powerRegions_of_part : ∀ p, p < 8 → ((clustersOfPart p).map powerRegionOf).eraseDups.length = 42 := by
  decide +kernel

/-- Settles O60, from a cluster's coordinates. -/
theorem unitNumbers : Obligations.UnitNumbers := by
  refine ⟨fun a c r n ha hc hr hn => ⟨?_, partOfCluster_at hc hr hn, powerRegionOf_at hc hr hn, mem_clustersOfPart_at hc hr hn,
    mem_clustersOfRegion_at hc hr hn, fun slot hs => ?_⟩, fun m n _ _ h => ?_, powerRegions_of_part⟩
  · simp only [Unit.cluster, decide_eq_true_eq]
    omega
  · simp only [Unit.core, clusterOf, decide_eq_true_eq]
    omega
  · rw [partOfCluster_eq_of_region m, partOfCluster_eq_of_region n, h]
end Sys2Proof.Machine
end

section
namespace Sys2Proof.Machine
open Sys2Proof

/-! SUPPORT. Maps: entries kept by a test on the key or on the value, and keys that stay distinct. -/

section
variable {α : Type}

/-- A read of a key that a test on keys keeps. -/
theorem nget_filter_key (d : α) (p : Nat → Bool) {k : Nat} (hk : p k = true) (m : NMap α) :
    nget d (m.filter fun e => p e.1) k = nget d m k := by
  induction m with
  | nil => rfl
  | cons e m ih =>
    obtain ⟨k', v⟩ := e
    by_cases h : k = k'
    · subst h
      simp [hk, nget]
    · by_cases hp : p k' = true <;> simp [hp, nget, h, ih]

theorem nget_of_not_mem (d : α) {k : Nat} {m : NMap α} (h : k ∉ m.map fun e => e.1) : nget d m k = d :=
  (nget_mem d m k).elim id fun hm => absurd (List.mem_map.2 ⟨_, hm, rfl⟩) h

/-- A read from a map with distinct keys of which a test on the values keeps some entries. -/
theorem nget_filter_value (d : α) (p : α → Bool) (k : Nat) {m : NMap α} (hm : (m.map fun e => e.1).Nodup) :
    nget d (m.filter fun e => p e.2) k = if p (nget d m k) = true then nget d m k else d := by
  induction m with
  | nil => exact (ite_self d).symm
  | cons e m ih =>
    obtain ⟨k', v⟩ := e
    obtain ⟨hk', hm'⟩ := List.nodup_cons.1 hm
    have ih := ih hm'
    by_cases h : k = k'
    · subst h
      have hd : nget d m k = d := nget_of_not_mem d hk'
      by_cases hp : p v = true <;> simp [hp, nget, ih, hd]
    · by_cases hp : p v = true <;> simp [hp, nget, h, ih]

theorem ndel_sublist (k : Nat) (m : NMap α) : (ndel k m).Sublist m := by
  induction m with
  | nil => exact .slnil
  | cons e m ih =>
    rw [ndel]
    split
    · exact ih.cons _
    · exact ih.cons_cons _

theorem nins_perm (k : Nat) (v : α) (m : NMap α) : (nins k v m).Perm ((k, v) :: m) := by
  induction m with
  | nil => exact .refl _
  | cons e m ih =>
    rw [nins]
    split
    · exact .refl _
    · exact (ih.cons e).trans (.swap ..)

/-- A write keeps the keys distinct. -/
theorem nodup_keys_nset [DecidableEq α] (d : α) {m : NMap α} (k : Nat) (v : α) (h : (m.map fun e => e.1).Nodup) :
    ((nset d m k v).map fun e => e.1).Nodup := by
  have hd : ((ndel k m).map fun e => e.1).Nodup := h.sublist ((ndel_sublist k m).map _)
  rw [nset]
  split
  · exact hd
  · refine (((nins_perm k v (ndel k m)).map _).nodup_iff).2 (List.nodup_cons.2 ⟨fun hk => ?_, hd⟩)
    obtain ⟨e, he, hek⟩ := List.mem_map.1 hk
    exact ndel_ne k m e he hek
end
end Sys2Proof.Machine
end

section
namespace Sys2Proof.Machine
open Sys2Proof

/-! SUPPORT. What runs ends (R402, R454): cores stop and keep their generations, commands and runs are gone, letterboxes are disabled,
and memory, the host, the supplies and every register but the keyhole's stay. -/

/-- Cores have stopped, or lost some of their work: nothing else changed but counters, no generation advanced, none started. -/
structure CoresHalted (s t : State) : Prop where
  rest : { t with cores := s.cores, ctr := s.ctr } = s
  gen : ∀ c, (t.core c).gen = (s.core c).gen
  idle : ∀ c, (s.core c).running = false → (t.core c).running = false
  keys : (s.cores.map fun e => e.1).Nodup → (t.cores.map fun e => e.1).Nodup

namespace CoresHalted
variable {s t : State}

theorem refl (s : State) : CoresHalted s s := ⟨rfl, fun _ => rfl, fun _ h => h, fun h => h⟩

theorem bump (h : CoresHalted s t) (fam unit pos n : Nat) : CoresHalted s (t.bump fam unit pos n) := ⟨h.rest, h.gen, h.idle, h.keys⟩

theorem setCore (h : CoresHalted s t) (c : Nat) {k : Core} (hg : k.gen = (t.core c).gen)
    (hr : (t.core c).running = false → k.running = false) : CoresHalted s (t.setCore c k) where
  rest := h.rest
  gen x := by
    by_cases hx : x = c
    · subst hx
      rw [State.core_setCore_same, hg, h.gen]
    · rw [State.core_setCore_ne _ _ hx, h.gen]
  idle x hi := by
    by_cases hx : x = c
    · subst hx
      rw [State.core_setCore_same, hr (h.idle x hi)]
    · rw [State.core_setCore_ne _ _ hx, h.idle x hi]
  keys hn := nodup_keys_nset _ c k (h.keys hn)

theorem modCore (h : CoresHalted s t) (c : Nat) {f : Core → Core} (hg : ∀ k, (f k).gen = k.gen)
    (hr : ∀ k, k.running = false → (f k).running = false) : CoresHalted s (t.modCore c f) := h.setCore c (hg _) (hr _)

theorem advanceSlots (h : CoresHalted s t) (c : Nat) (p : Slot → Bool) : CoresHalted s (t.advanceSlots c p) := by
  unfold State.advanceSlots
  refine List.foldlRecOn _ _ h fun u hu i _ => ?_
  dsimp only
  split
  · exact (hu.setCore (k := (u.core c).setSlot i _) c rfl id).bump ..
  · exact hu

theorem stopCore (h : CoresHalted s t) (c : Nat) : CoresHalted s (t.stopCore c) := by
  unfold State.stopCore
  exact (h.advanceSlots c _).modCore c (fun _ => rfl) fun _ _ => rfl

end CoresHalted

theorem stopCore_running (s : State) (c : Nat) : ((s.stopCore c).core c).running = false := by
  simp [State.stopCore]

theorem foldl_stopCore_halted (l : List Nat) (s : State) : CoresHalted s (l.foldl (fun st c => st.stopCore c) s) :=
  List.foldlRecOn _ _ (.refl s) fun _ h c _ => h.stopCore c

theorem foldl_stopCore_running {c : Nat} {l : List Nat} (h : c ∈ l) (s : State) :
    ((l.foldl (fun st c => st.stopCore c) s).core c).running = false := by
  induction l generalizing s with
  | nil => cases h
  | cons x l ih =>
    rw [List.foldl_cons]
    rcases List.mem_cons.1 h with rfl | h
    · exact (foldl_stopCore_halted l _).idle c (stopCore_running s c)
    · exact ih h _

/-- What is left once everything that runs has ended. -/
structure WorkEnded (s t : State) : Prop where
  cmds : t.cmds = []
  runs : t.runs = []
  host : t.host = s.host
  mem : t.mem = s.mem
  power : t.power = s.power
  mc : t.mc = s.mc
  stopped : ∀ c, (t.core c).running = false
  gen : ∀ c, (t.core c).gen = (s.core c).gen
  keys : (s.cores.map fun e => e.1).Nodup → (t.cores.map fun e => e.1).Nodup
  disabled : ∀ f, (s.fn f).enabled = true → (t.fn f).st = .disabled
  creg : ∀ off, off ≠ offKeyhole → t.creg off = s.creg off

/-- A letterbox that has ended. -/
def Fn.ended (x : Fn) : Fn := { x with st := .disabled, heldComps := [], heldBytes := [] }

theorem Fn.ended_default : Fn.ended {} = {} := by decide

theorem endAll_fn (s : State) (f : Nat) : s.endAll.fn f = (s.fn f).ended := by
  have hr := (foldl_stopCore_halted (s.cores.map (·.1)) s).rest
  refine (nget_map (g := Fn.ended) Fn.ended_default _ f).trans ?_
  rw [show (List.foldl (fun st c => st.stopCore c) s (s.cores.map (·.1))).fns = s.fns from (congrArg State.fns hr :)]
  rfl

theorem endAll_core_running (s : State) (c : Nat) : (s.endAll.core c).running = false := by
  show ((List.foldl (fun st c => st.stopCore c) s (s.cores.map (·.1))).core c).running = false
  by_cases h : c ∈ s.cores.map fun e => e.1
  · exact foldl_stopCore_running h s
  · refine (foldl_stopCore_halted _ s).idle c ?_
    rw [State.core, nget_of_not_mem {} h]

theorem workEnded_endAll (s : State) : WorkEnded s s.endAll := by
  have h := foldl_stopCore_halted (s.cores.map (·.1)) s
  have hr := h.rest
  exact {
    cmds := rfl
    runs := rfl
    host := (congrArg State.host hr :)
    mem := (congrArg State.mem hr :)
    power := (congrArg State.power hr :)
    mc := (congrArg State.mc hr :)
    stopped := endAll_core_running s
    gen := h.gen
    keys := h.keys
    disabled := fun f _ => by rw [endAll_fn]; rfl
    creg := fun off ho => (State.creg_setCreg_ne _ _ ho).trans (congrArg (State.creg · off) hr :) }
end Sys2Proof.Machine
end

section
namespace Sys2Proof.Machine
open Sys2Proof

/-! SUPPORT. The rails going down (R402, R454, R458), and a halt of bring-up (R437). -/

/-- What every descent of the rails from s leaves, n being the profile that it asks for: the endpoint is gone and all work has ended
without a completion. -/
def Descended (s : State) (n : Nat) (t : State) : Prop :=
  t.power.descent = max n s.power.descent ∧ t.power.epReady = false ∧ t.cmds = [] ∧ t.runs = [] ∧ t.host = s.host ∧
    SameMemory s t ∧ (∀ c, (t.core c).running = false) ∧ ∀ f, (s.fn f).enabled = true → (t.fn f).st = .disabled

theorem descended_descend (s : State) (n after : Nat) : Descended s n (s.descend n after) := by
  have h := workEnded_endAll s
  exact ⟨congrArg (fun p : Power => max n p.descent) h.power, rfl, h.cmds, h.runs, h.host, fun a => congrArg (nget 0 · a) h.mem,
    h.stopped, h.disabled⟩

theorem descend_stage (s : State) (n after : Nat) : (s.descend n after).stage = s.stage :=
  State.cfld_congr ((workEnded_endAll s).creg offBringup (by decide)) 0 3

/-- A halt of bring-up changes registers and open values alone. -/
theorem halt_rest (s : State) (fault : Nat) : { s.halt fault with ctl := s.ctl, free := s.free } = s := by
  by_cases h : s.stage < 2 <;> simp [State.halt, h]

theorem halt_stage (s : State) (fault : Nat) : (s.halt fault).stage = 7 := by
  rw [State.stage, State.halt, State.cfld_setCfld_other _ _ _ (by decide) (by decide), State.cfld_setCfld_same _ _ _ (by decide)]
  rfl

theorem halt_fault (s : State) (fault : Nat) : (s.halt fault).cfld offBringup 8 4 = fault % 16 :=
  State.cfld_setCfld_same _ _ _ (by decide)

theorem Descended.halt {s t : State} {n : Nat} (h : Descended s n t) (fault : Nat) : Descended s n (t.halt fault) := by
  rw [← halt_rest t fault] at h
  exact h

section
variable (s : State) (num : Nat)

/-- The descent of a supply fault, before it is seen whether a bring-up halts. -/
def State.faultDescent (s : State) (num : Nat) : State :=
  let t := (s.logEv 454 num).descend 2 0
  { t with power := { t.power with faultN := true, noQuick := true } }

theorem faultDescent_stage : (s.faultDescent num).stage = s.stage := descend_stage (s.logEv 454 num) 2 0

theorem descended_faultDescent : Descended s 2 (s.faultDescent num) := descended_descend (s.logEv 454 num) 2 0

theorem faultDescent_mainPg : (s.faultDescent num).power.mainPg = s.power.mainPg :=
  (congrArg Power.mainPg (workEnded_endAll (s.logEv 454 num)).power :)

/-- A supply fault halts a bring-up with fault 2 (R437), and only that. -/
theorem supplyFault_eq : s.supplyFault num = if s.stage < 6 then (s.faultDescent num).halt 2 else s.faultDescent num := by
  rw [← faultDescent_stage s num]
  rfl

theorem supplyFault_descended : Descended s 2 (s.supplyFault num) := by
  rw [supplyFault_eq]
  split
  · exact (descended_faultDescent s num).halt 2
  · exact descended_faultDescent s num

theorem supplyFault_power : (s.supplyFault num).power = (s.faultDescent num).power := by
  rw [supplyFault_eq]
  split
  · exact (congrArg State.power (halt_rest (s.faultDescent num) 2) :)
  · rfl

theorem supplyFault_faultN : (s.supplyFault num).power.faultN = true := by
  rw [supplyFault_power]
  rfl

theorem supplyFault_mainPg : (s.supplyFault num).power.mainPg = s.power.mainPg := by
  rw [supplyFault_power, faultDescent_mainPg]

theorem supplyFault_halts (h : s.stage < 6) : (s.supplyFault num).stage = 7 ∧ (s.supplyFault num).cfld offBringup 8 4 = 2 := by
  rw [supplyFault_eq, if_pos h]
  exact ⟨halt_stage _ 2, halt_fault _ 2⟩

theorem supplyFault_keeps_stage (h : 6 ≤ s.stage) : (s.supplyFault num).stage = s.stage := by
  rw [supplyFault_eq, if_neg (by omega), faultDescent_stage]
end

/-! ### What is lost with the rails (R28, R402, R502) -/

/-- Whether a slot is good turns on the firmware store and on the anti-rollback fuses. -/
theorem slotOk_congr {s t : State} (hs : t.sec.fw = s.sec.fw) (hc : t.creg offRollback = s.creg offRollback) (comp i : Nat) :
    t.slotOk comp i = s.slotOk comp i := by
  have hf : t.fuseCount comp = s.fuseCount comp := State.cfld_congr hc ..
  rw [State.slotOk, State.slotOk, hf, hs]

section
variable (s : State)

theorem volatileLost_creg {off : Nat} (hk : keptReg off = true) (hn : off ≠ offKeyhole) (ht : off ≠ offTherm) :
    s.volatileLost.creg off = s.creg off :=
  (State.creg_setCfld_ne _ _ _ _ ht).trans ((State.creg_setCreg_ne _ _ hn).trans (nget_filter_key _ keptReg hk s.ctl))

/-- A core of which only the generation is left. -/
def Core.bare (k : Core) : Core := { gen := k.gen }

theorem volatileLost_core_eq (c : Nat) : s.volatileLost.core c = (nget {} (s.cores.filter fun e => e.2.gen != 0) c).bare :=
  nget_map (d := ({} : Core)) (g := Core.bare) rfl _ c

theorem volatileLost_core (c : Nat) : ∃ gen, s.volatileLost.core c = { gen := gen } := ⟨_, volatileLost_core_eq s c⟩

theorem volatileLost_bay (b : Nat) : ∃ gen, s.volatileLost.bay b = { gen := gen } := by
  rcases nget_mem {} s.volatileLost.bays b with h | h
  · exact ⟨0, h⟩
  · obtain ⟨e, -, he⟩ := List.mem_map.1 (List.mem_filter.1 h).1
    exact ⟨e.2.gen + 1, (congrArg Prod.snd he).symm⟩

/-- The loss of the rails leaves every core a generation on (R502, log entry 174). -/
theorem volatileLost_coreGen (h : (s.cores.map fun e => e.1).Nodup) (c : Nat) : s.volatileLost.coreGen c = s.coreGen c + 1 := by
  have hg : (s.volatileLost.core c).gen = (s.core c).gen := by
    rw [volatileLost_core_eq, nget_filter_value {} (fun k : Core => k.gen != 0) c h]
    split
    · rfl
    · next hz => exact (of_not_not fun h0 => hz (bne_iff_ne.2 h0)).symm
  rw [State.coreGen, State.coreGen, hg, BitVec.add_assoc]
  rfl

theorem unpowered_coreGen (h : (s.cores.map fun e => e.1).Nodup) (c : Nat) : s.unpowered.coreGen c = s.coreGen c + 1 :=
  volatileLost_coreGen s h c

theorem volatileLost_slotOk (comp i : Nat) : s.volatileLost.slotOk comp i = s.slotOk comp i := by
  have h : s.volatileLost.creg offRollback = s.creg offRollback := volatileLost_creg s (by decide) (by decide) (by decide)
  exact slotOk_congr (s := s) (t := s.volatileLost) rfl h comp i
end
end Sys2Proof.Machine
end

section
namespace Sys2Proof.Machine
open Sys2Proof

/-! SUPPORT. Stage 1 of a bring-up where the active firmware slot is good (R427, R436, R538, R445). -/

/-- Registers from 0x5000_0000 up, bays and links alone have changed. -/
structure UnitsSetUp (s t : State) : Prop where
  rest : { t with ctl := s.ctl, bays := s.bays, links := s.links } = s
  low : ∀ off, off < 0x50000000 → t.creg off = s.creg off

namespace UnitsSetUp
variable {s t : State}

theorem refl (s : State) : UnitsSetUp s s := ⟨rfl, fun _ _ => rfl⟩

theorem setCreg (h : UnitsSetUp s t) {off : Nat} (v : W64) (ho : 0x50000000 ≤ off) : UnitsSetUp s (t.setCreg off v) :=
  ⟨h.rest, fun o hlt => (State.creg_setCreg_ne _ _ (by omega)).trans (h.low o hlt)⟩

theorem setBay (h : UnitsSetUp s t) (n : Nat) (b : Bay) : UnitsSetUp s (t.setBay n b) := ⟨h.rest, h.low⟩

theorem setLinks (h : UnitsSetUp s t) (l : NMap Link) : UnitsSetUp s { t with links := l } := ⟨h.rest, h.low⟩

theorem bayOut (h : UnitsSetUp s t) (n : Nat) : UnitsSetUp s (t.bayOut n) :=
  (h.setCreg _ (by unfold offBayCfg; omega)).setBay n _

theorem takeOut (h : UnitsSetUp s t) (kind number : Nat) : UnitsSetUp s (t.takeOut kind number) :=
  List.foldlRecOn _ _ h fun _ hu n _ => hu.bayOut n

end UnitsSetUp

section
variable (s : State)

theorem applyRetired_setUp : UnitsSetUp s s.applyRetired := by
  refine List.foldlRecOn _ _ (.refl s) fun t h d _ => ?_
  split
  · exact h.takeOut ..
  · split
    · exact h.setLinks _
    · exact h

theorem domainRegs_setUp : UnitsSetUp s s.domainRegs := by
  have hid (v : W64) : UnitsSetUp s (s.setCreg offSeunonId v) := (UnitsSetUp.refl s).setCreg v (by decide)
  unfold State.domainRegs
  split
  · exact List.foldlRecOn _ _ (hid _) fun t h e _ => h.setCreg _ (by unfold offRoute; omega)
  · exact hid _

/-- The active slot of a component is loaded where it is good (R538). -/
theorem loadFw_active {comp : Nat} (h : s.slotOk comp (nget 0 s.sec.active comp) = true) :
    ∃ sec, s.loadFw comp anySlot = ({ s with sec := sec }, true) := by
  simp only [State.loadFw, h, anySlot, Bool.and_self, if_true]
  exact ⟨_, rfl⟩

end

/-- The supplies as stage 1 sets them when it asserts MAIN_EN. -/
def Power.starting (p : Power) : Power :=
  { p with faultN := false, bolted := false, mainEn := true, resetPending := none, after := 0 }

/-- What a bring-up that begins leaves. -/
structure StageOneBegun (s t : State) : Prop where
  stage : t.stage = 1
  power : t.power = s.power.starting
  mem : t.mem = s.mem
  cmds : t.cmds = s.cmds
  runs : t.runs = s.runs
  regions : t.regions = s.regions
  img : t.img = s.img
  host : t.host = s.host

theorem StageOneBegun.setCfld {s t : State} (h : StageOneBegun s t) {off : Nat} (ho : offBringup ≠ off) (lo n x : Nat) :
    StageOneBegun s (t.setCfld off lo n x) :=
  ⟨(State.cfld_setCfld_ne _ _ _ _ _ _ ho).trans h.stage, h.power, h.mem, h.cmds, h.runs, h.regions, h.img, h.host⟩

theorem stage1_begins {s : State} (flag : Bool) (h : s.slotOk 1 (nget 0 s.sec.active 1) = true) :
    StageOneBegun s (s.stage1 flag anySlot) := by
  let s0 := s.setCreg offBringup (if s.quickMay flag then 0x11 else 1)
  let s2 : State := { s0.domainRegs with power := s0.domainRegs.power.starting }
  have hd := domainRegs_setUp s0
  have hsec : s2.sec = s.sec := (congrArg State.sec hd.rest :)
  have hroll : s2.creg offRollback = s.creg offRollback :=
    (hd.low offRollback (by decide)).trans (State.creg_setCreg_ne _ _ (by decide))
  obtain ⟨sec, hl⟩ := loadFw_active s2 (comp := 1) (by rw [slotOk_congr (congrArg Sec.fw hsec) hroll, hsec, h])
  have ht : s.stage1 flag anySlot = State.applyRetired { s2 with sec := sec } := by
    show (if (s2.loadFw 1 anySlot).2 then (s2.loadFw 1 anySlot).1.applyRetired else (s2.loadFw 1 anySlot).1.haltAll 1) = _
    rw [hl]
    rfl
  have ha := applyRetired_setUp { s2 with sec := sec }
  rw [ht]
  have hb : (State.applyRetired { s2 with sec := sec }).creg offBringup = if s.quickMay flag then 0x11 else 1 :=
    (ha.low offBringup (by decide)).trans ((hd.low offBringup (by decide)).trans (State.creg_setCreg_same ..))
  exact {
    stage := by
      rw [State.stage, State.cfld, hb]
      split <;> rfl
    power := (congrArg State.power ha.rest :).trans (congrArg (Power.starting ·.power) hd.rest :)
    mem := (congrArg State.mem ha.rest :).trans (congrArg State.mem hd.rest :)
    cmds := (congrArg State.cmds ha.rest :).trans (congrArg State.cmds hd.rest :)
    runs := (congrArg State.runs ha.rest :).trans (congrArg State.runs hd.rest :)
    regions := (congrArg State.regions ha.rest :).trans (congrArg State.regions hd.rest :)
    img := (congrArg State.img ha.rest :).trans (congrArg State.img hd.rest :)
    host := (congrArg State.host ha.rest :).trans (congrArg State.host hd.rest :) }
end Sys2Proof.Machine
end

section
namespace Sys2Proof.Machine
open Sys2Proof

/-! ### Supply events (R28, R454, R458) -/

section
variable {s : State}

theorem exec_mainPgDeassert (hv : s.power.viob = true) (hp : s.power.mainPg = true) (he : s.power.mainEn = true) :
    exec .mainPgDeassert s = .next (State.supplyFault { s with power := { s.power with mainPg := false } } 1) := by
  show execMainPgDeassert s = _
  simp [execMainPgDeassert, State.sideband, hv, hp, he]

theorem exec_vmainFault (hv : s.power.vmain = true) (he : s.power.mainEn = true) : exec .vmainFault s = .next (s.supplyFault 2) := by
  show execVmainFault s = _
  simp [execVmainFault, hv, he]

theorem exec_vmainDip (hv : s.power.vmain = true) : exec .vmainDip s = .next (s.logEv 454 3) := by
  show execVmainDip s = _
  simp [execVmainDip, hv]

theorem exec_vmainNotRemoved (he : s.power.mainEn = false) : exec .vmainNotRemoved s = .next (s.logEv 454 4) := by
  show execVmainNotRemoved s = _
  simp [execVmainNotRemoved, he]

/-- The descent that the loss of VSTBY begins, with VSTBY gone. -/
def State.vstbyDescent (s : State) : State :=
  let t := (s.logEv 454 5).descend 1 0
  { t with power := { t.power with vstby := false }, mc := { t.mc with uptime := 0, fullStart := 0 } }

theorem exec_vstbyLoss (hs : s.power.vstby = true) (hv : s.power.vmain = true) : exec .vstbyLoss s = .next s.vstbyDescent := by
  show execVstbyLoss s = _
  simp [execVstbyLoss, hs, hv, State.vstbyDescent]

theorem descended_vstbyDescent (s : State) : Descended s 1 s.vstbyDescent := descended_descend (s.logEv 454 5) 1 0

theorem exec_vstbyAbsent (hs : s.power.vstby = true) (hv : s.power.vmain = false) :
    exec .vstbyAbsent s = .next s.endAll.unpowered := by
  show execVstbyAbsent s = _
  simp [execVstbyAbsent, hs, hv]

/-- With the work ended and the always-on logic unpowered, every core is a generation on. -/
theorem endAll_unpowered_coreGen (hn : (s.cores.map fun e => e.1).Nodup) (c : Nat) :
    s.endAll.unpowered.coreGen c = s.coreGen c + 1 := by
  have h := workEnded_endAll s
  rw [unpowered_coreGen _ (h.keys hn), State.coreGen, h.gen, h.mc, ← State.coreGen]

end

theorem supplyEvents_claim : Claim.SupplyEvents := by
  rintro s down rfl
  refine ⟨fun hv hp he => ?_, fun hv he => ?_, fun hv => ?_, fun he => ?_, fun hs hv => ?_, fun hs hv => ?_, ?_, ?_⟩
  case refine_1 =>
    let u : State := { s with power := { s.power with mainPg := false } }
    exact ⟨_, exec_mainPgDeassert hv hp he, supplyFault_descended u 1, supplyFault_mainPg u 1, supplyFault_faultN u 1,
      supplyFault_halts u 1, supplyFault_keeps_stage u 1⟩
  case refine_2 => exact ⟨_, exec_vmainFault hv he, supplyFault_descended s 2, supplyFault_faultN s 2, supplyFault_halts s 2⟩
  case refine_3 => exact ⟨_, exec_vmainDip hv, rfl, rfl⟩
  case refine_4 => exact ⟨_, exec_vmainNotRemoved he, rfl, rfl⟩
  case refine_5 => exact ⟨_, exec_vstbyLoss hs hv, descended_vstbyDescent s, rfl, rfl⟩
  case refine_6 =>
    exact ⟨_, exec_vstbyAbsent hs hv, rfl, rfl, rfl, rfl, rfl, rfl, volatileLost_core s.endAll, volatileLost_bay s.endAll,
      endAll_unpowered_coreGen, (workEnded_endAll s).host⟩
  case refine_7 => exact ⟨_, rfl, rfl, rfl, rfl⟩
  case refine_8 => exact ⟨_, rfl, rfl, rfl⟩

/-! ### Module reset (R402, R451, R458) -/

theorem exec_resetModule {s : State} {id : Nat} {c : Cmd} (hc : s.cmdFor id 0x53 = some c) (hu : c.unused [(0x10, 1)] = [])
    (hq : c.at_ 0x10 1 ≤ 1) : exec (.resetModule id) s = .next ((s.finish id stOk).askReset (c.at_ 0x10 1 == 1)) := by
  obtain ⟨-, -, -, hid⟩ := cmdFor_some hc
  refine (onCmd_some hc _).trans ?_
  rw [hu, hid, flag, if_neg (by simpa using hq)]
  rfl

theorem exec_moduleResetStart {s : State} {q : Bool} (hq : s.power.resetPending = some q) (hr : s.power.rails = true) :
    exec .moduleResetStart s =
      .next { s.descend 1 1 with power := { (s.descend 1 1).power with resetPending := some q } } := by
  show Host.Outcome.next (moduleResetStart s) = _
  simp [moduleResetStart, hq, hr]

theorem exec_moduleResetStart_none {s : State} (hq : s.power.resetPending = none) : exec .moduleResetStart s = .next s := by
  show Host.Outcome.next (moduleResetStart s) = _
  simp [moduleResetStart, hq]

theorem exec_railsDownDone_none {s : State} (hd : s.power.descent = 0) : exec .railsDownDone s = .next s := by
  show Host.Outcome.next (railsDownDone s) = _
  simp [railsDownDone, hd]

/-- What a module reset leaves once the rails are down, before bring-up begins: the wake record is cleared too. -/
def State.lostForReset (s : State) : State := { s.volatileLost with pcie := { s.volatileLost.pcie with knock := 0 } }

theorem exec_railsDownDone_reset {s : State} (hd : s.power.descent ≠ 0) (ha : s.power.after = 1)
    (hok : s.slotOk 1 (nget 0 s.sec.active 1) = true) :
    ∃ t, exec .railsDownDone s = .next t ∧ StageOneBegun s.lostForReset t := by
  have hok' : s.lostForReset.slotOk 1 (nget 0 s.lostForReset.sec.active 1) = true := (volatileLost_slotOk s 1 _).trans hok
  have hne : offBringup ≠ offSupply := by decide
  have h := stage1_begins (s.power.resetPending.getD false) hok'
  refine ⟨_, ?_, (h.setCfld hne 32 16 (s.cfld offSupply 32 16)).setCfld hne 0 1 1⟩
  show Host.Outcome.next (railsDownDone s) = _
  rw [railsDownDone, if_neg hd, ha]
  rfl

/-- The module BOLTED once the rails are down. -/
def State.boltedDown (s : State) : State :=
  { s.volatileLost with power := { s.volatileLost.power with mainEn := false, vmain := false, mainPg := false, bolted := true } }

theorem exec_railsDownDone_bolted {s : State} (hd : s.power.descent ≠ 0) (ha : s.power.after = 0) (hs : s.power.vstby = true) :
    exec .railsDownDone s = .next s.boltedDown := by
  have hafter : s.volatileLost.power.after = 0 := ha
  show Host.Outcome.next (railsDownDone s) = _
  rw [railsDownDone, if_neg hd, ha]
  simp [hs, hafter, State.boltedDown]

theorem moduleReset_claim : Claim.ModuleReset := by
  refine fun s => ⟨fun id c u hc hu hq hcomp => ?_, fun q hq hr => ?_, exec_moduleResetStart_none, exec_railsDownDone_none,
    fun hd => ⟨fun ha _ hok => ?_, fun ha hs => ?_⟩⟩
  · rw [hcomp]
    exact exec_resetModule hc hu hq
  · obtain ⟨hdesc, hep, hcmds, hruns, hhost, hmem, -, -⟩ := descended_descend s 1 1
    exact ⟨_, exec_moduleResetStart hq hr, hep, hdesc, rfl, rfl, hcmds, hruns, hhost, hmem⟩
  · obtain ⟨t, he, h⟩ := exec_railsDownDone_reset hd ha hok
    exact ⟨t, he, h.stage, congrArg Power.rails h.power, congrArg Power.mainEn h.power, congrArg Power.descent h.power, h.mem, h.cmds,
      h.runs, h.regions, congrArg ImageState.image h.img, h.host⟩
  · exact ⟨_, exec_railsDownDone_bolted hd ha hs, rfl, rfl, rfl, rfl, rfl, rfl, rfl, rfl, volatileLost_core s, volatileLost_bay s,
      volatileLost_coreGen s⟩

/-- Settles O42: `Descended` says once what every descent leaves, `volatileLost` what is lost with the rails. -/
theorem supplies : Obligations.Supplies := ⟨supplyEvents_claim, moduleReset_claim⟩
end Sys2Proof.Machine
end

section
namespace Sys2Proof.Machine
open Sys2Proof

/-! SUPPORT. What the memory system does to the state: bays, HBM controllers and near-bank engines change device memory, their own
records, counters, the event log and open values, and nothing else. -/

/-- The state beside its memory system, as far as messages, runs, launches and letterboxes turn on it. -/
def State.aside (s : State) :
    (NMap Core × NMap Fn × List Cmd × List Run × NMap Region) × List Host.Cell × ImageState × NMap W64 × List Msg :=
  ((s.cores, s.fns, s.cmds, s.runs, s.regions), s.host, s.img, s.ctl, s.net)

@[simp] theorem aside_ite (c : Prop) [Decidable c] (a b : State) : (if c then a else b).aside = if c then a.aside else b.aside :=
  apply_ite ..

@[simp] theorem foldl_aside {α : Type} (f : State → α → State) (h : ∀ t a, (f t a).aside = t.aside) (l : List α) (s : State) :
    (l.foldl f s).aside = s.aside := List.foldlRecOn (motive := fun t : State => t.aside = s.aside) l f rfl fun _ ht a _ => (h _ a).trans ht

@[simp] theorem foldl_fst_aside {α β : Type} (f : State × β → α → State × β) (h : ∀ x a, (f x a).1.aside = x.1.aside)
    (l : List α) (x : State × β) : (l.foldl f x).1.aside = x.1.aside :=
  List.foldlRecOn (motive := fun y : State × β => y.1.aside = x.1.aside) l f rfl fun _ hy a _ => (h _ a).trans hy

section
variable (s : State)

/-! ### Counters, records and bytes -/

@[simp] theorem bump_aside (fam unit pos n : Nat) : (s.bump fam unit pos n).aside = s.aside := rfl
@[simp] theorem hbmCount_aside (off pos n : Nat) : (s.hbmCount off pos n).aside = s.aside := rfl
@[simp] theorem sill_aside (bay pos n : Nat) : (s.sill bay pos n).aside = s.aside := rfl
@[simp] theorem sillC_aside (bay pos cls n : Nat) : (s.sillC bay pos cls n).aside = s.aside := rfl
@[simp] theorem farBeats_aside (bay n : Nat) : (s.farBeats bay n).aside = s.aside := rfl
@[simp] theorem nbCount_aside (st pos n : Nat) : (s.nbCount st pos n).aside = s.aside := rfl
@[simp] theorem setBay_aside (n : Nat) (b : Bay) : (s.setBay n b).aside = s.aside := rfl
@[simp] theorem setChk_aside (off : Nat) (v : W32) : (s.setChk off v).aside = s.aside := rfl
@[simp] theorem memWrite_aside (off : Nat) (bs : List Byte) : (s.memWrite off bs).aside = s.aside := rfl
@[simp] theorem zeroRange_aside (off n : Nat) : (s.zeroRange off n).aside = s.aside := rfl
@[simp] theorem drew_aside : s.drew.aside = s.aside := rfl
@[simp] theorem logEv_aside (kind num : Nat) : (s.logEv kind num).aside = s.aside := rfl

theorem noteWrite_aside (owner off : Nat) (bs : List Byte) : (s.noteWrite owner off bs).aside = s.aside := by
  unfold State.noteWrite
  split
  · rfl
  · split <;> rfl

/-! ### Sectors of HBM -/

@[simp] theorem hbmPut_aside (off : Nat) (v : Byte) : (s.hbmPut off v).aside = s.aside := by
  unfold State.hbmPut
  dsimp only
  split
  · split <;> rfl
  · rfl

@[simp] theorem hbmFlip_aside (off : Nat) (x : Byte) : (s.hbmFlip off x).aside = s.aside := by
  unfold State.hbmFlip
  split
  · rfl
  · exact hbmPut_aside ..

@[simp] theorem sectorRead_aside (off : Nat) : (s.sectorRead off).1.aside = s.aside := by
  unfold State.sectorRead
  dsimp only
  split
  · rfl
  · split <;> simp

@[simp] theorem sectorPut_aside (off n : Nat) (poison : Bool) : (s.sectorPut off n poison).aside = s.aside := by
  simp [State.sectorPut]

@[simp] theorem hbmFetch_aside (off n : Nat) : (s.hbmFetch off n).1.aside = s.aside := by
  unfold State.hbmFetch
  refine foldl_fst_aside _ (fun x a => ?_) _ _
  exact sectorRead_aside ..

@[simp] theorem hbmWrite_aside (off : Nat) (bs : List Byte) : (s.hbmWrite off bs).aside = s.aside := by
  simp [State.hbmWrite]

/-! ### Lines of the bays -/

@[simp] theorem unmark_aside (bay : Nat) (l : Line) : (s.unmark bay l).aside = s.aside := by simp [State.unmark]
@[simp] theorem writeBack_aside (bay : Nat) (l : Line) : (s.writeBack bay l).aside = s.aside := by simp [State.writeBack]
@[simp] theorem flushLine_aside (bay : Nat) (l : Line) : (s.flushLine bay l).aside = s.aside := by simp [State.flushLine]

@[simp] theorem dropLine_aside (bay : Nat) (l : Line) : (s.dropLine bay l).aside = s.aside := by
  unfold State.dropLine
  dsimp only
  split <;> exact unmark_aside s bay l

@[simp] theorem dropCopiesOf_aside (ln : Nat) (p : Nat → Bool) : (s.dropCopiesOf ln p).aside = s.aside := by
  refine foldl_aside _ (fun t e => ?_) s.bays s
  split <;> simp

@[simp] theorem evictLine_aside (bay : Nat) (l : Line) : (s.evictLine bay l).aside = s.aside := by simp [State.evictLine]

@[simp] theorem makeRoom_aside (bay : Nat) (v : Option Line) : (s.makeRoom bay v).aside = s.aside := by
  cases v with
  | none => rfl
  | some l => exact evictLine_aside s bay l

@[simp] theorem allocLine_aside (bay : Nat) (new : Line) : (s.allocLine bay new).1.aside = s.aside := by
  unfold State.allocLine
  split <;> simp

@[simp] theorem hitLine_aside (bay : Nat) (l : Line) (cls : Nat) : (s.hitLine bay l cls).aside = s.aside := by simp [State.hitLine]

@[simp] theorem putRuns_aside (h : Nat) (l : Line) (runs : List (Nat × List Byte)) (writer : Option Nat) :
    (s.putRuns h l runs writer).1.aside = s.aside := by
  unfold State.putRuns
  extract_lets due other s1 s2
  refine (foldl_aside _ (fun t r => ?_) runs s2).trans ?_
  · rfl
  · unfold s2
    split <;> rfl

theorem aside_of_alloc {t u : State} {bay : Nat} {new : Line} {ok : Bool} (h : t.allocLine bay new = (u, ok)) : u.aside = t.aside := by
  simpa [h] using allocLine_aside t bay new

@[simp] theorem lineRuns_aside (ln : Nat) (runs : List (Nat × List Byte)) (cls : Nat) (writer : Option Nat) :
    (s.lineRuns ln runs cls writer).1.aside = s.aside := by
  have pass (t : State) : (runs.foldl (fun (x : State) r => x.hbmWrite r.1 r.2) t).aside = t.aside := by
    refine foldl_aside _ (fun x r => ?_) runs t
    exact hbmWrite_aside ..
  unfold State.lineRuns
  dsimp only
  split
  · simp
  · split_ifs
    · split <;> next e => simp [aside_of_alloc e, pass]
    · split <;> next e => simp [aside_of_alloc e, pass]
    · exact pass s

@[simp] theorem homeWrite_aside (off : Nat) (bs : List Byte) (cls : Nat) : (s.homeWrite off bs cls).1.aside = s.aside := by
  unfold State.homeWrite State.homeWriteBy
  refine foldl_fst_aside _ (fun x b => ?_) _ _
  exact lineRuns_aside ..

@[simp] theorem invalRange_aside (off n : Nat) (dropDirty : Bool) : (s.invalRange off n dropDirty).aside = s.aside := by
  refine foldl_aside _ (fun t e => foldl_aside _ (fun u l => ?_) e.2.lines t) s.bays s
  split_ifs <;> simp

@[simp] theorem hbmPutRange_aside (off : Nat) (bs : List Byte) : (s.hbmPutRange off bs).aside = s.aside := by
  simp [State.hbmPutRange]

/-! ### Ways of a bay -/

@[simp] theorem takeWay_aside (bay core kind idx cls : Nat) : (s.takeWay bay core kind idx cls).1.aside = s.aside := by
  unfold State.takeWay
  dsimp only
  split
  · rfl
  · split <;> simp

@[simp] theorem takeWays_aside (bay core kind cls : Nat) (idxs : List Nat) : (s.takeWays bay core kind cls idxs).1.aside = s.aside :=
  foldl_fst_aside _ (fun x i => by split <;> simp) idxs (s, true)

@[simp] theorem giveWays_aside (core kind : Nat) (p : Nat → Bool) : (s.giveWays core kind p).aside = s.aside := by
  unfold State.giveWays
  dsimp only
  split <;> rfl

@[simp] theorem syncRing_aside (c : Nat) : (s.syncRing c).aside = s.aside := giveWays_aside ..

/-! ### Engines of the near-bank stacks -/

@[simp] theorem fetchSectors_aside (offs : List Nat) : (s.fetchSectors offs).1.aside = s.aside := by
  unfold State.fetchSectors
  refine foldl_fst_aside _ (fun x k => ?_) _ _
  exact sectorRead_aside ..

@[simp] theorem nbLoad_aside (st : Nat) (o : NbOp) (act : Tensor) (kk : Nat) (toks : List Nat) :
    (s.nbLoad st o act kk toks).aside = s.aside := by
  refine foldl_aside _ (fun t b => ?_) _ s
  unfold State.nbLoadRow
  split
  · rfl
  · exact hbmFetch_aside ..

@[simp] theorem nbRow_aside (st : Nat) (o : NbOp) (w act out : Tensor) (toks : List Nat) (r : Nat) :
    (s.nbRow st o w act out toks r).aside = s.aside :=
  foldl_aside _ (fun t _ => foldl_aside _ (fun u _ => hbmPut_aside u ..) _ t.drew) toks s

@[simp] theorem nbSector_aside (st : Nat) (o : NbOp) (w act out : Tensor) (toks rows : List Nat) (dirty : Bool) :
    (s.nbSector st o w act out toks rows dirty).1.aside = s.aside := by
  simp [State.nbSector]

@[simp] theorem nbRun_aside (st : Nat) (o : NbOp) (w act out : Tensor) (toks rows : List Nat) (dirty : Bool) :
    (s.nbRun st o w act out toks rows dirty).1.aside = s.aside := by
  simp [State.nbRun]

@[simp] theorem nbStep_aside (st ch : Nat) (k : Kick) (q : NbSeq) (limit fuel op row used : Nat) (bad : Bool) :
    (nbStep st ch k q limit fuel op row used s bad).1.aside = s.aside := by
  induction fuel generalizing op row used s bad with
  | zero => rfl
  | succ fuel ih =>
    rw [nbStep]
    split
    · rfl
    · split
      · rfl
      · split
        · extract_lets toks rows kk wb cost fits upTo todo x r
          split
          · exact ih ..
          · have hr : r.1.aside = s.aside := by
              unfold r
              split
              · rfl
              · exact (nbRun_aside ..).trans (nbLoad_aside ..)
            clear_value r
            split
            · exact hr
            · exact (ih ..).trans hr
        · exact ih ..

theorem refreshAll_aside (unit : Nat) : (s.refreshAll unit).aside = s.aside := rfl

@[simp] theorem nbFinish_aside (st : Nat) : (s.nbFinish st).1.aside = s.aside := by
  refine foldl_fst_aside _ (fun x ch => ?_) _ _
  unfold State.nbEndStep
  split
  · rfl
  · split
    · rfl
    · dsimp only
      split
      · rfl
      · refine (refreshAll_aside ..).trans ((nbStep_aside ..).trans ?_)
        split <;> rfl

end

theorem core_of_aside {s t : State} (h : t.aside = s.aside) (c : Nat) : t.core c = s.core c := by
  have hc : t.cores = s.cores := congrArg (fun x => x.1.1) h
  simp only [State.core, hc]

/-! ### The letterboxes and the network, which the end of runs leaves -/

/-- Functions, commands, regions and the network. -/
def State.desk (s : State) : NMap Fn × List Cmd × NMap Region × List Msg := (s.fns, s.cmds, s.regions, s.net)

theorem desk_of_aside {s t : State} (h : t.aside = s.aside) : t.desk = s.desk := by
  have hf : t.fns = s.fns := congrArg (fun x => x.1.2.1) h
  have hc : t.cmds = s.cmds := congrArg (fun x => x.1.2.2.1) h
  have hr : t.regions = s.regions := congrArg (fun x => x.1.2.2.2.2) h
  have hn : t.net = s.net := congrArg (fun x => x.2.2.2.2) h
  simp only [State.desk, hf, hc, hr, hn]

theorem desk_net {s t : State} (h : t.desk = s.desk) : t.net = s.net := congrArg (fun x => x.2.2.2) h

@[simp] theorem foldl_desk {α : Type} (f : State → α → State) (h : ∀ t a, (f t a).desk = t.desk) (l : List α) (s : State) :
    (l.foldl f s).desk = s.desk := List.foldlRecOn (motive := fun t : State => t.desk = s.desk) l f rfl fun _ ht a _ => (h _ a).trans ht

section
variable (s : State)

@[simp] theorem modCore_desk (c : Nat) (f : Core → Core) : (s.modCore c f).desk = s.desk := rfl
@[simp] theorem setCore_desk (c : Nat) (k : Core) : (s.setCore c k).desk = s.desk := rfl
@[simp] theorem modRun_desk (r : Nat) (f : Run → Run) : (s.modRun r f).desk = s.desk := rfl
@[simp] theorem setNb_desk (st : Nat) (x : NbStack) : (s.setNb st x).desk = s.desk := rfl
@[simp] theorem bump_desk (fam unit pos n : Nat) : (s.bump fam unit pos n).desk = s.desk := rfl

@[simp] theorem advanceSlots_desk (c : Nat) (p : Slot → Bool) : (s.advanceSlots c p).desk = s.desk := by
  unfold State.advanceSlots
  refine foldl_desk _ (fun t i => ?_) _ _
  dsimp only
  split <;> rfl

@[simp] theorem stopCore_desk (c : Nat) : (s.stopCore c).desk = s.desk := by
  unfold State.stopCore
  rw [modCore_desk, advanceSlots_desk]

@[simp] theorem dropSeq_desk (run st : Nat) : (s.dropSeq run st).desk = s.desk := by
  have hf : (s.nbFinish st).1.desk = s.desk := desk_of_aside (nbFinish_aside ..)
  unfold State.dropSeq
  split
  · dsimp only
    split_ifs <;> simp [hf]
  · rfl

@[simp] theorem stopNb_desk (run : Nat) : (s.stopNb run).desk = s.desk := by
  unfold State.stopNb
  dsimp only
  split
  · rw [foldl_desk _ (fun t c => modCore_desk t c _), foldl_desk _ (fun t st => dropSeq_desk t run st)]
  · rw [foldl_desk _ (fun t st => dropSeq_desk t run st)]

@[simp] theorem nbIdle_desk (st : Nat) : (s.nbIdle st).desk = s.desk := by
  unfold State.nbIdle
  split <;> rfl

@[simp] theorem stopRun_desk (run status : Nat) : (s.stopRun run status).desk = s.desk := by simp [State.stopRun]

@[simp] theorem abortOne_desk (g cause : Nat) : (s.abortOne g cause).desk = s.desk := by
  unfold State.abortOne
  dsimp only
  split <;> rfl

@[simp] theorem abortGroup_desk (g cause : Nat) : (s.abortGroup g cause).desk = s.desk := by
  have hall (x : SpecGroup) : ((List.range 32).foldl (fun st i => if (st.group i).run = x.run then st.abortOne i cause else st) s).desk
      = s.desk := by
    refine foldl_desk _ (fun t i => ?_) _ _
    split
    · exact abortOne_desk ..
    · rfl
  unfold State.abortGroup
  dsimp only
  split
  · split
    · exact abortOne_desk ..
    · split
      · split
        · rw [stopRun_desk, modRun_desk, hall]
        · rw [modRun_desk, hall]
      · exact hall _
  · rfl

end

end Sys2Proof.Machine
end

section
namespace Sys2Proof.Machine
open Sys2Proof

/-! SUPPORT. What MSG.SEND, MSG.RECV and MSG.POLL do once their checks pass, and how a message passes the network. -/

/-! ### Messages sent (R87, R88) -/

/-- The message that MSG.SEND of a core outside an epoch makes of len bytes at a scratchpad offset. -/
def State.newMsg (s : State) (c dest off len : Nat) (tag : BitVec 16) : Msg :=
  { srcVcore := (s.core c).vc, srcModule := s.moduleId, dstVcore := dest % 32768, dstModule := dest / 65536, tag := tag,
    payload := s.localRead c 1 c off len, bad := s.localBad 1 c off len, after := (s.core c).seq, from_ := c + 1 }

theorem newMsg_fields (s : State) (c dest off len : Nat) (tag : BitVec 16) :
    (s.newMsg c dest off len tag).srcVcore = (s.core c).vc ∧ (s.newMsg c dest off len tag).srcModule = s.moduleId ∧
    (s.newMsg c dest off len tag).dstVcore = dest % 2 ^ 15 ∧ (s.newMsg c dest off len tag).dstModule = dest / 2 ^ 16 ∧
    (s.newMsg c dest off len tag).tag = tag ∧ (s.newMsg c dest off len tag).payload = s.localRead c 1 c off len ∧
    (s.newMsg c dest off len tag).prov = 0 := ⟨rfl, rfl, rfl, rfl, rfl, rfl, rfl⟩

/-- A core that has put a message into its send buffer. -/
def Core.sends (k : Core) (m : Msg) : Core := { k with send := k.send ++ [m], seq := k.seq + 1 }

theorem sendFault_bad {spad dest off len : Nat} (h : dest / 2 ^ 28 ≠ 0 ∨ dest / 2 ^ 15 % 2 = 1 ∨ 240 < len ∨ len % 16 ≠ 0) :
    sendFault spad dest off len = some (0x04, 0) := if_pos h

theorem sendFault_good {spad dest off len : Nat} (h1 : dest / 2 ^ 28 = 0) (h2 : dest / 2 ^ 15 % 2 = 0) (h3 : len ≤ 240) (h4 : len % 16 = 0)
    (h5 : off % 16 = 0) (h6 : len = 0 ∨ off + len ≤ spad) : sendFault spad dest off len = none := by
  unfold sendFault
  rw [if_neg (by simp only [bitsN]; omega), if_neg (by omega), if_neg (by omega)]

theorem msgSend_legal {c : Nat} {f : FormA} (hu : usesA f false true true true false false true = true) (h1 : f.src1.toNat < 32)
    (h2 : f.src2.toNat < 32) (h3 : f.src3.toNat < 32) :
    (usesA f false true true true false false true && regOk (.core c) f.src1 && regOk (.core c) f.src2 && regOk (.core c) f.src3) = true := by
  simp [hu, regOk, h1, h2, h3]

section
variable {s : State} {c : Nat} {f : FormA} (h : ScalarReady s c f.pred f.pneg)
  (hu : usesA f false true true true false false true = true) (h1 : f.src1.toNat < 32) (h2 : f.src2.toNat < 32) (h3 : f.src3.toNat < 32)
  {dest off len : Nat} (hd : dest = ((s.core c).sreg f.src1.toNat).toNat) (ho : off = ((s.core c).sreg f.src2.toNat).toNat)
  (hn : len = ((s.core c).sreg f.src3.toNat).toNat)
include h hu h1 h2 h3 hd ho hn

theorem exec_msgSend_fault {cause addr : Nat} (hf : sendFault (s.core c).spadSize dest off len = some (cause, addr)) :
    exec (.msgSend (.core c) f) s = .next (s.trap c cause addr) := by
  subst hd ho hn
  change execMsgSend (.core c) f s = _
  unfold execMsgSend
  rw [issueScalar_core h (msgSend_legal (c := c) hu h1 h2 h3)]
  simp only [hf]

theorem exec_msgSend_good (hf : sendFault (s.core c).spadSize dest off len = none) (he : (s.core c).epoch = 0)
    (hw : s.mustWait c (.spad c off) len false = false) :
    exec (.msgSend (.core c) f) s = .next (if 4 ≤ (s.core c).send.length then s.stallAt c 6
      else s.modCore c fun k => (k.sends (s.newMsg c dest off len f.mod)).retire) := by
  subst hd ho hn
  change execMsgSend (.core c) f s = _
  unfold execMsgSend
  rw [issueScalar_core h (msgSend_legal (c := c) hu h1 h2 h3)]
  simp only [hf, he, hw, modCore_modCore, ne_eq, not_true_eq_false, decide_false, Bool.false_and, Bool.false_eq_true, if_false]
  rfl

end

theorem retires_sends (k : Core) (m : Msg) : Retires k (k.sends m).retire (k.pc + 8) := retires_retire rfl rfl rfl

theorem sends_retire_rest (k : Core) (m : Msg) :
    { (k.sends m).retire with send := k.send, seq := k.seq, pc := k.pc, csr := k.csr, stall := k.stall, icache := k.icache } = k := by
  cases k; rfl

theorem sends_retire_send (k : Core) (m : Msg) : (k.sends m).retire.send = k.send ++ [m] := rfl

theorem messageSend_claim : Claim.MessageSend := by
  intro s c f dest off len h hu h1 h2 h3 hd ho hn
  refine ⟨fun hb => exec_msgSend_fault h hu h1 h2 h3 hd ho hn (sendFault_bad hb), fun g1 g2 g3 g4 g5 g6 he hw => ?_⟩
  have hx := exec_msgSend_good h hu h1 h2 h3 hd ho hn (sendFault_good g1 g2 g3 g4 g5 g6) he hw
  refine ⟨fun hroom => ?_, fun hfull => ?_⟩
  · rw [if_neg (Nat.not_le.2 hroom)] at hx
    obtain ⟨hsv, hsm, hdv, hdm, htag, hpay, hprov⟩ := newMsg_fields s c dest off len f.mod
    generalize s.newMsg c dest off len f.mod = m at hx hsv hsm hdv hdm htag hpay hprov
    refine ⟨_, m, hx, onlyCore_modCore .., ?_⟩
    rw [State.core_modCore_same]
    exact ⟨sends_retire_send .., hsv, hsm, hdv, hdm, htag, hpay, hprov, retires_sends .., sends_retire_rest ..⟩
  · rw [if_pos hfull] at hx
    refine ⟨_, hx, onlyCore_modCore .., ?_⟩
    rw [State.stallAt, State.core_modCore_same]

/-! ### Messages received (R84, R87, R89, R91) -/

/-- A core whose message queues alone have changed. -/
def Core.QueuesMoved (k k' : Core) : Prop :=
  k' = { k with rxq := k'.rxq, overflow := k'.overflow, ringHead := k'.ringHead, spill := k'.spill }

theorem queuesMoved_of {k : Core} {rx ov sp : List Msg} {rh : Nat} :
    k.QueuesMoved { k with rxq := rx, overflow := ov, ringHead := rh, spill := sp } := rfl

theorem Core.QueuesMoved.trans {k k' k'' : Core} (h : k.QueuesMoved k') (h' : k'.QueuesMoved k'') : k.QueuesMoved k'' := by
  unfold Core.QueuesMoved at *
  rw [h', h]

/-- Two states whose cores are equal but for the message queues of core c. -/
structure QueuesOf (s t : State) (c : Nat) : Prop where
  self : (s.core c).QueuesMoved (t.core c)
  others : ∀ x, x ≠ c → t.core x = s.core x

theorem QueuesOf.trans {s t u : State} {c : Nat} (h : QueuesOf s t c) (h' : QueuesOf t u c) : QueuesOf s u c :=
  ⟨h.self.trans h'.self, fun x hx => (h'.others x hx).trans (h.others x hx)⟩

theorem queuesOf_aside {s t : State} (c : Nat) (h : t.aside = s.aside) : QueuesOf s t c :=
  ⟨by rw [core_of_aside h]; rfl, fun x _ => core_of_aside h x⟩

theorem queuesOf_modCore (s : State) (c : Nat) (f : Core → Core) (h : (s.core c).QueuesMoved (f (s.core c))) :
    QueuesOf s (s.modCore c f) c :=
  ⟨by rw [State.core_modCore_same]; exact h, fun x hx => State.core_modCore_ne s f hx⟩

theorem queuesOf_intoRing (s : State) (c : Nat) (m : Msg) : QueuesOf s (s.intoRing c m).1 c := by
  unfold State.intoRing
  dsimp only
  split_ifs
  · exact queuesOf_aside c rfl
  · refine (queuesOf_aside c (takeWays_aside ..)).trans ((queuesOf_modCore _ c _ ?_).trans (queuesOf_aside c (bump_aside ..)))
    exact queuesMoved_of
  · exact queuesOf_aside c ((giveWays_aside ..).trans (takeWays_aside ..))

theorem queuesOf_takeHead (s : State) (c : Nat) : QueuesOf s (s.takeHead c) c := by
  unfold State.takeHead
  extract_lets s1
  have h1 : QueuesOf s s1 c := by
    unfold s1
    split
    · exact (queuesOf_modCore s c _ queuesMoved_of).trans (queuesOf_aside c (syncRing_aside ..))
    · exact queuesOf_modCore s c _ queuesMoved_of
  clear_value s1
  split
  · refine h1.trans ?_
    dsimp only
    split
    · exact (queuesOf_intoRing ..).trans (queuesOf_modCore _ c _ queuesMoved_of)
    · exact queuesOf_intoRing ..
  · exact h1

theorem takeHead_empty {s : State} {c : Nat} (ho : (s.core c).overflow = []) (hs : (s.core c).spill = []) :
    s.takeHead c = s.modCore c fun k => { k with rxq := k.rxq.drop 1 } := by
  unfold State.takeHead
  simp only [ho, State.core_modCore_same, hs]

theorem takeHead_ring {s : State} {c : Nat} {o : Msg} {os : List Msg} (ho : (s.core c).overflow = o :: os)
    (hs : (s.core c).spill = []) : s.takeHead c = (s.modCore c fun k => { k with
      rxq := k.rxq.drop 1 ++ [o], overflow := os, ringHead := (k.ringHead + msgBytes o) % 65536 }).syncRing c := by
  unfold State.takeHead
  simp only [ho, core_of_aside (syncRing_aside ..), State.core_modCore_same, hs]

theorem syncRing_eq (s : State) (c : Nat) : ∃ bays, s.syncRing c = { s with bays := bays } := by
  unfold State.syncRing State.giveWays
  dsimp only
  split
  · exact ⟨s.bays, rfl⟩
  · exact ⟨_, rfl⟩

/-- An ordinary store into the scratchpad of a core, with its journal's copies. -/
def Core.spadStore (k : Core) (off : Nat) (bs : List Byte) : Core :=
  { k with spad := wrBytes k.spad off bs,
           spadBad := k.spadBad.filter fun w => decide (8 * w < off) || decide (off + bs.length < 8 * w + 8),
           journal := k.journal.map fun j => j.written 0 1 off bs }

theorem localWrite_spad (s : State) (writer c off : Nat) (bs : List Byte) :
    s.localWrite writer 0 1 c off bs = s.modCore c fun k => k.spadStore off bs := by
  unfold State.localWrite State.localStore
  simp only [ne_eq, not_true_eq_false, false_and, if_false, if_true, modCore_modCore]
  rfl

/-- A core that has taken message m into its scratchpad at off, its first header bytes into s[d]. -/
def Core.receives (k : Core) (m : Msg) (off d : Nat) : Core :=
  ((((l1Invalidate k).bumpCsr 0x03A 1).spadStore off (msgImage m)).setS d (msgHead m)).retire

theorem exec_msgRecv {s : State} {c off : Nat} {f : FormA} {m : Msg} {r : List Msg} (h : ScalarReady s c f.pred f.pneg)
    (hl : (s.core c).lost = false) (hu : usesA f true true false false false false false = true) (hd : f.dst.toNat < 32)
    (h1 : f.src1.toNat < 32) (ho : off = ((s.core c).sreg f.src1.toNat).toNat) (ha : off % 16 = 0) (hq : (s.core c).rxq = m :: r)
    (hfit : off + 16 + m.payload.length ≤ (s.core c).spadSize) (hb : m.bad = false) (he : (s.core c).epoch = 0)
    (hw : s.mustWait c (.spad c off) (16 + m.payload.length) true = false) :
    exec (.msgRecv (.core c) f) s = .next ((s.takeHead c).modCore c fun k => k.receives m off f.dst.toNat) := by
  have hlegal : (usesA f true true false false false false false && regOk (.core c) f.dst && regOk (.core c) f.src1) = true := by
    simp [hu, regOk, hd, h1]
  subst ho
  change execMsgRecv (.core c) f s = _
  unfold execMsgRecv
  rw [issueScalar_core h hlegal]
  have hsz : msgBytes m = 16 + m.payload.length := rfl
  simp only [hl, hq, hb, he, hsz, hw, Bool.false_eq_true, if_false, ne_eq, not_true_eq_false, decide_false, Bool.false_and,
    localWrite_spad, State.retireWith, modCore_modCore]
  rw [if_neg (by omega), if_neg (by omega), if_neg (by omega)]
  rfl

theorem receives_pc (k : Core) (m : Msg) (off d : Nat) : (k.receives m off d).pc = k.pc + 8 := by
  unfold Core.receives
  rw [Core.retire_pc, Core.setS_pc]
  rfl

theorem receives_writesS (k : Core) (m : Msg) (off d : Nat) : WritesS k (k.receives m off d) d (msgHead m) :=
  writesS_setS (((l1Invalidate k).bumpCsr 0x03A 1).spadStore off (msgImage m)) d (msgHead m)

theorem receives_count (k : Core) (m : Msg) (off d : Nat) :
    (k.receives m off d).csrReg 0x03A = sat64 ((k.csrReg 0x03A).toNat + 1) := by
  unfold Core.receives
  rw [csrReg_retire, if_neg (by decide), if_neg (by decide), Core.csrReg_of_csr (Core.setS_csr ..)]
  change (((l1Invalidate k).bumpCsr 0x03A 1)).csrReg 0x03A = _
  rw [Core.bumpCsr, Core.csrReg_setCsr, if_pos rfl]
  rfl

/-- A write to a scalar register leaves the core's memory and message queues. -/
theorem setS_memory (k : Core) (d : Nat) (v : W64) : (k.setS d v).spad = k.spad ∧ (k.setS d v).l1 = k.l1 ∧
    (k.setS d v).rxq = k.rxq ∧ (k.setS d v).overflow = k.overflow := by
  unfold Core.setS
  split <;> exact ⟨rfl, rfl, rfl, rfl⟩

theorem receives_memory (k : Core) (m : Msg) (off d : Nat) : (k.receives m off d).spad = wrBytes k.spad off (msgImage m) ∧
    (k.receives m off d).l1 = (k.l1.filter fun x => x.space == 2) ∧ (k.receives m off d).rxq = k.rxq ∧
    (k.receives m off d).overflow = k.overflow := by
  obtain ⟨hs, hl, hq, ho⟩ := setS_memory (((l1Invalidate k).bumpCsr 0x03A 1).spadStore off (msgImage m)) d (msgHead m)
  unfold Core.receives
  rw [Core.retire_spad, Core.retire_l1, Core.retire_rxq, Core.retire_overflow, hs, hl, hq, ho]
  simp [Core.spadStore, l1Invalidate]

/-! ### The bytes of a message (R87) -/

theorem leBytes_getD (n v i : Nat) (h : i < n) : (leBytes n v).getD i 0 = BitVec.ofNat 8 (v / 2 ^ (8 * i)) := by
  induction n generalizing v i with
  | zero => omega
  | succ n ih =>
    cases i with
    | zero => simp [leBytes]
    | succ i =>
      have hp : (2 : Nat) ^ (8 * (i + 1)) = 256 * 2 ^ (8 * i) := by rw [Nat.mul_succ, Nat.pow_add, Nat.mul_comm]
      rw [leBytes, List.getD_cons_succ, ih _ _ (by omega), hp, Nat.div_div_eq_div_mul]

theorem leBytes_word_getD (w : W64) (i : Nat) (h : i < 8) : (leBytes 8 w.toNat).getD i 0 = w.extractLsb' (8 * i) 8 := by
  rw [leBytes_getD 8 _ i h]
  refine BitVec.eq_of_toNat_eq ?_
  simp [Nat.shiftRight_eq_div_pow]

theorem msgImage_length (m : Msg) : (msgImage m).length = 16 + m.payload.length := by
  simp only [msgImage, List.length_append, leBytes_length, zeros, List.length_replicate]

theorem msgImage_getD (m : Msg) (i : Nat) : (msgImage m).getD i 0 =
    if i < 8 then (msgHead m).extractLsb' (8 * i) 8 else if i < 16 then 0 else m.payload.getD (i - 16) 0 := by
  unfold msgImage
  split_ifs with h8 h16
  · rw [List.append_assoc, List.getD_append _ _ _ _ (by rw [leBytes_length]; exact h8), leBytes_word_getD _ _ h8]
  · rw [List.append_assoc, List.getD_append_right _ _ _ _ (by rw [leBytes_length]; omega),
      List.getD_append _ _ _ _ (by simp only [leBytes_length, zeros, List.length_replicate]; omega), leBytes_length, zeros,
      List.getD_replicate _ (by omega)]
  · rw [List.getD_append_right _ _ _ _ (by simp [leBytes_length, zeros]; omega)]
    simp [leBytes_length, zeros]

theorem receives_spadAt (k : Core) (m : Msg) (off d a : Nat) : nget 0 (k.receives m off d).spad a =
    if off ≤ a ∧ a < off + 16 + m.payload.length then
      (if a < off + 8 then (msgHead m).extractLsb' (8 * (a - off)) 8 else if a < off + 16 then 0 else m.payload.getD (a - off - 16) 0)
    else nget 0 k.spad a := by
  rw [(receives_memory k m off d).1, nget_wrBytes, msgImage_length, msgImage_getD, ← Nat.add_assoc]
  by_cases h : off ≤ a ∧ a < off + 16 + m.payload.length
  · rw [if_pos h, if_pos h]
    exact if_congr (by omega) rfl (if_congr (by omega) rfl rfl)
  · rw [if_neg h, if_neg h]

/-! ### MSG.RECV and MSG.POLL -/

theorem exec_msgPoll {s : State} {c : Nat} {f : FormA} (h : ScalarReady s c f.pred f.pneg) (hl : (s.core c).lost = false)
    (hu : usesA f true false false false false false false = true) (hd : f.dst.toNat < 8) (hp : f.dst.toNat ∉ (s.core c).pPending) :
    exec (.msgPoll (.core c) f) s = .next (s.modCore c fun k => (k.setP f.dst.toNat (!k.rxq.isEmpty)).retire) := by
  have hlegal : (usesA f true false false false false false false && predOk f.dst) = true := by simp [hu, predOk, hd]
  change execMsgPoll (.core c) f s = _
  unfold execMsgPoll
  rw [issueScalar_core h hlegal, whenFree_free (by simpa using hp) (by simp)]
  simp only [hl, Bool.false_eq_true, if_false]
  rfl

theorem msgPoll_claim {s : State} {c : Nat} {f : FormA} (h : ScalarReady s c f.pred f.pneg) (hl : (s.core c).lost = false)
    (hu : usesA f true false false false false false false = true) (hd : f.dst.toNat < 8) (hp : f.dst.toNat ∉ (s.core c).pPending) :
    ∃ t, exec (.msgPoll (.core c) f) s = .next t ∧ OnlyCore s t c ∧
      WritesP (s.core c) (t.core c) f.dst.toNat (decide ((s.core c).rxq ≠ [])) ∧ Retires (s.core c) (t.core c) ((s.core c).pc + 8) ∧
      { t.core c with p := (s.core c).p, pc := (s.core c).pc, csr := (s.core c).csr, stall := (s.core c).stall,
                      icache := (s.core c).icache } = s.core c := by
  refine ⟨_, exec_msgPoll h hl hu hd hp, onlyCore_modCore .., ?_⟩
  have hq : decide ((s.core c).rxq ≠ []) = !(s.core c).rxq.isEmpty := by cases (s.core c).rxq <;> rfl
  rw [State.core_modCore_same, hq]
  generalize s.core c = k
  refine ⟨fun n => writesP_setP k _ _ n, ?_, setP_rest ..⟩
  have hr : ∀ b : Bool, Retires k (k.setP f.dst.toNat b).retire (k.pc + 8) := fun b => by
    unfold Core.setP
    split <;> exact retires_retire rfl rfl rfl
  exact hr _

/-- What the message queues of a core are after MSG.RECV, where none of its messages was spilled. -/
theorem takeHead_ring_self {s : State} {c : Nat} {o : Msg} {os : List Msg} (ho : (s.core c).overflow = o :: os)
    (hs : (s.core c).spill = []) : ((s.takeHead c).core c).rxq = (s.core c).rxq.drop 1 ++ [o] ∧ ((s.takeHead c).core c).overflow = os := by
  rw [takeHead_ring ho hs, core_of_aside (syncRing_aside ..), State.core_modCore_same]
  exact ⟨rfl, rfl⟩

theorem takeHead_ring_rest {s : State} {c : Nat} {o : Msg} {os : List Msg} (ho : (s.core c).overflow = o :: os)
    (hs : (s.core c).spill = []) : { s.takeHead c with cores := s.cores, bays := s.bays } = s := by
  obtain ⟨bays, hb⟩ := syncRing_eq (s.modCore c fun k => { k with
    rxq := k.rxq.drop 1 ++ [o], overflow := os, ringHead := (k.ringHead + msgBytes o) % 65536 }) c
  rw [takeHead_ring ho hs, hb]
  rfl

theorem messageReceive_claim : Claim.MessageReceive := by
  intro s c f h hl
  refine ⟨fun off m r hu hd h1 ho ha hq hfit hb he hw => ?_, msgPoll_claim h hl⟩
  have hx := exec_msgRecv h hl hu hd h1 ho ha hq hfit hb he hw
  have hqs := queuesOf_takeHead s c
  refine ⟨_, msgHead m, hx, rfl, ?_⟩
  have hk := hqs.self
  rw [State.core_modCore_same]
  obtain ⟨-, hl1, hrx, hov⟩ := receives_memory ((s.takeHead c).core c) m off f.dst.toNat
  refine ⟨?_, fun a => ?_, fun he hs => ⟨?_, ?_⟩, fun o os he hs => ⟨?_, ?_, ?_⟩, ?_, ?_, ?_, fun x hxc => ?_⟩
  · intro n
    rw [receives_writesS _ m off _ n]
    rw [hk]; rfl
  · rw [receives_spadAt, hk]
  · rw [hrx, takeHead_empty he hs, State.core_modCore_same]
    simp [hq]
  · rw [takeHead_empty he hs]
    rfl
  · rw [hrx, (takeHead_ring_self he hs).1, hq]
    rfl
  · rw [hov, (takeHead_ring_self he hs).2]
  · exact takeHead_ring_rest he hs
  · rw [receives_pc, hk]
  · rw [receives_count, hk]
    rfl
  · rw [hl1, hk]
  · rw [State.core_modCore_ne _ _ hxc, hqs.others x hxc]

/-! ### Messages into the network and out of it (R42, R43, R88, R90) -/

theorem storesBefore_of_done {s : State} {c : Nat} (h : s.storesDone c = true) (after : Nat) : s.storesBefore c after = true := by
  simp only [State.storesDone, Bool.and_eq_true, List.isEmpty_iff, Bool.not_eq_true', List.any_eq_false] at h
  obtain ⟨⟨hst, hmq⟩, hv⟩ := h
  simp only [State.storesBefore, hst, List.all_nil, Bool.true_and, Bool.and_eq_true, List.all_eq_true, Bool.or_eq_true]
  refine ⟨fun o ho => .inl ?_, fun v hx => .inl ?_⟩
  · simpa using hmq o ho
  · simpa using hv v hx

/-- A core whose send buffer keeps r, with the message before it counted in MSG_SENT. -/
def Core.injected (r : List Msg) (k : Core) : Core := ({ k with send := r } : Core).bumpCsr 0x039 1

theorem exec_msgInject {s : State} {c : Nat} {m : Msg} {r : List Msg} (hu : Unit.core c = true) (hq : (s.core c).send = m :: r)
    (hd : s.storesDone c = true) (hr : s.releasing (s.core c) = false) (ho : (s.part (partOf c)).door = .open_)
    (hm : m.dstModule = s.moduleId) : exec (.msgInject c) s =
      .next { s.modCore c (Core.injected r) with net := s.net ++ [m] } := by
  change onUnit (Unit.core c) (msgInject c s) = _
  unfold msgInject
  simp only [hq, storesBefore_of_done hd, hr, ho, hm, hu, onUnit, Bool.not_true, Bool.or_false, ne_eq, not_true_eq_false, decide_false,
    Bool.false_eq_true, if_false, if_true, or_true]
  rfl

theorem bumpCsr_self (k : Core) (n x : Nat) : (k.bumpCsr n x).csrReg n = sat64 ((k.csrReg n).toNat + x) := by
  rw [Core.bumpCsr, Core.csrReg_setCsr, if_pos rfl]

theorem msgInject_claim {s : State} {c : Nat} (m : Msg) (r : List Msg) (hu : Unit.core c = true) (hq : (s.core c).send = m :: r)
    (hd : s.storesDone c = true) (hr : s.releasing (s.core c) = false) (ho : (s.part (partOf c)).door = .open_)
    (hm : m.dstModule = s.moduleId) : ∃ t, exec (.msgInject c) s = .next t ∧ t.net = s.net ++ [m] ∧ (t.core c).send = r ∧
      (t.core c).csrReg 0x039 = sat64 (((s.core c).csrReg 0x039).toNat + 1) ∧
      { t.core c with send := (s.core c).send, csr := (s.core c).csr } = s.core c ∧
      (∀ x, x ≠ c → t.core x = s.core x) ∧ SameMemory s t ∧ { t with cores := s.cores, net := s.net } = s := by
  refine ⟨_, exec_msgInject hu hq hd hr ho hm, rfl, ?_⟩
  have hk : ({ s.modCore c (Core.injected r) with net := s.net ++ [m] } : State).core c = Core.injected r (s.core c) :=
    State.core_modCore_same (s := s) c _
  rw [hk]
  exact ⟨rfl, bumpCsr_self .., rfl, fun x hx => State.core_modCore_ne s _ hx, fun _ => rfl, rfl⟩

/-- A message in flight that no older one of its pair precedes, and whose epoch does not abort, is delivered. -/
theorem msgArrival_delivers {s : State} {i : Nat} {m : Msg} (hi : s.net[i]? = some m)
    (hold : ∀ x ∈ s.net.take i, x.srcVcore ≠ m.srcVcore ∨ x.dstVcore ≠ m.dstVcore) (he : s.epState m.prov ≠ .aborting)
    {t : State} (ht : ({ s with net := s.net.take i ++ s.net.drop (i + 1) } : State).deliverMsg m = some t) :
    exec (.msgArrival (.net i)) s = .next t := by
  have hnone : (s.net.take i).any (fun x => x.srcVcore == m.srcVcore && x.dstVcore == m.dstVcore) = false := by
    simp only [List.any_eq_false, Bool.and_eq_true, beq_iff_eq, not_and]
    intro x hx h1 h2
    exact (hold x hx).elim (· h1) (· h2)
  change Host.Outcome.next (msgArrival (.net i) s) = _
  unfold msgArrival
  simp only [hi, hnone, he, ht, decide_false, Bool.or_false, Bool.false_eq_true, if_false]

/-- A message that waits for nothing is received by the core that carries its receiver. -/
theorem deliverMsg_receives {s : State} {c : Nat} {m : Msg} {im : Image} (hi : s.img.image = some im) (hp : s.placed m.dstVcore = some c)
    (hd : (s.part (partOf c)).door = .open_) (hh : (s.part (partOf c)).hold = []) (ha : s.asleep (partOf c) = false) :
    s.deliverMsg m = some (s.receive c m) := by
  unfold State.deliverMsg
  simp [hi, hp, hd, hh, ha]

/-- A message for a virtual core that no core carries is counted at its sender. -/
theorem deliverMsg_unplaced {s : State} {c : Nat} {m : Msg} (hp : s.placed m.dstVcore = none) (hm : m.srcModule = s.moduleId)
    (hs : s.placed m.srcVcore = some c) : s.deliverMsg m = some (s.modCore c fun k => k.bumpCsr 0x03B 1) := by
  unfold State.deliverMsg State.msgError
  simp [hp, hm, hs]

theorem receive_queue {s : State} {c : Nat} (m : Msg) (ho : (s.core c).overflow = []) (hs : (s.core c).spill = [])
    (hq : (s.core c).rxq.length < 16) : s.receive c m = (s.ungate c).setCore c { s.core c with rxq := (s.core c).rxq ++ [m] } := by
  have hc : (s.ungate c).core c = s.core c := rfl
  unfold State.receive
  simp [hc, ho, hs, hq]

theorem receive_ring {s : State} {c : Nat} (m : Msg) (ho : (s.core c).overflow = []) (hs : (s.core c).spill = [])
    (hq : 16 ≤ (s.core c).rxq.length) (hr : ((s.ungate c).intoRing c m).2 = true) : s.receive c m = ((s.ungate c).intoRing c m).1 := by
  have hc : (s.ungate c).core c = s.core c := rfl
  unfold State.receive
  simp [hc, ho, hs, hr, Nat.not_lt.2 hq]

/-! ### Ways of a bay whose sets are empty (R207, R228, R230) -/

/-- A bay that holds n ways of rings, journals and held outputs, and no line. -/
structure Bay.OnlyWays (b : Bay) (n : Nat) : Prop where
  lines : b.lines = []
  prov : b.prov = []
  ways : b.ways.length = n

theorem fixedWays_le {s : State} {bay n : Nat} (h : (s.bay bay).OnlyWays n) (st : Nat) : s.fixedWays bay st ≤ n := by
  unfold State.fixedWays
  rw [h.prov, ← h.ways]
  simpa using List.length_filter_le ..

theorem takeWay_empty {s : State} {bay n : Nat} (h : (s.bay bay).OnlyWays n) (hn : n < 12) (core kind idx cls : Nat) :
    (s.takeWay bay core kind idx cls).2 = true ∧ (s.takeWay bay core kind idx cls).1.mem = s.mem ∧
      ((s.takeWay bay core kind idx cls).1.bay bay).OnlyWays (n + 1) := by
  have hd : (s.drew.bay bay).OnlyWays n := h
  have hf := fixedWays_le hd (s.draw % (8 * s.sillSets bay))
  have hcap : s.drew.capIn bay (s.draw % (8 * s.sillSets bay)) < 12 := by
    unfold State.capIn
    rw [hd.lines]
    simp only [List.filter_nil, List.length_nil]
    omega
  have hv : s.drew.victimIn bay (s.draw % (8 * s.sillSets bay)) cls false = some none := by
    unfold State.victimIn
    dsimp only
    rw [hd.lines, if_pos]
    simp only [List.filter_nil, List.length_nil, Bool.false_and, Bool.not_false, Bool.and_true, decide_eq_true_eq, Nat.zero_add]
    exact lt_of_le_of_lt hf (by omega)
  unfold State.takeWay
  simp only [Nat.not_le.2 hcap, if_false, hv]
  refine ⟨trivial, rfl, ?_⟩
  rw [State.bay_setBay_same]
  exact ⟨hd.lines, hd.prov, by simp [State.makeRoom, hd.ways]⟩

theorem takeWays_empty {bay core kind cls : Nat} (idxs : List Nat) {s : State} {n : Nat} (h : (s.bay bay).OnlyWays n)
    (hn : n + idxs.length ≤ 12) : (s.takeWays bay core kind cls idxs).2 = true ∧ (s.takeWays bay core kind cls idxs).1.mem = s.mem := by
  induction idxs generalizing s n with
  | nil => exact ⟨rfl, rfl⟩
  | cons i r ih =>
    rw [List.length_cons] at hn
    obtain ⟨hok, hmem, hw⟩ := takeWay_empty h (by omega) core kind i cls
    have hstep : s.takeWays bay core kind cls (i :: r) = (s.takeWay bay core kind i cls).1.takeWays bay core kind cls r := by
      unfold State.takeWays
      rw [List.foldl_cons, if_pos rfl, ← hok]
    rw [hstep]
    obtain ⟨ho, hm⟩ := ih hw (by omega)
    exact ⟨ho, hm.trans hmem⟩

theorem eraseDups_length_le (l : List Nat) : l.eraseDups.length ≤ l.length := by
  induction hn : l.length using Nat.strong_induction_on generalizing l with
  | _ n ih =>
    cases l with
    | nil => simp
    | cons a r =>
      have hf := List.length_filter_le (fun b => !b == a) r
      rw [List.length_cons] at hn
      rw [List.eraseDups_cons, List.length_cons]
      have := ih _ (by omega) (r.filter fun b => !b == a) rfl
      omega

theorem ringLines_length {k : Core} {m : Msg} (ho : k.overflow = [m]) (hm : m.payload.length ≤ 240) : k.ringLines.length ≤ 3 := by
  refine (eraseDups_length_le _).trans ?_
  rw [ho, List.length_map, blocksOf]
  simp only [List.map_cons, List.map_nil, List.sum_cons, List.sum_nil, msgBytes]
  split
  · exact Nat.zero_le 3
  · rw [List.length_map, List.length_range]
    omega

theorem intoRing_desk (s : State) (c : Nat) (m : Msg) : (s.intoRing c m).1.desk = s.desk := by
  unfold State.intoRing
  dsimp only
  split_ifs
  · rfl
  · rw [bump_desk, modCore_desk, desk_of_aside (takeWays_aside ..)]
  · rw [desk_of_aside (giveWays_aside ..), desk_of_aside (takeWays_aside ..)]

theorem receive_desk (s : State) (c : Nat) (m : Msg) : (s.receive c m).desk = s.desk := by
  unfold State.receive
  extract_lets s1 k r s2
  have h1 : s1.desk = s.desk := rfl
  have hr : s2.desk = s.desk := by
    unfold s2 r
    split
    · rw [intoRing_desk, h1]
    · exact h1
  clear_value s1 r s2
  split_ifs
  · rw [setCore_desk, h1]
  · exact hr
  · rw [abortGroup_desk, hr]
  · rw [modCore_desk, hr]
  · rw [modCore_desk, hr]

theorem intoRing_empty {s : State} {c : Nat} {m : Msg} (ho : (s.core c).overflow = []) (hm : m.payload.length ≤ 240)
    (hb : (s.bay (clusterOf c)).OnlyWays 0) : (s.intoRing c m).2 = true ∧ (s.intoRing c m).1.mem = s.mem ∧
      ((s.intoRing c m).1.core c).overflow = [m] ∧ ((s.intoRing c m).1.core c).rxq = (s.core c).rxq := by
  have hlen := ringLines_length (k := { s.core c with overflow := (s.core c).overflow ++ [m] }) (m := m) (by rw [ho]; rfl) hm
  have hfl := List.length_filter_le (fun i => !(s.core c).ringLines.contains i)
    ({ s.core c with overflow := (s.core c).overflow ++ [m] } : Core).ringLines
  obtain ⟨hok, hmem⟩ := takeWays_empty (core := c) (kind := 0) (cls := noClass)
    (({ s.core c with overflow := (s.core c).overflow ++ [m] } : Core).ringLines.filter fun i => !(s.core c).ringLines.contains i)
    hb (by omega)
  have hroom : ¬ 65536 < (s.core c).overflowBytes + msgBytes m := by
    simp only [Core.overflowBytes, ho, msgBytes, List.map_nil, List.sum_nil]
    omega
  unfold State.intoRing
  simp only [hroom, if_false, hok, if_true]
  refine ⟨trivial, hmem, ?_, ?_⟩
  all_goals rw [core_of_aside (bump_aside ..), State.core_modCore_same, core_of_aside (takeWays_aside ..)]
  rw [ho]
  rfl

theorem msgArrival_claim {s s0 : State} {c : Nat} {m : Msg} (hs0 : s0.core c = s.core c) (hb0 : s0.bays = s.bays) (hm0 : s0.mem = s.mem)
    (ho : (s.core c).overflow = []) (hs : (s.core c).spill = []) :
    ((s.core c).rxq.length < 16 → ((s0.receive c m).core c).rxq = (s.core c).rxq ++ [m] ∧ ((s0.receive c m).core c).overflow = [] ∧
      SameMemory s (s0.receive c m)) ∧
    (16 ≤ (s.core c).rxq.length → m.payload.length ≤ 240 → (s.bay (clusterOf c)).lines = [] → (s.bay (clusterOf c)).ways = [] →
      (s.bay (clusterOf c)).prov = [] → ((s0.receive c m).core c).rxq = (s.core c).rxq ∧ ((s0.receive c m).core c).overflow = [m] ∧
      SameMemory s (s0.receive c m)) := by
  rw [← hs0] at ho hs ⊢
  refine ⟨fun hq => ?_, fun hq hsz hl hw hv => ?_⟩
  · rw [receive_queue m ho hs hq, State.core_setCore_same]
    exact ⟨rfl, ho, fun a => by rw [← hm0]; rfl⟩
  · have hbay : s0.bay (clusterOf c) = s.bay (clusterOf c) := by simp only [State.bay, hb0]
    rw [← hbay] at hl hw hv
    obtain ⟨hok, hmem, hov, hrx⟩ := intoRing_empty (s := s0.ungate c) (m := m) ho hsz ⟨hl, hv, by
      change (s0.bay (clusterOf c)).ways.length = 0
      rw [hw]; rfl⟩
    rw [receive_ring m ho hs hq hok]
    exact ⟨hrx, hov, fun a => by rw [hmem, ← hm0]; rfl⟩

theorem messageTransport_claim : Claim.MessageTransport := by
  intro s c
  refine ⟨msgInject_claim, fun i m hi hold he => ⟨fun im him hp hd hh ha ho hs => ?_, fun hp hm hs => ?_⟩⟩
  · exact ⟨_, msgArrival_delivers hi hold he (deliverMsg_receives him hp hd hh ha), desk_net (receive_desk ..),
      msgArrival_claim rfl rfl rfl ho hs⟩
  · refine ⟨_, msgArrival_delivers hi hold he (deliverMsg_unplaced hp hm hs), rfl, ?_, fun _ => rfl⟩
    rw [State.core_modCore_same]
    exact bumpCsr_self ..

/-- Settles O8: MSG.SEND and MSG.RECV by the equation of their effect once the checks pass, the network by the delivery of a message
that nothing holds back. -/
theorem messages : Obligations.Messages := ⟨messageSend_claim, messageReceive_claim, messageTransport_claim⟩

end Sys2Proof.Machine
end

section
namespace Sys2Proof.Machine
open Sys2Proof

/-! SUPPORT. What commands and runs leave behind when they are stopped, as their letterboxes see it (R279, R370, R371, R391). -/

/-! ### What a stopped command leaves behind -/

/-- The desk and the runs, which what a stopped command leaves behind does not touch. -/
def State.books (s : State) : (NMap Fn × List Cmd × NMap Region × List Msg) × List Run := (s.desk, s.runs)

theorem books_of_aside {s t : State} (h : t.aside = s.aside) : t.books = s.books := by
  have hr : t.runs = s.runs := congrArg (fun x => x.1.2.2.2.1) h
  simp only [State.books, desk_of_aside h, hr]

theorem books_desk {s t : State} (h : t.books = s.books) : t.desk = s.desk := congrArg Prod.fst h
theorem books_runs {s t : State} (h : t.books = s.books) : t.runs = s.runs := congrArg Prod.snd h

section
variable (s : State)

theorem putPieces_books (ps : List (Nat × Nat)) (bs : List Byte) : (s.putPieces ps bs).books = s.books := by
  induction ps generalizing s bs with
  | nil => rfl
  | cons u r ih => exact (ih ..).trans (books_of_aside (hbmPutRange_aside ..))

theorem chunkOpen_books (c : Cmd) : (s.chunkOpen c).books = s.books := by
  unfold State.chunkOpen
  split
  · exact putPieces_books s _ _
  · rfl

theorem movePut_books (c : Cmd) (lo : Nat) (bs : List Byte) : (s.movePut c lo bs).books = s.books := by
  have hw (owner off : Nat) : ((s.noteWrite owner off bs).homeWrite off bs 7).1.books = s.books :=
    books_of_aside ((homeWrite_aside ..).trans (noteWrite_aside ..))
  unfold State.movePut
  split_ifs
  · exact hw _ _
  · rfl
  · exact hw _ _

theorem moveScatter_books (s0 : State) (c : Cmd) (fuel lo : Nat) : (s0.moveScatter c fuel lo s).books = s.books := by
  induction fuel generalizing lo s with
  | zero => rfl
  | succ fuel ih =>
    have hm : (if (s0.moveLimit c lo (c.span - lo)).1 = lo then s
        else s0.moveMix c lo ((s0.moveLimit c lo (c.span - lo)).1 - lo) s).books = s.books := by
      split
      · rfl
      · exact movePut_books ..
    rw [State.moveScatter]
    split
    · exact (ih ..).trans hm
    · exact hm

theorem setCfld_books (a lo n x : Nat) : (s.setCfld a lo n x).books = s.books := rfl

theorem mirrorEnd_books (owner fn : Nat) (tag : BitVec 16) : (s.mirrorEnd owner fn tag).books = s.books := by
  unfold State.mirrorEnd
  dsimp only
  split
  · rfl
  · exact setCfld_books ..

theorem partialEffect_books (c : Cmd) : (s.partialEffect c).books = s.books := by
  have hmove : (if c.started then (s.moveOpen c).mirrorEnd (ownerCmd c.id) c.fn c.tag else s).books = s.books := by
    split
    · exact (mirrorEnd_books ..).trans (moveScatter_books ..)
    · rfl
  have hchunk : (if c.started then s.chunkOpen c else s).books = s.books := by
    split
    · exact chunkOpen_books s c
    · rfl
  unfold State.partialEffect
  dsimp only
  split
  · exact hchunk
  · exact hmove
  · exact hmove
  all_goals rfl

end

/-! ### What ends do to the letterboxes -/

/-- What no end of a command or run changes of a function: it stays disabled if it is. -/
structure Fn.Kept (x y : Fn) : Prop where
  enabled : y.enabled = x.enabled
  refused : y.refused = x.refused
  bme : y.bme = x.bme
  st : x.st = .disabled → y.st = .disabled

theorem Fn.Kept.refl (x : Fn) : x.Kept x := ⟨rfl, rfl, rfl, id⟩

theorem Fn.Kept.trans {x y z : Fn} (h : x.Kept y) (g : y.Kept z) : x.Kept z :=
  ⟨g.enabled.trans h.enabled, g.refused.trans h.refused, g.bme.trans h.bme, fun hx => g.st (h.st hx)⟩

/-- Commands only leave, regions stay, and functions keep what Fn.Kept names. -/
structure Ending (s t : State) : Prop where
  cmds : ∀ c ∈ t.cmds, c ∈ s.cmds
  regions : t.regions = s.regions
  fns : ∀ f, (s.fn f).Kept (t.fn f)

theorem Ending.trans {s t u : State} (h : Ending s t) (g : Ending t u) : Ending s u :=
  ⟨fun c hc => h.cmds c (g.cmds c hc), g.regions.trans h.regions, fun f => (h.fns f).trans (g.fns f)⟩

theorem ending_of_fields {s t : State} (hc : t.cmds = s.cmds) (hr : t.regions = s.regions) (hf : t.fns = s.fns) : Ending s t :=
  ⟨fun c h => hc ▸ h, hr, fun f => by simp only [State.fn, hf]; exact Fn.Kept.refl _⟩

theorem ending_of_desk {s t : State} (h : t.desk = s.desk) : Ending s t :=
  ending_of_fields (congrArg (fun x => x.2.1) h) (congrArg (fun x => x.2.2.1) h) (congrArg Prod.fst h)

theorem ending_refl (s : State) : Ending s s := ending_of_desk rfl

theorem ending_foldl {α : Type} (f : State → α → State) (h : ∀ t a, Ending t (f t a)) (l : List α) (s : State) :
    Ending s (l.foldl f s) :=
  List.foldlRecOn (motive := fun t : State => Ending s t) l f (ending_refl s) fun _ ht a _ => ht.trans (h _ a)

section
variable (s : State)

theorem ending_modFn (f : Nat) {g : Fn → Fn} (hg : (s.fn f).Kept (g (s.fn f))) : Ending s (s.modFn f g) := by
  refine ⟨fun _ h => h, rfl, fun x => ?_⟩
  by_cases hx : x = f
  · subst hx
    rw [State.fn_modFn_same]
    exact hg
  · rw [State.fn_modFn_ne s g hx]
    exact Fn.Kept.refl _

theorem ending_message (f : Nat) (m : Msix) (comp : Bool) : Ending s (s.message f m comp) := by
  unfold State.message
  split <;> exact ending_of_fields rfl rfl rfl

theorem ending_irq (f v : Nat) (comp : Bool) : Ending s (s.irq f v comp) := by
  unfold State.irq
  dsimp only
  split
  · exact ending_modFn s f ⟨rfl, rfl, rfl, id⟩
  · exact ending_message s f _ comp

theorem ending_signal (f : Nat) : Ending s (s.signal f) := (ending_modFn s f ⟨rfl, rfl, rfl, id⟩).trans (ending_irq _ f _ true)

theorem ending_writeComp (f : Nat) (c : Comp) : Ending s (s.writeComp f c) := by
  have hw : Ending s (s.hostWrite ((s.fn f).cqBase.toNat + 32 * (s.fn f).cqTail) (compBytes c (s.fn f).sqHead (s.fn f).cqPhase)) :=
    ending_of_fields rfl rfl rfl
  have ht := (hw.trans (ending_modFn _ f (g := fun y => { y with
    cqTail := ((s.fn f).cqTail + 1) % (s.fn f).cqN
    cqPhase := if ((s.fn f).cqTail + 1) % (s.fn f).cqN = 0 then !y.cqPhase else y.cqPhase
    unsignalled := y.unsignalled + 1 }) ⟨rfl, rfl, rfl, id⟩)).trans (ending_of_desk (bump_desk _ 0x30 f lbCompletions 1))
  unfold State.writeComp
  dsimp only
  split
  · exact ht.trans (ending_signal _ f)
  · exact ht

theorem ending_postComp (f : Nat) (c : Comp) : Ending s (s.postComp f c) := by
  unfold State.postComp
  split
  · exact ending_writeComp s f c
  · exact ending_modFn s f ⟨rfl, rfl, rfl, id⟩

theorem ending_settle (f : Nat) : Ending s (s.settle f) := by
  unfold State.settle
  split
  · exact ending_modFn s f ⟨rfl, rfl, rfl, fun _ => rfl⟩
  · exact ending_refl s

theorem ending_deliver (c : Cmd) (status : Nat) (result : List Byte) : Ending s (s.deliver c status result) := by
  unfold State.deliver
  dsimp only
  split_ifs
  · exact ending_refl s
  · unfold State.slotReady State.modSlot
    exact ending_modFn s _ ⟨rfl, rfl, rfl, id⟩
  · exact ending_refl s
  · exact ending_of_fields rfl rfl rfl
  · exact ending_modFn s _ ⟨rfl, rfl, rfl, id⟩

theorem ending_dropCmd (id : Nat) : Ending s (s.dropCmd id) :=
  ⟨fun _ h => (List.mem_filter.1 h).1, rfl, fun _ => Fn.Kept.refl _⟩

theorem ending_complete (id status : Nat) (detail : W64) (result : List Byte) : Ending s (s.complete id status detail result) := by
  unfold State.complete
  split
  · exact ending_refl s
  · split
    · refine Ending.trans ?_ (ending_dropCmd _ id)
      split <;> exact ending_of_fields rfl rfl rfl
    · exact (((ending_deliver s _ status result).trans (ending_postComp _ _ _)).trans (ending_dropCmd _ id)).trans (ending_settle _ _)

theorem settle_cmds (f : Nat) : (s.settle f).cmds = s.cmds := by
  unfold State.settle
  split <;> rfl

theorem mem_dropCmd {id : Nat} {c : Cmd} (hc : c ∈ (s.dropCmd id).cmds) : c.id ≠ id := by
  simpa using (List.mem_filter.1 hc).2

theorem complete_drops (id status : Nat) (detail : W64) (result : List Byte) {c : Cmd}
    (hc : c ∈ (s.complete id status detail result).cmds) :
    c.id ≠ id := by
  unfold State.complete at hc
  split at hc
  · next hn =>
    rintro rfl
    simpa using List.find?_eq_none.1 hn c hc
  · split at hc
    · exact mem_dropCmd _ hc
    · rw [settle_cmds] at hc
      exact mem_dropCmd _ hc

theorem ending_stopCmd (c : Cmd) (status : Nat) : Ending s (s.stopCmd c status) :=
  (ending_of_desk (books_desk (partialEffect_books s c))).trans (ending_complete ..)

/-! ### Runs that are stopped -/

theorem groupSettle_desk (g : Nat) : (s.groupSettle g).desk = s.desk := by
  unfold State.groupSettle
  dsimp only
  split <;> rfl

theorem leaveEpoch_desk (c : Nat) : (s.leaveEpoch c).desk = s.desk := by
  unfold State.leaveEpoch
  dsimp only
  split
  · rfl
  · exact groupSettle_desk ..

theorem freeCores_desk (run : Nat) : (s.freeCores run).desk = s.desk := by
  refine foldl_desk _ (fun t c => ?_) _ s
  exact leaveEpoch_desk t c

theorem ending_endRun (r : Run) (status : Nat) (result : List Byte) : Ending s (s.endRun r status result) := by
  unfold State.endRun
  extract_lets s1
  have h1 : s1.desk = s.desk := by
    unfold s1
    rw [books_desk (mirrorEnd_books ..), modRun_desk, freeCores_desk]
  exact ((ending_of_desk h1).trans (ending_complete ..)).trans (ending_of_fields rfl rfl rfl)

theorem abortEpochs_desk (run cause : Nat) : (s.abortEpochs run cause).desk = s.desk := by
  refine foldl_desk _ (fun t key => ?_) _ s
  split
  · exact abortGroup_desk ..
  · rfl

theorem abortRun_desk (run cause : Nat) : (s.abortRun run cause).desk = s.desk := by
  unfold State.abortRun
  rw [foldl_desk _ (fun t g => abortGroup_desk t g cause), abortEpochs_desk]

theorem ending_stopRunAs (r : Run) (cause status : Nat) : Ending s (s.stopRunAs r cause status) := by
  unfold State.stopRunAs
  split
  · exact (ending_of_desk (modRun_desk ..)).trans (ending_endRun ..)
  · refine ending_of_desk ?_
    rw [stopRun_desk, abortRun_desk]
  · exact ending_of_desk (abortRun_desk ..)
  · exact ending_refl s

theorem ending_cancelRuns (f : Nat) : Ending s (s.cancelRuns f) := by
  refine ending_foldl _ (fun t r => ?_) _ s
  split
  · split_ifs
    · exact ending_refl t
    · exact ending_of_desk (modRun_desk ..)
    · exact ending_stopRunAs ..
  · exact ending_refl t

end

/-! ### Function resets (R65, R370, R417) -/

/-- A command of a function that was reset: it ends without a completion entry. -/
def Cmd.silenced (f : Nat) (c : Cmd) : Cmd := if c.fn = f then { c with mute := true, dead := true, tookSlot := false } else c

theorem silenced_fn (f : Nat) (c : Cmd) : (c.silenced f).fn = c.fn := by
  unfold Cmd.silenced
  split <;> rfl

theorem silenced_mute (f : Nat) (c : Cmd) (h : c.mute = true ∨ c.fn = f) : (c.silenced f).mute = true := by
  unfold Cmd.silenced
  split
  · rfl
  · next hf => exact h.resolve_right hf

theorem region_setRegion_key {s : State} {f i g j : Nat} (r : Region) (h : g * 64 + j ≠ f * 64 + i) :
    (s.setRegion f i r).region g j = s.region g j := nget_nset_ne _ _ _ h

theorem setRegion_rest (s : State) (f i : Nat) (r : Region) : { s.setRegion f i r with regions := s.regions } = s := rfl

theorem cleared_invalid (v : W64) : (setFld v 63 1 0).getLsbD 63 = false := by
  rw [getLsbD_setFld _ _ _ _ _ (by decide)]
  rfl

/-- What the release of a function's regions does to one of them. -/
def State.releaseRegion (f : Nat) (s : State) (i : Nat) : State :=
  match (s.region f i).state with
  | 1 => s.setRegion f i { s.region f i with attr := setFld (s.region f i).attr 63 1 0 }
  | 2 => if (s.region f i).valid then
      s.setRegion f i { s.region f i with attr := setFld (s.region f i).attr 63 1 0, rel := s.mc.nextCmd } else s
  | _ => s.setRegion f i {}

theorem releaseRegions_eq (s : State) (f : Nat) : s.releaseRegions f = (List.range 64).foldl (State.releaseRegion f) s := by
  unfold State.releaseRegions
  refine congrArg (fun g => List.foldl g s (List.range 64)) ?_
  funext t i
  rfl

theorem releaseRegion_same (f : Nat) (s : State) (i : Nat) : ((State.releaseRegion f s i).region f i).valid = false := by
  unfold State.releaseRegion
  split
  · rw [State.region_setRegion_same, Region.valid, cleared_invalid]
  · split
    · rw [State.region_setRegion_same, Region.valid, cleared_invalid]
    · next h => simpa using h
  · rw [State.region_setRegion_same]
    decide

/-- The release of a region leaves every entry of the tables with another number, and everything but the tables. -/
theorem releaseRegion_others (f : Nat) (s : State) (i : Nat) :
    (∀ g j, g * 64 + j ≠ f * 64 + i → (State.releaseRegion f s i).region g j = s.region g j) ∧
    { State.releaseRegion f s i with regions := s.regions } = s := by
  unfold State.releaseRegion
  split
  · exact ⟨fun _ _ => region_setRegion_key _, setRegion_rest ..⟩
  · split
    · exact ⟨fun _ _ => region_setRegion_key _, setRegion_rest ..⟩
    · exact ⟨fun _ _ _ => rfl, rfl⟩
  · exact ⟨fun _ _ => region_setRegion_key _, setRegion_rest ..⟩

/-- What one step of a fold brings about, and every step keeps, holds at its end. -/
theorem foldl_establishes {α : Type} (f : State → α → State) (P : State → Prop) (keep : ∀ t a, P t → P (f t a)) {a : α}
    (est : ∀ t, P (f t a)) {l : List α} (h : a ∈ l) (s : State) : P (l.foldl f s) := by
  induction l generalizing s with
  | nil => cases h
  | cons b r ih =>
    rcases List.mem_cons.1 h with rfl | h
    · exact List.foldlRecOn (motive := P) r f (est s) fun t ht x _ => keep t x ht
    · exact ih h _

theorem releaseRegions_same (s : State) (f : Nat) {i : Nat} (hi : i < 64) : ((s.releaseRegions f).region f i).valid = false := by
  rw [releaseRegions_eq]
  refine foldl_establishes _ (fun t => (t.region f i).valid = false) (fun t j ht => ?_) (releaseRegion_same f · i) (List.mem_range.2 hi) s
  by_cases hj : j = i
  · subst hj
    exact releaseRegion_same f t j
  · rw [(releaseRegion_others f t j).1 f i (by omega)]
    exact ht

theorem releaseRegions_others (s : State) {f g j : Nat} (hg : g ≠ f) (hj : j < 64) : (s.releaseRegions f).region g j = s.region g j := by
  rw [releaseRegions_eq]
  refine List.foldlRecOn (motive := fun t : State => t.region g j = s.region g j) _ _ rfl fun t ht i hi => ?_
  have hi := List.mem_range.1 hi
  rw [(releaseRegion_others f t i).1 g j (by omega), ht]

theorem releaseRegions_rest (s : State) (f : Nat) : { s.releaseRegions f with regions := s.regions } = s := by
  rw [releaseRegions_eq]
  refine List.foldlRecOn (motive := fun t : State => { t with regions := s.regions } = s) _ _ rfl fun t ht i _ => ?_
  have h := (releaseRegion_others f t i).2
  calc { State.releaseRegion f t i with regions := s.regions }
      = { { State.releaseRegion f t i with regions := t.regions } with regions := s.regions } := rfl
    _ = s := by rw [h]; exact ht

/-- What an FLR of function f does to the letterboxes and regions (R370). -/
structure Reset (s t : State) (f : Nat) : Prop where
  self : t.fn f = { enabled := (s.fn f).enabled, refused := (s.fn f).refused }
  others : ∀ g, g ≠ f → (s.fn g).Kept (t.fn g)
  cmds : ∀ c ∈ t.cmds, ∃ c0 ∈ s.cmds, c = c0.silenced f
  released : ∀ i, i < 64 → (t.region f i).valid = false
  regions : ∀ g i, g ≠ f → i < 64 → t.region g i = s.region g i

/-- The state of an FLR once the function's commands and runs have ended. -/
def State.flrEnded (s : State) (f : Nat) : State :=
  let s2 := ({ s with cmds := s.cmds.map (Cmd.silenced f) } : State).cancelRuns f
  let gone (c : Cmd) : Bool := c.fn == f && !opShared c.opcode && !s2.runs.any fun r => r.cmd == c.id && decide (r.st ≠ .ended)
  let s3 := (s2.cmds.filter gone).foldl (fun (st : State) (c : Cmd) => (st.partialEffect c).dropCmd c.id) s2
  { s3 with sec := { s3.sec with attq := s3.sec.attq.filter fun a => a.cmd == 0 || s3.cmds.any fun c => c.id + 1 == a.cmd } }

theorem flr_eq (s : State) (f : Nat) : s.flr f = ((s.flrEnded f).releaseRegions f).setFn f
    { enabled := ((s.flrEnded f).fn f).enabled, refused := ((s.flrEnded f).fn f).refused } := rfl

theorem ending_flrEnded (s : State) (f : Nat) : Ending { s with cmds := s.cmds.map (Cmd.silenced f) } (s.flrEnded f) := by
  unfold State.flrEnded
  extract_lets s2 gone s3
  have h3 : Ending s2 s3 := ending_foldl _ (fun t c =>
    (ending_of_desk (books_desk (partialEffect_books t c))).trans (ending_dropCmd ..)) _ _
  exact ((ending_cancelRuns ..).trans h3).trans (ending_of_fields rfl rfl rfl)

theorem reset_flr (s : State) (f : Nat) : Reset s (s.flr f) f := by
  have he := ending_flrEnded s f
  rw [flr_eq]
  have hr := releaseRegions_rest (s.flrEnded f) f
  have hfns : ((s.flrEnded f).releaseRegions f).fns = (s.flrEnded f).fns := (congrArg State.fns hr :)
  have hcmds : ((s.flrEnded f).releaseRegions f).cmds = (s.flrEnded f).cmds := (congrArg State.cmds hr :)
  refine ⟨?_, fun g hg => ?_, fun c hc => ?_, fun i hi => ?_, fun g i hg hi => ?_⟩
  · rw [State.fn_setFn_same, (he.fns f).enabled, (he.fns f).refused]
    rfl
  · rw [State.fn_setFn_ne _ _ hg]
    simpa only [State.fn, hfns] using he.fns g
  · obtain ⟨c0, h0, rfl⟩ := List.mem_map.1 (he.cmds c (hcmds ▸ hc))
    exact ⟨c0, h0, rfl⟩
  · exact releaseRegions_same _ f hi
  · refine (releaseRegions_others (s.flrEnded f) hg hi).trans ?_
    rw [State.region, he.regions]
    rfl

/-- Every command of function f ends silently, and no region of its table can be entered anew. -/
structure Idled (t : State) (f : Nat) : Prop where
  cmds : ∀ c ∈ t.cmds, c.fn = f → c.mute = true
  regions : ∀ i, i < 64 → (t.region f i).valid = false

theorem idled_flr (s : State) (f : Nat) : Idled (s.flr f) f := by
  have hr := reset_flr s f
  refine ⟨fun c hc hf => ?_, hr.released⟩
  obtain ⟨c0, -, rfl⟩ := hr.cmds c hc
  rw [silenced_fn] at hf
  exact silenced_mute f c0 (.inr hf)

theorem Reset.idled {s t : State} {f g : Nat} (h : Reset s t f) (hg : g ≠ f) (hs : Idled s g) : Idled t g := by
  refine ⟨fun c hc hf => ?_, fun i hi => ?_⟩
  · obtain ⟨c0, h0, rfl⟩ := h.cmds c hc
    rw [silenced_fn] at hf
    exact silenced_mute f c0 (.inl (hs.cmds c0 h0 hf))
  · rw [h.regions g i hg hi]
    exact hs.regions i hi

/-- The reset of a VF, which is then disabled. -/
def State.vfOff (s : State) (f : Nat) : State := (s.flr f).modFn f fun x => { x with enabled := false }

theorem vfOff_fn_self (s : State) (f : Nat) : (s.vfOff f).fn f = { refused := (s.fn f).refused } := by
  rw [State.vfOff, State.fn_modFn_same, (reset_flr s f).self]

theorem vfOff_fn_other (s : State) {f g : Nat} (h : g ≠ f) : (s.fn g).Kept ((s.vfOff f).fn g) := by
  rw [State.vfOff, State.fn_modFn_ne _ _ h]
  exact (reset_flr s f).others g h

theorem vfOff_disabled (s : State) (f g : Nat) (h : (s.fn g).enabled = false) : ((s.vfOff f).fn g).enabled = false := by
  by_cases hg : g = f
  · rw [hg, vfOff_fn_self]
  · rw [(vfOff_fn_other s hg).enabled, h]

theorem idled_vfOff_self (s : State) (f : Nat) : Idled (s.vfOff f) f := ⟨(idled_flr s f).cmds, (idled_flr s f).regions⟩

theorem idled_vfOff (s : State) {f g : Nat} (h : g ≠ f) (hs : Idled s g) : Idled (s.vfOff f) g :=
  have hi := (reset_flr s f).idled h hs
  ⟨hi.cmds, hi.regions⟩

/-- The VFs that an FLR of PF0 resets and disables. -/
def State.vfsOn (s : State) : List Nat := (List.range 16).filter fun f => f != 0 && (s.fn f).enabled

theorem mem_vfsOn {s : State} {f : Nat} : f ∈ s.vfsOn ↔ f < 16 ∧ f ≠ 0 ∧ (s.fn f).enabled = true := by
  simp [State.vfsOn]

theorem flrAll_eq (s : State) : s.flrAll =
    { s.vfsOn.foldl State.vfOff (s.flr 0) with pcie := { (s.vfsOn.foldl State.vfOff (s.flr 0)).pcie with vfs := 0 } } := rfl

/-- PF0 stays reset while its VFs are. -/
theorem vfsOff_pf0 (s : State) : (((s.vfsOn.foldl State.vfOff (s.flr 0)).fn 0).st = .disabled) ∧
    Idled (s.vfsOn.foldl State.vfOff (s.flr 0)) 0 := by
  have h0 : ((s.flr 0).fn 0).st = .disabled := by rw [(reset_flr s 0).self]
  refine List.foldlRecOn (motive := fun t : State => (t.fn 0).st = .disabled ∧ Idled t 0) _ _ ⟨h0, idled_flr s 0⟩ fun t ht f hf => ?_
  have hne : (0 : Nat) ≠ f := ((mem_vfsOn.1 hf).2.1).symm
  exact ⟨(vfOff_fn_other t hne).st ht.1, idled_vfOff t hne ht.2⟩

theorem vfsOff_disabled (s : State) {g : Nat} (h0 : 0 < g) (h16 : g < 16) :
    ((s.vfsOn.foldl State.vfOff (s.flr 0)).fn g).enabled = false := by
  by_cases he : (s.fn g).enabled = true
  · exact foldl_establishes State.vfOff (fun t => (t.fn g).enabled = false) (fun t f => vfOff_disabled t f g)
      (fun t => by rw [vfOff_fn_self]) (mem_vfsOn.2 ⟨h16, h0.ne', he⟩) (s.flr 0)
  · refine List.foldlRecOn (motive := fun t : State => (t.fn g).enabled = false) _ _ ?_ fun t ht f _ => vfOff_disabled t f g ht
    rw [((reset_flr s 0).others g h0.ne').enabled]
    simpa using he

/-- The state that an FLR of PF0 leaves. -/
theorem flrAll_resets (s : State) : (s.flrAll.fn 0).st = .disabled ∧ s.flrAll.pcie.vfs = 0 ∧
    (∀ g, 0 < g → g < 16 → (s.flrAll.fn g).enabled = false) ∧ Idled s.flrAll 0 := by
  obtain ⟨hst, hid⟩ := vfsOff_pf0 s
  rw [flrAll_eq]
  exact ⟨hst, rfl, fun g => vfsOff_disabled s, hid.cmds, hid.regions⟩

theorem exec_flr {s : State} {f : Nat} (hu : Unit.fn f = true) (h : s.hostReaches f = true ∨ (s.fn f).d3 = true) :
    exec (.flr f) s = .next (if f = 0 then s.flrAll else s.flr f) := by
  change onUnit (Unit.fn f) _ = _
  rw [onUnit, if_pos hu, if_neg (by rcases h with h | h <;> simp [h])]

theorem exec_vfDisable {s : State} {f : Nat} (hu : Unit.fn f = true) (h0 : f ≠ 0) (he : (s.fn f).enabled = true) :
    exec (.vfDisable f) s = .next (if (List.range 16).any fun i => i != 0 && ((s.vfOff f).fn i).enabled then s.vfOff f
      else { s.vfOff f with pcie := { (s.vfOff f).pcie with vfs := 0 } }) := by
  change onUnit (Unit.fn f) _ = _
  rw [onUnit, if_pos hu, if_neg (by simp [h0, he])]
  rfl

theorem vfDisable_claim {s : State} {f : Nat} (hu : Unit.fn f = true) (h0 : f ≠ 0) (he : (s.fn f).enabled = true) :
    ∃ t, exec (.vfDisable f) s = .next t ∧ (t.fn f).enabled = false ∧ (t.fn f).st = .disabled ∧
      (∀ c, c ∈ t.cmds → c.fn = f → c.mute = true) ∧ (∀ i, i < 64 → (t.region f i).valid = false) := by
  have hf := vfOff_fn_self s f
  have hi := idled_vfOff_self s f
  have hen : ((s.vfOff f).fn f).enabled = false := by rw [hf]
  have hst : ((s.vfOff f).fn f).st = .disabled := by rw [hf]
  refine ⟨_, exec_vfDisable hu h0 he, ?_⟩
  split
  · exact ⟨hen, hst, hi.cmds, hi.regions⟩
  · exact ⟨hen, hst, hi.cmds, hi.regions⟩

/-! ### VF_ENABLE (R417) -/

/-- VFs 1 to n enabled. -/
def State.vfsEnabled (s : State) (n : Nat) : State :=
  (List.range n).foldl (fun (st : State) (i : Nat) => st.modFn (i + 1) fun x => { x with enabled := true }) s

theorem vfsEnabled_succ (s : State) (n : Nat) :
    s.vfsEnabled (n + 1) = (s.vfsEnabled n).modFn (n + 1) fun x => { x with enabled := true } := by
  simp [State.vfsEnabled, List.range_succ]

theorem vfsEnabled_fn (s : State) (n g : Nat) :
    (s.vfsEnabled n).fn g = if 0 < g ∧ g ≤ n then { s.fn g with enabled := true } else s.fn g := by
  induction n with
  | zero => rw [if_neg (by omega)]; rfl
  | succ n ih =>
    rw [vfsEnabled_succ]
    by_cases hg : g = n + 1
    · subst hg
      rw [State.fn_modFn_same, ih, if_neg (by omega), if_pos (by omega)]
    · rw [State.fn_modFn_ne _ _ hg, ih]
      exact if_congr (by omega) rfl rfl

theorem vfsEnabled_rest (s : State) (n : Nat) : { s.vfsEnabled n with fns := s.fns } = s := by
  induction n with
  | zero => rfl
  | succ n ih => rw [vfsEnabled_succ]; exact ih

theorem vfEnable_claim {s : State} (n : Nat) (hl : s.pcie.l0 = true) (hv : s.pcie.vfs = 0) :
    (n ≤ 15 → (s.pcie.ari = true ∨ n ≤ 7) → ∃ t, exec (.vfEnable n) s = .next t ∧ t.pcie.vfs = n ∧
      (∀ g, t.fn g = if 0 < g ∧ g ≤ n then { s.fn g with enabled := true } else s.fn g) ∧
      { t with fns := s.fns, pcie := s.pcie } = s) ∧
    (15 < n ∨ s.pcie.ari = false ∧ 7 < n → exec (.vfEnable n) s = .next s) := by
  refine ⟨fun h15 h7 => ?_, fun hb => ?_⟩
  · refine ⟨{ s.vfsEnabled n with pcie := { (s.vfsEnabled n).pcie with vfs := n } }, ?_, rfl, vfsEnabled_fn s n, ?_⟩
    · have hok : (!s.pcie.l0 || s.pcie.vfs != 0 || decide (15 < n) || (!s.pcie.ari && decide (7 < n))) = false := by
        rcases h7 with h | h <;> simp [hl, hv, h] <;> omega
      change Host.Outcome.next (if _ then _ else _) = _
      rw [if_neg (by rw [hok]; decide)]
      rfl
    · have hr := vfsEnabled_rest s n
      have hp : (s.vfsEnabled n).pcie = s.pcie := (congrArg State.pcie hr :)
      calc _ = { { s.vfsEnabled n with fns := s.fns } with pcie := s.pcie } := rfl
        _ = s := by rw [hr]
  · have hbad : (!s.pcie.l0 || s.pcie.vfs != 0 || decide (15 < n) || (!s.pcie.ari && decide (7 < n))) = true := by
      rcases hb with h | h <;> simp [h]
    change Host.Outcome.next (if _ then _ else _) = _
    rw [if_pos hbad]

theorem functionResets_claim : Claim.FunctionResets := by
  intro s f hu
  refine ⟨fun h0 hr => ?_, fun h0 hr => ?_, vfDisable_claim hu, fun n => vfEnable_claim n⟩
  · refine ⟨s.flr f, by rw [exec_flr hu hr, if_neg h0], (reset_flr s f).self, (idled_flr s f).cmds, (idled_flr s f).regions⟩
  · obtain ⟨hst, hvf, hen, hid⟩ := flrAll_resets s
    exact ⟨s.flrAll, by rw [exec_flr hu hr, if_pos h0], hst, hvf, hen, hid.cmds, hid.regions⟩

/-! ### Bus Master Enable cleared (R371) -/

theorem stopCmd_runs (s : State) (c : Cmd) (status : Nat) : (s.stopCmd c status).runs = s.runs := by
  unfold State.stopCmd State.finish
  rw [complete_runs, books_runs (partialEffect_books s c)]

/-- The runs of a function whose Bus Master Enable is cleared have been cancelled. -/
def State.masterOff (s : State) (f : Nat) : State := (s.modFn f fun x => { x with bme := false }).cancelRuns f

/-- The commands of a function that no run holds. -/
def State.loose (s : State) (f : Nat) : List Cmd :=
  s.cmds.filter fun c => c.fn == f && !c.mute && !s.runs.any fun r => r.cmd == c.id && decide (r.st ≠ .ended)

theorem exec_busMasterClear {s : State} {f : Nat} (hu : Unit.fn f = true) (hb : (s.fn f).bme = true) :
    exec (.busMasterEnableClear f) s =
      .next (((s.masterOff f).loose f).foldl (fun (st : State) (c : Cmd) => st.stopCmd c stAborted) (s.masterOff f)) := by
  change onUnit (Unit.fn f) (busMasterClear f s) = _
  rw [onUnit, if_pos hu, busMasterClear, if_neg (by simp [hb])]
  rfl

theorem busMasterClear_claim {s : State} {f : Nat} (hu : Unit.fn f = true) (hb : (s.fn f).bme = true) :
    ∃ t, exec (.busMasterEnableClear f) s = .next t ∧ (t.fn f).bme = false ∧
      (∀ c, c ∈ t.cmds → c.fn = f → c.mute = false → ∃ r, r ∈ t.runs ∧ r.cmd = c.id ∧ r.st ≠ .ended) := by
  let u := s.masterOff f
  refine ⟨_, exec_busMasterClear hu hb, ?_⟩
  have hend : Ending u ((u.loose f).foldl (fun (st : State) (c : Cmd) => st.stopCmd c stAborted) u) :=
    ending_foldl _ (fun t c => ending_stopCmd t c stAborted) _ u
  have hruns : ((u.loose f).foldl (fun (st : State) (c : Cmd) => st.stopCmd c stAborted) u).runs = u.runs :=
    List.foldlRecOn (motive := fun t : State => t.runs = u.runs) _ _ rfl fun t ht c _ => (stopCmd_runs t c _).trans ht
  refine ⟨?_, fun c hc hf hm => ?_⟩
  · have hoff : (u.fn f).bme = false := by
      refine ((ending_cancelRuns (s.modFn f fun x => { x with bme := false }) f).fns f).bme.trans ?_
      rw [State.fn_modFn_same]
    rw [(hend.fns f).bme, hoff]
  · have hloose : c ∉ u.loose f := fun hl =>
      foldl_establishes (fun (st : State) (c : Cmd) => st.stopCmd c stAborted) (fun t => ∀ d ∈ t.cmds, d.id ≠ c.id)
        (fun t b ht d hd => ht d ((ending_stopCmd t b stAborted).cmds d hd)) (fun t d hd => complete_drops _ _ _ _ _ hd) hl u c hc rfl
    rw [hruns]
    simpa [State.loose, hend.cmds c hc, hf, hm] using hloose

/-! ### Bus Master Enable set (R365, R371) -/

/-- What the messages and entries that a letterbox sends leave of its record. -/
structure Fn.Sent (x y : Fn) : Prop where
  bme : y.bme = x.bme
  held : y.held = x.held
  comps : y.heldComps = x.heldComps
  bytes : y.heldBytes = x.heldBytes
  ring : y.ringCfg = x.ringCfg

/-- Messages and entries of function f sent between s and t, after which its completion ring ends at tail. -/
structure Posted (s t : State) (f tail : Nat) : Prop where
  only : LetterboxOnly s t
  cmds : t.cmds = s.cmds
  others : ∀ g, g ≠ f → t.fn g = s.fn g
  self : (s.fn f).Sent (t.fn f)
  tail : (t.fn f).cqTail = tail

theorem Posted.trans {s t u : State} {f a b : Nat} (h : Posted s t f a) (g : Posted t u f b) : Posted s u f b :=
  ⟨h.only.trans g.only, g.cmds.trans h.cmds, fun x hx => (g.others x hx).trans (h.others x hx),
    ⟨g.self.bme.trans h.self.bme, g.self.held.trans h.self.held, g.self.comps.trans h.self.comps, g.self.bytes.trans h.self.bytes,
      g.self.ring.trans h.self.ring⟩, g.tail⟩

section
variable (s : State) (f : Nat)

theorem posted_of_fns {t : State} (h : LetterboxOnly s t) (hc : t.cmds = s.cmds) (hf : t.fns = s.fns) : Posted s t f (s.fn f).cqTail := by
  have hg (g : Nat) : t.fn g = s.fn g := by simp only [State.fn, hf]
  refine ⟨h, hc, fun g _ => hg g, ?_, by rw [hg]⟩
  rw [hg]
  exact ⟨rfl, rfl, rfl, rfl, rfl⟩

theorem posted_refl : Posted s s f (s.fn f).cqTail := posted_of_fns s f (LetterboxOnly.refl s) rfl rfl

theorem posted_modFn {g : Fn → Fn} {tail : Nat} (h : (s.fn f).Sent (g (s.fn f))) (ht : (g (s.fn f)).cqTail = tail) :
    Posted s (s.modFn f g) f tail := by
  refine ⟨modFn_only s f g, rfl, fun x hx => State.fn_modFn_ne s g hx, ?_, ?_⟩
  · rw [State.fn_modFn_same]
    exact h
  · rw [State.fn_modFn_same, ht]

theorem posted_hostWrite (a : Nat) (bs : List Byte) : Posted s (s.hostWrite a bs) f (s.fn f).cqTail :=
  posted_of_fns s f (hostWrite_only s a bs) rfl rfl

theorem posted_message (m : Msix) (comp : Bool) : Posted s (s.message f m comp) f (s.fn f).cqTail := by
  refine posted_of_fns s f (message_only s f m comp) ?_ ?_
  all_goals
    unfold State.message
    split <;> rfl

theorem posted_irq (v : Nat) (comp : Bool) : Posted s (s.irq f v comp) f (s.fn f).cqTail := by
  unfold State.irq
  dsimp only
  split
  · exact posted_modFn s f ⟨rfl, rfl, rfl, rfl, rfl⟩ rfl
  · exact posted_message s f _ comp

theorem posted_signal : Posted s (s.signal f) f (s.fn f).cqTail := by
  have h : Posted s (s.modFn f fun x => { x with unsignalled := 0 }) f (s.fn f).cqTail := posted_modFn s f ⟨rfl, rfl, rfl, rfl, rfl⟩ rfl
  have hi := posted_irq (s.modFn f fun x => { x with unsignalled := 0 }) f (fld (s.fn f).ringCfg 24 6) true
  rw [h.tail] at hi
  exact h.trans hi

theorem posted_writeComp (c : Comp) : Posted s (s.writeComp f c) f (((s.fn f).cqTail + 1) % (s.fn f).cqN) := by
  have hw := posted_hostWrite s f ((s.fn f).cqBase.toNat + 32 * (s.fn f).cqTail) (compBytes c (s.fn f).sqHead (s.fn f).cqPhase)
  unfold State.writeComp
  extract_lets x s1 tail s2
  have h2 : Posted s s2 f tail := by
    have hm : Posted s1 (s1.modFn f fun y => { y with
        cqTail := tail, cqPhase := if tail = 0 then !y.cqPhase else y.cqPhase, unsignalled := y.unsignalled + 1 }) f tail :=
      posted_modFn s1 f ⟨rfl, rfl, rfl, rfl, rfl⟩ rfl
    have hb := posted_of_fns _ f (bump_only (s1.modFn f fun y => { y with
        cqTail := tail, cqPhase := if tail = 0 then !y.cqPhase else y.cqPhase, unsignalled := y.unsignalled + 1 })
        0x30 f lbCompletions 1) rfl rfl
    rw [hm.tail] at hb
    exact (hw.trans hm).trans hb
  split
  · have hs := posted_signal s2 f
    rw [h2.tail] at hs
    exact h2.trans hs
  · exact h2

theorem posted_sendPending (v : Nat) : Posted s (s.sendPending f v) f (s.fn f).cqTail := by
  unfold State.sendPending
  extract_lets m
  split
  · have hm : Posted s (s.modFn f fun x => { x with msix := nset {} x.msix v { m with pending := false, owed := false } }) f
        (s.fn f).cqTail := posted_modFn s f ⟨rfl, rfl, rfl, rfl, rfl⟩ rfl
    have hs := posted_message (s.modFn f fun x => { x with msix := nset {} x.msix v { m with pending := false, owed := false } }) f m m.owed
    rw [hm.tail] at hs
    exact hm.trans hs
  · exact posted_refl s f

theorem posted_settle : Posted s (s.settle f) f (s.fn f).cqTail := by
  unfold State.settle
  split
  · exact posted_modFn s f ⟨rfl, rfl, rfl, rfl, rfl⟩ rfl
  · exact posted_refl s f

/-- Steps that leave the end of the completion ring, one after another. -/
theorem posted_foldl {α : Type} (g : State → α → State) (h : ∀ t a, Posted t (g t a) f (t.fn f).cqTail) (l : List α) :
    Posted s (l.foldl g s) f (s.fn f).cqTail :=
  List.foldlRecOn (motive := fun t : State => Posted s t f (s.fn f).cqTail) l g (posted_refl s f) fun t ht a _ => by
    have ha := h t a
    rw [ht.tail] at ha
    exact ht.trans ha

theorem posted_comps (l : List Comp) {s : State} (h : (s.fn f).cqTail < (s.fn f).cqN) :
    Posted s (l.foldl (fun (st : State) (c : Comp) => st.writeComp f c) s) f (((s.fn f).cqTail + l.length) % (s.fn f).cqN) := by
  induction l generalizing s with
  | nil =>
    rw [List.length_nil, Nat.add_zero, Nat.mod_eq_of_lt h]
    exact posted_refl s f
  | cons c r ih =>
    have hw := posted_writeComp s f c
    have hn : ((s.writeComp f c).fn f).cqN = (s.fn f).cqN := by rw [Fn.cqN, hw.self.ring]; rfl
    have hr := ih (s := s.writeComp f c) (by rw [hw.tail, hn]; exact Nat.mod_lt _ (by omega))
    rw [hw.tail, hn, Nat.mod_add_mod] at hr
    rw [List.length_cons, ← Nat.add_assoc, Nat.add_right_comm]
    exact hw.trans hr

end

/-- The letterbox of f with Bus Master Enable set, before it sends what it held. -/
def Fn.released (x : Fn) : Fn := { x with bme := true, held := false, heldBytes := [], heldComps := [] }

theorem busMasterSet_posted {s : State} {f : Nat} (hb : (s.fn f).bme = false) (ht : (s.fn f).cqTail < (s.fn f).cqN) :
    Posted (s.modFn f Fn.released) (busMasterSet f s) f (((s.fn f).cqTail + (s.fn f).heldComps.length) % (s.fn f).cqN) := by
  have hx : (s.modFn f Fn.released).fn f = (s.fn f).released := State.fn_modFn_same ..
  unfold busMasterSet
  rw [if_neg (by simp [hb])]
  extract_lets x s1 s2 s3 s4
  have h2 : Posted s1 s2 f x.cqTail := by
    have h := posted_foldl s1 f (fun st (h : Nat × List Byte) => st.hostWrite h.1 h.2) (fun t h => posted_hostWrite t f h.1 h.2) x.heldBytes
    have hq : (s1.fn f).cqTail = x.cqTail := by rw [show s1.fn f = x.released from hx]; rfl
    rwa [hq] at h
  have h3 : Posted s1 s3 f ((x.cqTail + x.heldComps.length) % x.cqN) := by
    have hn : (s2.fn f).cqN = x.cqN := by rw [Fn.cqN, h2.self.ring, show s1.fn f = x.released from hx]; rfl
    have h := posted_comps f x.heldComps (s := s2) (by rw [h2.tail, hn]; exact ht)
    rw [h2.tail, hn] at h
    exact h2.trans h
  have h4 : Posted s1 s4 f ((x.cqTail + x.heldComps.length) % x.cqN) := by
    unfold s4
    split
    · have h := posted_irq s3 f (fld (s3.fn f).ringCfg 32 6) false
      rw [h3.tail] at h
      exact h3.trans h
    · exact h3
  have h5 := posted_foldl s4 f (fun st v => st.sendPending f v) (fun t v => posted_sendPending t f v) (List.range 64)
  rw [h4.tail] at h5
  have h6 := posted_settle ((List.range 64).foldl (fun (st : State) (v : Nat) => st.sendPending f v) s4) f
  rw [h5.tail] at h6
  exact (h4.trans h5).trans h6

theorem busMasterSet_claim {s : State} {f : Nat} (hu : Unit.fn f = true) (hr : s.hostReaches f = true) (hb : (s.fn f).bme = false)
    (ht : (s.fn f).cqTail < (s.fn f).cqN) : ∃ t, exec (.busMasterEnableSet f) s = .next t ∧ (t.fn f).bme = true ∧
      (t.fn f).held = false ∧ (t.fn f).heldComps = [] ∧ (t.fn f).heldBytes = [] ∧
      (t.fn f).cqTail = ((s.fn f).cqTail + (s.fn f).heldComps.length) % (s.fn f).cqN ∧ t.cmds = s.cmds ∧ t.cores = s.cores ∧
      SameMemory s t ∧ (∀ g, g ≠ f → t.fn g = s.fn g) := by
  have h := busMasterSet_posted hb ht
  have hx : (s.modFn f Fn.released).fn f = (s.fn f).released := State.fn_modFn_same ..
  have hs := hx ▸ h.self
  refine ⟨busMasterSet f s, ?_, hs.bme, hs.held, hs.comps, hs.bytes, h.tail, h.cmds, h.only.cores, fun a => by rw [h.only.mem]; rfl,
    fun g hg => (h.others g hg).trans (State.fn_modFn_ne s _ hg)⟩
  change onUnit (Unit.fn f) _ = _
  rw [onUnit, if_pos hu, if_pos hr]

theorem busMasterEnable_claim : Claim.BusMasterEnable := by
  rintro s f x hu rfl
  refine ⟨busMasterClear_claim hu, fun hb => ?_, busMasterSet_claim hu, fun hr hb => ?_⟩
  · change onUnit (Unit.fn f) (busMasterClear f s) = _
    rw [onUnit, if_pos hu, busMasterClear, if_pos (by simp [hb])]
  · change onUnit (Unit.fn f) (if _ then busMasterSet f s else s) = _
    rw [onUnit, if_pos hu, if_pos hr, busMasterSet, if_pos hb]

/-! ### D3hot, the fundamental reset and the link (R419, R420, R421) -/

theorem modFn_modFn (s : State) (f : Nat) (g h : Fn → Fn) : (s.modFn f g).modFn f h = s.modFn f fun x => h (g x) := by
  unfold State.modFn
  rw [State.fn_setFn_same]
  unfold State.setFn
  simp only [nset_nset]

/-- A letterbox with nothing in flight that is disabled while it runs. -/
theorem lbDisable_idle {s : State} {f : Nat} (hs : (s.fn f).st = .running) (hi : s.inflight f = 0) :
    ((s.lbDisable f).fn f).st = .disabled ∧ ∀ g, g ≠ f → (s.lbDisable f).fn g = s.fn g := by
  have h1 : (s.modFn f fun y => { y with enable := false }).fn f = { s.fn f with enable := false } := State.fn_modFn_same ..
  unfold State.lbDisable
  simp only [h1, hs, true_or, if_true, modFn_modFn]
  have h2 : (s.modFn f fun y => { y with enable := false, st := .stopping }).fn f = { s.fn f with enable := false, st := .stopping } :=
    State.fn_modFn_same ..
  have hi2 : (s.modFn f fun y => { y with enable := false, st := .stopping }).inflight f = 0 := by
    rw [← hi, State.inflight, State.inflight, h2]
    rfl
  unfold State.settle
  rw [if_pos ⟨by rw [h2], hi2⟩]
  refine ⟨by rw [State.fn_modFn_same], fun g hg => ?_⟩
  rw [State.fn_modFn_ne _ _ hg, State.fn_modFn_ne _ _ hg]

theorem d3hotEntry_claim {s : State} {f : Nat} (hu : Unit.fn f = true) (hr : s.hostReaches f = true) (hs : (s.fn f).st = .running)
    (hi : s.inflight f = 0) : ∃ t, exec (.d3hotEntry f) s = .next t ∧ (t.fn f).d3 = true ∧ (t.fn f).st = .disabled ∧
      (∀ g, g ≠ f → t.fn g = s.fn g) := by
  obtain ⟨hst, ho⟩ := lbDisable_idle hs hi
  refine ⟨(s.lbDisable f).modFn f fun x => { x with d3 := true }, ?_, ?_, ?_, fun g hg => ?_⟩
  · change onUnit (Unit.fn f) (if _ then _ else _) = _
    rw [onUnit, if_pos hu, if_pos hr]
  · rw [State.fn_modFn_same]
  · rw [State.fn_modFn_same]
    exact hst
  · rw [State.fn_modFn_ne _ _ hg, ho g hg]

theorem d3hotExit_claim {s : State} {f : Nat} (hu : Unit.fn f = true) : ∃ t, exec (.d3hotExit f) s = .next t ∧
    t.fn f = { s.fn f with d3 := false } ∧ (∀ g, g ≠ f → t.fn g = s.fn g) ∧ { t with fns := s.fns } = s := by
  refine ⟨s.modFn f fun x => { x with d3 := false }, ?_, State.fn_modFn_same .., fun g hg => State.fn_modFn_ne _ _ hg, rfl⟩
  change onUnit (Unit.fn f) _ = _
  rw [onUnit, if_pos hu]

theorem fundamentalReset_claim (s : State) : ∃ t, exec .pcieFundamentalReset s = .next t ∧ t.pcie.l0 = false ∧
    t.pcie.training = s.power.epReady ∧ t.power.perst = !s.power.epReady ∧ t.pcie.vfs = 0 ∧ (t.fn 0).st = .disabled ∧
    (∀ c, c ∈ t.cmds → c.fn = 0 → c.mute = true) := by
  obtain ⟨hst, hvf, -, hid⟩ := flrAll_resets s
  exact ⟨_, rfl, rfl, rfl, rfl, hvf, hst, hid.cmds⟩

theorem perstNRelease_claim {s : State} (hv : s.power.viob = true) (he : s.power.epReady = true) (hp : s.power.perst = true) :
    ∃ t, exec .perstNRelease s = .next t ∧ t.power.perst = false ∧ t.pcie.training = true ∧
      { t with power := s.power, pcie := s.pcie } = s := by
  refine ⟨{ s with power := { s.power with perst := false }, pcie := { s.pcie with training := true } }, ?_, rfl, rfl, rfl⟩
  change Host.Outcome.next (s.sideband (if _ then _ else _)) = _
  rw [State.sideband, if_pos hv, if_pos (by simp [he, hp])]

theorem pcieLinkL0_claim {s : State} (he : s.power.epReady = true) (hp : s.power.perst = false) (ht : s.pcie.training = true) :
    ∃ t, exec .pcieLinkL0 s = .next t ∧ t.pcie.l0 = true ∧ t.pcie.training = false ∧ t.fn 0 = { s.fn 0 with enabled := true } ∧
      { t with pcie := s.pcie, fns := s.fns } = s := by
  refine ⟨{ s with pcie := { s.pcie with l0 := true, training := false } }.modFn 0 fun x => { x with enabled := true }, ?_, rfl, rfl,
    State.fn_modFn_same .., rfl⟩
  change Host.Outcome.next (if _ then _ else _) = _
  rw [if_pos (by simp [he, hp, ht])]

theorem pcieLink_claim : Claim.PcieLink := by
  intro s
  refine ⟨fun f => d3hotEntry_claim, fun f => d3hotExit_claim, fundamentalReset_claim s, perstNRelease_claim, pcieLinkL0_claim,
    fun h => ?_⟩
  change Host.Outcome.next (if _ then _ else _) = _
  rw [if_neg (by rcases h with h | h | h <;> simp [h])]

/-- Settles O44: `Reset` says what an FLR leaves, `Ending` that no end of a command or run undoes it, and `Posted` what a letterbox
that may send again has sent. -/
theorem hostFunctions : Obligations.HostFunctions := ⟨functionResets_claim, busMasterEnable_claim, pcieLink_claim⟩

end Sys2Proof.Machine
end

section
namespace Sys2Proof.Machine
open Sys2Proof

/-! SUPPORT. How runs are taken and launched, and how the stages of shutters go on (R60, R85, R86, R388, R466, R467). -/

/-! ### The first element that satisfies a test, changed -/

theorem find?_updFirst_same {α : Type} {p : α → Bool} {f : α → α} (hp : ∀ x, p x = true → p (f x) = true) (l : List α) :
    (updFirst p f l).find? p = (l.find? p).map f := by
  induction l with
  | nil => rfl
  | cons x r ih =>
    rw [updFirst]
    by_cases hx : p x = true
    · rw [if_pos hx, List.find?_cons_of_pos (hp x hx), List.find?_cons_of_pos hx]
      rfl
    · rw [if_neg hx, List.find?_cons_of_neg hx, List.find?_cons_of_neg hx, ih]

theorem find?_updFirst_other {α : Type} {p q : α → Bool} {f : α → α}
    (hq : ∀ x, p x = true → q x = false ∧ q (f x) = false) (l : List α) :
    (updFirst p f l).find? q = l.find? q := by
  induction l with
  | nil => rfl
  | cons x r ih =>
    rw [updFirst]
    by_cases hx : p x = true
    · rw [if_pos hx, List.find?_cons_of_neg (by simp [(hq x hx).2]), List.find?_cons_of_neg (by simp [(hq x hx).1])]
    · rw [if_neg hx, List.find?_cons, List.find?_cons, ih]

/-! ### Runs taken (R60, R388) -/

section
variable {s : State} {id : Nat} {c : Cmd} {spec : Bool}

theorem exec_run (h : s.cmdFor id (if spec then 0x21 else 0x20) = some c) :
    exec (if spec then .runSpeculative id else .run id) s = .next (runCmd spec s c) := by
  cases spec with
  | true => exact onCmd_some h _
  | false => exact onCmd_some h _

variable {ph : Phase} {bs : List Byte} {n : Nat} (hs : c.started = false) (hbad : s.runBad c spec = [])
  (hph : s.phase (c.at_ 0x10 1) = some ph) (hn : n = c.at_ 0x14 2)
  (hbs : n = 0 ∧ bs = [] ∨ n ≠ 0 ∧ s.hostRead (c.at_ 0x20 8) (16 * n) = some bs) (hb : bindingsBad bs n ph.bound = [])
include hs hbad hph hn hbs hb

/-- The effect of a RUN whose entry and binding list pass every check. -/
theorem runCmd_checked : runCmd spec s c = if n ≠ ph.bound.length then s.badField c.id 0x14
    else if c.resultLen ≠ 0 ∧ !((List.range n).map (bindingAt bs)).any (·.result) then s.badField c.id 0x04
    else if s.shutAmong (s.pparts ph.partMask) then s.finish c.id stDoorClosed
    else s.takeRun c ph ((List.range n).map (bindingAt bs)) spec := by
  have hread : (if n = 0 then some [] else s.hostRead (c.at_ 0x20 8) (16 * n)) = some bs := by
    rcases hbs with ⟨h0, he⟩ | ⟨h0, he⟩
    · rw [if_pos h0, he]
    · rw [if_neg h0, he]
  subst hn
  simp only [runCmd, hs, Bool.false_eq_true, if_false, hbad, checked_nil, hph, hread, hb, lowest]

end

/-- The command of a run that was taken has begun. -/
theorem takeRun_cmd {s : State} {c : Cmd} (h : s.cmd c.id = some c) (ph : Phase) (bs : List Binding) (spec : Bool) :
    (s.takeRun c ph bs spec).cmd c.id = some { c with started := true } := by
  have hf := find?_updFirst_same (p := fun x : Cmd => x.id == c.id) (f := fun x => { x with started := true }) (fun _ hx => hx) s.cmds
  have hc : s.cmds.find? (fun x => x.id == c.id) = some c := h
  rw [hc] at hf
  exact hf

theorem runTaken_claim : Claim.RunTaken := by
  intro s id c spec ph bs n h hs hbad hph hn hbs hb
  obtain ⟨hcmd, -, -, rfl⟩ := cmdFor_some h
  have hx := (exec_run h).trans (congrArg Host.Outcome.next (runCmd_checked hs hbad hph hn hbs hb))
  refine ⟨fun hlen hres => ?_, fun hlen => ?_⟩
  · have hr : ¬ (c.resultLen ≠ 0 ∧ (!((List.range n).map (bindingAt bs)).any (·.result)) = true) := by
      rintro ⟨h0, hany⟩
      obtain ⟨i, hi, hb⟩ := hres.resolve_left h0
      simp only [List.any_map, Bool.not_eq_true', List.any_eq_false, List.mem_range] at hany
      exact hany i hi hb
    rw [if_neg (not_not.2 hlen), if_neg hr] at hx
    refine ⟨fun hd => ?_, fun hd => ?_⟩
    · rw [if_neg (show ¬ s.shutAmong (s.pparts ph.partMask) = true by simp [hd])] at hx
      exact ⟨_, _, hx, rfl, rfl, rfl, takeRun_cmd hcmd .., fun _ => rfl, rfl, rfl, rfl⟩
    · rw [if_pos hd] at hx
      exact hx
  · rw [if_pos hlen] at hx
    exact hx

/-! ### Stages of shutters (R466, R467) -/

theorem pwrRegCount_cfld (s : State) (g k n off lo w : Nat) (h : off ≠ offRegionPwr g + 8 * k) :
    (s.pwrRegCount g k n).cfld off lo w = s.cfld off lo w := State.cfld_congr (State.creg_setCreg_ne s _ h) lo w

theorem beginStage_cfld (s : State) (g n : Nat) (hn : n < 16) : (s.beginStage g n).cfld (offRegionPwr g) 0 4 = n := by
  have h1 (x : Nat) : ((s.setCfld (offRegionPwr g) 0 4 n).setCfld (offRegionPwr g) 4 1 x).cfld (offRegionPwr g) 0 4 = n := by
    rw [State.cfld_setCfld_other _ _ _ (by omega) (by omega), State.cfld_setCfld_same _ _ _ (by omega)]
    omega
  unfold State.beginStage
  dsimp only
  split
  · rw [pwrRegCount_cfld _ _ _ _ _ _ _ (by omega)]
    exact h1 _
  · exact h1 _

theorem beginStage_units (s : State) (g n : Nat) :
    (s.beginStage g n).cores = s.cores ∧ (s.beginStage g n).mem = s.mem ∧ (s.beginStage g n).host = s.host := by
  unfold State.beginStage
  dsimp only
  split <;> simp [State.pwrRegCount, State.setCfld]

/-- What the end of a staging does to a core of region g. -/
def Core.staged (g c : Nat) (k : Core) : Core :=
  if powerRegionOf (clusterOf c) == g && k.staging then { k with staging := false, shutterOpen := true } else k

theorem nget_mapKey {α : Type} {d : α} {g : Nat → α → α} (hd : ∀ c, g c d = d) (m : NMap α) (k : Nat) :
    nget d (m.map fun e => (e.1, g e.1 e.2)) k = g k (nget d m k) := by
  induction m with
  | nil => exact (hd k).symm
  | cons a r ih =>
    rw [List.map_cons, nget, nget]
    split
    · next h => rw [h]
    · exact ih

/-- The state once the last stage of region g has ended, before cores that waited begin theirs. -/
def State.stagesEnded (s : State) (g : Nat) : State :=
  ((({ s with
      cores := s.cores.map fun (e : Nat × Core) => (e.1, e.2.staged g e.1)
      power := { s.power with slowSeen := ndel g s.power.slowSeen, slowRest := ndel g s.power.slowRest } } : State).setCfld
    (offRegionPwr g) 0 4 0).setCfld (offRegionPwr g) 4 1 0)

theorem shutterStageEnd_last {s : State} {g : Nat} (h : s.cfld (offRegionPwr g) 0 4 = 8) : shutterStageEnd g s =
    (s.stagesEnded g).startStaging g (((s.stagesEnded g).cores.filter fun (e : Nat × Core) =>
      powerRegionOf (clusterOf e.1) == g && e.2.running && !e.2.shutterOpen).map (·.1)) := by
  have hm : (fun (e : Nat × Core) => if (powerRegionOf (clusterOf e.1) == g) && e.2.staging then
      (e.1, { e.2 with staging := false, shutterOpen := true }) else e) = fun e => (e.1, e.2.staged g e.1) := by
    funext e
    unfold Core.staged
    split <;> rfl
  unfold shutterStageEnd State.stagesEnded
  simp only [h, hm]
  rfl

theorem stagesEnded_core (s : State) (g c : Nat) : (s.stagesEnded g).core c = (s.core c).staged g c :=
  nget_mapKey (fun c => by simp [Core.staged]) s.cores c

theorem startStaging_nil (s : State) (g : Nat) : s.startStaging g [] = s := by simp [State.startStaging]

/-- No core of the region waits where each that runs was staged or open. -/
theorem stagesEnded_noneWaits {s : State} {g : Nat} (h : ∀ e, e ∈ s.cores → powerRegionOf (clusterOf e.1) = g → e.2.running = true →
    e.2.staging = true ∨ e.2.shutterOpen = true) : ((s.stagesEnded g).cores.filter fun (e : Nat × Core) =>
      powerRegionOf (clusterOf e.1) == g && e.2.running && !e.2.shutterOpen) = [] := by
  rw [List.filter_eq_nil_iff]
  intro e he
  obtain ⟨e0, h0, rfl⟩ := List.mem_map.1 (show e ∈ s.cores.map fun (e : Nat × Core) => (e.1, e.2.staged g e.1) from he)
  have h1 := h e0 h0
  by_cases hg : powerRegionOf (clusterOf e0.1) = g
  · unfold Core.staged
    cases hst : e0.2.staging <;> simp [hg, hst] at h1 ⊢
    exact h1
  · simp [hg]

theorem shutterStages_claim : Claim.ShutterStages := by
  rintro s g n hu rfl
  have hx : exec (.shutterStageEnd g) s = .next (shutterStageEnd g s) := by
    change onUnit (Unit.powerRegion g) _ = _
    rw [onUnit, if_pos hu]
  refine ⟨fun h0 => ?_, fun h0 h8 => ?_, fun h8 hw => ?_⟩
  · rw [hx, shutterStageEnd]
    simp only [h0, if_true]
  · have hb : shutterStageEnd g s = s.beginStage g (s.cfld (offRegionPwr g) 0 4 + 1) := by
      rw [shutterStageEnd]
      simp only [h0.ne', h8, if_false, if_true]
    obtain ⟨hc, hm, hh⟩ := beginStage_units s g (s.cfld (offRegionPwr g) 0 4 + 1)
    exact ⟨_, hx.trans (by rw [hb]), beginStage_cfld s g _ (by omega), hc, fun a => by rw [hm], hh⟩
  · rw [shutterStageEnd_last h8, stagesEnded_noneWaits hw, List.map_nil, startStaging_nil] at hx
    refine ⟨_, hx, ?_, ?_, fun c hc hs => ?_, fun c hc => ?_, fun _ => rfl, rfl⟩
    · rw [State.stagesEnded, State.cfld_setCfld_other _ _ _ (by omega) (by omega), State.cfld_setCfld_same _ _ _ (by omega),
        Nat.zero_mod]
    · rw [State.stagesEnded, State.cfld_setCfld_same _ _ _ (by omega), Nat.zero_mod]
    · rw [stagesEnded_core, Core.staged, if_pos (by simp [hc, hs])]
    · rw [stagesEnded_core, Core.staged, if_neg (by rcases hc with h | h <;> simp [h])]

/-! ### What a launch leaves (R57, R60, R85) -/

/-- What the launch of a run leaves once the run is marked: runs, commands, host memory, regions and the place of virtual cores. -/
def State.ledger (s : State) : List Run × List Cmd × List Host.Cell × NMap Region × NMap Nat :=
  (s.runs, s.cmds, s.host, s.regions, s.img.place)

theorem ledger_of_aside {s t : State} (h : t.aside = s.aside) : t.ledger = s.ledger := by
  have hr : t.runs = s.runs := congrArg (fun x => x.1.2.2.2.1) h
  have hc : t.cmds = s.cmds := congrArg (fun x => x.1.2.2.1) h
  have hh : t.host = s.host := congrArg (fun x => x.2.1) h
  have hg : t.regions = s.regions := congrArg (fun x => x.1.2.2.2.2) h
  have hi : t.img = s.img := congrArg (fun x => x.2.2.1) h
  simp only [State.ledger, hr, hc, hh, hg, hi]

theorem placed_of_ledger {s t : State} (h : t.ledger = s.ledger) (v : Nat) : t.placed v = s.placed v := by
  have hp : t.img.place = s.img.place := congrArg (fun x => x.2.2.2.2) h
  simp only [State.placed, hp]

theorem foldl_ledger {α : Type} (f : State → α → State) (h : ∀ t a, (f t a).ledger = t.ledger) (l : List α) (s : State) :
    (l.foldl f s).ledger = s.ledger :=
  List.foldlRecOn (motive := fun t : State => t.ledger = s.ledger) l f rfl fun _ ht a _ => (h _ a).trans ht

/-- The ledger and the registers, for the steps of a launch that change neither. -/
def State.charted (s : State) :
    (List Run × List Cmd × List Host.Cell × NMap Region × NMap Nat) × NMap W64 × Bool :=
  (s.ledger, s.ctl, s.wca1608)

theorem charted_of_aside {s t : State} (h : t.aside = s.aside) (hf : t.fixed = s.fixed) : t.charted = s.charted := by
  have hc : t.ctl = s.ctl := congrArg (fun x => x.2.2.2.1) h
  have hw : t.wca1608 = s.wca1608 := congrArg Prod.snd hf
  simp only [State.charted, ledger_of_aside h, hc, hw]

theorem charted_ledger {s t : State} (h : t.charted = s.charted) : t.ledger = s.ledger := congrArg Prod.fst h

theorem moduleId_of_charted {s t : State} (h : t.charted = s.charted) : t.moduleId = s.moduleId := by
  have hc : t.ctl = s.ctl := congrArg (fun x => x.2.1) h
  have hw : t.wca1608 = s.wca1608 := congrArg (fun x => x.2.2) h
  simp only [State.moduleId, State.cfld, State.creg, hc, hw]

theorem foldl_charted {α : Type} (f : State → α → State) (h : ∀ t a, (f t a).charted = t.charted) (l : List α) (s : State) :
    (l.foldl f s).charted = s.charted :=
  List.foldlRecOn (motive := fun t : State => t.charted = s.charted) l f rfl fun _ ht a _ => (h _ a).trans ht

section
variable (s : State)

theorem zeroed_charted (a n : Nat) : ((s.invalRange a n true).zeroRange a n).charted = s.charted :=
  charted_of_aside ((zeroRange_aside ..).trans (invalRange_aside ..)) (by simp)

theorem modCore_charted (c : Nat) (f : Core → Core) : (s.modCore c f).charted = s.charted := rfl
theorem setBay_charted (n : Nat) (b : Bay) : (s.setBay n b).charted = s.charted := rfl
theorem ungate_charted (c : Nat) : (s.ungate c).charted = s.charted := rfl
theorem drew_charted : s.drew.charted = s.charted := rfl
theorem levelsReset_charted (c : Nat) : (s.levelsReset c).charted = s.charted := rfl
theorem syncRing_charted (c : Nat) : (s.syncRing c).charted = s.charted := charted_of_aside (syncRing_aside ..) (by simp)

theorem workingTo_charted (fn : Nat) (t : Tensor) : (s.workingTo fn t).charted = s.charted := by
  unfold State.workingTo
  extract_lets s1
  have h1 : s1.charted = s.charted := by
    unfold s1
    split
    · rfl
    · exact zeroed_charted ..
  exact h1

theorem stackTo_charted (im : Image) (fn p : Nat) : (s.stackTo im fn p).charted = s.charted := by
  unfold State.stackTo
  extract_lets st x s1 s2
  have h1 : s1.charted = s.charted := by
    unfold s1
    split
    · rfl
    · refine foldl_charted _ (fun t a => ?_) _ _
      exact zeroed_charted ..
  refine (foldl_charted _ (fun t a => ?_) _ _).trans h1
  rfl

theorem clearFor_charted (r : Run) (c split : Nat) : (s.clearFor r c split).charted = s.charted := by
  unfold State.clearFor
  extract_lets k sameFn keep b a n s1 s2
  have h1 : s1.charted = s.charted := by
    unfold s1
    split <;> rfl
  have h2 : s2.charted = s.charted := by
    unfold s2
    split
    · exact h1
    · rw [setBay_charted, h1]
  split
  · exact h2
  · rw [syncRing_charted, modCore_charted, h2]

theorem launchCore_charted (r : Run) (im : Image) (e : VcEntry) (entry : Nat) : (s.launchCore r im e entry).charted = s.charted := by
  unfold State.launchCore
  split
  · rfl
  · extract_lets
    rw [ungate_charted, levelsReset_charted, modCore_charted, clearFor_charted, drew_charted]

theorem launchProxy_charted (r : Run) (v : Nat) : (s.launchProxy r v).charted = s.charted := by
  unfold State.launchProxy
  split
  · rfl
  · rw [modCore_charted, clearFor_charted]

theorem setQuotas_charted (p : Nat) : (s.setQuotas p).charted = s.charted := by
  unfold State.setQuotas
  split
  · rfl
  · refine foldl_charted _ (fun t c => ?_) _ _
    refine (foldl_charted _ (fun u dom => ?_) _ _).trans (drew_charted t)
    rfl

theorem openRunEpochs_charted (r : Run) : (s.openRunEpochs r).charted = s.charted := by
  refine foldl_charted _ (fun t j => ?_) _ _
  refine (foldl_charted _ (fun u c => modCore_charted ..) _ _).trans ?_
  rfl

theorem pwrRegCount_ledger (g k n : Nat) : (s.pwrRegCount g k n).ledger = s.ledger := rfl

theorem beginStage_ledger (g n : Nat) : (s.beginStage g n).ledger = s.ledger := by
  unfold State.beginStage
  dsimp only
  split
  · rw [pwrRegCount_ledger]; rfl
  · rfl

theorem startStaging_ledger (g : Nat) (cs : List Nat) : (s.startStaging g cs).ledger = s.ledger := by
  unfold State.startStaging
  split
  · rfl
  · extract_lets s1
    rw [beginStage_ledger, pwrRegCount_ledger]
    have h1 : s1.ledger = s.ledger := by
      refine foldl_ledger _ (fun t c => ?_) cs s
      rfl
    exact h1

theorem openShutters_ledger (cs : List Nat) : (s.openShutters cs).ledger = s.ledger := by
  unfold State.openShutters
  exact foldl_ledger _ (fun t g => startStaging_ledger ..) _ _

theorem setRowModes_ledger (r : Run) (im : Image) (ph : Phase) : (s.setRowModes r im ph).ledger = s.ledger := by
  unfold State.setRowModes
  refine foldl_ledger _ (fun t x => ?_) _ _
  split <;> rfl

/-- The mode of a transom is bit 16 of its register, and no bit of the module's id. -/
theorem setRowModes_moduleId (r : Run) (im : Image) (ph : Phase) : (s.setRowModes r im ph).moduleId = s.moduleId := by
  unfold State.setRowModes
  refine List.foldlRecOn (motive := fun t : State => t.moduleId = s.moduleId) _ _ rfl fun t ht x _ => ?_
  split
  · refine Eq.trans ?_ ht
    rename_i c _
    by_cases ho : offSeunonId = offBayCfg (clusterOf c)
    · rw [State.moduleId, State.moduleId, ho, State.cfld_setCfld_other _ _ _ (by omega) (by omega)]
    · rw [State.moduleId, State.moduleId, State.cfld_setCfld_ne _ _ _ _ _ _ ho]
  · exact ht

end

/-! ### A core that begins a launch (R85, R86, R95) -/

/-- What a core shows once it has begun run r as the virtual core of e at entry. -/
structure Core.Begun (k : Core) (r : Run) (module : Nat) (e : VcEntry) (entry steps : Nat) : Prop where
  running : k.running = true
  done : k.done = false
  pc : k.pc = entry
  run : k.run = r.id + 1
  sregs : ∀ n, k.sreg n = 0
  pregs : ∀ n, n ≠ 0 → k.preg n = false
  vregs : ∀ n, k.vreg n = 0
  acc : k.acc = []
  groups : k.groups = []
  td : k.td.length = e.descs.length
  vcore : k.csrReg 0x001 = w64 (module * 2 ^ 16 + e.vcore)
  info : k.csrReg 0x002 = r.info
  split : k.csrReg 0x010 = w64 e.split
  spad : k.csrReg 0x011 = w64 (98304 - 16384 * e.split)
  priv : k.csrReg 0x012 = w64 (steps * 32768)
  cls : k.csrReg 0x018 = w64 e.cls
  seed : k.csrReg 0x019 = r.seed ^^^ (w64 (e.vcore + 1) * 0x9E3779B97F4A7C15)

theorem begun_begin (k : Core) (r : Run) (module entry len code steps commits : Nat) (e : VcEntry) (td : List Desc)
    (htd : td.length = e.descs.length) :
    (k.begin r module e.vcore entry len code e.split e.cls steps td commits).Begun r module e entry steps := by
  unfold Core.begin
  simp only [List.foldl_cons, List.foldl_nil]
  constructor
  case td => exact htd
  case sregs => intro n; simp [Core.sreg, nget]
  case pregs => intro n hn; simp [Core.preg, nget, hn]
  case vregs => intro n; simp [Core.vreg, nget]
  all_goals simp [Core.csrReg_setCsr, splitBytes, launchSeed]

/-- A core whose epoch and staging alone have changed. -/
theorem Core.Begun.staged {k : Core} {r : Run} {module entry steps : Nat} {e : VcEntry} (h : k.Begun r module e entry steps)
    (x : Nat) (b : Bool) : ({ k with epoch := x, staging := b } : Core).Begun r module e entry steps := { h with }

/-- Two states whose cores are equal but for their epochs and their staging. -/
def StagedOnly (s t : State) : Prop := ∀ c, t.core c = { s.core c with epoch := (t.core c).epoch, staging := (t.core c).staging }

theorem stagedOnly_of_cores {s t : State} (h : t.cores = s.cores) : StagedOnly s t := fun c => by
  have hc : t.core c = s.core c := by simp only [State.core, h]
  rw [hc]

theorem StagedOnly.trans {s t u : State} (h : StagedOnly s t) (g : StagedOnly t u) : StagedOnly s u := fun c => by
  rw [g c, h c]

theorem stagedOnly_foldl {α : Type} (f : State → α → State) (h : ∀ t a, StagedOnly t (f t a)) (l : List α) (s : State) :
    StagedOnly s (l.foldl f s) :=
  List.foldlRecOn (motive := fun t : State => StagedOnly s t) l f (stagedOnly_of_cores rfl) fun _ ht a _ => ht.trans (h _ a)

section
variable (s : State)

theorem stagedOnly_modCore (c : Nat) (f : Core → Core)
    (h : f (s.core c) = { s.core c with epoch := (f (s.core c)).epoch, staging := (f (s.core c)).staging }) :
    StagedOnly s (s.modCore c f) := by
  intro x
  by_cases hx : x = c
  · subst hx
    rw [State.core_modCore_same]
    exact h
  · rw [State.core_modCore_ne s f hx]

theorem stagedOnly_setQuotas (p : Nat) : StagedOnly s (s.setQuotas p) := by
  unfold State.setQuotas
  split
  · exact stagedOnly_of_cores rfl
  · refine stagedOnly_foldl _ (fun t c => ?_) _ _
    refine (stagedOnly_of_cores (s := t) (t := t.drew) rfl).trans (stagedOnly_foldl _ (fun u dom => ?_) _ _)
    exact stagedOnly_of_cores rfl

theorem stagedOnly_openRunEpochs (r : Run) : StagedOnly s (s.openRunEpochs r) := by
  refine stagedOnly_foldl _ (fun t j => ?_) _ _
  extract_lets x new s1 key
  refine (stagedOnly_of_cores (s := t) (t := s1) rfl).trans (stagedOnly_foldl _ (fun u c => ?_) _ _)
  exact stagedOnly_modCore u c _ rfl

theorem stagedOnly_startStaging (g : Nat) (cs : List Nat) : StagedOnly s (s.startStaging g cs) := by
  unfold State.startStaging
  split
  · exact stagedOnly_of_cores rfl
  · extract_lets s1
    have h1 : StagedOnly s s1 := stagedOnly_foldl _ (fun t c => stagedOnly_modCore t c _ rfl) cs s
    exact h1.trans (stagedOnly_of_cores (beginStage_units ..).1)

theorem stagedOnly_openShutters (cs : List Nat) : StagedOnly s (s.openShutters cs) := by
  unfold State.openShutters
  refine stagedOnly_foldl _ (fun t g => ?_) _ _
  exact stagedOnly_startStaging t g _

end

/-! ### The cores that a run starts (R59, R308) -/

section
variable (s : State)

theorem ungate_core (c x : Nat) : (s.ungate c).core x = s.core x := rfl
theorem levelsReset_core (c x : Nat) : (s.levelsReset c).core x = s.core x := rfl

theorem clearFor_core_ne (r : Run) {c x : Nat} (split : Nat) (h : x ≠ c) : (s.clearFor r c split).core x = s.core x := by
  unfold State.clearFor
  extract_lets k sameFn keep b a n s1 s2
  have h1 : s1.core x = s.core x := by
    unfold s1
    split
    · rfl
    · exact State.core_modCore_ne s _ h
  have h2 : s2.core x = s.core x := by
    unfold s2
    split
    · exact h1
    · exact h1
  split
  · exact h2
  · rw [core_of_aside (syncRing_aside ..), State.core_modCore_ne _ _ h, h2]

theorem launchCore_core_ne (r : Run) (im : Image) (e : VcEntry) (entry : Nat) {x : Nat} (h : s.placed e.vcore ≠ some x) :
    (s.launchCore r im e entry).core x = s.core x := by
  unfold State.launchCore
  split
  · rfl
  · next c hc =>
    have hx : x ≠ c := fun hx => h (hx ▸ hc)
    extract_lets prog td s1
    have h1 : s1.core x = s.core x := by
      unfold s1
      rw [State.core_modCore_ne _ _ hx, clearFor_core_ne _ _ _ hx]
      rfl
    exact h1

theorem launchProxy_core_ne (r : Run) (v : Nat) {x : Nat} (h : s.placed v ≠ some x) : (s.launchProxy r v).core x = s.core x := by
  unfold State.launchProxy
  split
  · rfl
  · next c hc =>
    have hx : x ≠ c := fun hx => h (hx ▸ hc)
    rw [State.core_modCore_ne _ _ hx, clearFor_core_ne _ _ _ hx]

theorem launchCore_begun (r : Run) (im : Image) (e : VcEntry) (entry : Nat) {c : Nat} (h : s.placed e.vcore = some c) :
    ((s.launchCore r im e entry).core c).Begun r s.moduleId e entry im.steps := by
  unfold State.launchCore
  rw [h]
  dsimp only
  rw [ungate_core, levelsReset_core, State.core_modCore_same]
  exact begun_begin _ _ _ _ _ _ _ _ _ _ (List.length_map ..)

end

/-- Launches leave a core that carries none of the virtual cores. -/
theorem foldl_launchCore_ne (r : Run) (im : Image) (l : List (VcEntry × Nat)) {s : State} {c : Nat}
    (h : ∀ x ∈ l, s.placed x.1.vcore ≠ some c) :
    (l.foldl (fun (st : State) (x : VcEntry × Nat) => st.launchCore r im x.1 x.2) s).core c = s.core c := by
  induction l generalizing s with
  | nil => rfl
  | cons a l ih =>
    have hp := placed_of_ledger (charted_ledger (launchCore_charted s r im a.1 a.2))
    rw [List.foldl_cons, ih fun x hx => by rw [hp]; exact h x (List.mem_cons_of_mem _ hx)]
    exact launchCore_core_ne s r im a.1 a.2 (h a List.mem_cons_self)

theorem foldl_launchProxy_ne (r : Run) (l : List Nat) {s : State} {c : Nat} (h : ∀ v ∈ l, s.placed v ≠ some c) :
    (l.foldl (fun (st : State) (v : Nat) => st.launchProxy r v) s).core c = s.core c := by
  induction l generalizing s with
  | nil => rfl
  | cons a l ih =>
    have hp := placed_of_ledger (charted_ledger (launchProxy_charted s r a))
    rw [List.foldl_cons, ih fun x hx => by rw [hp]; exact h x (List.mem_cons_of_mem _ hx)]
    exact launchProxy_core_ne s r a (h a List.mem_cons_self)

theorem foldl_launchCore_charted (r : Run) (im : Image) (l : List (VcEntry × Nat)) (s : State) :
    (l.foldl (fun (st : State) (x : VcEntry × Nat) => st.launchCore r im x.1 x.2) s).charted = s.charted :=
  foldl_charted _ (fun t x => launchCore_charted t r im x.1 x.2) l s

/-- Every virtual core of a list that no two share a core of begins. -/
theorem foldl_launchCore_begun (r : Run) (im : Image) {l : List (VcEntry × Nat)} {s : State} {e : VcEntry} {entry c : Nat}
    (hnd : (l.map fun (x : VcEntry × Nat) => s.placed x.1.vcore).Nodup) (he : (e, entry) ∈ l) (hc : s.placed e.vcore = some c) :
    ((l.foldl (fun (st : State) (x : VcEntry × Nat) => st.launchCore r im x.1 x.2) s).core c).Begun r s.moduleId e entry im.steps := by
  induction l generalizing s with
  | nil => cases he
  | cons a l ih =>
    have hch := launchCore_charted s r im a.1 a.2
    have hp := placed_of_ledger (charted_ledger hch)
    rw [List.map_cons, List.nodup_cons] at hnd
    obtain ⟨hout, hnd⟩ := hnd
    rw [List.foldl_cons]
    rcases List.mem_cons.1 he with rfl | he
    · rw [foldl_launchCore_ne]
      · exact launchCore_begun s r im e entry hc
      · intro x hx hxc
        rw [hp] at hxc
        exact hout (List.mem_map.2 ⟨x, hx, by rw [hxc]; exact hc.symm⟩)
    · rw [← moduleId_of_charted hch]
      exact ih (by simpa only [hp] using hnd) he (by rw [hp]; exact hc)

/-! ### The launch of a run -/

/-- The state of a launch before its cores begin: the run marked, WORKING tensors and near-bank stacks handed over, transoms set. -/
def State.readied (s : State) (r : Run) (im : Image) (ph : Phase) (onNb : Bool) (starts : List (VcEntry × Nat)) : State :=
  let named := (starts.flatMap fun (x : VcEntry × Nat) => x.1.descs).eraseDups
  let s2 := (im.tensors.filter fun t => t.kind == 2 && named.contains t.id).foldl (fun (st : State) (t : Tensor) => st.workingTo r.fn t)
    (s.modRun r.id fun _ => r)
  let s3 := if onNb then (ph.seqs.filterMap fun q => match nget 0 s.img.lpart q.lpart with
      | 0 => none
      | p + 1 => some p).eraseDups.foldl (fun (st : State) (p : Nat) => st.stackTo im r.fn p) s2 else s2
  s3.setRowModes r im ph

theorem readied_ledger (s : State) (r : Run) (im : Image) (ph : Phase) (onNb : Bool) (starts : List (VcEntry × Nat)) :
    (s.readied r im ph onNb starts).ledger = (s.modRun r.id fun _ => r).ledger ∧ (s.readied r im ph onNb starts).moduleId = s.moduleId := by
  unfold State.readied
  extract_lets named s2 s3
  have h2 : s2.charted = (s.modRun r.id fun _ => r).charted := foldl_charted _ (fun t x => workingTo_charted t r.fn x) _ _
  have h3 : s3.charted = (s.modRun r.id fun _ => r).charted := by
    unfold s3
    split
    · exact (foldl_charted _ (fun t p => stackTo_charted t im r.fn p) _ _).trans h2
    · exact h2
  have hm : s3.moduleId = (s.modRun r.id fun _ => r).moduleId := moduleId_of_charted h3
  exact ⟨(setRowModes_ledger ..).trans (charted_ledger h3), (setRowModes_moduleId ..).trans hm⟩

/-- The cores and proxies of a run begin. -/
def State.begun (s : State) (r : Run) (im : Image) (ph : Phase) (onNb : Bool) (starts : List (VcEntry × Nat)) : State :=
  let s4 := starts.foldl (fun (st : State) (x : VcEntry × Nat) => st.launchCore r im x.1 x.2) s
  if onNb then (ph.proxies.filterMap id).foldl (fun (st : State) (v : Nat) => st.launchProxy r v) s4 else s4

theorem begun_charted (s : State) (r : Run) (im : Image) (ph : Phase) (onNb : Bool) (starts : List (VcEntry × Nat)) :
    (s.begun r im ph onNb starts).charted = s.charted := by
  unfold State.begun
  extract_lets s4
  have h4 : s4.charted = s.charted := foldl_launchCore_charted r im starts s
  split
  · exact (foldl_charted _ (fun t v => launchProxy_charted t r v) _ _).trans h4
  · exact h4

/-- No two virtual cores of a launch, nor a proxy, share a core. -/
def State.LaunchApart (s : State) (ph : Phase) (onNb : Bool) (starts : List (VcEntry × Nat)) : Prop :=
  ((starts.map fun (x : VcEntry × Nat) => s.placed x.1.vcore) ++ (if onNb then (ph.proxies.filterMap fun o => o).map s.placed else [])).Nodup

theorem begun_cores {s : State} (r : Run) (im : Image) {ph : Phase} {onNb : Bool} {starts : List (VcEntry × Nat)}
    (hnd : s.LaunchApart ph onNb starts) {e : VcEntry} {entry c : Nat} (he : (e, entry) ∈ starts) (hc : s.placed e.vcore = some c) :
    ((s.begun r im ph onNb starts).core c).Begun r s.moduleId e entry im.steps := by
  unfold State.LaunchApart at hnd
  obtain ⟨hl, -, hdis⟩ := List.nodup_append.1 hnd
  have hb := foldl_launchCore_begun r im hl he hc
  unfold State.begun
  extract_lets s4
  split
  · next hnb =>
    rw [foldl_launchProxy_ne]
    · exact hb
    · intro v hv hvc
      rw [placed_of_ledger (charted_ledger (foldl_launchCore_charted r im starts s))] at hvc
      rw [if_pos hnb] at hdis
      exact hdis _ (List.mem_map.2 ⟨(e, entry), he, rfl⟩) _ (List.mem_map.2 ⟨v, hv, rfl⟩) (hc.trans hvc.symm)
  · exact hb

/-- The end of a launch: quotas, the epochs of a speculative run, and the shutters. -/
def State.launched (s s0 : State) (r : Run) (confirmHeld : Bool) (starts : List (VcEntry × Nat)) : State :=
  let s6 := (s0.pparts r.mask).foldl (fun (st : State) (p : Nat) => st.setQuotas p) s
  let s7 := if r.spec then s6.openRunEpochs { r with confirmHeld := confirmHeld } else s6
  s7.openShutters (starts.filterMap fun (x : VcEntry × Nat) => s0.placed x.1.vcore)

theorem launched_ledger (s s0 : State) (r : Run) (confirmHeld : Bool) (starts : List (VcEntry × Nat)) :
    (s.launched s0 r confirmHeld starts).ledger = s.ledger ∧ StagedOnly s (s.launched s0 r confirmHeld starts) := by
  unfold State.launched
  extract_lets s6 s7
  have h6 : s6.ledger = s.ledger ∧ StagedOnly s s6 :=
    ⟨charted_ledger (foldl_charted _ (fun t p => setQuotas_charted t p) _ _),
      stagedOnly_foldl _ (fun t p => stagedOnly_setQuotas t p) _ _⟩
  have h7 : s7.ledger = s.ledger ∧ StagedOnly s s7 := by
    unfold s7
    split
    · exact ⟨(charted_ledger (openRunEpochs_charted ..)).trans h6.1, h6.2.trans (stagedOnly_openRunEpochs s6 _)⟩
    · exact h6
  exact ⟨(openShutters_ledger ..).trans h7.1, h7.2.trans (stagedOnly_openShutters s7 _)⟩

theorem startRun_eq (s : State) (r0 : Run) (im : Image) (ph : Phase) {thin onNb : Bool} {r : Run} {starts : List (VcEntry × Nat)}
    (ht : thin = (ph.hasThin && decide (r0.batch ≤ ph.thinMax))) (hn : onNb = (thin && !r0.spec && s.thinOnNb im ph))
    (hs : starts = ph.starts thin onNb) (hr : r = { r0 with st := .running, thin := onNb, confirmHeld := false }) :
    s.startRun r0 im ph = ((s.readied r im ph onNb starts).begun r im ph onNb starts).launched s r r0.confirmHeld starts := by
  subst hr hs hn ht
  rfl

/-- What a launch leaves of the ledger and shows at its cores. -/
theorem startRun_begun {s : State} {r0 : Run} {im : Image} {ph : Phase} {thin onNb : Bool} {r : Run} {starts : List (VcEntry × Nat)}
    (ht : thin = (ph.hasThin && decide (r0.batch ≤ ph.thinMax))) (hn : onNb = (thin && !r0.spec && s.thinOnNb im ph))
    (hs : starts = ph.starts thin onNb) (hr : r = { r0 with st := .running, thin := onNb, confirmHeld := false })
    (hnd : s.LaunchApart ph onNb starts) : (s.startRun r0 im ph).ledger = (s.modRun r.id fun _ => r).ledger ∧
      ∀ e entry c, (e, entry) ∈ starts → s.placed e.vcore = some c →
        ((s.startRun r0 im ph).core c).Begun r s.moduleId e entry im.steps := by
  rw [startRun_eq s r0 im ph ht hn hs hr]
  obtain ⟨hl, hm⟩ := readied_ledger s r im ph onNb starts
  obtain ⟨hl2, hst⟩ := launched_ledger ((s.readied r im ph onNb starts).begun r im ph onNb starts) s r r0.confirmHeld starts
  have hp (v : Nat) : (s.readied r im ph onNb starts).placed v = s.placed v := placed_of_ledger hl v
  have hpf : (s.readied r im ph onNb starts).placed = s.placed := funext hp
  refine ⟨hl2.trans ((charted_ledger (begun_charted ..)).trans hl), fun e entry c he hc => ?_⟩
  rw [hst c, ← hm]
  exact (begun_cores r im (by unfold State.LaunchApart at hnd ⊢; rw [hpf]; exact hnd) he (by rw [hp]; exact hc)).staged _ _

theorem exec_runLaunch {s : State} {id : Nat} {r : Run} {im : Image} {ph : Phase} (hr : s.run id = some r) (hi : s.img.image = some im)
    (hw : r.st = .waiting) (hm : s.mayStart r = true) (hph : s.phase r.phase = some ph) (hd : s.shutAmong (s.pparts r.mask) = false)
    (ha : (s.pparts r.mask).any s.asleep = false)
    (hp : ∀ x, x ∈ ph.starts (ph.hasThin && decide (r.batch ≤ ph.thinMax)) false →
      ∃ c, s.placed x.1.vcore = some c ∧ Unit.core c = true) :
    exec (.runLaunch id) s = .next (s.startRun r im ph) := by
  have hnone : (ph.starts (ph.hasThin && decide (r.batch ≤ ph.thinMax)) false).any
      (fun (x : VcEntry × Nat) => (s.placed x.1.vcore).isNone) = false := by
    rw [List.any_eq_false]
    intro x hx
    obtain ⟨c, hc, -⟩ := hp x hx
    simp [hc]
  change Host.Outcome.next (runLaunch id s) = _
  unfold runLaunch
  simp only [hr, hi, hw, hm, hph, hd, hnone, State.awakeFor, ha, ne_eq, not_true_eq_false, Bool.not_true,
    Bool.false_eq_true, or_self, if_false]

theorem run_modRun_same {s : State} {id : Nat} {r r' : Run} (h : s.run id = some r) (hid : r'.id = id) :
    (s.modRun id fun _ => r').run id = some r' := by
  have hf := find?_updFirst_same (p := fun x : Run => x.id == id) (f := fun _ => r') (fun _ _ => by simp [hid]) s.runs
  have hc : s.runs.find? (fun x => x.id == id) = some r := h
  rw [hc] at hf
  exact hf

theorem run_modRun_ne {s : State} {id j : Nat} {r' : Run} (hid : r'.id = id) (hj : j ≠ id) : (s.modRun id fun _ => r').run j = s.run j := by
  refine find?_updFirst_other (p := fun x : Run => x.id == id) (q := fun x : Run => x.id == j) (fun x hx => ?_) s.runs
  rw [beq_iff_eq] at hx
  exact ⟨by simp [hx, hj.symm], by simp [hid, hj.symm]⟩

theorem runStarts_claim : Claim.RunStarts := by
  intro s id r im ph thin onNb starts hr hi hw hm hph hd ha ht hn hs hp hnd
  have hid : r.id = id := by simpa using List.find?_some hr
  obtain ⟨hl, hb⟩ := startRun_begun (r0 := r) ht hn hs rfl hnd
  have hruns : (s.startRun r im ph).runs = (s.modRun id fun _ => { r with st := .running, thin := onNb, confirmHeld := false }).runs := by
    rw [← hid]
    exact congrArg Prod.fst hl
  refine ⟨_, _, exec_runLaunch hr hi hw hm hph hd ha (ht ▸ hp), rfl, ?_, fun j hj => ?_, congrArg (fun x => x.2.1) hl,
    congrArg (fun x => x.2.2.1) hl, congrArg (fun x => x.2.2.2.1) hl, fun e entry c he hc => ?_⟩
  · rw [State.run, hruns]
    exact run_modRun_same hr hid
  · rw [State.run, hruns]
    exact run_modRun_ne (s := s) hid hj
  · have h := hb e entry c he hc
    exact ⟨h.running, h.done, h.pc, hid ▸ h.run, h.sregs, h.pregs, h.vregs, h.acc, h.groups, h.td, h.vcore, h.info, h.split, h.spad,
      h.priv, h.cls, h.seed⟩

/-- Settles O33: the command's checks by `runCmd_checked`, the launch by `Core.Begun`, which every step after a core's own keeps, and
the stages of shutters by `Core.staged`. -/
theorem runStarts : Obligations.RunStarts := ⟨runTaken_claim, runStarts_claim, shutterStages_claim⟩

end Sys2Proof.Machine
end

section
namespace Sys2Proof.Machine
open Sys2Proof

/-! ### The words of instructions (R75, R77, R78) -/

/-- The major opcode of a word: its top eight bits (R75). -/
def majorOf (w : W64) : Nat := (w.extractLsb' 56 8).toNat

theorem toNat_extract (w : W64) (lo k : Nat) : (w.extractLsb' lo k).toNat = w.toNat / 2 ^ lo % 2 ^ k := by
  rw [BitVec.extractLsb'_toNat, Nat.shiftRight_eq_div_pow]

theorem toNat_getLsbD (w : W64) (i : Nat) : (w.getLsbD i).toNat = w.toNat / 2 ^ i % 2 := by
  rw [BitVec.getLsbD, Nat.toNat_testBit]

theorem toNat_w64 {n : Nat} (h : n < 18446744073709551616) : (w64 n).toNat = n := Nat.mod_eq_of_lt h

/-- A bit is the bit whose number it has. -/
theorem bool_of_toNat {a b : Bool} (h : a.toNat = b.toNat) : a = b := by cases a <;> cases b <;> simp_all

theorem wordA_toNat {m : Nat} (h : m < 256) (f : FormA) : (wordA m f).toNat =
    m * 2 ^ 56 + f.pred.toNat * 2 ^ 53 + f.pneg.toNat * 2 ^ 52 + f.dst.toNat * 2 ^ 46 + f.src1.toNat * 2 ^ 40 +
    f.src2.toNat * 2 ^ 34 + f.src3.toNat * 2 ^ 28 + f.func.toNat * 2 ^ 20 + f.type.toNat * 2 ^ 16 + f.mod.toNat := by
  have := f.pneg.toNat_lt
  exact toNat_w64 (by omega)

theorem wordB_toNat {m : Nat} (h : m < 256) (f : FormB) : (wordB m f).toNat =
    m * 2 ^ 56 + f.pred.toNat * 2 ^ 53 + f.pneg.toNat * 2 ^ 52 + f.dst.toNat * 2 ^ 46 + f.src1.toNat * 2 ^ 40 +
    f.func.toNat * 2 ^ 32 + f.imm.toNat := by
  have := f.pneg.toNat_lt
  exact toNat_w64 (by omega)

theorem wordC_toNat {m : Nat} (h : m < 256) (f : FormC) : (wordC m f).toNat =
    m * 2 ^ 56 + f.pred.toNat * 2 ^ 53 + f.pneg.toNat * 2 ^ 52 + f.dst.toNat * 2 ^ 46 + f.imm.toNat := by
  have := f.pneg.toNat_lt
  exact toNat_w64 (by omega)

theorem ofWordA_wordA {m : Nat} (h : m < 256) (f : FormA) : majorOf (wordA m f) = m ∧ ofWordA (wordA m f) = f := by
  have hw := wordA_toNat h f
  have hp := f.pneg.toNat_lt
  refine ⟨by rw [majorOf, toNat_extract, hw]; omega, ?_⟩
  unfold ofWordA
  congr 1
  case e_pneg => exact bool_of_toNat (by rw [toNat_getLsbD, hw]; omega)
  all_goals exact BitVec.eq_of_toNat_eq (by rw [toNat_extract, hw]; omega)

theorem ofWordB_wordB {m : Nat} (h : m < 256) (f : FormB) : majorOf (wordB m f) = m ∧ ofWordB (wordB m f) = f := by
  have hw := wordB_toNat h f
  have hp := f.pneg.toNat_lt
  refine ⟨by rw [majorOf, toNat_extract, hw]; omega, ?_⟩
  unfold ofWordB
  congr 1
  case e_pneg => exact bool_of_toNat (by rw [toNat_getLsbD, hw]; omega)
  all_goals exact BitVec.eq_of_toNat_eq (by rw [toNat_extract, hw]; omega)

theorem ofWordC_wordC {m : Nat} (h : m < 256) (f : FormC) : majorOf (wordC m f) = m ∧ ofWordC (wordC m f) = f := by
  have hw := wordC_toNat h f
  have hp := f.pneg.toNat_lt
  refine ⟨by rw [majorOf, toNat_extract, hw]; omega, ?_⟩
  unfold ofWordC
  congr 1
  case e_pneg => exact bool_of_toNat (by rw [toNat_getLsbD, hw]; omega)
  all_goals exact BitVec.eq_of_toNat_eq (by rw [toNat_extract, hw]; omega)

theorem majorOf_lt (w : W64) : majorOf w < 256 := (w.extractLsb' 56 8).isLt

theorem wordA_ofWordA (w : W64) : wordA (majorOf w) (ofWordA w) = w := by
  refine BitVec.eq_of_toNat_eq ((wordA_toNat (majorOf_lt w) _).trans ?_)
  have h : w.toNat % (2 ^ 16 * 2 ^ 4 * 2 ^ 8 * 2 ^ 6 * 2 ^ 6 * 2 ^ 6 * 2 ^ 6 * 2 * 2 ^ 3 * 2 ^ 8) = w.toNat := Nat.mod_eq_of_lt w.isLt
  iterate 9 rw [Nat.mod_mul] at h
  simp only [Nat.reducePow, Nat.reduceMul] at h
  simp only [majorOf, ofWordA, toNat_extract, toNat_getLsbD, Nat.reducePow, Nat.pow_zero, Nat.div_one]
  linarith

theorem wordB_ofWordB (w : W64) : wordB (majorOf w) (ofWordB w) = w := by
  refine BitVec.eq_of_toNat_eq ((wordB_toNat (majorOf_lt w) _).trans ?_)
  simp only [majorOf, ofWordB, toNat_extract, toNat_getLsbD]
  omega

theorem wordC_ofWordC (w : W64) : wordC (majorOf w) (ofWordC w) = w := by
  refine BitVec.eq_of_toNat_eq ((wordC_toNat (majorOf_lt w) _).trans ?_)
  simp only [majorOf, ofWordC, toNat_extract, toNat_getLsbD]
  omega

theorem wordA_iff {m : Nat} (h : m < 256) (f : FormA) (w : W64) : w = wordA m f ↔ majorOf w = m ∧ ofWordA w = f :=
  ⟨fun e => e ▸ ofWordA_wordA h f, fun ⟨hm, hf⟩ => hm ▸ hf ▸ (wordA_ofWordA w).symm⟩

theorem wordB_iff {m : Nat} (h : m < 256) (f : FormB) (w : W64) : w = wordB m f ↔ majorOf w = m ∧ ofWordB w = f :=
  ⟨fun e => e ▸ ofWordB_wordB h f, fun ⟨hm, hf⟩ => hm ▸ hf ▸ (wordB_ofWordB w).symm⟩

theorem wordC_iff {m : Nat} (h : m < 256) (f : FormC) (w : W64) : w = wordC m f ↔ majorOf w = m ∧ ofWordC w = f :=
  ⟨fun e => e ▸ ofWordC_wordC h f, fun ⟨hm, hf⟩ => hm ▸ hf ▸ (wordC_ofWordC w).symm⟩

theorem formA_major : ∀ e ∈ formA, e.1 < 256 := by decide
theorem formB_major : ∀ e ∈ formB, e.1 < 256 := by decide
theorem formC_major : ∀ e ∈ formC, e.1 < 256 := by decide

/-- A word of an instruction is one with its major opcode, and its selecting code where it has one; the instruction's fields are the
word's own. -/
theorem spells_iff (who : Agent) (i : Instr) (w : W64) : Spells who i w ↔
    (∃ e ∈ formA, majorOf w = e.1 ∧ (∀ x, e.2.1 = some x → (ofWordA w).func.toNat = x) ∧ e.2.2 who (ofWordA w) = i) ∨
    (∃ e ∈ formB, majorOf w = e.1 ∧ e.2 who (ofWordB w) = i) ∨ (∃ e ∈ formC, majorOf w = e.1 ∧ e.2 who (ofWordC w) = i) := by
  refine or_congr (exists_congr fun e => and_congr_right fun he => ?_)
    (or_congr (exists_congr fun e => and_congr_right fun he => ?_) (exists_congr fun e => and_congr_right fun he => ?_))
  · simp only [wordA_iff (formA_major e he)]
    exact ⟨fun ⟨f, hs, hi, hm, hf⟩ => hf ▸ ⟨hm, hs, hi.symm⟩, fun ⟨hm, hs, hi⟩ => ⟨_, hs, hi.symm, hm, rfl⟩⟩
  · simp only [wordB_iff (formB_major e he)]
    exact ⟨fun ⟨f, hi, hm, hf⟩ => hf ▸ ⟨hm, hi.symm⟩, fun ⟨hm, hi⟩ => ⟨_, hi.symm, hm, rfl⟩⟩
  · simp only [wordC_iff (formC_major e he)]
    exact ⟨fun ⟨f, hi, hm, hf⟩ => hf ▸ ⟨hm, hi.symm⟩, fun ⟨hm, hi⟩ => ⟨_, hi.symm, hm, rfl⟩⟩

/-- Settles O57: the fields of a word are those of the instruction it spells, and the decoder's table is the list of forms. -/
theorem instructionWords : Obligations.InstructionWords := by
  intro who w i
  rw [spells_iff]
  simp only [formA, formB, formC, List.cons_append, List.nil_append, List.mem_cons, List.not_mem_nil, or_false, exists_eq_or_imp, exists_eq_left]
  unfold coreInstr
  dsimp only
  rw [show (w.extractLsb' 56 8).toNat = majorOf w from rfl]
  split
  case h_25 h =>
    rw [h]
    split <;> simp only [imp_false] at * <;> simp [*]
  case h_46 h =>
    rw [h]
    split <;> simp only [imp_false] at * <;> simp [*]
  case h_79 =>
    simp only [imp_false] at *
    simp [*]
  all_goals
    rename_i h
    simp [h]

end Sys2Proof.Machine
end

section
namespace Sys2Proof.Machine
open Sys2Proof

/-! ### The state after module reset -/

/-- Register k of n registers is one of them. -/
theorem isReg_at {base step n k : Nat} (hs : 0 < step) (hk : k < n) : isReg (base + k * step) base step n = true := by
  simp [isReg, Nat.mul_mod_left, Nat.mul_div_cancel _ hs, hk]

/-- An offset past the last register is none of them. -/
theorem isReg_past {off base step n : Nat} (hs : 0 < step) (h : base + n * step ≤ off) : isReg off base step n = false := by
  have : n ≤ (off - base) / step := (Nat.le_div_iff_mul_le hs).2 (by omega)
  simp [isReg, this]

theorem ctlReset_bayCfg {n : Nat} (h : n < 1344) : ctlReset true (offBayCfg n) = 0x1000 :=
  if_pos (isReg_at (base := offBayCfg 0) (by decide) h)

theorem ctlReset_regionPwr {g : Nat} (h : g < 336) : ctlReset true (offRegionPwr g) = 0xC8000000 := by
  have hg : offRegionPwr g = offRegionPwr 0 + g * 0x40 := by simp [offRegionPwr]
  have past (base step n : Nat) (hs : 0 < step) (hb : base + n * step ≤ 0x6C000000) : isReg (offRegionPwr g) base step n = false :=
    isReg_past hs (by unfold offRegionPwr; omega)
  unfold ctlReset
  rw [past (offBayCfg 0) _ _ (by decide) (by decide), past (offRemote 0) _ _ (by decide) (by decide),
    past (offRegMode 0) _ _ (by decide) (by decide), past (offHbmMap 0) _ _ (by decide) (by decide),
    past (offNb 0) _ _ (by decide) (by decide), show isReg (offRegionPwr g) (offRegionPwr 0) 0x40 336 = true from hg ▸ isReg_at (by decide) h,
    isReg_past (base := 0x68000000) (by decide) (by unfold offRegionPwr; omega)]
  simp only [Bool.and_false, Bool.false_eq_true, if_false, if_true]

theorem ctlReset_partition : ∀ p, p < 8 → ctlReset true (offRegMode p) = 0x0000199901000010 ∧ ctlReset true (offRemote p) = 0x104 ∧
    ctlReset true (offPwr p) = 2 ∧ ∀ c, c < 8 → ctlReset true (offCache p c) = 0xE10 ∧ ctlReset true (offClass p c) = 0 := by
  decide

/-- Settles O59: each map of the reset state is empty, so what is read is the value its chapter's table gives. -/
theorem resetState : Obligations.ResetState := by
  unfold Obligations.ResetState Claim.ResetState
  refine ⟨rfl, fun c => ⟨rfl, rfl, fun n hn => if_neg hn, rfl, fun n => ?_⟩, fun n => ctlReset_bayCfg, ctlReset_partition,
    fun g => ctlReset_regionPwr, rfl, rfl, rfl, fun f _ => ⟨rfl, rfl, rfl, rfl, rfl⟩, fun f i _ _ => rfl, rfl, rfl, rfl, rfl,
    fun a => rfl, Canon.reset⟩
  show (if n = 0 then 0 else 0) = (0 : W64)
  exact ite_self _

end Sys2Proof.Machine
end

section
namespace Sys2Proof.Machine
open Sys2Proof

/-! ### Integer instructions (R78, R171) -/

theorem exec_min (who : Agent) (f : FormA) (s : State) :
    exec (.min who f) s = intA who f (fun _ a b => if a.toInt ≤ b.toInt then a else b) s := by
  have h : (fun (w : Nat) (a b : BitVec w) => if b.slt a then b else a) = fun _ a b => if a.toInt ≤ b.toInt then a else b := by
    funext w a b
    by_cases h : b.toInt < a.toInt
    · rw [if_pos (BitVec.slt_iff_toInt_lt.2 h), if_neg (Int.not_le.2 h)]
    · rw [if_neg (mt BitVec.slt_iff_toInt_lt.1 h), if_pos (Int.not_lt.1 h)]
  show intA who f (fun _ a b => if b.slt a then b else a) s = _
  rw [h]

theorem exec_max (who : Agent) (f : FormA) (s : State) :
    exec (.max who f) s = intA who f (fun _ a b => if a.toInt ≤ b.toInt then b else a) s := by
  have h : (fun (w : Nat) (a b : BitVec w) => if a.slt b then b else a) = fun _ a b => if a.toInt ≤ b.toInt then b else a := by
    funext w a b
    by_cases h : a.toInt < b.toInt
    · rw [if_pos (BitVec.slt_iff_toInt_lt.2 h), if_pos (Int.le_of_lt h)]
    · rw [if_neg (mt BitVec.slt_iff_toInt_lt.1 h)]
      by_cases hle : a.toInt ≤ b.toInt
      · rw [if_pos hle]
        exact BitVec.eq_of_toInt_eq (by omega)
      · rw [if_neg hle]
  show intA who f (fun _ a b => if a.slt b then b else a) s = _
  rw [h]

/-- The twelve instructions share one meaning. -/
theorem exec_alu {i : Instr} {who : Agent} {f : FormA} {op : (w : Nat) → BitVec w → BitVec w → BitVec w}
    (h : aluOf i = some (who, f, op)) (s : State) : exec i s = intA who f op s := by
  unfold aluOf at h
  split at h
  case h_13 => cases h
  all_goals
    simp only [Option.some.injEq, Prod.mk.injEq] at h
    obtain ⟨rfl, rfl, rfl⟩ := h
  case h_11 => exact exec_min ..
  case h_12 => exact exec_max ..
  all_goals rfl

/-- What an instruction of scalar code leaves that writes s[d] and retires. -/
theorem retireWith_setS (s : State) (c d : Nat) (v : Core → W64) :
    OnlyCore s (s.retireWith c fun k => k.setS d (v k)) c ∧
    WritesS (s.core c) ((s.retireWith c fun k => k.setS d (v k)).core c) d (v (s.core c)) ∧
    Retires (s.core c) ((s.retireWith c fun k => k.setS d (v k)).core c) ((s.core c).pc + 8) ∧
    { (s.retireWith c fun k => k.setS d (v k)).core c with
      s := (s.core c).s, pc := (s.core c).pc, csr := (s.core c).csr, stall := (s.core c).stall, icache := (s.core c).icache } = s.core c := by
  have hk : (s.retireWith c fun k => k.setS d (v k)).core c = ((s.core c).setS d (v (s.core c))).retire := State.core_modCore_same ..
  rw [hk]
  refine ⟨onlyCore_modCore .., fun n => writesS_setS _ _ _ n, ?_, setS_rest ..⟩
  have hs : (s.core c).setS d (v (s.core c)) = { s.core c with s := ((s.core c).setS d (v (s.core c))).s } := by
    unfold Core.setS
    split <;> rfl
  rw [hs]
  exact retires_retire rfl rfl rfl

theorem scalarIntegerResults_claim : Claim.ScalarIntegerResults := by
  intro s i c f op hi hl hr
  exact ⟨_, (exec_alu hi s).trans (issueRegs_core hr hl (by simp) _ _ _), retireWith_setS s c _ _⟩

theorem cmpResult_spec {w : Nat} (func : BitVec 8) (a b : BitVec w) (pa pb : Bool) :
    (func = 0x00 → cmpResult func.toNat a b pa pb = decide (a = b)) ∧ (func = 0x01 → cmpResult func.toNat a b pa pb = decide (a ≠ b)) ∧
    (func = 0x02 → cmpResult func.toNat a b pa pb = decide (a.toInt < b.toInt)) ∧
    (func = 0x03 → cmpResult func.toNat a b pa pb = decide (a.toNat < b.toNat)) ∧
    (func = 0x04 → cmpResult func.toNat a b pa pb = decide (b.toInt ≤ a.toInt)) ∧
    (func = 0x05 → cmpResult func.toNat a b pa pb = decide (b.toNat ≤ a.toNat)) ∧
    (func = 0x10 → cmpResult func.toNat a b pa pb = (pa && pb)) ∧ (func = 0x11 → cmpResult func.toNat a b pa pb = (pa || pb)) ∧
    (func = 0x12 → cmpResult func.toNat a b pa pb = (pa ^^ pb)) ∧ (func = 0x13 → cmpResult func.toNat a b pa pb = !pa) := by
  refine ⟨?_, ?_, ?_, ?_, ?_, ?_, ?_, ?_, ?_, ?_⟩
  all_goals
    rintro rfl
    simp [cmpResult, cmpBits, cmpPred, BitVec.slt, BitVec.ult] <;> grind
/-- What an instruction of scalar code leaves that writes p[d] and retires. -/
theorem retireWith_setP (s : State) (c d : Nat) (v : Core → Bool) :
    OnlyCore s (s.retireWith c fun k => k.setP d (v k)) c ∧
    WritesP (s.core c) ((s.retireWith c fun k => k.setP d (v k)).core c) d (v (s.core c)) ∧
    Retires (s.core c) ((s.retireWith c fun k => k.setP d (v k)).core c) ((s.core c).pc + 8) ∧
    { (s.retireWith c fun k => k.setP d (v k)).core c with
      p := (s.core c).p, pc := (s.core c).pc, csr := (s.core c).csr, stall := (s.core c).stall, icache := (s.core c).icache } = s.core c := by
  have hk : (s.retireWith c fun k => k.setP d (v k)).core c = ((s.core c).setP d (v (s.core c))).retire := State.core_modCore_same ..
  rw [hk]
  refine ⟨onlyCore_modCore .., fun n => writesP_setP _ _ _ n, ?_, setP_rest ..⟩
  have hs : (s.core c).setP d (v (s.core c)) = { s.core c with p := ((s.core c).setP d (v (s.core c))).p } := by
    unfold Core.setP
    split <;> rfl
  rw [hs]
  exact retires_retire rfl rfl rfl

/-- What an instruction of scalar code leaves that only retires. -/
theorem modCore_retire (s : State) (c : Nat) :
    OnlyCore s (s.modCore c Core.retire) c ∧ Retires (s.core c) ((s.modCore c Core.retire).core c) ((s.core c).pc + 8) ∧
    { (s.modCore c Core.retire).core c with
      pc := (s.core c).pc, csr := (s.core c).csr, stall := (s.core c).stall, icache := (s.core c).icache } = s.core c := by
  rw [State.core_modCore_same]
  exact ⟨onlyCore_modCore .., retires_retire rfl rfl rfl, retire_rest _⟩

theorem execNop_scalar {s : State} {c : Nat} {f : FormA}
    (hf : f = { pred := 0, pneg := false, dst := 0, src1 := 0, src2 := 0, src3 := 0, func := 0, type := 0, mod := 0 })
    (hr : ScalarReady s c f.pred f.pneg) : exec (.nop (.core c) f) s = .next (s.modCore c Core.retire) := by
  subst hf
  exact issueRegs_core hr rfl (by simp) [] id id

theorem execAddi_scalar {s : State} {c : Nat} {f : FormB} (h0 : f.func = 0) (hd : f.dst.toNat < 32) (h1 : f.src1.toNat < 32)
    (hr : ScalarReady s c f.pred f.pneg) : exec (.addi (.core c) f) s =
      .next (s.retireWith c fun k => k.setS f.dst.toNat (k.sreg f.src1.toNat + f.imm.signExtend 64)) := by
  show execAddi _ _ _ = _
  exact issueRegs_core hr (by simp [h0, regOk, hd, h1]) (by simp) _ _ _

theorem execLi_scalar {s : State} {c : Nat} {f : FormC} (hd : f.dst.toNat < 32) (hr : ScalarReady s c f.pred f.pneg) :
    exec (.li (.core c) f) s = .next (s.retireWith c fun k => k.setS f.dst.toNat (f.imm.signExtend 64)) := by
  show execLi _ _ _ = _
  exact issueRegs_core hr (by simp [regOk, hd]) (by simp) _ _ _

/-- CMP waits for the predicates it names; where none is still to be written it retires. -/
theorem execCmp_scalar {s : State} {c : Nat} {f : FormA} (hl : cmpLegal (.core c) f = true) (hr : ScalarReady s c f.pred f.pneg)
    (hd : f.dst.toNat ∉ (s.core c).pPending)
    (hp : 5 < f.func.toNat → f.src1.toNat ∉ (s.core c).pPending ∧ f.src2.toNat ∉ (s.core c).pPending) :
    exec (.cmp (.core c) f) s = .next (s.retireWith c fun k => k.setP f.dst.toNat (cmpResult f.func.toNat (k.sreg f.src1.toNat)
      (k.sreg f.src2.toNat) (k.preg f.src1.toNat) (k.preg f.src2.toNat))) := by
  show execCmp (.core c) f s = _
  unfold execCmp
  refine issueRegs_core hr hl ?_ _ _ _
  by_cases h5 : f.func.toNat ≤ 5
  · simpa [h5] using hd
  · obtain ⟨h1, h2⟩ := hp (by omega)
    simp [h5, hd, h1, h2]

theorem scalarImmediatesAndCompare_claim : Claim.ScalarImmediatesAndCompare := by
  intro s c
  refine ⟨fun f hf hr => ⟨_, execNop_scalar hf hr, modCore_retire s c⟩,
    fun f h0 hd h1 hr => ⟨_, execAddi_scalar h0 hd h1 hr, retireWith_setS s c _ _⟩,
    fun f hd hr => ⟨_, execLi_scalar hd hr, retireWith_setS s c _ _⟩, fun f hl hr hd hp => ?_⟩
  obtain ⟨h1, h2, h3, h4⟩ := retireWith_setP s c f.dst.toNat fun k => cmpResult f.func.toNat (k.sreg f.src1.toNat)
    (k.sreg f.src2.toNat) (k.preg f.src1.toNat) (k.preg f.src2.toNat)
  refine ⟨_, _, execCmp_scalar hl hr hd hp, h1, h2, ?_, h3, h4⟩
  rintro a b pa pb rfl rfl rfl rfl
  exact cmpResult_spec ..

/-- Settles O1: each instruction is one change of the core's registers, and its retirement. -/
theorem scalarIntegers : Obligations.ScalarIntegers := ⟨scalarIntegerResults_claim, scalarImmediatesAndCompare_claim⟩

end Sys2Proof.Machine
end

section
namespace Sys2Proof.Machine
open Sys2Proof

/-! ### NOP in thread code (R78, R171)

NOP's word has every field but MAJOR zero, so a NOP under a predicate is illegal (R76), in thread code too; the clause of O2 about NOP
in thread code leaves PRED and PNEG open. -/

/-- A NOP under p1. -/
def nopUnderPredicate : FormA :=
  { pred := 1, pneg := false, dst := 0, src1 := 0, src2 := 0, src3 := 0, func := 0, type := 0, mod := 0 }

/-- Core 0 inside a launch, with one runnable thread in group slot 0. -/
def threadCore : Core :=
  { vcore := 1, running := true, shutterOpen := true, progLen := 64, run := 1
    groups := [(0, { used := true, threads := [(0, { mode := .runnable })] })] }

/-- The module after reset with that core; its program is of words 0, which are NOPs. -/
def threadState : State := { State.reset with cores := [(0, threadCore)] }

theorem threadState_ready : ThreadReady threadState 0 0 :=
  ⟨by decide, by decide, by decide, by decide, by decide, by decide, by decide⟩

/-- The NOP traps: its core stops. -/
theorem nopUnderPredicate_traps : ∃ t, exec (.nop (.group 0 0) nopUnderPredicate) threadState = .next t ∧ (t.core 0).running = false :=
  ⟨_, rfl, by decide⟩

/-- Refutes O2: a NOP of thread code whose PRED is not 0 is illegal and stops the core, where the clause says that it goes on. -/
theorem not_threadIntegers : ¬ Obligations.ThreadIntegers := by
  rintro ⟨-, h⟩
  obtain ⟨hnop, -⟩ := h threadState 0 0 threadState_ready
  obtain ⟨t, ht, he⟩ := hnop nopUnderPredicate rfl
  obtain ⟨u, hu, hs⟩ := nopUnderPredicate_traps
  obtain rfl : t = u := Host.Outcome.next.inj (ht.symm.trans hu)
  have hrun : (t.core 0).running = true := congrArg Core.running he.core
  rw [hs] at hrun
  cases hrun

end Sys2Proof.Machine
end

section
namespace Sys2Proof.Machine
open Sys2Proof

/-! ### Instructions of thread code whose effect is on their threads (R171, R174) -/

/-- The lanes of a group that take an instruction's effect: the active ones whose predicate holds. -/
def Group.onLanesOf (g : Group) (pred : BitVec 3) (pneg : Bool) : List Nat := g.active.filter fun l => (g.th l).preg pred.toNat != pneg

/-- A group as an instruction's effect finds it: the other active lanes have gone on, and the operands are read. -/
def Group.atEffect (g : Group) (pred : BitVec 3) (pneg : Bool) (srcs : List Nat) : Group :=
  { (g.onLanes (g.active.filter fun l => (g.th l).preg pred.toNat == pneg) fun _ t => t.next).onLanes (g.onLanesOf pred pneg)
      fun _ t => t.reads srcs with progress := 0 }

theorem Group.after_atEffect (g : Group) (pred : BitVec 3) (pneg : Bool) (srcs : List Nat) (f : Thread → Thread) :
    g.after pred pneg srcs f = (g.atEffect pred pneg srcs).onLanes (g.onLanesOf pred pneg) fun _ t => f t := rfl

theorem mem_onLanesOf {g : Group} {pred : BitVec 3} {pneg : Bool} {l : Nat} : l ∈ g.onLanesOf pred pneg ↔ g.takes pred pneg l = true := by
  simp [Group.onLanesOf, Group.takes, List.mem_filter]

theorem onLanesOf_nodup (g : Group) (pred : BitVec 3) (pneg : Bool) : (g.onLanesOf pred pneg).Nodup := (active_nodup g).filter _

/-- A thread that takes the effect has read its operands. -/
theorem Group.atEffect_th {g : Group} {pred : BitVec 3} {pneg : Bool} {l : Nat} (h : g.takes pred pneg l = true) (srcs : List Nat) :
    (g.atEffect pred pneg srcs).th l = (g.th l).reads srcs := by
  have := g.after_th pred pneg srcs id l
  rw [if_pos h, Group.after_atEffect] at this
  rw [th_onLanes _ _ (onLanesOf_nodup g pred pneg)] at this
  exact (ite_self _).symm.trans this

/-- The state as an instruction's effect finds it, but for the counters. -/
def State.atEffect (s : State) (c i : Nat) (pred : BitVec 3) (pneg : Bool) (srcs : List Nat) : State :=
  (s.modCore c fun k => k.fetched (k.codeBase + (s.grp c i).lowPc)).modGrp c i fun g => g.atEffect pred pneg srcs

theorem atEffect_grp (s : State) (c i : Nat) (pred : BitVec 3) (pneg : Bool) (srcs : List Nat) :
    (s.atEffect c i pred pneg srcs).grp c i = (s.grp c i).atEffect pred pneg srcs := by
  unfold State.atEffect
  rw [grp_modGrp_same]
  simp only [State.grp, State.core_modCore_same]
  rfl

theorem coresOnly_atEffect (s : State) (c i : Nat) (pred : BitVec 3) (pneg : Bool) (srcs : List Nat) :
    CoresOnly s (s.atEffect c i pred pneg srcs) :=
  coresOnly_trans (coresOnly_modCore s c _) (coresOnly_modGrp _ c i _)

theorem modGrp_cores_congr {s t : State} (h : t.cores = s.cores) (c i : Nat) (f : Group → Group) :
    (t.modGrp c i f).cores = (s.modGrp c i f).cores := by
  show nset {} t.cores c ((t.core c).setGrp i (f (t.grp c i))) = nset {} s.cores c ((s.core c).setGrp i (f (s.grp c i)))
  rw [h, State.core_congr h, State.grp_congr h]

theorem issueGroup_atEffect {s : State} {c i : Nat} (h : ThreadReady s c i) (pred : BitVec 3) (pneg : Bool) (srcs : List Nat)
    {legal : Bool} (hl : legal = true) (eff : State → List Nat → Except (Option Nat) State) :
    ∃ s1, CoresOnly s s1 ∧ s1.cores = (s.atEffect c i pred pneg srcs).cores ∧ issueGroup s c i legal pred pneg true srcs eff =
      if ((s.grp c i).onLanesOf pred pneg).isEmpty then s1 else
      match eff s1 ((s.grp c i).onLanesOf pred pneg) with
      | .ok s2 => s2
      | .error w => s.wakeFor w := by
  obtain ⟨ctr', he⟩ := issueGroup_ready h pred pneg true srcs hl eff
  have hs : (s.modCore c fun k => k.fetched ((s.core c).codeBase + (s.grp c i).lowPc)).modGrp c i (fun x =>
      { (x.onLanes ((s.grp c i).active.filter fun l => ((s.grp c i).th l).preg pred.toNat == pneg) fun _ t => t.next).onLanes
        ((s.grp c i).active.filter fun l => ((s.grp c i).th l).preg pred.toNat != pneg) fun _ t => t.reads srcs with progress := 0 }) =
      s.atEffect c i pred pneg srcs := by
    refine modGrp_congr _ c i ?_
    have hg : (s.modCore c fun k => k.fetched ((s.core c).codeBase + (s.grp c i).lowPc)).grp c i = s.grp c i := by
      simp only [State.grp, State.core_modCore_same]
      rfl
    rw [hg]
    rfl
  refine ⟨{ s.atEffect c i pred pneg srcs with ctr := ctr' }, coresOnly_trans (coresOnly_atEffect s c i pred pneg srcs) (coresOnly_ctr _ ctr'),
    rfl, he.trans ?_⟩
  simp only [if_true, hs]
  rfl

/-- The effect on the lanes that take it completes the instruction. -/
theorem atEffect_after (s : State) (c i : Nat) (pred : BitVec 3) (pneg : Bool) (srcs : List Nat) (f : Thread → Thread) :
    (s.atEffect c i pred pneg srcs).modGrp c i (fun g => g.onLanes ((s.grp c i).onLanesOf pred pneg) fun _ t => f t) =
      (s.modCore c fun k => k.fetched (k.codeBase + (s.grp c i).lowPc)).modGrp c i fun x => x.after pred pneg srcs f := by
  have hg : (s.modCore c fun k => k.fetched (k.codeBase + (s.grp c i).lowPc)).grp c i = s.grp c i := by
    simp only [State.grp, State.core_modCore_same]
    rfl
  rw [State.atEffect, modGrp_modGrp]
  refine modGrp_congr _ c i ?_
  rw [hg, Group.after_atEffect]

/-- Where no lane takes it, the instruction is complete without an effect. -/
theorem atEffect_none (s : State) (c i : Nat) {pred : BitVec 3} {pneg : Bool} (srcs : List Nat) (f : Thread → Thread)
    (h : (s.grp c i).onLanesOf pred pneg = []) : s.atEffect c i pred pneg srcs =
      (s.modCore c fun k => k.fetched (k.codeBase + (s.grp c i).lowPc)).modGrp c i fun x => x.after pred pneg srcs f := by
  rw [← atEffect_after, h]
  unfold State.atEffect
  rw [modGrp_modGrp]
  rfl

/-- An instruction of thread code that is ready and legal, whose effect on the lanes that take it is f. -/
theorem issueGroup_effect {s : State} {c i : Nat} (h : ThreadReady s c i) {pred : BitVec 3} {pneg : Bool} {srcs : List Nat}
    {legal : Bool} (hl : legal = true) {eff : State → List Nat → Except (Option Nat) State} {f : Thread → Thread}
    (he : ∀ s1, CoresOnly s s1 → s1.cores = (s.atEffect c i pred pneg srcs).cores → eff s1 ((s.grp c i).onLanesOf pred pneg) =
      .ok (s1.modGrp c i fun g => g.onLanes ((s.grp c i).onLanesOf pred pneg) fun _ t => f t)) :
    ThreadEffect s (issueGroup s c i legal pred pneg true srcs eff) c i pred pneg srcs f := by
  obtain ⟨s1, hc, hk, hi⟩ := issueGroup_atEffect h pred pneg srcs hl eff
  rw [hi, he s1 hc hk]
  split
  · rename_i hon
    obtain ⟨hm, hr⟩ := coresOnly_rest hc
    exact threadEffect_of (by rw [hk, atEffect_none s c i srcs f (List.isEmpty_iff.1 hon)]) hm hr
  · obtain ⟨hm, hr⟩ := coresOnly_rest (coresOnly_trans hc (coresOnly_modGrp s1 c i fun g =>
      g.onLanes ((s.grp c i).onLanesOf pred pneg) fun _ t => f t))
    exact threadEffect_of (by rw [modGrp_cores_congr hk, atEffect_after]) hm hr

/-- Reading operands changes the register cache only. -/
theorem Thread.reads_eq (t : Thread) (srcs : List Nat) : ∃ m, t.reads srcs = { t with cache := m } := by
  induction srcs generalizing t with
  | nil => exact ⟨t.cache, rfl⟩
  | cons a r ih =>
    obtain ⟨m, hm⟩ := ih (t.use a)
    refine ⟨m, hm.trans ?_⟩
    unfold Thread.use
    split <;> rfl

@[simp] theorem Thread.reads_reg (t : Thread) (srcs : List Nat) (n : Nat) : (t.reads srcs).reg n = t.reg n := by
  obtain ⟨m, hm⟩ := t.reads_eq srcs
  rw [hm]
  rfl

/-! ### Branches, calls and returns (R78, R79, R171) -/

/-- A write of an s register changes the s registers only. -/
theorem Core.setS_eq (k : Core) (n : Nat) (v : W64) : k.setS n v = { k with s := (k.setS n v).s } := by
  unfold Core.setS
  split <;> rfl

/-- A core that retires a branch to a target. -/
theorem retires_jump {k x : Core} (hc : x.csr = k.csr) (hi : x.icache = k.icache) (ha : x.codeBase + x.pc = k.codeBase + k.pc) (pc : Nat) :
    Retires k (x.jump pc) pc := by
  obtain ⟨-, hcache, hcount, hwatchdog, hothers⟩ := retires_retire hc hi ha
  exact ⟨rfl, hcache, hcount, hwatchdog, hothers⟩

theorem jump_rest (k : Core) (pc : Nat) :
    { k.jump pc with pc := k.pc, csr := k.csr, stall := k.stall, icache := k.icache } = k := by cases k; rfl

@[simp] theorem Core.jump_s (k : Core) (pc : Nat) : (k.jump pc).s = k.s := by cases k; rfl

theorem jump_sreg (k : Core) (pc n : Nat) : (k.jump pc).sreg n = k.sreg n := by simp [Core.sreg]

theorem issueJump_core {s : State} {c : Nat} {pred : BitVec 3} {pneg : Bool} (h : ScalarReady s c pred pneg)
    {legal : Bool} (hl : legal = true) (f : Core → Core) (g : Thread → Thread) :
    issueJump (.core c) legal pred pneg f g s = .next (s.modCore c f) := by
  simp [issueJump, h.unit, issueCore_ready h hl]

theorem issueJump_group {s : State} {c i : Nat} (h : ThreadReady s c i) {pred : BitVec 3} {pneg : Bool} {legal : Bool}
    (hl : legal = true) (g : Core → Core) (f : Thread → Thread) :
    ∃ t, issueJump (.group c i) legal pred pneg g f s = .next t ∧ ThreadEffect s t c i pred pneg [] f := by
  simp only [issueJump, h.unit, h.slot, Bool.and_self, onUnit_true]
  exact ⟨_, rfl, issueGroup_effect h hl fun s1 _ _ => rfl⟩

theorem execBr_scalar {s : State} {c : Nat} {f : FormC} (hd : f.dst = 0) (hr : ScalarReady s c f.pred f.pneg) :
    exec (.br (.core c) f) s = .next (s.modCore c fun k => k.jump (branchTarget k.pc f.imm)) := by
  show execBr _ _ _ = _
  exact issueJump_core hr (by simp [hd]) _ _

theorem execCall_scalar {s : State} {c : Nat} {f : FormC} (hd : f.dst = 0) (hr : ScalarReady s c f.pred f.pneg) :
    exec (.call (.core c) f) s = .next (s.modCore c fun k => (k.setS 31 (w64 (k.pc + 8))).jump (branchTarget k.pc f.imm)) := by
  show execCall _ _ _ = _
  exact issueJump_core hr (by simp [hd]) _ _

theorem execRet_scalar {s : State} {c : Nat} {f : FormA} (hu : usesA f false true false false false false false = true)
    (h1 : f.src1.toNat < 32) (hr : ScalarReady s c f.pred f.pneg) : exec (.ret (.core c) f) s =
      .next (if ((s.core c).sreg f.src1.toNat).toNat % 8 ≠ 0 then s.trap c tAlign 0
        else s.modCore c fun k => k.jump ((s.core c).sreg f.src1.toNat).toNat) := by
  show execRet (.core c) f s = _
  simp only [execRet, hr.unit, onUnit_true]
  rw [issueCore_ready hr (by simp [hu, regOk, h1])]

/-- What a jump that leaves all else alone does. -/
theorem modCore_jump (s : State) (c : Nat) (pc : Core → Nat) :
    OnlyCore s (s.modCore c fun k => k.jump (pc k)) c ∧
    Retires (s.core c) ((s.modCore c fun k => k.jump (pc k)).core c) (pc (s.core c)) ∧
    { (s.modCore c fun k => k.jump (pc k)).core c with
      pc := (s.core c).pc, csr := (s.core c).csr, stall := (s.core c).stall, icache := (s.core c).icache } = s.core c := by
  rw [State.core_modCore_same]
  exact ⟨onlyCore_modCore .., retires_jump rfl rfl rfl _, jump_rest ..⟩

theorem execRet_group {s : State} {c g : Nat} {f : FormA} (hu : usesA f false true false false false false false = true)
    (hr : ThreadReady s c g)
    (ha : ∀ l, (s.grp c g).takes f.pred f.pneg l = true → (((s.grp c g).th l).reg f.src1.toNat).toNat % 8 = 0) :
    ∃ t, exec (.ret (.group c g) f) s = .next t ∧ ThreadEffect s t c g f.pred f.pneg [f.src1.toNat] fun x =>
      { x with pc := (x.reg f.src1.toNat).toNat } := by
  show ∃ t, execRet (.group c g) f s = .next t ∧ _
  simp only [execRet, hr.unit, hr.slot, Bool.and_self, onUnit_true]
  refine ⟨_, rfl, issueGroup_effect hr (by simp [hu, regOk]) fun s1 _ hk => ?_⟩
  have hg := (State.grp_congr hk c g).trans (atEffect_grp ..)
  have hn : (((s.grp c g).onLanesOf f.pred f.pneg).any fun l => (((s1.grp c g).th l).reg f.src1.toNat).toNat % 8 != 0) = false := by
    rw [List.any_eq_false]
    intro l hl
    have ht := mem_onLanesOf.1 hl
    rw [hg, Group.atEffect_th ht, Thread.reads_reg, ha l ht]
    decide
  simp only [hn, Bool.false_eq_true, if_false]
  rfl

theorem controlTransfers_claim : Claim.ControlTransfers := by
  intro s c
  refine ⟨fun f hd hr => ?_, fun f hd hr => ?_, fun f hu h1 hr => ?_, fun g f hd hr => ⟨?_, ?_⟩, fun g f hu hr ha => ?_⟩
  · exact ⟨_, execBr_scalar hd hr, modCore_jump s c fun k => branchTarget k.pc f.imm⟩
  · refine ⟨_, execCall_scalar hd hr, onlyCore_modCore s c _, ?_⟩
    rw [State.core_modCore_same]
    refine ⟨fun n => ?_, ?_, ?_⟩
    · rw [jump_sreg, Core.sreg_setS]
      rfl
    all_goals rw [Core.setS_eq]
    · show Retires _ _ (branchTarget (s.core c).pc f.imm)
      exact retires_jump (by rfl) (by rfl) (by rfl) _
    · cases s.core c
      rfl
  · rw [execRet_scalar hu h1 hr]
    split
    · rename_i h
      rw [if_neg (not_not.2 h)]
      exact ⟨_, rfl, modCore_jump s c fun _ => ((s.core c).sreg f.src1.toNat).toNat⟩
    · rfl
  · show ∃ t, execBr (.group c g) f s = .next t ∧ _
    exact issueJump_group hr (by simp [hd]) _ _
  · show ∃ t, execCall (.group c g) f s = .next t ∧ _
    exact issueJump_group hr (by simp [hd]) _ _
  · exact execRet_group hu hr ha

end Sys2Proof.Machine
end

section
namespace Sys2Proof.Machine
open Sys2Proof

/-! ### What an issue checks, in which order (R73, R75, R76, R79, R93) -/

/-- Whether a word is an instruction's does not depend on who issues it. -/
theorem coreInstr_isNone (who who' : Agent) (w : W64) : (coreInstr who w).isNone = (coreInstr who' w).isNone := by
  have h (a b : Agent) (hn : coreInstr b w = none) : coreInstr a w = none := by
    rw [Option.eq_none_iff_forall_ne_some]
    intro i hi
    rcases (spells_iff a i w).1 ((instructionWords a w i).1 hi) with ⟨e, he, hm, hs, -⟩ | ⟨e, he, hm, -⟩ | ⟨e, he, hm, -⟩
    · cases hn.symm.trans ((instructionWords b w _).2 ((spells_iff b _ w).2 (.inl ⟨e, he, hm, hs, rfl⟩)))
    · cases hn.symm.trans ((instructionWords b w _).2 ((spells_iff b _ w).2 (.inr (.inl ⟨e, he, hm, rfl⟩))))
    · cases hn.symm.trans ((instructionWords b w _).2 ((spells_iff b _ w).2 (.inr (.inr ⟨e, he, hm, rfl⟩))))
  rw [Bool.eq_iff_iff, Option.isNone_iff_eq_none, Option.isNone_iff_eq_none]
  exact ⟨h who' who, h who who'⟩

section
variable {s : State} {c : Nat} {legal pneg : Bool} {pred : BitVec 3} (eff : State → State)

theorem issueCore_pcRange (hi : s.issues (s.core c) = true) (h : (s.core c).progLen ≤ (s.core c).pc) :
    issueCore s c legal pred pneg eff = s.trap c tPcRange 0 := by
  simp [issueCore, hi, h]

theorem issueCore_fetchEcc (hi : s.issues (s.core c) = true) (h : (s.core c).pc < (s.core c).progLen)
    (hp : s.wordPoison ((s.core c).codeBase + (s.core c).pc) = true) (hc : (s.core c).codeBase + (s.core c).pc ∉ (s.core c).icache) :
    issueCore s c legal pred pneg eff = s.drew.trap c tFetchEcc 0 := by
  simp [issueCore, hi, Nat.not_le.2 h, State.fetchBad, State.fetchBadAt, State.fetched, hp, hc]

theorem issueCore_illegal (hi : s.issues (s.core c) = true) (h : (s.core c).pc < (s.core c).progLen)
    (hp : s.wordPoison ((s.core c).codeBase + (s.core c).pc) = false)
    (hl : legal = false ∨ s.reservedAt ((s.core c).codeBase + (s.core c).pc) = true) :
    issueCore s c legal pred pneg eff = s.trap c tIllegal 0 := by
  have hb : (!legal || s.reservedAt ((s.core c).codeBase + (s.core c).pc)) = true := by
    rcases hl with hl | hl <;> simp [hl]
  simp [issueCore, hi, Nat.not_le.2 h, State.fetchBad, State.fetchBadAt, State.fetched, hp, -Bool.or_eq_true, hb]

theorem issueCore_skipped (hi : s.issues (s.core c) = true) (h : (s.core c).pc < (s.core c).progLen)
    (hp : s.wordPoison ((s.core c).codeBase + (s.core c).pc) = false) (hl : legal = true)
    (hk : s.reservedAt ((s.core c).codeBase + (s.core c).pc) = false) (hs : pred.toNat ∉ (s.core c).pPending)
    (hf : (s.core c).preg pred.toNat = pneg) : issueCore s c legal pred pneg eff = s.modCore c Core.retire := by
  simp [issueCore, hi, Nat.not_le.2 h, State.fetchBad, State.fetchBadAt, State.fetched, hp, hl, hk, hs, hf]

end

theorem legal3_false {c : Nat} {f : FormA} (h : f.src3 ≠ 0 ∨ f.func ≠ 0 ∨ f.type ≠ 0 ∨ f.mod ≠ 0 ∨ 32 ≤ f.dst.toNat ∨ 32 ≤ f.src1.toNat ∨
    32 ≤ f.src2.toNat) : legal3 (.core c) f = false := by
  rw [← Bool.not_eq_true]
  simp only [legal3, usesA, regOk, Bool.and_eq_true, Bool.or_eq_true, beq_iff_eq, decide_eq_true_eq]
  simp only [true_or, true_and, Bool.false_eq_true, false_or]
  rintro ⟨⟨⟨⟨⟨⟨h3, hf⟩, ht⟩, hm⟩, hd⟩, h1⟩, h2⟩
  rcases h with h | h | h | h | h | h | h
  · exact h h3
  · exact h hf
  · exact h ht
  · exact h hm
  all_goals omega

theorem execAdd_scalar {s : State} {c : Nat} (hu : Unit.core c = true) (f : FormA) : ∃ eff, exec (.add (.core c) f) s =
    .next (issueCore s c (legal3 (.core c) f) f.pred f.pneg eff) :=
  ⟨_, (exec_alu (i := .add (.core c) f) rfl s).trans (by simp only [intA, issueRegs, hu, onUnit_true]; rfl)⟩

theorem issueChecks_claim : Claim.IssueChecks := by
  rintro s c f _ hu hi rfl
  obtain ⟨eff, he⟩ := execAdd_scalar (s := s) hu f
  rw [he]
  refine ⟨fun h => congrArg _ (issueCore_pcRange eff hi h), fun h hp hc => congrArg _ (issueCore_fetchEcc eff hi h hp hc),
    fun h hp => ⟨fun hl => congrArg _ (issueCore_illegal eff hi h hp (Or.symm (hl.imp (fun hn => ?_) legal3_false))),
      fun hl hk hs hf => ⟨_, congrArg _ (issueCore_skipped eff hi h hp hl hk hs hf), modCore_retire s c⟩⟩⟩
  rw [State.reservedAt, coreInstr_isNone _ (.core c), hn]
  rfl

/-- Settles O3: a jump is one change of the core or of each thread, and an issue makes its checks in the order of `issueCore`. -/
theorem controlFlow : Obligations.ControlFlow := ⟨controlTransfers_claim, issueChecks_claim⟩

end Sys2Proof.Machine
end

section
namespace Sys2Proof.Machine
open Sys2Proof

/-! ### Control and status registers, and tensor descriptors (R82, R95, R96) -/

/-- A read of a control and status register changes at most which open value is next. -/
theorem csrRead_state (s : State) (c n : Nat) : ∃ m, (s.csrRead c n).2 = { s with free := m } := by
  refine ⟨(s.csrRead c n).2.free, ?_⟩
  unfold State.csrRead
  split_ifs <;> rfl

/-- What a read of a control and status register answers (R95). -/
theorem csrRead_value (s : State) (c n : Nat) :
    (n = 0x000 → (s.csrRead c n).1 = coreId c) ∧ (n = 0x013 → (s.csrRead c n).1 = w64 (s.core c).td.length) ∧
    (n = 0x030 → (s.csrRead c n).1 = s.specEpoch (s.core c)) ∧ (n = 0x038 → (s.csrRead c n).1 = (s.core c).msgStatus) ∧
    (n ∉ [0x000, 0x008, 0x00A, 0x013, 0x020, 0x030, 0x038] → (s.csrRead c n).1 = (s.core c).csrReg n) := by
  refine ⟨?_, ?_, ?_, ?_, fun h => ?_⟩
  case refine_5 =>
    simp only [List.mem_cons, List.not_mem_nil, or_false, not_or] at h
    obtain ⟨h0, h8, ha, h13, h20, h30, h38⟩ := h
    simp [State.csrRead, h0, h8, ha, h13, h20, h30, h38]
  all_goals
    rintro rfl
    rfl

theorem execCsrR_scalar {s : State} {c : Nat} {f : FormB} (hr : ScalarReady s c f.pred f.pneg) (h0 : f.func = 0)
    (hi : f.imm.toNat < 4096) (h1 : f.src1 = 0) (hd : f.dst.toNat < 32) (hn : csrListed f.imm.toNat = true) :
    exec (.csrR (.core c) f) s = .next ((s.csrRead c f.imm.toNat).2.retireWith c fun k =>
      k.setS f.dst.toNat (s.csrRead c f.imm.toNat).1) := by
  show execCsrR (.core c) f s = _
  simp only [execCsrR, hr.unit, onUnit_true]
  rw [issueCore_ready hr (by simp [csrLegal, h0, h1, hi, regOk, hd])]
  simp [hn]

/-- The registers with fields of access RW, with those fields and their reserved bits. -/
theorem csrFields_spec {n : Nat} {rw reserved : W64} (h : (n, rw, reserved) ∈
    [(0x018, 0x777, 0xFFFFFFFFFFFFF888), (0x019, 0xFFFFFFFFFFFFFFFF, 0), (0x020, 0xFFFF, 0x7FFF0000FFFF0000)]) :
    csrWritable n = true ∧ csrRw n = rw ∧ csrReserved n = reserved ∧ n ≠ 0x009 := by
  simp only [List.mem_cons, Prod.mk.injEq, List.not_mem_nil, or_false] at h
  obtain ⟨rfl, rfl, rfl⟩ | ⟨rfl, rfl, rfl⟩ | ⟨rfl, rfl, rfl⟩ := h
  all_goals exact ⟨rfl, rfl, rfl, by decide⟩

/-- The core that wrote its register n with v and retired (R96). -/
def Core.wroteCsr (k : Core) (n : Nat) (v : W64) : Core :=
  (k.setCsr n ((k.csrReg n &&& ~~~csrRw n) ||| (v &&& csrRw n))).retire

theorem modCore_congr (s : State) (c : Nat) {f g : Core → Core} (h : f (s.core c) = g (s.core c)) : s.modCore c f = s.modCore c g := by
  unfold State.modCore
  rw [h]

theorem csrUpdate_scalar {s : State} {c : Nat} {f : FormB} (hr : ScalarReady s c f.pred f.pneg) (h0 : f.func = 0)
    (hi : f.imm.toNat < 4096) (hd : f.dst = 0) (h1 : f.src1.toNat < 32) (hn : csrWritable f.imm.toNat = true)
    (op : W64 → W64 → W64)
    (hv : op ((s.core c).csrReg f.imm.toNat) ((s.core c).sreg f.src1.toNat) &&& csrReserved f.imm.toNat = 0) :
    csrUpdate (.core c) f op s = .next (s.modCore c fun k =>
      k.wroteCsr f.imm.toNat (op (k.csrReg f.imm.toNat) (k.sreg f.src1.toNat))) := by
  unfold csrUpdate
  rw [issueScalar_core hr (by simp [csrLegal, h0, hd, hi, regOk, h1])]
  simp only [hn, Bool.not_true, Bool.false_eq_true, if_false]
  rw [State.csrWrite, if_pos hv, modCore_modCore]
  exact congrArg Host.Outcome.next (modCore_congr s c (by simp only [Core.wroteCsr]))

/-- CSR.W, CSR.S and CSR.C write the new value where no reserved bit of it is set (R78, R96). -/
theorem execCsrWrite_scalar {s : State} {c : Nat} {f : FormB} (hr : ScalarReady s c f.pred f.pneg) (h0 : f.func = 0)
    (hi : f.imm.toNat < 4096) (hd : f.dst = 0) (h1 : f.src1.toNat < 32) (hn : csrWritable f.imm.toNat = true) {i : Instr} {new : W64}
    (h : i = .csrW (.core c) f ∧ new = (s.core c).sreg f.src1.toNat ∨
      i = .csrS (.core c) f ∧ new = (s.core c).csrReg f.imm.toNat ||| (s.core c).sreg f.src1.toNat ∨
      i = .csrC (.core c) f ∧ new = (s.core c).csrReg f.imm.toNat &&& ~~~((s.core c).sreg f.src1.toNat))
    (hv : new &&& csrReserved f.imm.toNat = 0) :
    ∃ t, exec i s = .next t ∧ OnlyCore s t c ∧ t.core c = (s.core c).wroteCsr f.imm.toNat new := by
  obtain ⟨rfl, rfl⟩ | ⟨rfl, rfl⟩ | ⟨rfl, rfl⟩ := h
  · exact ⟨_, csrUpdate_scalar hr h0 hi hd h1 hn (fun _ v => v) hv, onlyCore_modCore .., State.core_modCore_same ..⟩
  · exact ⟨_, csrUpdate_scalar hr h0 hi hd h1 hn (fun r v => r ||| v) hv, onlyCore_modCore .., State.core_modCore_same ..⟩
  · exact ⟨_, csrUpdate_scalar hr h0 hi hd h1 hn (fun r v => r &&& ~~~v) hv, onlyCore_modCore .., State.core_modCore_same ..⟩

/-- What the write leaves of the registers; the retirement clears WDOG.COUNT (R96). -/
theorem wroteCsr_csrReg (k : Core) (n : Nat) (v : W64) {m : Nat} (hm : m ≠ 0x009) :
    (k.wroteCsr n v).csrReg m =
      if m = 0x020 then setFld (if n = 0x020 then (k.csrReg n &&& ~~~csrRw n) ||| (v &&& csrRw n) else k.csrReg 0x020) 32 16 0
      else if m = n then (k.csrReg n &&& ~~~csrRw n) ||| (v &&& csrRw n) else k.csrReg m := by
  unfold Core.wroteCsr
  rw [csrReg_retire, if_neg hm, Core.csrReg_setCsr, Core.csrReg_setCsr]
  simp only [eq_comm (a := (0x020 : Nat))]

theorem wroteCsr_rest (k : Core) (n : Nat) (v : W64) :
    { k.wroteCsr n v with pc := k.pc, csr := k.csr, stall := k.stall, icache := k.icache } = k := by cases k; rfl

theorem wroteCsr_pc (k : Core) (n : Nat) (v : W64) : (k.wroteCsr n v).pc = k.pc + 8 := by
  simp [Core.wroteCsr, Core.retire_pc]

theorem controlAndStatusRegisters_claim : Claim.ControlAndStatusRegisters := by
  intro s c f hr h0 hi
  refine ⟨fun h1 hd hn => ?_, fun hd h1 i new h rw reserved hf hv => ?_⟩
  · obtain ⟨m, hm⟩ := csrRead_state s c f.imm.toNat
    obtain ⟨hid, htd, hep, hms, hstored⟩ := csrRead_value s c f.imm.toNat
    refine ⟨_, (s.csrRead c f.imm.toNat).1, execCsrR_scalar hr h0 hi h1 hd hn, ?_⟩
    rw [hm]
    obtain ⟨hc, hw, hret, hrest⟩ := retireWith_setS { s with free := m } c f.dst.toNat fun _ => (s.csrRead c f.imm.toNat).1
    exact ⟨hw, hid, htd, hep, hms, hstored, hret, hrest, hc.others, hc.memory, rfl⟩
  · obtain ⟨hn, rfl, rfl, h9⟩ := csrFields_spec hf
    obtain ⟨t, he, hc, hk⟩ := execCsrWrite_scalar hr h0 hi hd h1 hn h hv
    refine ⟨t, he, hc, ?_⟩
    rw [hk]
    refine ⟨wroteCsr_pc .., fun n hn9 hn20 hni => ?_, fun hne => ?_, fun heq => ?_, wroteCsr_rest ..⟩
    · rw [wroteCsr_csrReg _ _ _ hn9, if_neg hn20, if_neg hni]
    · rw [wroteCsr_csrReg _ _ _ h9, if_neg hne, if_pos rfl]
    · rw [wroteCsr_csrReg _ _ _ (by decide), if_pos rfl, if_pos heq, heq]

theorem Desc.word_eq (d : Desc) (w : Nat) : d.word w =
    if w = 0 then BitVec.ofNat 64 d.base else if w = 1 then BitVec.ofNat 64 d.bytes
    else if w = 2 then BitVec.ofNat 64 (d.tensor * 2 ^ 32 + d.format * 2 ^ 24 + d.kind * 2 ^ 16 + d.location * 2 ^ 8 + d.flags)
    else BitVec.ofNat 64 (d.tableSet * 2 ^ 48) := by
  match w with
  | 0 => rfl
  | 1 => rfl
  | 2 => rfl
  | w + 3 => simp [Desc.word, w64]

theorem execTdLd_scalar {s : State} {c : Nat} {f : FormB} (h1 : f.src1 = 0) (h0 : f.func = 0) (hi : f.imm.toNat < 1024)
    (hd : f.dst.toNat < 32) (hr : ScalarReady s c f.pred f.pneg) : exec (.tdLd (.core c) f) s =
      .next (match (s.core c).td[f.imm.toNat % 256]? with
        | none => s.trap c 0x05 0
        | some d => s.retireWith c fun k => k.setS f.dst.toNat (d.word (f.imm.toNat / 256))) := by
  show execTdLd (.core c) f s = _
  simp only [execTdLd, hr.unit, onUnit_true]
  rw [issueCore_ready hr (by simp [h0, h1, hi, regOk, hd])]
  rfl

theorem tensorDescriptors_claim : Claim.TensorDescriptors := by
  intro s c f h1 h0 hi hd hr
  have he := execTdLd_scalar h1 h0 hi hd hr
  refine ⟨fun d hs => ?_, fun hn => ?_⟩
  · rw [hs] at he
    obtain ⟨hc, hw, hret, -⟩ := retireWith_setS s c f.dst.toNat fun _ => d.word (f.imm.toNat / 256)
    rw [← Desc.word_eq]
    exact ⟨_, he, hc, hw, hret⟩
  · rw [List.getElem?_eq_none hn] at he
    exact he

/-- Settles O4: a read retires with the register's value, and a write changes the RW fields alone. -/
theorem coreRegisters : Obligations.CoreRegisters := ⟨controlAndStatusRegisters_claim, tensorDescriptors_claim⟩

end Sys2Proof.Machine
end

section
namespace Sys2Proof.Machine
open Sys2Proof

/-! ### Fences and DONE (R80, R84) -/

/-- A fence of scalar code whose waits are over. -/
theorem fence_scalar {s : State} {c : Nat} {f : FormA} (hr : ScalarReady s c f.pred f.pneg)
    (hu : usesA f false false false false true false false = true) {code : BitVec 8} (hc : f.func = code) {stores inv queues : Bool}
    (hs : stores = true → s.storesDone c = true) (hq : queues = true → (s.core c).queuesEmpty = true) :
    fence (.core c) f code stores inv queues s =
      .next ((if inv then s.modCore c l1Invalidate else s).modCore c Core.retire) := by
  have hw : ((!stores || s.storesDone c) && (!queues || (s.core c).queuesEmpty)) = true := by
    cases stores <;> cases queues <;> simp_all
  simp only [fence, hr.unit, onUnit_true]
  rw [issueCore_ready hr (by simp [hu, hc])]
  simp only [hw, if_true]

/-- A core that drops its cached lines outside its own region and retires (R84). -/
theorem modCore_invalidate_retire (s : State) (c : Nat) :
    OnlyCore s ((s.modCore c l1Invalidate).modCore c Core.retire) c ∧
    Retires (s.core c) (((s.modCore c l1Invalidate).modCore c Core.retire).core c) ((s.core c).pc + 8) ∧
    (∀ x, x ∈ (((s.modCore c l1Invalidate).modCore c Core.retire).core c).l1 ↔ x ∈ (s.core c).l1 ∧ x.space = 2) ∧
    { ((s.modCore c l1Invalidate).modCore c Core.retire).core c with
      l1 := (s.core c).l1, pc := (s.core c).pc, csr := (s.core c).csr, stall := (s.core c).stall, icache := (s.core c).icache } = s.core c := by
  rw [modCore_modCore, State.core_modCore_same]
  refine ⟨onlyCore_modCore .., ?_, fun x => ?_, ?_⟩
  · exact retires_retire (x := l1Invalidate (s.core c)) rfl rfl rfl
  · simp [l1Invalidate]
  · cases s.core c
    rfl

/-- A core that has executed DONE. -/
def Core.ended (k : Core) : Core := { k.retire with running := false, done := true, chPins := [] }

/-- A retired core of which only fields beside its place, instruction cache and control and status registers changed since. -/
theorem retires_congr {k x y : Core} {pc : Nat} (h : Retires k x pc) (hp : y.pc = x.pc) (hi : y.icache = x.icache)
    (hc : y.csr = x.csr) : Retires k y pc where
  pc := hp.trans h.pc
  cache := hi.trans h.cache
  count := (Core.csrReg_of_csr hc _).trans h.count
  watchdog := (Core.csrReg_of_csr hc _).trans h.watchdog
  others := fun n h1 h2 => (Core.csrReg_of_csr hc n).trans (h.others n h1 h2)

theorem retires_ended (k : Core) : Retires k k.ended (k.pc + 8) :=
  retires_congr (retires_retire rfl rfl rfl) rfl rfl rfl

theorem ended_rest (k : Core) : { k.ended with
    running := k.running, done := k.done, chPins := k.chPins, pc := k.pc, csr := k.csr, stall := k.stall, icache := k.icache } = k := by
  cases k
  rfl

/-- A run that is not speculative has no epoch to hold. -/
theorem specHeld_plain {s : State} {run : Nat} (h : ∀ r, s.run run = some r → r.spec = false) : s.specHeld run = s := by
  unfold State.specHeld
  split
  · rfl
  · rename_i r hr
    simp [h r hr]

theorem execDone_scalar {s : State} {c : Nat} {f : FormA} (hr : ScalarReady s c f.pred f.pneg)
    (hu : usesA f false false false false true false false = true) (hf : f.func = 0) (hi : s.unitsIdle c = true)
    (he : (s.core c).epoch = 0) (hp : ∀ r, s.run ((s.core c).run - 1) = some r → r.spec = false) :
    exec (.done (.core c) f) s = .next (s.modCore c Core.ended) := by
  have hl : usesA f false false false false false false false = true := by
    simpa [usesA, hf] using hu
  have hn : (s.modCore c Core.ended).specHeld ((s.core c).run - 1) = s.modCore c Core.ended :=
    specHeld_plain fun r h => hp r h
  show execDone (.core c) f s = _
  unfold execDone
  rw [issueScalar_core hr hl]
  simp only [hi, he, State.leaveEpoch]
  exact congrArg Host.Outcome.next hn

theorem fencesAndDone_claim : Claim.FencesAndDone := by
  intro s c f hr hu
  refine ⟨fun hf hs => ?_, fun hf => ?_, fun hf hs hm ht hq => ?_, fun hf hi he hp => ?_⟩
  · show ∃ t, execFenceStore (.core c) f s = .next t ∧ _
    exact ⟨_, fence_scalar hr hu hf (fun _ => hs) (fun h => nomatch h), modCore_retire s c⟩
  · show ∃ t, execFenceInv (.core c) f s = .next t ∧ _
    exact ⟨_, fence_scalar hr hu hf (fun h => nomatch h) (fun h => nomatch h), modCore_invalidate_retire s c⟩
  · show ∃ t, execFenceAll (.core c) f s = .next t ∧ _
    exact ⟨_, fence_scalar hr hu hf (fun _ => hs) (fun _ => by simp [Core.queuesEmpty, hm, ht, hq]), modCore_invalidate_retire s c⟩
  · refine ⟨_, execDone_scalar hr hu hf hi he hp, onlyCore_modCore .., ?_⟩
    rw [State.core_modCore_same]
    exact ⟨retires_ended _, rfl, rfl, rfl, ended_rest _⟩

/-- Settles O6: once its waits are over each of them is one change of the core. -/
theorem fences : Obligations.Fences := fencesAndDone_claim

end Sys2Proof.Machine
end

section
namespace Sys2Proof.Machine
open Sys2Proof

/-! ### Scalar loads (R78, R81) -/

/-- What a scalar access with its address checked gives, in terms of the location that the address resolves to. -/
theorem checkAccess_cases (s : State) (c addr n : Nat) :
    (s.resolve c addr n true = none → s.checkAccess c addr n = .error 0x04) ∧
    (s.resolve c addr n true ≠ none → addr % n ≠ 0 → s.checkAccess c addr n = .error 0x03) ∧
    (∀ l, s.resolve c addr n true = some l → addr % n = 0 → s.checkAccess c addr n = .ok l) := by
  unfold State.checkAccess
  refine ⟨fun h => by rw [h]; rfl, fun h ha => ?_, fun l h ha => by simp [h, ha]⟩
  obtain ⟨l, hl⟩ := Option.ne_none_iff_exists'.1 h
  simp [hl, ha, tAlign]

theorem noteFail_range {s : State} {addr : Nat} (h : addr < 2 ^ 64) :
    s.noteFail 0x04 addr = if addr / 2 ^ 60 = 0 then s.logEv 17 addr else s := by
  have hm : addr / 2 ^ 60 % 16 = addr / 2 ^ 60 := by omega
  simp only [State.noteFail, tRange, if_true, State.noteRefused, hm]

theorem sizeB_eq {f : FormB} {n : Nat} (h : n = 2 ^ (f.func.toNat % 4)) : sizeB f = n := by
  simp [sizeB, bitsN, h]

theorem loadValue_eq {f : FormB} (h : f.func.toNat < 8) (bs : List Byte) : loadValue f bs =
    if f.func.toNat < 4 then BitVec.ofNat 64 (leNat bs) else BitVec.ofInt 64 (sextN (8 * bs.length) (leNat bs)) := by
  unfold loadValue bitsN
  by_cases h4 : f.func.toNat < 4
  · rw [if_neg (by omega), if_pos h4]
    rfl
  · rw [if_pos (by omega), if_neg h4]

/-- The rest of a scalar load, once its address is checked. -/
def State.loadFrom (s : State) (c addr n : Nat) (l : Loc) (f : FormB) : State :=
  match s.load c addr n l tDataEcc (s.core c).loadClass with
  | .wait w => (s.wakeFor w).stallAt c 4
  | .trap cause status s2 => s2.trapAs c cause addr status
  | .ok bs s2 => s2.retireWith c fun k => k.setS f.dst.toNat (loadValue f bs)

theorem execLd_scalar {s : State} {c : Nat} {f : FormB} {addr n : Nat} (hd : f.dst.toNat < 32) (h1 : f.src1.toNat < 32)
    (hf : f.func.toNat < 8) (hr : ScalarReady s c f.pred f.pneg)
    (ha : addr = ((s.core c).sreg f.src1.toNat + f.imm.signExtend 64).toNat) (hn : n = 2 ^ (f.func.toNat % 4)) :
    exec (.ld (.core c) f) s = .next (match s.checkAccess c addr n with
      | .error cause => (s.noteFail cause addr).trap c cause addr
      | .ok l => s.loadFrom c addr n l f) := by
  show execLd (.core c) f s = _
  simp only [execLd, hr.unit, onUnit_true]
  rw [issueCore_ready hr (by simp [memLegal, regOk, hd, h1, hf])]
  simp only [sizeB_eq hn, addrB, ← ha]
  rfl

theorem scalarLoads_claim : Claim.ScalarLoads := by
  intro s c f addr n hd h1 hf hr ha hn
  have he := execLd_scalar hd h1 hf hr ha hn
  obtain ⟨hnone, halign, hsome⟩ := checkAccess_cases s c addr n
  refine ⟨fun h => ?_, fun h hal => ?_, fun l bs s2 hl hal hload => ?_⟩
  · rw [hnone h] at he
    rw [he]
    simp only [noteFail_range (s := s) (ha ▸ BitVec.isLt _ : addr < 2 ^ 64)]
  · rw [halign h hal] at he
    exact he
  · rw [hsome l hl hal] at he
    have hx : s.loadFrom c addr n l f = s2.retireWith c fun k => k.setS f.dst.toNat (loadValue f bs) := by
      unfold State.loadFrom
      rw [show s.load c addr n l tDataEcc (s.core c).loadClass = .ok bs s2 from hload]
    rw [← loadValue_eq hf]
    exact ⟨_, he.trans (congrArg Host.Outcome.next hx), retireWith_setS s2 c f.dst.toNat fun _ => loadValue f bs⟩

/-! ### What a load answers (R84, R222, R272) -/

theorem onlyCore_setCore (s : State) (c : Nat) (k : Core) : OnlyCore s (s.setCore c k) c where
  others := fun _ hx => State.core_setCore_ne s k hx
  memory := fun _ => rfl
  rest := rfl

theorem onlyCore_refl (s : State) (c : Nat) : OnlyCore s s c := ⟨fun _ _ => rfl, fun _ => rfl, rfl⟩

/-- The first-level cache changes its core at most. -/
theorem throughL1_onlyCore (s : State) (c addr : Nat) (l : Loc) (bs : List Byte) : OnlyCore s (s.throughL1 c addr l bs).2 c := by
  unfold State.throughL1
  cases l with
  | own o off | dev off =>
    dsimp only
    split
    · exact onlyCore_setCore ..
    · exact onlyCore_refl ..
  | remote a | spad o off | nowhere => exact onlyCore_refl ..

theorem ownBeats_ctr (s : State) (c o off n : Nat) : { s.ownBeats c o off n with ctr := s.ctr } = s := by
  unfold State.ownBeats
  split <;> rfl

/-- With no sets the first-level cache passes a read through. -/
theorem l1Read_none {k : Core} (h : l1Sets k = 0) (space addr : Nat) (bs : List Byte) (fill : Nat → Option (List Byte)) :
    l1Read k space addr bs fill = (bs, k) := by simp [l1Read, h]

theorem throughL1_none {s : State} {c : Nat} (h : l1Sets (s.core c) = 0) (addr : Nat) (l : Loc) (bs : List Byte) :
    (s.throughL1 c addr l bs).1 = bs ∧ (∀ x, (s.throughL1 c addr l bs).2.core x = s.core x) ∧
    { (s.throughL1 c addr l bs).2 with cores := s.cores } = s := by
  have hk : ∀ x, (s.setCore c (s.core c)).core x = s.core x := fun x => by
    by_cases hx : x = c
    · rw [hx, State.core_setCore_same]
    · exact State.core_setCore_ne s _ hx
  unfold State.throughL1
  cases l with
  | own o off | dev off =>
    simp only [l1Read_none h]
    split
    · exact ⟨rfl, hk, rfl⟩
    · exact ⟨rfl, fun _ => rfl, rfl⟩
  | remote a | spad o off | nowhere => exact ⟨rfl, fun _ => rfl, rfl⟩

/-- The state after the lines of a range that the fence lets through were read. -/
def State.touchAll (s : State) (c off n cls : Nat) : State := s.touchRange (clusterOf c) off n cls (mayLine off (List.replicate n true))

/-- A read of device memory that the fence lets through, where nothing holds an error. -/
theorem readRaw_dev_calm {s : State} {c off n : Nat} (hdoor : s.doorAt off = false) (hawake : s.asleep (partOfOff off) = false)
    (hmay : s.devMay (s.core c) off n false = true) (hcalm : s.calm = true) (ecc cls : Nat) :
    s.readRaw c n (.dev off) ecc cls = .ok (s.devBytes c off n) (s.touchAll c off n cls) := by
  have ht := touched_touchRange hcalm (clusterOf c) off n cls (mayLine off (List.replicate n true))
  have hb : ((blocksOf 128 off n).any fun ln => mayLine off (List.replicate n true) ln && s.entriesBusy (clusterOf c) ln cls) = false := by
    simp [entriesBusy_calm hcalm]
  have hp : (s.touchRange (clusterOf c) off n cls (mayLine off (List.replicate n true))).readPoison c off n = false := by
    simp [State.readPoison, wordPoison_calm ht.calm]
  simp [State.readRaw, State.touchAll, hdoor, hawake, State.mayBytes, hmay, hb, hp, devBytes_touched ht,
    maskBytes_all _ _ (devBytes_length s c off n)]

theorem load_dev_calm {s : State} {c addr n off : Nat} (hwait : s.mustWait c (.dev off) n false = false)
    (hheld : s.l1Holds c addr n (.dev off) = false) (hdoor : s.doorAt off = false) (hawake : s.asleep (partOfOff off) = false)
    (hmay : s.devMay (s.core c) off n false = true) (hcalm : s.calm = true) (hsets : l1Sets (s.core c) = 0) (ecc cls : Nat) :
    ∃ t, s.load c addr n (.dev off) ecc cls = .ok (s.devBytes c off n) t ∧ (∀ x, t.core x = s.core x) ∧
      { t with cores := s.cores, bays := s.bays, ctr := s.ctr } = s := by
  have hraw := readRaw_dev_calm hdoor hawake hmay hcalm ecc cls
  have ht : Touched s (s.touchAll c off n cls) := touched_touchRange hcalm ..
  generalize s.touchAll c off n cls = t at hraw ht
  have hk := State.core_congr ht.cores
  obtain ⟨hbs, hcores, hrest⟩ := throughL1_none (s := t) (c := c) (by rw [hk c]; exact hsets) addr (.dev off) (s.devBytes c off n)
  refine ⟨(t.throughL1 c addr (.dev off) (s.devBytes c off n)).2, ?_, fun x => (hcores x).trans (hk x), ?_⟩
  · simp only [State.load, hwait, State.loadNow, hheld, hraw, hbs, Bool.false_eq_true, if_false]
  · obtain ⟨b, m, rfl⟩ := ht.only
    have := congrArg (fun x : State => { x with cores := s.cores, bays := s.bays, ctr := s.ctr }) hrest
    exact this

theorem loadAnswers_claim : Claim.LoadAnswers := by
  intro s c addr n ecc cls
  refine ⟨fun l hw hh => ?_, fun o off hw hb => ?_, fun o off hw hb => ?_, fun o off hw hb hne => ?_, ?_, fun off hw hh => ⟨?_, ?_, ?_⟩⟩
  · exact ⟨(s.throughL1 c addr l (zeros n)).1, _, by simp only [State.load, hw, State.loadNow, hh, Bool.false_eq_true, if_false, if_true],
      throughL1_onlyCore s c addr l (zeros n)⟩
  · simp [State.load, State.loadNow, State.l1Holds, hw, hb, State.readRaw, State.throughL1]
  · simp [State.load, State.loadNow, State.l1Holds, hw, hb, State.readRaw, stEcc]
  · have hn : ¬(o = c ∧ addr / 2 ^ 60 = 2) := fun h => hne.elim (· h.1) (· h.2)
    have hl : s.l1Holds c addr n (.own o off) = false := l1Holds_own (by simpa using hn)
    refine ⟨s.ownBeats c o off n, ?_, ownBeats_ctr ..⟩
    simp [State.load, State.loadNow, hl, hw, hb, State.readRaw, State.throughL1, -Nat.reducePow, hn]
  · exact ⟨s.bump 0x03 c 9 1, rfl, rfl⟩
  · intro hlt hdoor
    have hd : s.doorAt off = true := by simp [State.doorAt, hlt, hdoor]
    simp [State.load, State.loadNow, hw, hh, State.readRaw, hd, tUnit, stDoorClosed]
  · intro hd hs
    simp [State.load, State.loadNow, hw, hh, State.readRaw, hd, hs]
  · exact fun hd ha hm hc hs => load_dev_calm hw hh hd ha hm hc hs ecc cls

/-! ### Scalar stores (R81, R84, R223) -/

/-- The rest of a scalar store, once its address is checked. -/
def State.storeTo (s : State) (c addr n : Nat) (l : Loc) (v : W64) : State :=
  match s.store c l (leBytes n v.toNat) (s.core c).storeClass with
  | .wait w => (s.wakeFor w).stallAt c 4
  | .trap cause status s2 => s2.trapAs c cause addr status
  | .ok _ s2 => s2.modCore c Core.retire

theorem execSt_scalar {s : State} {c : Nat} {f : FormB} {addr n : Nat} (hd : f.dst.toNat < 32) (h1 : f.src1.toNat < 32)
    (hf : f.func.toNat < 4) (hr : ScalarReady s c f.pred f.pneg)
    (ha : addr = ((s.core c).sreg f.src1.toNat + f.imm.signExtend 64).toNat) (hn : n = 2 ^ f.func.toNat) :
    exec (.st (.core c) f) s = .next (match s.checkAccess c addr n with
      | .error cause => (s.noteFail cause addr).trap c cause addr
      | .ok l => s.storeTo c addr n l ((s.core c).sreg f.dst.toNat)) := by
  show execSt (.core c) f s = _
  simp only [execSt, hr.unit, onUnit_true]
  rw [issueCore_ready hr (by simp [memLegal, regOk, hd, h1, hf])]
  have hs : sizeB f = n := sizeB_eq (by rw [Nat.mod_eq_of_lt hf]; exact hn)
  simp only [hs, addrB, ← ha]
  rfl

/-- The bytes of a register that a store writes. -/
theorem leBytes_reg_getD (v : W64) {n i : Nat} (h : i < n) : (leBytes n v.toNat).getD i 0 = v.extractLsb' (8 * i) 8 := by
  rw [leBytes_getD n _ i h]
  apply BitVec.eq_of_toNat_eq
  simp [BitVec.extractLsb'_toNat, Nat.shiftRight_eq_div_pow]

theorem storeTo_spad {s : State} {c addr n o off : Nat} (hw : s.mustWait c (.spad o off) n true = false)
    (he : (s.core c).epoch = 0) (v : W64) : s.storeTo c addr n (.spad o off) v =
      (s.modCore o fun k => k.spadStore off (leBytes n v.toNat)).modCore c Core.retire := by
  have hfirst : s.heldFirst c o = false := by simp [State.heldFirst, he, State.epState]
  simp [State.storeTo, State.store, leBytes_length, hw, State.writeRaw, hfirst, he, localWrite_spad]

theorem spadStore_spad (k : Core) (off : Nat) (bs : List Byte) (a : Nat) : nget 0 (k.spadStore off bs).spad a =
    if off ≤ a ∧ a < off + bs.length then bs.getD (a - off) 0 else nget 0 k.spad a := nget_wrBytes ..

/-- A store of ordinary data into a scratchpad, by a core that then retires. -/
theorem modCore_spadStore_retire (s : State) (c o off : Nat) (bs : List Byte) :
    let t := (s.modCore o fun k => k.spadStore off bs).modCore c Core.retire
    SameMemory s t ∧ { t with cores := s.cores } = s ∧ (∀ x, x ≠ c → x ≠ o → t.core x = s.core x) ∧
    (t.core c).pc = (s.core c).pc + 8 ∧ (∀ a, nget 0 (t.core o).spad a =
      if off ≤ a ∧ a < off + bs.length then bs.getD (a - off) 0 else nget 0 (s.core o).spad a) ∧
    (∀ m, (t.core c).sreg m = (s.core c).sreg m) ∧ ∀ m, (t.core c).preg m = (s.core c).preg m := by
  intro t
  have hc : t.core c = ((s.modCore o fun k => k.spadStore off bs).core c).retire := State.core_modCore_same ..
  have hk : ∃ k : Core, t.core c = k.retire ∧ k.pc = (s.core c).pc ∧ k.s = (s.core c).s ∧ k.p = (s.core c).p := by
    refine ⟨_, hc, ?_⟩
    by_cases ho : c = o
    · subst ho
      rw [State.core_modCore_same]
      exact ⟨rfl, rfl, rfl⟩
    · rw [State.core_modCore_ne _ _ ho]
      exact ⟨rfl, rfl, rfl⟩
  obtain ⟨k, hk, hpc, hs, hp⟩ := hk
  refine ⟨fun _ => rfl, rfl, fun x hx ho => ?_, ?_, fun a => ?_, fun m => ?_, fun m => ?_⟩
  · rw [State.core_modCore_ne _ _ hx, State.core_modCore_ne _ _ ho]
  · rw [hk, Core.retire_pc, hpc]
  · by_cases ho : o = c
    · subst ho
      rw [hc, State.core_modCore_same]
      exact spadStore_spad ..
    · rw [State.core_modCore_ne _ _ ho, State.core_modCore_same]
      exact spadStore_spad ..
  · rw [hk, retire_sreg]
    simp only [Core.sreg, hs]
  · rw [hk, retire_preg]
    simp only [Core.preg, hp]

/-- Where every byte passes the fence, a write goes on as one. -/
theorem allowedRuns_all (off : Nat) (bs : List Byte) (h : bs ≠ []) :
    allowedRuns off ((List.replicate bs.length true).zip bs) = [(off, bs)] := by
  induction bs generalizing off with
  | nil => exact absurd rfl h
  | cons b r ih =>
    simp only [List.length_cons, List.replicate_succ, List.zip_cons_cons, allowedRuns]
    cases r with
    | nil => rfl
    | cons b' r' => rw [ih _ (List.cons_ne_nil _ _)]; simp

theorem storeTo_dev {s : State} {c addr n off : Nat} (hw : s.mustWait c (.dev off) n true = false) (hd : s.doorAt off = false)
    (ha : s.asleep (partOfOff off) = false) (hm : s.devMay (s.core c) off n true = true) (hn : 0 < n) (v : W64) :
    s.storeTo c addr n (.dev off) v = ((s.sendStore c (s.moduleId * 2 ^ 44 + off) (s.core c).storeClass 0 (leBytes n v.toNat)).modCore c
      fun x => l1Write x 0 off (leBytes n v.toNat)).modCore c Core.retire := by
  have hb : leBytes n v.toNat ≠ [] := List.ne_nil_of_length_pos (by rw [leBytes_length]; exact hn)
  have hruns := allowedRuns_all off _ hb
  rw [leBytes_length] at hruns
  simp [State.storeTo, State.store, leBytes_length, hw, State.writeRaw, hd, ha, State.mayBytes, hm, hruns]

/-- The store of a core's instruction stream that carries bytes bs to a device address (R223). -/
def State.storeOf (s : State) (c addr cls : Nat) (bs : List Byte) : Store :=
  { addr := addr, bytes := bs, cls := cls, fn := (s.core c).fnOf, epoch := (s.core c).epoch, core := c, seq := (s.core c).seq, src := 0 }

/-- A store that a core sends toward its home bay (R223). -/
theorem core_sendStore_retire (s : State) (c addr off cls : Nat) (bs : List Byte) :
    ∃ k : Core, ((s.sendStore c addr cls 0 bs).modCore c fun x => l1Write x 0 off bs).modCore c Core.retire =
        s.setCore c k ∧ k.pc = (s.core c).pc + 8 ∧ k.s = (s.core c).s ∧
      k.stores = (s.core c).stores ++ [s.storeOf c addr cls bs] := by
  unfold State.sendStore
  rw [modCore_modCore, modCore_modCore]
  refine ⟨_, rfl, ?_, ?_, ?_⟩
  · rw [Core.retire_pc]
    rfl
  · rw [Core.retire_s]
    rfl
  · rw [Core.retire_stores]
    rfl

theorem scalarStores_claim : Claim.ScalarStores := by
  intro s c f addr n hd h1 hf hr ha hn
  have he := execSt_scalar hd h1 hf hr ha hn
  obtain ⟨hnone, halign, hsome⟩ := checkAccess_cases s c addr n
  refine ⟨fun h => ?_, fun h hal => ?_, fun hal hep => ⟨fun o off hl hw => ?_, fun off hl hw hdoor hawake hmay => ?_⟩⟩
  · rw [hnone h] at he
    rw [he]
    simp only [noteFail_range (s := s) (ha ▸ BitVec.isLt _ : addr < 2 ^ 64)]
  · rw [halign h hal] at he
    exact he
  · rw [hsome _ hl hal] at he
    obtain ⟨hmem, hrest, hothers, hpc, hspad, hs, hp⟩ := modCore_spadStore_retire s c o off (leBytes n ((s.core c).sreg f.dst.toNat).toNat)
    refine ⟨_, he.trans (congrArg Host.Outcome.next (storeTo_spad hw hep _)), hmem, hrest, hothers, hpc, fun a => ?_, hs, hp⟩
    rw [hspad a, leBytes_length]
    split
    · rw [leBytes_reg_getD _ (by omega)]
    · rfl
  · rw [hsome _ hl hal] at he
    obtain ⟨k, hk, hpc, hs, hst⟩ := core_sendStore_retire s c (s.moduleId * 2 ^ 44 + off) off (s.core c).storeClass
      (leBytes n ((s.core c).sreg f.dst.toNat).toNat)
    have hx := (storeTo_dev (addr := addr) hw hdoor hawake hmay (hn ▸ Nat.two_pow_pos _) ((s.core c).sreg f.dst.toNat)).trans hk
    refine ⟨_, s.storeOf c _ (s.core c).storeClass _, he.trans (congrArg Host.Outcome.next hx), fun _ => rfl, onlyCore_setCore .., ?_, ?_, rfl, rfl, hep, rfl, rfl,
      leBytes_length .., fun i hi => leBytes_reg_getD _ hi, fun m => ?_⟩
    · rw [State.core_setCore_same, hpc]
    · rw [State.core_setCore_same, hst]
    · rw [State.core_setCore_same]
      simp only [Core.sreg, hs]

/-- Settles O5: a checked access is a load or a store at its location, and what those do is shown location by location. -/
theorem scalarMemory : Obligations.ScalarMemory := ⟨scalarLoads_claim, loadAnswers_claim, scalarStores_claim⟩

end Sys2Proof.Machine
end

section
namespace Sys2Proof.Machine
open Sys2Proof

/-! SUPPORT. A read through the bays leaves the sill regions of their cores alone, which share the bays' banks (R197, R218). -/

/-- The bytes of the cores' own sill regions, bay by bay, and the words of them that are bad. -/
def State.banks (s : State) : Nat → NMap Byte × List Nat := fun n => ((s.bay n).own, (s.bay n).ownBad)

@[simp] theorem banks_ite (c : Prop) [Decidable c] (a b : State) : (if c then a else b).banks = if c then a.banks else b.banks :=
  apply_ite ..

@[simp] theorem foldl_banks {α : Type} (f : State → α → State) (h : ∀ t a, (f t a).banks = t.banks) (l : List α) (s : State) :
    (l.foldl f s).banks = s.banks := List.foldlRecOn (motive := fun t : State => t.banks = s.banks) l f rfl fun _ ht a _ => (h _ a).trans ht

@[simp] theorem foldl_fst_banks {α β : Type} (f : State × β → α → State × β) (h : ∀ x a, (f x a).1.banks = x.1.banks)
    (l : List α) (x : State × β) : (l.foldl f x).1.banks = x.1.banks :=
  List.foldlRecOn (motive := fun y : State × β => y.1.banks = x.1.banks) l f rfl fun _ hy a _ => (h _ a).trans hy

section
variable (s : State)

@[simp] theorem bump_banks (fam unit pos n : Nat) : (s.bump fam unit pos n).banks = s.banks := rfl
@[simp] theorem hbmCount_banks (off pos n : Nat) : (s.hbmCount off pos n).banks = s.banks := rfl
@[simp] theorem sill_banks (bay pos n : Nat) : (s.sill bay pos n).banks = s.banks := rfl
@[simp] theorem sillC_banks (bay pos cls n : Nat) : (s.sillC bay pos cls n).banks = s.banks := rfl
@[simp] theorem farBeats_banks (bay n : Nat) : (s.farBeats bay n).banks = s.banks := rfl
@[simp] theorem setChk_banks (off : Nat) (v : W32) : (s.setChk off v).banks = s.banks := rfl
@[simp] theorem memWrite_banks (off : Nat) (bs : List Byte) : (s.memWrite off bs).banks = s.banks := rfl
@[simp] theorem drew_banks : s.drew.banks = s.banks := rfl
@[simp] theorem logEv_banks (kind num : Nat) : (s.logEv kind num).banks = s.banks := rfl

/-- A change of a bay that keeps its cores' own regions. -/
theorem setBay_banks {n : Nat} {b : Bay} (ho : b.own = (s.bay n).own) (hb : b.ownBad = (s.bay n).ownBad) : (s.setBay n b).banks = s.banks := by
  funext m
  simp only [State.banks, State.setBay, State.bay, nget_nset]
  split
  · next e => rw [e, ho, hb]; rfl
  · rfl

@[simp] theorem setBay_modLine_banks (n ln : Nat) (f : Line → Line) : (s.setBay n ((s.bay n).modLine ln f)).banks = s.banks :=
  setBay_banks s rfl rfl

@[simp] theorem setBay_drop_banks (n ln : Nat) : (s.setBay n ((s.bay n).drop ln)).banks = s.banks := setBay_banks s rfl rfl

/-! ### Sectors of HBM -/

@[simp] theorem hbmPut_banks (off : Nat) (v : Byte) : (s.hbmPut off v).banks = s.banks := by
  unfold State.hbmPut
  dsimp only
  split
  · split
    · exact setBay_banks s rfl rfl
    · rfl
  · rfl

@[simp] theorem hbmFlip_banks (off : Nat) (x : Byte) : (s.hbmFlip off x).banks = s.banks := by
  unfold State.hbmFlip
  split
  · rfl
  · exact hbmPut_banks ..

@[simp] theorem sectorRead_banks (off : Nat) : (s.sectorRead off).1.banks = s.banks := by
  unfold State.sectorRead
  dsimp only
  split
  · rfl
  · split
    all_goals simp

@[simp] theorem sectorPut_banks (off n : Nat) (poison : Bool) : (s.sectorPut off n poison).banks = s.banks := by
  simp [State.sectorPut]

@[simp] theorem hbmFetch_banks (off n : Nat) : (s.hbmFetch off n).1.banks = s.banks := by
  unfold State.hbmFetch
  refine foldl_fst_banks _ (fun x a => ?_) _ _
  exact sectorRead_banks ..

/-! ### Lines of the bays -/

@[simp] theorem unmark_banks (bay : Nat) (l : Line) : (s.unmark bay l).banks = s.banks := by
  simp [State.unmark]

@[simp] theorem writeBack_banks (bay : Nat) (l : Line) : (s.writeBack bay l).banks = s.banks := by
  simp [State.writeBack]

@[simp] theorem flushLine_banks (bay : Nat) (l : Line) : (s.flushLine bay l).banks = s.banks := by simp [State.flushLine]

@[simp] theorem dropCopiesOf_banks (ln : Nat) (p : Nat → Bool) : (s.dropCopiesOf ln p).banks = s.banks := by
  refine foldl_banks _ (fun t e => ?_) s.bays s
  split
  · split <;> simp
  · rfl

@[simp] theorem evictLine_banks (bay : Nat) (l : Line) : (s.evictLine bay l).banks = s.banks := by
  simp [State.evictLine]

@[simp] theorem makeRoom_banks (bay : Nat) (v : Option Line) : (s.makeRoom bay v).banks = s.banks := by
  cases v with
  | none => rfl
  | some l => exact evictLine_banks s bay l

@[simp] theorem allocLine_banks (bay : Nat) (new : Line) : (s.allocLine bay new).1.banks = s.banks := by
  unfold State.allocLine
  split
  · rfl
  · next v _ =>
    dsimp only
    have h := (setBay_banks (s.makeRoom bay v) (n := bay) (b := { (s.makeRoom bay v).bay bay with
      lines := ((s.makeRoom bay v).bay bay).lines ++ [{ new with stamp := ((s.makeRoom bay v).bay bay).clock + 1 }],
      clock := ((s.makeRoom bay v).bay bay).clock + 1 }) rfl rfl).trans (makeRoom_banks s bay v)
    split <;> exact h

@[simp] theorem hitLine_banks (bay : Nat) (l : Line) (cls : Nat) : (s.hitLine bay l cls).banks = s.banks := by
  unfold State.hitLine
  dsimp only
  split <;> exact setBay_banks s rfl rfl

@[simp] theorem fillLine_banks (bay ln cls : Nat) (mark force : Bool) : (s.fillLine bay ln cls mark force).1.banks = s.banks := by
  have h : (if s.kindIn bay ln = .home then (s.hbmFetch ln 128).1 else s).banks = s.banks := by simp
  unfold State.fillLine
  dsimp only
  generalize (if s.kindIn bay ln = .home then (s.hbmFetch ln 128).1 else s) = s1 at h
  split <;> simp [h]

theorem readAt_banks (bay ln cls : Nat) {fill : State → State} (hf : ∀ t, (fill t).banks = t.banks) :
    (s.readAt bay ln cls fill).banks = s.banks := by
  unfold State.readAt
  simp only [farBeats_banks]
  split
  · split <;> simp
  · split
    · rfl
    · simp only [fillLine_banks, hf]
      split <;> rfl

@[simp] theorem touch_banks (cluster ln cls : Nat) : (s.touch cluster ln cls).banks = s.banks := by
  unfold State.touch
  refine readAt_banks s _ ln cls fun t => ?_
  split
  · rfl
  · have h := readAt_banks t (t.homeBay ln) ln cls (fill := id) fun _ => rfl
    dsimp only
    split
    · exact h
    · exact (setBay_modLine_banks ..).trans h

@[simp] theorem touchRange_banks (cluster off n cls : Nat) (p : Nat → Bool) : (s.touchRange cluster off n cls p).banks = s.banks :=
  foldl_banks _ (fun t ln => by split <;> simp) _ s

end

end Sys2Proof.Machine
end

section
namespace Sys2Proof.Machine
open Sys2Proof

/-! SUPPORT. What the checks and the order of an access turn on: not the thread groups, the instruction caches and the scratchpads of
the cores, not their accumulators, not the bays and not the counters. -/

/-- A core with other thread groups, instruction cache, accumulators and scratchpad. -/
def Core.dressed (k d : Core) : Core :=
  { k with groups := d.groups, icache := d.icache, acc := d.acc, spad := d.spad, spadBad := d.spadBad, journal := d.journal }

/-- Two states whose accesses meet the same checks and wait alike. -/
structure SameView (s t : State) : Prop where
  only : ∃ (k : NMap Core) (b : NMap Bay) (m : NMap W64), t = { s with cores := k, bays := b, ctr := m }
  core : ∀ x, t.core x = (s.core x).dressed (t.core x)

theorem SameView.resolve {s t : State} (h : SameView s t) (c addr n : Nat) (scalar : Bool) :
    t.resolve c addr n scalar = s.resolve c addr n scalar := by
  have hk : ∃ d : Nat → Core, ∀ x, t.core x = (s.core x).dressed (d x) := ⟨t.core, h.core⟩
  obtain ⟨k, b, m, rfl⟩ := h.only
  obtain ⟨d, hk⟩ := hk
  have hs : ∀ o, ({ s with cores := k, bays := b, ctr := m } : State).standsIn o = s.standsIn o := fun o => by
    unfold State.standsIn
    rw [hk o]
    rfl
  unfold State.resolve
  simp only [hs, hk]
  rfl

theorem SameView.mustWait {s t : State} (h : SameView s t) (c : Nat) (l : Loc) (n : Nat) (write : Bool) :
    t.mustWait c l n write = s.mustWait c l n write := by
  have hk := h.core c
  obtain ⟨k, b, m, rfl⟩ := h.only
  unfold State.mustWait
  rw [hk]
  rfl

theorem SameView.refl (s : State) : SameView s s := ⟨⟨s.cores, s.bays, s.ctr, rfl⟩, fun _ => rfl⟩

theorem SameView.trans {s t u : State} (h : SameView s t) (g : SameView t u) : SameView s u := by
  refine ⟨?_, fun x => ?_⟩
  · obtain ⟨_, _, _, rfl⟩ := h.only
    obtain ⟨k, b, m, rfl⟩ := g.only
    exact ⟨k, b, m, rfl⟩
  · exact (g.core x).trans (congrArg (·.dressed (u.core x)) (h.core x))

/-- A change of a core that only dresses it anew. -/
theorem sameView_modCore (s : State) (c : Nat) {f : Core → Core} (hf : f (s.core c) = (s.core c).dressed (f (s.core c))) :
    SameView s (s.modCore c f) := by
  refine ⟨⟨_, s.bays, s.ctr, rfl⟩, fun x => ?_⟩
  by_cases hx : x = c
  · subst hx
    rw [State.core_modCore_same]
    exact hf
  · rw [State.core_modCore_ne _ _ hx]
    rfl

theorem sameView_modGrp (s : State) (c i : Nat) (f : Group → Group) : SameView s (s.modGrp c i f) := sameView_modCore s c rfl

/-- Two states of which a read sees the same bytes. -/
structure ReadsAlike (s t : State) : Prop extends SameView s t where
  spads : ∀ x, (t.core x).spad = (s.core x).spad ∧ (t.core x).spadBad = (s.core x).spadBad ∧ (t.core x).journal = (s.core x).journal
  banks : t.banks = s.banks
  prov : ∀ n, (t.bay n).prov = (s.bay n).prov
  calm : s.calm = true → t.calm = true

theorem ReadsAlike.refl (s : State) : ReadsAlike s s := ⟨.refl s, fun _ => ⟨rfl, rfl, rfl⟩, rfl, fun _ => rfl, id⟩

theorem ReadsAlike.trans {s t u : State} (h : ReadsAlike s t) (g : ReadsAlike t u) : ReadsAlike s u := by
  refine ⟨h.toSameView.trans g.toSameView, fun x => ?_, g.banks.trans h.banks, fun n => (g.prov n).trans (h.prov n), g.calm ∘ h.calm⟩
  obtain ⟨h1, h2, h3⟩ := h.spads x
  obtain ⟨g1, g2, g3⟩ := g.spads x
  exact ⟨g1.trans h1, g2.trans h2, g3.trans h3⟩

section
variable {s t : State}

theorem ReadsAlike.localBytes (h : ReadsAlike s t) (space o off n : Nat) : t.localBytes space o off n = s.localBytes space o off n := by
  have hsp := (h.spads o).1
  have hb : (t.bay (clusterOf o)).own = (s.bay (clusterOf o)).own := congrArg Prod.fst (congrFun h.banks (clusterOf o))
  obtain ⟨_, _, _, rfl⟩ := h.only
  unfold State.localBytes
  rw [hsp, hb]
  rfl

theorem ReadsAlike.localBad (h : ReadsAlike s t) (space o off n : Nat) : t.localBad space o off n = s.localBad space o off n := by
  have hsp := (h.spads o).2.1
  have hb : (t.bay (clusterOf o)).ownBad = (s.bay (clusterOf o)).ownBad := congrArg Prod.snd (congrFun h.banks (clusterOf o))
  obtain ⟨_, _, _, rfl⟩ := h.only
  unfold State.localBad
  rw [hsp, hb]
  rfl

theorem SameView.epoch (h : SameView s t) (x : Nat) : (t.core x).epoch = (s.core x).epoch := by
  rw [h.core x]
  rfl

theorem ReadsAlike.localRead (h : ReadsAlike s t) (reader space o off n : Nat) :
    t.localRead reader space o off n = s.localRead reader space o off n := by
  simp only [State.localRead, h.localBytes, (h.spads o).2.2, h.epoch]

theorem ReadsAlike.devBytes (h : ReadsAlike s t) (c off n : Nat) : t.devBytes c off n = s.devBytes c off n := by
  have hk := h.core c
  have hp := h.prov (clusterOf c)
  obtain ⟨_, _, _, rfl⟩ := h.only
  unfold State.devBytes State.provOver State.ownStores
  rw [hk, hp]
  rfl

theorem SameView.devPlace (h : SameView s t) (c off n : Nat) : t.doorAt off = s.doorAt off ∧ t.asleep (partOfOff off) = s.asleep (partOfOff off) ∧
    (∀ write, t.devMay (t.core c) off n write = s.devMay (s.core c) off n write) ∧
    l1Cacheable (t.core c) (t.unfwd (t.core c) off + t.moduleId * 2 ^ 44) n =
      l1Cacheable (s.core c) (s.unfwd (s.core c) off + s.moduleId * 2 ^ 44) n := by
  have hk := h.core c
  obtain ⟨_, _, _, rfl⟩ := h.only
  rw [hk]
  exact ⟨rfl, rfl, fun _ => rfl, rfl⟩

/-- A plain read of one state is the same plain read of the other. -/
theorem ReadsAlike.plainRead (h : ReadsAlike s t) {c addr n : Nat} {scalar : Bool} {bs : List Byte}
    (hr : s.plainRead c addr n scalar = some bs) : t.plainRead c addr n scalar = some bs := by
  unfold State.plainRead at hr ⊢
  rw [h.resolve]
  split at hr
  · simpa only [h.mustWait, h.localBad, h.localRead] using hr
  · simpa only [h.mustWait, h.localBad, h.localRead] using hr
  · next off _ =>
    obtain ⟨hdoor, hasleep, hmay, hl1⟩ := h.devPlace c off n
    split at hr
    · cases hr
    · next hc =>
      have hcalm : s.calm = true := by
        simp only [Bool.or_eq_true, not_or, Bool.not_eq_true'] at hc
        simpa using hc.1.2
      simp only [h.mustWait, hdoor, hasleep, hmay, hl1, h.devBytes, h.calm hcalm]
      simp only [hcalm] at hc
      rw [if_neg hc]
      exact hr
  · cases hr

/-- A read that touches lines reads alike afterwards. -/
theorem ReadsAlike.of_touched (h : Touched s t) (hb : t.banks = s.banks) : ReadsAlike s t := by
  have hk := State.core_congr h.cores
  refine ⟨⟨?_, fun x => ?_⟩, fun x => ?_, hb, h.prov, fun _ => h.calm⟩
  · obtain ⟨b, m, rfl⟩ := h.only
    exact ⟨s.cores, b, m, rfl⟩
  · rw [hk x]
    rfl
  · rw [hk x]
    exact ⟨rfl, rfl, rfl⟩

theorem ownBeats_cores (s : State) (c o off n : Nat) : (s.ownBeats c o off n).cores = s.cores := by
  unfold State.ownBeats
  split <;> rfl

theorem readsAlike_bump (s : State) (fam unit pos n : Nat) : ReadsAlike s (s.bump fam unit pos n) :=
  ⟨⟨⟨s.cores, s.bays, _, rfl⟩, fun _ => rfl⟩, fun _ => ⟨rfl, rfl, rfl⟩, rfl, fun _ => rfl, id⟩

theorem readsAlike_ownBeats (s : State) (c o off n : Nat) : ReadsAlike s (s.ownBeats c o off n) := by
  unfold State.ownBeats
  split
  · exact readsAlike_bump ..
  · exact readsAlike_bump ..

/-- A plain read loads its bytes, and leaves a state that reads alike. -/
theorem load_plain_alike {c addr n : Nat} {scalar : Bool} {bs : List Byte} (ecc cls : Nat)
    (hr : s.plainRead c addr n scalar = some bs) :
    ∃ l u, s.resolve c addr n scalar = some l ∧ s.load c addr n l ecc cls = .ok bs u ∧ ReadsAlike s u ∧ u.cores = s.cores := by
  unfold State.plainRead at hr
  split at hr
  · next o off he =>
    split at hr
    · cases hr
    · next hc =>
      obtain rfl := Option.some.inj hr
      simp only [Bool.or_eq_true, not_or, Bool.not_eq_true] at hc
      exact ⟨_, s, he, by simp [State.load, State.loadNow, State.l1Holds, hc, State.readRaw, State.throughL1], .refl s, rfl⟩
  · next o off he =>
    split at hr
    · cases hr
    · next hc =>
      obtain rfl := Option.some.inj hr
      simp only [Bool.or_eq_true, not_or, Bool.not_eq_true] at hc
      obtain ⟨⟨hw, hb⟩, hl1⟩ := hc
      have hn : ¬(o = c ∧ addr / 2 ^ 60 = 2) := by simpa using hl1
      refine ⟨_, s.ownBeats c o off n, he, ?_, readsAlike_ownBeats s c o off n, ownBeats_cores s c o off n⟩
      simp [State.load, State.loadNow, l1Holds_own hl1, hw, hb, State.readRaw, State.throughL1, -Nat.reducePow, hn]
  · next off he =>
    split at hr
    · cases hr
    · next hc =>
      obtain rfl := Option.some.inj hr
      simp only [Bool.or_eq_true, not_or, Bool.not_eq_true] at hc
      obtain ⟨⟨⟨⟨⟨hw, hdoor⟩, hawake⟩, hmay⟩, hcalm⟩, hl1⟩ := hc
      simp only [Bool.not_eq_false'] at hmay hcalm
      have ht : Touched s (s.touchAll c off n cls) := touched_touchRange hcalm ..
      have ha : ReadsAlike s (s.touchAll c off n cls) := ReadsAlike.of_touched ht (touchRange_banks ..)
      refine ⟨_, s.touchAll c off n cls, he, ?_, ha, ht.cores⟩
      have hheld : s.l1Holds c addr n (.dev off) = false := by simp only [State.l1Holds, hl1, Bool.false_and]
      have hthrough := (ha.devPlace c off n).2.2.2.trans hl1
      simp only [State.load, hw, State.loadNow, hheld, readRaw_dev_calm hdoor hawake hmay hcalm, State.throughL1,
        devBytes_length, hthrough, Bool.false_eq_true, if_false]
  · cases hr

end

end Sys2Proof.Machine
end

section
namespace Sys2Proof.Machine
open Sys2Proof

/-! ### Register reads and fences of thread code (R84, R95, R171) -/

/-- A state with the cores of another that reads alike, and with other counters. -/
theorem readsAlike_of_cores {s t u : State} (h : ReadsAlike s t) (hc : u.cores = t.cores) (ho : CoresOnly s u) : ReadsAlike s u := by
  have hk := State.core_congr hc
  refine ⟨⟨?_, fun x => ?_⟩, fun x => ?_, ?_, fun n => ?_, fun hcalm => ?_⟩
  · obtain ⟨k, m, rfl⟩ := ho
    exact ⟨k, s.bays, m, rfl⟩
  · rw [hk x]
    exact h.core x
  · rw [hk x]
    exact h.spads x
  all_goals obtain ⟨k, m, rfl⟩ := ho
  · rfl
  · rfl
  · exact hcalm

/-- A change of a core's thread groups and instruction cache. -/
theorem readsAlike_modCore (s : State) (c : Nat) {f : Core → Core} (hf : f (s.core c) = (s.core c).dressed (f (s.core c)))
    (hs : (f (s.core c)).spad = (s.core c).spad ∧ (f (s.core c)).spadBad = (s.core c).spadBad ∧
      (f (s.core c)).journal = (s.core c).journal) : ReadsAlike s (s.modCore c f) := by
  refine ⟨sameView_modCore s c hf, fun x => ?_, rfl, fun _ => rfl, id⟩
  by_cases hx : x = c
  · subst hx
    rw [State.core_modCore_same]
    exact hs
  · rw [State.core_modCore_ne _ _ hx]
    exact ⟨rfl, rfl, rfl⟩

theorem readsAlike_modGrp (s : State) (c i : Nat) (f : Group → Group) : ReadsAlike s (s.modGrp c i f) :=
  readsAlike_modCore s c rfl ⟨rfl, rfl, rfl⟩

theorem readsAlike_atEffect (s : State) (c i : Nat) (pred : BitVec 3) (pneg : Bool) (srcs : List Nat) :
    ReadsAlike s (s.atEffect c i pred pneg srcs) :=
  (readsAlike_modCore s c (by rfl) ⟨rfl, rfl, rfl⟩).trans (readsAlike_modGrp _ c i _)

theorem SameView.csrRead {s t : State} (h : SameView s t) (c n : Nat) : (t.csrRead c n).1 = (s.csrRead c n).1 := by
  have hk := h.core c
  obtain ⟨k, b, m, rfl⟩ := h.only
  unfold State.csrRead
  rw [hk]
  split_ifs <;> rfl

theorem SameView.storesDone {s t : State} (h : SameView s t) (c : Nat) : t.storesDone c = s.storesDone c := by
  have hk := h.core c
  obtain ⟨k, b, m, rfl⟩ := h.only
  unfold State.storesDone
  rw [hk]
  rfl

theorem SameView.td {s t : State} (h : SameView s t) (c : Nat) : (t.core c).td = (s.core c).td := by
  rw [h.core c]
  rfl

theorem csrListed_lt {n : Nat} (h : csrListed n = true) : n < 4096 := by
  simp only [csrListed, List.contains_iff_mem, List.mem_cons, List.not_mem_nil, or_false] at h
  omega

/-- An instruction of thread code that is ready and legal, whose effect on the lanes that take it is f and whose effect on the rest
of the state, if any lane takes it, is that of eff. -/
theorem issueGroup_outcome {s : State} {c i : Nat} (h : ThreadReady s c i) {pred : BitVec 3} {pneg : Bool} {srcs : List Nat}
    {legal : Bool} (hl : legal = true) {eff : State → List Nat → Except (Option Nat) State} {f : Thread → Thread}
    (he : ∀ s1, CoresOnly s s1 → s1.cores = (s.atEffect c i pred pneg srcs).cores → (s.grp c i).onLanesOf pred pneg ≠ [] →
      ∃ u, eff s1 ((s.grp c i).onLanesOf pred pneg) = .ok u ∧
        u.cores = (s1.modGrp c i fun g => g.onLanes ((s.grp c i).onLanesOf pred pneg) fun _ t => f t).cores) :
    (issueGroup s c i legal pred pneg true srcs eff).cores =
      ((s.modCore c fun k => k.fetched (k.codeBase + (s.grp c i).lowPc)).modGrp c i fun x => x.after pred pneg srcs f).cores ∧
    ∃ s1, CoresOnly s s1 ∧ s1.cores = (s.atEffect c i pred pneg srcs).cores ∧
      (issueGroup s c i legal pred pneg true srcs eff = s1 ∨ (s.grp c i).onLanesOf pred pneg ≠ [] ∧
        eff s1 ((s.grp c i).onLanesOf pred pneg) = .ok (issueGroup s c i legal pred pneg true srcs eff)) := by
  obtain ⟨s1, hc, hk, hi⟩ := issueGroup_atEffect h pred pneg srcs hl eff
  by_cases hon : (s.grp c i).onLanesOf pred pneg = []
  · rw [if_pos (List.isEmpty_iff.2 hon)] at hi
    rw [hi]
    exact ⟨hk.trans (congrArg State.cores (atEffect_none s c i srcs f hon)), s1, hc, hk, .inl rfl⟩
  · obtain ⟨u, hu, hcores⟩ := he s1 hc hk hon
    rw [if_neg (mt List.isEmpty_iff.1 hon), hu] at hi
    rw [hi]
    refine ⟨?_, s1, hc, hk, .inr ⟨hon, hu⟩⟩
    rw [hcores, modGrp_cores_congr hk, atEffect_after]

/-- CSR.R in thread code: at most the next open value moves beside its effect on the threads. -/
theorem execCsrR_group {s : State} {c g : Nat} (hr : ThreadReady s c g) {f : FormB} (h1 : f.src1 = 0) (h0 : f.func = 0)
    (hd : f.dst.toNat % 2 = 0) (hn : csrListed f.imm.toNat = true) :
    ∃ t, exec (.csrR (.group c g) f) s = .next t ∧ ThreadEffect { s with free := t.free } t c g f.pred f.pneg [] fun x =>
      { x.setPair f.dst.toNat (s.csrRead c f.imm.toNat).1 with pc := x.pc + 8 } := by
  show ∃ t, execCsrR (.group c g) f s = .next t ∧ _
  simp only [execCsrR, hr.unit, hr.slot, Bool.and_self, onUnit_true, hn, Bool.not_true, Bool.false_eq_true, if_false]
  refine ⟨_, rfl, ?_⟩
  have hl : (csrLegal (.group c g) f f.src1 f.dst && evenOk f.dst) = true := by
    simp [csrLegal, h0, h1, csrListed_lt hn, regOk, evenOk, hd]
  obtain ⟨hcores, s1, hc, -, hs⟩ := issueGroup_outcome hr hl (pred := f.pred) (pneg := f.pneg) (srcs := [])
    (eff := fun s1 lanes => threadRegs (s1.csrRead c f.imm.toNat).2 c g
      (fun _ t => t.setPair f.dst.toNat (s1.csrRead c f.imm.toNat).1) lanes)
    (f := fun x => { x.setPair f.dst.toNat (s.csrRead c f.imm.toNat).1 with pc := x.pc + 8 }) fun s1 hc hk _ => ⟨_, rfl, by
      rw [(readsAlike_of_cores (readsAlike_atEffect s c g f.pred f.pneg []) hk hc).csrRead]
      obtain ⟨m, hm⟩ := csrRead_state s1 c f.imm.toNat
      rw [hm]
      rfl⟩
  have hrest : ∃ (k : NMap Core) (m : NMap W64) (n : Nat), issueGroup s c g (csrLegal (.group c g) f f.src1 f.dst && evenOk f.dst)
      f.pred f.pneg true [] (fun s1 lanes => threadRegs (s1.csrRead c f.imm.toNat).2 c g
        (fun _ t => t.setPair f.dst.toNat (s1.csrRead c f.imm.toNat).1) lanes) = { s with cores := k, ctr := m, free := n } := by
    obtain ⟨k, m, rfl⟩ := hc
    obtain hs | ⟨-, hs⟩ := hs
    · exact ⟨k, m, s.free, hs⟩
    · obtain ⟨n, hn⟩ := csrRead_state { s with cores := k, ctr := m } c f.imm.toNat
      rw [threadRegs, hn] at hs
      exact ⟨_, m, n, (Except.ok.inj hs).symm⟩
  obtain ⟨k, m, n, hx⟩ := hrest
  rw [hx] at hcores ⊢
  exact threadEffect_of hcores rfl rfl

end Sys2Proof.Machine
end

section
namespace Sys2Proof.Machine
open Sys2Proof

theorem execTdLd_group {s : State} {c g : Nat} (hr : ThreadReady s c g) {f : FormB} {d : Desc} (h1 : f.src1 = 0) (h0 : f.func = 0)
    (hd : f.dst.toNat % 2 = 0) (hi : f.imm.toNat < 1024) (ht : (s.core c).td[f.imm.toNat % 256]? = some d) :
    ∃ t, exec (.tdLd (.group c g) f) s = .next t ∧ ThreadEffect s t c g f.pred f.pneg [] fun x =>
      { x.setPair f.dst.toNat (d.word (f.imm.toNat / 256)) with pc := x.pc + 8 } := by
  show ∃ t, execTdLd (.group c g) f s = .next t ∧ _
  simp only [execTdLd, hr.unit, hr.slot, Bool.and_self, onUnit_true]
  refine ⟨_, rfl, issueGroup_effect hr (by simp [h0, h1, hi, regOk, evenOk, hd]) fun s1 hc hk => ?_⟩
  rw [(readsAlike_of_cores (readsAlike_atEffect s c g f.pred f.pneg []) hk hc).td, ht]
  rfl

/-- Dropping cached lines and the lanes' effect change different parts of a core. -/
theorem l1Invalidate_atEffect (s : State) (c i : Nat) (pred : BitVec 3) (pneg : Bool) (srcs : List Nat) :
    (s.atEffect c i pred pneg srcs).modCore c l1Invalidate = (s.modCore c l1Invalidate).atEffect c i pred pneg srcs := by
  have hg : (s.modCore c l1Invalidate).grp c i = s.grp c i := by
    simp only [State.grp, State.core_modCore_same]
    rfl
  unfold State.atEffect State.modGrp
  simp only [hg, modCore_modCore]
  rfl

/-- A fence of thread code whose wait is over: beside the threads it changes at most the first-level cache, and that only where some
lane takes it. -/
theorem fence_group {s : State} {c g : Nat} (hr : ThreadReady s c g) {f : FormA}
    (hu : usesA f false false false false true false false = true) {code : BitVec 8} (hf : f.func = code) {stores inv queues : Bool}
    (hs : stores = true → s.storesDone c = true) :
    ∃ t, fence (.group c g) f code stores inv queues s = .next t ∧
      ThreadEffect (if inv && (s.grp c g).active.any ((s.grp c g).takes f.pred f.pneg) then s.modCore c l1Invalidate else s)
        t c g f.pred f.pneg [] fun x => { x with pc := x.pc + 8 } := by
  have hw : ∀ s1, CoresOnly s s1 → s1.cores = (s.atEffect c g f.pred f.pneg []).cores → (!stores || s1.storesDone c) = true :=
    fun s1 hc hk => by
      rw [(readsAlike_of_cores (readsAlike_atEffect s c g f.pred f.pneg []) hk hc).storesDone]
      cases stores
      · rfl
      · simp [hs rfl]
  simp only [fence, hr.unit, hr.slot, Bool.and_self, onUnit_true]
  have hl : (usesA f false false false false true false false && f.func == code) = true := by simp [hu, hf]
  by_cases hb : (inv && (s.grp c g).active.any ((s.grp c g).takes f.pred f.pneg)) = true
  · rw [if_pos hb]
    obtain ⟨rfl, hany⟩ := Bool.and_eq_true_iff.1 hb
    have hne : ((s.grp c g).onLanesOf f.pred f.pneg).isEmpty = false := by
      obtain ⟨l, -, hl⟩ := List.any_eq_true.1 hany
      cases he : (s.grp c g).onLanesOf f.pred f.pneg with
      | nil => exact absurd (mem_onLanesOf.2 hl) (he ▸ List.not_mem_nil)
      | cons => rfl
    obtain ⟨s1, hc, hk, hi⟩ := issueGroup_atEffect hr f.pred f.pneg [] hl fun s1 lanes =>
      if (!stores || s1.storesDone c) = true then threadRegs (s1.modCore c l1Invalidate) c g (fun _ t => t) lanes else .error none
    simp only [hne, hw s1 hc hk, Bool.false_eq_true, if_false, if_true] at hi
    refine ⟨_, congrArg Host.Outcome.next hi, ?_⟩
    have hg : (s.modCore c l1Invalidate).grp c g = s.grp c g := by
      simp only [State.grp, State.core_modCore_same]
      rfl
    have hcores : (s1.modCore c l1Invalidate).cores = ((s.modCore c l1Invalidate).atEffect c g f.pred f.pneg []).cores := by
      rw [← l1Invalidate_atEffect]
      show nset {} s1.cores c (l1Invalidate (s1.core c)) = _
      rw [State.core_congr hk, hk]
      rfl
    obtain ⟨k, m, rfl⟩ := hc
    refine threadEffect_of ?_ rfl rfl
    refine (modGrp_cores_congr hcores c g _).trans ?_
    rw [← hg]
    exact congrArg State.cores (atEffect_after (s.modCore c l1Invalidate) c g f.pred f.pneg [] Thread.next)
  · rw [if_neg hb]
    refine ⟨_, rfl, ?_⟩
    cases inv with
    | false =>
      exact issueGroup_effect hr hl fun s1 hc hk => by rw [if_pos (hw s1 hc hk)]; rfl
    | true =>
      have hon : (s.grp c g).onLanesOf f.pred f.pneg = [] := List.eq_nil_iff_forall_not_mem.2 fun l hl => hb (by
        have ht := mem_onLanesOf.1 hl
        rw [Bool.true_and, List.any_eq_true]
        exact ⟨l, (List.mem_filter.1 hl).1, ht⟩)
      obtain ⟨s1, hc, hk, hi⟩ := issueGroup_atEffect hr f.pred f.pneg [] hl fun s1 lanes =>
        if (!stores || s1.storesDone c) = true then threadRegs (s1.modCore c l1Invalidate) c g (fun _ t => t) lanes else .error none
      rw [hon] at hi
      refine Eq.mpr (congrArg (fun t => ThreadEffect s t c g f.pred f.pneg [] _) hi) ?_
      obtain ⟨hm, hrest⟩ := coresOnly_rest hc
      exact threadEffect_of (hk.trans (congrArg State.cores (atEffect_none s c g [] _ hon))) hm hrest

theorem threadReadsAndFences_claim : Claim.ThreadReadsAndFences := by
  intro s c g hr
  refine ⟨fun f h1 h0 hd hn => ?_, fun f d h1 h0 hd hi ht => ?_, fun f i inv hu hi => ?_⟩
  · obtain ⟨t, he, ht⟩ := execCsrR_group hr h1 h0 hd hn
    obtain ⟨hid, htd, hep, hms, hstored⟩ := csrRead_value s c f.imm.toNat
    exact ⟨t, _, he, hid, htd, hep, hms, hstored, ht⟩
  · rw [← Desc.word_eq]
    exact execTdLd_group hr h1 h0 hd hi ht
  · obtain ⟨rfl, hf, hs, rfl⟩ | ⟨rfl, hf, rfl⟩ | ⟨rfl, hf, hs, rfl⟩ := hi
    · show ∃ t, execFenceStore (.group c g) f s = .next t ∧ _
      exact fence_group hr hu hf fun _ => hs
    · show ∃ t, execFenceInv (.group c g) f s = .next t ∧ _
      exact fence_group hr hu hf fun h => nomatch h
    · show ∃ t, execFenceAll (.group c g) f s = .next t ∧ _
      exact fence_group hr hu hf fun _ => hs

end Sys2Proof.Machine
end

section
namespace Sys2Proof.Machine
open Sys2Proof

/-! ### Loads of thread code (R81, R171, R176, R177) -/

/-- The 32 bits that a load of bytes bs writes to a register of a thread (R81, R176). -/
def loadWord (f : FormB) (bs : List Byte) : W32 :=
  if f.func.toNat < 4 then BitVec.ofNat 32 (leNat bs) else BitVec.ofInt 32 (sextN (8 * bs.length) (leNat bs))

theorem loadValue_low {f : FormB} (h : f.func.toNat < 8) (bs : List Byte) : (loadValue f bs).extractLsb' 0 32 = loadWord f bs := by
  rw [loadValue_eq h, loadWord]
  split
  · apply BitVec.eq_of_toNat_eq
    simp [BitVec.extractLsb'_toNat]
  · apply BitVec.eq_of_toNat_eq
    simp [BitVec.extractLsb'_toNat]
    omega

/-- What a load leaves of a thread, whose bytes are read in a state s. -/
def State.loadThread (s : State) (c n : Nat) (f : FormB) (t : Thread) : Thread :=
  { t.setReg f.dst.toNat (loadWord f ((s.plainRead c (addrB (t.pair f.src1.toNat) f) n true).getD [])) with pc := t.pc + 8 }

theorem laneLoad_plain {s st : State} {c i l n addr : Nat} {f : FormB} {bs : List Byte} (hf : f.func.toNat < 8) (h : ReadsAlike s st)
    (ha : addr = addrB (((st.grp c i).th l).pair f.src1.toNat) f) (hal : addr % n = 0) (hr : s.plainRead c addr n true = some bs) :
    ∃ u, laneLoad st c i l addr n f = .ok u ∧ ReadsAlike s u ∧
      u.cores = (st.modGrp c i fun g => g.setTh l (s.loadThread c n f (g.th l))).cores := by
  obtain ⟨loc, u, hloc, hload, hu, hc⟩ := load_plain_alike tDataEcc (st.grp c i).cls (h.plainRead hr)
  refine ⟨u.modGrp c i fun g => g.setTh l (s.loadThread c n f (g.th l)), ?_, (h.trans hu).trans (readsAlike_modGrp ..), modGrp_cores_congr hc c i _⟩
  have hx : s.loadThread c n f ((u.grp c i).th l) =
      (((u.grp c i).th l).setReg f.dst.toNat ((loadValue f bs).extractLsb' 0 32)).next := by
    rw [State.grp_congr hc, State.loadThread, ← ha, hr, loadValue_low hf]
    rfl
  simp only [laneLoad, (checkAccess_cases st c addr n).2.2 loc hloc hal, hload]
  refine congrArg LaneAns.ok (modGrp_congr u c i ?_)
  rw [hx]

/-- The lanes of a group with the addresses of their accesses. -/
def Group.accesses (g : Group) (f : FormB) (lanes : List Nat) : List (Nat × Nat) :=
  lanes.map fun l => (l, addrB ((g.th l).pair f.src1.toNat) f)

theorem accesses_setTh (g : Group) (f : FormB) (lanes : List Nat) {l : Nat} (t : Thread) (h : l ∉ lanes) :
    (g.setTh l t).accesses f lanes = g.accesses f lanes :=
  List.map_congr_left fun m hm => by rw [th_setTh_ne g t (ne_of_mem_of_not_mem hm h)]

@[simp] theorem Thread.reads_pair (t : Thread) (srcs : List Nat) (n : Nat) : (t.reads srcs).pair n = t.pair n := by
  simp only [Thread.pair, Thread.reads_reg]

/-- One lane's part of an access. -/
def LaneAns.andThen (a : LaneAns) (one : State → LaneAns) : LaneAns :=
  match a with
  | .ok s => one s
  | x => x

/-- Where the read of every lane is plain, each lane takes its bytes. -/
theorem laneLoads_plain {s : State} {c i n : Nat} {f : FormB} (hf : f.func.toNat < 8) {lanes : List Nat} (hn : lanes.Nodup) {st : State}
    (h : ReadsAlike s st) (hp : ∀ x ∈ (st.grp c i).accesses f lanes, x.2 % n = 0 ∧ (s.plainRead c x.2 n true).isSome = true) :
    ∃ u, ((st.grp c i).accesses f lanes).foldl (fun (acc : LaneAns) x => acc.andThen fun st => laneLoad st c i x.1 x.2 n f) (.ok st) = .ok u ∧
      ReadsAlike s u ∧ (lanes ≠ [] → u.cores = (st.modGrp c i fun g => g.onLanes lanes fun _ t => s.loadThread c n f t).cores) := by
  induction lanes generalizing st with
  | nil =>
    exact ⟨st, rfl, h, fun h => absurd rfl h⟩
  | cons l r ih =>
    obtain ⟨hl, hr⟩ := List.nodup_cons.1 hn
    obtain ⟨hal, hsome⟩ := hp _ (List.mem_cons_self ..)
    obtain ⟨bs, hbs⟩ := Option.isSome_iff_exists.1 hsome
    obtain ⟨u, hu, hua, huc⟩ := laneLoad_plain (i := i) (l := l) hf h rfl hal hbs
    have hg : u.grp c i = (st.grp c i).setTh l (s.loadThread c n f ((st.grp c i).th l)) := by
      rw [State.grp_congr huc, grp_modGrp_same]
    have hacc : (u.grp c i).accesses f r = (st.grp c i).accesses f r := by rw [hg, accesses_setTh _ _ _ _ hl]
    obtain ⟨v, hv, hva, hvc⟩ := ih hr hua (fun x hx => hp x (List.mem_cons_of_mem _ (by rw [hacc] at hx; exact hx)))
    rw [hacc] at hv
    refine ⟨v, ?_, hva, fun _ => ?_⟩
    · show List.foldl _ (laneLoad st c i l _ n f) _ = _
      rw [hu]
      exact hv
    · cases r with
      | nil =>
        obtain rfl := LaneAns.ok.inj hv
        exact huc
      | cons l' r' =>
        rw [hvc (List.cons_ne_nil _ _), modGrp_cores_congr huc, modGrp_modGrp]
        rfl

/-- An access whose lanes all complete, after its requests are counted. -/
theorem lanesAccess_ok (s : State) (c i n : Nat) (f : FormB) (one : State → Nat → Nat → Nat → Nat → Nat → FormB → LaneAns) (lanes : List Nat) :
    ∃ m, ∀ u, ((s.grp c i).accesses f lanes).foldl (fun (acc : LaneAns) x => acc.andThen fun st => one st c i x.1 x.2 n f)
      (.ok (s.bump 0x03 c 3 m)) = .ok u → lanesAccess s c i n f one lanes = .ok u := by
  refine ⟨requests (lanes.map fun l => addrB (((s.grp c i).th l).pair f.src1.toNat) f), fun u h => ?_⟩
  have hz : lanes.zip (lanes.map fun l => addrB (((s.grp c i).th l).pair f.src1.toNat) f) = (s.grp c i).accesses f lanes :=
    List.map_prod_left_eq_zip.symm
  unfold lanesAccess
  dsimp only
  rw [hz]
  exact congrArg (fun r : LaneAns => match r with
    | .ok s1 => Except.ok s1
    | .trap cause addr status s1 => .ok (s1.trapAt c (s.grp c i).lowPc cause addr status)
    | .wait w => .error w) h

/-- Where no lane takes an instruction's effect, or each lane's access is plain, LD is its effect on the threads. -/
theorem lanesAccess_load {s s1 : State} {c i n : Nat} {f : FormB} (hf : f.func.toNat < 8) (hn : n = 2 ^ (f.func.toNat % 4))
    (hc : CoresOnly s s1) (hk : s1.cores = (s.atEffect c i f.pred f.pneg [f.src1.toNat, f.src1.toNat + 1]).cores)
    (hne : (s.grp c i).onLanesOf f.pred f.pneg ≠ [])
    (hp : ∀ l, (s.grp c i).takes f.pred f.pneg l = true → addrB (((s.grp c i).th l).pair f.src1.toNat) f % n = 0 ∧
      (s.plainRead c (addrB (((s.grp c i).th l).pair f.src1.toNat) f) n true).isSome = true) :
    ∃ u, lanesAccess s1 c i (sizeB f) f laneLoad ((s.grp c i).onLanesOf f.pred f.pneg) = .ok u ∧ ReadsAlike s u ∧
      u.cores = (s1.modGrp c i fun g => g.onLanes ((s.grp c i).onLanesOf f.pred f.pneg) fun _ t => s.loadThread c n f t).cores := by
  have hr := readsAlike_of_cores (readsAlike_atEffect s c i f.pred f.pneg [f.src1.toNat, f.src1.toNat + 1]) hk hc
  have hg : s1.grp c i = (s.grp c i).atEffect f.pred f.pneg [f.src1.toNat, f.src1.toNat + 1] :=
    (State.grp_congr hk c i).trans (atEffect_grp ..)
  have hacc : ∀ x ∈ (s1.grp c i).accesses f ((s.grp c i).onLanesOf f.pred f.pneg),
      x.2 % n = 0 ∧ (s.plainRead c x.2 n true).isSome = true := by
    intro x hx
    obtain ⟨l, hl, rfl⟩ := List.mem_map.1 hx
    have ht := mem_onLanesOf.1 hl
    rw [hg, Group.atEffect_th ht, Thread.reads_pair]
    exact hp l ht
  rw [sizeB_eq hn]
  obtain ⟨m, hm⟩ := lanesAccess_ok s1 c i n f laneLoad ((s.grp c i).onLanesOf f.pred f.pneg)
  obtain ⟨u, hu, hua, huc⟩ := laneLoads_plain hf (onLanesOf_nodup ..) (hr.trans (readsAlike_bump s1 0x03 c 3 m)) hacc
  exact ⟨u, hm u hu, hua, huc hne⟩

theorem threadLoads {s : State} {c g n : Nat} {f : FormB} (hr : ThreadReady s c g) (h1 : f.src1.toNat % 2 = 0)
    (hn : n = 2 ^ (f.func.toNat % 4)) (hn4 : n ≤ 4) (hf : f.func.toNat < 8)
    (hp : ∀ l, (s.grp c g).takes f.pred f.pneg l = true → addrB (((s.grp c g).th l).pair f.src1.toNat) f % n = 0 ∧
      (s.plainRead c (addrB (((s.grp c g).th l).pair f.src1.toNat) f) n true).isSome = true) :
    ∃ t, exec (.ld (.group c g) f) s = .next t ∧
      ThreadEffect { s with bays := t.bays } t c g f.pred f.pneg [f.src1.toNat, f.src1.toNat + 1] (s.loadThread c n f) := by
  show ∃ t, execLd (.group c g) f s = .next t ∧ _
  simp only [execLd, hr.unit, hr.slot, Bool.and_self, onUnit_true]
  refine ⟨_, rfl, ?_⟩
  have hl : memLegal (.group c g) f true = true := by simp [memLegal, regOk, evenOk, h1, hf, sizeB_eq hn, hn4]
  have key := fun s1 hc hk hne => lanesAccess_load (s := s) (s1 := s1) (c := c) (i := g) hf hn hc hk hne hp
  obtain ⟨hcores, s1, hc, hk, hs⟩ := issueGroup_outcome hr hl (pred := f.pred) (pneg := f.pneg) (srcs := [f.src1.toNat, f.src1.toNat + 1])
    (eff := fun s1 lanes => lanesAccess s1 c g (sizeB f) f laneLoad lanes) (f := s.loadThread c n f)
    fun s1 hc hk hne => (key s1 hc hk hne).imp fun u hu => ⟨hu.1, hu.2.2⟩
  have hreads : ReadsAlike s (issueGroup s c g (memLegal (.group c g) f true) f.pred f.pneg true [f.src1.toNat, f.src1.toNat + 1]
      fun s1 lanes => lanesAccess s1 c g (sizeB f) f laneLoad lanes) := by
    obtain hs | ⟨hne, hs⟩ := hs
    · rw [hs]
      exact readsAlike_of_cores (readsAlike_atEffect ..) hk hc
    · obtain ⟨u, hu, hua, -⟩ := key s1 hc hk hne
      obtain rfl := Except.ok.inj (hs.symm.trans hu)
      exact hua
  obtain ⟨k, b, m, hx⟩ := hreads.only
  rw [hx] at hcores ⊢
  exact threadEffect_of hcores rfl rfl

end Sys2Proof.Machine
end

section
namespace Sys2Proof.Machine
open Sys2Proof

/-! ### Stores of thread code into the core's own scratchpad (R81, R176, R177) -/

theorem SameView.plainWrite {s t : State} (h : SameView s t) (c addr n : Nat) (scalar : Bool) :
    t.plainWrite c addr n scalar = s.plainWrite c addr n scalar := by
  simp only [State.plainWrite, h.resolve, h.mustWait, h.epoch]

/-- Where a plain write lands. -/
theorem plainWrite_spec {s : State} {c addr n off : Nat} {scalar : Bool} (h : s.plainWrite c addr n scalar = some off) :
    s.resolve c addr n scalar = some (.spad c off) ∧ s.mustWait c (.spad c off) n true = false ∧ (s.core c).epoch = 0 := by
  unfold State.plainWrite at h
  split at h
  · next o off' he =>
    split at h
    · cases h
    · next hc =>
      obtain rfl := Option.some.inj h
      simp only [Bool.or_eq_true, not_or, Bool.not_eq_true, bne_eq_false_iff_eq] at hc
      obtain ⟨⟨rfl, hw⟩, hep⟩ := hc
      exact ⟨he, hw, hep⟩
  · cases h

/-- A write of a core without an epoch into its own scratchpad. -/
theorem writeRaw_own {s : State} {c : Nat} (h : (s.core c).epoch = 0) (off : Nat) (bs : List Byte) (cls src : Nat) :
    s.writeRaw c (.spad c off) bs cls src = .ok [] (s.modCore c fun k => k.spadStore off bs) := by
  have hfirst : s.heldFirst c c = false := by simp [State.heldFirst, h, State.epState]
  simp [State.writeRaw, hfirst, h, localWrite_spad]

/-- A plain write lands in the core's own scratchpad. -/
theorem store_plain {s : State} {c addr n off : Nat} {bs : List Byte} (hb : bs.length = n)
    (h : s.plainWrite c addr n true = some off) (cls : Nat) :
    s.resolve c addr n true = some (.spad c off) ∧
    s.store c (.spad c off) bs cls = .ok [] (s.modCore c fun k => k.spadStore off bs) := by
  obtain ⟨hl, hw, he⟩ := plainWrite_spec h
  refine ⟨hl, ?_⟩
  simp only [State.store, hb, hw, writeRaw_own he, Bool.false_eq_true, if_false]

/-- What stores of a core into its own scratchpad leave, beside its thread groups: m names the scratchpad's bytes. -/
structure SpadLaid (s t : State) (c : Nat) (m : Nat → Byte) : Prop extends SameView s t where
  coresOnly : CoresOnly s t
  others : ∀ x, x ≠ c → t.core x = s.core x
  acc : (t.core c).acc = (s.core c).acc
  bytes : ∀ a, nget 0 (t.core c).spad a = m a

theorem SpadLaid.store {s t : State} {c : Nat} {m : Nat → Byte} (h : SpadLaid s t c m) (off : Nat) (bs : List Byte) :
    SpadLaid s (t.modCore c fun k => k.spadStore off bs) c (laidOver m off bs) := by
  refine ⟨h.toSameView.trans (sameView_modCore t c rfl), coresOnly_trans h.coresOnly (coresOnly_modCore ..), fun x hx => ?_, ?_, fun a => ?_⟩
  · rw [State.core_modCore_ne _ _ hx]
    exact h.others x hx
  · rw [State.core_modCore_same]
    exact h.acc
  · rw [State.core_modCore_same, spadStore_spad, h.bytes]
    rfl

theorem SpadLaid.modGrp {s t : State} {c : Nat} {m : Nat → Byte} (h : SpadLaid s t c m) (i : Nat) (f : Group → Group) :
    SpadLaid s (t.modGrp c i f) c m := by
  refine ⟨h.toSameView.trans (sameView_modGrp ..), coresOnly_trans h.coresOnly (coresOnly_modGrp ..), fun x hx => ?_, ?_, fun a => ?_⟩
  · rw [State.modGrp, State.core_modCore_ne _ _ hx]
    exact h.others x hx
  · rw [State.modGrp, State.core_modCore_same]
    exact h.acc
  · rw [State.modGrp, State.core_modCore_same]
    exact h.bytes a

theorem SameView.regs {s t : State} (h : SameView s t) (c : Nat) :
    (t.core c).s = (s.core c).s ∧ (t.core c).p = (s.core c).p ∧ (t.core c).v = (s.core c).v := by
  rw [h.core c]
  exact ⟨rfl, rfl, rfl⟩

theorem SpadLaid.writesSpad {s t : State} {c : Nat} {m : Nat → Byte} (h : SpadLaid s t c m) : WritesSpad s t c m := by
  obtain ⟨hmem, hrest⟩ := coresOnly_rest h.coresOnly
  obtain ⟨hs, hp, hv⟩ := h.regs c
  exact ⟨h.bytes, h.others, ⟨hs, hp, hv, h.acc⟩, fun a => by rw [hmem], hrest⟩

/-- The bytes of the scratchpad after lane l of a group stored its register, where m names those before. -/
def State.laneLaid (s : State) (c n : Nat) (f : FormB) (g : Group) (m : Nat → Byte) (l : Nat) : Nat → Byte :=
  laidOver m ((s.plainWrite c (addrB ((g.th l).pair f.src1.toNat) f) n true).getD 0) (leBytes n ((g.th l).reg f.dst.toNat).toNat)

theorem laneLaid_congr (s : State) (c n : Nat) (f : FormB) {g g' : Group} {lanes : List Nat}
    (h : ∀ l ∈ lanes, (g'.th l).pair f.src1.toNat = (g.th l).pair f.src1.toNat ∧ (g'.th l).reg f.dst.toNat = (g.th l).reg f.dst.toNat)
    (m : Nat → Byte) : lanes.foldl (s.laneLaid c n f g') m = lanes.foldl (s.laneLaid c n f g) m := by
  refine List.foldl_ext _ _ _ fun m l hl => ?_
  obtain ⟨hp, hr⟩ := h l hl
  unfold State.laneLaid
  rw [hp, hr]

/-- What stores of a group's threads into the core's scratchpad leave: g is the group. -/
structure Stored (s t : State) (c i : Nat) (m : Nat → Byte) (g : Group) : Prop extends SpadLaid s t c m where
  grp : t.grp c i = g
  slots : ∀ j, j ≠ i → t.grp c j = s.grp c j

theorem laneStore_plain {s st : State} {c i l n : Nat} {f : FormB} {m : Nat → Byte} {g : Group} (h : Stored s st c i m g)
    (hal : addrB ((g.th l).pair f.src1.toNat) f % n = 0)
    (hw : (s.plainWrite c (addrB ((g.th l).pair f.src1.toNat) f) n true).isSome = true) :
    ∃ u, laneStore st c i l (addrB ((g.th l).pair f.src1.toNat) f) n f = .ok u ∧
      Stored s u c i (s.laneLaid c n f g m l) (g.setTh l (g.th l).next) := by
  obtain ⟨off, hoff⟩ := Option.isSome_iff_exists.1 hw
  obtain ⟨hloc, hst⟩ := store_plain (bs := leBytes n ((g.th l).reg f.dst.toNat).toNat) (leBytes_length ..)
    ((h.plainWrite ..).trans hoff) g.cls
  have hk : ((st.modCore c fun k => k.spadStore off (leBytes n ((g.th l).reg f.dst.toNat).toNat)).modGrp c i fun g =>
      g.setTh l (g.th l).next).core c = ((st.core c).spadStore off (leBytes n ((g.th l).reg f.dst.toNat).toNat)).setGrp i
        (g.setTh l (g.th l).next) := by
    rw [State.modGrp, State.core_modCore_same, State.core_modCore_same, ← h.grp]
    rfl
  refine ⟨(st.modCore c fun k => k.spadStore off (leBytes n ((g.th l).reg f.dst.toNat).toNat)).modGrp c i fun g =>
    g.setTh l (g.th l).next, ?_, ⟨?_, ?_, fun j hj => ?_⟩⟩
  · simp only [laneStore, (checkAccess_cases st c _ n).2.2 _ hloc hal, h.grp]
    rw [hst]
  · have := (h.toSpadLaid.store off (leBytes n ((g.th l).reg f.dst.toNat).toNat)).modGrp i fun g => g.setTh l (g.th l).next
    rw [State.laneLaid, hoff]
    exact this
  · rw [State.grp, hk, grp_setGrp_same]
  · rw [State.grp, hk, grp_setGrp_ne _ _ hj]
    exact h.slots j hj

/-- The stores of the lanes land one after the other. -/
theorem laneStores_plain {s : State} {c i n : Nat} {f : FormB} {lanes : List Nat} (hn : lanes.Nodup) {st : State} {m : Nat → Byte}
    {g : Group} (h : Stored s st c i m g)
    (hp : ∀ x ∈ g.accesses f lanes, x.2 % n = 0 ∧ (s.plainWrite c x.2 n true).isSome = true) :
    ∃ u, (g.accesses f lanes).foldl (fun (acc : LaneAns) x => acc.andThen fun st => laneStore st c i x.1 x.2 n f) (.ok st) = .ok u ∧
      Stored s u c i (lanes.foldl (s.laneLaid c n f g) m) (g.onLanes lanes fun _ t => t.next) := by
  induction lanes generalizing st m g with
  | nil => exact ⟨st, rfl, h⟩
  | cons l r ih =>
    obtain ⟨hl, hr⟩ := List.nodup_cons.1 hn
    obtain ⟨hal, hsome⟩ := hp _ (List.mem_cons_self ..)
    obtain ⟨u, hu, hus⟩ := laneStore_plain h hal hsome
    have hacc := accesses_setTh g f r (g.th l).next hl
    obtain ⟨v, hv, hvs⟩ := ih hr hus fun x hx => hp x (List.mem_cons_of_mem _ (by rw [hacc] at hx; exact hx))
    rw [hacc] at hv
    refine ⟨v, ?_, ?_⟩
    · show List.foldl _ (laneStore st c i l _ n f) _ = _
      rw [hu]
      exact hv
    · rw [laneLaid_congr s c n f (g := g) fun x hx => by
        rw [th_setTh_ne g _ (ne_of_mem_of_not_mem hx hl)]
        exact ⟨rfl, rfl⟩] at hvs
      exact hvs

theorem Thread.reads_next (t : Thread) (srcs : List Nat) : (t.reads srcs).next = { t.reads srcs with pc := t.pc + 8 } := by
  obtain ⟨m, hm⟩ := t.reads_eq srcs
  rw [hm]
  rfl

theorem threadStores {s : State} {c g n : Nat} {f : FormB} (hr : ThreadReady s c g) (h1 : f.src1.toNat % 2 = 0)
    (hn : n = 2 ^ (f.func.toNat % 4)) (hn4 : n ≤ 4) (hf : f.func.toNat < 4)
    (hp : ∀ l, (s.grp c g).takes f.pred f.pneg l = true → addrB (((s.grp c g).th l).pair f.src1.toNat) f % n = 0 ∧
      (s.plainWrite c (addrB (((s.grp c g).th l).pair f.src1.toNat) f) n true).isSome = true) :
    ∃ t, exec (.st (.group c g) f) s = .next t ∧
      Stored s t c g (((s.grp c g).onLanesOf f.pred f.pneg).foldl (s.laneLaid c n f (s.grp c g)) (nget 0 (s.core c).spad))
        ((s.grp c g).after f.pred f.pneg [f.dst.toNat, f.src1.toNat, f.src1.toNat + 1] Thread.next) := by
  show ∃ t, execSt (.group c g) f s = .next t ∧ _
  simp only [execSt, hr.unit, hr.slot, Bool.and_self, onUnit_true]
  refine ⟨_, rfl, ?_⟩
  have hl : memLegal (.group c g) f false = true := by simp [memLegal, regOk, evenOk, h1, hf, sizeB_eq hn, hn4]
  obtain ⟨s1, hc, hk, hi⟩ := issueGroup_atEffect hr f.pred f.pneg [f.dst.toNat, f.src1.toNat, f.src1.toNat + 1] hl
    fun s1 lanes => lanesAccess s1 c g (sizeB f) f laneStore lanes
  rw [hi, Group.after_atEffect]
  have hre := readsAlike_of_cores (readsAlike_atEffect s c g f.pred f.pneg [f.dst.toNat, f.src1.toNat, f.src1.toNat + 1]) hk hc
  have hg : s1.grp c g = (s.grp c g).atEffect f.pred f.pneg [f.dst.toNat, f.src1.toNat, f.src1.toNat + 1] :=
    (State.grp_congr hk c g).trans (atEffect_grp ..)
  have hs : Stored s s1 c g (nget 0 (s.core c).spad)
      ((s.grp c g).atEffect f.pred f.pneg [f.dst.toNat, f.src1.toNat, f.src1.toNat + 1]) := by
    refine ⟨⟨hre.toSameView, hc, fun x hx => ?_, ?_, fun a => by rw [(hre.spads c).1]⟩, hg, fun j hj => ?_⟩
    · rw [State.core_congr hk, State.atEffect, State.modGrp, State.core_modCore_ne _ _ hx, State.core_modCore_ne _ _ hx]
    · rw [State.core_congr hk, State.atEffect, State.modGrp, State.core_modCore_same, State.core_modCore_same]
      rfl
    · rw [State.grp_congr hk, State.atEffect, grp_modGrp_ne _ _ _ hj, State.grp, State.core_modCore_same]
      rfl
  split
  · next hon => rwa [List.isEmpty_iff.1 hon]
  · obtain ⟨m, hm⟩ := lanesAccess_ok s1 c g n f laneStore ((s.grp c g).onLanesOf f.pred f.pneg)
    have hth : ∀ l ∈ (s.grp c g).onLanesOf f.pred f.pneg, ((s.grp c g).atEffect f.pred f.pneg
        [f.dst.toNat, f.src1.toNat, f.src1.toNat + 1]).th l = ((s.grp c g).th l).reads [f.dst.toNat, f.src1.toNat, f.src1.toNat + 1] :=
      fun l hl => Group.atEffect_th (mem_onLanesOf.1 hl) _
    have hb : Stored s (s1.bump 0x03 c 3 m) c g (nget 0 (s.core c).spad)
        ((s.grp c g).atEffect f.pred f.pneg [f.dst.toNat, f.src1.toNat, f.src1.toNat + 1]) :=
      ⟨⟨hs.toSameView.trans (readsAlike_bump ..).toSameView, coresOnly_trans hs.coresOnly (coresOnly_ctr ..), hs.others, hs.acc, hs.bytes⟩,
        hs.grp, hs.slots⟩
    obtain ⟨u, hu, hus⟩ := laneStores_plain (f := f) (n := n) (onLanesOf_nodup (s.grp c g) f.pred f.pneg) hb fun x hx => by
      obtain ⟨l, hl, rfl⟩ := List.mem_map.1 hx
      rw [hth l hl, Thread.reads_pair]
      exact hp l (mem_onLanesOf.1 hl)
    rw [← hg] at hu
    rw [sizeB_eq hn, hm u hu]
    rw [laneLaid_congr s c n f (g := s.grp c g) fun l hl => by
      rw [hth l hl, Thread.reads_pair, Thread.reads_reg]
      exact ⟨rfl, rfl⟩] at hus
    exact hus

theorem onLanesOf_eq_takes (g : Group) (pred : BitVec 3) (pneg : Bool) : g.active.filter (g.takes pred pneg) = g.onLanesOf pred pneg :=
  List.filter_congr fun l hl => by simp [Group.takes, hl]

theorem threadLoadsAndStores_claim : Claim.ThreadLoadsAndStores := by
  intro s c g f n addr hr h1 hn hn4 ha
  obtain rfl : addr = fun x => addrB (x.pair f.src1.toNat) f := funext ha
  refine ⟨fun hf hp => threadLoads hr h1 hn hn4 hf hp, fun hf hp => ?_⟩
  obtain ⟨t, he, ht⟩ := threadStores hr h1 hn hn4 hf hp
  rw [onLanesOf_eq_takes]
  refine ⟨t, he, ht.writesSpad, fun l => ?_, ht.slots⟩
  rw [ht.grp, Group.after_th, Thread.reads_next]
  rfl

/-- Settles O7: an access of thread code is one access after the other, lane by lane, none of which changes what the next one meets. -/
theorem threadMemory : Obligations.ThreadMemory := ⟨threadReadsAndFences_claim, threadLoadsAndStores_claim⟩

end Sys2Proof.Machine
end

section
namespace Sys2Proof.Machine
open Sys2Proof

/-! ### Packed elements (R101) -/

theorem packBits_lt {w : Nat} {xs : List Nat} (h : ∀ x ∈ xs, x < 2 ^ w) : packBits w xs < 2 ^ (w * xs.length) := by
  induction xs with
  | nil => simp [packBits]
  | cons x r ih =>
    have hx := h x (List.mem_cons_self ..)
    have hr := ih fun y hy => h y (List.mem_cons_of_mem _ hy)
    rw [packBits, List.length_cons, Nat.mul_succ, Nat.add_comm (w * r.length), Nat.pow_add]
    calc x + 2 ^ w * packBits w r < 2 ^ w + 2 ^ w * packBits w r := Nat.add_lt_add_right hx _
      _ = 2 ^ w * (packBits w r + 1) := by ring
      _ ≤ 2 ^ w * 2 ^ (w * r.length) := Nat.mul_le_mul_left _ hr

/-- Element j of a packed list is the list's. -/
theorem packBits_elem {w : Nat} {xs : List Nat} (h : ∀ x ∈ xs, x < 2 ^ w) (j : Nat) : bitsN (packBits w xs) (w * j) w = xs.getD j 0 := by
  unfold bitsN
  induction xs generalizing j with
  | nil => simp [packBits]
  | cons x r ih =>
    have hx := h x (List.mem_cons_self ..)
    have hr := fun y hy => h y (List.mem_cons_of_mem _ hy)
    have hp : 0 < 2 ^ w := Nat.two_pow_pos w
    cases j with
    | zero => rw [packBits, Nat.mul_zero, Nat.pow_zero, Nat.div_one, Nat.add_mul_mod_self_left, Nat.mod_eq_of_lt hx]; rfl
    | succ j =>
      rw [packBits, Nat.mul_succ, Nat.add_comm (w * j), Nat.pow_add, ← Nat.div_div_eq_div_mul, Nat.add_mul_div_left _ _ hp,
        Nat.div_eq_of_lt hx, Nat.zero_add, ih hr]
      rfl

/-- The lanes of a register of 64 lanes. -/
theorem vlane_ofLanes (g : Nat → W32) {l : Nat} (h : l < 64) : vlane (ofLanes g) l = g l := by
  have hx : ∀ x ∈ (List.range 64).map fun l => (g l).toNat, x < 2 ^ 32 := fun x hx => by
    obtain ⟨i, -, rfl⟩ := List.mem_map.1 hx
    exact (g i).isLt
  have hp : packBits 32 ((List.range 64).map fun l => (g l).toNat) < 2 ^ 2048 := by simpa using packBits_lt hx
  have he := packBits_elem hx l
  apply BitVec.eq_of_toNat_eq
  rw [vlane, ofLanes, BitVec.extractLsb'_toNat, BitVec.toNat_ofNat, Nat.mod_eq_of_lt hp, Nat.shiftRight_eq_div_pow]
  refine he.trans ?_
  simp [List.getD, h]

/-- The number in the bytes of a number. -/
theorem leNat_leBytes (n v : Nat) (h : v < 2 ^ (8 * n)) : leNat (leBytes n v) = v := by
  induction n generalizing v with
  | zero =>
    have : v = 0 := by simpa using h
    rw [this]
    rfl
  | succ n ih =>
    have hv : v / 256 < 2 ^ (8 * n) := by
      rw [Nat.div_lt_iff_lt_mul (by decide)]
      calc v < 2 ^ (8 * (n + 1)) := h
        _ = 2 ^ (8 * n) * 256 := by rw [Nat.mul_succ, Nat.pow_add]
    rw [leBytes, leNat, ih _ hv, BitVec.toNat_ofNat]
    omega

/-! ### The codes of a conversion fit their format (R103, R105, R114) -/

/-- A float layout whose codes for NaN and infinity fit it. -/
structure Flt.Fits (f : Flt) : Prop where
  nan : f.nanCode < 2 * 2 ^ (f.eb + f.mb)
  max : f.maxCode < 2 ^ (f.eb + f.mb)
  inf : f.style = 0 → f.maxCode + 1 < 2 ^ (f.eb + f.mb)

theorem Flt.enc_lt {f : Flt} (h : f.Fits) (sat : Bool) (u : Option Nat) (x : Num) : f.enc sat u x < 2 * 2 ^ (f.eb + f.mb) := by
  obtain ⟨hnan, hmax, hinf⟩ := h
  have sign : ∀ neg : Bool, ∀ m, m < 2 ^ (f.eb + f.mb) → (if neg = true then 2 ^ (f.eb + f.mb) else 0) + m < 2 * 2 ^ (f.eb + f.mb) := by
    intro neg m hm
    split <;> omega
  unfold Flt.enc
  cases x with
  | nan => exact hnan
  | inf neg =>
    dsimp only
    split
    · next h0 => exact sign _ _ (hinf h0)
    · exact hnan
  | fin neg m e =>
    dsimp only
    split
    · next hc => exact sign _ _ (Nat.lt_of_le_of_lt hc hmax)
    · split
      · exact sign _ _ hmax
      · split
        · next h0 => exact sign _ _ (hinf h0)
        · exact hnan

theorem encInt_lt {w : Nat} (hw : 0 < w) (u : Option Nat) (x : Num) : encInt w u x < 2 ^ w := by
  have hp : 0 < 2 ^ w := Nat.two_pow_pos w
  have hhalf : 2 ^ (w - 1) < 2 ^ w := Nat.pow_lt_pow_right (by decide) (by omega)
  unfold encInt
  cases x with
  | nan => exact hp
  | inf neg =>
    dsimp only
    split <;> omega
  | fin neg m e =>
    dsimp only
    split
    · split
      · exact hhalf
      · exact Nat.mod_lt _ hp
    · omega

theorem encElem_lt {code : Nat} (h : fmtWidth code ≠ 0) (sat : Bool) (u : Option Nat) (x : Num) :
    encElem code sat u x < 2 ^ fmtWidth code := by
  unfold fmtWidth at h ⊢
  split at h
  · exact Flt.enc_lt (f := fp32) ⟨by decide, by decide, by decide⟩ ..
  · exact Flt.enc_lt (f := fp16) ⟨by decide, by decide, by decide⟩ ..
  · exact Flt.enc_lt (f := bf16) ⟨by decide, by decide, by decide⟩ ..
  · exact Flt.enc_lt (f := e4m3) ⟨by decide, by decide, by decide⟩ ..
  · exact Flt.enc_lt (f := e5m2) ⟨by decide, by decide, by decide⟩ ..
  · exact encInt_lt (by decide) ..
  · exact encInt_lt (by decide) ..
  · exact encInt_lt (by decide) ..
  · exact encInt_lt (by decide) ..
  · exact absurd rfl h

/-- A format with an element width has no blocks. -/
theorem rowBytes_elem {code : Nat} (h : fmtWidth code ≠ 0) (n : Nat) : rowBytes code n = (n * fmtWidth code + 7) / 8 := by
  have hb : blockElems code = 0 := by
    unfold fmtWidth at h
    split at h
    case h_10 => exact absurd rfl h
    all_goals decide
  simp [rowBytes, hb]

/-! ### Rows of an accumulator move (R142, R143) -/

/-- Element j of row r as ACC.ST stores it. -/
def accStElem (k : Core) (rng : W64) (f : FormA) (r j : Nat) : Nat :=
  if accCopy f then (k.accWord f.dst.toNat (32 * r + j)).toNat
  else encElem f.type.toNat (accSat f) (accU rng f (r * matN f + j))
    (if accInt f then decInt 32 (k.accWord f.dst.toNat (32 * r + j)).toNat else f32 (k.accWord f.dst.toNat (32 * r + j)))

theorem accStElem_lt (k : Core) (rng : W64) {f : FormA} (hw : fmtWidth f.type.toNat ≠ 0) (r j : Nat) :
    accStElem k rng f r j < 2 ^ fmtWidth f.type.toNat := by
  unfold accStElem
  split
  · next hc =>
    have h32 : fmtWidth f.type.toNat = 32 := by
      simp only [accCopy, Bool.or_eq_true, Bool.and_eq_true, beq_iff_eq] at hc
      obtain ⟨h, -⟩ | ⟨h, -⟩ := hc
      · rw [h]; rfl
      · rw [h]; rfl
    rw [h32]
    exact BitVec.isLt _
  · exact encElem_lt hw ..

theorem accStRow_eq (k : Core) (rng : W64) (f : FormA) (r : Nat) : accStRow k rng f r = leBytes (rowBytes f.type.toNat (matN f))
    (packBits (fmtWidth f.type.toNat) ((List.range (matN f)).map (accStElem k rng f r))) := rfl

theorem accStRow_length (k : Core) (rng : W64) (f : FormA) (r : Nat) :
    (accStRow k rng f r).length = rowBytes f.type.toNat (matN f) := leBytes_length ..

/-- A stored row holds its elements. -/
theorem accStRow_elem (k : Core) (rng : W64) {f : FormA} (hw : fmtWidth f.type.toNat ≠ 0) (r : Nat) {j : Nat} (hj : j < matN f) :
    bitsN (leNat (accStRow k rng f r)) (fmtWidth f.type.toNat * j) (fmtWidth f.type.toNat) = accStElem k rng f r j := by
  have hx : ∀ x ∈ (List.range (matN f)).map (accStElem k rng f r), x < 2 ^ fmtWidth f.type.toNat := fun x hx => by
    obtain ⟨i, -, rfl⟩ := List.mem_map.1 hx
    exact accStElem_lt k rng hw r i
  have hl : packBits (fmtWidth f.type.toNat) ((List.range (matN f)).map (accStElem k rng f r)) <
      2 ^ (8 * rowBytes f.type.toNat (matN f)) := by
    refine Nat.lt_of_lt_of_le (packBits_lt hx) (Nat.pow_le_pow_right (by decide) ?_)
    rw [List.length_map, List.length_range, rowBytes_elem hw, Nat.mul_comm]
    omega
  rw [accStRow_eq, leNat_leBytes _ _ hl, packBits_elem hx]
  simp [List.getD, hj]

theorem accumulatorElements_claim : Claim.AccumulatorElements := by
  intro k f rng r j n w bs hround hn hj hw h0 _ _
  subst hn hw
  have hu : ∀ i, accU rng f i = none := fun i => by simp [accU, hround]
  refine ⟨?_, ?_, ?_⟩
  · rw [accStRow_length, rowBytes_elem h0]
  · rw [accStRow_elem k rng h0 r hj, accStElem, hu]
  · rw [accLdWord, hu]

end Sys2Proof.Machine
end

section
namespace Sys2Proof.Machine
open Sys2Proof

/-! ### Accumulator moves at issue (R73, R141, R144) -/

/-- The accumulator move that a core issues, with what it reads from registers. -/
def Core.accMove (k : Core) (f : FormA) (kind : Nat) : AccMove :=
  { kind := kind, f := f, base := k.sreg f.src1.toNat, stride := k.sreg f.src2.toNat, v := k.vreg f.src1.toNat,
    rng := k.csrReg 0x019, cls := if kind = 1 then k.loadClass else k.storeClass }

/-- The same as an entry of the matrix queue. -/
def Core.accOp (k : Core) (f : FormA) (kind : Nat) : MmaOp :=
  { acc := 0, aAddr := 0, stride := 0, k := 1, k0 := 0, port := 0, overwrite := false, double := false, bFmt := 0, aFmt := 0, n := 0,
    m := 0, epoch := k.epoch, pc := k.pc, seq := k.seq, move := some (k.accMove f kind) }

/-- The state in which an accumulator move waits in the matrix queue. -/
def State.accQueued (s : State) (c : Nat) (f : FormA) (kind rngN : Nat) : State :=
  (s.modCore c fun x => { x with mq := x.mq ++ [(s.core c).accOp f kind], seq := x.seq + 1 }).retireWith c fun x =>
    x.rngAfter (accRound f == 1) rngN

theorem accIssue_ready {s : State} {c : Nat} {f : FormA} {legal : Bool} (hr : ScalarReady s c f.pred f.pneg) (hl : legal = true)
    {reads : List Nat} (hv : ∀ v ∈ reads, v ∉ (s.core c).vPending) (kind rngN : Nat) :
    accIssue (.core c) legal f kind reads rngN s = .next (
      if (s.core c).mq.isEmpty then
        match ((s.core c).accMove f kind).run s c (s.core c).seq with
        | .wait _ => s.accQueued c f kind rngN
        | .trap cause addr status s2 => s2.trapAs c cause addr status
        | .ok s2 => s2.retireWith c fun x => x.rngAfter (accRound f == 1) rngN
      else if 8 ≤ (s.core c).mq.length then s.stallAt c 7
      else s.accQueued c f kind rngN) := by
  unfold accIssue
  rw [issueScalar_core hr hl, whenFree_free (by simp) hv]
  rfl

/-- The generator's state after a move changes its register alone. -/
theorem rngAfter_eq (k : Core) (b : Bool) (n : Nat) : ∃ m, k.rngAfter b n = { k with csr := m } := by
  unfold Core.rngAfter
  split
  · exact ⟨_, rfl⟩
  · exact ⟨k.csr, rfl⟩

theorem rngAfter_csrReg (k : Core) (b : Bool) (n : Nat) : (k.rngAfter b n).csrReg 0x019 =
    if b = true then rngAdvance (cdiv n 4) (k.csrReg 0x019) else k.csrReg 0x019 := by
  unfold Core.rngAfter
  split
  · rw [Core.csrReg_setCsr, if_pos rfl]
  · rfl

theorem accumulatorQueue_claim : Claim.AccumulatorQueue := by
  intro s c f i kind hr hq hi
  have hne : (s.core c).mq.isEmpty = false := by simpa using hq
  have key : ∃ rngN, exec i s = .next (if 8 ≤ (s.core c).mq.length then s.stallAt c 7 else s.accQueued c f kind rngN) := by
    obtain ⟨rfl, rfl, hl⟩ | ⟨rfl, rfl, hl⟩ | ⟨rfl, rfl, hl, hv⟩ | ⟨rfl, rfl, hl, hv⟩ := hi
    · have h := accIssue_ready hr hl (reads := []) (by simp) 0 (matM f * matN f)
      rw [hne] at h
      exact ⟨_, h⟩
    · have h := accIssue_ready hr hl (reads := []) (by simp) 1 (matM f * matN f)
      rw [hne] at h
      exact ⟨_, h⟩
    · have h := accIssue_ready hr hl (reads := [f.dst.toNat]) (by simpa using hv) 2 0
      rw [hne] at h
      exact ⟨_, h⟩
    · have h := accIssue_ready hr hl (reads := [f.src1.toNat]) (by simpa using hv) 3 0
      rw [hne] at h
      exact ⟨_, h⟩
  obtain ⟨rngN, he⟩ := key
  refine ⟨fun hroom => ?_, fun hfull => ?_⟩
  · rw [if_neg (by omega)] at he
    refine ⟨_, (s.core c).accOp f kind, (s.core c).accMove f kind, he, ?_, ?_, ?_, rfl, rfl, rfl, rfl, rfl, rfl, rfl, ?_⟩
    · rw [State.accQueued, State.retireWith, modCore_modCore]
      exact onlyCore_modCore ..
    all_goals
      obtain ⟨m, hm⟩ := rngAfter_eq { s.core c with mq := (s.core c).mq ++ [(s.core c).accOp f kind], seq := (s.core c).seq + 1 }
        (accRound f == 1) rngN
      have hk : (s.accQueued c f kind rngN).core c = Core.retire { s.core c with
          mq := (s.core c).mq ++ [(s.core c).accOp f kind], seq := (s.core c).seq + 1, csr := m } := by
        rw [State.accQueued, State.retireWith, State.core_modCore_same, State.core_modCore_same, hm]
      rw [hk]
    · exact Core.retire_pc _
    · exact Core.retire_mq _
    · exact ⟨Core.retire_acc _, Core.retire_v _, Core.retire_spad _⟩
  · rw [if_pos hfull] at he
    refine ⟨_, he, onlyCore_modCore .., ?_⟩
    rw [State.stallAt, State.core_modCore_same]

end Sys2Proof.Machine
end

section
namespace Sys2Proof.Machine
open Sys2Proof

/-! ### Moves between accumulators and vector registers (R144) -/

/-- A core that wrote n words of accumulator a from word base on. -/
def Core.setAccs (k : Core) (a base n : Nat) (v : Nat → W32) : Core :=
  (List.range n).foldl (fun x i => x.setAcc a (base + i) (v i)) k

theorem setAccs_succ (k : Core) (a base n : Nat) (v : Nat → W32) :
    k.setAccs a base (n + 1) v = (k.setAccs a base n v).setAcc a (base + n) (v n) := by
  simp [Core.setAccs, List.range_succ]

/-- Only accumulators change. -/
theorem setAccs_eq (k : Core) (a base n : Nat) (v : Nat → W32) : k.setAccs a base n v = { k with acc := (k.setAccs a base n v).acc } := by
  induction n with
  | zero => rfl
  | succ n ih =>
    rw [setAccs_succ, ih]
    rfl

theorem setAccs_get (k : Core) (a base n : Nat) (v : Nat → W32) (x : Nat) : nget 0 (k.setAccs a base n v).acc x =
    if a * 512 + base ≤ x ∧ x < a * 512 + base + n then v (x - (a * 512 + base)) else nget 0 k.acc x := by
  induction n with
  | zero => simp [Core.setAccs]
  | succ n ih =>
    rw [setAccs_succ]
    show nget 0 (nset 0 _ (a * 512 + (base + n)) (v n)) x = _
    rw [nget_nset, ih]
    by_cases hx : x = a * 512 + (base + n)
    · rw [if_pos hx, if_pos (by omega), hx]
      congr 1
      omega
    · rw [if_neg hx]
      by_cases hin : a * 512 + base ≤ x ∧ x < a * 512 + base + n
      · rw [if_pos hin, if_pos (by omega)]
      · rw [if_neg hin, if_neg (by omega)]

theorem setAccs_accWord (k : Core) {a base n : Nat} (v : Nat → W32) {b w : Nat} (hw : w < 512) (hb : base + n ≤ 512) :
    (k.setAccs a base n v).accWord b w = if b = a ∧ base ≤ w ∧ w < base + n then v (w - base) else k.accWord b w := by
  rw [Core.accWord, setAccs_get]
  by_cases h : b = a ∧ base ≤ w ∧ w < base + n
  · obtain ⟨rfl, h1, h2⟩ := h
    rw [if_pos (by omega), if_pos ⟨rfl, h1, h2⟩]
    congr 1
    omega
  · rw [if_neg (by omega), if_neg h, Core.accWord]

/-- A move whose MOD names a part of an accumulator leaves the generator alone. -/
theorem accRound_small {f : FormA} (h : f.mod.toNat < 8) : (accRound f == 1) = false := by
  simp [accRound, bitsN]
  omega

theorem usesA_accRv {f : FormA} (h : usesA f true true false false false false true = true) :
    f.src2 = 0 ∧ f.src3 = 0 ∧ f.func = 0 ∧ f.type = 0 := by
  simpa [usesA, and_assoc] using h

theorem vPending_empty {k : Core} (h : k.mq = []) (n : Nat) : n ∉ k.vPending := by simp [Core.vPending, h]

theorem execAccRv_scalar {s : State} {c : Nat} {f : FormA} (hr : ScalarReady s c f.pred f.pneg) (hq : (s.core c).mq = [])
    (hd : f.dst.toNat < 32) (h1 : f.src1.toNat < 2) (hu : usesA f true true false false false false true = true) (hm : f.mod.toNat < 8) :
    exec (.accRv (.core c) f) s = .next (s.retireWith c fun k =>
      k.setV f.dst.toNat (ofLanes fun l => k.accWord f.src1.toNat (64 * f.mod.toNat + l))) := by
  obtain ⟨h2, h3, hf, ht⟩ := usesA_accRv hu
  show execAccRv (.core c) f s = _
  unfold execAccRv
  rw [accIssue_ready hr (by simp [accRvLegal, regOk, hd, h1, h2, h3, hf, ht, hm]) fun v _ => vPending_empty hq v]
  simp only [hq, List.isEmpty_nil, if_true, Core.accMove, AccMove.run, State.retireWith, accRound_small hm, Core.rngAfter,
    Bool.false_eq_true, if_false, modCore_modCore]

theorem execAccWv_scalar {s : State} {c : Nat} {f : FormA} (hr : ScalarReady s c f.pred f.pneg) (hq : (s.core c).mq = [])
    (hd : f.dst.toNat < 2) (h1 : f.src1.toNat < 32) (hu : usesA f true true false false false false true = true) (hm : f.mod.toNat < 8) :
    exec (.accWv (.core c) f) s = .next (s.retireWith c fun k =>
      k.setAccs f.dst.toNat (64 * f.mod.toNat) 64 fun l => vlane ((s.core c).vreg f.src1.toNat) l) := by
  obtain ⟨h2, h3, hf, ht⟩ := usesA_accRv hu
  show execAccWv (.core c) f s = _
  unfold execAccWv
  rw [accIssue_ready hr (by simp [accRvLegal, regOk, hd, h1, h2, h3, hf, ht, hm]) fun v _ => vPending_empty hq v]
  simp only [hq, List.isEmpty_nil, if_true, Core.accMove, AccMove.run, State.retireWith, accRound_small hm, Core.rngAfter,
    Bool.false_eq_true, if_false, modCore_modCore]
  rfl

theorem setV_vreg (k : Core) (d : Nat) (v : BitVec 2048) (n : Nat) : (k.setV d v).vreg n = if n = d then v else k.vreg n := by
  simp only [Core.vreg, Core.setV, nget_nset]

theorem retire_vreg (k : Core) (n : Nat) : k.retire.vreg n = k.vreg n := by simp [Core.vreg]

theorem setV_rest (k : Core) (d : Nat) (v : BitVec 2048) :
    { (k.setV d v).retire with v := k.v, pc := k.pc, csr := k.csr, stall := k.stall, icache := k.icache } = k := by cases k; rfl

theorem setV_retires (k : Core) (d : Nat) (v : BitVec 2048) : Retires k (k.setV d v).retire (k.pc + 8) :=
  retires_retire (x := k.setV d v) rfl rfl rfl

/-- What an instruction of scalar code leaves that writes vector register d and retires. -/
theorem writesV_setV (s : State) (c d : Nat) (g : Core → Nat → W32) :
    WritesV s (s.retireWith c fun k => k.setV d (ofLanes (g k))) c d (g (s.core c)) := by
  obtain ⟨hothers, hmem, hrest⟩ := onlyCore_modCore s c fun k => (k.setV d (ofLanes (g k))).retire
  have hk : (s.retireWith c fun k => k.setV d (ofLanes (g k))).core c = ((s.core c).setV d (ofLanes (g (s.core c)))).retire :=
    State.core_modCore_same ..
  refine ⟨fun l hl => ?_, fun n hn => ?_, ?_, ?_, hothers, hmem, ?_⟩
  · rw [hk, retire_vreg, setV_vreg, if_pos rfl, vlane_ofLanes _ hl]
  · rw [hk, retire_vreg, setV_vreg, if_neg hn]
  · rw [hk]
    exact setV_retires ..
  · rw [hk]
    exact setV_rest ..
  · rfl

/-- A core of which accumulators changed, and that retired. -/
theorem retire_acc_rest {k x : Core} (h : x = { k with acc := x.acc }) : Retires k x.retire (k.pc + 8) ∧
    { x.retire with acc := k.acc, pc := k.pc, csr := k.csr, stall := k.stall, icache := k.icache } = k := by
  rw [h]
  refine ⟨retires_retire (x := { k with acc := x.acc }) rfl rfl rfl, ?_⟩
  cases k
  rfl

theorem accWv_effect (s : State) (c a part : Nat) (v : Nat → W32) (hp : part < 8) :
    let t := s.retireWith c fun k => k.setAccs a (64 * part) 64 v
    OnlyCore s t c ∧ Retires (s.core c) (t.core c) ((s.core c).pc + 8) ∧
    (∀ b w, w < 512 → (t.core c).accWord b w = if b = a ∧ w / 64 = part then v (w % 64) else (s.core c).accWord b w) ∧
    { t.core c with acc := (s.core c).acc, pc := (s.core c).pc, csr := (s.core c).csr, stall := (s.core c).stall, icache := (s.core c).icache } =
      s.core c := by
  intro t
  have hk : t.core c = ((s.core c).setAccs a (64 * part) 64 v).retire := State.core_modCore_same ..
  obtain ⟨hret, hrest⟩ := retire_acc_rest (setAccs_eq (s.core c) a (64 * part) 64 v)
  rw [hk]
  refine ⟨onlyCore_modCore .., hret, fun b w hw => ?_, hrest⟩
  · have hx : ((s.core c).setAccs a (64 * part) 64 v).retire.accWord b w = ((s.core c).setAccs a (64 * part) 64 v).accWord b w := by
      simp only [Core.accWord, Core.retire_acc]
    rw [hx, setAccs_accWord _ _ hw (by omega)]
    by_cases h : b = a ∧ w / 64 = part
    · rw [if_pos h, if_pos (by omega)]
      congr 1
      omega
    · rw [if_neg h, if_neg (by omega)]

end Sys2Proof.Machine
end

section
namespace Sys2Proof.Machine
open Sys2Proof

/-! ### Rows of accumulator moves in the core's scratchpad (R74, R141 to R143, R147) -/

/-- An address of space 0x1 resolves in the core's own scratchpad only. -/
theorem resolve_space1 {s : State} {c addr n : Nat} {scalar : Bool} {l : Loc} (ha : addr / 2 ^ 60 = 1)
    (h : s.resolve c addr n scalar = some l) : l = .spad c (addr % 2 ^ 32) := by
  unfold State.resolve at h
  simp only [ha] at h
  split at h
  · exact (Option.some.inj h).symm
  · cases h

/-- Fewer starts make no conflict. -/
theorem startConflict_filter {s : State} {l : List Start} {space : Nat} {a : Int} {n : Nat} {write : Bool}
    (h : s.startConflict l space a n write = false) (p : Start → Bool) : s.startConflict (l.filter p) space a n write = false := by
  unfold State.startConflict at h ⊢
  rw [List.any_eq_false] at h ⊢
  exact fun x hx => h x (List.mem_of_mem_filter hx)

theorem startConflict_of_mustWait {s : State} {c off n : Nat} {write : Bool} (h : s.mustWait c (.spad c off) n write = false) :
    s.startConflict (s.core c).starts 1 off n write = false := by
  simp only [State.mustWait, beq_self_eq_true, Bool.true_and, Bool.or_eq_false_iff] at h
  exact h.1

/-- What lets a row at an address of the scratchpad be read or written at once. -/
structure RowFree (s : State) (c addr n : Nat) (write : Bool) : Prop where
  resolves : s.resolve c addr n false = some (.spad c (addr % 2 ^ 32))
  waits : s.mustWait c (.spad c (addr % 2 ^ 32)) n write = false

theorem rowFree_of_plainWrite {s : State} {c addr n : Nat} (ha : addr / 2 ^ 60 = 1) (h : (s.plainWrite c addr n false).isSome = true) :
    RowFree s c addr n true ∧ (s.core c).epoch = 0 ∧ s.plainWrite c addr n false = some (addr % 2 ^ 32) := by
  obtain ⟨off, hoff⟩ := Option.isSome_iff_exists.1 h
  obtain ⟨hr, hw, he⟩ := plainWrite_spec hoff
  obtain ⟨-, rfl⟩ := Loc.spad.inj (resolve_space1 ha hr)
  exact ⟨⟨hr, hw⟩, he, hoff⟩

/-- A plain read of the own scratchpad changes nothing. -/
theorem plainRead_space1 {s : State} {c addr n : Nat} {bs : List Byte} (ha : addr / 2 ^ 60 = 1) (h : s.plainRead c addr n false = some bs) :
    RowFree s c addr n false ∧ ∀ ecc cls, s.loadNow c addr n (.spad c (addr % 2 ^ 32)) ecc cls = .ok bs s := by
  unfold State.plainRead at h
  split at h
  · next o off he =>
    obtain ⟨rfl, rfl⟩ := Loc.spad.inj (resolve_space1 ha he)
    split at h
    · cases h
    · next hc =>
      obtain rfl := Option.some.inj h
      simp only [Bool.or_eq_true, not_or, Bool.not_eq_true] at hc
      obtain ⟨hw, hb⟩ := hc
      exact ⟨⟨he, hw⟩, fun ecc cls => by
        simp [State.loadNow, State.l1Holds, State.readRaw, hb, State.throughL1, -Nat.reducePow]⟩
  · next he => cases resolve_space1 ha he
  · next he => cases resolve_space1 ha he
  · cases h

theorem unitLoc_space1 {s : State} {c addr n : Nat} (ha : addr / 2 ^ 60 = 1) : s.unitLoc c addr n = s.resolve c addr n false := by
  rw [State.unitLoc, localSpace, ha]
  rfl

/-- The rows of a move that meets no fault and no start, one after the other. -/
theorem accMove_run {s : State} {c : Nat} {m : AccMove} (hk : m.kind < 2) (hb : m.base.toNat % fmtAlign m.f.type.toNat = 0)
    (hs : m.stride.toNat % fmtAlign m.f.type.toNat = 0)
    (hrow : ∀ a ∈ m.rows, a / 2 ^ 60 = 1 ∧ RowFree s c a m.rowLen (m.kind == 0)) (seq : Nat) :
    m.run s c seq = laneFold s ((List.range (matM m.f)).zip m.rows) (if m.kind = 0 then m.storeRow c else m.loadRow c) := by
  have hfault : m.fault s c = none := by
    unfold AccMove.fault
    rw [if_neg (by simp [hb, hs])]
    rw [List.find?_eq_none]
    intro a ha
    obtain ⟨h1, h2⟩ := hrow a ha
    rw [unitLoc_space1 h1, h2.resolves]
    simp
  have hwait : m.waits s c seq = false := by
    unfold AccMove.waits
    rw [List.any_eq_false]
    intro a ha
    obtain ⟨h1, h2⟩ := hrow a ha
    rw [h1, startConflict_filter (startConflict_of_mustWait h2.waits)]
    simp
  unfold AccMove.run
  split
  · next h => omega
  · next h => omega
  · rw [hfault, hwait]
    rfl

theorem accRows_zip (m : AccMove) : (List.range (matM m.f)).zip m.rows =
    (List.range (matM m.f)).map fun r => (r, (m.base.toNat + r * m.stride.toNat) % 2 ^ 64) := List.map_prod_left_eq_zip.symm

/-- One row after the other. -/
theorem laneFold_cons {s s1 : State} {x : Nat × Nat} {xs : List (Nat × Nat)} {one : State → Nat → Nat → MemAns} {bs : List Byte}
    (h : one s x.1 x.2 = .ok bs s1) : laneFold s (x :: xs) one = laneFold s1 xs one := by
  unfold laneFold
  rw [List.foldl_cons]
  simp only [h]

/-- The stores of the rows land one after the other. -/
theorem storeRows {s : State} {c : Nat} {m : AccMove} {addr : Nat → Nat} {rows : List Nat}
    (hp : ∀ r ∈ rows, addr r / 2 ^ 60 = 1 ∧ (s.plainWrite c (addr r) m.rowLen false).isSome = true) {st : State} {b : Nat → Byte}
    (h : SpadLaid s st c b) :
    ∃ u, laneFold st (rows.map fun r => (r, addr r)) (m.storeRow c) = .ok u ∧ SpadLaid s u c (rows.foldl (fun b r =>
      laidOver b ((s.plainWrite c (addr r) m.rowLen false).getD 0) (accStRow (s.core c) m.rng m.f r)) b) := by
  induction rows generalizing st b with
  | nil => exact ⟨st, rfl, h⟩
  | cons r rs ih =>
    obtain ⟨ha, hw⟩ := hp r (List.mem_cons_self ..)
    obtain ⟨hrow, he, hoff⟩ := rowFree_of_plainWrite ha hw
    have hacc : accStRow (st.core c) m.rng m.f r = accStRow (s.core c) m.rng m.f r := by
      simp only [accStRow, Core.accWord, h.acc]
    have hone : m.storeRow c st r (addr r) =
        .ok [] (st.modCore c fun k => k.spadStore (addr r % 2 ^ 32) (accStRow (s.core c) m.rng m.f r)) := by
      unfold AccMove.storeRow
      rw [unitLoc_space1 ha, h.resolve, hrow.resolves, hacc]
      exact writeRaw_own ((h.epoch c).trans he) ..
    obtain ⟨u, hu, hl⟩ := ih (fun x hx => hp x (List.mem_cons_of_mem _ hx)) (h.store _ _)
    refine ⟨u, ?_, ?_⟩
    · rw [List.map_cons, laneFold_cons (x := (r, addr r)) hone, hu]
    · rw [List.foldl_cons, hoff]
      exact hl

/-! ### ACC.LD (R143) -/

/-- A core that took the bytes of row r of a load into its accumulator. -/
def AccMove.loadedRow (m : AccMove) (bytes : Nat → List Byte) (k : Core) (r : Nat) : Core :=
  k.setAccs m.f.dst.toNat (32 * r) (matN m.f) fun j => accLdWord m.rng m.f r j (bytes r)

theorem loadedRows_eq (m : AccMove) (bytes : Nat → List Byte) (k : Core) (rows : List Nat) :
    rows.foldl (m.loadedRow bytes) k = { k with acc := (rows.foldl (m.loadedRow bytes) k).acc } := by
  induction rows generalizing k with
  | nil => rfl
  | cons r rs ih =>
    rw [List.foldl_cons, ih, AccMove.loadedRow, setAccs_eq]

theorem onlyCore_trans {s t u : State} {c : Nat} (h : OnlyCore s t c) (g : OnlyCore t u c) : OnlyCore s u c := by
  refine ⟨fun x hx => (g.others x hx).trans (h.others x hx), fun a => (g.memory a).trans (h.memory a), ?_⟩
  calc { u with cores := s.cores } = { ({ u with cores := t.cores } : State) with cores := s.cores } := rfl
    _ = { t with cores := s.cores } := by rw [g.rest]
    _ = s := h.rest

theorem readsAlike_acc {s t : State} {c : Nat} (h : OnlyCore s t c) (ha : t.core c = { s.core c with acc := (t.core c).acc }) :
    ReadsAlike s t := by
  have hk : ∀ x, t.core x = { s.core x with acc := (t.core x).acc } := fun x => by
    by_cases hx : x = c
    · rw [hx]
      exact ha
    · rw [h.others x hx]
  have ht : t = { s with cores := t.cores } := by
    obtain ⟨-, -, hrest⟩ := h
    rw [← hrest]
  refine ⟨⟨⟨t.cores, s.bays, s.ctr, ht⟩, fun x => ?_⟩, fun x => ?_, ?_, fun n => ?_, fun hc => ?_⟩
  · rw [hk x]
    rfl
  · rw [hk x]
    exact ⟨rfl, rfl, rfl⟩
  all_goals rw [ht]
  · rfl
  · rfl
  · exact hc

theorem accOnly_trans {k x y : Core} (h : x = { k with acc := x.acc }) (g : y = { x with acc := y.acc }) : y = { k with acc := y.acc } :=
  g.trans (by rw [h])

theorem loadRows {s : State} {c : Nat} {m : AccMove} {addr : Nat → Nat} {rows : List Nat}
    (hp : ∀ r ∈ rows, addr r / 2 ^ 60 = 1 ∧ (s.plainRead c (addr r) m.rowLen false).isSome = true) {st : State} {k : Core}
    (h : OnlyCore s st c) (hst : st.core c = k) (hk : k = { s.core c with acc := k.acc }) :
    ∃ u, laneFold st (rows.map fun r => (r, addr r)) (m.loadRow c) = .ok u ∧ OnlyCore s u c ∧
      u.core c = rows.foldl (m.loadedRow fun r => (s.plainRead c (addr r) m.rowLen false).getD []) k := by
  induction rows generalizing st k with
  | nil => exact ⟨st, rfl, h, hst⟩
  | cons r rs ih =>
    obtain ⟨ha, hw⟩ := hp r (List.mem_cons_self ..)
    obtain ⟨bs, hbs⟩ := Option.isSome_iff_exists.1 hw
    have hal : ReadsAlike s st := readsAlike_acc h (by rw [hst]; exact hk)
    obtain ⟨hrow, hload⟩ := plainRead_space1 ha (hal.plainRead hbs)
    have hone : m.loadRow c st r (addr r) = .ok bs (st.modCore c fun x =>
        m.loadedRow (fun r => (s.plainRead c (addr r) m.rowLen false).getD []) x r) := by
      unfold AccMove.loadRow
      rw [unitLoc_space1 ha, hrow.resolves]
      simp only [hload]
      simp only [AccMove.loadedRow, Core.setAccs, hbs, Option.getD_some]
    obtain ⟨u, hu, huc, huk⟩ := ih (fun x hx => hp x (List.mem_cons_of_mem _ hx)) (st := st.modCore c fun x =>
        m.loadedRow (fun r => (s.plainRead c (addr r) m.rowLen false).getD []) x r) (onlyCore_trans h (onlyCore_modCore ..))
      (State.core_modCore_same ..) (by
        rw [hst]
        exact accOnly_trans hk (setAccs_eq ..))
    refine ⟨u, ?_, huc, ?_⟩
    · rw [List.map_cons, laneFold_cons (x := (r, addr r)) hone, hu]
    · rw [huk, hst]
      rfl

/-- The accumulators after a load of the rows below m. -/
theorem loadedRows_accWord (mv : AccMove) (bytes : Nat → List Byte) (k : Core) {m : Nat} (hm : m ≤ 16) (hn : matN mv.f ≤ 32)
    {a r j : Nat} (hr : r < 16) (hj : j < 32) : ((List.range m).foldl (mv.loadedRow bytes) k).accWord a (32 * r + j) =
      if a = mv.f.dst.toNat ∧ r < m ∧ j < matN mv.f then accLdWord mv.rng mv.f r j (bytes r) else k.accWord a (32 * r + j) := by
  induction m with
  | zero => simp
  | succ m ih =>
    rw [List.range_succ, List.foldl_append, List.foldl_cons, List.foldl_nil, AccMove.loadedRow,
      setAccs_accWord _ _ (by omega) (by omega), ih (by omega)]
    by_cases h : a = mv.f.dst.toNat ∧ r = m ∧ j < matN mv.f
    · obtain ⟨rfl, rfl, h3⟩ := h
      rw [if_pos (by omega), if_pos (by omega)]
      congr 1
      omega
    · rw [if_neg (by omega)]
      by_cases h' : a = mv.f.dst.toNat ∧ r < m ∧ j < matN mv.f
      · rw [if_pos h', if_pos (by omega)]
      · rw [if_neg h', if_neg (by omega)]

end Sys2Proof.Machine
end

section
namespace Sys2Proof.Machine
open Sys2Proof

/-! ### Accumulator moves with the matrix queue empty (R141 to R145) -/

/-- A core that retires an accumulator move. -/
def Core.movedOn (k : Core) (f : FormA) : Core := (k.rngAfter (accRound f == 1) (matM f * matN f)).retire

theorem movedOn_fields (k : Core) (f : FormA) : (k.movedOn f).pc = k.pc + 8 ∧ (k.movedOn f).spad = k.spad ∧ (k.movedOn f).s = k.s ∧
    (k.movedOn f).p = k.p ∧ (k.movedOn f).v = k.v ∧ (k.movedOn f).acc = k.acc := by
  obtain ⟨m, hm⟩ := rngAfter_eq k (accRound f == 1) (matM f * matN f)
  rw [Core.movedOn, hm]
  exact ⟨Core.retire_pc _, Core.retire_spad _, Core.retire_s _, Core.retire_p _, Core.retire_v _, Core.retire_acc _⟩

theorem movedOn_rng (k : Core) {f : FormA} {m n : Nat} (hm : m = f.mod.toNat % 16 + 1) (hn : n = f.mod.toNat / 32 % 32 + 1) :
    (k.movedOn f).csrReg 0x019 =
      if f.mod.toNat / 2 ^ 13 % 4 = 1 then rngAdvance ((m * n + 3) / 4) (k.csrReg 0x019) else k.csrReg 0x019 := by
  have hM : matM f = m := by simp [matM, bitsN, hm]
  have hN : matN f = n := by simp [matN, bitsN, hn]
  rw [Core.movedOn, csrReg_retire, if_neg (by decide), if_neg (by decide), rngAfter_csrReg, hM, hN]
  simp only [accRound, bitsN, cdiv, beq_iff_eq]
  rfl

/-- Such a core, where the move changed its accumulators. -/
theorem movedOn_acc_rest {k x : Core} (h : x = { k with acc := x.acc }) (f : FormA) :
    { x.movedOn f with acc := k.acc, pc := k.pc, csr := k.csr, stall := k.stall, icache := k.icache } = k := by
  obtain ⟨a, rfl⟩ : ∃ a, x = { k with acc := a } := ⟨x.acc, h⟩
  obtain ⟨m, hm⟩ := rngAfter_eq { k with acc := a } (accRound f == 1) (matM f * matN f)
  rw [Core.movedOn, hm]
  cases k
  rfl

theorem execAccMem_scalar {s u : State} {c : Nat} {f : FormA} {i : Instr} {kind : Nat} (hr : ScalarReady s c f.pred f.pneg)
    (hq : (s.core c).mq = []) (hl : accLegal (.core c) f = true) (hi : i = .accSt (.core c) f ∧ kind = 0 ∨ i = .accLd (.core c) f ∧ kind = 1)
    (hu : ((s.core c).accMove f kind).run s c (s.core c).seq = .ok u) : exec i s = .next (u.modCore c fun k => k.movedOn f) := by
  have h := accIssue_ready hr hl (reads := []) (by simp) kind (matM f * matN f)
  rw [hq] at h
  rw [hu] at h
  obtain ⟨rfl, rfl⟩ | ⟨rfl, rfl⟩ := hi
  · exact h
  · exact h

theorem accStores {s : State} {c : Nat} {f : FormA} {m n size : Nat} {addr : Nat → Nat} (hr : ScalarReady s c f.pred f.pneg)
    (hq : (s.core c).mq = []) (hl : accLegal (.core c) f = true) (hm : m = f.mod.toNat % 16 + 1) (hn : n = f.mod.toNat / 32 % 32 + 1)
    (hs : size = rowBytes f.type.toNat n) (h1 : ((s.core c).sreg f.src1.toNat).toNat % fmtAlign f.type.toNat = 0)
    (h2 : ((s.core c).sreg f.src2.toNat).toNat % fmtAlign f.type.toNat = 0)
    (ha : ∀ r, addr r = (((s.core c).sreg f.src1.toNat).toNat + r * ((s.core c).sreg f.src2.toNat).toNat) % 2 ^ 64)
    (hsp : ∀ r, r < m → addr r / 2 ^ 60 = 1) (hw : ∀ r, r < m → (s.plainWrite c (addr r) size false).isSome = true) :
    ∃ t, exec (.accSt (.core c) f) s = .next t ∧ (t.core c).pc = (s.core c).pc + 8 ∧
      WritesSpad s t c ((List.range m).foldl (fun b r => laidOver b ((s.plainWrite c (addr r) size false).getD 0)
        (accStRow (s.core c) ((s.core c).csrReg 0x019) f r)) (nget 0 (s.core c).spad)) ∧
      (t.core c).csrReg 0x019 = (if f.mod.toNat / 2 ^ 13 % 4 = 1 then rngAdvance ((m * n + 3) / 4) ((s.core c).csrReg 0x019)
        else (s.core c).csrReg 0x019) := by
  have hM : matM f = m := by simp [matM, bitsN, hm]
  have hN : matN f = n := by simp [matN, bitsN, hn]
  have hlen : ((s.core c).accMove f 0).rowLen = size := by rw [AccMove.rowLen, hs, ← hN]; rfl
  have hzip : (List.range (matM ((s.core c).accMove f 0).f)).zip ((s.core c).accMove f 0).rows = (List.range m).map fun r => (r, addr r) := by
    rw [accRows_zip, ← hM]
    exact List.map_congr_left fun r _ => by rw [ha]; rfl
  have hrows : ∀ a ∈ ((s.core c).accMove f 0).rows, ∃ r, r < m ∧ a = addr r := fun a hr => by
    obtain ⟨r, hlt, rfl⟩ := List.mem_map.1 hr
    exact ⟨r, hM ▸ List.mem_range.1 hlt, (ha r).symm⟩
  have hrun := accMove_run (s := s) (c := c) (m := (s.core c).accMove f 0) Nat.zero_lt_two h1 h2 (fun a hr => by
    obtain ⟨r, hlt, rfl⟩ := hrows a hr
    rw [hlen]
    exact ⟨hsp r hlt, (rowFree_of_plainWrite (hsp r hlt) (hw r hlt)).1⟩) (s.core c).seq
  obtain ⟨u, hu, hlaid⟩ := storeRows (s := s) (c := c) (m := (s.core c).accMove f 0) (addr := addr) (rows := List.range m)
    (fun r hr => by rw [hlen]; exact ⟨hsp r (List.mem_range.1 hr), hw r (List.mem_range.1 hr)⟩) (st := s) (b := nget 0 (s.core c).spad)
    ⟨.refl s, ⟨s.cores, s.ctr, rfl⟩, fun _ _ => rfl, rfl, fun _ => rfl⟩
  rw [hzip] at hrun
  rw [hlen] at hlaid
  have hw := hlaid.writesSpad
  obtain ⟨hpc, hspad, hreg, hp, hv, hacc⟩ := movedOn_fields (u.core c) f
  have hdress := hlaid.core c
  refine ⟨_, execAccMem_scalar hr hq hl (.inl ⟨rfl, rfl⟩) (hrun.trans hu), ?_, ⟨fun a => ?_, fun x hx => ?_, ?_, hw.memory, hw.rest⟩, ?_⟩
  · rw [State.core_modCore_same, hpc, hdress]
    rfl
  · rw [State.core_modCore_same, hspad]
    exact hw.bytes a
  · rw [State.core_modCore_ne _ _ hx]
    exact hw.others x hx
  · rw [State.core_modCore_same, hreg, hp, hv, hacc]
    exact hw.regs
  · rw [State.core_modCore_same, movedOn_rng _ hm hn, hdress]
    rfl

theorem accLoads {s : State} {c : Nat} {f : FormA} {m n size : Nat} {addr : Nat → Nat} (hr : ScalarReady s c f.pred f.pneg)
    (hq : (s.core c).mq = []) (hl : accLegal (.core c) f = true) (hm : m = f.mod.toNat % 16 + 1) (hn : n = f.mod.toNat / 32 % 32 + 1)
    (hs : size = rowBytes f.type.toNat n) (h1 : ((s.core c).sreg f.src1.toNat).toNat % fmtAlign f.type.toNat = 0)
    (h2 : ((s.core c).sreg f.src2.toNat).toNat % fmtAlign f.type.toNat = 0)
    (ha : ∀ r, addr r = (((s.core c).sreg f.src1.toNat).toNat + r * ((s.core c).sreg f.src2.toNat).toNat) % 2 ^ 64)
    (hsp : ∀ r, r < m → addr r / 2 ^ 60 = 1) (hw : ∀ r, r < m → (s.plainRead c (addr r) size false).isSome = true) :
    ∃ t, exec (.accLd (.core c) f) s = .next t ∧ OnlyCore s t c ∧ (t.core c).pc = (s.core c).pc + 8 ∧
      (∀ a r j, a < 2 → r < 16 → j < 32 → (t.core c).accWord a (32 * r + j) =
        if a = f.dst.toNat ∧ r < m ∧ j < n then accLdWord ((s.core c).csrReg 0x019) f r j ((s.plainRead c (addr r) size false).getD [])
        else (s.core c).accWord a (32 * r + j)) ∧
      (t.core c).csrReg 0x019 = (if f.mod.toNat / 2 ^ 13 % 4 = 1 then rngAdvance ((m * n + 3) / 4) ((s.core c).csrReg 0x019)
        else (s.core c).csrReg 0x019) ∧
      { t.core c with acc := (s.core c).acc, pc := (s.core c).pc, csr := (s.core c).csr, stall := (s.core c).stall, icache := (s.core c).icache } =
        s.core c := by
  have hM : matM f = m := by simp [matM, bitsN, hm]
  have hN : matN f = n := by simp [matN, bitsN, hn]
  have hlen : ((s.core c).accMove f 1).rowLen = size := by rw [AccMove.rowLen, hs, ← hN]; rfl
  have hzip : (List.range (matM ((s.core c).accMove f 1).f)).zip ((s.core c).accMove f 1).rows = (List.range m).map fun r => (r, addr r) := by
    rw [accRows_zip, ← hM]
    exact List.map_congr_left fun r _ => by rw [ha]; rfl
  have hrows : ∀ a ∈ ((s.core c).accMove f 1).rows, ∃ r, r < m ∧ a = addr r := fun a hr => by
    obtain ⟨r, hlt, rfl⟩ := List.mem_map.1 hr
    exact ⟨r, hM ▸ List.mem_range.1 hlt, (ha r).symm⟩
  have hrun := accMove_run (s := s) (c := c) (m := (s.core c).accMove f 1) Nat.one_lt_two h1 h2 (fun a hr => by
    obtain ⟨r, hlt, rfl⟩ := hrows a hr
    obtain ⟨bs, hbs⟩ := Option.isSome_iff_exists.1 (hw r hlt)
    rw [hlen]
    exact ⟨hsp r hlt, (plainRead_space1 (hsp r hlt) hbs).1⟩) (s.core c).seq
  obtain ⟨u, hu, huc, huk⟩ := loadRows (s := s) (c := c) (m := (s.core c).accMove f 1) (addr := addr) (rows := List.range m)
    (fun r hr => by rw [hlen]; exact ⟨hsp r (List.mem_range.1 hr), hw r (List.mem_range.1 hr)⟩) (st := s) (k := s.core c)
    (onlyCore_refl s c) rfl rfl
  rw [hzip] at hrun
  rw [hlen] at huk
  have hacc := loadedRows_eq ((s.core c).accMove f 1) (fun r => (s.plainRead c (addr r) size false).getD []) (s.core c) (List.range m)
  have hwords := fun {a r j : Nat} => loadedRows_accWord ((s.core c).accMove f 1) (fun r => (s.plainRead c (addr r) size false).getD [])
    (s.core c) (m := m) (by omega) (by rw [show matN ((s.core c).accMove f 1).f = n from hN]; omega) (a := a) (r := r) (j := j)
  rw [← huk] at hacc
  simp only [← huk] at hwords
  obtain ⟨hpc, -, -, -, -, hka⟩ := movedOn_fields (u.core c) f
  refine ⟨_, execAccMem_scalar hr hq hl (.inr ⟨rfl, rfl⟩) (hrun.trans hu), onlyCore_trans huc (onlyCore_modCore ..), ?_,
    fun a r j _ h16 h32 => ?_, ?_, ?_⟩
  all_goals rw [State.core_modCore_same]
  · rw [hpc, hacc]
  · rw [Core.accWord, hka]
    refine (hwords h16 h32).trans ?_
    rw [show matN ((s.core c).accMove f 1).f = n from hN]
    rfl
  · rw [movedOn_rng _ hm hn, hacc]
    rfl
  · exact movedOn_acc_rest hacc f

theorem accumulatorMoves_claim : Claim.AccumulatorMoves := by
  intro s c f hr hq
  refine ⟨fun hd h1 hu hm => ?_, fun hd h1 hu hm => ?_, fun m n size addr hl hm hn hs h1 h2 ha hsp => ⟨fun hw => ?_, fun hw => ?_⟩⟩
  · exact ⟨_, execAccRv_scalar hr hq hd h1 hu hm, writesV_setV s c f.dst.toNat fun k l => k.accWord f.src1.toNat (64 * f.mod.toNat + l)⟩
  · obtain ⟨honly, hret, hwords, hrest⟩ := accWv_effect s c f.dst.toNat f.mod.toNat (vlane ((s.core c).vreg f.src1.toNat)) hm
    exact ⟨_, execAccWv_scalar hr hq hd h1 hu hm, honly, hret, fun a w _ hw => hwords a w hw, hrest⟩
  · exact accStores hr hq hl hm hn hs h1 h2 ha hsp hw
  · exact accLoads hr hq hl hm hn hs h1 h2 ha hsp hw

/-- Settles O14: a move is one row after the other, each where the one before it left the core. -/
theorem accumulators : Obligations.Accumulators := ⟨accumulatorMoves_claim, accumulatorQueue_claim, accumulatorElements_claim⟩

end Sys2Proof.Machine
end

section
namespace Sys2Proof.Machine
open Sys2Proof

/-! ### The stream engine's queue (R73, R242, R253) -/

/-- A core that retired a stream instruction, and changed at most its slots and its stream queue beside. -/
structure Entered (k x : Core) : Prop where
  retires : Retires k x (k.pc + 8)
  rest : { x with slots := k.slots, sq := k.sq, seq := k.seq, pc := k.pc, csr := k.csr, stall := k.stall, icache := k.icache } = k

/-- A core that retires a stream instruction. -/
def Core.enter (k : Core) : Core := { k.retire with seq := k.seq + 1 }

/-- A core with another stream queue. -/
def Core.withSq (k : Core) (sq : List (Nat × Start)) : Core := { k with sq := sq }

theorem entered_enter (k : Core) : Entered k k.enter := by
  refine ⟨retires_congr (retires_retire rfl rfl rfl) rfl rfl rfl, ?_⟩
  cases k
  rfl

theorem Entered.withSq {k x : Core} (h : Entered k x) (sq : List (Nat × Start)) : Entered k (x.withSq sq) :=
  ⟨retires_congr h.retires rfl rfl rfl, h.rest⟩

theorem Entered.setSlot {k x : Core} (h : Entered k x) (i : Nat) (y : Slot) : Entered k (x.setSlot i y) :=
  ⟨retires_congr h.retires rfl rfl rfl, h.rest⟩

theorem slots_of_seq (k : Core) (n : Nat) : { k with seq := n }.slots = k.slots := rfl

theorem enter_slots (k : Core) : k.enter.slots = k.slots := (slots_of_seq k.retire (k.seq + 1)).trans k.retire_slots

theorem enter_slot (k : Core) (i : Nat) : k.enter.slot i = k.slot i := by rw [Core.slot, enter_slots, Core.slot]
theorem withSq_sq (k : Core) (sq : List (Nat × Start)) : (k.withSq sq).sq = sq := rfl
theorem withSq_slot (k : Core) (sq : List (Nat × Start)) (i : Nat) : (k.withSq sq).slot i = k.slot i := rfl

/-- A queue with room takes an instruction, and goes on. -/
theorem streamEnter_room {s : State} {c : Nat} (h : (s.core c).sq.length < 4) (slot : Nat) (st : Start) :
    s.streamEnter c slot st = State.pump c (s.modCore c Core.enter) ((s.core c).sq ++ [(slot, st)]) :=
  if_neg (Nat.not_le.2 h)

/-- A start waits where its slot has a running and a pending one, and everything behind it waits too. -/
theorem pump_blocked {s : State} {c j : Nat} {st : Start} (ho : st.op = .start) (hr : ((s.core c).slot j).running ≠ none)
    (hp : ((s.core c).slot j).pending ≠ none) (r : List (Nat × Start)) :
    State.pump c s ((j, st) :: r) = s.modCore c fun k => k.withSq ((j, st) :: r) := by
  rw [State.pump, ho]
  simp [Option.isNone_iff_eq_none, hr, hp, Core.withSq]

/-- A slot that a start reaches: as the running one, or as the pending one behind another. -/
def Slot.takes (x : Slot) (st : Start) : Slot :=
  if x.running = none then { x with running := some st, begun := false } else { x with pending := some st }

/-- A start goes to its slot as the running or the pending one. -/
theorem pump_start {s : State} {c i : Nat} {st : Start} (ho : st.op = .start)
    (h : ((s.core c).slot i).running = none ∨ ((s.core c).slot i).pending = none) :
    State.pump c s [(i, st)] = s.modCore c fun k => (k.setSlot i (((s.core c).slot i).takes st)).withSq [] := by
  rw [State.pump, ho]
  dsimp only
  unfold Slot.takes
  by_cases hr : ((s.core c).slot i).running = none
  · simp only [Option.isNone_iff_eq_none, hr, if_true, State.pump, modCore_modCore, Core.withSq]
  · simp only [Option.isNone_iff_eq_none, hr, if_false, h.resolve_left hr, if_true, State.pump, modCore_modCore, Core.withSq]

theorem slot_setSlot (k : Core) (i : Nat) (x : Slot) (j : Nat) : (k.setSlot i x).slot j = if j = i then x else k.slot j := by
  simp only [Core.slot, Core.setSlot, nget_nset]

/-- The start that SS.START names. -/
def Core.startOf (k : Core) (f : FormA) : Start :=
  { prog := f.mod.toNat, a0 := k.sreg f.src1.toNat, a1 := k.sreg f.src2.toNat, a2 := k.sreg f.src3.toNat, epoch := k.epoch, pc := k.pc,
    seq := k.seq }

theorem execSsStart_scalar {s : State} {c : Nat} {f : FormA} (hr : ScalarReady s c f.pred f.pneg)
    (hu : usesA f false true true true true false true = true) (h1 : f.src1.toNat < 32) (h2 : f.src2.toNat < 32) (h3 : f.src3.toNat < 32)
    (h4 : f.func.toNat < 4) : exec (.ssStart (.core c) f) s = .next (s.streamEnter c f.func.toNat ((s.core c).startOf f)) := by
  have hdt : f.dst = 0 ∧ f.type = 0 := by simpa [usesA] using hu
  show execSsStart (.core c) f s = _
  unfold execSsStart
  rw [issueScalar_core hr (by simp [hdt, regOk, h1, h2, h3, h4])]
  rfl


end Sys2Proof.Machine
end

section
namespace Sys2Proof.Machine
open Sys2Proof

theorem streamStart_claim : Claim.StreamStart := by
  intro s c i f hr hu h1 h2 h3 hi h4 hq
  have he := execSsStart_scalar hr hu h1 h2 h3 (hi ▸ h4)
  rw [streamEnter_room (by rw [hq]; decide), hq, ← hi] at he
  have hslot : ∀ j, ((s.modCore c Core.enter).core c).slot j = (s.core c).slot j := fun j => by rw [State.core_modCore_same, enter_slot]
  by_cases hfree : ((s.core c).slot i).running = none ∨ ((s.core c).slot i).pending = none
  · rw [List.nil_append, pump_start rfl (by rw [hslot]; exact hfree), hslot, modCore_modCore] at he
    have hsl : ∀ j, (((s.core c).enter.setSlot i (((s.core c).slot i).takes ((s.core c).startOf f))).withSq []).slot j =
        if j = i then ((s.core c).slot i).takes ((s.core c).startOf f) else (s.core c).slot j := fun j => by
      rw [withSq_slot, slot_setSlot, enter_slot]
    obtain ⟨hret, hrest⟩ := ((entered_enter (s.core c)).setSlot i (((s.core c).slot i).takes ((s.core c).startOf f))).withSq []
    refine ⟨_, (s.core c).startOf f, he, onlyCore_modCore .., ?_⟩
    rw [State.core_modCore_same]
    refine ⟨hret, rfl, rfl, rfl, rfl, rfl, rfl, rfl, fun h => ⟨?_, withSq_sq ..⟩, fun h _ => ⟨?_, withSq_sq ..⟩, fun h1 h2 => ?_,
      fun j hj => ?_, hrest⟩
    · rw [hsl, if_pos rfl, Slot.takes, if_pos h]
    · rw [hsl, if_pos rfl, Slot.takes, if_neg h]
    · exact absurd hfree (not_or.2 ⟨h1, h2⟩)
    · rw [hsl, if_neg hj]
  · obtain ⟨hrun, hpend⟩ := not_or.1 hfree
    rw [List.nil_append, pump_blocked rfl (by rw [hslot]; exact hrun) (by rw [hslot]; exact hpend), modCore_modCore] at he
    obtain ⟨hret, hrest⟩ := (entered_enter (s.core c)).withSq [(i, (s.core c).startOf f)]
    refine ⟨_, (s.core c).startOf f, he, onlyCore_modCore .., ?_⟩
    rw [State.core_modCore_same]
    exact ⟨hret, rfl, rfl, rfl, rfl, rfl, rfl, rfl, fun h => absurd h hrun, fun _ h => absurd h hpend,
      fun _ _ => ⟨(withSq_slot ..).trans (enter_slot ..), withSq_sq ..⟩, fun _ _ => (withSq_slot ..).trans (enter_slot ..), hrest⟩

end Sys2Proof.Machine
end

section
namespace Sys2Proof.Machine
open Sys2Proof

/-! ### SS.WAIT, SS.POLL and SS.CANCEL (R73, R253, R256, R257) -/

theorem withSq_self {k : Core} {sq : List (Nat × Start)} (h : k.sq = sq) : k.withSq sq = k := by
  subst h
  rfl

/-- An empty queue of a core changes nothing in it. -/
theorem pump_nil (s : State) (c : Nat) : State.pump c s [] = s.modCore c fun k => k.withSq [] := rfl

theorem p_of_seq (k : Core) (n : Nat) : { k with seq := n }.p = k.p := rfl
theorem stores_of_seq (k : Core) (n : Nat) : { k with seq := n }.stores = k.stores := rfl
theorem enter_p (k : Core) : k.enter.p = k.p := (p_of_seq k.retire (k.seq + 1)).trans k.retire_p
theorem enter_stores (k : Core) : k.enter.stores = k.stores := (stores_of_seq k.retire (k.seq + 1)).trans k.retire_stores

/-- The slots that SLOT and ALL name (R253). -/
theorem mem_slotsOf {f : FormA} (hf : f.func.toNat < 4) (hm : f.mod = 0 ∨ f.mod = 1 ∧ f.func = 0) {names : Nat → Bool}
    (hn : ∀ i, names i = decide (i < 4 ∧ (f.mod = 1 ∨ i = f.func.toNat))) (i : Nat) : i ∈ slotsOf f ↔ names i = true := by
  rw [hn, decide_eq_true_iff, slotsOf]
  obtain h | ⟨h, h'⟩ := hm
  · rw [if_neg (by rw [h]; decide), List.mem_singleton, h]
    simp
    omega
  · rw [if_pos h]
    simp [h]
    omega

theorem slotsOf_nodup (f : FormA) : (slotsOf f).Nodup := by
  unfold slotsOf
  split
  · decide
  · exact List.nodup_singleton _

theorem slotLegal_of {f : FormA} (hf : f.func.toNat < 4) (hm : f.mod = 0 ∨ f.mod = 1 ∧ f.func = 0) : slotLegal f = true := by
  simpa [slotLegal, hf] using hm

theorem idle_iff (x : Slot) : x.idle = true ↔ x.running = none ∧ x.pending = none := by
  simp [Slot.idle, Option.isNone_iff_eq_none]

section
variable {s : State} {c : Nat} {f : FormA} (hr : ScalarReady s c f.pred f.pneg) (hf : f.func.toNat < 4)
  (hm : f.mod = 0 ∨ f.mod = 1 ∧ f.func = 0)
include hr hf hm

theorem execSsWait_idle (hq : (s.core c).sq = []) (hu : usesA f false false false false true false true = true)
    (hi : ∀ i ∈ slotsOf f, ((s.core c).slot i).idle = true) :
    exec (.ssWait (.core c) f) s = .next (s.modCore c Core.retire) := by
  have hp : s.pumped c = s.modCore c fun k => k.withSq [] := by rw [State.pumped, hq, pump_nil]
  show execSsWait (.core c) f s = _
  unfold execSsWait
  rw [issueScalar_core hr (by rw [hu, slotLegal_of hf hm]; rfl)]
  dsimp only
  rw [hp, State.core_modCore_same, withSq_self hq, hq, if_pos (by simpa using hi), modCore_modCore]
  exact congrArg _ (modCore_congr s c (f := fun k => (k.withSq []).retire) (g := Core.retire) (by rw [withSq_self hq]))

theorem execSsPoll_enters (hu : usesA f true false false false true false true = true) (hd : f.dst.toNat < 8)
    (hs : f.dst.toNat ∉ (s.core c).pPending) :
    exec (.ssPoll (.core c) f) s = .next (s.streamEnter c 4 (streamItem (s.core c) (.poll (slotsOf f) f.dst.toNat))) := by
  show execSsPoll (.core c) f s = _
  unfold execSsPoll
  rw [issueScalar_core hr (by rw [hu, slotLegal_of hf hm]; simpa [predOk] using hd)]
  rw [State.whenFree, if_neg (by simpa using hs), if_neg (by simp)]

theorem execSsCancel_enters (hu : usesA f false false false false true false true = true) :
    exec (.ssCancel (.core c) f) s = .next (s.streamEnter c 4 (streamItem (s.core c) (.cancel (slotsOf f) false))) := by
  show execSsCancel (.core c) f s = _
  unfold execSsCancel
  rw [issueScalar_core hr (by rw [hu, slotLegal_of hf hm]; rfl)]

end

/-- An SS.POLL that finds no queue writes its predicate at once. -/
theorem streamEnter_poll {s : State} {c : Nat} (hq : (s.core c).sq = []) {st : Start} {l : List Nat} {d : Nat} (ho : st.op = .poll l d) :
    s.streamEnter c 4 st =
      s.modCore c fun k => (k.enter.setP d (l.all fun j => (k.enter.slot j).idle)).withSq [] := by
  rw [streamEnter_room (by rw [hq]; decide), hq, List.nil_append, State.pump, ho]
  dsimp only
  rw [pump_nil, modCore_modCore, modCore_modCore]

/-- A core that entered a stream instruction and set a predicate. -/
theorem retires_polled (k : Core) (d : Nat) (v : Bool) : Retires k ((k.enter.setP d v).withSq []) (k.pc + 8) := by
  unfold Core.setP
  split
  · exact retires_congr (entered_enter k).retires rfl rfl rfl
  · exact retires_congr (entered_enter k).retires rfl rfl rfl

theorem preg_withSq (k : Core) (sq : List (Nat × Start)) (n : Nat) : (k.withSq sq).preg n = k.preg n := rfl
theorem preg_enter (k : Core) (n : Nat) : k.enter.preg n = k.preg n := by rw [Core.preg, enter_p, Core.preg]

theorem writesP_polled (k : Core) (d : Nat) (v : Bool) : WritesP k ((k.enter.setP d v).withSq []) d v := by
  intro n
  rw [preg_withSq, Core.preg_setP, preg_enter]

/-- t differs from s in the named slots of core c, whose generations advanced, and in counters at most. -/
structure Advanced (s t : State) (c : Nat) (l : List Nat) : Prop where
  slot : ∀ i, (t.core c).slot i = if i ∈ l then ((s.core c).slot i).advance else (s.core c).slot i
  core : { t.core c with slots := (s.core c).slots } = s.core c
  others : ∀ x, x ≠ c → t.core x = s.core x
  memory : SameMemory s t
  rest : { t with cores := s.cores, ctr := s.ctr } = s

/-- One slot of a core advances its generation, which a counter of the core counts (R256). -/
def State.advanceSlot (s : State) (c j : Nat) : State := (s.modCore c fun y => y.setSlot j (y.slot j).advance).bump 0x04 c 1 1

theorem core_advanceSlot (s : State) (c j x : Nat) :
    (s.advanceSlot c j).core x = (s.modCore c fun y => y.setSlot j (y.slot j).advance).core x :=
  State.core_congr (State.bump_cores ..) x

theorem setSlot_slots (k : Core) (i : Nat) (x : Slot) : { k.setSlot i x with slots := k.slots } = k := rfl

theorem advanced_foldl (c : Nat) (l : List Nat) (hn : l.Nodup) (s : State) :
    Advanced s (l.foldl (fun a j => a.advanceSlot c j) s) c l := by
  induction l generalizing s with
  | nil => exact ⟨fun i => by simp, rfl, fun _ _ => rfl, fun _ => rfl, rfl⟩
  | cons j r ih =>
    obtain ⟨hj, hnr⟩ := List.nodup_cons.1 hn
    obtain ⟨hslot, hcore, hothers, hmem, hrest⟩ := ih hnr (s.advanceSlot c j)
    rw [core_advanceSlot, State.core_modCore_same] at hslot hcore
    refine ⟨fun i => ?_, ?_, fun x hx => ?_, fun a => hmem a, ?_⟩
    · rw [List.foldl_cons, hslot, slot_setSlot]
      by_cases hi : i = j
      · subst hi
        simp [hj]
      · simp [hi]
    · rw [List.foldl_cons]
      have h := congrArg (fun k : Core => { k with slots := (s.core c).slots }) hcore
      exact h.trans (setSlot_slots ..)
    · rw [List.foldl_cons, hothers x hx, core_advanceSlot, State.core_modCore_ne _ _ hx]
    · rw [List.foldl_cons]
      have h := congrArg (fun t : State => { t with cores := s.cores, ctr := s.ctr }) hrest
      exact h

theorem pump_cancel {s : State} {c : Nat} {st : Start} {l : List Nat} (ho : st.op = .cancel l false)
    (hw : l.any ((l.foldl (fun a j => a.advanceSlot c j) s).core c).slotStores = false) :
    State.pump c s [(4, st)] = (l.foldl (fun a j => a.advanceSlot c j) s).modCore c fun k => k.withSq [] := by
  rw [State.pump, ho]
  dsimp only
  exact if_neg (by rw [Bool.not_eq_true]; exact hw)

/-- A core that entered a stream instruction, and changed its slots beside. -/
theorem entered_slots {k x : Core} (h : { x with slots := k.enter.slots } = k.enter) : Entered k x := by
  have hpc := congrArg Core.pc h
  have hic := congrArg Core.icache h
  have hcsr := congrArg Core.csr h
  refine ⟨retires_congr (entered_enter k).retires hpc hic hcsr, ?_⟩
  have h' := congrArg (fun y : Core =>
    { y with slots := k.slots, sq := k.sq, seq := k.seq, pc := k.pc, csr := k.csr, stall := k.stall, icache := k.icache }) h
  exact h'.trans (entered_enter k).rest

/-- The slots that still have writes on their way are those of the core's stores. -/
theorem any_slotStores {k : Core} {l : List Nat} (h : ∀ w ∈ k.stores, ∀ i ∈ l, w.src ≠ i + 1) : l.any k.slotStores = false := by
  rw [List.any_eq_false]
  intro i hi hs
  obtain ⟨w, hw, he⟩ := List.any_eq_true.1 hs
  exact h w hw i hi (by simpa using he)

section
variable {s : State} {c : Nat} {f : FormA} {names : Nat → Bool} (hr : ScalarReady s c f.pred f.pneg) (hf : f.func.toNat < 4)
  (hm : f.mod = 0 ∨ f.mod = 1 ∧ f.func = 0) (hn : ∀ i, names i = decide (i < 4 ∧ (f.mod = 1 ∨ i = f.func.toNat)))
include hr hf hm hn

theorem ssWait_retires (hq : (s.core c).sq = []) (hu : usesA f false false false false true false true = true)
    (hi : ∀ i, names i = true → ((s.core c).slot i).running = none ∧ ((s.core c).slot i).pending = none) :
    ∃ t, exec (.ssWait (.core c) f) s = .next t ∧ OnlyCore s t c ∧ Retires (s.core c) (t.core c) ((s.core c).pc + 8) ∧
      { t.core c with pc := (s.core c).pc, csr := (s.core c).csr, stall := (s.core c).stall, icache := (s.core c).icache } = s.core c := by
  refine ⟨_, execSsWait_idle hr hf hm hq hu fun i h => (idle_iff _).2 (hi i ((mem_slotsOf hf hm hn i).1 h)), onlyCore_modCore .., ?_⟩
  rw [State.core_modCore_same]
  exact ⟨retires_retire rfl rfl rfl, retire_rest _⟩

theorem ssPoll_writes (hq : (s.core c).sq = []) (hu : usesA f true false false false true false true = true) (hd : f.dst.toNat < 8) :
    ∃ t v, exec (.ssPoll (.core c) f) s = .next t ∧ OnlyCore s t c ∧ WritesP (s.core c) (t.core c) f.dst.toNat v ∧
      (v = true ↔ ∀ i, names i = true → ((s.core c).slot i).running = none ∧ ((s.core c).slot i).pending = none) ∧
      Retires (s.core c) (t.core c) ((s.core c).pc + 8) := by
  have he := execSsPoll_enters hr hf hm hu hd (by simp [Core.pPending, hq])
  rw [streamEnter_poll hq rfl] at he
  refine ⟨_, (slotsOf f).all fun j => ((s.core c).enter.slot j).idle, he, onlyCore_modCore .., ?_⟩
  rw [State.core_modCore_same]
  refine ⟨writesP_polled _ _ _, ?_, retires_polled ..⟩
  simp only [List.all_eq_true, mem_slotsOf hf hm hn, enter_slot, idle_iff]

theorem ssCancel_advances (hq : (s.core c).sq = []) (hu : usesA f false false false false true false true = true)
    (hw : ∀ w ∈ (s.core c).stores, ∀ i, names i = true → w.src ≠ i + 1) :
    ∃ t, exec (.ssCancel (.core c) f) s = .next t ∧ Retires (s.core c) (t.core c) ((s.core c).pc + 8) ∧
      (∀ i, (t.core c).slot i = if names i then ((s.core c).slot i).advance else (s.core c).slot i) ∧
      { t.core c with
        slots := (s.core c).slots, sq := (s.core c).sq, seq := (s.core c).seq, pc := (s.core c).pc
        csr := (s.core c).csr, stall := (s.core c).stall, icache := (s.core c).icache } = s.core c ∧ (t.core c).sq = [] ∧
      (∀ x, x ≠ c → t.core x = s.core x) ∧ SameMemory s t ∧ { t with cores := s.cores, ctr := s.ctr } = s := by
  have he := execSsCancel_enters hr hf hm hu
  obtain ⟨hslot, hcore, hothers, hmem, hrest⟩ := advanced_foldl c (slotsOf f) (slotsOf_nodup f) (s.modCore c Core.enter)
  rw [State.core_modCore_same] at hslot hcore
  have hent := entered_slots hcore
  have hst := (congrArg Core.stores hcore).trans (enter_stores (s.core c))
  rw [streamEnter_room (by rw [hq]; decide), hq, List.nil_append, pump_cancel rfl (any_slotStores fun w h i hi =>
    hw w (by rwa [← hst]) i ((mem_slotsOf hf hm hn i).1 hi))] at he
  refine ⟨_, he, ?_⟩
  rw [State.core_modCore_same]
  refine ⟨(hent.withSq []).retires, fun i => ?_, (hent.withSq []).rest, withSq_sq .., fun x hx => ?_, hmem, ?_⟩
  · rw [withSq_slot, hslot, enter_slot]
    simp only [mem_slotsOf hf hm hn]
  · rw [State.core_modCore_ne _ _ hx, hothers x hx, State.core_modCore_ne _ _ hx]
  · exact congrArg (fun t : State => { t with cores := s.cores }) hrest

end

/-- What stands behind a start that still waits (R253): it enters the queue, and only that. -/
theorem streamEnter_blocked {s : State} {c j : Nat} {st : Start} {rest : List (Nat × Start)} (hq : (s.core c).sq = (j, st) :: rest)
    (hl : rest.length < 3) (ho : st.op = .start) (h1 : ((s.core c).slot j).running ≠ none) (h2 : ((s.core c).slot j).pending ≠ none)
    (i : Nat) (x : Start) :
    s.streamEnter c i x = s.modCore c fun k => k.enter.withSq ((s.core c).sq ++ [(i, x)]) := by
  rw [streamEnter_room (by rw [hq, List.length_cons]; omega), hq, List.cons_append, pump_blocked ho, modCore_modCore]
  · rwa [State.core_modCore_same, enter_slot]
  · rwa [State.core_modCore_same, enter_slot]

theorem withSq_slots (k : Core) (sq : List (Nat × Start)) : (k.withSq sq).slots = k.slots := rfl
theorem withSq_p (k : Core) (sq : List (Nat × Start)) : (k.withSq sq).p = k.p := rfl

/-- A core that put an entry at the end of its stream queue retired, and kept its slots and predicates. -/
theorem queued_rest (s : State) (c : Nat) (e : Nat × Start) (t : State) (ht : t = s.modCore c fun k => k.enter.withSq ((s.core c).sq ++ [e])) :
    OnlyCore s t c ∧ Retires (s.core c) (t.core c) ((s.core c).pc + 8) ∧ (t.core c).sq = (s.core c).sq ++ [e] ∧
      (t.core c).slots = (s.core c).slots ∧ (t.core c).p = (s.core c).p := by
  subst ht
  refine ⟨onlyCore_modCore .., ?_⟩
  rw [State.core_modCore_same]
  exact ⟨((entered_enter _).withSq _).retires, withSq_sq .., (withSq_slots ..).trans (enter_slots _), (withSq_p ..).trans (enter_p _)⟩

theorem streamWaitPollCancel_claim : Claim.StreamWaitPollCancel := by
  intro s c f names hr hf hm hn
  refine ⟨ssWait_retires hr hf hm hn, ssPoll_writes hr hf hm hn, ssCancel_advances hr hf hm hn, fun j st rest hq hl ho h1 h2 =>
    ⟨fun hu hd hp => ?_, fun hu => ?_⟩⟩
  · obtain ⟨honly, hret, hsq, hslots, hpreds⟩ := queued_rest s c _ _ (streamEnter_blocked hq hl ho h1 h2 4
      (streamItem (s.core c) (.poll (slotsOf f) f.dst.toNat)))
    exact ⟨_, _, execSsPoll_enters hr hf hm hu hd hp, honly, hret, hsq, ⟨slotsOf f, rfl, mem_slotsOf hf hm hn⟩, hslots, hpreds⟩
  · obtain ⟨honly, hret, hsq, hslots, -⟩ := queued_rest s c _ _ (streamEnter_blocked hq hl ho h1 h2 4
      (streamItem (s.core c) (.cancel (slotsOf f) false)))
    exact ⟨_, _, execSsCancel_enters hr hf hm hu, honly, hret, hsq, ⟨slotsOf f, rfl, mem_slotsOf hf hm hn⟩, hslots⟩

end Sys2Proof.Machine
end

section
namespace Sys2Proof.Machine
open Sys2Proof

/-! ### A start begins and ends (R242, R244, R253) -/

theorem core_pumped {s : State} {c : Nat} (h : (s.core c).sq = []) (x : Nat) : (s.pumped c).core x = s.core x := by
  rw [State.pumped, h, pump_nil]
  by_cases hx : x = c
  · rw [hx, State.core_modCore_same, withSq_self h]
  · rw [State.core_modCore_ne _ _ hx]

/-- An empty queue that goes on changes nothing but the way the cores are written down. -/
theorem pumped_rest {s : State} {c : Nat} (h : (s.core c).sq = []) : ∃ m : NMap Core, s.pumped c = { s with cores := m } := by
  rw [State.pumped, h, pump_nil]
  exact ⟨_, rfl⟩

/-- What a start's beginning looks at does not change as an empty queue goes on. -/
theorem startSees_pumped {s : State} {c : Nat} (h : (s.core c).sq = []) (st : Start) :
    (s.pumped c).epState st.epoch = s.epState st.epoch ∧ (s.pumped c).streamProg st.prog = s.streamProg st.prog ∧
      (s.pumped c).startWaits c st = s.startWaits c st := by
  have hc := core_pumped h c
  obtain ⟨m, hm⟩ := pumped_rest h
  rw [hm] at hc ⊢
  refine ⟨rfl, rfl, ?_⟩
  unfold State.startWaits
  rw [hc]
  rfl

/-- A change of a slot of a core, and of counters, is all that was done. -/
theorem slotEffect_of {s t : State} {c i : Nat} {y : Slot} (hk : t.core c = (s.core c).setSlot i y)
    (ho : ∀ x, x ≠ c → t.core x = s.core x) (hm : SameMemory s t) (hr : { t with cores := s.cores, ctr := s.ctr } = s) :
    SlotEffect s t c i y := by
  refine ⟨?_, fun j hj => ?_, ?_, ho, hm, hr⟩
  · rw [hk, slot_setSlot, if_pos rfl]
  · rw [hk, slot_setSlot, if_neg hj]
  · rw [hk]
    exact setSlot_slots ..

/-- A change of a slot of a core whose stream queue is empty, after that queue went on. -/
theorem slotEffect_pumped {s : State} {c : Nat} (h : (s.core c).sq = []) (i : Nat) (y : Slot) :
    SlotEffect s ((s.pumped c).setCore c ((s.core c).setSlot i y)) c i y := by
  refine slotEffect_of (State.core_setCore_same ..) (fun x hx => ?_) ?_ ?_
  · rw [State.core_setCore_ne _ _ hx, core_pumped h]
  · obtain ⟨m, hm⟩ := pumped_rest h
    rw [hm]
    exact fun _ => rfl
  · obtain ⟨m, hm⟩ := pumped_rest h
    rw [hm]
    rfl

theorem SlotEffect.bump {s t : State} {c i : Nat} {y : Slot} (h : SlotEffect s t c i y) (fam unit pos n : Nat) :
    SlotEffect s (t.bump fam unit pos n) c i y := by
  have hk : ∀ x, (t.bump fam unit pos n).core x = t.core x := State.core_congr (State.bump_cores ..)
  exact ⟨by rw [hk]; exact h.slot, by rw [hk]; exact h.slots, by rw [hk]; exact h.core, fun x hx => (hk x).trans (h.others x hx),
    h.memory, h.rest⟩

theorem SlotEffect.pumped {s t : State} {c i : Nat} {y : Slot} (h : SlotEffect s t c i y) (hq : (s.core c).sq = []) :
    SlotEffect s (t.pumped c) c i y := by
  have hsq : (t.core c).sq = [] := (congrArg Core.sq h.core).trans hq
  have hk := core_pumped hsq
  refine ⟨by rw [hk]; exact h.slot, by rw [hk]; exact h.slots, by rw [hk]; exact h.core, fun x hx => (hk x).trans (h.others x hx), ?_, ?_⟩
  · obtain ⟨m, hm⟩ := pumped_rest hsq
    rw [hm]
    exact h.memory
  · obtain ⟨m, hm⟩ := pumped_rest hsq
    rw [hm]
    exact h.rest

/-- A slot whose start begins (R242, R244). -/
def Slot.starting (x : Slot) (st : Start) : Slot :=
  { x with a := nset 0 (nset 0 (nset 0 [] 0 st.a0) 1 st.a1) 2 st.a2, loops := [], ppc := 0, ended := false, moved := 0, rowsLeft := 0,
           gather := [], begun := true }

/-- A slot whose start ends (R242). -/
def Slot.finished (x : Slot) : Slot := { x with running := x.pending, pending := none, begun := false, ended := false, gather := [] }

theorem areg_starting (x : Slot) (st : Start) (n : Nat) :
    (x.starting st).areg n = if n = 2 then st.a2 else if n = 1 then st.a1 else if n = 0 then st.a0 else 0 := by
  simp only [Slot.starting, Slot.areg, nget_nset]
  rfl

section
variable {s : State} {c i : Nat} {st : Start} (hc : Unit.core c = true) (hi : Unit.slot i = true)
  (hrun : ((s.core c).slot i).running = some st) (hq : (s.core c).sq = [])
include hc hi hrun hq

theorem execStreamStartBegin_starting {p : StreamProg} (hb : ((s.core c).slot i).begun = false) (ha : s.epState st.epoch ≠ .aborting)
    (hp : s.streamProg st.prog = some p) (hw : s.startWaits c st = false) :
    exec (.streamStartBegin c i) s =
      .next (((s.pumped c).setCore c ((s.core c).setSlot i (((s.core c).slot i).starting st))).bump 0x04 c stStarts 1) := by
  obtain ⟨he, hpr, hst⟩ := startSees_pumped hq st
  show execStreamStartBegin c i s = _
  unfold execStreamStartBegin
  rw [hc, hi, Bool.and_self, onUnit_true]
  dsimp only
  rw [core_pumped hq, hrun]
  dsimp only
  rw [he, hb, if_neg (by simpa using ha), hpr, hp]
  dsimp only
  rw [hst, hw, if_neg Bool.false_ne_true]
  unfold Slot.starting
  rw [hrun]

theorem execStreamStartEnd_finished (hb : ((s.core c).slot i).begun = true) (he : ((s.core c).slot i).ended = true)
    (hw : (s.core c).slotStores i = false) :
    exec (.streamStartEnd c i) s =
      .next (((s.pumped c).setCore c ((s.core c).setSlot i ((s.core c).slot i).finished)).pumped c) := by
  show execStreamStartEnd c i s = _
  unfold execStreamStartEnd
  rw [hc, hi, Bool.and_self, onUnit_true]
  dsimp only
  rw [core_pumped hq, hrun, hb, he, hw]
  rfl

end

theorem streamStartBeginEnd_claim : Claim.StreamStartBeginEnd := by
  intro s c i st x hc hi hx hrun hq
  subst hx
  refine ⟨fun p hb ha hp hw => ?_, fun hb he hw => ?_⟩
  · refine ⟨_, _, execStreamStartBegin_starting hc hi hrun hq hb ha hp hw, (slotEffect_pumped hq i _).bump .., ?_⟩
    refine ⟨areg_starting .., areg_starting .., areg_starting .., fun n hn => ?_, rfl, rfl, rfl, rfl, rfl, rfl, rfl, hrun, rfl⟩
    rw [areg_starting, if_neg (by omega), if_neg (by omega), if_neg (by omega)]
  · have hs : (s.core c).slotStores i = false := by simpa [Core.slotStores] using hw
    exact ⟨_, _, execStreamStartEnd_finished hc hi hrun hq hb he hs, (slotEffect_pumped hq i _).pumped hq, rfl, rfl, rfl, rfl, rfl, rfl⟩

/-- Settles O18: the stream queue runs as far as its starts' slots have room, and an empty one lets each instruction through. -/
theorem streamSlots : Obligations.StreamSlots :=
  ⟨streamStart_claim, streamWaitPollCancel_claim, streamStartBeginEnd_claim⟩

end Sys2Proof.Machine
end

section
namespace Sys2Proof.Machine
open Sys2Proof

/-! ### Writes at their home bay (R84, R223, R476, R499) -/

/-- t is s after bytes were written to device memory from an offset on, through the bays: where no sector holds an error that the
controller would still correct, memory takes those bytes and no other, and no such error appears. -/
structure Lands (s t : State) (off : Nat) (bs : List Byte) : Prop where
  aside : t.aside = s.aside
  latent : s.noLatent → t.noLatent ∧ t.mem = wrBytes s.mem off bs

/-- Reads through the bays, then the bytes themselves. -/
theorem lands_memWrite {s t : State} (h : ReadOnly s t) (ha : t.aside = s.aside) (off : Nat) (bs : List Byte) :
    Lands s (t.memWrite off bs) off bs := by
  refine ⟨(memWrite_aside ..).trans ha, fun hn => ?_⟩
  obtain ⟨hl, hm⟩ := h.latent hn
  exact ⟨hl, congrArg (fun m => wrBytes m off bs) hm⟩

theorem Lands.after {s t u : State} {off : Nat} {bs : List Byte} (h : Lands t u off bs) (g : ReadOnly s t) (ha : t.aside = s.aside) :
    Lands s u off bs := by
  refine ⟨h.aside.trans ha, fun hn => ?_⟩
  obtain ⟨ht, hm⟩ := g.latent hn
  obtain ⟨hu, hmu⟩ := h.latent ht
  exact ⟨hu, by rw [hmu, hm]⟩

section
variable (s : State) (off : Nat) (bs : List Byte)

/-- A write that passes the bays, by the controller (R296). -/
theorem lands_hbmWrite : Lands s (s.hbmWrite off bs) off bs :=
  lands_memWrite (ReadOnly.foldl (fun (t : State) (x : Nat × Nat) => t.sectorPut x.1 x.2 false)
      (fun t x => readOnly_sectorPut t x.1 x.2 false) (s.sectorsIn off bs.length) s)
    (foldl_aside _ (fun t (x : Nat × Nat) => sectorPut_aside t x.1 x.2 false) _ s) off bs

/-- A present line takes the bytes (R223, R235). -/
theorem lands_putRuns (h : Nat) (l : Line) (writer : Option Nat) : Lands s (s.putRuns h l [(off, bs)] writer).1 off bs := by
  unfold State.putRuns
  extract_lets due other s1 s2
  have h1 : ReadOnly s s1 := (ReadOnly.refl s).setBay ..
  have h2 : ReadOnly s s2 := .ite h1 (h1.sill ..)
  have ha : s2.aside = s.aside := by
    unfold s2
    split <;> rfl
  exact lands_memWrite ((h2.bump ..).bump ..) ha off bs

theorem lands_alloc {t u : State} {h : Nat} {new : Line} {ok : Bool} (he : t.allocLine h new = (u, ok)) :
    ReadOnly t u ∧ u.aside = t.aside := by
  have hr := readOnly_allocLine t h new
  rw [he] at hr
  exact ⟨hr, aside_of_alloc he⟩

/-- A write to one line at its home bay (R223). -/
theorem lands_lineRuns (ln cls : Nat) (writer : Option Nat) : Lands s (s.lineRuns ln [(off, bs)] cls writer).1 off bs := by
  unfold State.lineRuns
  extract_lets h pass
  split
  · next l _ =>
    exact (lands_putRuns _ off bs h l writer).after (((ReadOnly.refl s).bump ..).trans (readOnly_hitLine ..)) (hitLine_aside ..)
  · split_ifs
    · split
      · next s1 he =>
        obtain ⟨hr, ha⟩ := lands_alloc he
        exact (lands_putRuns s1 off bs h _ writer).after hr ha
      · next s1 he =>
        obtain ⟨hr, ha⟩ := lands_alloc he
        exact (lands_hbmWrite s1 off bs).after hr ha
    · have hf : ReadOnly s ((s.hbmFetch ln 128).1.farBeats h 2) := (readOnly_hbmFetch s ln 128).bump ..
      have hfa : ((s.hbmFetch ln 128).1.farBeats h 2).aside = s.aside := hbmFetch_aside ..
      split
      · next s1 he =>
        obtain ⟨hr, ha⟩ := lands_alloc he
        exact (lands_putRuns s1 off bs h _ writer).after (hf.trans hr) (ha.trans hfa)
      · next s1 he =>
        obtain ⟨hr, ha⟩ := lands_alloc he
        exact (lands_hbmWrite s1 off bs).after (hf.trans hr) (ha.trans hfa)
    · exact lands_hbmWrite s off bs

end

/-! ### A write of several lines -/

/-- The bytes written from an offset on as far as they lie in the first k lines, over what was there. -/
def laidLines (m : Nat → Byte) (off : Nat) (bs : List Byte) (k a : Nat) : Byte :=
  if off ≤ a ∧ a < off + bs.length ∧ a / 128 < off / 128 + k then bs.getD (a - off) 0 else m a

/-- The part of written bytes that lies in one line. -/
theorem laidOver_partIn (m : Nat → Byte) (off : Nat) (bs : List Byte) (q a : Nat) :
    laidOver m (partIn (q * 128) 128 off bs).1 (partIn (q * 128) 128 off bs).2 a =
      if off ≤ a ∧ a < off + bs.length ∧ a / 128 = q then bs.getD (a - off) 0 else m a := by
  unfold laidOver partIn
  by_cases hq : off < q * 128
  · rw [if_pos hq]
    simp only [List.length_take, List.length_drop]
    by_cases ha : off ≤ a ∧ a < off + bs.length ∧ a / 128 = q
    · have hin : q * 128 ≤ a ∧ a < q * 128 + min 128 (bs.length - (q * 128 - off)) := by omega
      have hd : q * 128 - off + (a - q * 128) = a - off := by omega
      rw [if_pos hin, if_pos ha, List.getD_eq_getElem?_getD, List.getD_eq_getElem?_getD, List.getElem?_take_of_lt (by omega),
        List.getElem?_drop, hd]
    · rw [if_neg ha, if_neg (by omega)]
  · rw [if_neg hq]
    simp only [List.length_take]
    by_cases ha : off ≤ a ∧ a < off + bs.length ∧ a / 128 = q
    · rw [if_pos (by omega), if_pos ha, List.getD_eq_getElem?_getD, List.getD_eq_getElem?_getD, List.getElem?_take_of_lt (by omega)]
    · rw [if_neg ha, if_neg (by omega)]

theorem laidLines_succ (m : Nat → Byte) (off : Nat) (bs : List Byte) (k a : Nat) :
    laidOver (laidLines m off bs k) (partIn ((off / 128 + k) * 128) 128 off bs).1 (partIn ((off / 128 + k) * 128) 128 off bs).2 a =
      laidLines m off bs (k + 1) a := by
  rw [laidOver_partIn]
  unfold laidLines
  by_cases h : off ≤ a ∧ a < off + bs.length ∧ a / 128 = off / 128 + k
  · rw [if_pos h, if_pos (by omega)]
  · rw [if_neg h]
    by_cases h' : off ≤ a ∧ a < off + bs.length ∧ a / 128 < off / 128 + k
    · rw [if_pos h', if_pos (by omega)]
    · rw [if_neg h', if_neg (by omega)]

/-- Bytes written line by line from an offset on have all landed once every line they touch is done. -/
theorem laidLines_all (m : Nat → Byte) (off : Nat) (bs : List Byte) (a : Nat) :
    laidLines m off bs ((off + bs.length - 1) / 128 - off / 128 + 1) a = laidOver m off bs a := by
  unfold laidLines laidOver
  by_cases h : off ≤ a ∧ a < off + bs.length
  · rw [if_pos h, if_pos (by omega)]
  · rw [if_neg h, if_neg (by omega)]

/-- t is s after bytes landed in device memory through the bays, as far as memory shows. -/
structure Laid (s t : State) (m : Nat → Byte) : Prop where
  aside : t.aside = s.aside
  latent : s.noLatent → t.noLatent ∧ ∀ a, nget 0 t.mem a = m a

/-- One step of a write: the part of the bytes that lies in one line (R223). -/
def State.lineStep (off : Nat) (bs : List Byte) (cls : Nat) (writer : Option Nat) (acc : State × List Nat) (b : Nat) : State × List Nat :=
  let x := partIn b 128 off bs
  let r := acc.1.lineWrite x.1 x.2 cls writer
  (r.1, if r.2 then acc.2 ++ [b] else acc.2)

theorem laid_lines (s : State) (off : Nat) (bs : List Byte) (cls : Nat) (writer : Option Nat) (k : Nat) :
    Laid s ((((List.range k).map fun i => (off / 128 + i) * 128).foldl (State.lineStep off bs cls writer) (s, [])).1)
      (laidLines (nget 0 s.mem) off bs k) := by
  induction k with
  | zero => exact ⟨rfl, fun hn => ⟨hn, fun a => by rw [laidLines, if_neg (by omega)]; rfl⟩⟩
  | succ k ih =>
    rw [List.range_succ, List.map_append, List.foldl_append]
    generalize ((List.range k).map fun i => (off / 128 + i) * 128).foldl (State.lineStep off bs cls writer) (s, []) = acc at ih ⊢
    obtain ⟨ha, hl⟩ := lands_lineRuns acc.1 (partIn ((off / 128 + k) * 128) 128 off bs).1 (partIn ((off / 128 + k) * 128) 128 off bs).2
      (lineOf (partIn ((off / 128 + k) * 128) 128 off bs).1) cls writer
    refine ⟨ha.trans ih.aside, fun hn => ?_⟩
    obtain ⟨hn', hm⟩ := ih.latent hn
    obtain ⟨hn'', hm'⟩ := hl hn'
    refine ⟨hn'', fun a => ?_⟩
    rw [← laidLines_succ, ← funext hm]
    exact (congrArg (fun m => nget 0 m a) hm').trans (nget_wrBytes ..)

/-- A write at its home bays: every byte it covers takes its value and no other changes (R223). -/
theorem laid_homeWriteBy (s : State) (off : Nat) (bs : List Byte) (cls : Nat) (writer : Option Nat) :
    Laid s (s.homeWriteBy off bs cls writer).1 (laidOver (nget 0 s.mem) off bs) := by
  show Laid s ((blocksOf 128 off bs.length).foldl (State.lineStep off bs cls writer) (s, [])).1 _
  unfold blocksOf
  by_cases h : bs.length = 0
  · rw [if_pos h]
    exact ⟨rfl, fun hn => ⟨hn, fun a => by rw [laidOver, if_neg (by omega)]; rfl⟩⟩
  · rw [if_neg h, ← funext (laidLines_all (nget 0 s.mem) off bs)]
    exact laid_lines s off bs cls writer _

end Sys2Proof.Machine
end

section
namespace Sys2Proof.Machine
open Sys2Proof

/-! ### What the memory system leaves alone

The controllers, the bays and the engines of the near-bank stacks change bytes, check bytes, lines, steps, counters, records and the
next open value: not the partition controllers, the writes on their way or the control registers. -/

/-- Partition controllers, writes on their way, control registers and the ordering code. -/
def State.hush (s : State) : NMap Part × List Store × NMap W64 × Bool := (s.parts, s.writes, s.ctl, s.wca1608)

@[simp] theorem hush_ite (c : Prop) [Decidable c] (a b : State) : (if c then a else b).hush = if c then a.hush else b.hush := apply_ite ..

theorem foldl_hush {α : Type} (f : State → α → State) (h : ∀ t a, (f t a).hush = t.hush) (l : List α) (s : State) :
    (l.foldl f s).hush = s.hush := List.foldlRecOn (motive := fun t : State => t.hush = s.hush) l f rfl fun _ ht a _ => (h _ a).trans ht

theorem foldl_fst_hush {α β : Type} (f : State × β → α → State × β) (h : ∀ x a, (f x a).1.hush = x.1.hush)
    (l : List α) (x : State × β) : (l.foldl f x).1.hush = x.1.hush :=
  List.foldlRecOn (motive := fun y : State × β => y.1.hush = x.1.hush) l f rfl fun _ hy a _ => (h _ a).trans hy

section
variable (s : State)

@[simp] theorem bump_hush (fam unit pos n : Nat) : (s.bump fam unit pos n).hush = s.hush := rfl
@[simp] theorem hbmCount_hush (off pos n : Nat) : (s.hbmCount off pos n).hush = s.hush := rfl
@[simp] theorem sill_hush (bay pos n : Nat) : (s.sill bay pos n).hush = s.hush := rfl
@[simp] theorem sillC_hush (bay pos cls n : Nat) : (s.sillC bay pos cls n).hush = s.hush := rfl
@[simp] theorem farBeats_hush (bay n : Nat) : (s.farBeats bay n).hush = s.hush := rfl
@[simp] theorem setBay_hush (n : Nat) (b : Bay) : (s.setBay n b).hush = s.hush := rfl
@[simp] theorem nbCount_hush (st pos n : Nat) : (s.nbCount st pos n).hush = s.hush := rfl
@[simp] theorem setNb_hush (st : Nat) (x : NbStack) : (s.setNb st x).hush = s.hush := rfl
@[simp] theorem setChk_hush (off : Nat) (v : W32) : (s.setChk off v).hush = s.hush := rfl
@[simp] theorem memWrite_hush (off : Nat) (bs : List Byte) : (s.memWrite off bs).hush = s.hush := rfl
@[simp] theorem drew_hush : s.drew.hush = s.hush := rfl
@[simp] theorem logEv_hush (kind num : Nat) : (s.logEv kind num).hush = s.hush := rfl

/-! The controllers -/

@[simp] theorem hbmPut_hush (off : Nat) (v : Byte) : (s.hbmPut off v).hush = s.hush := by
  unfold State.hbmPut
  dsimp only
  split
  · split <;> rfl
  · rfl

@[simp] theorem hbmFlip_hush (off : Nat) (x : Byte) : (s.hbmFlip off x).hush = s.hush := by
  unfold State.hbmFlip
  split
  · rfl
  · exact hbmPut_hush ..

@[simp] theorem sectorRead_hush (off : Nat) : (s.sectorRead off).1.hush = s.hush := by
  unfold State.sectorRead
  dsimp only
  split
  · rfl
  · split <;> simp

@[simp] theorem sectorPut_hush (off n : Nat) (poison : Bool) : (s.sectorPut off n poison).hush = s.hush := by
  simp [State.sectorPut]

@[simp] theorem hbmFetch_hush (off n : Nat) : (s.hbmFetch off n).1.hush = s.hush := by
  unfold State.hbmFetch
  refine foldl_fst_hush _ (fun x a => ?_) _ _
  exact sectorRead_hush ..

@[simp] theorem hbmWrite_hush (off : Nat) (bs : List Byte) : (s.hbmWrite off bs).hush = s.hush := by
  unfold State.hbmWrite
  rw [memWrite_hush]
  exact foldl_hush _ (fun t (x : Nat × Nat) => sectorPut_hush t x.1 x.2 false) _ s

/-! The lines of the bays -/

@[simp] theorem unmark_hush (bay : Nat) (l : Line) : (s.unmark bay l).hush = s.hush := by simp [State.unmark]

@[simp] theorem writeBack_hush (bay : Nat) (l : Line) : (s.writeBack bay l).hush = s.hush := by
  unfold State.writeBack
  split
  · rfl
  · exact foldl_hush _ (fun t (x : Nat × Nat) => sectorPut_hush t x.1 x.2 _) _ s

@[simp] theorem flushLine_hush (bay : Nat) (l : Line) : (s.flushLine bay l).hush = s.hush := by simp [State.flushLine]

@[simp] theorem dropLine_hush (bay : Nat) (l : Line) : (s.dropLine bay l).hush = s.hush := by
  unfold State.dropLine
  dsimp only
  split <;> exact unmark_hush s bay l

@[simp] theorem dropCopiesOf_hush (ln : Nat) (p : Nat → Bool) : (s.dropCopiesOf ln p).hush = s.hush := by
  refine foldl_hush _ (fun t e => ?_) s.bays s
  split <;> simp

@[simp] theorem evictLine_hush (bay : Nat) (l : Line) : (s.evictLine bay l).hush = s.hush := by simp [State.evictLine]

@[simp] theorem makeRoom_hush (bay : Nat) (v : Option Line) : (s.makeRoom bay v).hush = s.hush := by
  cases v with
  | none => rfl
  | some l => exact evictLine_hush s bay l

@[simp] theorem allocLine_hush (bay : Nat) (new : Line) : (s.allocLine bay new).1.hush = s.hush := by
  unfold State.allocLine
  split <;> simp

theorem hush_of_alloc {t u : State} {bay : Nat} {new : Line} {ok : Bool} (h : t.allocLine bay new = (u, ok)) : u.hush = t.hush := by
  simpa [h] using allocLine_hush t bay new

@[simp] theorem hitLine_hush (bay : Nat) (l : Line) (cls : Nat) : (s.hitLine bay l cls).hush = s.hush := by simp [State.hitLine]

@[simp] theorem putRuns_hush (h : Nat) (l : Line) (runs : List (Nat × List Byte)) (writer : Option Nat) :
    (s.putRuns h l runs writer).1.hush = s.hush := by
  unfold State.putRuns
  extract_lets due other s1 s2
  refine (foldl_hush _ (fun t r => ?_) runs s2).trans ?_
  · rfl
  · unfold s2 s1
    split <;> rfl

@[simp] theorem lineRuns_hush (ln : Nat) (runs : List (Nat × List Byte)) (cls : Nat) (writer : Option Nat) :
    (s.lineRuns ln runs cls writer).1.hush = s.hush := by
  have pass (t : State) : (runs.foldl (fun (x : State) r => x.hbmWrite r.1 r.2) t).hush = t.hush :=
    foldl_hush _ (fun x r => hbmWrite_hush x ..) runs t
  unfold State.lineRuns
  dsimp only
  split
  · simp
  · split_ifs
    · split <;> next e => simp [hush_of_alloc e, pass]
    · split <;> next e => simp [hush_of_alloc e, pass]
    · exact pass s

@[simp] theorem homeWriteBy_hush (off : Nat) (bs : List Byte) (cls : Nat) (writer : Option Nat) :
    (s.homeWriteBy off bs cls writer).1.hush = s.hush := by
  unfold State.homeWriteBy
  refine foldl_fst_hush _ (fun x b => ?_) _ _
  exact lineRuns_hush ..

@[simp] theorem fillLine_hush (bay ln cls : Nat) (mark force : Bool) : (s.fillLine bay ln cls mark force).1.hush = s.hush := by
  have h1 : (if s.kindIn bay ln = .home then (s.hbmFetch ln 128).1 else s).hush = s.hush := by simp
  unfold State.fillLine
  extract_lets kind s1 r
  have h1 : s1.hush = s.hush := h1
  have hr : r.1.hush = s.hush := (allocLine_hush ..).trans h1
  split
  · rw [sill_hush]
    exact h1
  · rw [hush_ite, farBeats_hush, ite_self]
    exact hr

@[simp] theorem readAt_hush (bay ln cls : Nat) {fill : State → State} (hf : ∀ t, (fill t).hush = t.hush) :
    (s.readAt bay ln cls fill).hush = s.hush := by
  unfold State.readAt
  dsimp only
  rw [farBeats_hush]
  split
  · simp
  · split
    · rfl
    · rw [fillLine_hush, hf]
      split <;> rfl

@[simp] theorem pinFill_hush (bay ln cls : Nat) : (s.pinFill bay ln cls).1.hush = s.hush := by
  unfold State.pinFill
  dsimp only
  rw [fillLine_hush]
  split
  · rfl
  · exact readAt_hush _ _ _ _ fun _ => rfl

/-! The engines of the near-bank stacks -/

@[simp] theorem fetchSectors_hush (offs : List Nat) : (s.fetchSectors offs).1.hush = s.hush := by
  unfold State.fetchSectors
  refine foldl_fst_hush _ (fun x k => ?_) _ _
  exact sectorRead_hush ..

@[simp] theorem nbLoad_hush (st : Nat) (o : NbOp) (act : Tensor) (kk : Nat) (toks : List Nat) : (s.nbLoad st o act kk toks).hush = s.hush := by
  refine foldl_hush _ (fun t b => ?_) _ s
  unfold State.nbLoadRow
  split
  · rfl
  · exact hbmFetch_hush ..

@[simp] theorem nbRow_hush (st : Nat) (o : NbOp) (w act out : Tensor) (toks : List Nat) (r : Nat) :
    (s.nbRow st o w act out toks r).hush = s.hush :=
  foldl_hush _ (fun t _ => foldl_hush _ (fun u _ => hbmPut_hush u ..) _ t.drew) toks s

@[simp] theorem nbSector_hush (st : Nat) (o : NbOp) (w act out : Tensor) (toks rows : List Nat) (dirty : Bool) :
    (s.nbSector st o w act out toks rows dirty).1.hush = s.hush := by
  unfold State.nbSector
  extract_lets oo whole r s1 s2
  have hr : r.1.hush = s.hush := by
    unfold r
    split
    · rfl
    · exact sectorRead_hush ..
  have h1 : s1.hush = s.hush := by
    unfold s1
    rw [hush_ite, nbCount_hush, ite_self]
    exact hr
  have h2 : s2.hush = s.hush := by
    unfold s2
    rw [hbmCount_hush]
    exact (foldl_hush _ (fun t i => nbRow_hush t ..) rows s1).trans h1
  rw [hush_ite, hbmCount_hush, setChk_hush, setChk_hush, ite_self]
  exact h2

@[simp] theorem nbRun_hush (st : Nat) (o : NbOp) (w act out : Tensor) (toks rows : List Nat) (dirty : Bool) :
    (s.nbRun st o w act out toks rows dirty).1.hush = s.hush := by
  unfold State.nbRun
  extract_lets kk wb parts f bad actBad inv s1 key
  have hf : f.1.hush = s.hush := fetchSectors_hush ..
  have h1 : s1.hush = s.hush := by
    unfold s1
    rw [nbCount_hush, nbCount_hush, hush_ite, bump_hush, ite_self]
    exact hf
  refine (foldl_fst_hush _ (fun x k => ?_) _ _).trans h1
  exact nbSector_hush ..

@[simp] theorem nbStep_hush (st ch : Nat) (k : Kick) (q : NbSeq) (limit fuel op row used : Nat) (bad : Bool) :
    (nbStep st ch k q limit fuel op row used s bad).1.hush = s.hush := by
  induction fuel generalizing op row used s bad with
  | zero => rfl
  | succ fuel ih =>
    rw [nbStep]
    split
    · rfl
    · split
      · rfl
      · split
        · extract_lets toks rows kk wb cost fits upTo todo x r
          split
          · exact ih ..
          · have hr : r.1.hush = s.hush := by
              unfold r
              split
              · rfl
              · exact (nbRun_hush ..).trans (nbLoad_hush ..)
            clear_value r
            split
            · exact hr
            · exact (ih ..).trans hr
        · exact ih ..

theorem refreshAll_hush (unit : Nat) : (s.refreshAll unit).hush = s.hush := rfl

@[simp] theorem nbFinish_hush (st : Nat) : (s.nbFinish st).1.hush = s.hush := by
  refine foldl_fst_hush _ (fun x ch => ?_) _ _
  unfold State.nbEndStep
  split
  · rfl
  · split
    · rfl
    · dsimp only
      split
      · rfl
      · refine (refreshAll_hush ..).trans ((nbStep_hush ..).trans ?_)
        split <;> rfl

end

end Sys2Proof.Machine
end

section
namespace Sys2Proof.Machine
open Sys2Proof

theorem readOnly_noteWrite (s : State) (owner off : Nat) (bs : List Byte) : ReadOnly s (s.noteWrite owner off bs) := by
  unfold State.noteWrite
  split
  · exact .refl s
  · split
    · exact ⟨rfl, rfl, rfl, fun hn => ⟨hn, rfl⟩⟩
    · exact .refl s

theorem remoteHits_spec (s : State) (c ln n cls : Nat) :
    ReadOnly s (s.remoteHits c ln n cls) ∧ (s.remoteHits c ln n cls).aside = s.aside := by
  unfold State.remoteHits
  refine List.foldlRecOn (motive := fun t => ReadOnly s t ∧ t.aside = s.aside) _ _ ⟨.refl s, rfl⟩ fun t ht b _ => ?_
  obtain ⟨h, ha⟩ := ht
  split
  · next l _ =>
    split
    · exact ⟨((h.bump ..).trans (readOnly_hitLine ..)).sill .., (hitLine_aside ..).trans ha⟩
    · exact ⟨h, ha⟩
  · exact ⟨h, ha⟩

/-- A write that nothing holds up at its home partition, open and awake, with no fill of its lines pending (R223, R476, R499). -/
structure LandsNow (s : State) (w : Store) : Prop where
  here : w.addr / 2 ^ 44 = s.moduleId
  open_ : s.doorAt (w.addr % 2 ^ 44) = false
  first : s.backed (w.addr % 2 ^ 44) = true
  last : s.backed (w.addr % 2 ^ 44 + w.bytes.length - 1) = true
  awake : s.asleep (partOfOff (w.addr % 2 ^ 44)) = false

theorem landOrdinary_waits {s : State} {w : Store} (h : LandsNow s w) (hf : s.fillPending (w.addr % 2 ^ 44) w.bytes.length = true)
    (core : Bool) : s.landOrdinary w core = none := by
  unfold State.landOrdinary
  rw [if_neg (not_not.2 h.here)]
  dsimp only
  rw [h.open_, h.first, h.last, h.awake, hf]
  rfl

/-- A write lands: device memory takes its bytes, and nothing else of the state but bays, counters and records changes. -/
theorem landOrdinary_lands {s : State} {w : Store} (h : LandsNow s w) (hf : s.fillPending (w.addr % 2 ^ 44) w.bytes.length = false)
    (core : Bool) : ∃ t, s.landOrdinary w core = some t ∧ Laid s t (laidOver (nget 0 s.mem) (w.addr % 2 ^ 44) w.bytes) := by
  unfold State.landOrdinary
  rw [if_neg (not_not.2 h.here)]
  dsimp only
  rw [h.open_, h.first, h.last, h.awake, hf]
  simp only [Bool.and_false, Bool.not_true, Bool.or_false, Bool.false_eq_true, if_false]
  generalize hs1 : (if core = true ∧ (s.core w.core).run ≠ 0 then
    s.noteWrite (ownerRun ((s.core w.core).run - 1)) (w.addr % 2 ^ 44) w.bytes else s) = s1
  generalize hs2 : (if core = true then s1.remoteHits w.core (w.addr % 2 ^ 44) w.bytes.length w.cls else s1) = s2
  have h1 : ReadOnly s s1 ∧ s1.aside = s.aside := by
    subst hs1
    split
    · exact ⟨readOnly_noteWrite .., noteWrite_aside ..⟩
    · exact ⟨.refl s, rfl⟩
  have h2 : ReadOnly s s2 ∧ s2.aside = s.aside := by
    subst hs2
    split
    · obtain ⟨hr, ha⟩ := remoteHits_spec s1 w.core (w.addr % 2 ^ 44) w.bytes.length w.cls
      exact ⟨h1.1.trans hr, ha.trans h1.2⟩
    · exact h1
  have hlaid (writer : Option Nat) : Laid s (s2.homeWriteBy (w.addr % 2 ^ 44) w.bytes w.cls writer).1
      (laidOver (nget 0 s.mem) (w.addr % 2 ^ 44) w.bytes) := by
    obtain ⟨ha, hl⟩ := laid_homeWriteBy s2 (w.addr % 2 ^ 44) w.bytes w.cls writer
    refine ⟨ha.trans h2.2, fun hn => ?_⟩
    obtain ⟨hn2, hm2⟩ := h2.1.latent hn
    rw [← hm2]
    exact hl hn2
  refine ⟨_, rfl, ?_⟩
  split
  · exact ⟨(hlaid _).aside, (hlaid _).latent⟩
  · exact hlaid none

/-- A write of another master leaves the writes behind it waiting. -/
theorem landOrdinary_writes {s t : State} {w : Store} (h : LandsNow s w) (ht : s.landOrdinary w false = some t) : t.writes = s.writes := by
  unfold State.landOrdinary at ht
  rw [if_neg (not_not.2 h.here)] at ht
  dsimp only at ht
  rw [h.open_, h.first, h.last, h.awake] at ht
  simp only [Bool.and_false, Bool.not_true, Bool.or_false, Bool.false_eq_true, if_false, Bool.false_or, false_and] at ht
  split at ht
  · cases ht
  · rw [← Option.some.inj ht]
    have h1 := congrArg (fun x : NMap Part × List Store × NMap W64 × Bool => x.2.1) (homeWriteBy_hush s (w.addr % 2 ^ 44) w.bytes w.cls none)
    exact h1

section
variable {s : State} {w : Store} {r : List Store}

theorem writeWake_awake (h : LandsNow s w) : s.writeWake w = s := by
  unfold State.writeWake
  rw [h.awake]
  exact if_neg fun e => Bool.false_ne_true e.2

theorem execHomeBayWrite_core {c : Nat} (h : LandsNow s w) (hu : Unit.core c = true) (hs : (s.core c).stores = w :: r)
    (he : w.epoch = 0) (hf : s.fillPending (w.addr % 2 ^ 44) w.bytes.length = false) :
    ∃ t, exec (.homeBayWrite (.core c)) s = .next t ∧ (s.noLatent → ∀ a, nget 0 t.mem a = laidOver (nget 0 s.mem) (w.addr % 2 ^ 44) w.bytes a) ∧
      (t.core c).stores = r ∧ { t.core c with stores := (s.core c).stores } = s.core c ∧ (∀ x, x ≠ c → t.core x = s.core x) := by
  have hnow : LandsNow (s.modCore c fun k => { k with stores := r }) w := ⟨h.here, h.open_, h.first, h.last, h.awake⟩
  obtain ⟨t, ht, ha, hm⟩ := landOrdinary_lands hnow hf true
  have hexec : exec (.homeBayWrite (.core c)) s = .next t := by
    show onUnit (Unit.core c) (homeBayWrite (.core c) s) = _
    rw [hu, onUnit_true]
    unfold homeBayWrite
    dsimp only
    rw [hs]
    dsimp only
    rw [State.landStore, if_neg (by rw [he]; simp), if_pos (by rw [he]; rfl), ht]
  have hk := fun x => core_of_aside ha x
  refine ⟨t, hexec, fun hn => (hm hn).2, ?_, ?_, fun x hx => ?_⟩
  · rw [hk, State.core_modCore_same]
  · rw [hk, State.core_modCore_same]
  · rw [hk, State.core_modCore_ne _ _ hx]

theorem execHomeBayWrite_core_waits {c : Nat} (h : LandsNow s w) (hu : Unit.core c = true) (hs : (s.core c).stores = w :: r)
    (he : w.epoch = 0) (hf : s.fillPending (w.addr % 2 ^ 44) w.bytes.length = true) : exec (.homeBayWrite (.core c)) s = .next s := by
  have hnow : LandsNow (s.modCore c fun k => { k with stores := r }) w := ⟨h.here, h.open_, h.first, h.last, h.awake⟩
  show onUnit (Unit.core c) (homeBayWrite (.core c) s) = _
  rw [hu, onUnit_true]
  unfold homeBayWrite
  dsimp only
  rw [hs]
  dsimp only
  rw [State.landStore, if_neg (by rw [he]; simp), if_pos (by rw [he]; rfl), landOrdinary_waits hnow hf true]
  exact congrArg _ (writeWake_awake h)

theorem execHomeBayWrite_queued (h : LandsNow s w) (hs : s.writes = w :: r) (hf : s.fillPending (w.addr % 2 ^ 44) w.bytes.length = false) :
    ∃ t, exec (.homeBayWrite .queued) s = .next t ∧ (s.noLatent → ∀ a, nget 0 t.mem a = laidOver (nget 0 s.mem) (w.addr % 2 ^ 44) w.bytes a) ∧
      t.writes = r ∧ t.cores = s.cores := by
  have hnow : LandsNow { s with writes := r } w := ⟨h.here, h.open_, h.first, h.last, h.awake⟩
  obtain ⟨t, ht, ha, hm⟩ := landOrdinary_lands hnow hf false
  refine ⟨t, ?_, fun hn => (hm hn).2, landOrdinary_writes hnow ht, congrArg (fun x => x.1.1) ha⟩
  show onUnit true (homeBayWrite .queued s) = _
  rw [onUnit_true]
  unfold homeBayWrite
  dsimp only
  rw [hs]
  dsimp only
  rw [ht]

end

theorem homeBayWrites_claim : Claim.HomeBayWrites := by
  intro s w r off hm ho hd h1 h2
  subst ho
  refine ⟨fun c hu hs _ he => ⟨fun ha hf => ?_, fun hf ha => ?_⟩, fun hs ha hf => ?_⟩
  · exact execHomeBayWrite_core ⟨hm, hd, h1, h2, ha⟩ hu hs he hf
  · exact execHomeBayWrite_core_waits ⟨hm, hd, h1, h2, ha⟩ hu hs he hf
  · exact execHomeBayWrite_queued ⟨hm, hd, h1, h2, ha⟩ hs hf

/-! ### Invalidations (R223, R235) -/

theorem find_drop (b : Bay) (line : Nat) : (b.drop line).find line = none := by
  simp [Bay.drop, Bay.find]

theorem find_modLine {b : Bay} {line : Nat} {f : Line → Line} {l : Line} (h : (b.modLine line f).find line = some l)
    (hf : ∀ x, (f x).line = x.line) : ∃ x, b.find line = some x ∧ l = f x := by
  unfold Bay.modLine Bay.find at h
  dsimp only at h
  rw [find?_updFirst_same (p := fun x : Line => x.line == line) (f := f) fun x hx => by rw [hf]; exact hx] at h
  obtain ⟨x, hx, rfl⟩ := Option.map_eq_some_iff.1 h
  exact ⟨x, hx, rfl⟩

theorem unmark_bay (s : State) (bay : Nat) (l : Line) (n : Nat) : (s.unmark bay l).bay n = s.bay n := by
  unfold State.unmark
  split <;> rfl

theorem unmark_rest (s : State) (bay : Nat) (l : Line) : { s.unmark bay l with bays := s.bays, ctr := s.ctr } = s := by
  unfold State.unmark
  split <;> rfl

/-- A home line of which every acknowledgement is in (R223, R235). -/
def State.acked (s : State) (bay ln : Nat) : State :=
  { s.setBay bay ((s.bay bay).modLine ln fun x => { x with acks := 0, spared := [] }) with
    vis := s.vis.filter fun v => !(v.bay == bay && v.line == ln) }

theorem acked_bay (s : State) (bay ln : Nat) :
    (s.acked bay ln).bay bay = (s.bay bay).modLine ln fun x => { x with acks := 0, spared := [] } :=
  State.bay_setBay_same ..

theorem invalidations_claim : Claim.Invalidations := by
  intro s bay line l hu hl
  refine ⟨fun hk => ?_, fun hk => ?_, fun hk ha hb => ?_⟩
  · refine ⟨(s.unmark bay l).setBay bay (((s.unmark bay l).bay bay).drop (lineOf line)), ?_, ?_, fun n hn => ?_, ?_⟩
    · show execInvalidationArrival bay line s = _
      unfold execInvalidationArrival
      rw [hu, onUnit_true]
      dsimp only
      rw [hl]
      exact congrArg _ (if_neg hk)
    · rw [State.bay_setBay_same, find_drop]
    · rw [State.bay_setBay_ne _ _ hn, unmark_bay]
    · exact unmark_rest s bay l
  · show execInvalidationArrival bay line s = _
    unfold execInvalidationArrival
    rw [hu, onUnit_true]
    dsimp only
    rw [hl]
    exact congrArg _ (if_pos hk)
  · have hnone : s.bays.any (fun e => e.1 / 672 != bay / 672 && !l.spared.contains e.1 && (e.2.find (lineOf line)).isSome) = false := by
      rw [List.any_eq_false]
      intro e he hc
      simp only [Bool.and_eq_true, bne_iff_ne, ne_eq, Bool.not_eq_true', List.contains_eq_mem, decide_eq_false_iff_not] at hc
      rw [hb e he hc.1.1 hc.1.2] at hc
      exact Bool.false_ne_true hc.2
    refine ⟨s.acked bay (lineOf line), ?_, fun l' hl' => ?_, fun v => ?_, rfl⟩
    · show execInvalidationAcksComplete bay line s = _
      unfold execInvalidationAcksComplete
      rw [hu, onUnit_true]
      dsimp only
      rw [hl]
      exact congrArg _ (if_neg (by rw [hnone]; simp [ha, hk]))
    · rw [acked_bay] at hl'
      obtain ⟨x, -, rfl⟩ := find_modLine hl' fun _ => rfl
      rfl
    · simp only [State.acked, List.mem_filter, Bool.not_eq_true', Bool.and_eq_false_iff, beq_eq_false_iff_ne, not_and_or, ne_eq]

/-- Settles O25: a write lands line by line at its home bays, and an invalidation takes copies alone. -/
theorem homeWrites : Obligations.HomeWrites := ⟨homeBayWrites_claim, invalidations_claim⟩

end Sys2Proof.Machine
end

section
namespace Sys2Proof.Machine
open Sys2Proof

/-! ### A completion with a hidden row of a core (O34)

The clause on completion speaks of the cores that `State.coresOf` lists, from every row of `State.cores`, while a core reads as its
first row. Clearing the queues of a thin path's proxies (R308, R324) writes the first row alone back, and so drops the second
one: the core is then none of the run's, and does not leave it. -/

/-- A phase whose thin path has virtual core 0 as a proxy. -/
def proxyPhase : Phase :=
  { id := 0, partMask := 0, thinMax := 1, hasThin := true, bound := [], rowMode := [], vcs := [], proxies := [some 0], seqs := [] }

/-- An image of that phase. -/
def proxyImage : Image :=
  { buildId := [], digest := [], vcores := 1, steps := 0, tensors := [], tables := [], tableBytes := [], streams := [], phases := [proxyPhase],
    programs := [], codeBase := 0, codeLen := 0, thinRequired := false }

/-- A running thin-path run of the phase, without a result. -/
def proxyRun : Run :=
  { id := 0, cmd := 0, fn := 0, tag := 0, phase := 0, batch := 1, seed := 0, bindings := [], timeoutMs := 0, holdLimit := 0, spec := false,
    st := .running, thin := true }

/-- The run's command. -/
def proxyCmd : Cmd := { id := 0, fn := 0, entry := [0x20], started := true }

/-- Core 0 reads as a core of run 4, and a second row of it belongs to run 0. -/
def hiddenCore : State :=
  { State.reset with
    cores := [(0, { run := 5 }), (0, { run := 1 })], runs := [proxyRun], cmds := [proxyCmd],
    img := { image := some proxyImage, place := [(0, 1)] } }

theorem hiddenCore_coresOf : hiddenCore.coresOf 0 = [0] := by decide +kernel

theorem hiddenCore_kept : ((runCompletion 0 hiddenCore).core 0).run = 5 := by decide +kernel

theorem exec_runCompletion (id : Nat) (s : State) : exec (.runCompletion id) s = .next (runCompletion id s) := rfl

theorem not_runCompletes : ¬ Claim.RunCompletes := by
  intro h
  obtain ⟨hdone, -⟩ := h hiddenCore 0 proxyRun proxyCmd rfl rfl
  obtain ⟨u, t, he, ht, -, -, -, -, -, hleft⟩ := hdone rfl rfl (by decide +kernel) (by decide +kernel) (by decide +kernel)
    (fun st k hk => nomatch (show (none : Option Kick) = some k from hk)) rfl [] rfl
  obtain ⟨hrun, -⟩ := hleft 0 (by rw [hiddenCore_coresOf]; exact List.mem_singleton.2 rfl)
  have hu : t.core 0 = u.core 0 := by
    rw [ht]
    exact State.core_congr (complete_cores ..) 0
  have hk : (t.core 0).run = 5 := by
    rw [exec_runCompletion] at he
    rw [← Host.Outcome.next.inj he]
    exact hiddenCore_kept
  rw [hu, hrun] at hk
  exact absurd hk (by decide)

/-- Refutes O34: a core that the run lists by a second row, which no read shows, keeps the run of its first row. -/
theorem not_runEnds : ¬ Obligations.RunEnds := fun h => not_runCompletes h.1

end Sys2Proof.Machine
end

section
namespace Sys2Proof.Machine
open Sys2Proof

/-! ### The core reset (R95, R503, R504, R505) -/

/-- A core without its stream slots. -/
def Core.unslotted (k : Core) : Core := { k with slots := [] }

/-- A core without the mark that its scratchpad is to be zeroed. -/
def Core.unwiped (k : Core) : Core := { k with wipe := false }

theorem coresOnly_refl (s : State) : CoresOnly s s := ⟨s.cores, s.ctr, rfl⟩

/-- The generations of a core's slots advance: nothing else changes but counters (R256). -/
theorem advanceSlots_spec (s : State) (c : Nat) (p : Slot → Bool) :
    ((s.advanceSlots c p).core c).unslotted = (s.core c).unslotted ∧ (∀ x, x ≠ c → (s.advanceSlots c p).core x = s.core x) ∧
      CoresOnly s (s.advanceSlots c p) := by
  unfold State.advanceSlots
  refine List.foldlRecOn (motive := fun t : State => (t.core c).unslotted = (s.core c).unslotted ∧ (∀ x, x ≠ c → t.core x = s.core x) ∧
    CoresOnly s t) _ _ ⟨rfl, fun _ _ => rfl, coresOnly_refl s⟩ fun t ht i _ => ?_
  obtain ⟨hc, ho, hr⟩ := ht
  dsimp only
  split
  · have hk (x : Nat) : ((t.setCore c ((t.core c).setSlot i ((t.core c).slot i).advance)).bump 0x04 c 1 1).core x =
        (t.setCore c ((t.core c).setSlot i ((t.core c).slot i).advance)).core x := State.core_congr (State.bump_cores ..) x
    refine ⟨?_, fun x hx => ?_, coresOnly_trans hr (coresOnly_trans (coresOnly_modCore t c fun k => k.setSlot i ((t.core c).slot i).advance) (coresOnly_ctr _ _))⟩
    · rw [hk, State.core_setCore_same, ← hc]
      rfl
    · rw [hk, State.core_setCore_ne _ _ hx, ho x hx]
  · exact ⟨hc, ho, hr⟩

/-- A generation that came round marks cores for a wipe, and changes nothing else (R503). -/
theorem wipeDue_spec (s : State) (c : Nat) :
    (∀ x, ((s.wipeDue c).core x).unwiped = (s.core x).unwiped) ∧ CoresOnly s (s.wipeDue c) := by
  unfold State.wipeDue
  split
  · refine List.foldlRecOn (motive := fun t : State => (∀ x, (t.core x).unwiped = (s.core x).unwiped) ∧ CoresOnly s t) _ _
      ⟨fun _ => rfl, coresOnly_refl s⟩ fun t ht i _ => ?_
    obtain ⟨hc, hr⟩ := ht
    refine ⟨fun x => ?_, coresOnly_trans hr (coresOnly_modCore ..)⟩
    by_cases hx : x = clusterOf c * 17 + i
    · rw [hx, State.core_modCore_same, ← hc]
      rfl
    · rw [State.core_modCore_ne _ _ hx, hc]
  · exact ⟨fun _ => rfl, coresOnly_refl s⟩

/-- A core after the core reset of R504, but for the mark of a wipe. -/
def Core.afterReset (k : Core) : Core :=
  { k with
    running := false, done := false, pc := 0, s := [], p := [], v := [], acc := [], csr := [], td := [], l1 := [],
    icache := [], tsets := [], send := [], mq := [], tgq := [], sq := [], groups := [], exited := [],
    slots := k.slots.map (fun (e : Nat × Slot) => (e.1, { gen := e.2.gen : Slot })),
    gen := k.gen + 1, stall := 0, joining := false, withheld := false }

theorem gen_unslotted (k : Core) : k.unslotted.gen = k.gen := rfl
theorem gen_afterReset (k : Core) : k.afterReset.gen = k.gen + 1 := rfl

theorem coreReset_eq (s : State) (c : Nat) :
    s.coreReset c = ((s.advanceSlots c fun _ => true).modCore c Core.afterReset).wipeDue c := rfl

/-- What a core reset leaves of a core, its run and its epoch (R95, R504). -/
structure Cleared (k k' : Core) : Prop where
  was : WasReset k k'
  caches : k'.l1 = [] ∧ k'.icache = [] ∧ k'.sq = []
  kept : k'.run = k.run ∧ k'.epoch = k.epoch ∧ k'.spad = k.spad

theorem cleared_of {k k1 k' : Core} (h1 : k1.unslotted = k.unslotted) (h' : k'.unwiped = k1.afterReset.unwiped) : Cleared k k' := by
  have e1 {α : Type} (f : Core → α) (hf : ∀ y : Core, f y.unslotted = f y) : f k1 = f k := by
    rw [← hf k1, h1, hf]
  have hgen : k1.gen = k.gen := e1 Core.gen fun _ => rfl
  have hspad : k1.spad = k.spad := e1 Core.spad fun _ => rfl
  have hrun : k1.run = k.run := e1 Core.run fun _ => rfl
  have hep : k1.epoch = k.epoch := e1 Core.epoch fun _ => rfl
  have e {α : Type} (f : Core → α) (hf : ∀ y : Core, f y.unwiped = f y) : f k' = f k1.afterReset := by
    rw [← hf k', h', hf]
  refine ⟨⟨⟨e Core.running fun _ => rfl, e Core.done fun _ => rfl, e Core.pc fun _ => rfl⟩, ⟨e Core.s fun _ => rfl, e Core.p fun _ => rfl,
    e Core.v fun _ => rfl, e Core.acc fun _ => rfl, e Core.csr fun _ => rfl, e Core.td fun _ => rfl⟩, ⟨e Core.send fun _ => rfl,
    e Core.mq fun _ => rfl, e Core.tgq fun _ => rfl, e Core.sq fun _ => rfl, e Core.groups fun _ => rfl⟩, ?_, ?_⟩,
    ⟨e Core.l1 fun _ => rfl, e Core.icache fun _ => rfl, e Core.sq fun _ => rfl⟩, ?_, ?_, ?_⟩
  · exact (e Core.gen fun _ => rfl).trans (congrArg (· + 1) hgen)
  · exact (e Core.spad fun _ => rfl).trans hspad
  · exact (e Core.run fun _ => rfl).trans hrun
  · exact (e Core.epoch fun _ => rfl).trans hep
  · exact (e Core.spad fun _ => rfl).trans hspad

/-- A core reset: its core is cleared, other cores are at most marked for a wipe, and nothing else but counters changes. -/
theorem coreReset_spec (s : State) (c : Nat) :
    Cleared (s.core c) ((s.coreReset c).core c) ∧ (∀ x, x ≠ c → ((s.coreReset c).core x).unwiped = (s.core x).unwiped) ∧
      CoresOnly s (s.coreReset c) := by
  obtain ⟨hself, hothers, hrest⟩ := advanceSlots_spec s c fun _ => true
  obtain ⟨hw, hwr⟩ := wipeDue_spec ((s.advanceSlots c fun _ => true).modCore c Core.afterReset) c
  rw [coreReset_eq]
  refine ⟨cleared_of hself ((hw c).trans (by rw [State.core_modCore_same])), fun x hx => ?_, coresOnly_trans (coresOnly_trans hrest (coresOnly_modCore ..)) hwr⟩
  rw [hw, State.core_modCore_ne _ _ hx, hothers x hx]

/-- A core reset whose new generation does not come round leaves every other core as it was (R503). -/
theorem coreReset_others {s : State} {c : Nat} (hg : (s.coreGen c + 1).toNat % 512 ≠ 0) (x : Nat) (hx : x ≠ c) :
    (s.coreReset c).core x = s.core x := by
  obtain ⟨hself, hothers, hrest⟩ := advanceSlots_spec s c fun _ => true
  have hgen : (((s.advanceSlots c fun _ => true).modCore c Core.afterReset).coreGen c).toNat % 512 ≠ 0 := by
    have hmc : (s.advanceSlots c fun _ => true).mc = s.mc := by
      obtain ⟨k, m, h⟩ := hrest
      rw [h]
    have hk : ((s.advanceSlots c fun _ => true).core c).gen = (s.core c).gen := by
      rw [← gen_unslotted, hself, gen_unslotted]
    have he : ((s.advanceSlots c fun _ => true).modCore c Core.afterReset).coreGen c = s.coreGen c + 1 := by
      unfold State.coreGen
      rw [State.core_modCore_same, State.modCore_mc, hmc, gen_afterReset, hk, BitVec.add_assoc, BitVec.add_comm 1, ← BitVec.add_assoc]
    rwa [he]
  rw [coreReset_eq, State.wipeDue, if_neg hgen, State.core_modCore_ne _ _ hx, hothers x hx]

end Sys2Proof.Machine
end

section
namespace Sys2Proof.Machine
open Sys2Proof

/-! ### Traps outside every epoch (R93, R94, R505) -/

theorem provisional_none (s : State) : s.provisional 0 = false := rfl

/-- Nothing aborts where no core's epoch is OPEN or HELD (R276). -/
theorem abortEpochs_none {s : State} (h : ∀ x, s.provisional (s.core x).epoch = false) (run cause : Nat) : s.abortEpochs run cause = s := by
  unfold State.abortEpochs
  refine List.foldlRecOn (motive := fun t : State => t = s) _ _ rfl fun t ht key hk => ?_
  obtain ⟨c, -, rfl⟩ := List.mem_map.1 (List.mem_eraseDups.1 hk)
  rw [ht, h c]
  exact if_neg fun e => Bool.false_ne_true e.2

theorem resetWaits_none {s : State} (h : ∀ g, (s.group g).st ≠ .confirming) (cs : List Nat) : s.resetWaits cs = false := by
  unfold State.resetWaits
  rw [List.any_eq_false]
  exact fun g _ hc => h g (of_decide_eq_true hc)

/-- The record of a trap of a core (R514). -/
def State.trapRec (s : State) (c pc cause addr : Nat) : TrapRec :=
  { vcore := (s.core c).vc, pcore := c, cause := cause, fn := (s.core c).fnOf, tag := BitVec.ofNat 16 (fld ((s.core c).csrReg 0x002) 0 16),
    pc := w64 pc, addr := w64 addr, uptime := s.mc.uptime }

/-- A run after a trap of one of its cores (R94). -/
def Run.trapped (k : Core) (cause status : Nat) (r : Run) : Run :=
  if k.run = 0 ∨ r.st ≠ .running then r
  else if r.status.isNone then { r with trap := cause, trapVcore := k.vc, status := some status }
  else { r with status := some (mergeStatus r.status status) }

/-- A trap that is recorded, and known to the run. -/
def State.noted (s : State) (c pc cause addr status : Nat) : State :=
  (s.setPart (partOf c) ((s.part (partOf c)).logTrap (s.trapRec c pc cause addr))).modRun ((s.core c).run - 1) (Run.trapped (s.core c) cause status)

theorem trapAt_plain {s : State} (he : ∀ x, (s.core x).epoch = 0) (hg : ∀ g, (s.group g).st ≠ .confirming) (c pc cause addr status : Nat) :
    s.trapAt c pc cause addr status = (s.noted c pc cause addr status).coreReset c := by
  have hn : ∀ x, (s.noted c pc cause addr status).provisional ((s.noted c pc cause addr status).core x).epoch = false := fun x => by
    have hx : ((s.noted c pc cause addr status).core x).epoch = 0 := he x
    rw [hx, provisional_none]
  have hw : (s.noted c pc cause addr status).resetWaits [c] = false := resetWaits_none hg [c]
  unfold State.trapAt
  dsimp only
  rw [if_pos (he c)]
  show State.resetSoon (c := c) (if (s.core c).run = 0 then s.noted c pc cause addr status else
    (s.noted c pc cause addr status).abortEpochs ((s.core c).run - 1) 7) = _
  rw [abortEpochs_none hn, ite_self, State.resetSoon, hw]
  rfl

/-- The last record of a trap log is the trap's (R514). -/
theorem logTrap_getLast (p : Part) (t : TrapRec) : (p.logTrap t).trapLog.getLast? = some t := by
  have hl : p.trapLog.length + 1 - 64 ≤ p.trapLog.length := by omega
  show ((p.trapLog ++ [t]).drop (p.trapLog.length + 1 - 64)).getLast? = some t
  rw [List.drop_append_of_le_length hl, List.getLast?_append]
  rfl

/-- A run after a change of it that keeps its number. -/
theorem run_modRun_map (s : State) (id : Nat) {f : Run → Run} (hf : ∀ x, (f x).id = x.id) : (s.modRun id f).run id = (s.run id).map f :=
  find?_updFirst_same (p := fun x : Run => x.id == id) (f := f) (fun x hx => by rw [hf]; exact hx) s.runs

theorem trapped_id (k : Core) (cause status : Nat) (r : Run) : (r.trapped k cause status).id = r.id := by
  unfold Run.trapped
  split_ifs <;> rfl

theorem run_id {s : State} {id : Nat} {r : Run} (h : s.run id = some r) : r.id = id := by
  simpa using List.find?_some h

section
variable {s : State} {c pc cause addr status : Nat}

theorem noted_part : (s.noted c pc cause addr status).part (partOf c) = (s.part (partOf c)).logTrap (s.trapRec c pc cause addr) :=
  State.part_setPart_same ..

theorem noted_run : (s.noted c pc cause addr status).run ((s.core c).run - 1) =
    (s.run ((s.core c).run - 1)).map (Run.trapped (s.core c) cause status) :=
  run_modRun_map _ _ fun _ => trapped_id ..

end

/-- A run whose first trap this is keeps it and its status; a later one only raises the status (R94). -/
theorem trapped_spec {k : Core} {r : Run} (hk : k.run ≠ 0) (hr : r.st = .running) (cause status : Nat) :
    (r.trapped k cause status).st = .running ∧ (r.trapped k cause status).status.isSome = true ∧
      (r.status = none → (r.trapped k cause status).trap = cause ∧ (r.trapped k cause status).trapVcore = k.vc ∧
        (r.trapped k cause status).status = some status) ∧
      (∀ x, r.status = some x → (r.trapped k cause status).trap = r.trap ∧ (r.trapped k cause status).trapVcore = r.trapVcore ∧
        (r.trapped k cause status).status = some (mergeStatus (some x) status)) := by
  have hn : ¬(k.run = 0 ∨ r.st ≠ .running) := by simp [hk, hr]
  unfold Run.trapped
  rw [if_neg hn]
  cases hs : r.status with
  | none => simp [hr]
  | some x => simp [hr]

/-- A core of a run that a trap is to stop issues nothing (R93). -/
theorem issues_stopping {t : State} {k : Core} {r : Run} (hk : k.run ≠ 0) (hr : t.run (k.run - 1) = some r) (hst : r.st = .running)
    (hs : r.status.isSome = true) : t.issues k = false := by
  have h : t.stopping k = true := by simp [State.stopping, hk, hr, hst, hs]
  simp [State.issues, h]

/-- The state after a trap that reaches no epoch. -/
theorem trap_spec {s : State} {c : Nat} (he : ∀ x, (s.core x).epoch = 0) (hg : ∀ g, (s.group g).st ≠ .confirming)
    (hgen : (s.coreGen c + 1).toNat % 512 ≠ 0) (cause addr : Nat) :
    SameMemory s (s.trap c cause addr) ∧ Cleared (s.core c) ((s.trap c cause addr).core c) ∧
      (∀ x, x ≠ c → (s.trap c cause addr).core x = s.core x) ∧
      (s.trap c cause addr).part (partOf c) = (s.part (partOf c)).logTrap (s.trapRec c (s.core c).pc cause addr) ∧
      (s.trap c cause addr).run ((s.core c).run - 1) =
        (s.run ((s.core c).run - 1)).map (Run.trapped (s.core c) cause (trapStatus cause)) := by
  have ht : s.trap c cause addr = (s.noted c (s.core c).pc cause addr (trapStatus cause)).coreReset c := trapAt_plain he hg ..
  rw [ht]
  obtain ⟨hself, -, k, m, hrest⟩ := coreReset_spec (s.noted c (s.core c).pc cause addr (trapStatus cause)) c
  refine ⟨fun a => ?_, hself, coreReset_others (s := s.noted c (s.core c).pc cause addr (trapStatus cause)) hgen, ?_, ?_⟩
  · rw [hrest]
    rfl
  · rw [hrest]
    exact noted_part (status := trapStatus cause)
  · rw [hrest]
    exact noted_run

/-! ### Watchdogs (R96, R186) -/

theorem foldl_min_le (l : List Nat) (a : Nat) : l.foldl Nat.min a ≤ a ∧ ∀ x ∈ l, l.foldl Nat.min a ≤ x := by
  induction l generalizing a with
  | nil => exact ⟨Nat.le_refl a, fun x hx => absurd hx (List.not_mem_nil)⟩
  | cons y r ih =>
    obtain ⟨h1, h2⟩ := ih (Nat.min a y)
    refine ⟨h1.trans (Nat.min_le_left a y), fun x hx => ?_⟩
    rcases List.mem_cons.1 hx with rfl | hx
    · exact h1.trans (Nat.min_le_right a x)
    · exact h2 x hx

theorem le_foldl_min {l : List Nat} {a m : Nat} (ha : m ≤ a) (hl : ∀ x ∈ l, m ≤ x) : m ≤ l.foldl Nat.min a :=
  List.foldlRecOn (motive := fun y => m ≤ y) l Nat.min ha fun _ hb x hx => Nat.le_min.2 ⟨hb, hl x hx⟩

/-- The lowest of some numbers, found from the first of them on. -/
theorem foldl_min_eq {l : List Nat} {m : Nat} (hm : m ∈ l) (hl : ∀ x ∈ l, m ≤ x) : l.foldl Nat.min (l.headD 0) = m := by
  have hh : l.headD 0 ∈ l := by
    cases l with
    | nil => cases hm
    | cons y r => exact List.mem_cons_self
  exact Nat.le_antisymm ((foldl_min_le l _).2 m hm) (le_foldl_min (hl _ hh) hl)

section
variable {s : State} {c : Nat} (hu : Unit.core c = true) (hr : (s.core c).running = true)
include hu hr

theorem execCoreWatchdogExpiry_running : exec (.coreWatchdogExpiry c) s = .next (s.trap c 0x09 0) := by
  show onUnit (Unit.core c) (if (s.core c).running then s.trap c tWatchdog 0 else s) = _
  rw [hu, hr, onUnit_true]
  rfl

theorem execGroupProgressExpiry_running {g pc : Nat} (hg : g < 4) (hused : (s.grp c g).used = true)
    (hl : ∃ l, (s.grp c g).live.contains l = true ∧ ((s.grp c g).th l).pc = pc)
    (hle : ∀ l, (s.grp c g).live.contains l = true → pc ≤ ((s.grp c g).th l).pc) :
    exec (.groupProgressExpiry c g) s = .next (s.trapAt c pc 0x09 0 0x0D) := by
  obtain ⟨l, hl, rfl⟩ := hl
  have hne : (s.grp c g).live.isEmpty = false := by
    cases h : (s.grp c g).live with
    | nil =>
      rw [h] at hl
      cases hl
    | cons y r => rfl
  have hmin := foldl_min_eq (l := (s.grp c g).live.map fun l => ((s.grp c g).th l).pc)
    (List.mem_map.2 ⟨l, List.contains_iff_mem.1 hl, rfl⟩) fun x hx => by
      obtain ⟨j, hj, rfl⟩ := List.mem_map.1 hx
      exact hle j (List.contains_iff_mem.2 hj)
  show execGroupProgressExpiry c g s = _
  unfold execGroupProgressExpiry
  rw [hu, show Unit.slot g = true from decide_eq_true hg]
  dsimp only
  rw [hr, show ((s.core c).grp g).used = true from hused, show ((s.core c).grp g).live.isEmpty = false from hne]
  exact congrArg (fun pc => Host.Outcome.next (s.trapAt c pc 0x09 0 0x0D)) hmin

end

theorem traps_claim : Claim.Traps := by
  intro s c cause addr he hg hgen
  refine ⟨fun hr hu => execCoreWatchdogExpiry_running hu hr,
    fun g pc hr hu h4 hused hl hle => execGroupProgressExpiry_running hu hr h4 hused hl hle, ?_⟩
  rintro t rfl
  obtain ⟨hmem, hclear, hothers, hpart, hrun⟩ := trap_spec he hg hgen cause addr
  generalize s.trap c cause addr = t at hmem hclear hothers hpart hrun ⊢
  obtain ⟨⟨⟨hr, -, hpc⟩, ⟨hs, hp, hv, -, hcsr, htd⟩, ⟨hsend, hmq, htgq, hsq, hgrp⟩, hgen', hspad⟩, ⟨hl1, hic, -⟩, hkrun, -, -⟩ := hclear
  refine ⟨hmem, hr, hpc, fun n => by simp [Core.sreg, hs, nget], fun n hn => by simp [Core.preg, hn, hp, nget], fun n => by simp [Core.vreg, hv, nget], hcsr, htd,
    hsend, hmq, htgq, hsq, hgrp, hl1, hic, hspad, hgen', hothers, ?_, ?_⟩
  · exact ⟨s.trapRec c (s.core c).pc cause addr, by rw [hpart, logTrap_getLast], rfl, rfl, rfl, rfl, rfl, rfl⟩
  · rintro r due hk hrr hst rfl
    rw [hrr] at hrun
    obtain ⟨hst', hsome, hfirst, hlater⟩ := trapped_spec hk hst cause (trapStatus cause)
    refine ⟨fun x hx => ?_, r.trapped (s.core c) cause (trapStatus cause), by rw [run_id hrr]; exact hrun, hst', hfirst, hlater⟩
    refine issues_stopping (by rw [hx]; exact hk) ?_ hst' hsome
    rw [hx]
    exact hrun

/-- Settles O23: a trap outside every epoch is one record, one note in its run and one core reset. -/
theorem coreTraps : Obligations.CoreTraps := traps_claim

end Sys2Proof.Machine
end

section
namespace Sys2Proof.Machine
open Sys2Proof

/-! ### What the end of runs and epochs leaves alone (R275 to R279, R324, R389) -/

/-- The registers of a core that a partition reset emptied (R504, R507). -/
structure Lost (k : Core) : Prop where
  running : k.running = false
  pc : k.pc = 0
  s : k.s = []
  spad : k.spad = []
  epoch : k.epoch = 0

theorem Lost.congr {k k' : Core} (h : Lost k) (hr : k.running = false → k'.running = false) (hpc : k'.pc = k.pc) (hs : k'.s = k.s)
    (hm : k'.spad = k.spad) (he : k'.epoch = k.epoch) : Lost k' :=
  ⟨hr h.running, hpc.trans h.pc, hs.trans h.s, hm.trans h.spad, he.trans h.epoch⟩

/-- Partition controllers, the host, commands, the image, a partition's REG_MODE and the ordering code. -/
def State.frame (s : State) (p : Nat) : NMap Part × List Host.Cell × List Cmd × ImageState × W64 × Bool :=
  (s.parts, s.host, s.cmds, s.img, s.creg (offRegMode p), s.wca1608)

/-- t is s after runs or epochs were ended: what they do not touch, cores that were empty stay so, and where no near-bank sequence
runs, memory stays. -/
structure Winds (p : Nat) (s t : State) : Prop where
  frame : t.frame p = s.frame p
  lost : ∀ x, Lost (s.core x) → Lost (t.core x)
  quiet : (∀ st, (s.nb st).cur = none) → t.mem = s.mem ∧ t.nbs = s.nbs

theorem frame_of_aside {s t : State} (p : Nat) (ha : t.aside = s.aside) (hh : t.hush = s.hush) : t.frame p = s.frame p := by
  have h1 : t.parts = s.parts := congrArg (fun x => x.1) hh
  have h2 : t.host = s.host := congrArg (fun x => x.2.1) ha
  have h3 : t.cmds = s.cmds := congrArg (fun x => x.1.2.2.1) ha
  have h4 : t.img = s.img := congrArg (fun x => x.2.2.1) ha
  have h5 : t.ctl = s.ctl := congrArg (fun x => x.2.2.2.1) ha
  have h6 : t.wca1608 = s.wca1608 := congrArg (fun x => x.2.2.2) hh
  simp only [State.frame, State.creg, h1, h2, h3, h4, h5, h6]

namespace Winds
variable {p : Nat} {s t u : State}

theorem refl (p : Nat) (s : State) : Winds p s s := ⟨rfl, fun _ h => h, fun _ => ⟨rfl, rfl⟩⟩

theorem trans (h : Winds p s t) (g : Winds p t u) : Winds p s u := by
  refine ⟨g.frame.trans h.frame, fun x hx => g.lost x (h.lost x hx), fun hn => ?_⟩
  obtain ⟨hm, hb⟩ := h.quiet hn
  obtain ⟨hm', hb'⟩ := g.quiet fun st => by
    rw [State.nb, hb]
    exact hn st
  exact ⟨hm'.trans hm, hb'.trans hb⟩

theorem foldl {α : Type} (f : State → α → State) (hf : ∀ t a, Winds p t (f t a)) (l : List α) (s : State) : Winds p s (l.foldl f s) :=
  List.foldlRecOn l f (refl p s) fun _ h a _ => h.trans (hf _ a)

/-- A change of cores and counters. -/
theorem of_coresOnly (h : CoresOnly s t) (hl : ∀ x, Lost (s.core x) → Lost (t.core x)) : Winds p s t := by
  obtain ⟨k, m, rfl⟩ := h
  exact ⟨rfl, hl, fun _ => ⟨rfl, rfl⟩⟩

theorem modCore (c : Nat) {f : Core → Core} (hf : ∀ k, Lost k → Lost (f k)) : Winds p s (s.modCore c f) := by
  refine of_coresOnly (coresOnly_modCore s c f) fun x hx => ?_
  by_cases h : x = c
  · subst h
    rw [State.core_modCore_same]
    exact hf _ hx
  · rwa [State.core_modCore_ne _ _ h]

theorem modRun (id : Nat) (f : Run → Run) : Winds p s (s.modRun id f) := ⟨rfl, fun _ h => h, fun _ => ⟨rfl, rfl⟩⟩
theorem setGroup (g : Nat) (x : SpecGroup) : Winds p s (s.setGroup g x) := ⟨rfl, fun _ h => h, fun _ => ⟨rfl, rfl⟩⟩

end Winds

theorem lost_unslotted {k k' : Core} (h : k'.unslotted = k.unslotted) (hk : Lost k) : Lost k' := by
  have e {α : Type} (f : Core → α) (hf : ∀ y : Core, f y.unslotted = f y) : f k' = f k := by
    rw [← hf k', h, hf]
  exact hk.congr (fun hr => (e Core.running fun _ => rfl).trans hr) (e Core.pc fun _ => rfl) (e Core.s fun _ => rfl)
    (e Core.spad fun _ => rfl) (e Core.epoch fun _ => rfl)

section
variable (p : Nat) (s : State)

theorem winds_advanceSlots (c : Nat) (f : Slot → Bool) : Winds p s (s.advanceSlots c f) := by
  obtain ⟨hself, hothers, hrest⟩ := advanceSlots_spec s c f
  refine .of_coresOnly hrest fun x hx => ?_
  by_cases h : x = c
  · subst h
    exact lost_unslotted hself hx
  · rwa [hothers x h]

theorem winds_stopCore (c : Nat) : Winds p s (s.stopCore c) := by
  unfold State.stopCore
  refine (winds_advanceSlots p s c _).trans (Winds.modCore c ?_)
  intro k h
  exact h.congr (fun _ => rfl) rfl rfl rfl rfl

theorem winds_nbFinish_setNb (st : Nat) (x : NbStack) {t : State} (ha : t.aside = s.aside) (hh : t.hush = s.hush)
    (hn : ¬∀ st, (s.nb st).cur = none) : Winds p s (t.setNb st x) := by
  refine ⟨?_, fun y hy => ?_, fun h => absurd h hn⟩
  · exact (show (t.setNb st x).frame p = t.frame p from rfl).trans (frame_of_aside p ha hh)
  · have hc : (t.setNb st x).core y = s.core y := core_of_aside ha y
    rwa [hc]

theorem winds_dropSeq (run st : Nat) : Winds p s (s.dropSeq run st) := by
  unfold State.dropSeq
  split
  · next k hk =>
    have hn : ¬∀ st, (s.nb st).cur = none := fun h => by
      rw [h st] at hk
      cases hk
    split
    · have ha := nbFinish_aside s st
      have hh := nbFinish_hush s st
      generalize s.nbFinish st = r at ha hh ⊢
      have h1 := winds_nbFinish_setNb p s st (r.1.nb st).clear ha hh hn
      dsimp only
      split
      · exact h1.trans (.modRun run _)
      · exact h1
    · exact .refl p s
  · exact .refl p s

theorem winds_stopNb (run : Nat) : Winds p s (s.stopNb run) := by
  have h1 := Winds.foldl (p := p) (fun (a : State) st => a.dropSeq run st) (fun t st => winds_dropSeq p t run st) (List.range 16) s
  unfold State.stopNb
  dsimp only
  split
  · refine h1.trans (Winds.foldl _ (fun t c => Winds.modCore c ?_) _ _)
    intro k h
    exact h.congr id rfl rfl rfl rfl
  · exact h1

theorem winds_nbIdle (st : Nat) : Winds p s (s.nbIdle st) := by
  unfold State.nbIdle
  split
  · have hne : offRegMode p ≠ offNb st := by
      unfold offRegMode offNb
      omega
    refine ⟨?_, fun _ h => h, fun _ => ⟨rfl, rfl⟩⟩
    exact congrArg (fun v => (s.parts, s.host, s.cmds, s.img, v, s.wca1608)) (State.creg_setCfld_ne _ _ _ _ hne)
  · exact .refl p s

theorem winds_stopRun (run status : Nat) : Winds p s (s.stopRun run status) :=
  (((Winds.foldl _ (fun t c => winds_stopCore p t c) _ s).trans (winds_stopNb p _ run)).trans
    (.foldl _ (fun t i => winds_nbIdle p t i) _ _)).trans (.modRun run _)

theorem winds_abortOne (g cause : Nat) : Winds p s (s.abortOne g cause) := by
  unfold State.abortOne
  dsimp only
  split
  · exact .setGroup ..
  · exact .refl p s

theorem winds_abortGroup (g cause : Nat) : Winds p s (s.abortGroup g cause) := by
  have hall (x : SpecGroup) :
      Winds p s ((List.range 32).foldl (fun st i => if (st.group i).run = x.run then st.abortOne i cause else st) s) := by
    refine .foldl _ (fun t i => ?_) _ s
    split
    · exact winds_abortOne ..
    · exact .refl p t
  unfold State.abortGroup
  dsimp only
  split
  · split
    · exact winds_abortOne ..
    · split
      · split
        · exact ((hall _).trans (.modRun ..)).trans (winds_stopRun ..)
        · exact (hall _).trans (.modRun ..)
      · exact hall _
  · exact .refl p s

theorem winds_abortEpochs (run cause : Nat) : Winds p s (s.abortEpochs run cause) := by
  refine .foldl _ (fun t key => ?_) _ s
  split
  · exact winds_abortGroup ..
  · exact .refl p t

theorem winds_abortRun (run cause : Nat) : Winds p s (s.abortRun run cause) :=
  (winds_abortEpochs p s run cause).trans (.foldl _ (fun t g => winds_abortGroup p t g cause) _ _)

theorem winds_stopRunAs {r : Run} (h : r.st ≠ .waiting) (cause status : Nat) : Winds p s (s.stopRunAs r cause status) := by
  unfold State.stopRunAs
  split
  · next hw => exact absurd hw h
  · exact (winds_abortRun p s r.id cause).trans (winds_stopRun ..)
  · exact winds_abortRun ..
  · exact .refl p s

/-- The runs and epochs that a partition reset ends (R283, R506). -/
theorem winds_endUsers (q : Nat) : Winds p s (s.endUsers q) := by
  unfold State.endUsers
  refine (Winds.foldl _ (fun t r0 => ?_) _ s).trans (.foldl _ (fun t g => winds_abortGroup p t g 8) _ _)
  split
  · next r _ =>
    split
    · next h =>
      exact winds_stopRunAs p t (by rintro hw; rw [hw] at h; simp at h) 8 stReset
    · exact .refl p t
  · exact .refl p t

end

end Sys2Proof.Machine
end

section
namespace Sys2Proof.Machine
open Sys2Proof

/-! ### A run that is stopped (R389) -/

/-- t is s after cores were stopped: no generation and no scratchpad changed, and no epoch, run, byte, command or sequence. -/
structure Halts (s t : State) : Prop where
  gen : ∀ x, (t.core x).gen = (s.core x).gen
  spad : ∀ x, (t.core x).spad = (s.core x).spad
  groups : t.groups = s.groups
  nbs : t.nbs = s.nbs
  runs : t.runs = s.runs
  shell : t.mem = s.mem ∧ t.host = s.host ∧ t.cmds = s.cmds

namespace Halts
variable {s t u : State}

theorem refl (s : State) : Halts s s := ⟨fun _ => rfl, fun _ => rfl, rfl, rfl, rfl, rfl, rfl, rfl⟩

theorem trans (h : Halts s t) (g : Halts t u) : Halts s u := by
  obtain ⟨hm, hh, hc⟩ := h.shell
  obtain ⟨gm, gh, gc⟩ := g.shell
  exact ⟨fun x => (g.gen x).trans (h.gen x), fun x => (g.spad x).trans (h.spad x), g.groups.trans h.groups, g.nbs.trans h.nbs,
    g.runs.trans h.runs, gm.trans hm, gh.trans hh, gc.trans hc⟩

theorem of_coresOnly (h : CoresOnly s t) (hg : ∀ x, (t.core x).gen = (s.core x).gen) (hs : ∀ x, (t.core x).spad = (s.core x).spad) :
    Halts s t := by
  obtain ⟨k, m, rfl⟩ := h
  exact ⟨hg, hs, rfl, rfl, rfl, rfl, rfl, rfl⟩

theorem modCore (c : Nat) {f : Core → Core} (hg : ∀ k, (f k).gen = k.gen) (hs : ∀ k, (f k).spad = k.spad) : Halts s (s.modCore c f) := by
  refine of_coresOnly (coresOnly_modCore s c f) (fun x => ?_) fun x => ?_
  · by_cases h : x = c
    · rw [h, State.core_modCore_same, hg]
    · rw [State.core_modCore_ne _ _ h]
  · by_cases h : x = c
    · rw [h, State.core_modCore_same, hs]
    · rw [State.core_modCore_ne _ _ h]

theorem foldl {α : Type} (f : State → α → State) (hf : ∀ t a, Halts t (f t a)) (l : List α) (s : State) : Halts s (l.foldl f s) :=
  List.foldlRecOn l f (refl s) fun _ h a _ => h.trans (hf _ a)

end Halts

theorem spad_unslotted (k : Core) : k.unslotted.spad = k.spad := rfl

theorem halts_stopCore (s : State) (c : Nat) : Halts s (s.stopCore c) := by
  obtain ⟨hself, hothers, hrest⟩ := advanceSlots_spec s c fun _ => true
  have h1 : Halts s (s.advanceSlots c fun _ => true) := by
    refine .of_coresOnly hrest (fun x => ?_) fun x => ?_
    · by_cases h : x = c
      · rw [h, ← gen_unslotted, hself, gen_unslotted]
      · rw [hothers x h]
    · by_cases h : x = c
      · rw [h, ← spad_unslotted, hself, spad_unslotted]
      · rw [hothers x h]
  unfold State.stopCore
  refine h1.trans (Halts.modCore c ?_ ?_)
  · exact fun _ => rfl
  · exact fun _ => rfl

/-- The work of a run that no stack runs a sequence for. -/
theorem dropSeq_none {s : State} {run : Nat} (h : ∀ st k, (s.nb st).cur = some k → k.run ≠ run) (st : Nat) : s.dropSeq run st = s := by
  unfold State.dropSeq
  split
  · next k hk => exact if_neg (h st k hk)
  · rfl

theorem halts_nbIdle (s : State) (st : Nat) : Halts s (s.nbIdle st) := by
  unfold State.nbIdle
  split
  · exact ⟨fun _ => rfl, fun _ => rfl, rfl, rfl, rfl, rfl, rfl, rfl⟩
  · exact .refl s

theorem halts_stopNb {s : State} {run : Nat} (h : ∀ st k, (s.nb st).cur = some k → k.run ≠ run) : Halts s (s.stopNb run) := by
  have h1 : (List.range 16).foldl (fun a st => a.dropSeq run st) s = s :=
    List.foldlRecOn (motive := fun t : State => t = s) _ _ rfl fun t ht st _ => by rw [ht, dropSeq_none h]
  unfold State.stopNb
  rw [h1]
  dsimp only
  split
  · refine Halts.foldl _ (fun t c => Halts.modCore c ?_ ?_) _ _
    · exact fun _ => rfl
    · exact fun _ => rfl
  · exact .refl s

/-- A run that was stopped with a status, unless it had one (R389). -/
def Run.stopWith (status : Nat) (r : Run) : Run := { r with st := .stopped, status := some (r.status.getD status) }

/-- A run that is stopped and has no sequence under way in a stack. -/
theorem stopRun_halts {s : State} {run : Nat} (h : ∀ st k, (s.nb st).cur = some k → k.run ≠ run) (status : Nat) :
    ∃ t, Halts s t ∧ s.stopRun run status = t.modRun run (Run.stopWith status) := by
  have h1 := Halts.foldl (fun (a : State) c => a.stopCore c) halts_stopCore (s.coresOf run) s
  have hnb : ∀ st k, (((s.coresOf run).foldl (fun (a : State) c => a.stopCore c) s).nb st).cur = some k → k.run ≠ run := fun st k hk => by
    rw [State.nb, h1.nbs] at hk
    exact h st k hk
  exact ⟨_, (h1.trans (halts_stopNb hnb)).trans (.foldl _ halts_nbIdle _ _), rfl⟩

/-! ### Aborts where no epoch stands (R283) -/

theorem abortGroup_idle {s : State} {g : Nat} (h : (s.group g).st = .idle) (cause : Nat) : s.abortGroup g cause = s := by
  unfold State.abortGroup
  dsimp only
  rw [if_neg (by simp [h])]

theorem epState_idle {s : State} (h : ∀ g, (s.group g).st = .idle) (key : Nat) : s.epState key = .idle := by
  unfold State.epState
  split
  · rfl
  · split
    · exact h _
    · rfl

theorem abortRun_idle {s : State} (h : ∀ g, (s.group g).st = .idle) (run cause : Nat) : s.abortRun run cause = s := by
  have he : s.abortEpochs run cause = s := abortEpochs_none (fun x => by simp [State.provisional, epState_idle h]) run cause
  unfold State.abortRun
  rw [he]
  exact List.foldlRecOn (motive := fun t : State => t = s) _ _ rfl fun t ht g _ => by rw [ht, abortGroup_idle (h g)]

theorem eraseDups_const {l : List Nat} {r : Nat} (h : ∀ x ∈ l, x = r) : l.eraseDups = [] ∨ l.eraseDups = [r] := by
  cases l with
  | nil => exact .inl rfl
  | cons y l =>
    obtain rfl := h y List.mem_cons_self
    refine .inr ?_
    have hf : l.filter (fun b => !b == y) = [] := by
      rw [List.filter_eq_nil_iff]
      intro x hx
      simp [h x (List.mem_cons_of_mem _ hx)]
    rw [List.eraseDups_cons, hf]
    rfl

end Sys2Proof.Machine
end

section
namespace Sys2Proof.Machine
open Sys2Proof

/-! ### The reset of some cores (R283, R504, R505) -/

theorem WasReset.of_same {k0 k k' : Core} (h : WasReset k k') (hg : k.gen = k0.gen) (hs : k.spad = k0.spad) : WasReset k0 k' :=
  ⟨h.stopped, h.regs, h.units, h.gen.trans (congrArg (· + 1) hg), h.spad.trans hs⟩

/-- What a core reset is seen by. -/
def Core.resetView (k : Core) :=
  ((k.running, k.done, k.pc), (k.s, k.p, k.v, k.acc, k.csr, k.td), (k.send, k.mq, k.tgq, k.sq, k.groups), k.gen, k.spad)

theorem wasReset_iff (k k' : Core) : WasReset k k' ↔
    k'.resetView = ((false, false, 0), ([], [], [], [], [], []), ([], [], [], [], []), k.gen + 1, k.spad) := by
  simp only [Core.resetView, Prod.mk.injEq]
  exact ⟨fun h => ⟨h.stopped, h.regs, h.units, h.gen, h.spad⟩, fun ⟨h1, h2, h3, h4, h5⟩ => ⟨h1, h2, h3, h4, h5⟩⟩

theorem resetView_unwiped (k : Core) : k.unwiped.resetView = k.resetView := rfl

theorem WasReset.of_unwiped {k k' k'' : Core} (h : WasReset k k') (hw : k''.unwiped = k'.unwiped) : WasReset k k'' := by
  rw [wasReset_iff] at h ⊢
  rw [← resetView_unwiped, hw, resetView_unwiped, h]

/-- The log of a core's own trap, and its reset (R505, R514). -/
def State.resetOne (s : State) (c : Nat) : State :=
  let k := s.core c
  let cause := fld (k.csrReg 0x028) 0 8
  let st1 := if cause = 0 then s else s.setPart (partOf c) ((s.part (partOf c)).logTrap
    { vcore := k.vc, pcore := c, cause := cause, fn := k.fnOf, tag := BitVec.ofNat 16 (fld (k.csrReg 0x002) 0 16),
      pc := k.csrReg 0x029, addr := k.csrReg 0x02A, uptime := s.mc.uptime })
  st1.coreReset c

/-- What the reset of some cores leaves: memory, the host, commands and runs. -/
def State.shell (s : State) : NMap Byte × List Host.Cell × List Cmd × List Run := (s.mem, s.host, s.cmds, s.runs)

theorem shell_of_coresOnly {s t : State} (h : CoresOnly s t) : t.shell = s.shell := by
  obtain ⟨k, m, rfl⟩ := h
  rfl

theorem resetOne_spec (s : State) (c : Nat) :
    WasReset (s.core c) ((s.resetOne c).core c) ∧ (∀ x, x ≠ c → ((s.resetOne c).core x).unwiped = (s.core x).unwiped) ∧
      (s.resetOne c).shell = s.shell := by
  unfold State.resetOne
  extract_lets k cause st1
  have hc (x : Nat) : st1.core x = s.core x := by
    unfold st1
    split <;> rfl
  have hs : st1.shell = s.shell := by
    unfold st1
    split <;> rfl
  obtain ⟨hself, hothers, hrest⟩ := coreReset_spec st1 c
  rw [hc] at hself
  refine ⟨hself.was, fun x hx => ?_, (shell_of_coresOnly hrest).trans hs⟩
  rw [hothers x hx, hc]

theorem gen_unwiped (k : Core) : k.unwiped.gen = k.gen := rfl
theorem spad_unwiped (k : Core) : k.unwiped.spad = k.spad := rfl

/-- Each of some cores is reset once; the others are at most marked for a wipe. -/
theorem foldl_resetOne (l : List Nat) (hl : l.Nodup) (s : State) :
    (∀ x ∈ l, WasReset (s.core x) ((l.foldl State.resetOne s).core x)) ∧
      (∀ x, x ∉ l → ((l.foldl State.resetOne s).core x).unwiped = (s.core x).unwiped) ∧ (l.foldl State.resetOne s).shell = s.shell := by
  induction l generalizing s with
  | nil => exact ⟨fun x hx => absurd hx List.not_mem_nil, fun _ _ => rfl, rfl⟩
  | cons c r ih =>
    obtain ⟨hc, hr⟩ := List.nodup_cons.1 hl
    obtain ⟨hself, hothers, hshell⟩ := resetOne_spec s c
    obtain ⟨hin, hout, hsh⟩ := ih hr (s.resetOne c)
    rw [List.foldl_cons]
    refine ⟨fun x hx => ?_, fun x hx => ?_, hsh.trans hshell⟩
    · rcases List.mem_cons.1 hx with rfl | hx
      · exact hself.of_unwiped (hout x hc)
      · have hxc : x ≠ c := fun e => hc (e ▸ hx)
        exact (hin x hx).of_same (by rw [← gen_unwiped, hothers x hxc, gen_unwiped]) (by rw [← spad_unwiped, hothers x hxc, spad_unwiped])
    · obtain ⟨hxc, hxr⟩ := not_or.1 (mt List.mem_cons.2 hx)
      rw [hout x hxr, hothers x hxc]

/-- The state once the run of the cores to reset is stopped. -/
def State.resetStops (s : State) (id : Nat) : State :=
  match s.run id with
  | some r => if r.st = .running ∨ r.st = .held then s.stopRunAs r 8 stReset
              else if r.st = .stopped ∧ r.abortCause = 8 then s.modRun id fun y => { y with status := some stReset } else s
  | none => s

/-- Some cores of one run at most, where no epoch stands and no sequence of the run is under way. -/
structure Resettable (s : State) (cs : List Nat) (r : Nat) : Prop where
  idle : ∀ g, (s.group g).st = .idle
  runs : ∀ x, x ∈ cs → (s.core x).run = 0 ∨ (s.core x).run = r + 1
  running : ∀ y, s.run r = some y → y.st = .running ∧ y.status = none
  nbs : ∀ st q, (s.nb st).cur = some q → q.run ≠ r

/-- The run of the cores to reset is stopped with CANCELLED_BY_RESET. -/
theorem resetStops_spec {s : State} {cs : List Nat} {r : Nat} (h : Resettable s cs r) :
    (∀ x, ((s.resetStops r).core x).gen = (s.core x).gen ∧ ((s.resetStops r).core x).spad = (s.core x).spad) ∧
      (s.resetStops r).groups = s.groups ∧
      ((s.resetStops r).mem = s.mem ∧ (s.resetStops r).host = s.host ∧ (s.resetStops r).cmds = s.cmds) ∧
      ∀ y, s.run r = some y → (s.resetStops r).run r = some { y with st := .stopped, status := some stReset } := by
  unfold State.resetStops
  cases hy : s.run r with
  | none => exact ⟨fun _ => ⟨rfl, rfl⟩, rfl, ⟨rfl, rfl, rfl⟩, fun y e => nomatch e⟩
  | some y =>
    obtain ⟨hst, hsome⟩ := h.running y hy
    have hid := run_id hy
    obtain ⟨t, ht, he⟩ := stopRun_halts (run := r) h.nbs stReset
    have hs : s.stopRunAs y 8 stReset = s.stopRun r stReset := by
      unfold State.stopRunAs
      rw [hst]
      dsimp only
      rw [hid, abortRun_idle h.idle]
    have hrun : t.run r = some y := by
      rw [State.run, ht.runs]
      exact hy
    dsimp only
    rw [if_pos (.inl hst), hs, he]
    refine ⟨fun x => ⟨ht.gen x, ht.spad x⟩, ht.groups, ht.shell, fun y' e => ?_⟩
    obtain rfl := Option.some.inj e
    rw [run_modRun_map t r (f := Run.stopWith stReset) fun _ => rfl, hrun]
    simp [Run.stopWith, hsome]

/-- The runs of the cores to reset. -/
def State.runsOf (s : State) (cs : List Nat) : List Nat := cs.filterMap fun c => if (s.core c).run = 0 then none else some ((s.core c).run - 1)

theorem runsOf_const {s : State} {cs : List Nat} {r : Nat} (h : Resettable s cs r) : ∀ x ∈ s.runsOf cs, x = r := by
  intro x hx
  obtain ⟨c, hc, e⟩ := List.mem_filterMap.1 hx
  obtain h0 | h1 := h.runs c hc
  · simp [h0] at e
  · simp [h1] at e
    exact e.symm

/-- A reset of cores where no epoch stands: their run is stopped, and each of them is reset. -/
theorem resetCores_eq {s : State} {cs : List Nat} {r : Nat} (h : Resettable s cs r) :
    s.resetCores cs = cs.foldl State.resetOne ((s.runsOf cs).eraseDups.foldl State.resetStops s) := by
  unfold State.resetCores
  extract_lets gs runs s1 s2 s3
  have h1 : s1 = s := List.foldlRecOn (motive := fun t : State => t = s) _ _ rfl fun t ht g _ => by rw [ht, abortGroup_idle (h.idle g)]
  have hnone : (gs.filterMap fun g => if (s.group g).run = 0 ∨ !liveEpoch (s.group g).st then none else some ((s.group g).run - 1)) = [] := by
    rw [List.filterMap_eq_nil_iff]
    intro g _
    exact if_pos (.inr (by rw [h.idle g]; rfl))
  have hr : runs = (s.runsOf cs).eraseDups := by
    unfold runs
    rw [hnone, List.append_nil]
    rfl
  have h2 : s2 = (s.runsOf cs).eraseDups.foldl State.resetStops s := by
    rw [← hr, ← h1]
    rfl
  have hg : s2.groups = s.groups := by
    rw [h2]
    rcases eraseDups_const (runsOf_const h) with e | e
    · rw [e]
      rfl
    · rw [e]
      exact (resetStops_spec h).2.1
  have h3 : s3 = s2 := List.foldlRecOn (motive := fun t : State => t = s2) _ _ rfl fun t ht g _ => by
    have hi : (s2.group g).st = .idle := by
      rw [State.group, hg]
      exact h.idle g
    rw [ht, hi]
    exact if_neg fun e => nomatch e.1
  rw [← h2, ← h3]
  rfl

/-- What a reset of cores of one run leaves (R504, R505). -/
theorem resetCores_spec {s : State} {cs : List Nat} {r : Nat} (h : Resettable s cs r) (hn : cs.Nodup) :
    (∀ x, x ∈ cs → WasReset (s.core x) ((s.resetCores cs).core x)) ∧
      ((s.resetCores cs).mem = s.mem ∧ (s.resetCores cs).host = s.host ∧ (s.resetCores cs).cmds = s.cmds) ∧
      ∀ y x, x ∈ cs → (s.core x).run = r + 1 → s.run r = some y →
        (s.resetCores cs).run r = some { y with st := .stopped, status := some stReset } := by
  rw [resetCores_eq h]
  obtain ⟨hkept, -, ⟨hm, hh, hc⟩, hrun⟩ := resetStops_spec h
  have hstops : (s.runsOf cs).eraseDups.foldl State.resetStops s = s ∧ (∀ x ∈ cs, (s.core x).run ≠ r + 1) ∨
      (s.runsOf cs).eraseDups.foldl State.resetStops s = s.resetStops r := by
    rcases eraseDups_const (runsOf_const h) with e | e
    · refine .inl ⟨by rw [e]; rfl, fun x hx hxr => ?_⟩
      have hmem : r ∈ (s.runsOf cs).eraseDups := List.mem_eraseDups.2 (List.mem_filterMap.2 ⟨x, hx, by rw [hxr, if_neg (by omega)]; rfl⟩)
      rw [e] at hmem
      cases hmem
    · exact .inr (by rw [e]; rfl)
  rcases hstops with ⟨e, hno⟩ | e
  · rw [e]
    obtain ⟨hin, -, hsh⟩ := foldl_resetOne cs hn s
    have hm' := congrArg (fun x : NMap Byte × List Host.Cell × List Cmd × List Run => (x.1, x.2.1, x.2.2.1)) hsh
    obtain ⟨h1, h2, h3⟩ : _ ∧ _ ∧ _ := by simpa [State.shell] using hm'
    exact ⟨hin, ⟨h1, h2, h3⟩, fun y x hx hxr _ => absurd hxr (hno x hx)⟩
  · rw [e]
    obtain ⟨hin, -, hsh⟩ := foldl_resetOne cs hn (s.resetStops r)
    obtain ⟨h1, h2, h3, h4⟩ : _ ∧ _ ∧ _ ∧ _ := by simpa [State.shell] using hsh
    refine ⟨fun x hx => (hin x hx).of_same (hkept x).1 (hkept x).2, ⟨h1.trans hm, h2.trans hh, h3.trans hc⟩, fun y x hx hxr hy => ?_⟩
    rw [State.run, h4]
    exact hrun y hy

/-! ### The shutters of a cluster are staged again (R466) -/

/-- A core without the state of its shutter. -/
def Core.shutless (k : Core) : Core := { k with shutterOpen := false, staging := false }

theorem resetView_shutless (k : Core) : k.shutless.resetView = k.resetView := rfl

theorem WasReset.of_shutless {k k' k'' : Core} (h : WasReset k k') (hw : k''.shutless = k'.shutless) : WasReset k k'' := by
  rw [wasReset_iff] at h ⊢
  rw [← resetView_shutless, hw, resetView_shutless, h]

/-- t is s but for the shutters of cores, and what stages them. -/
structure Restaged (s t : State) : Prop where
  cores : ∀ x, (t.core x).shutless = (s.core x).shutless
  shell : t.shell = s.shell

namespace Restaged
variable {s t u : State}

theorem refl (s : State) : Restaged s s := ⟨fun _ => rfl, rfl⟩
theorem trans (h : Restaged s t) (g : Restaged t u) : Restaged s u := ⟨fun x => (g.cores x).trans (h.cores x), g.shell.trans h.shell⟩

theorem modCore (c : Nat) {f : Core → Core} (hf : ∀ k, (f k).shutless = k.shutless) : Restaged s (s.modCore c f) := by
  refine ⟨fun x => ?_, rfl⟩
  by_cases h : x = c
  · rw [h, State.core_modCore_same, hf]
  · rw [State.core_modCore_ne _ _ h]

theorem of_cores (hc : t.cores = s.cores) (hs : t.shell = s.shell) : Restaged s t := ⟨fun x => by rw [State.core_congr hc], hs⟩

theorem foldl {α : Type} (f : State → α → State) (hf : ∀ t a, Restaged t (f t a)) (l : List α) (s : State) : Restaged s (l.foldl f s) :=
  List.foldlRecOn l f (refl s) fun _ h a _ => h.trans (hf _ a)

end Restaged

theorem restaged_beginStage (s : State) (g n : Nat) : Restaged s (s.beginStage g n) := by
  unfold State.beginStage
  dsimp only
  split
  · exact Restaged.of_cores (by rfl) (by rfl)
  · exact Restaged.of_cores (by rfl) (by rfl)

theorem restaged_startStaging (s : State) (g : Nat) (cs : List Nat) : Restaged s (s.startStaging g cs) := by
  unfold State.startStaging
  split
  · exact .refl s
  · have h1 := Restaged.foldl (fun (st : State) (c : Nat) => st.modCore c fun k => { k with staging := true })
      (fun t c => Restaged.modCore c fun _ => rfl) cs s
    refine (h1.trans ?_).trans (restaged_beginStage ..)
    exact Restaged.of_cores (by rfl) (by rfl)

theorem restaged_restage (s : State) (n : Nat) : Restaged s (s.restage n) := by
  unfold State.restage State.openShutters
  refine (Restaged.foldl _ (fun t c => ?_) _ s).trans (Restaged.foldl _ (fun t g => restaged_startStaging t g _) _ _)
  exact Restaged.modCore c fun _ => rfl

end Sys2Proof.Machine
end

section
namespace Sys2Proof.Machine
open Sys2Proof

/-! ### RESET_CORE, RESET_CLUSTER and the fabric monitor (R401, R505, R510) -/

/-- The cores of a cluster. -/
theorem clusterCores_nodup (n : Nat) : ((List.range 17).map fun i => 17 * n + i).Nodup :=
  List.nodup_range.map fun i j (h : 17 * n + i = 17 * n + j) => by omega

theorem resettable_nodup {k : Nat} {cs : List Nat} (h : cs = [k] ∨ cs = (List.range 17).map fun i => 17 * clusterOf k + i) : cs.Nodup := by
  rcases h with rfl | rfl
  · exact List.nodup_singleton k
  · exact clusterCores_nodup _

section
variable {s : State} {cs : List Nat} {r : Nat} (h : Resettable s cs r) (hn : cs.Nodup)
include h hn

theorem resetCores_sameMemory : SameMemory s (s.resetCores cs) := fun a => by rw [(resetCores_spec h hn).2.1.1]

/-- A cluster reset that no command asked for. -/
theorem restage_resetCores (n : Nat) :
    (∀ x, x ∈ cs → WasReset (s.core x) (((s.resetCores cs).restage n).core x)) ∧ SameMemory s ((s.resetCores cs).restage n) ∧
      ((s.resetCores cs).restage n).host = s.host ∧ ((s.resetCores cs).restage n).cmds = s.cmds := by
  obtain ⟨hin, ⟨hm, hh, hc⟩, -⟩ := resetCores_spec h hn
  obtain ⟨hcores, hshell⟩ := restaged_restage (s.resetCores cs) n
  obtain ⟨h1, h2, h3, -⟩ : _ ∧ _ ∧ _ ∧ _ := by simpa [State.shell] using hshell
  exact ⟨fun x hx => (hin x hx).of_shutless (hcores x), fun a => by rw [h1, hm], h2.trans hh, h3.trans hc⟩

end

theorem execFabricMonitorExpiry_resets {s : State} {k r : Nat} (hu : Unit.core k = true)
    (h : Resettable s ((List.range 17).map fun i => 17 * clusterOf k + i) r) :
    exec (.fabricMonitorExpiry (clusterOf k)) s =
      .next (((s.logEv 510 (clusterOf k)).resetCores ((List.range 17).map fun i => 17 * clusterOf k + i)).restage (clusterOf k)) := by
  have hc : Unit.cluster (clusterOf k) = true := by
    unfold Unit.core at hu
    unfold Unit.cluster clusterOf
    rw [decide_eq_true_eq] at hu ⊢
    omega
  have hw : (s.logEv 510 (clusterOf k)).resetWaits ((List.range 17).map fun i => 17 * clusterOf k + i) = false :=
    resetWaits_none (fun g e => nomatch (h.idle g).symm.trans e) _
  show execFabricMonitorExpiry (clusterOf k) s = _
  unfold execFabricMonitorExpiry
  rw [hc, onUnit_true]
  dsimp only
  rw [hw]
  rfl

section
variable {s : State} {c : Cmd} {cs : List Nat} {k : Nat} (hp : ∀ x ∈ cs, partOf x = partOf k)
include hp

/-- A reset by command of cores of one partition whose doors are open and that is awake, with no epoch CONFIRMING. -/
theorem unitReset_resets (hd : s.doorShut (partOf k) = false) (ha : s.asleep (partOf k) = false)
    (hg : ∀ g, (s.group g).st ≠ .confirming) (after : State → State) :
    s.unitReset c cs after = (after (s.resetCores cs)).finish c.id stOk := by
  have h1 : (cs.any fun x => s.doorShut (partOf x)) = false := by
    rw [List.any_eq_false]
    intro x hx
    rw [hp x hx, hd]
    exact Bool.false_ne_true
  have h2 : ((cs.map partOf).eraseDups.any s.asleep) = false := by
    rw [List.any_eq_false]
    intro q hq
    obtain ⟨x, hx, rfl⟩ := List.mem_map.1 (List.mem_eraseDups.1 hq)
    rw [hp x hx, ha]
    exact Bool.false_ne_true
  unfold State.unitReset State.awakeFor
  rw [h1, resetWaits_none hg, h2]
  rfl

end

theorem finish_ok (s : State) (n : Nat) : s.finish n stOk = s.complete n 0x00 0 [] := rfl

theorem execResetCore_placed {s : State} {n : Nat} {c : Cmd} {im : Image} {k : Nat} (hc : s.cmdFor n 0x50 = some c)
    (him : s.img.image = some im) (hu : c.unused [(0x10, 2)] = []) (hv : c.at_ 0x10 2 < im.vcores) (hk : s.placed (c.at_ 0x10 2) = some k) :
    exec (.resetCore n) s = .next (s.unitReset c [k] id) := by
  show execResetCore n s = _
  unfold execResetCore
  rw [onCmd_some hc, him]
  dsimp only
  rw [hk, hu]
  simp only [flag, Nat.not_le.2 hv, decide_false, Option.isNone_some, Bool.or_self, List.append_nil, Bool.false_eq_true, if_false, checked_nil]

theorem execResetCluster_placed {s : State} {id : Nat} {c : Cmd} {im : Image} {k : Nat} (hc : s.cmdFor id 0x51 = some c)
    (him : s.img.image = some im) (hu : c.unused [(0x10, 2)] = []) (hv : c.at_ 0x10 2 < 1280) (hk : s.placed (16 * c.at_ 0x10 2) = some k) :
    exec (.resetCluster id) s =
      .next (s.unitReset c ((List.range 17).map fun i => 17 * clusterOf k + i) fun t => t.restage (clusterOf k)) := by
  have hhead : ((List.range 16).filterMap fun j => s.placed (16 * c.at_ 0x10 2 + j)).head? = some k := by
    rw [List.range_succ_eq_map, List.filterMap_cons, Nat.add_zero, hk]
    rfl
  show execResetCluster id s = _
  unfold execResetCluster
  rw [onCmd_some hc, him]
  dsimp only
  rw [hhead, hu]
  simp only [flag, Nat.not_le.2 hv, decide_false, Option.isNone_some, Bool.or_self, List.append_nil, Bool.false_eq_true, if_false, checked_nil]

theorem coreResets_claim : Claim.CoreResets := by
  intro s id c im k hidle hu
  have hconf : ∀ g, (s.group g).st ≠ .confirming := fun g e => nomatch (hidle g).symm.trans e
  refine ⟨fun cs r hcs hruns hrun hnb => ?_, fun him hd hun hc hv hk => ?_⟩
  · have h : Resettable s cs r := ⟨hidle, hruns, hrun, hnb⟩
    have hn := resettable_nodup hcs
    refine ⟨fun hne => ?_, fun him ha hd hun => ⟨fun hc hk1 hv hk => ?_, fun hc hne hv hk hp => ?_⟩⟩
    · obtain rfl := hcs.resolve_left hne
      have h' : Resettable (s.logEv 510 (clusterOf k)) _ r := ⟨hidle, hruns, hrun, hnb⟩
      exact ⟨_, execFabricMonitorExpiry_resets hu h, restage_resetCores h' hn _⟩
    · subst hk1
      obtain ⟨-, -, -, hid⟩ := cmdFor_some hc
      obtain ⟨hin, ⟨-, hh, hcm⟩, hr⟩ := resetCores_spec h hn
      refine ⟨s.resetCores [k], ?_, hin k (List.mem_singleton.2 rfl), fun y hy hkr => ?_, resetCores_sameMemory h hn, hh, hcm⟩
      · rw [execResetCore_placed hc him hun hv hk, unitReset_resets (fun x hx => by rw [List.mem_singleton.1 hx]) hd ha hconf, hid, finish_ok, id_eq]
      · rw [hr y k (List.mem_singleton.2 rfl) hkr hy]
        rfl
    · obtain rfl := hcs.resolve_left hne
      obtain ⟨-, -, -, hid⟩ := cmdFor_some hc
      refine ⟨_, ?_, restage_resetCores h hn (clusterOf k)⟩
      rw [execResetCluster_placed hc him hun hv hk, unitReset_resets hp hd ha hconf, hid, finish_ok]
  · obtain ⟨-, -, -, hid⟩ := cmdFor_some hc
    rw [execResetCore_placed hc him hun hv hk, State.unitReset, if_pos (by simpa using hd), hid]
    rfl

end Sys2Proof.Machine
end

section
namespace Sys2Proof.Machine
open Sys2Proof

/-! ### RESET_PARTITION begins (R340, R401, R506, R508) -/

theorem frame_parts {s t : State} {p : Nat} (h : t.frame p = s.frame p) : t.parts = s.parts := congrArg (fun x => x.1) h
theorem frame_host {s t : State} {p : Nat} (h : t.frame p = s.frame p) : t.host = s.host := congrArg (fun x => x.2.1) h
theorem frame_cmds {s t : State} {p : Nat} (h : t.frame p = s.frame p) : t.cmds = s.cmds := congrArg (fun x => x.2.2.1) h
theorem frame_regMode {s t : State} {p : Nat} (h : t.frame p = s.frame p) : t.creg (offRegMode p) = s.creg (offRegMode p) :=
  congrArg (fun x => x.2.2.2.2.1) h

theorem State.part_congr {s t : State} (h : t.parts = s.parts) (q : Nat) : t.part q = s.part q := by simp only [State.part, h]
theorem State.cmd_congr {s t : State} (h : t.cmds = s.cmds) (id : Nat) : t.cmd id = s.cmd id := by simp only [State.cmd, h]

theorem cmd_modCmd_map (s : State) (id : Nat) {f : Cmd → Cmd} (hf : ∀ x, (f x).id = x.id) : (s.modCmd id f).cmd id = (s.cmd id).map f :=
  find?_updFirst_same (p := fun x : Cmd => x.id == id) (f := f) (fun x hx => by rw [hf]; exact hx) s.cmds

/-- A partition whose reset by command begins (R506, R508). -/
def Part.draining (x : Part) (noDump : Bool) (cmd area seq : Nat) : Part :=
  { x with door := .draining, resetting := true, reason := 1, noDump := noDump, resetCmd := cmd, area := area, forced := [], misses := 0,
           eventSeq := seq }

/-- The state in which the runs and epochs of a partition end as its reset begins. -/
def State.drainStart (s : State) (p : Nat) (noDump : Bool) (cmd : Nat) : State :=
  let s1 := (s.logEv 506 p).setPart p ((s.part p).draining noDump cmd (s.areaFor p) s.mc.eventSeq)
  (if s.areaFor p = 0 then s1.logEv 508 p else s1).setAuto p 1

theorem beginReset_eq {s : State} {p : Nat} (hr : (s.part p).resetting = false) (hu : s.unusable p = false) (noDump : Bool) (cmd : Nat) :
    s.beginReset p 1 noDump cmd = (s.drainStart p noDump cmd).endUsers p := by
  unfold State.beginReset
  dsimp only
  rw [hr, hu]
  rfl

theorem setAuto_cfld (s : State) (p : Nat) {v : Nat} (hv : v < 2) : (s.setAuto p v).cfld (offRegMode p) 4 1 = v := by
  have h : (s.setCfld (offRegMode p) 4 1 v).cfld (offRegMode p) 4 1 = v := by
    rw [State.cfld_setCfld_same s (offRegMode p) v (lo := 4) (n := 1) (by omega)]
    exact Nat.mod_eq_of_lt hv
  unfold State.setAuto State.modeChanged
  split
  · exact h
  · exact h

/-- What a change of AUTO_ACTIVE leaves. -/
theorem setAuto_rest (s : State) (p v : Nat) : (s.setAuto p v).parts = s.parts ∧ (s.setAuto p v).cores = s.cores ∧
    (s.setAuto p v).host = s.host ∧ (s.setAuto p v).cmds = s.cmds ∧ (s.setAuto p v).mem = s.mem ∧ (s.setAuto p v).nbs = s.nbs := by
  unfold State.setAuto State.modeChanged
  split
  · exact ⟨rfl, rfl, rfl, rfl, rfl, rfl⟩
  · exact ⟨rfl, rfl, rfl, rfl, rfl, rfl⟩

theorem drainStart_rest (s : State) (p : Nat) (noDump : Bool) (cmd : Nat) :
    (s.drainStart p noDump cmd).part p = (s.part p).draining noDump cmd (s.areaFor p) s.mc.eventSeq ∧
      (∀ q, q ≠ p → (s.drainStart p noDump cmd).part q = s.part q) ∧ (s.drainStart p noDump cmd).host = s.host ∧
      (s.drainStart p noDump cmd).cmds = s.cmds ∧ (s.drainStart p noDump cmd).mem = s.mem ∧ (s.drainStart p noDump cmd).nbs = s.nbs := by
  unfold State.drainStart
  extract_lets s1
  obtain ⟨hp, -, hh, hc, hm, hn⟩ := setAuto_rest (if s.areaFor p = 0 then s1.logEv 508 p else s1) p 1
  have h1 : (if s.areaFor p = 0 then s1.logEv 508 p else s1).parts = s1.parts ∧ (if s.areaFor p = 0 then s1.logEv 508 p else s1).host = s.host ∧
      (if s.areaFor p = 0 then s1.logEv 508 p else s1).cmds = s.cmds ∧ (if s.areaFor p = 0 then s1.logEv 508 p else s1).mem = s.mem ∧
      (if s.areaFor p = 0 then s1.logEv 508 p else s1).nbs = s.nbs := by
    split <;> exact ⟨rfl, rfl, rfl, rfl, rfl⟩
  obtain ⟨gp, gh, gc, gm, gn⟩ := h1
  refine ⟨?_, fun q hq => ?_, hh.trans gh, hc.trans gc, hm.trans gm, hn.trans gn⟩
  · rw [State.part_congr (hp.trans gp)]
    exact State.part_setPart_same ..
  · rw [State.part_congr (hp.trans gp)]
    exact State.part_setPart_ne _ _ hq

section
variable {s : State} {p id : Nat} {c : Cmd} (hp : Unit.part p = true) (hc : s.cmdFor id 0x52 = some c) (hst : c.started = false)
  (hu : c.unused [(0x10, 2)] = []) (hat : c.at_ 0x10 1 = p) (hd : c.at_ 0x11 1 ≤ 1)
include hp hc hst hu hat hd

theorem execResetPartition_checked : exec (.resetPartition id) s = .next (
    if (s.part p).resetting then s.finish c.id stBusy
    else if s.unusable p then s.finish c.id stDoorClosed
    else s.awakeFor [p] ((s.modCmd c.id fun x => { x with started := true }).beginReset p 1 (c.at_ 0x11 1 == 1) (c.id + 1))) := by
  have h7 : ¬7 < p := by
    unfold Unit.part at hp
    rw [decide_eq_true_eq] at hp
    omega
  show execResetPartition id s = _
  unfold execResetPartition
  rw [onCmd_some hc]
  dsimp only
  rw [hst, hu, hat]
  simp only [flag, h7, Nat.not_lt.2 hd, decide_false, List.append_nil, Bool.false_eq_true, if_false, checked_nil]

theorem execResetPartition_begins (hr : (s.part p).resetting = false) (hn : s.unusable p = false) (ha : s.asleep p = false) :
    ∃ t, exec (.resetPartition id) s = .next t ∧ (t.part p).door = .draining ∧ (t.part p).resetting = true ∧ (t.part p).reason = 1 ∧
      (t.part p).noDump = (c.at_ 0x11 1 == 1) ∧ (t.part p).resetCmd = id + 1 ∧ t.cfld (offRegMode p) 4 1 = 1 ∧
      t.cmd id = some { c with started := true } ∧ (∀ q, q ≠ p → t.part q = s.part q) ∧ t.host = s.host ∧
      ((∀ st, (s.nb st).cur = none) → SameMemory s t) := by
  obtain ⟨hcmd, -, -, rfl⟩ := cmdFor_some hc
  have hexec := execResetPartition_checked hp hc hst hu hat hd
  generalize hs1 : (s.modCmd c.id fun x => { x with started := true }) = s1 at hexec
  have hr1 : (s1.part p).resetting = false := by rw [← hs1]; exact hr
  have hn1 : s1.unusable p = false := by rw [← hs1]; exact hn
  have hcmd1 : s1.cmd c.id = some { c with started := true } := by
    rw [← hs1, cmd_modCmd_map s c.id (f := fun x => { x with started := true }) fun _ => rfl, hcmd]
    rfl
  rw [hr, hn, beginReset_eq hr1 hn1] at hexec
  obtain ⟨hf, -, hq⟩ := winds_endUsers p (s1.drainStart p (c.at_ 0x11 1 == 1) (c.id + 1)) p
  obtain ⟨hpart, hothers, hh, hcm, hm, hnb⟩ := drainStart_rest s1 p (c.at_ 0x11 1 == 1) (c.id + 1)
  have hpp := State.part_congr (frame_parts hf)
  refine ⟨(s1.drainStart p (c.at_ 0x11 1 == 1) (c.id + 1)).endUsers p, hexec.trans ?_, ?_, ?_, ?_, ?_, ?_, ?_, ?_, fun q hqp => ?_, ?_,
    fun hnone => ?_⟩
  · simp [State.awakeFor, ha]
  · rw [hpp, hpart]
    rfl
  · rw [hpp, hpart]
    rfl
  · rw [hpp, hpart]
    rfl
  · rw [hpp, hpart]
    rfl
  · rw [hpp, hpart]
    rfl
  · rw [State.cfld, frame_regMode hf]
    exact setAuto_cfld _ p (by decide)
  · rw [State.cmd_congr ((frame_cmds hf).trans hcm), hcmd1]
  · rw [hpp, hothers q hqp, ← hs1]
    rfl
  · rw [frame_host hf, hh, ← hs1]
    rfl
  · obtain ⟨hm', -⟩ := hq fun st => by
      rw [State.nb, hnb, ← hs1]
      exact hnone st
    intro a
    rw [hm', hm, ← hs1]
    rfl

end

end Sys2Proof.Machine
end

section
namespace Sys2Proof.Machine
open Sys2Proof

/-! ### The doors close, and a bay that does not drain is reset (R507 to R509) -/

theorem cutConfirm_skip {s : State} {g : Nat} (h : (s.group g).st ≠ .confirming) : s.cutConfirm g = s := by
  unfold State.cutConfirm
  exact if_pos h

theorem execDoorDrainEnd_absorbs {s : State} {p : Nat} (hp : Unit.part p = true) (hd : (s.part p).door = .draining)
    (hg : ∀ g, g ∈ s.groupsOn p → (s.group g).st ≠ .confirming) :
    exec (.doorDrainEnd p) s = .next (s.setPart p { s.part p with door := .absorbing }) := by
  show execDoorDrainEnd p s = _
  unfold execDoorDrainEnd doorDrainEnd
  rw [hp, onUnit_true, if_neg (by simp [hd])]
  exact congrArg Host.Outcome.next (List.foldlRecOn (motive := fun t : State => t = s.setPart p { s.part p with door := .absorbing }) _ _ rfl
    fun t ht g hm => by
      rw [ht]
      exact cutConfirm_skip (hg g hm))

theorem execDoorDrainEnd_skip {s : State} {p : Nat} (hp : Unit.part p = true) (hd : (s.part p).door ≠ .draining) :
    exec (.doorDrainEnd p) s = .next s := by
  show execDoorDrainEnd p s = _
  unfold execDoorDrainEnd doorDrainEnd
  rw [hp, onUnit_true, if_pos hd]

theorem markLine_aside (s : State) (bay : Nat) (l : Line) : (s.markLine bay l).aside = s.aside := by
  unfold State.markLine
  rw [aside_ite, ite_eq_right_iff]
  intro _
  refine (foldl_aside _ ?_ _ _).trans (dropLine_aside ..)
  exact fun _ _ => rfl

/-- The generation and the miss entries of a bay. -/
def State.misses (s : State) (n : Nat) : BitVec 16 × List Miss := ((s.bay n).gen, (s.bay n).miss)

theorem misses_of_bays {s t : State} (h : t.bays = s.bays) (n : Nat) : t.misses n = s.misses n := by simp only [State.misses, State.bay, h]

theorem dropLine_misses (s : State) (bay : Nat) (l : Line) (n : Nat) : (s.dropLine bay l).misses n = s.misses n := by
  unfold State.misses
  rw [dropLine_bay]
  split
  · next h =>
    subst h
    rfl
  · rfl

theorem markLine_misses (s : State) (bay : Nat) (l : Line) (n : Nat) : (s.markLine bay l).misses n = s.misses n := by
  unfold State.markLine
  split
  · refine (misses_of_bays ?_ n).trans (dropLine_misses s bay l n)
    exact List.foldlRecOn (motive := fun t : State => t.bays = (s.dropLine bay l).bays) _ _ rfl fun _ ht _ _ => ht
  · rfl

/-- The stores of a core on their way are dropped, each with a record (R509). -/
def State.dropStores (s : State) (c : Nat) : State :=
  ((s.core c).stores.foldl (fun (a : State) (w : Store) => a.logEv 509 w.addr) s).modCore c fun k => { k with stores := [] }

theorem dropStores_spec (s : State) (c : Nat) :
    ((s.dropStores c).core c).stores = [] ∧ ((s.dropStores c).core c).s = (s.core c).s ∧
      (∀ x, x ≠ c → (s.dropStores c).core x = s.core x) ∧ (s.dropStores c).bays = s.bays ∧ (s.dropStores c).host = s.host := by
  unfold State.dropStores
  have h : ∀ l : List Store, (l.foldl (fun (a : State) (w : Store) => a.logEv 509 w.addr) s).cores = s.cores ∧
      (l.foldl (fun (a : State) (w : Store) => a.logEv 509 w.addr) s).bays = s.bays ∧
      (l.foldl (fun (a : State) (w : Store) => a.logEv 509 w.addr) s).host = s.host := fun l =>
    List.foldlRecOn (motive := fun t : State => t.cores = s.cores ∧ t.bays = s.bays ∧ t.host = s.host) l _ ⟨rfl, rfl, rfl⟩ fun _ ht _ _ => ht
  obtain ⟨hc, hb, hh⟩ := h (s.core c).stores
  generalize (s.core c).stores.foldl (fun (a : State) (w : Store) => a.logEv 509 w.addr) s = t at hc hb hh ⊢
  refine ⟨?_, ?_, fun x hx => ?_, hb, hh⟩
  · rw [State.core_modCore_same]
  · rw [State.core_modCore_same, State.core_congr hc]
  · rw [State.core_modCore_ne _ _ hx, State.core_congr hc]

theorem foldl_dropStores (l : List Nat) (s : State) :
    (∀ c ∈ l, ((l.foldl State.dropStores s).core c).stores = []) ∧ (∀ c, ((l.foldl State.dropStores s).core c).s = (s.core c).s) ∧
      (∀ c, (s.core c).stores = [] → ((l.foldl State.dropStores s).core c).stores = []) ∧
      (l.foldl State.dropStores s).bays = s.bays ∧ (l.foldl State.dropStores s).host = s.host := by
  induction l generalizing s with
  | nil => exact ⟨fun _ h => absurd h List.not_mem_nil, fun _ => rfl, fun _ h => h, rfl, rfl⟩
  | cons c r ih =>
    obtain ⟨hst, hs, hothers, hb, hh⟩ := dropStores_spec s c
    obtain ⟨hin, hsr, hkeep, hbr, hhr⟩ := ih (s.dropStores c)
    rw [List.foldl_cons]
    refine ⟨fun x hx => ?_, fun x => (hsr x).trans ?_, fun x hx => hkeep x ?_, hbr.trans hb, hhr.trans hh⟩
    · rcases List.mem_cons.1 hx with rfl | hx
      · exact hkeep x hst
      · exact hin x hx
    · by_cases h : x = c
      · rw [h, hs]
      · rw [hothers x h]
    · by_cases h : x = c
      · rw [h, hst]
      · rw [hothers x h, hx]

/-- A bay without miss entries is cleared: no requester is answered. -/
theorem clearBay_missless {s : State} {n : Nat} (h : (s.bay n).miss = []) :
    (s.clearBay n).bay n = { gen := (s.bay n).gen + 1 } ∧ (s.clearBay n).cores = s.cores ∧ (s.clearBay n).host = s.host := by
  have hr : ∃ w, s.releaseBay n = { s with waits := w } := by
    unfold State.releaseBay
    dsimp only
    rw [h]
    exact ⟨_, rfl⟩
  obtain ⟨w, hw⟩ := hr
  unfold State.clearBay
  rw [hw]
  dsimp only
  have hf : ∀ ls : List Line, (ls.foldl (fun (st : State) (l : Line) => st.unmark n l) { s with waits := w }).bays = s.bays ∧
      (ls.foldl (fun (st : State) (l : Line) => st.unmark n l) { s with waits := w }).aside = s.aside := fun ls =>
    List.foldlRecOn (motive := fun t : State => t.bays = s.bays ∧ t.aside = s.aside) ls _ ⟨rfl, rfl⟩ fun t ⟨hb, ha⟩ l _ =>
      ⟨(unmark_bays t n l).trans hb, (unmark_aside t n l).trans ha⟩
  obtain ⟨hb, ha⟩ := hf (State.bay { s with waits := w } n).lines
  generalize (State.bay { s with waits := w } n).lines.foldl (fun (st : State) (l : Line) => st.unmark n l) { s with waits := w } = t at hb ha ⊢
  refine ⟨?_, congrArg (fun x => x.1.1) ha, congrArg (fun x => x.2.1) ha⟩
  rw [State.bay_setBay_same, State.bay, hb]
  rfl

theorem execForcedBayReset_resets {s : State} {p n : Nat} (hu : Unit.cluster n = true) (hp : partOfCluster n = p)
    (hr : (s.part p).resetting = true) (hd : (s.part p).door = .absorbing) (hf : n ∉ (s.part p).forced) (hm : (s.bay n).miss = []) :
    ∃ t, exec (.forcedBayReset n) s = .next t ∧ t.bay n = { gen := (s.bay n).gen + 1 } ∧ (t.part p).forced = (s.part p).forced ++ [n] ∧
      (∀ i, i < 17 → (t.core (17 * n + i)).stores = [] ∧ (t.core (17 * n + i)).s = (s.core (17 * n + i)).s) ∧ t.host = s.host := by
  subst hp
  have hmark : ∀ ls : List Line, (ls.foldl (fun (st : State) (l : Line) => st.markLine n l) s).misses n = s.misses n ∧
      (ls.foldl (fun (st : State) (l : Line) => st.markLine n l) s).aside = s.aside := fun ls =>
    List.foldlRecOn (motive := fun t : State => t.misses n = s.misses n ∧ t.aside = s.aside) ls _ ⟨rfl, rfl⟩ fun t ⟨hb, ha⟩ l _ =>
      ⟨(markLine_misses t n l n).trans hb, (markLine_aside t n l).trans ha⟩
  obtain ⟨hmiss, haside⟩ := hmark (s.bay n).lines
  have hexec : exec (.forcedBayReset n) s = .next (((((((List.range 17).map fun i => 17 * n + i).foldl State.dropStores
      ((s.bay n).lines.foldl (fun (st : State) (l : Line) => st.markLine n l) s)).clearBay n).setPart (partOfCluster n)
        { s.part (partOfCluster n) with forced := (s.part (partOfCluster n)).forced ++ [n] }).logEv 509 n)) := by
    show execForcedBayReset n s = _
    unfold execForcedBayReset forcedBayReset
    rw [hu, onUnit_true]
    dsimp only
    rw [hr, hd, if_neg (by simpa using hf), List.foldl_map]
    rfl
  refine ⟨_, hexec, ?_⟩
  generalize (s.bay n).lines.foldl (fun (st : State) (l : Line) => st.markLine n l) s = s1 at hmiss haside
  obtain ⟨hin, hs, -, hb, hh⟩ := foldl_dropStores ((List.range 17).map fun i => 17 * n + i) s1
  generalize ((List.range 17).map fun i => 17 * n + i).foldl State.dropStores s1 = s2 at hin hs hb hh
  have hgm : (s2.bay n).gen = (s.bay n).gen ∧ (s2.bay n).miss = (s.bay n).miss := by
    have h2 := (misses_of_bays hb n).trans hmiss
    exact ⟨congrArg Prod.fst h2, congrArg Prod.snd h2⟩
  obtain ⟨hbay, hcores, hhost⟩ := clearBay_missless (hgm.2.trans hm)
  generalize s2.clearBay n = s3 at hbay hcores hhost
  refine ⟨?_, ?_, fun i hi => ⟨?_, ?_⟩, ?_⟩
  · exact hbay.trans (by rw [hgm.1])
  · exact congrArg Part.forced (State.part_setPart_same ..)
  · exact (congrArg Core.stores (State.core_congr hcores _)).trans (hin _ (List.mem_map.2 ⟨i, List.mem_range.2 hi, rfl⟩))
  · exact (congrArg Core.s (State.core_congr hcores _)).trans (by rw [hs, core_of_aside haside])
  · exact (hhost.trans hh).trans (congrArg (fun x => x.2.1) haside)

end Sys2Proof.Machine
end

section
namespace Sys2Proof.Machine
open Sys2Proof

/-! ### Cores that a partition reset emptied stay so (R504, R507) -/

/-- Cores that were emptied stay so from s to t. -/
structure StaysLost (s t : State) : Prop where
  core : ∀ x, Lost (s.core x) → Lost (t.core x)

namespace StaysLost
variable {s t u : State}

theorem refl (s : State) : StaysLost s s := ⟨fun _ h => h⟩
theorem trans (h : StaysLost s t) (g : StaysLost t u) : StaysLost s u := ⟨fun x hx => g.core x (h.core x hx)⟩

theorem of_cores (h : t.cores = s.cores) : StaysLost s t := ⟨fun x hx => by rwa [State.core_congr h]⟩

theorem of_aside (h : t.aside = s.aside) : StaysLost s t := ⟨fun x hx => by rwa [core_of_aside h]⟩

theorem foldl {α : Type} (f : State → α → State) (hf : ∀ t a, StaysLost t (f t a)) (l : List α) (s : State) : StaysLost s (l.foldl f s) :=
  List.foldlRecOn l f (refl s) fun _ h a _ => h.trans (hf _ a)

theorem modCore (c : Nat) {f : Core → Core} (hf : ∀ k, Lost k → Lost (f k)) : StaysLost s (s.modCore c f) :=
  ⟨(Winds.modCore (p := 0) c hf).lost⟩

end StaysLost

theorem lost_of_unwiped {k k' : Core} (h : k'.unwiped = k.unwiped) (hk : Lost k) : Lost k' := by
  have e {α : Type} (f : Core → α) (hf : ∀ y : Core, f y.unwiped = f y) : f k' = f k := by
    rw [← hf k', h, hf]
  exact hk.congr (fun hr => (e Core.running fun _ => rfl).trans hr) (e Core.pc fun _ => rfl) (e Core.s fun _ => rfl)
    (e Core.spad fun _ => rfl) (e Core.epoch fun _ => rfl)

theorem lost_of_cleared {k k' : Core} (h : Cleared k k') (hm : k.spad = []) (he : k.epoch = 0) : Lost k' := by
  obtain ⟨-, hke, hks⟩ := h.kept
  obtain ⟨hr, -, hpc⟩ := h.was.stopped
  exact ⟨hr, hpc, h.was.regs.1, hks.trans hm, hke.trans he⟩

section
variable (s : State)

theorem staysLost_coreReset (c : Nat) : StaysLost s (s.coreReset c) := by
  obtain ⟨hself, hothers, -⟩ := coreReset_spec s c
  refine ⟨fun x hx => ?_⟩
  by_cases h : x = c
  · subst h
    exact lost_of_cleared hself hx.spad hx.epoch
  · exact lost_of_unwiped (hothers x h) hx

theorem staysLost_resetSoon (c : Nat) : StaysLost s (s.resetSoon c) := by
  unfold State.resetSoon
  split
  · have h := winds_stopCore 0 s c
    generalize s.stopCore c = t at h ⊢
    exact StaysLost.trans ⟨h.lost⟩ (.of_cores rfl)
  · exact staysLost_coreReset s c

theorem staysLost_trapAt (c pc cause addr status : Nat) : StaysLost s (s.trapAt c pc cause addr status) := by
  unfold State.trapAt
  extract_lets k tag rec_ s1 s2 s3 s4
  have h2 : StaysLost s s2 := StaysLost.of_cores rfl
  have h3 : StaysLost s2 s3 := by
    unfold s3
    split
    · exact .refl s2
    · exact ⟨(winds_abortGroup 0 s2 _ 7).lost⟩
  have h4 : StaysLost s3 s4 := by
    unfold s4
    split
    · exact .refl s3
    · exact ⟨(winds_abortEpochs 0 s3 _ 7).lost⟩
  exact ((h2.trans h3).trans h4).trans (staysLost_resetSoon s4 c)

theorem staysLost_waiterFails (w : Waiter) (addr cause status : Nat) : StaysLost s (s.waiterFails w addr cause status) := by
  unfold State.waiterFails
  split
  · split
    · exact staysLost_trapAt ..
    · exact .refl s
  · split
    · exact staysLost_trapAt ..
    · exact .refl s
  · exact .refl s

theorem staysLost_entryFails (bay ln : Nat) : StaysLost s (s.entryFails bay ln) := by
  unfold State.entryFails
  dsimp only
  split
  · exact .refl s
  · refine StaysLost.trans (StaysLost.of_cores ?_) (.foldl _ (fun t j => ?_) _ _)
    · rfl
    · split
      · exact staysLost_waiterFails ..
      · exact .refl t

theorem staysLost_releaseBay (n : Nat) : StaysLost s (s.releaseBay n) := by
  unfold State.releaseBay
  refine StaysLost.trans (StaysLost.of_cores ?_) (.foldl _ (fun t o => ?_) _ _)
  · rfl
  · split
    · exact .refl t
    · split
      · exact staysLost_entryFails ..
      · exact staysLost_waiterFails ..

theorem staysLost_clearBay (n : Nat) : StaysLost s (s.clearBay n) := by
  have h1 := StaysLost.foldl (fun (st : State) (l : Line) => st.unmark n l) (fun t l => .of_aside (unmark_aside t n l))
    ((s.releaseBay n).bay n).lines (s.releaseBay n)
  exact ((staysLost_releaseBay s n).trans h1).trans (.of_cores rfl)

theorem staysLost_dropCopies (p : Nat) : StaysLost s (s.dropCopies p) := by
  refine StaysLost.foldl _ (fun t e => ?_) _ s
  split
  · exact .refl t
  · exact .foldl _ (fun a l => .of_aside (dropLine_aside a e.1 l)) _ t

theorem staysLost_restPart (p m : Nat) : StaysLost s (s.restPart p m) := by
  refine StaysLost.foldl _ (fun t i => ?_) _ s
  split
  · exact .refl t
  · unfold State.setRest
    dsimp only
    split
    · exact .refl t
    · split
      · refine .of_cores ?_
        exact List.foldlRecOn (motive := fun a : State => a.cores = t.cores) _ _ rfl fun _ h _ _ => h
      · exact .of_cores rfl

theorem staysLost_droppedBytes (w : Waiter) (n : Nat) : StaysLost s (s.droppedBytes w n) := by
  unfold State.droppedBytes
  split
  · exact .of_cores rfl
  · exact .of_cores rfl
  · exact .refl s

theorem staysLost_setNb (st : Nat) (x : NbStack) : StaysLost s (s.setNb st x) := .of_cores rfl
theorem staysLost_setCfld (off lo n x : Nat) : StaysLost s (s.setCfld off lo n x) := .of_cores rfl

theorem staysLost_groupSettle (g : Nat) : StaysLost s (s.groupSettle g) := by
  unfold State.groupSettle
  dsimp only
  split
  · exact .of_cores rfl
  · exact .refl s

theorem staysLost_loseCore (c : Nat) : StaysLost s (s.loseCore c) := by
  refine (staysLost_coreReset s c).trans (.modCore c ?_)
  intro k h
  exact ⟨h.running, h.pc, h.s, rfl, rfl⟩

/-- A core of a partition that is reset is emptied. -/
theorem lost_loseCore (c : Nat) : Lost ((s.loseCore c).core c) := by
  obtain ⟨⟨hw, -, -⟩, -, -⟩ := coreReset_spec s c
  obtain ⟨hr, -, hpc⟩ := hw.stopped
  unfold State.loseCore
  rw [State.core_modCore_same]
  exact ⟨hr, hpc, hw.regs.1, rfl, rfl⟩

theorem lost_loseCores (l : List Nat) : ∀ c ∈ l, Lost ((l.foldl (fun (st : State) (c : Nat) => st.loseCore c) s).core c) := by
  induction l generalizing s with
  | nil => exact fun c h => absurd h List.not_mem_nil
  | cons a r ih =>
    intro c hc
    rw [List.foldl_cons]
    rcases List.mem_cons.1 hc with rfl | hc
    · exact StaysLost.foldl _ (fun t x => staysLost_loseCore t x) r _ |>.core c (lost_loseCore s c)
    · exact ih (s.loseCore a) c hc

theorem staysLost_forget (w : List Wait) (v : List PendingVis) (d : List Due) : StaysLost s { s with waits := w, vis := v, dues := d } := .of_cores rfl

/-- The cores of a partition whose domain is reset are emptied (R504, R507). -/
theorem lost_losePart (p : Nat) : ∀ c ∈ coresOfPart p, Lost ((s.losePart p).core c) := by
  intro c hc
  unfold State.losePart
  extract_lets s1 s2 s3 st s4 s4' s5 s6 s6' s7
  have h1 : Lost (s1.core c) := lost_loseCores s (coresOfPart p) c hc
  have h2 : StaysLost s1 s2 := .foldl _ (fun t n => staysLost_clearBay t n) _ s1
  have h3 : StaysLost s2 s3 := staysLost_dropCopies s2 p
  have h4 : StaysLost s3 s4 := .of_aside (nbFinish_aside ..)
  have h4' : StaysLost s4 s4' := staysLost_setNb ..
  have h5 : StaysLost s4' s5 := by
    unfold s5
    split
    · exact staysLost_setCfld ..
    · exact .refl s4'
  have h6 : StaysLost s5 s6 := (staysLost_restPart s5 p 2).trans (staysLost_restPart _ p 0)
  have h6' : StaysLost s6 s6' := .foldl _ (fun t (x : Wait) => staysLost_droppedBytes t x.waiter _) _ s6
  have h7 : StaysLost s6' s7 := .foldl _ (fun t g => staysLost_groupSettle t g) _ s6'
  clear_value s7 s6' s6 s5 s4' s4 s3 s2 s1
  exact ((((((((h2.trans h3).trans h4).trans h4').trans h5).trans h6).trans h6').trans h7).trans (staysLost_forget s7 _ _ _)).core c h1

end

end Sys2Proof.Machine
end

section
namespace Sys2Proof.Machine
open Sys2Proof

/-! ### The doors open again (R340, R401, R506, R508) -/

/-- The messages that a door held are delivered, the pins of a partition are filled: cores that were emptied stay so, no door moves,
and REG_MODE stays. -/
structure Endures (p : Nat) (s t : State) : Prop where
  lost : StaysLost s t
  doors : ∀ q, (t.part q).door = (s.part q).door ∧ (t.part q).resetting = (s.part q).resetting
  mode : t.creg (offRegMode p) = s.creg (offRegMode p)

namespace Endures
variable {p : Nat} {s t u : State}

theorem refl (p : Nat) (s : State) : Endures p s s := ⟨.refl s, fun _ => ⟨rfl, rfl⟩, rfl⟩

theorem trans (h : Endures p s t) (g : Endures p t u) : Endures p s u :=
  ⟨h.lost.trans g.lost, fun q => ⟨(g.doors q).1.trans (h.doors q).1, (g.doors q).2.trans (h.doors q).2⟩, g.mode.trans h.mode⟩

theorem foldl {α : Type} (f : State → α → State) (hf : ∀ t a, Endures p t (f t a)) (l : List α) (s : State) : Endures p s (l.foldl f s) :=
  List.foldlRecOn l f (refl p s) fun _ h a _ => h.trans (hf _ a)

theorem of_winds (h : Winds p s t) : Endures p s t := by
  refine ⟨⟨h.lost⟩, fun q => ?_, frame_regMode h.frame⟩
  rw [State.part_congr (frame_parts h.frame)]
  exact ⟨rfl, rfl⟩

theorem of_hush (hc : t.cores = s.cores) (hh : t.hush = s.hush) : Endures p s t := by
  have hp : t.parts = s.parts := congrArg (fun x => x.1) hh
  have hl : t.ctl = s.ctl := congrArg (fun x => x.2.2.1) hh
  have hw : t.wca1608 = s.wca1608 := congrArg (fun x => x.2.2.2) hh
  refine ⟨.of_cores hc, fun q => ?_, by simp only [State.creg, hl, hw]⟩
  rw [State.part_congr hp]
  exact ⟨rfl, rfl⟩

theorem modCore (c : Nat) {f : Core → Core} (hf : ∀ k, Lost k → Lost (f k)) : Endures p s (s.modCore c f) := .of_winds (.modCore c hf)

end Endures

section
variable (s : State)

@[simp] theorem takeWay_hush (bay core kind idx cls : Nat) : (s.takeWay bay core kind idx cls).1.hush = s.hush := by
  unfold State.takeWay
  dsimp only
  split
  · rfl
  · split
    · rfl
    · rw [setBay_hush, makeRoom_hush, drew_hush]

@[simp] theorem takeWays_hush (bay core kind cls : Nat) (idxs : List Nat) : (s.takeWays bay core kind cls idxs).1.hush = s.hush :=
  foldl_fst_hush _ (fun x i => by split <;> simp) idxs (s, true)

@[simp] theorem giveWays_hush (core kind : Nat) (p : Nat → Bool) : (s.giveWays core kind p).hush = s.hush := by
  unfold State.giveWays
  dsimp only
  split <;> rfl

theorem cores_of_aside {s t : State} (h : t.aside = s.aside) : t.cores = s.cores := congrArg (fun x => x.1.1) h

theorem lost_bumpCsr {k : Core} (h : Lost k) (n x : Nat) : Lost (k.bumpCsr n x) :=
  h.congr id rfl rfl rfl rfl

theorem endures_bump (p fam unit pos n : Nat) : Endures p s (s.bump fam unit pos n) := .of_hush rfl rfl

theorem endures_intoRing (p c : Nat) (m : Msg) : Endures p s (s.intoRing c m).1 := by
  unfold State.intoRing
  dsimp only
  split
  · exact .refl p s
  · split
    · refine ((Endures.of_hush (cores_of_aside (takeWays_aside ..)) (takeWays_hush ..)).trans (.modCore c ?_)).trans (endures_bump ..)
      exact fun k h => h.congr id rfl rfl rfl rfl
    · exact (Endures.of_hush (cores_of_aside (takeWays_aside ..)) (takeWays_hush ..)).trans
        (.of_hush (cores_of_aside (giveWays_aside ..)) (giveWays_hush ..))

theorem endures_ungate (p c : Nat) : Endures p s (s.ungate c) := .of_hush rfl rfl

theorem endures_rxq (p c : Nat) (m : Msg) : Endures p s (s.setCore c { s.core c with rxq := (s.core c).rxq ++ [m] }) := by
  have h : Endures p s (s.modCore c fun k => { k with rxq := k.rxq ++ [m] }) := .modCore c fun k h => h.congr id rfl rfl rfl rfl
  exact h

theorem endures_receive (p c : Nat) (m : Msg) : Endures p s (s.receive c m) := by
  unfold State.receive
  extract_lets s0 k r s1
  have h0 : Endures p s s0 := endures_ungate s p c
  have h1 : Endures p s s1 := by
    refine h0.trans ?_
    unfold s1 r
    split
    · exact endures_intoRing ..
    · exact .refl p s0
  have hq : Endures p s (s0.setCore c { k with rxq := k.rxq ++ [m] }) := h0.trans (endures_rxq s0 p c m)
  clear_value r s1
  split
  · exact hq
  · split
    · exact h1
    · split
      · exact h1.trans (.of_winds (winds_abortGroup ..))
      · split
        · refine h1.trans (.modCore c ?_)
          intro x h
          exact lost_bumpCsr (k := { x with spill := x.spill ++ [m] }) (h.congr id rfl rfl rfl rfl) _ _
        · refine h1.trans (.modCore c ?_)
          exact fun x h => h.congr id rfl rfl rfl rfl

theorem endures_msgError (p : Nat) (m : Msg) : Endures p s (s.msgError m) := by
  unfold State.msgError
  split
  · exact .refl p s
  · split
    · exact .modCore _ fun k h => lost_bumpCsr h _ _
    · exact .modCore _ fun k h => lost_bumpCsr h _ _
    · exact .refl p s

/-- A door's hold area is emptied. -/
theorem endures_unhold (p q : Nat) : Endures p s (s.setPart q { s.part q with hold := [], area := 0 }) := by
  refine ⟨.of_cores rfl, fun y => ?_, rfl⟩
  by_cases h : y = q
  · subst h
    rw [State.part_setPart_same]
    exact ⟨rfl, rfl⟩
  · rw [State.part_setPart_ne _ _ h]
    exact ⟨rfl, rfl⟩

theorem endures_releaseHolds (p : Nat) : Endures p s s.releaseHolds := by
  refine Endures.foldl _ (fun t q => ?_) _ s
  dsimp only
  split
  · exact .refl p t
  · refine (endures_unhold t p q).trans (.foldl _ (fun a m => ?_) _ _)
    split
    · split
      · exact endures_receive ..
      · exact endures_msgError ..
    · exact endures_msgError ..

theorem pinFill_cores (bay ln cls : Nat) : (s.pinFill bay ln cls).1.cores = s.cores := by
  have h0 : ReadOnly s (s.sillC bay sillMiss cls 1) := ⟨rfl, rfl, rfl, fun h => ⟨h, rfl⟩⟩
  unfold State.pinFill
  dsimp only
  refine (readOnly_fillLine _ _ _ _ _ _).cores.trans ?_
  split
  · exact h0.cores
  · exact (readOnly_readAt _ _ _ _ fun t => .refl t).cores.trans h0.cores

theorem endures_refillPins (p q : Nat) : Endures p s (s.refillPins q) := by
  refine Endures.foldl _ (fun t r => .foldl _ (fun a x => ?_) _ t) _ s
  split
  · exact .refl p a
  · dsimp only
    split
    · exact .refl p a
    · exact .of_hush (pinFill_cores ..) (pinFill_hush ..)

end

/-- A partition whose reset is over: its door is open (R506, R508). -/
def Part.opened (x : Part) (area : Nat) : Part := { x with door := .open_, resetting := false, resetCmd := 0, area := area }

/-- The state once the domain of a partition was reset: its door opens, and what it held is delivered. -/
def State.reopen (s : State) (p area : Nat) : State := (((s.setPart p ((s.part p).opened area)).refillPins p).setAuto p 0).releaseHolds

theorem reopen_spec (s : State) (p area : Nat) : ((s.reopen p area).part p).door = .open_ ∧ ((s.reopen p area).part p).resetting = false ∧
    (s.reopen p area).cfld (offRegMode p) 4 1 = 0 ∧ StaysLost s (s.reopen p area) := by
  unfold State.reopen
  have h0 : StaysLost s (s.setPart p ((s.part p).opened area)) := .of_cores rfl
  have hp : (s.setPart p ((s.part p).opened area)).part p = (s.part p).opened area := State.part_setPart_same ..
  generalize s.setPart p ((s.part p).opened area) = s1 at h0 hp ⊢
  obtain ⟨hl, hd, -⟩ := endures_refillPins s1 p p
  generalize s1.refillPins p = s2 at hl hd ⊢
  obtain ⟨hparts, hcores, -⟩ := setAuto_rest s2 p 0
  have hmode := setAuto_cfld s2 p (v := 0) (by decide)
  generalize s2.setAuto p 0 = s3 at hparts hcores hmode ⊢
  obtain ⟨gl, gd, gm⟩ := endures_releaseHolds s3 p
  refine ⟨?_, ?_, ?_, ((h0.trans hl).trans (.of_cores hcores)).trans gl⟩
  · rw [(gd p).1, State.part_congr hparts, (hd p).1, hp]
    rfl
  · rw [(gd p).2, State.part_congr hparts, (hd p).2, hp]
    rfl
  · rw [State.cfld, gm]
    exact hmode

/-- The state of a partition's reset before its domain is reset (R506, R507). -/
def State.beforeLoss (s : State) (p : Nat) : State :=
  ((((coresOfPart p).foldl (fun (st : State) (c : Nat) => st.drainStores c)
    ((s.groupsOn p).foldl (fun (st : State) (g : Nat) => st.abortDone g) s)).dumpPart p).flushPart p).endCancelled p

/-- The state at the end of a partition's reset. -/
def State.reborn (s : State) (p : Nat) : State :=
  ((s.beforeLoss p).losePart p).reopen p (if (s.part p).hold.isEmpty then 0 else (s.part p).area)

theorem partitionResetDone_reborn {s : State} {p : Nat} (hr : (s.part p).resetting = true) (hd : (s.part p).door = .absorbing)
    (hc : (s.part p).resetCmd ≠ 0 → (s.cmd ((s.part p).resetCmd - 1)).isSome) :
    partitionResetDone p [] s = if (s.part p).resetCmd = 0 then s.reborn p
      else (s.reborn p).finish ((s.part p).resetCmd - 1) (if (s.reborn p).lcores p < s.lcores p then stDegraded else stOk) := by
  have hg : ¬(!(s.part p).resetting || decide ((s.part p).door ≠ .absorbing) || ((s.part p).resetCmd != 0 && (s.cmd ((s.part p).resetCmd - 1)).isNone)) =
      true := by
    rw [hr, hd]
    by_cases h0 : (s.part p).resetCmd = 0
    · simp [h0]
    · have h1 := hc h0
      rw [Option.isSome_iff_ne_none] at h1
      simp [h1]
  unfold partitionResetDone
  dsimp only
  rw [if_neg hg]
  rfl

theorem execPartitionResetDone_unit {p : Nat} (hp : Unit.part p = true) (s : State) :
    exec (.partitionResetDone p []) s = .next (partitionResetDone p [] s) := by
  show execPartitionResetDone p [] s = _
  unfold execPartitionResetDone
  rw [hp, onUnit_true]

theorem partitionResets_claim : Claim.PartitionResets := by
  rintro s p x hp rfl
  refine ⟨fun id c hc hst hu hat hd => ⟨fun hr => ?_, execResetPartition_begins hp hc hst hu hat hd⟩,
    fun hd hg => ⟨_, execDoorDrainEnd_absorbs hp hd hg, State.part_setPart_same .., rfl⟩, execDoorDrainEnd_skip hp,
    fun n hu hpn hr hd hf hm => execForcedBayReset_resets hu hpn hr hd hf hm, fun hr hd => ⟨fun h0 => ?_, fun c hc hcmd => ?_⟩⟩
  · obtain ⟨-, -, -, hid⟩ := cmdFor_some hc
    rw [execResetPartition_checked hp hc hst hu hat hd, if_pos hr, hid]
    rfl
  · obtain ⟨hdoor, hres, hmode, hlost⟩ := reopen_spec ((s.beforeLoss p).losePart p) p (if (s.part p).hold.isEmpty then 0 else (s.part p).area)
    refine ⟨s.reborn p, ?_, hdoor, hres, hmode, fun c hc => ?_⟩
    · rw [execPartitionResetDone_unit hp, partitionResetDone_reborn hr hd (fun h => absurd h0 h), if_pos h0]
    · obtain ⟨h1, h2, h3, h4, h5⟩ := hlost.core c (lost_losePart _ p c hc)
      exact ⟨h1, h2, h3, h4, h5⟩
  · obtain ⟨hdoor, hres, -, -⟩ := reopen_spec ((s.beforeLoss p).losePart p) p (if (s.part p).hold.isEmpty then 0 else (s.part p).area)
    refine ⟨s.reborn p, ?_, hdoor, hres⟩
    have h1 : (s.part p).resetCmd ≠ 0 := by omega
    have h2 : (s.part p).resetCmd - 1 = c.id := by omega
    rw [execPartitionResetDone_unit hp, partitionResetDone_reborn hr hd (fun _ => by rw [h2, hc]; rfl), if_neg h1, h2]
    rfl

/-- Settles O37: a core reset by resetCores_spec, a partition reset from its beginning to the opening of its doors by the cores it emptied,
which stay empty. -/
theorem resets : Obligations.Resets := ⟨coreResets_claim, partitionResets_claim⟩

end Sys2Proof.Machine
end

section
namespace Sys2Proof.Machine
open Sys2Proof

/-! ### A chunk that corrects a symbol outside its sector's chunk (O48)

The clause on IMAGE_CHUNK takes any disjoint and backed ranges for the session. Where the chunks of a step of zone N do not divide a
channel's run (R312), the last sector of the run has symbols past the whole chunks, and `State.sectorBytes` gives those the offsets
that follow, of which some lie in the next step. A partial write to that sector corrects such a symbol (R295, R296), and so flips a
byte outside of it, which an earlier range of the same chunk has just stored. -/

/-- A command whose partitions are awake behind open doors, or unusable, has its effect. -/
theorem needs_awake {s : State} {ps : List Nat} (h : ∀ p, p ∈ ps → (s.doorShut p = false ∨ s.unusable p = true) ∧ s.asleep p = false)
    (c : Cmd) (eff : State) : s.needs c ps eff = eff := by
  have hdoor : (ps.any fun p => s.doorShut p && !s.unusable p) = false := by
    rw [List.any_eq_false]
    intro p hp
    obtain ⟨hd, -⟩ := h p hp
    rcases hd with hd | hu
    · simp [hd]
    · simp [hu]
  have hsleep : ps.any s.asleep = false := by
    rw [List.any_eq_false]
    intro p hp
    simp [(h p hp).2]
  rw [State.needs, hdoor, hsleep]
  rfl

/-- IMAGE_CHUNK that passes its checks and reads its bytes puts them into the session's ranges (R384). -/
theorem exec_imageChunk {s : State} {id n : Nat} {c : Cmd} {ps : List (Nat × Nat)} {bs : List Byte} (hc : s.cmdFor id 0x11 = some c)
    (hs : s.img.session = some (n, ps)) (hb : chunkBad c n = []) (h0 : c.amount = 0)
    (hr : s.hostRead (c.at_ 0x20 8) (c.at_ 0x10 4) = some bs)
    (hp : ∀ p, p ∈ partsOf (pieceRange ps (c.at_ 0x18 8) (c.at_ 0x10 4)) →
      (s.doorShut p = false ∨ s.unusable p = true) ∧ s.asleep p = false) :
    exec (.imageChunk id) s =
      .next ((s.putPieces (pieceRange ps (c.at_ 0x18 8) (c.at_ 0x10 4)) bs).complete id 0x00 0 []) := by
  obtain ⟨-, -, -, hid⟩ := cmdFor_some hc
  have hbytes : s.chunkBytes c ps (c.at_ 0x10 4 - c.amount) = some (s.putPieces (pieceRange ps (c.at_ 0x18 8) (c.at_ 0x10 4)) bs) := by
    simp [State.chunkBytes, h0, hr]
  show onCmd id 0x11 s (imageChunk s) = _
  rw [onCmd_some hc, imageChunk, hs]
  dsimp only
  rw [hb, checked_nil, needs_awake hp, hbytes, hid]
  rfl

/-- In the last sector of channel 2's run of partition 0's one step, whose chunks have 100 bytes: byte u = 4194240 of the run. -/
def lastSector : Nat := 2 * (stackBytes - stepBytes) + (41942 * 32 + 2) * 100 + 40

/-- The offset that symbol 60 of that sector is given, 72 bytes past the step and zone N. -/
def pastStep : Nat := 2 * (stackBytes - stepBytes) + stepBytes + 72

/-- IMAGE_CHUNK of two bytes at IMAGE_OFFSET 0, which the host has at address 0. -/
def twoBytes : Cmd := { id := 0, fn := 0, entry := 0x11 :: zeros 15 ++ 2 :: zeros 47 }

/-- A session of a byte past the step and a byte of the last sector, whose symbol 60 is in error. -/
def splitSession : State :=
  { State.reset with
    ctl := [(offHbmMap 0, 1), (offStep 0 0, 100), (offPwr 0, 0)], chk := [(lastSector, chkOfFlips [(60, 1)])], cmds := [twoBytes],
    img := { session := some (2, [(pastStep, 1), (lastSector, 1)]) } }

theorem splitSession_awake : ∀ p, p ∈ partsOf (pieceRange [(pastStep, 1), (lastSector, 1)] 0 2) →
    (splitSession.doorShut p = false ∨ splitSession.unusable p = true) ∧ splitSession.asleep p = false := by decide +kernel

theorem splitSession_backed (x : Nat × Nat) (a : Nat) (hx : x ∈ [(pastStep, 1), (lastSector, 1)]) (h1 : x.1 ≤ a) (h2 : a < x.1 + x.2) :
    splitSession.backed a = true := by
  rcases List.mem_pair.1 hx with rfl | rfl
  · obtain rfl : a = pastStep := Nat.le_antisymm (Nat.le_of_lt_succ h2) h1
    decide +kernel
  · obtain rfl : a = lastSector := Nat.le_antisymm (Nat.le_of_lt_succ h2) h1
    decide +kernel

/-- The second byte's write corrects symbol 60, and flips the first byte. -/
theorem splitSession_byte : nget 0 (splitSession.putPieces [(pastStep, 1), (lastSector, 1)] [0, 0]).mem pastStep = 1 := by
  decide +kernel

theorem not_imageTransfer : ¬ Claim.ImageTransfer := by
  intro h
  have hc : splitSession.cmdFor 0 0x11 = some twoBytes := by decide +kernel
  have hb : chunkBad twoBytes 2 = [] := by decide +kernel
  have hr : splitSession.hostRead (twoBytes.at_ 0x20 8) (twoBytes.at_ 0x10 4) = some [0, 0] := by decide +kernel
  obtain ⟨-, hchunk⟩ := h splitSession 0 twoBytes
  obtain ⟨-, hstore⟩ := hchunk hc
  obtain ⟨u, he, -, hbytes, -⟩ := hstore 2 _ _ _ rfl hb rfl rfl hr splitSession_awake (by decide +kernel) splitSession_backed
  have hmem : u.mem = (splitSession.putPieces [(pastStep, 1), (lastSector, 1)] [0, 0]).mem := by
    rw [exec_imageChunk hc rfl hb rfl hr splitSession_awake] at he
    have hm := congrArg State.mem (Host.Outcome.next.inj he)
    rw [complete_mem, complete_mem] at hm
    exact hm.symm
  have hfirst : nget 0 u.mem pastStep = 0 := hbytes 0 pastStep (by decide) (by decide +kernel)
  rw [hmem, splitSession_byte] at hfirst
  exact absurd hfirst (by decide)

/-- Refutes O48: the write of a chunk's second byte corrects a symbol past the whole chunks of a step, and flips the first byte. -/
theorem not_images : ¬ Obligations.Images := fun h => not_imageTransfer h.1

end Sys2Proof.Machine
end

section
namespace Sys2Proof.Machine
open Sys2Proof

/-! ### Elements of a vector register (R102) -/

/-- Bits inside a field that was written. -/
theorem bitsN_putN_inside {v lo n x a w : Nat} (h1 : lo ≤ a) (h2 : a + w ≤ lo + n) : bitsN (putN v lo n x) a w = bitsN x (a - lo) w := by
  refine Nat.eq_of_testBit_eq fun i => ?_
  rw [testBit_bitsN, testBit_bitsN, testBit_putN]
  by_cases hi : i < w
  · rw [if_pos (by omega), Nat.sub_add_comm h1]
  · simp [hi]

/-- Bits outside of it. -/
theorem bitsN_putN_outside {v lo n x a w : Nat} (h : a + w ≤ lo ∨ lo + n ≤ a) : bitsN (putN v lo n x) a w = bitsN v a w := by
  refine Nat.eq_of_testBit_eq fun i => ?_
  rw [testBit_bitsN, testBit_bitsN, testBit_putN]
  by_cases hi : i < w
  · rw [if_neg (by omega)]
  · simp [hi]

theorem velem_bitsN (v : BitVec 2048) (w i : Nat) : velem v w i = bitsN v.toNat (w * i) w := by
  rw [velem, BitVec.extractLsb'_toNat, Nat.shiftRight_eq_div_pow, bitsN]

theorem velem_ofNat {x w i : Nat} (h : w * i + w ≤ 2048) : velem (BitVec.ofNat 2048 x) w i = bitsN x (w * i) w := by
  rw [velem_bitsN, BitVec.toNat_ofNat]
  refine Nat.eq_of_testBit_eq fun j => ?_
  rw [testBit_bitsN, testBit_bitsN, Nat.testBit_mod_two_pow x 2048]
  by_cases hj : j < w
  · rw [decide_eq_true (by omega : w * i + j < 2048), Bool.true_and]
  · simp [hj]

/-- An element's width is a power of two, so that elements fill a register. -/
theorem fmtWidth_pow {code : Nat} (h : fmtWidth code ≠ 0) : ∃ e, e ≤ 5 ∧ fmtWidth code = 2 ^ e := by
  unfold fmtWidth at h ⊢
  split at h
  · exact ⟨5, by decide, rfl⟩
  · exact ⟨4, by decide, rfl⟩
  · exact ⟨4, by decide, rfl⟩
  · exact ⟨3, by decide, rfl⟩
  · exact ⟨3, by decide, rfl⟩
  · exact ⟨5, by decide, rfl⟩
  · exact ⟨4, by decide, rfl⟩
  · exact ⟨3, by decide, rfl⟩
  · exact ⟨2, by decide, rfl⟩
  · exact absurd rfl h

theorem fmtWidth_fills {code : Nat} (h : fmtWidth code ≠ 0) : 2048 / fmtWidth code * fmtWidth code = 2048 := by
  obtain ⟨e, he, hw⟩ := fmtWidth_pow h
  rw [hw]
  exact Nat.div_mul_cancel (Nat.pow_dvd_pow 2 (by omega : e ≤ 11))

/-- The sections of a narrower side fill the wider one's register. -/
theorem fmtWidth_sections {a b : Nat} (ha : fmtWidth a ≠ 0) (hb : fmtWidth b ≠ 0) (h : fmtWidth b < fmtWidth a) :
    fmtWidth a / fmtWidth b * (2048 / fmtWidth a * fmtWidth b) = 2048 := by
  have hd : fmtWidth b ∣ fmtWidth a := by
    obtain ⟨x, -, hx⟩ := fmtWidth_pow ha
    obtain ⟨y, -, hy⟩ := fmtWidth_pow hb
    rw [hx, hy] at h ⊢
    exact Nat.pow_dvd_pow 2 (Nat.le_of_lt ((Nat.pow_lt_pow_iff_right (by decide)).1 h))
  calc fmtWidth a / fmtWidth b * (2048 / fmtWidth a * fmtWidth b) = 2048 / fmtWidth a * (fmtWidth a / fmtWidth b * fmtWidth b) := by ring
    _ = 2048 / fmtWidth a * fmtWidth a := by rw [Nat.div_mul_cancel hd]
    _ = 2048 := fmtWidth_fills ha

/-! ### What CVT writes (R114, R118) -/

/-- The elements that a conversion takes from its source. -/
def cvtCount (f : FormA) : Nat := 2048 / max (fmtWidth (cvtSrc f)) (fmtWidth f.type.toNat)

/-- Element j that CVT writes. -/
def cvtOut (f : FormA) (src : BitVec 2048) (rng : W64) (j : Nat) : Nat :=
  cvtElem src (cvtSrc f) f.type.toNat (bitsN f.mod.toNat 7 1 == 1)
    (if fmtWidth (cvtSrc f) < fmtWidth f.type.toNat then cvtPart f * cvtCount f else 0)
    (if cvtRound f = 1 then some (rngBits rng j) else none) j

theorem cvtResult_eq (f : FormA) (src old : BitVec 2048) (rng : W64) : cvtResult f src old rng =
    if fmtWidth f.type.toNat < fmtWidth (cvtSrc f) then
      BitVec.ofNat 2048 (putN old.toNat (cvtPart f * cvtCount f * fmtWidth f.type.toNat) (cvtCount f * fmtWidth f.type.toNat)
        (packBits (fmtWidth f.type.toNat) ((List.range (cvtCount f)).map (cvtOut f src rng))))
    else BitVec.ofNat 2048 (packBits (fmtWidth f.type.toNat) ((List.range (cvtCount f)).map (cvtOut f src rng))) := rfl

/-- The widths and the section of a conversion that R118 allows. -/
structure CvtFits (f : FormA) : Prop where
  src : fmtWidth (cvtSrc f) ≠ 0
  dst : fmtWidth f.type.toNat ≠ 0
  part : cvtPart f < cvtRatio f

theorem cvtLegal_fits {who : Agent} {f : FormA} (h : cvtLegal who f = true) : CvtFits f := by
  simp only [cvtLegal, Bool.and_eq_true, bne_iff_ne, decide_eq_true_eq] at h
  obtain ⟨⟨⟨⟨⟨⟨-, hdst⟩, hsrc⟩, -⟩, -⟩, -⟩, hpart⟩ := h
  exact ⟨hsrc, hdst, hpart⟩

section
variable {f : FormA} (h : CvtFits f) (src old : BitVec 2048) (rng : W64)
include h

/-- Element j of the packed list of results. -/
theorem cvtOut_packed {j : Nat} (hj : j < cvtCount f) :
    bitsN (packBits (fmtWidth f.type.toNat) ((List.range (cvtCount f)).map (cvtOut f src rng))) (fmtWidth f.type.toNat * j)
      (fmtWidth f.type.toNat) = cvtOut f src rng j := by
  rw [packBits_elem fun x hx => by
    obtain ⟨i, -, rfl⟩ := List.mem_map.1 hx
    exact encElem_lt h.dst ..]
  simp [List.getD, hj]

/-- A narrowing writes a section of the register. -/
theorem cvtSection (hlt : fmtWidth f.type.toNat < fmtWidth (cvtSrc f)) :
    cvtPart f * cvtCount f * fmtWidth f.type.toNat + cvtCount f * fmtWidth f.type.toNat ≤ 2048 := by
  obtain ⟨hs, hd, hp⟩ := h
  have hr : cvtRatio f = fmtWidth (cvtSrc f) / fmtWidth f.type.toNat := by
    simp only [cvtRatio, Nat.max_eq_left hlt.le, Nat.min_eq_right hlt.le]
  have hn : cvtCount f = 2048 / fmtWidth (cvtSrc f) := by simp only [cvtCount, Nat.max_eq_left hlt.le]
  calc cvtPart f * cvtCount f * fmtWidth f.type.toNat + cvtCount f * fmtWidth f.type.toNat
      = (cvtPart f + 1) * (cvtCount f * fmtWidth f.type.toNat) := by ring
    _ ≤ cvtRatio f * (cvtCount f * fmtWidth f.type.toNat) := Nat.mul_le_mul_right _ hp
    _ = 2048 := by rw [hr, hn, fmtWidth_sections hs hd hlt]

theorem cvtResult_written {j : Nat} (hj : j < cvtCount f) : velem (cvtResult f src old rng) (fmtWidth f.type.toNat)
    ((if fmtWidth f.type.toNat < fmtWidth (cvtSrc f) then cvtPart f * cvtCount f else 0) + j) = cvtOut f src rng j := by
  have hend : fmtWidth f.type.toNat * j + fmtWidth f.type.toNat ≤ cvtCount f * fmtWidth f.type.toNat := by
    rw [← Nat.mul_succ, Nat.mul_comm]
    exact Nat.mul_le_mul_right _ hj
  rw [cvtResult_eq]
  split
  · next hlt =>
    have hsec := cvtSection h hlt
    have hpos : fmtWidth f.type.toNat * (cvtPart f * cvtCount f + j) =
        cvtPart f * cvtCount f * fmtWidth f.type.toNat + fmtWidth f.type.toNat * j := by ring
    rw [velem_ofNat (by omega), bitsN_putN_inside (by omega) (by omega), hpos, Nat.add_sub_cancel_left, cvtOut_packed h src rng hj]
  · next hge =>
    have hn : cvtCount f * fmtWidth f.type.toNat = 2048 := by
      rw [cvtCount, Nat.max_eq_right (Nat.le_of_not_lt hge), fmtWidth_fills h.dst]
    rw [Nat.zero_add, velem_ofNat (by omega), cvtOut_packed h src rng hj]

theorem cvtResult_kept (hlt : fmtWidth f.type.toNat < fmtWidth (cvtSrc f)) {j : Nat} (hj : j < 2048 / fmtWidth f.type.toNat)
    (hp : j / cvtCount f ≠ cvtPart f) :
    velem (cvtResult f src old rng) (fmtWidth f.type.toNat) j = velem old (fmtWidth f.type.toNat) j := by
  have hend : fmtWidth f.type.toNat * j + fmtWidth f.type.toNat ≤ 2048 := by
    calc fmtWidth f.type.toNat * j + fmtWidth f.type.toNat = (j + 1) * fmtWidth f.type.toNat := by ring
      _ ≤ 2048 / fmtWidth f.type.toNat * fmtWidth f.type.toNat := Nat.mul_le_mul_right _ hj
      _ = 2048 := fmtWidth_fills h.dst
  have hside : j + 1 ≤ cvtPart f * cvtCount f ∨ cvtPart f * cvtCount f + cvtCount f ≤ j := by
    by_contra hin
    exact hp (Nat.div_eq_of_lt_le (by omega) (by rw [Nat.succ_mul]; omega))
  have hout : fmtWidth f.type.toNat * j + fmtWidth f.type.toNat ≤ cvtPart f * cvtCount f * fmtWidth f.type.toNat ∨
      cvtPart f * cvtCount f * fmtWidth f.type.toNat + cvtCount f * fmtWidth f.type.toNat ≤ fmtWidth f.type.toNat * j := by
    rcases hside with hlo | hhi
    · exact .inl (by rw [← Nat.mul_succ, Nat.mul_comm]; exact Nat.mul_le_mul_right _ hlo)
    · exact .inr (by rw [← Nat.add_mul, Nat.mul_comm _ j]; exact Nat.mul_le_mul_right _ hhi)
  rw [cvtResult_eq, if_pos hlt, velem_ofNat hend, bitsN_putN_outside hout, velem_bitsN]

end

end Sys2Proof.Machine
end

section
namespace Sys2Proof.Machine
open Sys2Proof

/-! ### CVT (R114, R117, R118) -/

/-- A vector instruction without lane operations counts itself alone (R166). -/
theorem vecCount_plain (s : State) (c : Nat) : s.vecCount c 0 0 = s.bump 0x02 c 0 1 := rfl

/-- A change of one core by an instruction that counts itself. -/
theorem modCore_counted (s : State) (c : Nat) (f : Core → Core) :
    let t := (s.bump 0x02 c 0 1).modCore c f
    t.core c = f (s.core c) ∧ (∀ x, x ≠ c → t.core x = s.core x) ∧ SameMemory s t ∧ { t with cores := s.cores, ctr := s.ctr } = s :=
  ⟨State.core_modCore_same .., fun _ hx => State.core_modCore_ne (s.bump 0x02 c 0 1) f hx, fun _ => rfl, rfl⟩

/-- A core after a conversion. -/
def Core.converts (k : Core) (f : FormA) : Core :=
  ((k.rngAfter (cvtRound f == 1) (cvtCount f)).setV f.dst.toNat
    (cvtResult f (k.vreg f.src1.toNat) (k.vreg f.dst.toNat) (k.csrReg 0x019))).retire

theorem exec_cvt {s : State} {c : Nat} {f : FormA} (hr : ScalarReady s c f.pred f.pneg) (hl : cvtLegal (.core c) f = true)
    (hv : ∀ r ∈ [f.dst.toNat, f.src1.toNat], r ∉ (s.core c).vPending) :
    exec (.cvt (.core c) f) s = .next ((s.bump 0x02 c 0 1).modCore c fun k => k.converts f) := by
  show execCvt (.core c) f s = _
  unfold execCvt
  rw [issueScalar_core hr hl]
  dsimp only
  rw [whenFree_free (by simp) hv, vecCount_plain, State.retireWith]
  exact congrArg _ (modCore_congr _ c rfl)

theorem rngAfter_other (k : Core) (b : Bool) (n : Nat) {r : Nat} (h : r ≠ 0x019) : (k.rngAfter b n).csrReg r = k.csrReg r := by
  unfold Core.rngAfter
  split
  · rw [Core.csrReg_setCsr, if_neg h]
  · rfl

theorem converts_vreg (k : Core) (f : FormA) (r : Nat) : (k.converts f).vreg r =
    if r = f.dst.toNat then cvtResult f (k.vreg f.src1.toNat) (k.vreg f.dst.toNat) (k.csrReg 0x019) else k.vreg r := by
  obtain ⟨m, hm⟩ := rngAfter_eq k (cvtRound f == 1) (cvtCount f)
  rw [Core.converts, retire_vreg, setV_vreg, hm]
  rfl

theorem converts_csrReg (k : Core) (f : FormA) {r : Nat} (h1 : r ≠ 0x009) (h2 : r ≠ 0x020) :
    (k.converts f).csrReg r = (k.rngAfter (cvtRound f == 1) (cvtCount f)).csrReg r := by
  rw [Core.converts, csrReg_retire, if_neg h2, if_neg h1]
  rfl

/-- What else a conversion leaves of a core. -/
theorem converts_rest (k : Core) (f : FormA) : (k.converts f).pc = k.pc + 8 ∧
    { k.converts f with v := k.v, pc := k.pc, csr := k.csr, stall := k.stall, icache := k.icache } = k := by
  obtain ⟨m, hm⟩ := rngAfter_eq k (cvtRound f == 1) (cvtCount f)
  rw [Core.converts, hm]
  cases k
  exact ⟨rfl, rfl⟩

theorem elementConversions_claim : Claim.ElementConversions := by
  rintro s c f sf df ws wd n part rng hr hl rfl rfl rfl rfl rfl rfl rfl hv
  have hfits := cvtLegal_fits hl
  obtain ⟨hpc, hrest⟩ := converts_rest (s.core c) f
  obtain ⟨hk, hothers, hmem, hmodule⟩ := modCore_counted s c fun k => k.converts f
  refine ⟨_, exec_cvt hr hl hv, fun j hj => ?_, fun hlt j hj hp => ?_, fun r hne => ?_, ?_, fun r h1 h2 h3 => ?_, ?_, ?_, hothers, hmem, hmodule⟩
  all_goals rw [hk]
  · rw [converts_vreg, if_pos rfl]
    refine (cvtResult_written hfits _ _ _ hj).trans ?_
    rw [cvtOut, cvtElem, beq_eq_decide]
    rfl
  · rw [converts_vreg, if_pos rfl]
    exact cvtResult_kept hfits _ _ _ hlt hj hp
  · rw [converts_vreg, if_neg hne]
  · rw [converts_csrReg _ _ (by decide) (by decide), rngAfter_csrReg]
    simp only [beq_iff_eq]
    rfl
  · rw [converts_csrReg _ _ h1 h3, rngAfter_other _ _ _ h2]
  · exact hpc
  · exact hrest

end Sys2Proof.Machine
end

section
namespace Sys2Proof.Machine
open Sys2Proof

/-! ### CVT.ENC (R108, R119, R121) -/

/-- A plain write of a unit lands in the core's own scratchpad. -/
theorem store_plain_unit {s : State} {c addr off : Nat} {bs : List Byte} (ha : addr / 2 ^ 60 = 1)
    (h : s.plainWrite c addr bs.length false = some off) (cls : Nat) :
    s.unitLoc c addr bs.length = some (.spad c off) ∧
    s.store c (.spad c off) bs cls = .ok [] (s.modCore c fun k => k.spadStore off bs) := by
  obtain ⟨hl, hw, he⟩ := plainWrite_spec h
  refine ⟨by rw [unitLoc_space1 ha, hl], ?_⟩
  simp only [State.store, hw, writeRaw_own he, Bool.false_eq_true, if_false]

theorem modCore_bump (s : State) (c : Nat) (f : Core → Core) (fam unit pos n : Nat) :
    (s.modCore c f).bump fam unit pos n = (s.bump fam unit pos n).modCore c f := rfl

/-- The two blocks that CVT.ENC makes of a register, rounding to the nearest. -/
def encBlocks (code : Nat) (v : BitVec 2048) : List Byte :=
  mxEncode code ((List.range 32).map fun l => f32 (vlane v l)) (fun _ => none) ++
    mxEncode code ((List.range 32).map fun l => f32 (vlane v (32 + l))) (fun _ => none)

theorem lanes_halves {α : Type} (g : Nat → α) : ((List.range 64).map g).take 32 = (List.range 32).map g ∧
    ((List.range 64).map g).drop 32 = (List.range 32).map fun l => g (32 + l) := by
  have hd : (List.range 64).drop 32 = (List.range 32).map (32 + ·) := by decide
  refine ⟨by rw [← List.map_take, List.take_range]; rfl, ?_⟩
  rw [← List.map_drop, hd, List.map_map]
  rfl

theorem fmtCode_eq (f : FormA) : fmtCode f = f.mod.toNat / 2 ^ 15 * 16 + f.type.toNat := by
  have h := f.mod.isLt
  rw [fmtCode, bitsN, Nat.mod_eq_of_lt (by omega)]

theorem exec_cvtEnc {s : State} {c addr off : Nat} {f : FormA} (hr : ScalarReady s c f.pred f.pneg) (h3 : f.src3 = 0) (hf : f.func = 0)
    (h1 : f.src1.toNat < 32) (h2 : f.src2.toNat < 32) (hd : f.dst = 0) (hlo : 0x0A ≤ fmtCode f) (hhi : fmtCode f ≤ 0x0F) (hm : f.mod = 0)
    (ha : addr = ((s.core c).sreg f.src2.toNat).toNat) (hsp : addr / 2 ^ 60 = 1)
    (hw : s.plainWrite c addr (encBlocks (fmtCode f) ((s.core c).vreg f.src1.toNat)).length false = some off)
    (hv : f.src1.toNat ∉ (s.core c).vPending) :
    exec (.cvtEnc (.core c) f) s =
      .next ((s.bump 0x02 c 0 1).modCore c fun k =>
        (k.spadStore off (encBlocks (fmtCode f) ((s.core c).vreg f.src1.toNat))).retire) := by
  subst ha
  have hround : cvtRound f = 0 := by simp [cvtRound, bitsN, hm]
  have h16 : fmtCode f / 16 = 0 := by omega
  obtain ⟨hloc, hst⟩ := store_plain_unit hsp hw (s.core c).storeClass
  show execCvtEnc (.core c) f s = _
  unfold execCvtEnc
  rw [issueScalar_core hr (by simp [regOk, h1, h2, h3, hf, hd, hlo, hhi, hm, hround, h16])]
  dsimp only
  rw [whenFree_free (by simp) (by simpa using hv)]
  obtain ⟨hlow, hhigh⟩ := lanes_halves fun l => f32 (vlane ((s.core c).vreg f.src1.toNat) l)
  rw [hlow, hhigh]
  simp only [hround, Nat.zero_ne_one, if_false]
  rw [encBlocks] at hloc hst
  rw [hloc]
  dsimp only
  rw [hst]
  dsimp only
  rw [vecCount_plain, modCore_bump, State.retireWith, modCore_modCore]
  rfl

theorem cvtEnc_effect (s : State) (c off : Nat) (bs : List Byte) :
    let t := (s.bump 0x02 c 0 1).modCore c fun k => (k.spadStore off bs).retire
    Retires (s.core c) (t.core c) ((s.core c).pc + 8) ∧ WritesSpad s t c (laidOver (nget 0 (s.core c).spad) off bs) := by
  intro t
  obtain ⟨hk, hothers, hmem, hrest⟩ := modCore_counted s c fun k => (k.spadStore off bs).retire
  refine ⟨?_, fun a => ?_, hothers, ?_, hmem, hrest⟩
  · rw [hk]
    exact retires_retire (x := (s.core c).spadStore off bs) rfl rfl rfl
  · rw [hk, Core.retire_spad, spadStore_spad]
    rfl
  · rw [hk, Core.retire_s, Core.retire_p, Core.retire_v, Core.retire_acc]
    exact ⟨rfl, rfl, rfl, rfl⟩

end Sys2Proof.Machine
end

section
namespace Sys2Proof.Machine
open Sys2Proof

/-! ### CVT.DEC (R109, R111, R113, R120, R121) -/

/-- An address of space 0x2 is the core's own region behind its first-level cache, which no plain read reads. -/
theorem plainRead_space2 {s : State} {c addr n : Nat} (ha : addr / 2 ^ 60 = 2) : s.plainRead c addr n false = none := by
  unfold State.plainRead State.resolve
  simp only [ha]
  split
  · next h => split at h <;> cases h
  · next h =>
    split at h
    · cases h
      simp
    · cases h
  · next h => split at h <;> cases h
  · rfl

/-- u differs from s in bays, counters and the table cache of core c: a table set was read (R111). -/
structure TablesRead (s u : State) (c : Nat) : Prop where
  only : ∃ (k : NMap Core) (b : NMap Bay) (m : NMap W64), u = { s with cores := k, bays := b, ctr := m }
  core : u.core c = { s.core c with tsets := (u.core c).tsets }
  others : ∀ x, x ≠ c → u.core x = s.core x

theorem TablesRead.refl (s : State) (c : Nat) : TablesRead s s c := ⟨⟨s.cores, s.bays, s.ctr, rfl⟩, rfl, fun _ _ => rfl⟩

theorem tablesRead_modCore (s : State) (c : Nat) (l : List Nat) : TablesRead s (s.modCore c fun k => { k with tsets := l }) c := by
  refine ⟨⟨_, s.bays, s.ctr, rfl⟩, ?_, fun x hx => State.core_modCore_ne s _ hx⟩
  rw [State.core_modCore_same]

/-- What a read of lines adds. -/
theorem TablesRead.touched {s u v : State} {c : Nat} (h : TablesRead s u c) (g : Touched u v) : TablesRead s v c := by
  have hk : ∀ x, v.core x = u.core x := State.core_congr g.cores
  refine ⟨?_, by rw [hk]; exact h.core, fun x hx => (hk x).trans (h.others x hx)⟩
  obtain ⟨k, _, _, rfl⟩ := h.only
  obtain ⟨b, m, rfl⟩ := g.only
  exact ⟨k, b, m, rfl⟩

/-- What a count adds. -/
theorem TablesRead.counted {s u v : State} {c : Nat} (h : TablesRead s u c) (g : ∃ m : NMap W64, v = { u with ctr := m }) :
    TablesRead s v c := by
  obtain ⟨m, rfl⟩ := g
  obtain ⟨⟨k, b, n, hu⟩, hcore, hothers⟩ := h
  exact ⟨⟨k, b, m, by rw [hu]⟩, hcore, hothers⟩

theorem tablesRead_useSet {s : State} (h : s.calm = true) (c id : Nat) : TablesRead s (s.useSet c id) c := by
  have h1 := tablesRead_modCore s c
    ((((s.core c).tsets.filter (· != id)).drop (((s.core c).tsets.filter (· != id)).length - 1)) ++ [id])
  unfold State.useSet
  dsimp only
  split
  · exact h1
  · split
    · exact h1
    · split
      · exact h1
      · exact h1.touched (touched_touchRange (by exact h) ..)

theorem tablesRead_useDesc {s : State} {code : Nat} (h : code = 0x10 ∨ code = 0x11 → s.calm = true) (c slot : Nat) :
    TablesRead s (s.useDesc c code slot) c := by
  unfold State.useDesc
  split
  · next hc =>
    split
    · exact tablesRead_useSet (h hc) ..
    · exact .refl s c
  · exact .refl s c

/-- A write of a vector register, seen from a state that reads alike. -/
theorem WritesV.congr {s s' t : State} {c d : Nat} {g g' : Nat → W32} (h : WritesV s t c d g) (hk : ∀ x, s'.core x = s.core x)
    (hm : s'.mem = s.mem) (hg : ∀ l, l < 64 → g l = g' l) (hr : { t with cores := s'.cores, ctr := s'.ctr, free := s'.free } = s') :
    WritesV s' t c d g' := by
  refine ⟨fun l hl => (h.lanes l hl).trans (hg l hl), ?_, ?_, ?_, fun x hx => (h.others x hx).trans (hk x).symm, fun a => ?_, hr⟩
  · rw [hk]
    exact h.vector
  · rw [hk]
    exact h.retires
  · rw [hk]
    exact h.core
  · rw [hm]
    exact h.memory a

/-- Such a state after a change of one core is, beside its cores and counters, the state before with its bays. -/
theorem TablesRead.modCore_rest {s u : State} {c : Nat} (h : TablesRead s u c) (f g : Core → Core) :
    let t := u.modCore c f
    let r := ({ s with bays := t.bays } : State).modCore c g
    { t with cores := r.cores, ctr := r.ctr, free := r.free } = r := by
  obtain ⟨_, _, _, rfl⟩ := h.only
  rfl

@[simp] theorem Core.retire_tsets (k : Core) : k.retire.tsets = k.tsets := by
  cases k
  rfl

theorem setV_tsets (k : Core) (d : Nat) (v : BitVec 2048) : (k.setV d v).tsets = k.tsets := rfl

/-- What an instruction leaves that writes vector register d after a table set was read. -/
theorem TablesRead.writesV {s u : State} {c d : Nat} (h : TablesRead s u c) {g g' : Nat → W32} (hg : ∀ l, l < 64 → g l = g' l) :
    let t := u.retireWith c fun k => k.setV d (ofLanes g)
    WritesV (({ s with bays := t.bays } : State).modCore c fun k => { k with tsets := (t.core c).tsets }) t c d g' := by
  intro t
  have ht : (t.core c).tsets = (u.core c).tsets := by
    rw [show t.core c = ((u.core c).setV d (ofLanes g)).retire from State.core_modCore_same .., Core.retire_tsets, setV_tsets]
  have hw : WritesV u t c d g := writesV_setV u c d fun _ => g
  refine hw.congr (fun x => ?_) ?_ hg ?_
  · by_cases hx : x = c
    · rw [hx, State.core_modCore_same, ht, h.core]
      rfl
    · rw [State.core_modCore_ne _ _ hx]
      exact (h.others x hx).symm
  · obtain ⟨_, _, _, rfl⟩ := h.only
    rfl
  · exact h.modCore_rest ..

/-- The fields and the element number that let CVT.DEC begin, and the tables it decodes with. -/
structure DecReady (s : State) (c : Nat) (f : FormA) (e : Nat) (tables : List (List (BitVec 16))) : Prop where
  low : 0x0A ≤ fmtCode f
  high : fmtCode f ≤ 0x12
  mod : bitsN f.mod.toNat 8 7 = 0
  slot : fmtCode f = 0x10 ∨ fmtCode f = 0x11 ∨ bitsN f.mod.toNat 0 8 = 0
  multiple : e % decMultiple (fmtCode f) = 0
  tables : decTables s (s.core c) (fmtCode f) (bitsN f.mod.toNat 0 8) = some tables
  calm : fmtCode f = 0x10 ∨ fmtCode f = 0x11 → s.calm = true

theorem decTables_none {code : Nat} (h : ¬(code = 0x10 ∨ code = 0x11)) (s : State) (k : Core) (slot : Nat) :
    decTables s k code slot = some [] := by rw [decTables, if_neg h]

theorem mod_fields {m : Nat} (h : m % 2 ^ 15 < 256) : bitsN m 8 7 = 0 ∧ bitsN m 0 8 = m % 2 ^ 15 := by
  simp only [bitsN]
  omega

section
variable {s : State} {c e : Nat} {f : FormA} {tables : List (List (BitVec 16))}

theorem decReady_mx (h1 : 0x0A ≤ fmtCode f) (h2 : fmtCode f ≤ 0x0F) (hm : f.mod.toNat % 2 ^ 15 = 0) (he : e % blockElems (fmtCode f) = 0) :
    DecReady s c f e [] := by
  obtain ⟨hmod, hslot⟩ := mod_fields (m := f.mod.toNat) (by omega)
  have hcb : ¬(fmtCode f = 0x10 ∨ fmtCode f = 0x11) := by omega
  refine ⟨h1, by omega, hmod, .inr (.inr (hslot.trans hm)), ?_, decTables_none hcb .., fun h => absurd h hcb⟩
  rwa [decMultiple, if_neg (by omega)]

theorem decReady_tern (hc : fmtCode f = 0x12) (hm : f.mod.toNat % 2 ^ 15 = 0) (he : e % 16 = 0) : DecReady s c f e [] := by
  obtain ⟨hmod, hslot⟩ := mod_fields (m := f.mod.toNat) (by omega)
  have hcb : ¬(fmtCode f = 0x10 ∨ fmtCode f = 0x11) := by omega
  refine ⟨by omega, by omega, hmod, .inr (.inr (hslot.trans hm)), ?_, decTables_none hcb .., fun h => absurd h hcb⟩
  rwa [decMultiple, if_pos hc]

theorem decReady_codebook {d : Desc} (hc : fmtCode f = 0x10 ∨ fmtCode f = 0x11) (hm : f.mod.toNat % 2 ^ 15 < 256)
    (he : e % blockElems (fmtCode f) = 0) (hd : (s.core c).td[f.mod.toNat % 2 ^ 15]? = some d) (hf : d.format = fmtCode f)
    (ht : d.tableSet ≠ 0xFFFF) (hcalm : s.calm = true) : DecReady s c f e (s.tables d.tableSet) := by
  obtain ⟨hmod, hslot⟩ := mod_fields hm
  refine ⟨by omega, by omega, hmod, by omega, ?_, ?_, fun _ => hcalm⟩
  · rwa [decMultiple, if_neg (by omega)]
  · rw [decTables, if_pos hc, hslot, hd]
    dsimp only
    rw [if_neg (by simp [hf, ht])]

theorem decodeInvalid_ctr (s : State) (c n : Nat) : ∃ m : NMap W64, s.decodeInvalid c n = { s with ctr := m } := by
  unfold State.decodeInvalid
  split
  · exact ⟨s.ctr, rfl⟩
  · exact bump_ctr ..

/-- CVT.DEC that reads its blocks at once in the core's scratchpad. -/
theorem exec_cvtDec {base addr n : Nat} {bs : List Byte} (hr : ScalarReady s c f.pred f.pneg) (h3 : f.src3 = 0)
    (hf : f.func = 0) (hd : f.dst.toNat < 32) (h1 : f.src1.toNat < 32) (h2 : f.src2.toNat < 32) (h : DecReady s c f e tables)
    (hb : base = ((s.core c).sreg f.src1.toNat).toNat) (he : e = ((s.core c).sreg f.src2.toNat).toNat) (hsp : base / 2 ^ 60 = 1)
    (hin : base % 2 ^ 60 + e / blockElems (fmtCode f) * blockBytes (fmtCode f) < 2 ^ 60)
    (ha : addr = base + e / blockElems (fmtCode f) * blockBytes (fmtCode f))
    (hn : n = ((e % blockElems (fmtCode f) + 63) / blockElems (fmtCode f) + 1) * blockBytes (fmtCode f))
    (hread : s.plainRead c addr n false = some bs) (hv : f.dst.toNat ∉ (s.core c).vPending) :
    exec (.cvtDec (.core c) f) s = .next
      ((((s.useDesc c (fmtCode f) (bitsN f.mod.toNat 0 8)).decodeInvalid c (decodeRun (fmtCode f) tables bs e).2).bump 0x02 c 0 1).retireWith
        c fun x => x.setV f.dst.toNat (ofLanes fun i => toF32 ((decodeRun (fmtCode f) tables bs e).1.getD i .nan))) := by
  subst hb he
  have haddr : ((s.core c).sreg f.src1.toNat).toNat / 2 ^ 60 * 2 ^ 60 + (((s.core c).sreg f.src1.toNat).toNat % 2 ^ 60 +
      ((s.core c).sreg f.src2.toNat).toNat / blockElems (fmtCode f) * blockBytes (fmtCode f)) = addr := by
    rw [ha, ← Nat.add_assoc, Nat.div_add_mod']
  have hspace : addr / 2 ^ 60 = 1 := by
    rw [← haddr, hsp]
    omega
  obtain ⟨hrow, hload⟩ := plainRead_space1 hspace hread
  have hlocal : localSpace ((s.core c).sreg f.src1.toNat).toNat = true := by simp [localSpace, hsp, -Nat.reducePow]
  show execCvtDec (.core c) f s = _
  unfold execCvtDec
  rw [issueScalar_core hr (by simpa [regOk, h1, h2, h3, hf, hd, h.low, h.high, h.mod, or_assoc] using h.slot)]
  dsimp only
  rw [whenFree_free (by simp) (by simpa using hv), hlocal, h.multiple, h.tables, haddr, if_pos hin, ← hn, unitLoc_space1 hspace,
    hrow.resolves]
  simp only [State.load, hrow.waits, hload, Bool.not_true, Bool.false_eq_true, if_false, ne_eq, not_true_eq_false]
  rfl

end

theorem decodeRun_lane (code : Nat) (tables : List (List (BitVec 16))) (bs : List Byte) (e : Nat) {i : Nat} (hi : i < 64) :
    (decodeRun code tables bs e).1.getD i .nan = blockElem code tables
      ((bs.drop ((e % blockElems code + i) / blockElems code * blockBytes code)).take (blockBytes code))
      ((e % blockElems code + i) % blockElems code) := by
  simp [decodeRun, List.getD, hi]

theorem blockConversions_claim : Claim.BlockConversions := by
  rintro s c f code hr h3 hf rfl h1 h2
  rw [← fmtCode_eq]
  refine ⟨?_, ?_⟩
  · rintro addr bs off hd hlo hhi hm ha hsp rfl hw hv
    exact ⟨_, exec_cvtEnc hr h3 hf h1 h2 hd hlo hhi hm ha hsp hw hv, cvtEnc_effect ..⟩
  · rintro base e per size addr n bs tables hd rfl rfl hsel hb he hsp hin ha hn hread hv
    have hready : DecReady s c f e tables := by
      obtain ⟨hlo, hhi, hm, hmul, rfl⟩ | ⟨hc, hm, hmul, rfl⟩ | ⟨hc, hm, hmul, d, htd, hfmt, hset, rfl, hcalm⟩ := hsel
      · exact decReady_mx hlo hhi hm hmul
      · exact decReady_tern hc hm hmul
      · exact decReady_codebook hc hm hmul htd hfmt hset hcalm
    have hspace : base / 2 ^ 60 = 1 := by
      rcases hsp with hsp | hsp
      · exact hsp
      · rw [plainRead_space2 (by omega)] at hread
        cases hread
    have htables := (tablesRead_useDesc hready.calm c (bitsN f.mod.toNat 0 8)).counted
      (ctr_trans (decodeInvalid_ctr _ c (decodeRun (fmtCode f) tables bs e).2) (bump_ctr _ 0x02 c 0 1))
    exact ⟨_, exec_cvtDec hr h3 hf hd h1 h2 hready hb he hspace hin ha hn hread hv,
      htables.writesV fun l hl => by rw [decodeRun_lane _ _ _ _ hl]⟩

/-- Settles O12: CVT writes its section of packed elements, CVT.ENC stores its two blocks, and CVT.DEC decodes what a plain read
answers. -/
theorem conversions : Obligations.Conversions := ⟨elementConversions_claim, blockConversions_claim⟩

end Sys2Proof.Machine
end
